-- ==== Sys2Proof/Word.lean ====
section
/-! DEFINITION. The word types of the block: bytes, 32-bit registers, 64-bit global addresses (04 R87, 00 R2). -/

namespace Sys2Proof

abbrev Byte := BitVec 8
abbrev Half := BitVec 16
abbrev Word := BitVec 32
abbrev Dword := BitVec 64

/-- A global address (R87): SPACE in [63:58], DEVICE in [57:41], OFFSET in [40:0]. -/
abbrev GAddr := BitVec 64

end Sys2Proof
end

