-- ==== Sys2Proof/Syntax.lean ====
section
/-! DEFINITION. The commands of the block: the operand types, and one constructor for each row of spec/opcode_table.json. What the
outside world supplies at a step (an error check's result, a sensor reading, a peer's answer) is an operand (log 1). -/

namespace Sys2Proof

/-- Who makes an access (R29, R239, R437, log 4). -/
inductive Requester where
  /-- The physical function of a host port. -/
  | hostPf (p : Fin 2)
  /-- A virtual function of a host port. -/
  | hostVf (p : Fin 2) (v : Fin 256)
  /-- The management port, inside an SPDM secured session or not. -/
  | mgmt (secured : Bool)
  /-- Castor and Pollux. -/
  | supervisor
  /-- A cluster, by physical number. -/
  | cluster (c : Fin 152)
  | sequencer
  /-- The KV manager, on behalf of a tenant, or on maintenance (none). -/
  | kvm (tenant : Option (Fin 1024))
  | loader
  /-- A remote part, by device number, on behalf of a tenant, or of a requester that R239 does not check (none). -/
  | fabric (dev : BitVec 17) (tenant : Option (Fin 1024))
  deriving DecidableEq, Repr

/-- The result of the error check of a read (R104). -/
inductive Ecc where
  | clean
  | corrected
  | uncorrectable
  deriving DecidableEq, Repr

/-- Atomic operations (Table 4.11). -/
inductive AtomicOp where
  | add | and | or | xor | smin | smax | umin | umax | swap | cas
  deriving DecidableEq, Repr

/-- Formats of an indexed reduction (R113, "Indexed reductions"). -/
inductive RedFormat where
  | fp32 | int32 | int64 | raw
  deriving DecidableEq, Repr

/-- One contribution of an indexed reduction: a whole line of partials. -/
structure Contribution where
  format : RedFormat
  index : BitVec 16
  count : BitVec 16
  accum : Bool
  completion : Option GAddr
  data : BitVec 512
  poison : Bool
  deriving DecidableEq, Repr

/-- The accesses that a home slice, a scratchpad port, a host window or a remote part serves (Table 4.2). -/
inductive AccessKind where
  | lineRead
  | lineWrite (data : BitVec 512) (poison : Bool)
  /-- Stores of less than a line: the bytes from the address on, within the line. -/
  | partialStore (data : List Byte) (poison : Bool)
  | meteorRead
  | meteorWrite (data : BitVec 256) (poison : Bool)
  /-- A naturally aligned 32-bit or 64-bit (wide) atomic, and whether its operands carry poison. -/
  | atomic (op : AtomicOp) (wide : Bool) (operand compare : BitVec 64) (poison : Bool)
  | contribute (c : Contribution)
  | reduceCancel
  deriving DecidableEq, Repr

/-- A fabric packet (Table 12.3): its header fields, and the bytes of its further slots. The kind (OPC) is the command's. -/
structure Packet where
  opc : Nat
  poison : Bool
  unchk : Bool
  tag : BitVec 16
  src : BitVec 17
  dst : BitVec 17
  tenant : Fin 1024
  space : BitVec 6
  offset : BitVec 41
  arg : BitVec 11
  body : List Byte
  deriving DecidableEq, Repr

/-- A store of Castor and Pollux held until a checkpoint (R357), or a change they make to the tenant boundary table (R239, log 16). -/
inductive SupStore where
  | line (addr : GAddr) (data : BitVec 512)
  | unit (index : Nat) (tenant : Option Nat)
  | window (l : Nat) (tenant : Option Nat)
  deriving DecidableEq, Repr

/-- A bank-pair unit: stack, channel, pseudo-channel and pair (Table 4.4). -/
structure PairRef where
  stack : Fin 12
  chan : Fin 64
  pc : Fin 2
  pair : Fin 8
  deriving DecidableEq, Repr

/-- An MSI-X mask or enable of a function (R431). -/
inductive MsixBit where
  | vector (v : BitVec 11)
  | functionMask
  | enable
  deriving DecidableEq, Repr

/-- First-stage firmware as a source delivers it (R372): what its header names, its signature block and its body. -/
structure Firmware where
  slot : Fin 4
  gen : BitVec 64
  /-- Boot-flash offset of the stored training parameters (R423). -/
  params : BitVec 64
  block : List Byte
  body : List Byte
  deriving DecidableEq, Repr

/-- What a boot phase finds (R421 to R424). -/
structure BootReport where
  flash : Option Firmware
  /-- What a host delivers within 5 s, and on which port. -/
  host : Option Firmware
  hostPort : Fin 2
  /-- The conditions of R365 are met within 5 s. -/
  conditions : Bool
  /-- Every hub group, or base die and slice, passes its test. -/
  groupsOk : Bool
  /-- Bank-pair units and clusters that fail. -/
  badUnits : List PairRef
  badClusters : List (Fin 152)
  /-- Every stack passes full training. -/
  trained : Bool
  /-- DRAM serials and diode readings of the stacks. -/
  stackSerials : List Nat
  diodes : List Int
  /-- The full image in boot flash, where it can be read. -/
  image : Option (List Byte)
  deriving DecidableEq, Repr

/-- An entry in flight of a clock-crossing FIFO (R413). -/
inductive FifoEntry where
  | mmioRead (who : Requester) (off : BitVec 27) (wide : Bool)
  | windowRead (who : Requester)
  | write
  deriving DecidableEq, Repr

/-- A claim and complete register pair (Table 17.5). -/
inductive ClaimReg where
  | supervisor
  | management
  | vector (v : Fin 2048)
  deriving DecidableEq, Repr

/-- The events that reset the functions of a host port (Table 17.2). -/
inductive HostReset where
  | fundamental
  | hot
  | linkDown
  deriving DecidableEq, Repr

/-- A component of a PLDM Type 5 update (Table 17.4). The supervisor firmware and the image lie at a boot-flash offset once written. -/
inductive PldmComponent where
  | firmware (f : Firmware)
  | supervisor (offset : BitVec 64) (bytes : BitVec 29)
  | image (offset : BitVec 64) (bytes : BitVec 29)
  deriving DecidableEq, Repr
/-- The commands of the block, one constructor for each row of the opcode table. -/
inductive Instr where
  /-- MMIO_OFFENDING_ACCESS (R2): An MMIO access of wrong size or alignment, or to an undefined offset, has no effect, reads zero and is captured in HUB_MMIO_ERR_ADDR and HUB_MMIO_ERR_CNT. -/
  | mmioOffendingAccess (who : Requester) (off : BitVec 41) (size : Nat) (write : Bool) (value : BitVec 64)
  /-- READ_LO_SNAPSHOT (R4): A read of the _LO half of a 64-bit counter or position pair copies the _HI half into the shadow. -/
  | readLoSnapshot (who : Requester) (off : BitVec 41) (wide : Bool)
  /-- READ_CLEAR (R5): A read of an RC field returns its value and then clears it. -/
  | readClear (who : Requester) (off : BitVec 41) (wide : Bool) (unstable : Bool)
  /-- REGISTER_WRITE (R5): A write to a register that has no row of its own applies the RW, W1C, W1S and WO codes of Table 0.2 to its fields. -/
  | registerWrite (who : Requester) (off : BitVec 41) (wide : Bool) (value : BitVec 64)
  /-- ALIAS_ACCESS_RELEASE (R24): An access held at an alias block while its logical cluster moves proceeds once the new physical cluster has resumed the context. -/
  | aliasAccessRelease (l : Fin 144) (remote : Option (BitVec 512))
  /-- IMG_START (R57): A write of 1 to IMG_CTRL.START starts an image load from IMG_SRC and IMG_LEN. -/
  | imgStart (who : Requester) (srcKind : BitVec 2)
  /-- IMG_ABORT (R57): A write of 1 to IMG_CTRL.ABORT ends a load before its switch with code ABORTED. -/
  | imgAbort (who : Requester) (srcKind : BitVec 2)
  /-- IMG_VERIFY_END (R37): When the image has been fetched, the loader runs its checks in order and either fails the load or enters prepare. -/
  | imgVerifyEnd (fetched : Option (List Byte))
  /-- IMG_GRANULE_MOVE (R53): During prepare of a stack-scope load, the loader moves one 256-byte granule along the permutation cycle at no more than IMG_MIGRATE.RATE. -/
  | imgGranuleMove (g : BitVec 33) (ecc : Ecc)
  /-- IMG_GRANULE_MOVE_BACK (R53): When a stack-scope load ends before its switch, the loader moves one moved granule back to its old location. -/
  | imgGranuleMoveBack (g : BitVec 33)
  /-- HELD_GRANULE_ACCESS (R53): An access that waits at its home slice for a granule in the holding buffer proceeds once the granule has been written. -/
  | heldGranuleAccess
  /-- IMG_SWITCH (R51): Between two step commits, the new structure of a load takes effect together and the load can no longer be aborted. -/
  | imgSwitch
  /-- IMG_RELEASE_END (R52): The release phase completes, new CON blocks appear and IMG_STATUS.STATE becomes done. -/
  | imgReleaseEnd
  /-- HASH_PROBE (R97): A write of HUB_HASH_PROBE_HI starts a lookup of the probed hashed offset. -/
  | hashProbe (who : Requester) (offset : BitVec 41)
  /-- HASH_LOOKUP_DONE (R97): The hash lookup ends and HUB_HASH_RESULT holds the location, releasing any held read of it. -/
  | hashLookupDone
  /-- ZFILL_START (R103): A write of 1 to HUB_ZFILL_CTRL.START starts a zero-fill, or fails it at once or refuses it with ERR 1 to 3. -/
  | zfillStart (who : Requester)
  /-- ZFILL_ABORT (R103): A write of 1 to HUB_ZFILL_CTRL.ABORT ends a running zero-fill with ERR 4. -/
  | zfillAbort (who : Requester)
  /-- ZFILL_GRANULE_CLEAR (R102): In each bank cycle, each stack clears the written-map bit of its next granule in the zero-fill range and cancels its background fill. -/
  | zfillGranuleClear (stack : Fin 12)
  /-- LINE_READ (R112): A 64-byte line read is served at its home slice, hitting or fetching from the stack. -/
  | lineRead (who : Requester) (addr : GAddr) (ecc : Ecc)
  /-- LINE_WRITE (R112): A line write allocates in its home slice without reading the stack, writing both copies of a mirrored line. -/
  | lineWrite (who : Requester) (addr : GAddr) (data : BitVec 512) (poison : Bool)
  /-- BACKGROUND_FILL_LINE (R100): The base die writes zeros to one line of a queued granule that no other write has reached. -/
  | backgroundFillLine (channel : Fin 768) (granule : BitVec 19) (line : Fin 64)
  /-- PARTIAL_STORE (R112): A store of less than a line fetches its line into the home slice on a miss and then merges the store. -/
  | partialStore (who : Requester) (addr : GAddr) (data : List Byte) (poison : Bool) (ecc : Ecc)
  /-- METEOR_READ (R109): A 32-byte meteor read is served by the home slice on a hit or by the stack on a miss. -/
  | meteorRead (who : Requester) (addr : GAddr) (ecc : Ecc)
  /-- METEOR_WRITE (R110): A 32-byte meteor write is acknowledged when the base die accepts it. -/
  | meteorWrite (who : Requester) (addr : GAddr) (data : BitVec 256) (poison : Bool)
  /-- METEOR_RMW (R104): The base die performs the read-modify-write of an accepted meteor write, poisoning the line if the read is uncorrectable. -/
  | meteorRmw (channel : Fin 768) (ecc : Ecc)
  /-- WINDOW_ACCESS (R91): An access to a cluster's scratchpad window is served at that scratchpad port within its share of port cycles. -/
  | windowAccess (who : Requester) (addr : GAddr) (kind : AccessKind) (ecc : Ecc)
  /-- ATOMIC_OP (R113): The home slice executes an atomic operation of Table 4.11 on an aligned word and returns the old value. -/
  | atomicOp (who : Requester) (addr : GAddr) (op : AtomicOp) (wide : Bool) (operand compare : BitVec 64) (ecc : Ecc)
  /-- RED_CONTRIBUTION (R114): The home slice accepts, parks, merges or refuses one contribution of an indexed reduction. -/
  | redContribution (who : Requester) (addr : GAddr) (c : Contribution)
  /-- RED_RETRY_RESEND (R115): A contribution refused with RETRY is resent 64 core cycles later. -/
  | redRetryResend
  /-- REDUCE_CANCEL (R115): A REDUCE_CANCEL discards an open reduction's partials and leaves the line unchanged. -/
  | reduceCancel (who : Requester) (addr : GAddr)
  /-- STK_CMD_FORWARD (R126): The stack controller forwards a waiting command to its channel queue once an entry and PLEN payload lines are free, round-robin among issuers. -/
  | stkCmdForward (stack : Fin 12) (channel : Fin 64)
  /-- STK_NOP (R122): Stack command NOP does nothing, or acts as a channel fence with FENCE. -/
  | stkNop (u : PairRef)
  /-- ROW_INIT (R122): Stack command ROW_INIT fills row C with the 8-byte pattern. -/
  | rowInit (u : PairRef)
  /-- ROW_COPY (R127): Stack command ROW_COPY copies row A to row C. -/
  | rowCopy (u : PairRef) (bad : Bool)
  /-- ROW_AND (R122): Stack command ROW_AND writes row A AND row B to row C. -/
  | rowAnd (u : PairRef) (badA badB : Bool)
  /-- ROW_OR (R122): Stack command ROW_OR writes row A OR row B to row C. -/
  | rowOr (u : PairRef) (badA badB : Bool)
  /-- ROW_XOR (R122): Stack command ROW_XOR writes row A XOR row B to row C. -/
  | rowXor (u : PairRef) (badA badB : Bool)
  /-- ROW_NOT (R122): Stack command ROW_NOT writes NOT row A to row C. -/
  | rowNot (u : PairRef) (bad : Bool)
  /-- ROW_READ (R129): Stack command ROW_READ writes row A as 16 lines to DEST with fresh check bytes. -/
  | rowRead (u : PairRef) (bad : BitVec 32)
  /-- ROW_WRITE (R122): Stack command ROW_WRITE writes its 16 payload lines into row C. -/
  | rowWrite (u : PairRef)
  /-- KV_APPEND (R134): Stack command KV_APPEND writes one token's key and value into a page slot and updates the checksum rows exactly. -/
  | kvAppend (u : PairRef) (bad : Option (Fin 66))
  /-- QLOAD (R130): Stack command QLOAD loads one query vector and its parameters into a query slot. -/
  | qload (u : PairRef)
  /-- ATTEND (R118): Stack command ATTEND computes a page partial for each named query slot and places it in a held entry. -/
  | attend (u : PairRef) (bad : Option (Fin 66)) (fault : Bool)
  /-- HELD_FLUSH_RETRY (R119): A held entry refused by the reducer is offered again every 64 bank cycles. -/
  | heldFlushRetry (u : PairRef)
  /-- RSETUP (R135): Stack command RSETUP opens a reduction at the stack reducer. -/
  | rsetup (u : PairRef)
  /-- RCANCEL (R135): Stack command RCANCEL discards a reduction and closes its RID. -/
  | rcancel (u : PairRef)
  /-- REDUCER_BLOCK_ACCEPT (R136): The stack reducer checks, parks or merges one offered block of a reduction. -/
  | reducerBlockAccept (u : PairRef) (fault : Bool)
  /-- NO_RID_DISCARD (R137): A block refused for an unopened RID for 65,536 bank cycles is discarded with status NO_RID. -/
  | noRidDiscard (u : PairRef)
  /-- BANK_REFRESH (R105): A bank starts its refresh when the bank-cycle count reaches its phase within tREFI. -/
  | bankRefresh (stack : Fin 12) (bank : Fin 32)
  /-- DIE_TEMP_READ (R142): Every 10 µs the base die reads each core die's temperature and applies the activation and refresh steps. -/
  | dieTempRead (stack : Fin 12) (temps : List Int)
  /-- THROTTLE_GROUP_START (R144): At the start of each group of 16 windows the stack applies its current throttle level. -/
  | throttleGroupStart (stack : Fin 12)
  /-- PROCESSOR_MODE_ENTRY (R145): A core die entering processor mode drains its queues, sets its PMASK bit and resets its units. -/
  | processorModeEntry (stack : Fin 12) (die : Fin 16)
  /-- PROCESSOR_MODE_EXIT (R146): A core die leaving processor mode refuses commands with MODE, drains and clears its PMASK bit. -/
  | processorModeExit (stack : Fin 12) (die : Fin 16)
  /-- DIE_MAP_CLEAR_DONE (R145): The die's written-map bits are cleared and its bank pairs are reported free to the KV manager. -/
  | dieMapClearDone (stack : Fin 12) (die : Fin 16)
  /-- ARRAY_STEP (R160): In each step slot a whole reduction step enters the array, or a bubble enters in its place. -/
  | arrayStep (c : Fin 152) (thin : Bool)
  /-- TILE_ADMIT (R155): A tile is admitted into its bank once the bank's previous tile has drained and every earlier tile has been admitted. -/
  | tileAdmit (c : Fin 152) (thin : Bool)
  /-- PRELOAD_END (R157): The preload of a CONT tile ends and the tile becomes admissible. -/
  | preloadEnd (c : Fin 152) (thin : Bool)
  /-- TILE_LAST_PRODUCT (R154): A tile's last product completes F core cycles after its streaming ends. -/
  | tileLastProduct (c : Fin 152) (thin : Bool) (bank : Fin 4)
  /-- DRAIN_START (R156): The drain starts on a completed tile in completion order when the drain port is free. -/
  | drainStart (c : Fin 152)
  /-- DRAIN_READ_END (R156): The drain read time ends and the tile's bank becomes free. -/
  | drainReadEnd (c : Fin 152)
  /-- STATUS_WORD_DELIVER (R170): After the checksum comparison the drain delivers the tile's status word to the drain queue. -/
  | statusWordDeliver (c : Fin 152) (fails : Fin 3)
  /-- OPERAND_HALF_ARRIVE (R162): A 32-byte half of an operand line arrives in its skid slot, validating the line when both halves are present. -/
  | operandHalfArrive (c : Fin 152) (stream : Fin 4) (line : BitVec 58) (hi : Bool) (ecc : Ecc)
  /-- HALF_LINE_TIMEOUT (R163): A line whose second half has not arrived after 16,384 core cycles is released poisoned. -/
  | halfLineTimeout (c : Fin 152) (stream : Fin 4) (line : BitVec 58)
  /-- ACTIVITY_LEVEL_STEP (R164): Every 4 core cycles of ramp the array activity level rises or falls by 1. -/
  | activityLevelStep (c : Fin 152)
  /-- FREEZE_MODE_APPLY (R161): A requested freeze mode is copied to FREEZE_ACT at the next core cycle with no tile in the array. -/
  | freezeModeApply (c : Fin 152)
  /-- PREEMPT_REQUEST (R173): A pre-emption request stops tile admission and word issue on a cluster. -/
  | preemptRequest (c : Fin 152)
  /-- TILE_BOUNDARY (R173): The last admitted tile completes its last product and the cluster reaches a tile boundary. -/
  | tileBoundary (c : Fin 152)
  /-- WORD_ISSUE (R177): A wide word issues when every register, queue and descriptor condition of its enabled slots holds. -/
  | wordIssue (c : Fin 152) (fetchEcc dataEcc : Ecc) (late : Bool) (remote : Option (BitVec 512))
  /-- DMA_COMPLETE (R194): A DMA's last write completes and its completion count is incremented. -/
  | dmaComplete (c : Fin 152) (index : Nat) (ecc : Ecc)
  /-- LOAD_COMPLETE (R225): A load's data reaches its register and clears the pending write. -/
  | loadComplete (c : Fin 152) (index : Nat)
  /-- LAUNCH_QUEUE_ENTER (R206): A held Q-slot launch is entered once every queue it needs has room. -/
  | launchQueueEnter (c : Fin 152) (remote : Option (BitVec 512))
  /-- CLU_LAUNCH_WRITE (R184): An aligned write to CLU_LAUNCH or CON_LAUNCH enters a launch or refuses it. -/
  | cluLaunchWrite (who : Requester) (block : BitVec 11) (addr : GAddr) (remote : Option (BitVec 512))
  /-- LAUNCH_START (R185): A queued launch starts when the previous launch has ended and ERR is 0, loading its initial core state. -/
  | launchStart (c : Fin 152)
  /-- LAUNCH_END (R185): A launch ends at HALT or a fault, adding 1 to CPL_ADDR after its last drain when CPL is set. -/
  | launchEnd (c : Fin 152)
  /-- CLU_ICINV_WRITE (R182): A write of 1 to CLU_ICTRL.ICINV invalidates the cluster's instruction cache. -/
  | cluIcinvWrite (who : Requester) (block : BitVec 11)
  /-- TINV_START (R238): A write of START to HUB_TINV_CTRL starts an invalidation of cached table entries of the named kind. -/
  | tinvStart (who : Requester) (kind : BitVec 2)
  /-- TINV_DONE (R238): Every cache has dropped the matching entries and old translations have completed, so DONE is set. -/
  | tinvDone
  /-- KVM_ATT_WRITE (R249): An aligned 64-bit write to KVM_ATT_LO enters an attention request, held while the queue is full. -/
  | kvmAttWrite (who : Requester) (addr : GAddr)
  /-- KVM_REQUEST_ACCEPT (R251): The KV manager accepts a request, checks it and places the pages its appends need. -/
  | kvmRequestAccept (remote : List (BitVec 512))
  /-- KVM_DISPATCH (R253): In each hub cycle the dispatcher issues at most one command of a request to each lit stack, highest bucket first. -/
  | kvmDispatch (stack : Fin 12) (remote : List (BitVec 512))
  /-- KVM_REQUEST_COMPLETE (R251): When every append and RSETUP of a request has completed, 1 is added to its CPL. -/
  | kvmRequestComplete (remote : List (BitVec 512))
  /-- FRAME_ZEROED (R244): All rows of a freed frame have been written to zero and the frame returns to the free pool. -/
  | frameZeroed (pair : Fin 8192) (frame : Fin 65536)
  /-- SWAP_OUT_START (R269): The next queued swap-out starts and marks its sequence pre-empted. -/
  | swapOutStart
  /-- SWAP_PAGE_OUT (R269): The encrypted writes of one page complete, its entry becomes STATE 4 and its frame goes to zeroing. -/
  | swapPageOut (bad : Bool)
  /-- SWAP_IN_PAGE (R271): One swapped page is read, decrypted, checked, placed and written back as STATE 1. -/
  | swapInPage (rows : Option (List Byte))
  /-- SUBQ_DOORBELL (R280): A write to SEQ_SUBQ_TAILn posts new submission entries. -/
  | subqDoorbell (who : Requester) (l : Fin 256) (tail : BitVec 32)
  /-- SUBMISSION_READ (R280): At each admission, or every 64 meridian slots while idle, the sequencer applies submission entries up to the tail. -/
  | submissionRead (l : Fin 256) (supply : List (List Byte × List Byte × BitVec 41))
  /-- STEP_ADMIT (R283): At a permitted slot boundary the sequencer builds a batch and writes the step record. -/
  | stepAdmit (l : Fin 256) (heads : List (Nat × Nat × Nat))
  /-- STEP_LAUNCH (R285): The step record is written and the step program is launched on the loop's constellation. -/
  | stepLaunch (l : Fin 256)
  /-- SAMPLE (R287): When the step's launch ends, the sampler draws tokens from every result block. -/
  | sample (l : Fin 256) (lasts : List (Nat × BitVec 32))
  /-- COMMIT_CHECK (R289): After sampling and the previous commit, the step's commit checks run and fix-up requests are posted. -/
  | commitCheck (l : Fin 256)
  /-- COMMIT_POINT (R291): When every fix-up has completed the step commits and the sequencer writes descriptors, updates, rings and SEQ_STEPn in order. -/
  | commitPoint (l : Fin 256)
  /-- SHADOW_ROOM_WAIT (R334): A writer that lacks room in the log reads HEAD again until room appears or shadowing is lost. -/
  | shadowRoomWait (head : Option (BitVec 64))
  /-- REPLAY_LAUNCH (R293): At the next slot boundary after its recoveries, a discarded step is launched again with the same record. -/
  | replayLaunch (l : Fin 256)
  /-- LOOP_RESTART (R293): A write of 1 to SEQ_LCTRLn.RESTART resumes a stopped loop. -/
  | loopRestart (who : Requester) (l : Fin 256)
  /-- LOOP_SWITCH (R303): After the outgoing loop's last launch ends, the shared clusters pass to the next loop and contexts are swapped. -/
  | loopSwitch (l : Fin 256) (heads : List (Nat × Nat × Nat))
  /-- CONTEXT_SAVE (R304): Each leaf's scratchpad and record are saved to the save area as a long operation. -/
  | contextSave
  /-- CONTEXT_RESTORE (R304): Each leaf's context is restored from the save area. -/
  | contextRestore (l : Fin 256)
  /-- LOOP_PREEMPT (R305): A PREEMPT loop whose window opens pre-empts a running step of a loop sharing its clusters. -/
  | loopPreempt (l : Fin 256)
  /-- WINDOW_ARM (R307): A write of 1 to SEQ_WINCTRLn.ARM arms a one-shot window or resolves it at once as EMPTY or LATE. -/
  | windowArm (who : Requester) (l : Fin 256)
  /-- WINDOW_OPEN (R307): The meridian count reaches the start of an armed window and STATUS reads open. -/
  | windowOpen (l : Fin 256)
  /-- WINDOW_DONE (R307): The meridian count passes STOP and the one-shot window disarms with DONE. -/
  | windowDone (l : Fin 256)
  /-- EMPTY_WINDOW_PERIOD (R306): At each template period an empty window advances SEQ_EMPTY. -/
  | emptyWindowPeriod (w : BitVec 12)
  /-- QUOTA_STEP_BOUNDARY (R302): At a tenant's step boundary the KV manager frees up to 64 frames of a tenant over its quota. -/
  | quotaStepBoundary (t : Fin 1024)
  /-- TOKSHARE_BOUNDARY (R302): At each 1 ms meridian boundary a tenant's token share resets and a new value applies. -/
  | tokshareBoundary (t : Fin 1024)
  /-- FAB_DEVID_WRITE (R336): A write to FAB_DEVID sets the device number and VALID while every port is disabled. -/
  | fabDevidWrite (who : Requester) (dev : BitVec 17)
  /-- PORT_ENABLE_WRITE (R337): A write to FAB_PORT_CTRLp.EN enables or disables a port permitted by its role entry. -/
  | portEnableWrite (who : Requester) (p : Fin 18) (en : Bool)
  /-- PORT_TRAIN (R311): An enabled port trains to the widest width and highest rate both ends support. -/
  | portTrain (p : Fin 18) (lo hi slow : Bool)
  /-- PORT_TRAIN_RETRY (R311): A port not UP within 100 ms retries training every 100 ms. -/
  | portTrainRetry (p : Fin 18)
  /-- LINK_SESSION_ESTABLISH (R315): Both ends establish an SPDM secured session over virtual channel 2 and derive the link keys. -/
  | linkSessionEstablish (p : Fin 18)
  /-- FLIT_RECEIVE (R313): A received flit is checked for CRC and tag and accepted in sequence order or rejected with a NAK. -/
  | flitReceive (p : Fin 18) (flit : List Byte)
  /-- ACK_TIMEOUT (R314): No ACK advance for 10 µs with flits unacknowledged starts a retrain. -/
  | ackTimeout (p : Fin 18)
  /-- PORT_RETRAIN_WRITE (R337): A write of 1 to FAB_PORT_CTRLp.RETRAIN starts a retrain. -/
  | portRetrainWrite (who : Requester) (p : Fin 18)
  /-- PORT_RETRAIN_END (R314): A retrain completes and resends unacknowledged flits, or fails and the port goes DOWN. -/
  | portRetrainEnd (p : Fin 18) (lo hi slow : Bool)
  /-- REKEY (R315): A write of FAB_PORT_CTRLp.REKEY, or 2^40 flits in a direction, rekeys the link. -/
  | rekey (who : Requester) (p : Fin 18)
  /-- RD_BURST (R316): Packet RD_BURST requests 32 bytes from a remote home point. -/
  | rdBurst (packet : Packet) (ecc : Ecc)
  /-- RD_LINE (R316): Packet RD_LINE requests a 64-byte line from a remote home point. -/
  | rdLine (packet : Packet) (ecc : Ecc)
  /-- WR_BURST (R316): Packet WR_BURST writes 32 bytes at a remote home point. -/
  | wrBurst (packet : Packet)
  /-- WR_LINE (R316): Packet WR_LINE writes a 64-byte line at a remote home point. -/
  | wrLine (packet : Packet)
  /-- ATOMIC_PACKET (R322): Packet ATOMIC performs an atomic at the serving part once per (SRC, TAG). -/
  | atomicPacket (packet : Packet) (ecc : Ecc)
  /-- RED_PACKET (R321): Packet RED delivers a reduction contribution to the serving part's home slice. -/
  | redPacket (packet : Packet)
  /-- BULK_RD (R324): Packet BULK_RD reads up to 256 bytes from a remote home point. -/
  | bulkRd (packet : Packet)
  /-- BULK_WR (R324): Packet BULK_WR writes up to 256 bytes at a remote home point. -/
  | bulkWr (packet : Packet)
  /-- COLL_PULL (R328): Packet COLL_PULL asks a rank for lines of its input for a collective. -/
  | collPull (packet : Packet)
  /-- COLL_PUSH (R328): Packet COLL_PUSH delivers collective result lines to a rank's DST. -/
  | collPush (packet : Packet)
  /-- DATA (R321): Response DATA completes a remote read or atomic at the requester. -/
  | data (packet : Packet)
  /-- ACK (R321): Response ACK completes a remote write or contribution at the requester. -/
  | ack (packet : Packet)
  /-- ERR (R323): Response ERR fails a remote request with a code of Table 12.6. -/
  | err (packet : Packet)
  /-- MER (R330): Packet MER carries timestamps of a meridian exchange. -/
  | mer (packet : Packet)
  /-- REQUEST_TIMEOUT (R323): A remote request with no answer within FAB_CTRL.TIMEOUT ends with TIMEOUT. -/
  | requestTimeout (dst : BitVec 17) (tag : BitVec 16)
  /-- HELD_REQUEST_RELEASE (R319): Requests held at a change of eligible ports are sent once the old port's requests are answered or timed out. -/
  | heldRequestRelease
  /-- ANSWER_RECORD_EXPIRY (R322): A home point drops its kept answer to an ATOMIC or RED after 2 × FAB_CTRL.TIMEOUT. -/
  | answerRecordExpiry (src : BitVec 17) (tag : BitVec 16)
  /-- FAB_COLL_WRITE (R326): An aligned write to FAB_COLL_LO enters a collective descriptor, held while the queue is full. -/
  | fabCollWrite (who : Requester) (addr : GAddr)
  /-- COLLECTIVE_ACCEPT (R326): A rank accepts its collective descriptor and starts its pulls, reductions and pushes. -/
  | collectiveAccept
  /-- COLLECTIVE_COMPLETE (R328): Every line written or received into DST has completed and the rank adds 1 to CPL. -/
  | collectiveComplete (cid : BitVec 32)
  /-- BUDDY_ENABLE (R334): A write of FAB_BUDDY.EN from 0 to 1 restarts the shadow log at TAIL = 0. -/
  | buddyEnable (who : Requester) (dev : BitVec 17)
  /-- BUDDY_LOG_APPLY (R353): After a writer's loss the buddy applies the log up to its last COMMIT record and resumes the sequences. -/
  | buddyLogApply (work : BitVec 41)
  /-- MER_EXCHANGE (R330): Every 1 ms a fabric-disciplined part exchanges timestamps with its parent and steps or slews its count. -/
  | merExchange (t1 t2 t3 t4 : BitVec 64)
  /-- MER_PPS_EDGE (R329): An accepted rising edge of MER_PPS sets the meridian count to MER_SET and advances MER_SET by 10^9. -/
  | merPpsEdge
  /-- PPS_LOST (R338): No MER_PPS edge for 1.1 s while SRC is 1 sets PPS_LOST. -/
  | ppsLost
  /-- RAS_REREAD (R346): The RAS block rereads an uncorrectable hashed line once in a maintenance slot and restores stored poison from its region. -/
  | rasReread (bad : Bool) (source : Option (List Byte))
  /-- PAGE_REPAIR (R347): A KV page with poisoned columns is rebuilt from its checksum rows into a new frame. -/
  | pageRepair (lost : List (Nat × Nat))
  /-- ROW_TEST (R348): The base die tests a suspect row with complementary patterns in maintenance slots. -/
  | rowTest (fails : Bool)
  /-- PATROL_READ (R349): Patrol reads a written line or row so that each is read at least every 12 minutes. -/
  | patrolRead (row : Bool) (addr : BitVec 41) (ecc : Ecc)
  /-- SCRUB_START (R350): A write of 1 to RAS_SCRUB_CTRL.START starts a scrub, fails it with ERR 1 or refuses it with ERR 2. -/
  | scrubStart (who : Requester)
  /-- SCRUB_ABORT (R350): A write of 1 to RAS_SCRUB_CTRL.ABORT ends a running scrub with ERR 3. -/
  | scrubAbort (who : Requester)
  /-- SCRUB_READ (R350): A scrub reads its next written line at up to RATE and acts on errors as patrol does. -/
  | scrubRead (ecc : Ecc)
  /-- REGION_SELECT (R362): A write to RAS_RGN_SEL loads the selected region entry into the staging registers. -/
  | regionSelect (who : Requester) (index : Fin 64)
  /-- REGION_COMMIT (R362): A write of 1 to RAS_RGN_CTRL.COMMIT applies the staged region entry or refuses it. -/
  | regionCommit (who : Requester) (kind : BitVec 2)
  /-- CLUSTER_RETIRE (R354): A failing cluster is retired and its logical number and window move to a free spare. -/
  | clusterRetire (c : Fin 152)
  /-- FAILOVER_COPY_DONE (R354): The old scratchpad has been copied to the spare and the retirement record updated. -/
  | failoverCopyDone (l : Fin 144) (bad : List (BitVec 16 × List Byte))
  /-- UNIT_RETIRE (R355): A bank-pair unit failing checks twice in 1 s is retired and its pages moved. -/
  | unitRetire (u : PairRef)
  /-- CHECKPOINT (R357): At each commit point and at least every 100 µs, Castor and Pollux take a checkpoint and release their store buffer. -/
  | checkpoint (stores : List SupStore)
  /-- LOCKSTEP_MISMATCH (R358): A disagreement of Castor and Pollux or a duplicated hub block puts the part in device eclipse and starts recovery. -/
  | lockstepMismatch (pc : BitVec 64) (hub : Bool)
  /-- RECOVERY_RELEASE (R358): After restore and self-test, the safety sequencer releases eclipse and sets RECOVERED. -/
  | recoveryRelease
  /-- HUB_HEARTBEAT (R359): The hub sends each compute die a heartbeat every 1 µs. -/
  | hubHeartbeat (die : Fin 2)
  /-- HEARTBEAT_LOSS (R359): A die that receives no heartbeat for 100 µs enters die eclipse. -/
  | heartbeatLoss (die : Fin 2)
  /-- DIE_RECOVERY_END (R359): The safety sequencer retrains the link, resets the die's clusters, wakes its stacks and releases it. -/
  | dieRecoveryEnd (die : Fin 2) (sources : List (GAddr × List Byte))
  /-- DIE_LINK_LOST_TIMEOUT (R359): A hub link not recovered after 10 ms holds device eclipse and asserts FAULT_N. -/
  | dieLinkLostTimeout (die : Fin 2)
  /-- FAULT_INJECTION (R361): A checker is exercised by an injected fault and its block retired if it fails to flag it. -/
  | faultInjection (c : Option (Fin 152)) (u : Option PairRef) (flagged : Bool)
  /-- ROTATION_SLOT (R366): Every 9 s each compute die swaps its next cluster out to a spare and tests it. -/
  | rotationSlot (die : Fin 2) (volts locked : Bool)
  /-- CLUSTER_TEST_END (R368): A cluster's self-test ends and passes, is repeated, or fails the cluster. -/
  | clusterTestEnd (c : Fin 152) (ok : Bool)
  /-- UNIT_TEST_SLOT (R367): Every 600 ms each lit stack takes its next bank-pair unit out of service for test. -/
  | unitTestSlot (stack : Fin 12) (volts locked : Bool)
  /-- UNIT_TEST_END (R368): A unit's self-test ends, its query slots are restored and its commands resume, or it fails. -/
  | unitTestEnd (u : PairRef) (ok : Bool)
  /-- TEST_REFUSAL_RETRY (R365): A test refused for unmet conditions is retried after 1 s. -/
  | testRefusalRetry (volts locked : Bool)
  /-- BST_HOLD_EXPIRY (R380): BST_CTRL.HOLD clears 60 s after it was set. -/
  | bstHoldExpiry
  /-- BST_DIR_START (R380): A write of 1 to BST_DIR_CTRL.START starts a directed test, or is denied outside MANUFACTURE and RETURN. -/
  | bstDirStart (who : Requester) (value : BitVec 32) (volts locked : Bool)
  /-- BEHIND_CHECK (R369): A cluster or unit untested for more than 720 s sets BST_EVENT.BEHIND. -/
  | behindCheck
  /-- TESTER_PROVISIONING (R370): The tester provisions the UDS and fuses, moving BLANK to MANUFACTURE. -/
  | testerProvisioning
  /-- SEALING_COMMAND (R370): The JTAG sealing command moves MANUFACTURE to SEALED. -/
  | sealingCommand
  /-- UNLOCK_TOKEN (R371): A signed unlock token moves SEALED to FIELD-DEBUG, zeroising tenant keys, or is refused. -/
  | unlockToken (serial : BitVec 64) (target : BitVec 3) (count : BitVec 16) (slot : Fin 4) (block : List Byte)
  /-- RETURN_TOKEN (R371): A signed return token moves SEALED to RETURN, zeroising every key, or is refused. -/
  | returnToken (serial : BitVec 64) (target : BitVec 3) (count : BitVec 16) (slot : Fin 4) (block : List Byte)
  /-- DEFUNCT_COMMAND (R370): The DEFUNCT command destroys the UDS and moves the part to DEFUNCT. -/
  | defunctCommand
  /-- FLOOR_RAISE (R372): A write of SEC_FLOOR_SET_HI raises the rollback floor by blowing a fuse row. -/
  | floorRaise (who : Requester) (hi : BitVec 32)
  /-- GENERATE (R375): SEC_TKEY_CTRL.OP GENERATE installs a DRBG swap key for the selected tenant or is refused. -/
  | generate (who : Requester)
  /-- DESTROY (R375): SEC_TKEY_CTRL.OP DESTROY zeroises the selected tenant's swap key. -/
  | destroy (who : Requester)
  /-- IMPORT (R375): A vendor-defined SPDM message imports a tenant's swap key inside a matching secured session. -/
  | importKey (id : BitVec 32) (t : Fin 1024) (key : BitVec 512)
  /-- ALARM_RAISE (R377): A raised alarm source takes effect at its level, zeroising keys and entering eclipse at level 3. -/
  | alarmRaise (src : Fin 5) (die : Fin 15)
  /-- GET_VERSION (R374): SPDM GET_VERSION returns the supported versions. -/
  | getVersion
  /-- GET_CAPABILITIES (R374): SPDM GET_CAPABILITIES returns the responder's capabilities. -/
  | getCapabilities
  /-- NEGOTIATE_ALGORITHMS (R374): SPDM NEGOTIATE_ALGORITHMS selects the algorithms. -/
  | negotiateAlgorithms (offer : BitVec 4)
  /-- GET_DIGESTS (R374): SPDM GET_DIGESTS returns certificate chain digests. -/
  | getDigests
  /-- GET_CERTIFICATE (R374): SPDM GET_CERTIFICATE returns the chain ending in the Alias certificate. -/
  | getCertificate (slot : BitVec 4) (off len : BitVec 16)
  /-- CHALLENGE (R374): SPDM CHALLENGE proves identity with the Alias key. -/
  | challenge (nonce : BitVec 256) (ok : Bool)
  /-- GET_MEASUREMENTS (R374): SPDM GET_MEASUREMENTS returns the measurement blocks of Table 14.4. -/
  | getMeasurements (index : BitVec 8)
  /-- KEY_EXCHANGE (R374): SPDM KEY_EXCHANGE starts a secured session with ECDHE. -/
  | keyExchange (ok : Bool)
  /-- FINISH (R374): SPDM FINISH completes a secured session. -/
  | finish (id : BitVec 32) (owner : Option (BitVec 384)) (ok : Bool)
  /-- KEY_UPDATE (R374): SPDM KEY_UPDATE updates session keys. -/
  | keyUpdate (id : BitVec 32)
  /-- SPDM_HEARTBEAT (R374): SPDM HEARTBEAT keeps a session alive. -/
  | spdmHeartbeat (id : BitVec 32)
  /-- END_SESSION (R374): SPDM END_SESSION ends a secured session. -/
  | endSession (id : BitVec 32)
  /-- PWR_REQ_WAKE (R383): A PWR_REQ write with STATE 0 queues a wake request. -/
  | pwrReqWake (who : Requester) (save : Bool) (kind : BitVec 2) (index : BitVec 10)
  /-- PWR_REQ_DUSK (R383): A PWR_REQ write with STATE 1 queues a DUSK request. -/
  | pwrReqDusk (who : Requester) (save : Bool) (kind : BitVec 2) (index : BitVec 10)
  /-- PWR_REQ_NIGHT (R384): A PWR_REQ write with STATE 2 queues a NIGHT request, with or without SAVE. -/
  | pwrReqNight (who : Requester) (save : Bool) (kind : BitVec 2) (index : BitVec 10)
  /-- PWR_REQ_REST (R383): A PWR_REQ write with STATE 3 queues a REST request for a stack. -/
  | pwrReqRest (who : Requester) (save : Bool) (kind : BitVec 2) (index : BitVec 10)
  /-- PWR_REQ_SLEEP (R383): A PWR_REQ write with STATE 4 queues a SLEEP request for a fabric port. -/
  | pwrReqSleep (who : Requester) (save : Bool) (kind : BitVec 2) (index : BitVec 10)
  /-- PWR_REQ_STANDBY (R388): A PWR_REQ write with STATE 5 queues a STANDBY request. -/
  | pwrReqStandby (who : Requester) (save : Bool) (kind : BitVec 2) (index : BitVec 10)
  /-- PWR_REQ_APPLY (R383): The next queued power request is checked against the refusers and applied or refused. -/
  | pwrReqApply (flushed : Bool)
  /-- NIGHT_SAVE_DONE (R384): A leaf's NIGHT save completes and power gating starts. -/
  | nightSaveDone (c : Fin 152)
  /-- WAKE_WINDOW (R387): At each 10 µs window boundary up to 8 clusters per die start waking or gating. -/
  | wakeWindow
  /-- DOMAIN_ENTRY_DONE (R387): A domain completes its entry into its low-power state and DOMAIN_DOWN is recorded. -/
  | domainEntryDone (kind : Fin 4) (index : BitVec 8)
  /-- DOMAIN_WAKE_DONE (R387): A domain's almanac wake delay ends and DOMAIN_UP is recorded. -/
  | domainWakeDone (kind : Fin 4) (index : BitVec 8)
  /-- STANDBY_WAKE (R388): An I3C wake request or PWR_WAKE_AT starts the STANDBY wake order. -/
  | standbyWake (i3c : Bool)
  /-- STACK_DEMAND_WAKE (R386): An access to a stack in REST is held while the stack is woken. -/
  | stackDemandWake (stack : Fin 12)
  /-- PWR_LIMIT_WRITE (R405): A write to PWR_LIMIT stores a clamped limit that applies from the next window. -/
  | pwrLimitWrite (who : Requester) (w : BitVec 12)
  /-- ARBITRATION_WINDOW (R396): Every 10 µs the arbiter divides the limit among domains and sets their levels. -/
  | arbitrationWindow (raw : List Nat) (cons : List (Nat × Nat))
  /-- COEFF_CORRECTION (R395): Every 1 ms the arbiter scales its energy coefficients by regulator telemetry. -/
  | coeffCorrection (tele : List Nat)
  /-- AVS_REQUEST (R393): A timing-margin monitor drives a voltage setpoint request on a rail over AVSBus. -/
  | avsRequest (rail : Fin 4) (mv : BitVec 12)
  /-- AVS_POLL (R394): Every 100 µs the rail is read back and the request acknowledged when within 1 %. -/
  | avsPoll (rail : Fin 4) (mv : BitVec 12)
  /-- AVS_RETRY (R394): An unacknowledged request is rewritten after 2 ms, and after the third interval fails with AVS_FAIL. -/
  | avsRetry (rail : Fin 4)
  /-- AVS_SUSPEND_END (R394): Requests on a failed rail resume after 10 s. -/
  | avsSuspendEnd (rail : Fin 4)
  /-- TEMP_SAMPLE (R400): A die's diode and ring oscillator are sampled and its governing estimate updated. -/
  | tempSample (die : Fin 15) (diode ring : BitVec 8)
  /-- REF_WINDOW_END (R408): At the end of each 10^7 ns window each reference's deviation is measured and its state updated. -/
  | refWindowEnd (a b : BitVec 32)
  /-- REF_ABSENT (R407): A reference that shows no edge for 1 µs becomes absent. -/
  | refAbsent (ref : Fin 2) (absent : Bool)
  /-- REF_SWITCH (R409): At the next slot boundary the part switches reference or enters or leaves holdover. -/
  | refSwitch
  /-- ACCESS_TIMEOUT (R412): An MMIO access into a stopped or unpowered domain ends after 4 µs with all ones. -/
  | accessTimeout (who : Requester) (off : BitVec 41) (wide : Bool) (write : Bool)
  /-- FIFO_RESYNC (R413): After a reset of one side, a crossing FIFO resynchronises and discards its entries. -/
  | fifoResync (entries : List FifoEntry)
  /-- PORST (R454): A low level on PORST_N of at least 10 µs is a power-on reset. -/
  | porst (low : BitVec 32) (taken : Bool) (bootSrc : BitVec 2)
  /-- DEVICE_RESET (R414): CKR_RST KIND 1 from the management port resets the whole part and starts the boot sequence. -/
  | deviceReset (who : Requester)
  /-- PARTITION_RESET (R416): CKR_RST KIND 2 resets the leaf clusters and CON block of one constellation. -/
  | partitionReset (who : Requester) (k : BitVec 10)
  /-- CLUSTER_RESET (R415): CKR_RST KIND 3 resets one physical cluster. -/
  | clusterReset (who : Requester) (c : BitVec 10)
  /-- PORT_RESET (R418): CKR_RST KIND 4 ends a fabric port's session and retrains it. -/
  | portReset (who : Requester) (p : BitVec 10)
  /-- HOST_PORT_RESET (R439): A fundamental reset, hot reset or link down resets the functions of one host port. -/
  | hostPortReset (p : Fin 2) (kind : HostReset)
  /-- FLR (R439): A Function Level Reset resets one host function. -/
  | flr (p : Fin 2) (f : Fin 256)
  /-- BOOT_PHASE_END (R421): A boot phase of Table 16.3 completes and the next begins. -/
  | bootPhaseEnd (report : BootReport)
  /-- TRAIN_SAVE (R423): A write of 1 to CKR_TRAIN_CTRL.SAVE stores the current training parameters. -/
  | trainSave (who : Requester)
  /-- IRQ_SOURCE_EVENT (R427): A source asserts or pulses and its pending bit changes. -/
  | irqSourceEvent
  /-- IRQ_CLAIM (R430): A read of a context's claim register claims its highest-priority source or returns 0xFFF. -/
  | irqClaim (who : Requester) (reg : ClaimReg)
  /-- IRQ_COMPLETE (R430): A write to a context's complete register clears the source's in-service bit and resamples it. -/
  | irqComplete (who : Requester) (reg : ClaimReg) (source : BitVec 12)
  /-- IRQ_SWSET (R443): A write to IRQ_SWSET pulses a software source. -/
  | irqSwset (who : Requester) (source : BitVec 12)
  /-- GDIS_CLEAR (R432): A write of 0 to IRQ_CTRL.GDIS delivers every context with a claimable source once. -/
  | gdisClear (who : Requester)
  /-- MSIX_UNMASK (R431): Clearing an MSI-X mask sends a held message if the context still has a claimable source. -/
  | msixUnmask (p : Fin 2) (f : Fin 256) (b : MsixBit) (value : Bool)
  /-- INBOUND_MEM_ACCESS (R437): A host TLP through BAR2/3 accesses hashed or window space, checked for a virtual function. -/
  | inboundMemAccess (p : Fin 2) (f : Fin 256) (off : BitVec 42) (kind : AccessKind) (ecc : Ecc)
  /-- HOST_WINDOW_ACCESS (R438): An access to space 0x04 is translated by the outbound table and sent on the host port. -/
  | hostWindowAccess (who : Requester) (off : BitVec 41) (kind : AccessKind)
  /-- HOST_READ_TIMEOUT (R438): An outbound read with no completion after 50 ms completes with poison. -/
  | hostReadTimeout (p : Fin 2) (tag : BitVec 10)
  /-- CXL_SNOOP (R440): A host snoop on CXL.cache is answered with RspIHitI. -/
  | cxlSnoop (p : Fin 2) (addr : BitVec 64)
  /-- BACK_INVALIDATE (R440): The home slice back-invalidates a host-held line before a part access or when the snoop filter is full. -/
  | backInvalidate (p : Fin 2) (line : BitVec 35) (dirty : Option (BitVec 512))
  /-- MCTP_READ_32 (R442): An MCTP OP 1 request reads a 32-bit MMIO register. -/
  | mctpRead32 (secured : Bool) (off : BitVec 32)
  /-- MCTP_WRITE_32 (R442): An MCTP OP 2 request writes a 32-bit MMIO register, inside a session when sealed. -/
  | mctpWrite32 (secured : Bool) (off : BitVec 32) (value : BitVec 32)
  /-- MCTP_READ_64 (R442): An MCTP OP 3 request reads a 64-bit MMIO pair. -/
  | mctpRead64 (secured : Bool) (off : BitVec 32)
  /-- MCTP_WRITE_64 (R442): An MCTP OP 4 request writes a 64-bit MMIO pair, inside a session when sealed. -/
  | mctpWrite64 (secured : Bool) (off : BitVec 32) (value : BitVec 64)
  /-- PLDM_FIRMWARE_UPDATE (R441): A PLDM Type 5 update writes a firmware or image component to boot flash and applies it as stated. -/
  | pldmFirmwareUpdate (component : PldmComponent)
  /-- SET_EVENT_RECEIVER (R431): PLDM SetEventReceiver names the receiver of management-context events. -/
  | setEventReceiver (receiver : BitVec 8)
  /-- CLUSTER_CHECKER_MISMATCH (R341): The checker copy of a cluster's control core, feeders, drains or address generation disagrees with the logic, so the cluster enters eclipse and the fault fails every uncommitted step on constellations that contain it. -/
  | clusterCheckerMismatch (c : Fin 152)
  /-- HOST_LINK_UP (R417): A host-port link that was down or in reset trains and returns, releasing the host-window stores and MSI-X writes that waited in its outbound queue. -/
  | hostLinkUp (p : Fin 2) (rate : BitVec 2) (width : BitVec 5) (cxl : Bool)
  /-- CXL_MEM_ACCESS (R440): A host CXL.mem read or write reaches the hashed range exposed by the HDM-DB decoder and is tracked in the home slice's snoop filter. -/
  | cxlMemAccess (p : Fin 2) (off : BitVec 41) (store : Option (BitVec 512)) (poison : Bool) (keep : Bool) (ecc : Ecc)
  /-- PME_TURN_OFF (R389): A PME_Turn_Off message from the root complex takes a host-port link to L2/L3 Ready, which the STANDBY refuser of Table 15.3 tests. -/
  | pmeTurnOff (p : Fin 2)
  /-- HOST_READ_COMPLETION (R438): A completion TLP from the host answers an outbound host-window read or CXL.cache request, delivering its data and completing the access under R225. -/
  | hostReadCompletion (p : Fin 2) (tag : BitVec 10) (data : List Byte) (poison : Bool)
  /-- MER_10M_ABSENT (R455): The MER_10M input stops for more than 1 µs, or returns, so the grandmaster's count advances between PPS edges from the selected reference, or again under MER_10M discipline. -/
  | mer10mAbsent (absent : Bool)
  deriving DecidableEq, Repr

end Sys2Proof
end

