-- ==== Sys2Proof/Config.lean ====
section
/-! DEFINITION. What an implementation fixes and what the spec leaves open: constants without a body, so that nothing can be
proved of their values (log entries 9 and 10). -/

namespace Sys2Proof.Config

/-- The free value number `n`, of `w` bits: the value of a result the spec leaves unstated (log 9). -/
opaque freeValue : (w : Nat) → Nat → BitVec w

/-- SHA-384, named by R39 and R373 as a standard function; the spec does not state its computation (log 10). -/
opaque sha384 : List (BitVec 8) → BitVec 384

/-- Signature check of R35 and R371: algorithm (false ECDSA P-384, true LMS), signature block, signed bytes (log 10). -/
opaque signatureValid : Bool → List (BitVec 8) → List (BitVec 8) → Bool

/-- Hash of the public key that opens a signature block, compared with the fused key hash (R35; log 10). -/
opaque keyHash : List (BitVec 8) → BitVec 384

/-- The fused key hash of each key slot (R35; log 10). -/
opaque fusedKeyHash : Nat → BitVec 384

/-- AES-256-XTS of one 1 KiB data unit under a swap key and a 128-bit tweak (R269, R270; log 10). -/
opaque xtsEncrypt : BitVec 512 → BitVec 128 → List (BitVec 8) → List (BitVec 8)

/-- The inverse of `xtsEncrypt` (R271; log 10). -/
opaque xtsDecrypt : BitVec 512 → BitVec 128 → List (BitVec 8) → List (BitVec 8)

/-- The key the part's CTR_DRBG delivers at its `n`-th request (R375; log 10). -/
opaque drbgKey : Nat → BitVec 512

/-- The hash of a tenant's registered owner certificate chain (R375); how an owner is registered the spec does not state. -/
opaque ownerHash : Nat → BitVec 384

/-- AES-256-GCM tag of a flit: key, nonce, additional data and ciphertext (R315; log 10). -/
opaque gcmTag : BitVec 256 → BitVec 96 → List (BitVec 8) → BitVec 128

/-- AES-256-GCM encryption of a flit's payload under a key and a nonce; it is its own inverse (R315; log 10). -/
opaque gcmCrypt : BitVec 256 → BitVec 96 → List (BitVec 8) → List (BitVec 8)

/-- Session keys and salt that an SPDM session yields (R315; log 10). -/
opaque sessionKey : Nat → BitVec 256
opaque sessionSalt : Nat → BitVec 32

/-- The expected self-test signature of a block kind is fused and the pattern responses are the silicon's (R364; log 10). -/
opaque testSignature : Nat → BitVec 64 → BitVec 64

/-- Fused maximum power of an arbitration domain, in watts (R397; a fuse value the spec does not state). -/
opaque fusedMaxPower : Nat → Nat

/-- SHA-384 of the ROM (1), first-stage firmware (2) and supervisor firmware not read from an image (3) (Table 14.4, log 10). -/
opaque measurement : Nat → BitVec 384

/-- SHA-384 of the security fuses: SEC_KEYSLOT and the floor (Table 14.4 index 6, log 10). -/
opaque fuseMeasurement : Nat → Nat → BitVec 384

/-- The certificate chain that ends in the Alias certificate of the boot that began at a time (R373, log 10). -/
opaque certificateChain : Nat → List (BitVec 8)

/-- A signature under the Alias key of the boot that began at a time (R374, log 10). -/
opaque aliasSign : Nat → List (BitVec 8) → List (BitVec 8)

/-- The responder's KEY_EXCHANGE contribution of a session (R374, log 10). -/
opaque exchangeData : Nat → List (BitVec 8)

end Sys2Proof.Config
end

