-- ==== Sys2Proof/Machine/Map.lean ====
section
/-! DEFINITION. Sparse data by key, as a list of key and value pairs in one canonical form: keys strictly rising and no entry equal
to what an unlisted key reads as. Registers, memories and per-unit state are kept so. -/

namespace Sys2Proof.Machine

abbrev KMap (α : Type) := List (Nat × α)

/-- The value at a key; `d` gives what an unlisted key reads as. -/
def KMap.get {α : Type} (d : Nat → α) : KMap α → Nat → α
  | [], k => d k
  | (k', v) :: t, k => if k = k' then v else KMap.get d t k

/-- Put a pair in its place by key, replacing an entry of the same key. -/
def KMap.insert {α : Type} : KMap α → Nat → α → KMap α
  | [], k, v => [(k, v)]
  | (k', v') :: t, k, v =>
    if k < k' then (k, v) :: (k', v') :: t
    else if k = k' then (k, v) :: t
    else (k', v') :: KMap.insert t k v

/-- Write a key; writing what an unlisted key reads as removes the entry. -/
def KMap.set {α : Type} [DecidableEq α] (d : Nat → α) (m : KMap α) (k : Nat) (v : α) : KMap α :=
  match m with
  | [] => if v = d k then [] else [(k, v)]
  | p :: t => if v = d k then (p :: t).filter (fun q => q.1 ≠ k) else KMap.insert (p :: t) k v

/-- Change the value at one key. -/
def KMap.mod {α : Type} [DecidableEq α] (d : Nat → α) (m : KMap α) (k : Nat) (f : α → α) : KMap α :=
  KMap.set d m k (f (KMap.get d m k))

/-- Write consecutive keys from `k` on. -/
def KMap.setSeq {α : Type} [DecidableEq α] (d : Nat → α) (m : KMap α) (k : Nat) : List α → KMap α
  | [] => m
  | v :: vs => KMap.setSeq d (KMap.set d m k v) (k + 1) vs

/-- Read `n` consecutive keys from `k` on. -/
def KMap.getSeq {α : Type} (d : Nat → α) (m : KMap α) (k : Nat) : Nat → List α
  | 0 => []
  | n + 1 => KMap.get d m k :: KMap.getSeq d m (k + 1) n

/-- The canonical form: keys strictly rising, no entry at its default. -/
def KMap.wf {α : Type} [DecidableEq α] (d : Nat → α) : KMap α → Bool
  | [] => true
  | [(k, v)] => v ≠ d k
  | (k, v) :: (k', v') :: t => decide (v ≠ d k) && decide (k < k') && KMap.wf d ((k', v') :: t)

/-- A set of keys. -/
abbrev KSet := List Nat

/-- Add a key to a rising list of keys. -/
def KSet.add : KSet → Nat → KSet
  | [], k => [k]
  | h :: t, k => if k < h then k :: h :: t else if k = h then h :: t else h :: KSet.add t k

/-- Take a key out. -/
def KSet.del (m : KSet) (k : Nat) : KSet := m.filter (fun h => h ≠ k)

end Sys2Proof.Machine
end

