-- ==== Sys2Proof/Machine/Float.lean ====
section
/-! DEFINITION. Element formats, exact accumulation, conversion and rounding, reduction order (03 R62 to R86). -/

namespace Sys2Proof.Machine

/-- A value as every engine sees it: a finite value is (-1)^neg * m * 2^e, and a zero keeps its sign (R62, R63). -/
inductive FVal where
  | nan
  | inf (neg : Bool)
  | fin (neg : Bool) (m : Nat) (e : Int)
  deriving DecidableEq, Repr

/-- Which codes are special in a format (Table 3.1). -/
inductive FKind where
  | ieee    -- exponent all ones: infinity and NaN
  | e4m3    -- 0x7F and 0xFF are NaN, no infinity
  | plain   -- neither
  | int     -- two's complement
  deriving DecidableEq, Repr

structure Fmt where
  code : Nat
  width : Nat
  ebits : Nat
  mbits : Nat
  bias : Nat
  kind : FKind
  deriving DecidableEq, Repr

/-- Table 3.1, by format code; codes 0xB to 0xF are reserved. -/
def fmtOf (code : Nat) : Option Fmt :=
  match code with
  | 0x0 => some ⟨0, 32, 8, 23, 127, .ieee⟩
  | 0x1 => some ⟨1, 16, 8, 7, 127, .ieee⟩
  | 0x2 => some ⟨2, 16, 5, 10, 15, .ieee⟩
  | 0x3 => some ⟨3, 8, 4, 3, 7, .e4m3⟩
  | 0x4 => some ⟨4, 8, 5, 2, 15, .ieee⟩
  | 0x5 => some ⟨5, 6, 3, 2, 3, .plain⟩
  | 0x6 => some ⟨6, 6, 2, 3, 1, .plain⟩
  | 0x7 => some ⟨7, 4, 2, 1, 1, .plain⟩
  | 0x8 => some ⟨8, 8, 0, 7, 0, .int⟩
  | 0x9 => some ⟨9, 4, 0, 3, 0, .int⟩
  | 0xA => some ⟨10, 64, 11, 52, 1023, .ieee⟩
  | _ => none

def fp32 : Fmt := ⟨0, 32, 8, 23, 127, .ieee⟩
def bf16 : Fmt := ⟨1, 16, 8, 7, 127, .ieee⟩
def fp64 : Fmt := ⟨10, 64, 11, 52, 1023, .ieee⟩

def fmtWidth (code : Nat) : Nat := (fmtOf code).elim 0 (·.width)
def isFp8 (c : Nat) : Bool := c == 3 || c == 4
def isFp6 (c : Nat) : Bool := c == 5 || c == 6
def isFp4 (c : Nat) : Bool := c == 7
def isNarrow (c : Nat) : Bool := isFp8 c || isFp6 c || isFp4 c
def isIntFmt (c : Nat) : Bool := c == 8 || c == 9

/-- The value of an encoding (R62). -/
def decodeF (f : Fmt) (x : Nat) : FVal :=
  let sign := x.testBit (f.width - 1)
  match f.kind with
  | .int =>
    let v := x % 2 ^ f.width
    if sign then .fin true (2 ^ f.width - v) 0 else .fin false v 0
  | _ =>
    let man := x % 2 ^ f.mbits
    let ex := (x / 2 ^ f.mbits) % 2 ^ f.ebits
    let top := 2 ^ f.ebits - 1
    if f.kind = .ieee && ex == top then (if man = 0 then .inf sign else .nan)
    else if f.kind = .e4m3 && ex == top && man == 7 then .nan
    else if ex = 0 then .fin sign man (1 - (f.bias : Int) - f.mbits)
    else .fin sign (man + 2 ^ f.mbits) ((ex : Int) - f.bias - f.mbits)

/-- Position of the leading one (0 for 0). -/
def log2F (n : Nat) : Nat := Nat.log2 n

/-- m * 2^e as a comparison-free shift toward an integer count of 2^q, with what is cut off: quotient, remainder, divisor. -/
def scaleTo (m : Nat) (e q : Int) : Nat × Nat × Nat :=
  if q ≤ e then (m * 2 ^ (e - q).toNat, 0, 1)
  else let d := 2 ^ (q - e).toNat; (m / d, m % d, d)

/-- Round the quotient to nearest, ties to even. -/
def rneQuot (t : Nat × Nat × Nat) : Nat :=
  let (n, r, d) := t
  if 2 * r > d then n + 1 else if 2 * r = d then n + n % 2 else n

/-- Exponent of the unit in the last place of the format in the binade of m * 2^e, not below the subnormals. -/
def ulpExp (f : Fmt) (m : Nat) (e : Int) : Int :=
  max (1 - (f.bias : Int) - f.mbits) ((log2F m : Int) + e - f.mbits)

/-- The largest finite value of a format, as mantissa and exponent (Table 3.1). -/
def maxFinite (f : Fmt) : Nat × Int :=
  match f.kind with
  | .ieee => (2 ^ (f.mbits + 1) - 1, (2 ^ f.ebits : Int) - 2 - f.bias - f.mbits)
  | .e4m3 => (14, 5)
  | .plain => (2 ^ (f.mbits + 1) - 1, (2 ^ f.ebits : Int) - 1 - f.bias - f.mbits)
  | .int => (2 ^ f.mbits - 1, 0)

/-- a * 2^ea ≤ b * 2^eb on magnitudes. -/
def leMag (a : Nat) (ea : Int) (b : Nat) (eb : Int) : Bool :=
  if ea ≤ eb then decide (a ≤ b * 2 ^ (eb - ea).toNat) else decide (a * 2 ^ (ea - eb).toNat ≤ b)

/-- Overflow threshold of R77: the magnitude is at least largest finite + half its unit in the last place. -/
def overflowsRne (f : Fmt) (m : Nat) (e : Int) : Bool :=
  let (mm, me) := maxFinite f
  leMag (2 * mm + 1) (me - 1) m e

/-- Encode a finite representable value (n units of 2^q). -/
def encodeFin (f : Fmt) (neg : Bool) (n : Nat) (q : Int) : Nat :=
  let s := if neg then 2 ^ (f.width - 1) else 0
  if n < 2 ^ f.mbits then s + n
  else
    -- n may have carried into the next binade
    let (n, q) := if n ≥ 2 ^ (f.mbits + 1) then (n / 2, q + 1) else (n, q)
    s + (q + f.bias + f.mbits).toNat * 2 ^ f.mbits + (n - 2 ^ f.mbits)

def canonNan (f : Fmt) : Nat :=
  match f.kind with
  | .ieee => (2 ^ f.ebits - 1) * 2 ^ f.mbits + 2 ^ (f.mbits - 1)
  | .e4m3 => 0x7F
  | _ => 0

def encodeInf (f : Fmt) (neg : Bool) : Nat :=
  (if neg then 2 ^ (f.width - 1) else 0) + (2 ^ f.ebits - 1) * 2 ^ f.mbits

def encodeMax (f : Fmt) (neg : Bool) : Nat :=
  let (mm, me) := maxFinite f
  encodeFin f neg mm me

/-- Flag bits of Table 3.6. -/
abbrev Flags := BitVec 8
def INX : Flags := 1#8
def OVF : Flags := 2#8
def INV : Flags := 4#8
def CSAT : Flags := 8#8

/-- Finite overflow on conversion (Table 3.5, columns 2 and 3). -/
def overflowTo (f : Fmt) (sat neg : Bool) : Nat :=
  match f.kind with
  | .ieee => if f.code = 4 && sat then encodeMax f neg else encodeInf f neg
  | .e4m3 => if sat then encodeMax f neg else 0x7F
  | _ => encodeMax f neg

/-- INT8 and INT4 (Table 3.5): round to nearest even, then clamp. -/
def toInt (f : Fmt) (neg : Bool) (m : Nat) (e : Int) : Nat × Flags :=
  let n := rneQuot (scaleTo m e 0)
  let lim := if neg then 2 ^ (f.width - 1) else 2 ^ (f.width - 1) - 1
  let (n, fl) := if n > lim then (lim, CSAT) else (n, 0#8)
  (if neg then (2 ^ f.width - n) % 2 ^ f.width else n, fl)

/-- A 16-bit random number for stochastic rounding (R79), or none for round to nearest even. -/
abbrev SrDraw := Option Nat

/-- Conversion of a value to a format (R77 to R79, Table 3.5): the encoding and the flags CSAT and INV. -/
def convertF (f : Fmt) (sat : Bool) (sr : SrDraw) (v : FVal) : Nat × Flags :=
  match v with
  | .nan =>
    match f.kind with
    | .ieee => (canonNan f, 0#8)
    | .e4m3 => (0x7F, 0#8)
    | _ => (0, INV)
  | .inf neg =>
    match f.kind with
    | .ieee => if f.code = 4 && sat then (encodeMax f neg, CSAT) else (encodeInf f neg, 0#8)
    | .e4m3 => (if sat then encodeMax f neg else 0x7F, CSAT)
    | .plain => (encodeMax f neg, CSAT)
    | .int => ((if neg then 2 ^ (f.width - 1) else 2 ^ (f.width - 1) - 1), CSAT)
  | .fin neg m e =>
    if f.kind = .int then toInt f neg m e
    else if m = 0 then (encodeFin f neg 0 0, 0#8)
    else
      let q := ulpExp f m e
      match sr with
      | none =>
        if overflowsRne f m e then (overflowTo f sat neg, CSAT)
        else (encodeFin f neg (rneQuot (scaleTo m e q)) q, 0#8)
      | some r =>
        let (n, rem, d) := scaleTo m e q
        let frac := rem * 2 ^ 16 / d
        let n := if frac + r ≥ 2 ^ 16 then n + 1 else n
        let (mm, me) := maxFinite f
        if leMag n q mm me then (encodeFin f neg n q, 0#8) else (overflowTo f sat neg, CSAT)

/-- Round a value once to an IEEE format, to nearest even: the value, its bits and OVF on overflow to infinity. -/
def roundIeee (f : Fmt) (v : FVal) : Nat × Flags :=
  let (b, fl) := convertF f false none v
  match v with
  | .fin .. => (b, if fl &&& CSAT ≠ 0#8 then OVF else 0#8)
  | _ => (b, 0#8)

def negF : FVal → FVal
  | .nan => .nan
  | .inf n => .inf (!n)
  | .fin n m e => .fin (!n) m e

/-- Signed integer of a finite value in units of 2^q (q not above its exponent). -/
def unitsAt (neg : Bool) (m : Nat) (e q : Int) : Int :=
  let n : Int := (m * 2 ^ (e - q).toNat : Nat)
  if neg then -n else n

/-- Exact sum; INV when infinities of opposite sign meet (R75, R86). -/
def addExact (a b : FVal) : FVal × Flags :=
  match a, b with
  | .nan, _ => (.nan, 0#8)
  | _, .nan => (.nan, 0#8)
  | .inf x, .inf y => if x = y then (.inf x, 0#8) else (.nan, INV)
  | .inf x, _ => (.inf x, 0#8)
  | _, .inf y => (.inf y, 0#8)
  | .fin na ma ea, .fin nb mb eb =>
    let q := min ea eb
    let t := unitsAt na ma ea q + unitsAt nb mb eb q
    if t = 0 then (.fin (na && nb) 0 0, 0#8)
    else (.fin (decide (t < 0)) t.natAbs q, 0#8)

/-- Exact product; INV when an infinity meets a zero (R72, R75). -/
def mulExact (a b : FVal) : FVal × Flags :=
  match a, b with
  | .nan, _ => (.nan, 0#8)
  | _, .nan => (.nan, 0#8)
  | .inf x, .inf y => (.inf (x != y), 0#8)
  | .inf x, .fin y m _ => if m = 0 then (.nan, INV) else (.inf (x != y), 0#8)
  | .fin x m _, .inf y => if m = 0 then (.nan, INV) else (.inf (x != y), 0#8)
  | .fin na ma ea, .fin nb mb eb => (.fin (na != nb) (ma * mb) (ea + eb), 0#8)

/-- Lift an exact operation to bits of an IEEE format, rounded once (R86). -/
def op2 (f : Fmt) (g : FVal → FVal → FVal × Flags) (a b : Nat) : Nat × Flags :=
  let (v, fl) := g (decodeF f a) (decodeF f b)
  let (r, fl') := roundIeee f v
  (r, fl ||| fl')

def fAdd (f : Fmt) (a b : Nat) : Nat × Flags := op2 f addExact a b
def fSub (f : Fmt) (a b : Nat) : Nat × Flags := op2 f (fun x y => addExact x (negF y)) a b
def fMul (f : Fmt) (a b : Nat) : Nat × Flags := op2 f mulExact a b

/-- Fused multiply-add, rounded once. -/
def fFma (f : Fmt) (a b c : Nat) : Nat × Flags :=
  let (p, f1) := mulExact (decodeF f a) (decodeF f b)
  let (v, f2) := addExact p (decodeF f c)
  let (r, f3) := roundIeee f v
  (r, f1 ||| f2 ||| f3)

/-- A quotient with enough bits and a sticky last bit. -/
def divExact (f : Fmt) (a b : FVal) : FVal × Flags :=
  match a, b with
  | .nan, _ => (.nan, 0#8)
  | _, .nan => (.nan, 0#8)
  | .inf _, .inf _ => (.nan, INV)
  | .inf x, .fin y _ _ => (.inf (x != y), 0#8)
  | .fin x _ _, .inf y => (.fin (x != y) 0 0, 0#8)
  | .fin na ma ea, .fin nb mb eb =>
    if mb = 0 then (if ma = 0 then (.nan, INV) else (.inf (na != nb), 0#8))
    else if ma = 0 then (.fin (na != nb) 0 0, 0#8)
    else
      let k := f.mbits + 3 + log2F mb
      let n := ma * 2 ^ k
      let q := n / mb
      (.fin (na != nb) (2 * q + (if n % mb = 0 then 0 else 1)) (ea - eb - k - 1), 0#8)

def fDiv (f : Fmt) (a b : Nat) : Nat × Flags := op2 f (divExact f) a b

/-- Integer square root by bits, from bit `k` down. -/
def isqrtAux (n : Nat) : Nat → Nat → Nat
  | 0, r => r
  | k + 1, r => let r' := r + 2 ^ k; isqrtAux n k (if r' * r' ≤ n then r' else r)

def isqrt (n : Nat) : Nat := isqrtAux n (log2F n / 2 + 1) 0

/-- Square root with a sticky last bit; INV of a negative value (IEEE 754 under R86). -/
def sqrtExact (f : Fmt) (a : FVal) : FVal × Flags :=
  match a with
  | .nan => (.nan, 0#8)
  | .inf n => if n then (.nan, INV) else (.inf false, 0#8)
  | .fin n m e =>
    if m = 0 then (.fin n 0 0, 0#8)
    else if n then (.nan, INV)
    else
      let k := 2 * (f.mbits + 3) + (if (e % 2) = 0 then 0 else 1)
      let x := m * 2 ^ k
      let r := isqrt x
      (.fin false (2 * r + (if r * r = x then 0 else 1)) ((e - k) / 2 - 1), 0#8)

def op1 (f : Fmt) (g : FVal → FVal × Flags) (a : Nat) : Nat × Flags :=
  let (v, fl) := g (decodeF f a)
  let (r, fl') := roundIeee f v
  (r, fl ||| fl')

def fSqrt (f : Fmt) (a : Nat) : Nat × Flags := op1 f (sqrtExact f) a

/-- RCP: 1/x with the special cases of division (R86). -/
def fRcp (f : Fmt) (a : Nat) : Nat × Flags := op1 f (divExact f (.fin false 1 0)) a

/-- RSQ: 1/√x; ±0 gives ±infinity, a negative value the canonical NaN (R86). -/
def rsqExact (f : Fmt) (a : FVal) : FVal × Flags :=
  match a with
  | .nan => (.nan, 0#8)
  | .inf n => if n then (.nan, INV) else (.fin false 0 0, 0#8)
  | .fin n m e =>
    if m = 0 then (.inf n, 0#8)
    else if n then (.nan, INV)
    else
      -- make the exponent even, then 1/sqrt(m 2^e) = sqrt(2^(2k)/m) 2^(-k-e/2)
      let (m, e) := if e % 2 = 0 then (m, e) else (2 * m, e - 1)
      let k := f.mbits + 4 + log2F m
      let r := isqrt (2 ^ (2 * k) / m)
      (.fin false (2 * r + (if r * r * m = 2 ^ (2 * k) then 0 else 1)) (-(k : Int) - e / 2 - 1), 0#8)

def fRsq (f : Fmt) (a : Nat) : Nat × Flags := op1 f (rsqExact f) a

/-- Working precision, in bits, of exp2 (log 11). -/
def expPrec : Nat := 320

/-- 2^(frac / 2^n) over the bits of `frac`, the roots of two formed one after another: `n` bits left. -/
def exp2Aux (frac : Nat) : Nat → Nat → Nat → Nat
  | 0, _, acc => acc
  | n + 1, c, acc =>
    let c := isqrt (c * 2 ^ expPrec)
    exp2Aux frac n c (if frac.testBit n then acc * c / 2 ^ expPrec else acc)

/-- 2^x, exact or with a sticky last bit (R86, log 11). -/
def exp2Exact (a : FVal) : FVal × Flags :=
  match a with
  | .nan => (.nan, 0#8)
  | .inf n => (if n then .fin false 0 0 else .inf false, 0#8)
  | .fin n m e =>
    if m = 0 then (.fin false 1 0, 0#8)
    else if (log2F m : Int) + e ≥ 12 then (if n then .fin false 1 (-8192) else .fin false 1 8192, 0#8)
    else if (log2F m : Int) + e < -200 then
      (.fin false (if n then 2 ^ 200 - 1 else 2 ^ 200 + 1) (-200), 0#8)
    else
      let x := unitsAt n m (max e (-256)) (-256)   -- e is never below -256 here: 53 bits below 2^-200
      let ip := x / 2 ^ 256
      let fr := (x % 2 ^ 256).toNat
      if fr = 0 then (.fin false 1 ip, 0#8)
      else
        let r := exp2Aux fr 256 (2 * 2 ^ expPrec) (2 ^ expPrec)
        (.fin false (2 * r + 1) (ip - expPrec - 1), 0#8)

def fExp2 (f : Fmt) (a : Nat) : Nat × Flags := op1 f exp2Exact a

/-- Fraction bits of log2 of y / 2^p, y in [2^p, 2^(p+1)), by repeated squaring. -/
def log2Aux (p : Nat) : Nat → Nat → Nat → Nat
  | 0, _, acc => acc
  | n + 1, y, acc =>
    let y := y * y / 2 ^ p
    if y ≥ 2 ^ (p + 1) then log2Aux p n (y / 2) (2 * acc + 1) else log2Aux p n y (2 * acc)

/-- log2(x), exact or with a sticky last bit; log2(±0) is -infinity, of a negative value NaN with INV (R86, log 11). -/
def log2Exact (a : FVal) : FVal × Flags :=
  match a with
  | .nan => (.nan, 0#8)
  | .inf n => if n then (.nan, INV) else (.inf false, 0#8)
  | .fin n m e =>
    if m = 0 then (.inf true, 0#8)
    else if n then (.nan, INV)
    else
      let l := log2F m
      let ip : Int := (l : Int) + e
      if m = 2 ^ l then (.fin (decide (ip < 0)) ip.natAbs 0, 0#8)
      else
        let p := 640
        let y := m * 2 ^ (p - l)
        let fr := log2Aux p 256 y 0
        -- ip + (fr + something in (0,1)) / 2^256, doubled to hold the sticky bit
        let t : Int := ip * 2 ^ 257 + (2 * fr + 1 : Nat)
        (.fin (decide (t < 0)) t.natAbs (-257), 0#8)

def fLog2 (f : Fmt) (a : Nat) : Nat × Flags := op1 f log2Exact a

/-- Order of two values that are not NaN: -0 lies below +0 (IEEE 754-2019 minimum and maximum under R86). -/
def ltVal (a b : FVal) : Bool :=
  match a, b with
  | .inf true, .inf true => false
  | .inf true, _ => true
  | _, .inf true => false
  | .inf false, _ => false
  | _, .inf false => true
  | .fin na ma ea, .fin nb mb eb =>
    let q := min ea eb
    let x := unitsAt na ma ea q
    let y := unitsAt nb mb eb q
    decide (x < y) || (decide (x = y) && na && !nb && decide (ma = 0))
  | _, _ => false

def fMax (f : Fmt) (a b : Nat) : Nat × Flags :=
  match decodeF f a, decodeF f b with
  | .nan, _ => (canonNan f, 0#8)
  | _, .nan => (canonNan f, 0#8)
  | x, y => (if ltVal x y then b else a, 0#8)

def fMin (f : Fmt) (a b : Nat) : Nat × Flags :=
  match decodeF f a, decodeF f b with
  | .nan, _ => (canonNan f, 0#8)
  | _, .nan => (canonNan f, 0#8)
  | x, y => (if ltVal y x then b else a, 0#8)

/-- Compare: equality, less than, less or equal; false on NaN, and -0 equals +0. -/
def fEq (f : Fmt) (a b : Nat) : Bool :=
  match decodeF f a, decodeF f b with
  | .nan, _ => false
  | _, .nan => false
  | .fin _ 0 _, .fin _ 0 _ => true
  | x, y => !ltVal x y && !ltVal y x

def fLt (f : Fmt) (a b : Nat) : Bool :=
  match decodeF f a, decodeF f b with
  | .nan, _ => false
  | _, .nan => false
  | .fin _ 0 _, .fin _ 0 _ => false
  | x, y => ltVal x y

def fLe (f : Fmt) (a b : Nat) : Bool := fLt f a b || fEq f a b

/-! Block scales -/

/-- The value of an element under its shared scale: E8M0 code e stands for 2^(e-127), 0xFF is NaN; a block-scaled INT8 element
stands for its integer * 2^-6 (R65). -/
def scaled (f : Fmt) (x : Nat) (scale : Option Nat) : FVal :=
  match scale with
  | none => decodeF f x
  | some c =>
    if c % 256 = 255 then .nan
    else match decodeF f x with
      | .fin n m e => .fin n m (e + ((c % 256 : Nat) : Int) - 127 - (if f.kind = .int then 6 else 0))
      | v => v

/-! The exact accumulator (R69 to R74) -/

inductive Special where
  | finite | posInf | negInf | nan
  deriving DecidableEq, Repr

structure Acc where
  s : Int
  sp : Special
  fl : Flags
  deriving DecidableEq, Repr

def Acc.zero : Acc := ⟨0, .finite, 0#8⟩

/-- The meeting of two special states (R72). -/
def meetSpecial (a b : Special) : Special × Flags :=
  match a, b with
  | .finite, x => (x, 0#8)
  | x, .finite => (x, 0#8)
  | .nan, _ => (.nan, 0#8)
  | _, .nan => (.nan, 0#8)
  | .posInf, .posInf => (.posInf, 0#8)
  | .negInf, .negInf => (.negInf, 0#8)
  | _, _ => (.nan, INV)

/-- Saturate S to its 144-bit range (R70). -/
def satS (x : Int) : Int × Flags :=
  if x > 2 ^ 143 - 1 then (2 ^ 143 - 1, OVF) else if x < -(2 ^ 143) then (-(2 ^ 143), OVF) else (x, 0#8)

/-- A finite product enters the window of anchor `a` (R70). -/
def enterUnits (a : Int) (neg : Bool) (m : Nat) (e : Int) : Int × Flags :=
  let t := scaleTo m e a
  let n := rneQuot t
  let fi := if t.2.1 = 0 then 0#8 else INX
  let (n, fo) := if n > 2 ^ 127 - 1 then (2 ^ 127 - 1, OVF) else (n, 0#8)
  (if neg then -(n : Int) else n, fi ||| fo)

/-- Add one exact value to the accumulator (R70, R72). -/
def Acc.addVal (acc : Acc) (anchor : Int) (v : FVal) : Acc :=
  match v with
  | .nan => { acc with sp := .nan }
  | .inf n =>
    let (sp, fl) := meetSpecial acc.sp (if n then .negInf else .posInf)
    { acc with sp := sp, fl := acc.fl ||| fl }
  | .fin n m e =>
    let (u, f1) := enterUnits anchor n m e
    let (s, f2) := satS (acc.s + u)
    { acc with s := s, fl := acc.fl ||| f1 ||| f2 }

/-- Add the product of two elements (R70, R72). -/
def Acc.addProd (acc : Acc) (anchor : Int) (x y : FVal) : Acc :=
  let (p, fl) := mulExact x y
  let acc' := acc.addVal anchor p
  { acc' with fl := acc'.fl ||| fl }

/-- Realign a record from anchor `a` to `a'` (R74). -/
def Acc.realign (acc : Acc) (a a' : Int) : Acc :=
  if a' ≥ a then
    let d := 2 ^ (a' - a).toNat
    let m := acc.s.natAbs
    let n := rneQuot (m / d, m % d, d)
    { acc with s := if acc.s < 0 then -(n : Int) else n, fl := acc.fl ||| (if m % d = 0 then 0#8 else INX) }
  else
    let (s, f) := satS (acc.s * 2 ^ (a - a').toNat)
    { acc with s := s, fl := acc.fl ||| f }

/-- Merge two raw records: sums added, states combined, flags ORed, after realigning the smaller anchor (R74). -/
def mergeRaw (x : Acc × Int) (y : Acc × Int) : Acc × Int :=
  let a := max x.2 y.2
  let p := x.1.realign x.2 a
  let q := y.1.realign y.2 a
  let (s, f) := satS (p.s + q.s)
  let (sp, f') := meetSpecial p.sp q.sp
  (⟨s, sp, p.fl ||| q.fl ||| f ||| f'⟩, a)

/-- The value the accumulator converts, S clipped to the window first (R73). -/
def Acc.value (acc : Acc) (anchor : Int) : FVal × Flags :=
  match acc.sp with
  | .nan => (.nan, 0#8)
  | .posInf => (.inf false, 0#8)
  | .negInf => (.inf true, 0#8)
  | .finite =>
    if acc.s > 2 ^ 127 - 1 then (.fin false (2 ^ 127 - 1) anchor, OVF)
    else if acc.s < -(2 ^ 127) then (.fin true (2 ^ 127) anchor, OVF)
    else (.fin (decide (acc.s < 0)) acc.s.natAbs anchor, 0#8)

/-- Conversion at drain: the encoding and all flags (R73, R77 to R79). -/
def Acc.convert (acc : Acc) (anchor : Int) (f : Fmt) (sat : Bool) (sr : SrDraw) : Nat × Flags :=
  let (v, f1) := acc.value anchor
  let (b, f2) := convertF f sat sr v
  -- a finite overflow of FP32 range also leaves the FP32 range (Table 3.6)
  (b, acc.fl ||| f1 ||| f2 ||| (if f.code = 0 && f2 &&& CSAT ≠ 0#8 then OVF else 0#8))

def specialCode : Special → Nat
  | .finite => 0 | .posInf => 1 | .negInf => 2 | .nan => 3

def specialOf (n : Nat) : Special :=
  match n % 4 with
  | 0 => .finite | 1 => .posInf | 2 => .negInf | _ => .nan

/-- The 32-byte raw record, as a number (Table 3.4). -/
def rawRecord (acc : Acc) (anchor : Int) : Nat :=
  (acc.s % 2 ^ 144).toNat + (anchor % 2 ^ 16).toNat * 2 ^ 144 + specialCode acc.sp * 2 ^ 160 + acc.fl.toNat * 2 ^ 168

def signedOf (w : Nat) (n : Nat) : Int := if n % 2 ^ w ≥ 2 ^ (w - 1) then (n % 2 ^ w : Nat) - 2 ^ w else (n % 2 ^ w : Nat)

/-- Read a raw record, ignoring every bit R74 does not name. -/
def readRaw (x : Nat) : Acc × Int :=
  (⟨signedOf 144 x, specialOf (x / 2 ^ 160), BitVec.ofNat 8 (x / 2 ^ 168 % 16)⟩, signedOf 9 (x / 2 ^ 144))

/-! The FP32 path (R75, R76) -/

/-- An FP32 running sum; `none` before its first product (R83). -/
structure Sum32 where
  v : Option Nat
  fl : Flags
  deriving DecidableEq, Repr

def Sum32.zero : Sum32 := ⟨none, 0#8⟩
def Sum32.bits (s : Sum32) : Nat := s.v.getD 0

/-- Add one exact product, rounding once; the first product of a segment is rounded on its own (R75). -/
def Sum32.addProd (s : Sum32) (x y : FVal) : Sum32 :=
  let (p, f1) := mulExact x y
  match s.v with
  | none => let (b, f2) := roundIeee fp32 p; ⟨some b, s.fl ||| f1 ||| f2⟩
  | some a =>
    let (t, f2) := addExact (decodeF fp32 a) p
    let (b, f3) := roundIeee fp32 t
    ⟨some b, s.fl ||| f1 ||| f2 ||| f3⟩

/-- As `addProd`, but infinity times zero enters as +0 without a flag: the passes a_hi*b_lo and a_lo*b_hi of R76. -/
def Sum32.addProdQuiet (s : Sum32) (x y : FVal) : Sum32 :=
  let zeroInf := match x, y with
    | .inf _, .fin _ 0 _ => true
    | .fin _ 0 _, .inf _ => true
    | _, _ => false
  if zeroInf then s.addProd (.fin false 0 0) (.fin false 0 0) else s.addProd x y

/-- Split an FP32 operand in two BF16 values (R76). -/
def splitHiLo (v : FVal) : FVal × FVal :=
  match v with
  | .nan => (.nan, .fin false 0 0)
  | .inf n => (.inf n, .fin false 0 0)
  | .fin n m e =>
    let q := ulpExp bf16 m e
    let hi := (scaleTo m e q).1
    let hv := if m = 0 then FVal.fin n 0 0 else .fin n hi q
    let lo := (addExact v (negF hv)).1
    let lb := (roundIeee bf16 lo).1
    (hv, decodeF bf16 lb)

/-- FP32 add on bits with flags OVF and INV. -/
def add32 (a b : Nat × Flags) : Nat × Flags :=
  let (r, f) := fAdd fp32 a.1 b.1
  (r, a.2 ||| b.2 ||| f)

/-- The merge pass of R76. -/
def mergePasses (hh hl lh : Sum32) : Nat × Flags :=
  add32 (hh.bits, hh.fl) (add32 (hl.bits, hl.fl) (lh.bits, lh.fl))

/-! Stochastic rounding (R79): Philox-4x32-10, the published generator (log 12) -/

def philoxRound (c : Nat × Nat × Nat × Nat) (k0 k1 : Nat) : Nat × Nat × Nat × Nat :=
  let (x0, x1, x2, x3) := c
  let p0 := 0xD2511F53 * x0
  let p1 := 0xCD9E8D57 * x2
  ((p1 / 2 ^ 32) ^^^ x1 ^^^ k0, p1 % 2 ^ 32, (p0 / 2 ^ 32) ^^^ x3 ^^^ k1, p0 % 2 ^ 32)

def philoxAux : Nat → Nat × Nat × Nat × Nat → Nat → Nat → Nat × Nat × Nat × Nat
  | 0, c, _, _ => c
  | n + 1, c, k0, k1 => philoxAux n (philoxRound c k0 k1) ((k0 + 0x9E3779B9) % 2 ^ 32) ((k1 + 0xBB67AE85) % 2 ^ 32)

/-- Philox-4x32-10 output word 0. -/
def philox (key : Nat × Nat) (ctr : Nat × Nat × Nat × Nat) : Nat := (philoxAux 10 ctr key.1 key.2).1

/-- r of R79 for a seed, a tensor tag and an element index. -/
def srDraw (seed tag i : Nat) : Nat :=
  philox (seed % 2 ^ 32, seed / 2 ^ 32 % 2 ^ 32) (i % 2 ^ 32, i / 2 ^ 32 % 2 ^ 32, tag % 2 ^ 32, 0) / 2 ^ 16

/-! Order-fixed reduction (R82) -/

/-- Largest power of two less than n (n ≥ 2). -/
def splitPoint (n : Nat) : Nat := 2 ^ log2F (n - 1)

/-- tree(x_0 … x_(n-1)) of R82; `fuel` bounds the depth. -/
def treeAux {α : Type} (f : α → α → α) : Nat → List α → Option α
  | 0, xs => xs.head?
  | fuel + 1, xs =>
    if xs.length ≤ 1 then xs.head?
    else
      let m := splitPoint xs.length
      match treeAux f fuel (xs.take m), treeAux f fuel (xs.drop m) with
      | some a, some b => some (f a b)
      | a, _ => a

def tree {α : Type} (f : α → α → α) (xs : List α) : Option α := treeAux f xs.length xs

/-! CRC-32C (R33, R34, R312): reflected polynomial 0x82F63B78, the standard form (log 12) -/

def crcBit (c : Nat) : Nat := if c % 2 = 1 then (c / 2) ^^^ 0x82F63B78 else c / 2

def crcByte (c : Nat) (b : BitVec 8) : Nat :=
  let c := c ^^^ b.toNat
  crcBit (crcBit (crcBit (crcBit (crcBit (crcBit (crcBit (crcBit c)))))))

def crc32c (bs : List (BitVec 8)) : Nat := (bs.foldl crcByte 0xFFFFFFFF) ^^^ 0xFFFFFFFF

/-! Bytes -/

/-- A little-endian number. -/
def leNat : List (BitVec 8) → Nat
  | [] => 0
  | b :: t => b.toNat + 256 * leNat t

def natLe : Nat → Nat → List (BitVec 8)
  | 0, _ => []
  | k + 1, n => BitVec.ofNat 8 n :: natLe k (n / 256)

/-- Bytes [off, off + n) of a list as a number; missing bytes read zero. -/
def fieldOf (bs : List (BitVec 8)) (off n : Nat) : Nat := leNat ((bs.drop off).take n)

/-- Bits [lo, lo + w) of a number. -/
def bitsOf (x lo w : Nat) : Nat := x / 2 ^ lo % 2 ^ w

def ceilDiv (a b : Nat) : Nat := (a + b - 1) / b

end Sys2Proof.Machine
end

