-- ==== Sys2Proof/Machine/RegMap.lean ====
section
/-! DEFINITION. The MMIO registers of the block: every register's offset and every field's place, access code (R5), reset value (R7)
and Kept-through rank (R8), as the register tables of spec/ give them. -/

namespace Sys2Proof.Machine

/-- Access codes of Table 0.2. -/
inductive Access where
  | ro | rw | wo | w1c | w1s | rc
  deriving DecidableEq, Repr

/-- One field of a register or of an array of registers: `n1` instances at stride `s1`, each of `n2` at stride `s2`. `kept` is the rank
in Table 0.3 of the strongest event the field keeps through, 8 for none. -/
structure Field where
  base : Nat
  n1 : Nat
  s1 : Nat
  n2 : Nat
  s2 : Nat
  lo : Nat
  width : Nat
  acc : Access
  reset : Nat
  kept : Nat
  deriving DecidableEq, Repr

/-- The offset of instance (i, j) of a field's register. -/
def Field.addr (f : Field) (i : Nat := 0) (j : Nat := 0) : Nat := f.base + i * f.s1 + j * f.s2

/-- The instance (i, j) of a field at an offset, if the field is there. -/
def Field.at? (f : Field) (off : Nat) : Option (Nat × Nat) :=
  if off < f.base then none
  else
    let d := off - f.base
    let i := if f.s1 = 0 then 0 else d / f.s1
    let r := if f.s1 = 0 then d else d % f.s1
    let j := if f.s2 = 0 then 0 else r / f.s2
    let q := if f.s2 = 0 then r else r % f.s2
    if i < f.n1 ∧ j < f.n2 ∧ q = 0 then some (i, j) else none

/-- Offsets of the registers (of the first instance, for an array). -/

def Reg.HUB_ID : Nat := 0x0
def Reg.HUB_REV : Nat := 0x4
def Reg.HUB_SERIAL_LO : Nat := 0x8
def Reg.HUB_SERIAL_HI : Nat := 0xC
def Reg.HUB_MMIO_ERR_ADDR : Nat := 0x10
def Reg.HUB_MMIO_ERR_CNT : Nat := 0x14
def Reg.HUB_FEAT0 : Nat := 0x40
def Reg.HUB_FEAT1 : Nat := 0x44
def Reg.HUB_FEAT2 : Nat := 0x48
def Reg.HUB_FEAT3 : Nat := 0x4C
def Reg.HUB_FEAT4 : Nat := 0x50
def Reg.HUB_FEAT5 : Nat := 0x54
def Reg.HUB_FEAT6 : Nat := 0x58
def Reg.HUB_FEAT7 : Nat := 0x5C
def Reg.HUB_HASH_PROBE_LO : Nat := 0x80
def Reg.HUB_HASH_PROBE_HI : Nat := 0x84
def Reg.HUB_HASH_RESULT : Nat := 0x88
def Reg.HUB_HASH_INFO : Nat := 0x8C
def Reg.HUB_ZFILL_BASE_LO : Nat := 0x90
def Reg.HUB_ZFILL_BASE_HI : Nat := 0x94
def Reg.HUB_ZFILL_LEN_LO : Nat := 0x98
def Reg.HUB_ZFILL_LEN_HI : Nat := 0x9C
def Reg.HUB_ZFILL_CTRL : Nat := 0xA0
def Reg.HUB_ZFILL_STATUS : Nat := 0xA4
def Reg.HUB_ZFILL_POS_LO : Nat := 0xA8
def Reg.HUB_ZFILL_POS_HI : Nat := 0xAC
def Reg.HUB_ZFILL_PCT : Nat := 0xB0
def Reg.HUB_TINV_KEY_LO : Nat := 0xC0
def Reg.HUB_TINV_KEY_HI : Nat := 0xC4
def Reg.HUB_TINV_CTRL : Nat := 0xC8
def Reg.HUB_TINV_STATUS : Nat := 0xCC
def Reg.HUB_LMAP : Nat := 0x400
def Reg.IMG_CTRL : Nat := 0x100000
def Reg.IMG_STATUS : Nat := 0x100004
def Reg.IMG_SRC_LO : Nat := 0x100008
def Reg.IMG_SRC_HI : Nat := 0x10000C
def Reg.IMG_LEN : Nat := 0x100010
def Reg.IMG_ERR : Nat := 0x100014
def Reg.IMG_LOAD_PCT : Nat := 0x100018
def Reg.IMG_MIGRATE : Nat := 0x10001C
def Reg.IMG_LOAD_POS_LO : Nat := 0x100020
def Reg.IMG_LOAD_POS_HI : Nat := 0x100024
def Reg.IMG_GEN_LO : Nat := 0x100028
def Reg.IMG_GEN_HI : Nat := 0x10002C
def Reg.IMG_DIGEST : Nat := 0x100040
def Reg.SEQ_DESC_BASE_LO : Nat := 0x200000
def Reg.SEQ_DESC_BASE_HI : Nat := 0x200004
def Reg.SEQ_PREFIX_FREE : Nat := 0x200008
def Reg.SEQ_EMPTY_LO : Nat := 0x200010
def Reg.SEQ_EMPTY_HI : Nat := 0x200014
def Reg.SEQ_CTX_PCT : Nat := 0x200018
def Reg.SEQ_CTX_POS_LO : Nat := 0x200020
def Reg.SEQ_CTX_POS_HI : Nat := 0x200024
def Reg.SEQ_LCTRL : Nat := 0x201000
def Reg.SEQ_LSTAT : Nat := 0x201004
def Reg.SEQ_SUBQ_LO : Nat := 0x201008
def Reg.SEQ_SUBQ_HI : Nat := 0x20100C
def Reg.SEQ_SUBQ_SIZE : Nat := 0x201010
def Reg.SEQ_SUBQ_TAIL : Nat := 0x201014
def Reg.SEQ_SUBQ_HEAD : Nat := 0x201018
def Reg.SEQ_LERR : Nat := 0x20101C
def Reg.SEQ_STEP_LO : Nat := 0x201020
def Reg.SEQ_STEP_HI : Nat := 0x201024
def Reg.SEQ_DETOK_LO : Nat := 0x201028
def Reg.SEQ_DETOK_HI : Nat := 0x20102C
def Reg.SEQ_DETOK_COUNT : Nat := 0x201030
def Reg.SEQ_WINCTRL : Nat := 0x201034
def Reg.SEQ_WSTART_LO : Nat := 0x201040
def Reg.SEQ_WSTART_HI : Nat := 0x201044
def Reg.SEQ_WSTOP_LO : Nat := 0x201048
def Reg.SEQ_WSTOP_HI : Nat := 0x20104C
def Reg.SEQ_REPLAYS : Nat := 0x201050
def Reg.SEQ_RINGWAIT : Nat := 0x201054
def Reg.SEQ_TDESC : Nat := 0x209000
def Reg.SEQ_TDCNT : Nat := 0x209004
def Reg.SEQ_TPQUOTA : Nat := 0x209008
def Reg.SEQ_TTOK : Nat := 0x20900C
def Reg.SEQ_THELD : Nat := 0x209010
def Reg.KVM_ATT_LO : Nat := 0x300000
def Reg.KVM_ATT_HI : Nat := 0x300004
def Reg.KVM_ATT_FREE : Nat := 0x300008
def Reg.KVM_FREE_SEL : Nat := 0x30000C
def Reg.KVM_FREE_PAGES : Nat := 0x300010
def Reg.KVM_FREE_PAIRS : Nat := 0x300014
def Reg.KVM_ZEROING : Nat := 0x300018
def Reg.KVM_EVENT : Nat := 0x30001C
def Reg.KVM_ERR : Nat := 0x300020
def Reg.KVM_ERR_SEQ : Nat := 0x300024
def Reg.KVM_SWAPTAB_LO : Nat := 0x300028
def Reg.KVM_SWAPTAB_HI : Nat := 0x30002C
def Reg.KVM_SWAP_STATUS : Nat := 0x300030
def Reg.KVM_SWAP_POS_LO : Nat := 0x300038
def Reg.KVM_SWAP_POS_HI : Nat := 0x30003C
def Reg.KVM_SWAP_PCT : Nat := 0x300040
def Reg.KVM_EVICTED_LO : Nat := 0x300048
def Reg.KVM_EVICTED_HI : Nat := 0x30004C
def Reg.KVM_PREEMPTS : Nat := 0x300050
def Reg.KVM_PARKS : Nat := 0x300054
def Reg.KVM_COWS : Nat := 0x300058
def Reg.KVM_HKVTAB_LO : Nat := 0x300060
def Reg.KVM_HKVTAB_HI : Nat := 0x300064
def Reg.KVM_TCFG : Nat := 0x301000
def Reg.IRQ_CTRL : Nat := 0x400000
def Reg.IRQ_STATUS : Nat := 0x400004
def Reg.IRQ_SPURIOUS : Nat := 0x400008
def Reg.IRQ_SWSET : Nat := 0x40000C
def Reg.IRQ_SRC_SEL : Nat := 0x400010
def Reg.IRQ_SRC_CFG : Nat := 0x400014
def Reg.IRQ_CLAIM_SUP : Nat := 0x400020
def Reg.IRQ_CPL_SUP : Nat := 0x400024
def Reg.IRQ_CLAIM_MGT : Nat := 0x400028
def Reg.IRQ_CPL_MGT : Nat := 0x40002C
def Reg.IRQ_PEND : Nat := 0x401000
def Reg.IRQ_VCLAIM : Nat := 0x408000
def Reg.IRQ_VCPL : Nat := 0x408004
def Reg.PWR_LIMIT : Nat := 0x500000
def Reg.PWR_STATUS : Nat := 0x500004
def Reg.PWR_EVENT : Nat := 0x500008
def Reg.PWR_REQ : Nat := 0x50000C
def Reg.PWR_REQ_ADDR_LO : Nat := 0x500010
def Reg.PWR_REQ_ADDR_HI : Nat := 0x500014
def Reg.PWR_REQ_STATUS : Nat := 0x500018
def Reg.PWR_REFUSE_LAST : Nat := 0x50001C
def Reg.PWR_REFUSE_ARB : Nat := 0x500020
def Reg.PWR_REFUSE_BUSY : Nat := 0x500024
def Reg.PWR_REFUSE_THERM : Nat := 0x500028
def Reg.PWR_REFUSE_SAFE : Nat := 0x50002C
def Reg.PWR_REFUSE_HOLD : Nat := 0x500030
def Reg.PWR_REFUSE_TRACE : Nat := 0x500034
def Reg.PWR_DOM : Nat := 0x500040
def Reg.PWR_CON_SEL : Nat := 0x500080
def Reg.PWR_CON_SHARE : Nat := 0x500084
def Reg.PWR_CON_STAT : Nat := 0x500088
def Reg.PWR_AVS_STATUS : Nat := 0x500090
def Reg.PWR_AVS_FAILS : Nat := 0x500094
def Reg.PWR_WAKE_AT_LO : Nat := 0x500098
def Reg.PWR_WAKE_AT_HI : Nat := 0x50009C
def Reg.PWR_STATES : Nat := 0x5000A0
def Reg.PWR_TRACE_WR_LO : Nat := 0x5000A8
def Reg.PWR_TRACE_WR_HI : Nat := 0x5000AC
def Reg.PWR_TRACE_LOST : Nat := 0x5000B0
def Reg.CLU_PWR : Nat := 0x200F000
def Reg.THM_DIE : Nat := 0x600000
def Reg.THM_EVENT : Nat := 0x600040
def Reg.MER_COUNT_LO : Nat := 0x700000
def Reg.MER_COUNT_HI : Nat := 0x700004
def Reg.MER_CTRL : Nat := 0x700008
def Reg.MER_PARENT : Nat := 0x70000C
def Reg.MER_STATUS : Nat := 0x700010
def Reg.MER_OFFSET : Nat := 0x700014
def Reg.MER_SET_LO : Nat := 0x700018
def Reg.MER_SET_HI : Nat := 0x70001C
def Reg.RAS_EVENT : Nat := 0x800000
def Reg.RAS_ERR : Nat := 0x800004
def Reg.RAS_ERR_ADDR_LO : Nat := 0x800008
def Reg.RAS_ERR_ADDR_HI : Nat := 0x80000C
def Reg.RAS_CE_LO : Nat := 0x800010
def Reg.RAS_CE_HI : Nat := 0x800014
def Reg.RAS_UE_LO : Nat := 0x800018
def Reg.RAS_UE_HI : Nat := 0x80001C
def Reg.RAS_SPARES : Nat := 0x800020
def Reg.RAS_ROWS : Nat := 0x800024
def Reg.RAS_RETREC_LO : Nat := 0x800028
def Reg.RAS_RETREC_HI : Nat := 0x80002C
def Reg.RAS_RGN_SEL : Nat := 0x800040
def Reg.RAS_RGN_CTRL : Nat := 0x800044
def Reg.RAS_RGN_BASE_LO : Nat := 0x800048
def Reg.RAS_RGN_BASE_HI : Nat := 0x80004C
def Reg.RAS_RGN_LEN_LO : Nat := 0x800050
def Reg.RAS_RGN_LEN_HI : Nat := 0x800054
def Reg.RAS_RGN_SRC_LO : Nat := 0x800058
def Reg.RAS_RGN_SRC_HI : Nat := 0x80005C
def Reg.RAS_SCRUB_BASE_LO : Nat := 0x800080
def Reg.RAS_SCRUB_BASE_HI : Nat := 0x800084
def Reg.RAS_SCRUB_LEN_LO : Nat := 0x800088
def Reg.RAS_SCRUB_LEN_HI : Nat := 0x80008C
def Reg.RAS_SCRUB_CTRL : Nat := 0x800090
def Reg.RAS_SCRUB_STATUS : Nat := 0x800094
def Reg.RAS_SCRUB_POS_LO : Nat := 0x800098
def Reg.RAS_SCRUB_POS_HI : Nat := 0x80009C
def Reg.RAS_SCRUB_PCT : Nat := 0x8000A0
def Reg.RAS_SCRUB_CE : Nat := 0x8000A4
def Reg.RAS_SCRUB_UE : Nat := 0x8000A8
def Reg.RAS_SCRUB_RETIRED : Nat := 0x8000AC
def Reg.RAS_SCRUB_FIRST_LO : Nat := 0x8000B0
def Reg.RAS_SCRUB_FIRST_HI : Nat := 0x8000B4
def Reg.RAS_SCRUB_LAST_LO : Nat := 0x8000B8
def Reg.RAS_SCRUB_LAST_HI : Nat := 0x8000BC
def Reg.SAF_STATUS : Nat := 0x900000
def Reg.SAF_EVENT : Nat := 0x900004
def Reg.SAF_RECOV : Nat := 0x900008
def Reg.SAF_LAST : Nat := 0x90000C
def Reg.SAF_CKPT_LO : Nat := 0x900010
def Reg.SAF_CKPT_HI : Nat := 0x900014
def Reg.BST_CTRL : Nat := 0xA00000
def Reg.BST_STATUS : Nat := 0xA00004
def Reg.BST_EVENT : Nat := 0xA00008
def Reg.BST_LAST : Nat := 0xA0000C
def Reg.BST_POS_LO : Nat := 0xA00010
def Reg.BST_POS_HI : Nat := 0xA00014
def Reg.BST_PCT : Nat := 0xA00018
def Reg.BST_AGE : Nat := 0xA0001C
def Reg.BST_FAILS : Nat := 0xA00020
def Reg.BST_DIR_CTRL : Nat := 0xA00040
def Reg.BST_DIR_SEED_LO : Nat := 0xA00048
def Reg.BST_DIR_SEED_HI : Nat := 0xA0004C
def Reg.BST_DIR_SIG_LO : Nat := 0xA00050
def Reg.BST_DIR_SIG_HI : Nat := 0xA00054
def Reg.SEC_LCS : Nat := 0xB00000
def Reg.SEC_BOOT : Nat := 0xB00004
def Reg.SEC_KEYSLOT : Nat := 0xB00008
def Reg.SEC_FLOOR_LO : Nat := 0xB00010
def Reg.SEC_FLOOR_HI : Nat := 0xB00014
def Reg.SEC_FLOOR_SET_LO : Nat := 0xB00018
def Reg.SEC_FLOOR_SET_HI : Nat := 0xB0001C
def Reg.SEC_ALARM : Nat := 0xB00020
def Reg.SEC_ALARM_LVL : Nat := 0xB00024
def Reg.SEC_AUTHFAIL : Nat := 0xB00028
def Reg.SEC_TKEY_SEL : Nat := 0xB0002C
def Reg.SEC_TKEY_CTRL : Nat := 0xB00030
def Reg.SEC_TKEY_STATUS : Nat := 0xB00034
def Reg.CKR_REF_CTRL : Nat := 0xC00000
def Reg.CKR_REF_STATUS : Nat := 0xC00004
def Reg.CKR_REF_PPM : Nat := 0xC00008
def Reg.CKR_EVENT : Nat := 0xC0000C
def Reg.CKR_XSTAT : Nat := 0xC00010
def Reg.CKR_FIFO_DROP : Nat := 0xC00014
def Reg.CKR_RST : Nat := 0xC00020
def Reg.CKR_RST_STATUS : Nat := 0xC00024
def Reg.CKR_RST_CAUSE : Nat := 0xC00028
def Reg.CKR_BOOT : Nat := 0xC00030
def Reg.CKR_TRAIN_POS_LO : Nat := 0xC00038
def Reg.CKR_TRAIN_POS_HI : Nat := 0xC0003C
def Reg.CKR_TRAIN_PCT : Nat := 0xC00040
def Reg.CKR_TRAIN_CTRL : Nat := 0xC00044
def Reg.CKR_TRAIN_PARAM_LO : Nat := 0xC00048
def Reg.CKR_TRAIN_PARAM_HI : Nat := 0xC0004C
def Reg.HPT_LINK : Nat := 0xD00000
def Reg.HPT_EVENT : Nat := 0xD00004
def Reg.HPT_OTBL_LO : Nat := 0xD00008
def Reg.HPT_OTBL_HI : Nat := 0xD0000C
def Reg.HPT_OERR_LO : Nat := 0xD00010
def Reg.HPT_OERR_HI : Nat := 0xD00014
def Reg.HPT_HDM_BASE_LO : Nat := 0xD00018
def Reg.HPT_HDM_BASE_HI : Nat := 0xD0001C
def Reg.HPT_HDM_SIZE : Nat := 0xD00020
def Reg.HPT_VFAP_LO : Nat := 0xD00808
def Reg.HPT_VFAP_HI : Nat := 0xD0080C
def Reg.FAB_DEVID : Nat := 0xE00000
def Reg.FAB_CTRL : Nat := 0xE00004
def Reg.FAB_EVENT : Nat := 0xE00008
def Reg.FAB_ERR : Nat := 0xE0000C
def Reg.FAB_ERR_DEV : Nat := 0xE00010
def Reg.FAB_COLL_LO : Nat := 0xE00018
def Reg.FAB_COLL_HI : Nat := 0xE0001C
def Reg.FAB_COLL_FREE : Nat := 0xE00020
def Reg.FAB_BUDDY : Nat := 0xE00028
def Reg.FAB_BUDDY_LOG_LO : Nat := 0xE00030
def Reg.FAB_BUDDY_LOG_HI : Nat := 0xE00034
def Reg.FAB_BUDDY_SIZE : Nat := 0xE00038
def Reg.FAB_SHADOW_SRC : Nat := 0xE0003C
def Reg.FAB_SHADOW_BASE_LO : Nat := 0xE00040
def Reg.FAB_SHADOW_BASE_HI : Nat := 0xE00044
def Reg.FAB_SHADOW_SIZE : Nat := 0xE00048
def Reg.FAB_PORT_CTRL : Nat := 0xE01000
def Reg.FAB_PORT_STAT : Nat := 0xE01004
def Reg.FAB_PORT_CRC : Nat := 0xE01008
def Reg.FAB_PORT_REPLAY : Nat := 0xE0100C
def Reg.FAB_PORT_AUTH : Nat := 0xE01010
def Reg.FAB_PORT_RETRAIN : Nat := 0xE01014
def Reg.FAB_PORT_FLITS_LO : Nat := 0xE01018
def Reg.FAB_PORT_FLITS_HI : Nat := 0xE0101C
def Reg.STK_INFO : Nat := 0x1000000
def Reg.STK_MODE : Nat := 0x1000004
def Reg.STK_DIESTATE : Nat := 0x1000008
def Reg.STK_STATUS : Nat := 0x100000C
def Reg.STK_EVENT : Nat := 0x1000010
def Reg.STK_CMD_ERR : Nat := 0x1000014
def Reg.STK_CMD_ERR_TAG : Nat := 0x1000018
def Reg.STK_ACT_LO : Nat := 0x1000020
def Reg.STK_ACT_HI : Nat := 0x1000024
def Reg.STK_TPAW_WAIT_LO : Nat := 0x1000028
def Reg.STK_TPAW_WAIT_HI : Nat := 0x100002C
def Reg.STK_DIETEMP : Nat := 0x1000040
def Reg.STK_CQ : Nat := 0x1000100
def Reg.CLU_LAUNCH_LO : Nat := 0x2000000
def Reg.CLU_LAUNCH_HI : Nat := 0x2000004
def Reg.CLU_LSTAT : Nat := 0x2000008
def Reg.CLU_FAULT : Nat := 0x2000010
def Reg.CLU_FAULT_PC_LO : Nat := 0x2000018
def Reg.CLU_FAULT_PC_HI : Nat := 0x200001C
def Reg.CLU_ICTRL : Nat := 0x2000020
def Reg.CLU_PC_LO : Nat := 0x2000028
def Reg.CLU_PC_HI : Nat := 0x200002C
def Reg.CLU_ARR_MODE : Nat := 0x2009000
def Reg.CLU_ARR_STATUS : Nat := 0x2009004
def Reg.CLU_ARR_EVENT : Nat := 0x2009008
def Reg.CLU_ARR_ERR : Nat := 0x200900C
def Reg.CLU_ARR_ERR_TAG : Nat := 0x2009010
def Reg.CLU_ARR_STEPS_LO : Nat := 0x2009020
def Reg.CLU_ARR_STEPS_HI : Nat := 0x2009024
def Reg.CLU_ARR_BUBBLES_LO : Nat := 0x2009028
def Reg.CLU_ARR_BUBBLES_HI : Nat := 0x200902C
def Reg.CLU_ARR_DUMMY_LO : Nat := 0x2009030
def Reg.CLU_ARR_DUMMY_HI : Nat := 0x2009034
def Reg.CLU_ARR_FREEZES_LO : Nat := 0x2009038
def Reg.CLU_ARR_FREEZES_HI : Nat := 0x200903C
def Reg.CLU_ARR_RECOMP : Nat := 0x2009040
def Reg.CON_INFO : Nat := 0x4008000

/-- HUB_ID.PART (R26). -/
def Fld.HUB_ID_PART : Field := ⟨Reg.HUB_ID, 1, 0, 1, 0, 0, 16, .ro, 5430, 1⟩
/-- HUB_ID.FAMILY (R26). -/
def Fld.HUB_ID_FAMILY : Field := ⟨Reg.HUB_ID, 1, 0, 1, 0, 16, 16, .ro, 19544, 1⟩
/-- HUB_REV.MINOR (R27). -/
def Fld.HUB_REV_MINOR : Field := ⟨Reg.HUB_REV, 1, 0, 1, 0, 0, 4, .ro, 0, 1⟩
/-- HUB_REV.MAJOR (R27). -/
def Fld.HUB_REV_MAJOR : Field := ⟨Reg.HUB_REV, 1, 0, 1, 0, 4, 4, .ro, 1, 1⟩
/-- HUB_REV.GRADE (R27). -/
def Fld.HUB_REV_GRADE : Field := ⟨Reg.HUB_REV, 1, 0, 1, 0, 8, 4, .ro, 1, 1⟩
/-- HUB_REV.LIT (R27). -/
def Fld.HUB_REV_LIT : Field := ⟨Reg.HUB_REV, 1, 0, 1, 0, 12, 4, .ro, 8, 1⟩
/-- HUB_MMIO_ERR_ADDR.OFFSET (R29). -/
def Fld.HUB_MMIO_ERR_ADDR_OFFSET : Field := ⟨Reg.HUB_MMIO_ERR_ADDR, 1, 0, 1, 0, 0, 27, .ro, 0, 3⟩
/-- HUB_MMIO_ERR_ADDR.SRC (R29). -/
def Fld.HUB_MMIO_ERR_ADDR_SRC : Field := ⟨Reg.HUB_MMIO_ERR_ADDR, 1, 0, 1, 0, 27, 2, .ro, 0, 3⟩
/-- HUB_MMIO_ERR_ADDR.OVERRUN (R29). -/
def Fld.HUB_MMIO_ERR_ADDR_OVERRUN : Field := ⟨Reg.HUB_MMIO_ERR_ADDR, 1, 0, 1, 0, 29, 1, .w1c, 0, 3⟩
/-- HUB_MMIO_ERR_ADDR.VALID (R29). -/
def Fld.HUB_MMIO_ERR_ADDR_VALID : Field := ⟨Reg.HUB_MMIO_ERR_ADDR, 1, 0, 1, 0, 31, 1, .w1c, 0, 3⟩
/-- HUB_MMIO_ERR_CNT.COUNT (R30). -/
def Fld.HUB_MMIO_ERR_CNT_COUNT : Field := ⟨Reg.HUB_MMIO_ERR_CNT, 1, 0, 1, 0, 0, 32, .rc, 0, 3⟩
/-- HUB_LMAP.PHYS (R31). -/
def Fld.HUB_LMAP_PHYS : Field := ⟨Reg.HUB_LMAP, 144, 4, 1, 0, 0, 8, .ro, 0, 3⟩
/-- CON_INFO.LEAVES (R45). -/
def Fld.CON_INFO_LEAVES : Field := ⟨Reg.CON_INFO, 1024, 65536, 1, 0, 0, 8, .ro, 0, 3⟩
/-- CON_INFO.LEVEL (R45). -/
def Fld.CON_INFO_LEVEL : Field := ⟨Reg.CON_INFO, 1024, 65536, 1, 0, 8, 3, .ro, 0, 3⟩
/-- CON_INFO.BOUND (R45). -/
def Fld.CON_INFO_BOUND : Field := ⟨Reg.CON_INFO, 1024, 65536, 1, 0, 11, 1, .ro, 0, 3⟩
/-- CON_INFO.TENANT (R45). -/
def Fld.CON_INFO_TENANT : Field := ⟨Reg.CON_INFO, 1024, 65536, 1, 0, 12, 10, .ro, 0, 3⟩
/-- CON_INFO.PARENT (R45). -/
def Fld.CON_INFO_PARENT : Field := ⟨Reg.CON_INFO, 1024, 65536, 1, 0, 22, 10, .ro, 0, 3⟩
/-- IMG_CTRL.START (R57). -/
def Fld.IMG_CTRL_START : Field := ⟨Reg.IMG_CTRL, 1, 0, 1, 0, 0, 1, .wo, 0, 8⟩
/-- IMG_CTRL.ABORT (R57). -/
def Fld.IMG_CTRL_ABORT : Field := ⟨Reg.IMG_CTRL, 1, 0, 1, 0, 1, 1, .wo, 0, 8⟩
/-- IMG_CTRL.SRC_KIND (R57). -/
def Fld.IMG_CTRL_SRC_KIND : Field := ⟨Reg.IMG_CTRL, 1, 0, 1, 0, 2, 2, .rw, 0, 3⟩
/-- IMG_STATUS.STATE (R58). -/
def Fld.IMG_STATUS_STATE : Field := ⟨Reg.IMG_STATUS, 1, 0, 1, 0, 0, 3, .ro, 0, 3⟩
/-- IMG_STATUS.SCOPE (R58). -/
def Fld.IMG_STATUS_SCOPE : Field := ⟨Reg.IMG_STATUS, 1, 0, 1, 0, 3, 2, .ro, 0, 3⟩
/-- IMG_STATUS.TARGET (R58). -/
def Fld.IMG_STATUS_TARGET : Field := ⟨Reg.IMG_STATUS, 1, 0, 1, 0, 5, 10, .ro, 0, 3⟩
/-- IMG_STATUS.REF_BUSY (R58). -/
def Fld.IMG_STATUS_REF_BUSY : Field := ⟨Reg.IMG_STATUS, 1, 0, 1, 0, 28, 1, .w1c, 0, 3⟩
/-- IMG_STATUS.REF_DENIED (R58). -/
def Fld.IMG_STATUS_REF_DENIED : Field := ⟨Reg.IMG_STATUS, 1, 0, 1, 0, 29, 1, .w1c, 0, 3⟩
/-- IMG_STATUS.END (R58). -/
def Fld.IMG_STATUS_END : Field := ⟨Reg.IMG_STATUS, 1, 0, 1, 0, 30, 1, .w1c, 0, 3⟩
/-- IMG_ERR.CODE (R59). -/
def Fld.IMG_ERR_CODE : Field := ⟨Reg.IMG_ERR, 1, 0, 1, 0, 0, 8, .ro, 0, 3⟩
/-- IMG_ERR.SECTION (R59). -/
def Fld.IMG_ERR_SECTION : Field := ⟨Reg.IMG_ERR, 1, 0, 1, 0, 8, 8, .ro, 0, 3⟩
/-- IMG_ERR.DETAIL (R59). -/
def Fld.IMG_ERR_DETAIL : Field := ⟨Reg.IMG_ERR, 1, 0, 1, 0, 16, 16, .ro, 0, 3⟩
/-- IMG_SRC_LO.ADDR (R60). -/
def Fld.IMG_SRC_LO_ADDR : Field := ⟨Reg.IMG_SRC_LO, 1, 0, 1, 0, 0, 32, .rw, 0, 3⟩
/-- IMG_SRC_HI.ADDR (R60). -/
def Fld.IMG_SRC_HI_ADDR : Field := ⟨Reg.IMG_SRC_HI, 1, 0, 1, 0, 0, 32, .rw, 0, 3⟩
/-- IMG_LEN.BYTES (R60). -/
def Fld.IMG_LEN_BYTES : Field := ⟨Reg.IMG_LEN, 1, 0, 1, 0, 0, 29, .rw, 0, 3⟩
/-- IMG_LOAD_PCT.PCT (R60). -/
def Fld.IMG_LOAD_PCT_PCT : Field := ⟨Reg.IMG_LOAD_PCT, 1, 0, 1, 0, 0, 10, .ro, 0, 3⟩
/-- IMG_MIGRATE.RATE (R60). -/
def Fld.IMG_MIGRATE_RATE : Field := ⟨Reg.IMG_MIGRATE, 1, 0, 1, 0, 0, 10, .rw, 100, 3⟩
/-- IMG_LOAD_POS_LO.POS (R60). -/
def Fld.IMG_LOAD_POS_LO_POS : Field := ⟨Reg.IMG_LOAD_POS_LO, 1, 0, 1, 0, 0, 32, .ro, 0, 3⟩
/-- IMG_LOAD_POS_HI.POS (R60). -/
def Fld.IMG_LOAD_POS_HI_POS : Field := ⟨Reg.IMG_LOAD_POS_HI, 1, 0, 1, 0, 0, 32, .ro, 0, 3⟩
/-- IMG_GEN_LO.GEN (R60). -/
def Fld.IMG_GEN_LO_GEN : Field := ⟨Reg.IMG_GEN_LO, 1, 0, 1, 0, 0, 32, .ro, 0, 3⟩
/-- IMG_GEN_HI.GEN (R60). -/
def Fld.IMG_GEN_HI_GEN : Field := ⟨Reg.IMG_GEN_HI, 1, 0, 1, 0, 0, 32, .ro, 0, 3⟩
/-- IMG_DIGEST.WORD (R60). -/
def Fld.IMG_DIGEST_WORD : Field := ⟨Reg.IMG_DIGEST, 12, 4, 1, 0, 0, 32, .ro, 0, 3⟩
/-- HUB_HASH_PROBE_LO.OFFSET (R98). -/
def Fld.HUB_HASH_PROBE_LO_OFFSET : Field := ⟨Reg.HUB_HASH_PROBE_LO, 1, 0, 1, 0, 0, 32, .rw, 0, 3⟩
/-- HUB_HASH_PROBE_HI.OFFSET (R98). -/
def Fld.HUB_HASH_PROBE_HI_OFFSET : Field := ⟨Reg.HUB_HASH_PROBE_HI, 1, 0, 1, 0, 0, 9, .rw, 0, 3⟩
/-- HUB_HASH_RESULT.CHANNEL (R98). -/
def Fld.HUB_HASH_RESULT_CHANNEL : Field := ⟨Reg.HUB_HASH_RESULT, 1, 0, 1, 0, 0, 6, .ro, 0, 3⟩
/-- HUB_HASH_RESULT.STACK (R98). -/
def Fld.HUB_HASH_RESULT_STACK : Field := ⟨Reg.HUB_HASH_RESULT, 1, 0, 1, 0, 6, 4, .ro, 0, 3⟩
/-- HUB_HASH_RESULT.PC (R98). -/
def Fld.HUB_HASH_RESULT_PC : Field := ⟨Reg.HUB_HASH_RESULT, 1, 0, 1, 0, 10, 1, .ro, 0, 3⟩
/-- HUB_HASH_RESULT.BANK (R98). -/
def Fld.HUB_HASH_RESULT_BANK : Field := ⟨Reg.HUB_HASH_RESULT, 1, 0, 1, 0, 11, 4, .ro, 0, 3⟩
/-- HUB_HASH_RESULT.ROW (R98). -/
def Fld.HUB_HASH_RESULT_ROW : Field := ⟨Reg.HUB_HASH_RESULT, 1, 0, 1, 0, 15, 16, .ro, 0, 3⟩
/-- HUB_HASH_RESULT.VALID (R98). -/
def Fld.HUB_HASH_RESULT_VALID : Field := ⟨Reg.HUB_HASH_RESULT, 1, 0, 1, 0, 31, 1, .ro, 0, 3⟩
/-- HUB_HASH_INFO.CHANNELS (R98). -/
def Fld.HUB_HASH_INFO_CHANNELS : Field := ⟨Reg.HUB_HASH_INFO, 1, 0, 1, 0, 0, 10, .ro, 0, 3⟩
/-- HUB_ZFILL_BASE_LO.OFFSET (R103). -/
def Fld.HUB_ZFILL_BASE_LO_OFFSET : Field := ⟨Reg.HUB_ZFILL_BASE_LO, 1, 0, 1, 0, 0, 32, .rw, 0, 3⟩
/-- HUB_ZFILL_BASE_HI.OFFSET (R103). -/
def Fld.HUB_ZFILL_BASE_HI_OFFSET : Field := ⟨Reg.HUB_ZFILL_BASE_HI, 1, 0, 1, 0, 0, 9, .rw, 0, 3⟩
/-- HUB_ZFILL_LEN_LO.BYTES (R103). -/
def Fld.HUB_ZFILL_LEN_LO_BYTES : Field := ⟨Reg.HUB_ZFILL_LEN_LO, 1, 0, 1, 0, 0, 32, .rw, 0, 3⟩
/-- HUB_ZFILL_LEN_HI.BYTES (R103). -/
def Fld.HUB_ZFILL_LEN_HI_BYTES : Field := ⟨Reg.HUB_ZFILL_LEN_HI, 1, 0, 1, 0, 0, 10, .rw, 0, 3⟩
/-- HUB_ZFILL_CTRL.START (R103). -/
def Fld.HUB_ZFILL_CTRL_START : Field := ⟨Reg.HUB_ZFILL_CTRL, 1, 0, 1, 0, 0, 1, .wo, 0, 8⟩
/-- HUB_ZFILL_CTRL.ABORT (R103). -/
def Fld.HUB_ZFILL_CTRL_ABORT : Field := ⟨Reg.HUB_ZFILL_CTRL, 1, 0, 1, 0, 1, 1, .wo, 0, 8⟩
/-- HUB_ZFILL_STATUS.STATE (R103). -/
def Fld.HUB_ZFILL_STATUS_STATE : Field := ⟨Reg.HUB_ZFILL_STATUS, 1, 0, 1, 0, 0, 2, .ro, 0, 3⟩
/-- HUB_ZFILL_STATUS.ERR (R103). -/
def Fld.HUB_ZFILL_STATUS_ERR : Field := ⟨Reg.HUB_ZFILL_STATUS, 1, 0, 1, 0, 2, 3, .ro, 0, 3⟩
/-- HUB_ZFILL_STATUS.END (R103). -/
def Fld.HUB_ZFILL_STATUS_END : Field := ⟨Reg.HUB_ZFILL_STATUS, 1, 0, 1, 0, 30, 1, .w1c, 0, 3⟩
/-- HUB_ZFILL_POS_LO.POS (R103). -/
def Fld.HUB_ZFILL_POS_LO_POS : Field := ⟨Reg.HUB_ZFILL_POS_LO, 1, 0, 1, 0, 0, 32, .ro, 0, 3⟩
/-- HUB_ZFILL_POS_HI.POS (R103). -/
def Fld.HUB_ZFILL_POS_HI_POS : Field := ⟨Reg.HUB_ZFILL_POS_HI, 1, 0, 1, 0, 0, 32, .ro, 0, 3⟩
/-- HUB_ZFILL_PCT.PCT (R103). -/
def Fld.HUB_ZFILL_PCT_PCT : Field := ⟨Reg.HUB_ZFILL_PCT, 1, 0, 1, 0, 0, 10, .ro, 0, 3⟩
/-- STK_INFO.LIT (R147). -/
def Fld.STK_INFO_LIT : Field := ⟨Reg.STK_INFO, 12, 65536, 1, 0, 0, 1, .ro, 0, 1⟩
/-- STK_INFO.RIDS (R147). -/
def Fld.STK_INFO_RIDS : Field := ⟨Reg.STK_INFO, 12, 65536, 1, 0, 1, 8, .ro, 0, 7⟩
/-- STK_MODE.PMASK (R147). -/
def Fld.STK_MODE_PMASK : Field := ⟨Reg.STK_MODE, 12, 65536, 1, 0, 0, 16, .ro, 0, 3⟩
/-- STK_MODE.CHANGING (R147). -/
def Fld.STK_MODE_CHANGING : Field := ⟨Reg.STK_MODE, 12, 65536, 1, 0, 16, 1, .ro, 0, 3⟩
/-- STK_DIESTATE.ALLOW (R147). -/
def Fld.STK_DIESTATE_ALLOW : Field := ⟨Reg.STK_DIESTATE, 12, 65536, 1, 0, 0, 32, .ro, 0, 8⟩
/-- STK_STATUS.THROT (R147). -/
def Fld.STK_STATUS_THROT : Field := ⟨Reg.STK_STATUS, 12, 65536, 1, 0, 0, 4, .ro, 0, 8⟩
/-- STK_STATUS.WHOLD (R147). -/
def Fld.STK_STATUS_WHOLD : Field := ⟨Reg.STK_STATUS, 12, 65536, 1, 0, 4, 1, .ro, 0, 8⟩
/-- STK_EVENT.WHOLD_ON (R148). -/
def Fld.STK_EVENT_WHOLD_ON : Field := ⟨Reg.STK_EVENT, 12, 65536, 1, 0, 0, 1, .w1c, 0, 3⟩
/-- STK_EVENT.WHOLD_OFF (R148). -/
def Fld.STK_EVENT_WHOLD_OFF : Field := ⟨Reg.STK_EVENT, 12, 65536, 1, 0, 1, 1, .w1c, 0, 3⟩
/-- STK_EVENT.HALVE (R148). -/
def Fld.STK_EVENT_HALVE : Field := ⟨Reg.STK_EVENT, 12, 65536, 1, 0, 2, 1, .w1c, 0, 3⟩
/-- STK_EVENT.CMD_ERR (R148). -/
def Fld.STK_EVENT_CMD_ERR : Field := ⟨Reg.STK_EVENT, 12, 65536, 1, 0, 3, 1, .w1c, 0, 3⟩
/-- STK_EVENT.CHECKSUM (R148). -/
def Fld.STK_EVENT_CHECKSUM : Field := ⟨Reg.STK_EVENT, 12, 65536, 1, 0, 4, 1, .w1c, 0, 3⟩
/-- STK_CMD_ERR.STATUS (R149). -/
def Fld.STK_CMD_ERR_STATUS : Field := ⟨Reg.STK_CMD_ERR, 12, 65536, 1, 0, 0, 8, .ro, 0, 3⟩
/-- STK_CMD_ERR.CHANNEL (R149). -/
def Fld.STK_CMD_ERR_CHANNEL : Field := ⟨Reg.STK_CMD_ERR, 12, 65536, 1, 0, 8, 6, .ro, 0, 3⟩
/-- STK_CMD_ERR.PC (R149). -/
def Fld.STK_CMD_ERR_PC : Field := ⟨Reg.STK_CMD_ERR, 12, 65536, 1, 0, 14, 1, .ro, 0, 3⟩
/-- STK_CMD_ERR.PAIR (R149). -/
def Fld.STK_CMD_ERR_PAIR : Field := ⟨Reg.STK_CMD_ERR, 12, 65536, 1, 0, 15, 3, .ro, 0, 3⟩
/-- STK_CMD_ERR.OPCODE (R149). -/
def Fld.STK_CMD_ERR_OPCODE : Field := ⟨Reg.STK_CMD_ERR, 12, 65536, 1, 0, 18, 8, .ro, 0, 3⟩
/-- STK_CMD_ERR.OVERRUN (R149). -/
def Fld.STK_CMD_ERR_OVERRUN : Field := ⟨Reg.STK_CMD_ERR, 12, 65536, 1, 0, 30, 1, .w1c, 0, 3⟩
/-- STK_CMD_ERR.VALID (R149). -/
def Fld.STK_CMD_ERR_VALID : Field := ⟨Reg.STK_CMD_ERR, 12, 65536, 1, 0, 31, 1, .w1c, 0, 3⟩
/-- STK_CMD_ERR_TAG.TAG (R149). -/
def Fld.STK_CMD_ERR_TAG_TAG : Field := ⟨Reg.STK_CMD_ERR_TAG, 12, 65536, 1, 0, 0, 32, .ro, 0, 3⟩
/-- STK_ACT_LO.COUNT (R150). -/
def Fld.STK_ACT_LO_COUNT : Field := ⟨Reg.STK_ACT_LO, 12, 65536, 1, 0, 0, 32, .ro, 0, 3⟩
/-- STK_ACT_HI.COUNT (R150). -/
def Fld.STK_ACT_HI_COUNT : Field := ⟨Reg.STK_ACT_HI, 12, 65536, 1, 0, 0, 32, .ro, 0, 3⟩
/-- STK_TPAW_WAIT_LO.COUNT (R150). -/
def Fld.STK_TPAW_WAIT_LO_COUNT : Field := ⟨Reg.STK_TPAW_WAIT_LO, 12, 65536, 1, 0, 0, 32, .ro, 0, 3⟩
/-- STK_TPAW_WAIT_HI.COUNT (R150). -/
def Fld.STK_TPAW_WAIT_HI_COUNT : Field := ⟨Reg.STK_TPAW_WAIT_HI, 12, 65536, 1, 0, 0, 32, .ro, 0, 3⟩
/-- STK_DIETEMP.TEMP (R150). -/
def Fld.STK_DIETEMP_TEMP : Field := ⟨Reg.STK_DIETEMP, 12, 65536, 4, 4, 0, 32, .ro, 0, 8⟩
/-- STK_CQ.CMD_FREE (R150). -/
def Fld.STK_CQ_CMD_FREE : Field := ⟨Reg.STK_CQ, 12, 65536, 64, 4, 0, 8, .ro, 128, 8⟩
/-- STK_CQ.PAY_FREE (R150). -/
def Fld.STK_CQ_PAY_FREE : Field := ⟨Reg.STK_CQ, 12, 65536, 64, 4, 8, 9, .ro, 256, 8⟩
/-- CLU_ARR_MODE.FREEZE (R174). -/
def Fld.CLU_ARR_MODE_FREEZE : Field := ⟨Reg.CLU_ARR_MODE, 152, 65536, 1, 0, 0, 1, .rw, 0, 6⟩
/-- CLU_ARR_MODE.FREEZE_ACT (R174). -/
def Fld.CLU_ARR_MODE_FREEZE_ACT : Field := ⟨Reg.CLU_ARR_MODE, 152, 65536, 1, 0, 1, 1, .ro, 0, 6⟩
/-- CLU_ARR_STATUS.BANKBUSY (R174). -/
def Fld.CLU_ARR_STATUS_BANKBUSY : Field := ⟨Reg.CLU_ARR_STATUS, 152, 65536, 1, 0, 0, 4, .ro, 0, 8⟩
/-- CLU_ARR_STATUS.STREAM (R174). -/
def Fld.CLU_ARR_STATUS_STREAM : Field := ⟨Reg.CLU_ARR_STATUS, 152, 65536, 1, 0, 4, 1, .ro, 0, 8⟩
/-- CLU_ARR_STATUS.LEVEL (R174). -/
def Fld.CLU_ARR_STATUS_LEVEL : Field := ⟨Reg.CLU_ARR_STATUS, 152, 65536, 1, 0, 5, 5, .ro, 0, 8⟩
/-- CLU_ARR_STATUS.PACK (R174). -/
def Fld.CLU_ARR_STATUS_PACK : Field := ⟨Reg.CLU_ARR_STATUS, 152, 65536, 1, 0, 10, 2, .ro, 0, 8⟩
/-- CLU_ARR_STATUS.PREEMPT (R174). -/
def Fld.CLU_ARR_STATUS_PREEMPT : Field := ⟨Reg.CLU_ARR_STATUS, 152, 65536, 1, 0, 12, 1, .ro, 0, 8⟩
/-- CLU_ARR_STATUS.THIN (R174). -/
def Fld.CLU_ARR_STATUS_THIN : Field := ⟨Reg.CLU_ARR_STATUS, 152, 65536, 1, 0, 13, 1, .ro, 0, 8⟩
/-- CLU_ARR_EVENT.RECOMP (R174). -/
def Fld.CLU_ARR_EVENT_RECOMP : Field := ⟨Reg.CLU_ARR_EVENT, 152, 65536, 1, 0, 0, 1, .w1c, 0, 7⟩
/-- CLU_ARR_EVENT.TILE_FAIL (R174). -/
def Fld.CLU_ARR_EVENT_TILE_FAIL : Field := ⟨Reg.CLU_ARR_EVENT, 152, 65536, 1, 0, 1, 1, .w1c, 0, 7⟩
/-- CLU_ARR_EVENT.HALF_LOST (R174). -/
def Fld.CLU_ARR_EVENT_HALF_LOST : Field := ⟨Reg.CLU_ARR_EVENT, 152, 65536, 1, 0, 2, 1, .w1c, 0, 7⟩
/-- CLU_ARR_ERR.KIND (R174). -/
def Fld.CLU_ARR_ERR_KIND : Field := ⟨Reg.CLU_ARR_ERR, 152, 65536, 1, 0, 0, 2, .ro, 0, 7⟩
/-- CLU_ARR_ERR.BANK (R174). -/
def Fld.CLU_ARR_ERR_BANK : Field := ⟨Reg.CLU_ARR_ERR, 152, 65536, 1, 0, 2, 2, .ro, 0, 7⟩
/-- CLU_ARR_ERR.SUB (R174). -/
def Fld.CLU_ARR_ERR_SUB : Field := ⟨Reg.CLU_ARR_ERR, 152, 65536, 1, 0, 4, 4, .ro, 0, 7⟩
/-- CLU_ARR_ERR.THIN (R174). -/
def Fld.CLU_ARR_ERR_THIN : Field := ⟨Reg.CLU_ARR_ERR, 152, 65536, 1, 0, 8, 1, .ro, 0, 7⟩
/-- CLU_ARR_ERR.OVERRUN (R174). -/
def Fld.CLU_ARR_ERR_OVERRUN : Field := ⟨Reg.CLU_ARR_ERR, 152, 65536, 1, 0, 30, 1, .w1c, 0, 7⟩
/-- CLU_ARR_ERR.VALID (R174). -/
def Fld.CLU_ARR_ERR_VALID : Field := ⟨Reg.CLU_ARR_ERR, 152, 65536, 1, 0, 31, 1, .w1c, 0, 7⟩
/-- CLU_ARR_ERR_TAG.TAG (R174). -/
def Fld.CLU_ARR_ERR_TAG_TAG : Field := ⟨Reg.CLU_ARR_ERR_TAG, 152, 65536, 1, 0, 0, 16, .ro, 0, 7⟩
/-- CLU_ARR_STEPS_LO.COUNT (R175). -/
def Fld.CLU_ARR_STEPS_LO_COUNT : Field := ⟨Reg.CLU_ARR_STEPS_LO, 152, 65536, 1, 0, 0, 32, .ro, 0, 7⟩
/-- CLU_ARR_STEPS_HI.COUNT (R175). -/
def Fld.CLU_ARR_STEPS_HI_COUNT : Field := ⟨Reg.CLU_ARR_STEPS_HI, 152, 65536, 1, 0, 0, 32, .ro, 0, 7⟩
/-- CLU_ARR_BUBBLES_LO.COUNT (R175). -/
def Fld.CLU_ARR_BUBBLES_LO_COUNT : Field := ⟨Reg.CLU_ARR_BUBBLES_LO, 152, 65536, 1, 0, 0, 32, .ro, 0, 7⟩
/-- CLU_ARR_BUBBLES_HI.COUNT (R175). -/
def Fld.CLU_ARR_BUBBLES_HI_COUNT : Field := ⟨Reg.CLU_ARR_BUBBLES_HI, 152, 65536, 1, 0, 0, 32, .ro, 0, 7⟩
/-- CLU_ARR_DUMMY_LO.COUNT (R175). -/
def Fld.CLU_ARR_DUMMY_LO_COUNT : Field := ⟨Reg.CLU_ARR_DUMMY_LO, 152, 65536, 1, 0, 0, 32, .ro, 0, 7⟩
/-- CLU_ARR_DUMMY_HI.COUNT (R175). -/
def Fld.CLU_ARR_DUMMY_HI_COUNT : Field := ⟨Reg.CLU_ARR_DUMMY_HI, 152, 65536, 1, 0, 0, 32, .ro, 0, 7⟩
/-- CLU_ARR_FREEZES_LO.COUNT (R175). -/
def Fld.CLU_ARR_FREEZES_LO_COUNT : Field := ⟨Reg.CLU_ARR_FREEZES_LO, 152, 65536, 1, 0, 0, 32, .ro, 0, 7⟩
/-- CLU_ARR_FREEZES_HI.COUNT (R175). -/
def Fld.CLU_ARR_FREEZES_HI_COUNT : Field := ⟨Reg.CLU_ARR_FREEZES_HI, 152, 65536, 1, 0, 0, 32, .ro, 0, 7⟩
/-- CLU_ARR_RECOMP.COUNT (R175). -/
def Fld.CLU_ARR_RECOMP_COUNT : Field := ⟨Reg.CLU_ARR_RECOMP, 152, 65536, 1, 0, 0, 32, .rc, 0, 7⟩
/-- CLU_LAUNCH_LO.ADDR (R186). -/
def Fld.CLU_LAUNCH_LO_ADDR : Field := ⟨Reg.CLU_LAUNCH_LO, 152, 65536, 1, 0, 0, 32, .wo, 0, 8⟩
/-- CLU_LAUNCH_HI.ADDR (R186). -/
def Fld.CLU_LAUNCH_HI_ADDR : Field := ⟨Reg.CLU_LAUNCH_HI, 152, 65536, 1, 0, 0, 32, .wo, 0, 8⟩
/-- CLU_LSTAT.FREE (R186). -/
def Fld.CLU_LSTAT_FREE : Field := ⟨Reg.CLU_LSTAT, 152, 65536, 1, 0, 0, 5, .ro, 16, 7⟩
/-- CLU_LSTAT.BUSY (R186). -/
def Fld.CLU_LSTAT_BUSY : Field := ⟨Reg.CLU_LSTAT, 152, 65536, 1, 0, 5, 1, .ro, 0, 7⟩
/-- CLU_LSTAT.DONE (R186). -/
def Fld.CLU_LSTAT_DONE : Field := ⟨Reg.CLU_LSTAT, 152, 65536, 1, 0, 6, 1, .ro, 0, 7⟩
/-- CLU_LSTAT.ERR (R186). -/
def Fld.CLU_LSTAT_ERR : Field := ⟨Reg.CLU_LSTAT, 152, 65536, 1, 0, 7, 1, .w1c, 0, 7⟩
/-- CLU_LSTAT.REFUSED (R186). -/
def Fld.CLU_LSTAT_REFUSED : Field := ⟨Reg.CLU_LSTAT, 152, 65536, 1, 0, 8, 1, .w1c, 0, 7⟩
/-- CLU_LSTAT.ERRIDX (R186). -/
def Fld.CLU_LSTAT_ERRIDX : Field := ⟨Reg.CLU_LSTAT, 152, 65536, 1, 0, 16, 8, .ro, 0, 7⟩
/-- CLU_FAULT.CAUSE (R186). -/
def Fld.CLU_FAULT_CAUSE : Field := ⟨Reg.CLU_FAULT, 152, 65536, 1, 0, 0, 8, .ro, 0, 7⟩
/-- CLU_FAULT.SLOT (R186). -/
def Fld.CLU_FAULT_SLOT : Field := ⟨Reg.CLU_FAULT, 152, 65536, 1, 0, 8, 3, .ro, 0, 7⟩
/-- CLU_FAULT.DEFERRED (R186). -/
def Fld.CLU_FAULT_DEFERRED : Field := ⟨Reg.CLU_FAULT, 152, 65536, 1, 0, 11, 1, .ro, 0, 7⟩
/-- CLU_FAULT.DETAIL (R186). -/
def Fld.CLU_FAULT_DETAIL : Field := ⟨Reg.CLU_FAULT, 152, 65536, 1, 0, 12, 8, .ro, 0, 7⟩
/-- CLU_FAULT.OVERRUN (R186). -/
def Fld.CLU_FAULT_OVERRUN : Field := ⟨Reg.CLU_FAULT, 152, 65536, 1, 0, 30, 1, .w1c, 0, 7⟩
/-- CLU_FAULT.VALID (R186). -/
def Fld.CLU_FAULT_VALID : Field := ⟨Reg.CLU_FAULT, 152, 65536, 1, 0, 31, 1, .w1c, 0, 7⟩
/-- CLU_FAULT_PC_LO.PC (R186). -/
def Fld.CLU_FAULT_PC_LO_PC : Field := ⟨Reg.CLU_FAULT_PC_LO, 152, 65536, 1, 0, 0, 32, .ro, 0, 7⟩
/-- CLU_FAULT_PC_HI.PC (R186). -/
def Fld.CLU_FAULT_PC_HI_PC : Field := ⟨Reg.CLU_FAULT_PC_HI, 152, 65536, 1, 0, 0, 32, .ro, 0, 7⟩
/-- CLU_ICTRL.ICINV (R186). -/
def Fld.CLU_ICTRL_ICINV : Field := ⟨Reg.CLU_ICTRL, 152, 65536, 1, 0, 0, 1, .wo, 0, 8⟩
/-- CLU_PC_LO.PC (R186). -/
def Fld.CLU_PC_LO_PC : Field := ⟨Reg.CLU_PC_LO, 152, 65536, 1, 0, 0, 32, .ro, 0, 8⟩
/-- CLU_PC_HI.PC (R186). -/
def Fld.CLU_PC_HI_PC : Field := ⟨Reg.CLU_PC_HI, 152, 65536, 1, 0, 0, 32, .ro, 0, 8⟩
/-- HUB_FEAT0.CLUSTERS (R208). -/
def Fld.HUB_FEAT0_CLUSTERS : Field := ⟨Reg.HUB_FEAT0, 1, 0, 1, 0, 0, 8, .ro, 144, 1⟩
/-- HUB_FEAT0.ROWS (R208). -/
def Fld.HUB_FEAT0_ROWS : Field := ⟨Reg.HUB_FEAT0, 1, 0, 1, 0, 8, 8, .ro, 128, 1⟩
/-- HUB_FEAT0.COLS (R208). -/
def Fld.HUB_FEAT0_COLS : Field := ⟨Reg.HUB_FEAT0, 1, 0, 1, 0, 16, 8, .ro, 128, 1⟩
/-- HUB_FEAT0.THIN (R208). -/
def Fld.HUB_FEAT0_THIN : Field := ⟨Reg.HUB_FEAT0, 1, 0, 1, 0, 24, 4, .ro, 8, 1⟩
/-- HUB_FEAT1.ARR_FMT (R208). -/
def Fld.HUB_FEAT1_ARR_FMT : Field := ⟨Reg.HUB_FEAT1, 1, 0, 1, 0, 0, 11, .ro, 1023, 1⟩
/-- HUB_FEAT1.CVT_FMT (R208). -/
def Fld.HUB_FEAT1_CVT_FMT : Field := ⟨Reg.HUB_FEAT1, 1, 0, 1, 0, 16, 11, .ro, 2047, 1⟩
/-- HUB_FEAT2.LIT (R208). -/
def Fld.HUB_FEAT2_LIT : Field := ⟨Reg.HUB_FEAT2, 1, 0, 1, 0, 0, 12, .ro, 975, 1⟩
/-- HUB_FEAT2.STACKS (R208). -/
def Fld.HUB_FEAT2_STACKS : Field := ⟨Reg.HUB_FEAT2, 1, 0, 1, 0, 16, 12, .ro, 4095, 1⟩
/-- HUB_FEAT3.PAIRS (R208). -/
def Fld.HUB_FEAT3_PAIRS : Field := ⟨Reg.HUB_FEAT3, 1, 0, 1, 0, 0, 4, .ro, 8, 1⟩
/-- HUB_FEAT3.QSLOTS (R208). -/
def Fld.HUB_FEAT3_QSLOTS : Field := ⟨Reg.HUB_FEAT3, 1, 0, 1, 0, 4, 4, .ro, 8, 1⟩
/-- HUB_FEAT3.SCORES (R208). -/
def Fld.HUB_FEAT3_SCORES : Field := ⟨Reg.HUB_FEAT3, 1, 0, 1, 0, 8, 8, .ro, 64, 1⟩
/-- HUB_FEAT3.MACS (R208). -/
def Fld.HUB_FEAT3_MACS : Field := ⟨Reg.HUB_FEAT3, 1, 0, 1, 0, 16, 8, .ro, 32, 1⟩
/-- HUB_FEAT3.PAIRINGS (R208). -/
def Fld.HUB_FEAT3_PAIRINGS : Field := ⟨Reg.HUB_FEAT3, 1, 0, 1, 0, 24, 8, .ro, 7, 1⟩
/-- HUB_FEAT4.SPAD (R208). -/
def Fld.HUB_FEAT4_SPAD : Field := ⟨Reg.HUB_FEAT4, 1, 0, 1, 0, 0, 16, .ro, 4096, 1⟩
/-- HUB_FEAT4.IWORDS (R208). -/
def Fld.HUB_FEAT4_IWORDS : Field := ⟨Reg.HUB_FEAT4, 1, 0, 1, 0, 16, 16, .ro, 1024, 1⟩
/-- HUB_FEAT5.FEED (R208). -/
def Fld.HUB_FEAT5_FEED : Field := ⟨Reg.HUB_FEAT5, 1, 0, 1, 0, 0, 8, .ro, 64, 1⟩
/-- HUB_FEAT5.DRAIN (R208). -/
def Fld.HUB_FEAT5_DRAIN : Field := ⟨Reg.HUB_FEAT5, 1, 0, 1, 0, 8, 8, .ro, 64, 1⟩
/-- HUB_FEAT5.DMA (R208). -/
def Fld.HUB_FEAT5_DMA : Field := ⟨Reg.HUB_FEAT5, 1, 0, 1, 0, 16, 9, .ro, 256, 1⟩
/-- HUB_FEAT6.SCMD (R208). -/
def Fld.HUB_FEAT6_SCMD : Field := ⟨Reg.HUB_FEAT6, 1, 0, 1, 0, 0, 8, .ro, 128, 1⟩
/-- HUB_FEAT6.SLINES (R208). -/
def Fld.HUB_FEAT6_SLINES : Field := ⟨Reg.HUB_FEAT6, 1, 0, 1, 0, 8, 9, .ro, 256, 1⟩
/-- HUB_FEAT6.LAUNCH (R208). -/
def Fld.HUB_FEAT6_LAUNCH : Field := ⟨Reg.HUB_FEAT6, 1, 0, 1, 0, 17, 5, .ro, 16, 1⟩
/-- HUB_FEAT6.METEOR (R208). -/
def Fld.HUB_FEAT6_METEOR : Field := ⟨Reg.HUB_FEAT6, 1, 0, 1, 0, 22, 7, .ro, 64, 1⟩
/-- HUB_FEAT7.LANES (R208). -/
def Fld.HUB_FEAT7_LANES : Field := ⟨Reg.HUB_FEAT7, 1, 0, 1, 0, 0, 8, .ro, 64, 1⟩
/-- HUB_FEAT7.LANES64 (R208). -/
def Fld.HUB_FEAT7_LANES64 : Field := ⟨Reg.HUB_FEAT7, 1, 0, 1, 0, 8, 8, .ro, 16, 1⟩
/-- HUB_FEAT7.KLOG (R208). -/
def Fld.HUB_FEAT7_KLOG : Field := ⟨Reg.HUB_FEAT7, 1, 0, 1, 0, 16, 4, .ro, 13, 1⟩
/-- HUB_FEAT7.TILEQ (R208). -/
def Fld.HUB_FEAT7_TILEQ : Field := ⟨Reg.HUB_FEAT7, 1, 0, 1, 0, 20, 4, .ro, 8, 1⟩
/-- HUB_FEAT7.LEVELS (R208). -/
def Fld.HUB_FEAT7_LEVELS : Field := ⟨Reg.HUB_FEAT7, 1, 0, 1, 0, 24, 4, .ro, 6, 1⟩
/-- HUB_TINV_KEY_LO.KEY (R240). -/
def Fld.HUB_TINV_KEY_LO_KEY : Field := ⟨Reg.HUB_TINV_KEY_LO, 1, 0, 1, 0, 0, 32, .rw, 0, 3⟩
/-- HUB_TINV_KEY_HI.KEY (R240). -/
def Fld.HUB_TINV_KEY_HI_KEY : Field := ⟨Reg.HUB_TINV_KEY_HI, 1, 0, 1, 0, 0, 32, .rw, 0, 3⟩
/-- HUB_TINV_CTRL.START (R240). -/
def Fld.HUB_TINV_CTRL_START : Field := ⟨Reg.HUB_TINV_CTRL, 1, 0, 1, 0, 0, 1, .wo, 0, 8⟩
/-- HUB_TINV_CTRL.KIND (R240). -/
def Fld.HUB_TINV_CTRL_KIND : Field := ⟨Reg.HUB_TINV_CTRL, 1, 0, 1, 0, 1, 2, .rw, 0, 3⟩
/-- HUB_TINV_STATUS.BUSY (R240). -/
def Fld.HUB_TINV_STATUS_BUSY : Field := ⟨Reg.HUB_TINV_STATUS, 1, 0, 1, 0, 0, 1, .ro, 0, 3⟩
/-- HUB_TINV_STATUS.DONE (R240). -/
def Fld.HUB_TINV_STATUS_DONE : Field := ⟨Reg.HUB_TINV_STATUS, 1, 0, 1, 0, 1, 1, .w1c, 0, 3⟩
/-- HUB_TINV_STATUS.IGNORED (R240). -/
def Fld.HUB_TINV_STATUS_IGNORED : Field := ⟨Reg.HUB_TINV_STATUS, 1, 0, 1, 0, 2, 1, .w1c, 0, 3⟩
/-- KVM_ATT_LO.ADDR (R275). -/
def Fld.KVM_ATT_LO_ADDR : Field := ⟨Reg.KVM_ATT_LO, 1, 0, 1, 0, 0, 32, .wo, 0, 8⟩
/-- KVM_ATT_HI.ADDR (R275). -/
def Fld.KVM_ATT_HI_ADDR : Field := ⟨Reg.KVM_ATT_HI, 1, 0, 1, 0, 0, 32, .wo, 0, 8⟩
/-- KVM_ATT_FREE.FREE (R275). -/
def Fld.KVM_ATT_FREE_FREE : Field := ⟨Reg.KVM_ATT_FREE, 1, 0, 1, 0, 0, 13, .ro, 4096, 8⟩
/-- KVM_FREE_SEL.GEOM (R275). -/
def Fld.KVM_FREE_SEL_GEOM : Field := ⟨Reg.KVM_FREE_SEL, 1, 0, 1, 0, 0, 4, .rw, 0, 3⟩
/-- KVM_FREE_PAGES.COUNT (R275). -/
def Fld.KVM_FREE_PAGES_COUNT : Field := ⟨Reg.KVM_FREE_PAGES, 1, 0, 1, 0, 0, 32, .ro, 0, 8⟩
/-- KVM_FREE_PAIRS.COUNT (R275). -/
def Fld.KVM_FREE_PAIRS_COUNT : Field := ⟨Reg.KVM_FREE_PAIRS, 1, 0, 1, 0, 0, 14, .ro, 0, 8⟩
/-- KVM_ZEROING.COUNT (R275). -/
def Fld.KVM_ZEROING_COUNT : Field := ⟨Reg.KVM_ZEROING, 1, 0, 1, 0, 0, 32, .ro, 0, 8⟩
/-- KVM_EVENT.ERR (R275). -/
def Fld.KVM_EVENT_ERR : Field := ⟨Reg.KVM_EVENT, 1, 0, 1, 0, 0, 1, .w1c, 0, 3⟩
/-- KVM_EVENT.PARK (R275). -/
def Fld.KVM_EVENT_PARK : Field := ⟨Reg.KVM_EVENT, 1, 0, 1, 0, 1, 1, .w1c, 0, 3⟩
/-- KVM_EVENT.PREEMPT (R275). -/
def Fld.KVM_EVENT_PREEMPT : Field := ⟨Reg.KVM_EVENT, 1, 0, 1, 0, 2, 1, .w1c, 0, 3⟩
/-- KVM_EVENT.SWAPIN_FAIL (R275). -/
def Fld.KVM_EVENT_SWAPIN_FAIL : Field := ⟨Reg.KVM_EVENT, 1, 0, 1, 0, 3, 1, .w1c, 0, 3⟩
/-- KVM_EVENT.SWAP_END (R275). -/
def Fld.KVM_EVENT_SWAP_END : Field := ⟨Reg.KVM_EVENT, 1, 0, 1, 0, 4, 1, .w1c, 0, 3⟩
/-- KVM_ERR.CODE (R275). -/
def Fld.KVM_ERR_CODE : Field := ⟨Reg.KVM_ERR, 1, 0, 1, 0, 0, 4, .ro, 0, 3⟩
/-- KVM_ERR.OVERRUN (R275). -/
def Fld.KVM_ERR_OVERRUN : Field := ⟨Reg.KVM_ERR, 1, 0, 1, 0, 30, 1, .w1c, 0, 3⟩
/-- KVM_ERR.VALID (R275). -/
def Fld.KVM_ERR_VALID : Field := ⟨Reg.KVM_ERR, 1, 0, 1, 0, 31, 1, .w1c, 0, 3⟩
/-- KVM_ERR_SEQ.SEQ (R275). -/
def Fld.KVM_ERR_SEQ_SEQ : Field := ⟨Reg.KVM_ERR_SEQ, 1, 0, 1, 0, 0, 18, .ro, 0, 3⟩
/-- KVM_SWAPTAB_LO.ADDR (R275). -/
def Fld.KVM_SWAPTAB_LO_ADDR : Field := ⟨Reg.KVM_SWAPTAB_LO, 1, 0, 1, 0, 0, 32, .rw, 0, 3⟩
/-- KVM_SWAPTAB_HI.ADDR (R275). -/
def Fld.KVM_SWAPTAB_HI_ADDR : Field := ⟨Reg.KVM_SWAPTAB_HI, 1, 0, 1, 0, 0, 32, .rw, 0, 3⟩
/-- KVM_HKVTAB_LO.ADDR (R275). -/
def Fld.KVM_HKVTAB_LO_ADDR : Field := ⟨Reg.KVM_HKVTAB_LO, 1, 0, 1, 0, 0, 32, .rw, 0, 3⟩
/-- KVM_HKVTAB_HI.ADDR (R275). -/
def Fld.KVM_HKVTAB_HI_ADDR : Field := ⟨Reg.KVM_HKVTAB_HI, 1, 0, 1, 0, 0, 32, .rw, 0, 3⟩
/-- KVM_SWAP_STATUS.SEQ (R275). -/
def Fld.KVM_SWAP_STATUS_SEQ : Field := ⟨Reg.KVM_SWAP_STATUS, 1, 0, 1, 0, 0, 18, .ro, 0, 3⟩
/-- KVM_SWAP_STATUS.STATE (R275). -/
def Fld.KVM_SWAP_STATUS_STATE : Field := ⟨Reg.KVM_SWAP_STATUS, 1, 0, 1, 0, 18, 2, .ro, 0, 3⟩
/-- KVM_SWAP_STATUS.QUEUED (R275). -/
def Fld.KVM_SWAP_STATUS_QUEUED : Field := ⟨Reg.KVM_SWAP_STATUS, 1, 0, 1, 0, 20, 7, .ro, 0, 3⟩
/-- KVM_SWAP_POS_LO.POS (R275). -/
def Fld.KVM_SWAP_POS_LO_POS : Field := ⟨Reg.KVM_SWAP_POS_LO, 1, 0, 1, 0, 0, 32, .ro, 0, 3⟩
/-- KVM_SWAP_POS_HI.POS (R275). -/
def Fld.KVM_SWAP_POS_HI_POS : Field := ⟨Reg.KVM_SWAP_POS_HI, 1, 0, 1, 0, 0, 32, .ro, 0, 3⟩
/-- KVM_SWAP_PCT.PCT (R275). -/
def Fld.KVM_SWAP_PCT_PCT : Field := ⟨Reg.KVM_SWAP_PCT, 1, 0, 1, 0, 0, 10, .ro, 0, 3⟩
/-- KVM_EVICTED_LO.COUNT (R275). -/
def Fld.KVM_EVICTED_LO_COUNT : Field := ⟨Reg.KVM_EVICTED_LO, 1, 0, 1, 0, 0, 32, .ro, 0, 3⟩
/-- KVM_EVICTED_HI.COUNT (R275). -/
def Fld.KVM_EVICTED_HI_COUNT : Field := ⟨Reg.KVM_EVICTED_HI, 1, 0, 1, 0, 0, 32, .ro, 0, 3⟩
/-- KVM_PREEMPTS.COUNT (R275). -/
def Fld.KVM_PREEMPTS_COUNT : Field := ⟨Reg.KVM_PREEMPTS, 1, 0, 1, 0, 0, 32, .rc, 0, 3⟩
/-- KVM_PARKS.COUNT (R275). -/
def Fld.KVM_PARKS_COUNT : Field := ⟨Reg.KVM_PARKS, 1, 0, 1, 0, 0, 32, .rc, 0, 3⟩
/-- KVM_COWS.COUNT (R275). -/
def Fld.KVM_COWS_COUNT : Field := ⟨Reg.KVM_COWS, 1, 0, 1, 0, 0, 32, .rc, 0, 3⟩
/-- KVM_TCFG.EVICT (R275). -/
def Fld.KVM_TCFG_EVICT : Field := ⟨Reg.KVM_TCFG, 1024, 4, 1, 0, 0, 1, .rw, 0, 3⟩
/-- KVM_TCFG.DECAY (R275). -/
def Fld.KVM_TCFG_DECAY : Field := ⟨Reg.KVM_TCFG, 1024, 4, 1, 0, 1, 4, .rw, 4, 3⟩
/-- KVM_TCFG.CHECK (R275). -/
def Fld.KVM_TCFG_CHECK : Field := ⟨Reg.KVM_TCFG, 1024, 4, 1, 0, 5, 1, .rw, 0, 3⟩
/-- KVM_TCFG.HASHKV (R275). -/
def Fld.KVM_TCFG_HASHKV : Field := ⟨Reg.KVM_TCFG, 1024, 4, 1, 0, 6, 1, .rw, 0, 3⟩
/-- SEQ_DESC_BASE_LO.ADDR (R309). -/
def Fld.SEQ_DESC_BASE_LO_ADDR : Field := ⟨Reg.SEQ_DESC_BASE_LO, 1, 0, 1, 0, 0, 32, .rw, 0, 3⟩
/-- SEQ_DESC_BASE_HI.ADDR (R309). -/
def Fld.SEQ_DESC_BASE_HI_ADDR : Field := ⟨Reg.SEQ_DESC_BASE_HI, 1, 0, 1, 0, 0, 32, .rw, 0, 3⟩
/-- SEQ_PREFIX_FREE.COUNT (R309). -/
def Fld.SEQ_PREFIX_FREE_COUNT : Field := ⟨Reg.SEQ_PREFIX_FREE, 1, 0, 1, 0, 0, 17, .ro, 65536, 3⟩
/-- SEQ_EMPTY_LO.COUNT (R309). -/
def Fld.SEQ_EMPTY_LO_COUNT : Field := ⟨Reg.SEQ_EMPTY_LO, 1, 0, 1, 0, 0, 32, .ro, 0, 3⟩
/-- SEQ_EMPTY_HI.COUNT (R309). -/
def Fld.SEQ_EMPTY_HI_COUNT : Field := ⟨Reg.SEQ_EMPTY_HI, 1, 0, 1, 0, 0, 32, .ro, 0, 3⟩
/-- SEQ_CTX_PCT.PCT (R309). -/
def Fld.SEQ_CTX_PCT_PCT : Field := ⟨Reg.SEQ_CTX_PCT, 1, 0, 1, 0, 0, 10, .ro, 0, 3⟩
/-- SEQ_CTX_POS_LO.POS (R309). -/
def Fld.SEQ_CTX_POS_LO_POS : Field := ⟨Reg.SEQ_CTX_POS_LO, 1, 0, 1, 0, 0, 32, .ro, 0, 3⟩
/-- SEQ_CTX_POS_HI.POS (R309). -/
def Fld.SEQ_CTX_POS_HI_POS : Field := ⟨Reg.SEQ_CTX_POS_HI, 1, 0, 1, 0, 0, 32, .ro, 0, 3⟩
/-- SEQ_LCTRL.EN (R309). -/
def Fld.SEQ_LCTRL_EN : Field := ⟨Reg.SEQ_LCTRL, 256, 128, 1, 0, 0, 1, .rw, 0, 3⟩
/-- SEQ_LCTRL.CIRQ (R309). -/
def Fld.SEQ_LCTRL_CIRQ : Field := ⟨Reg.SEQ_LCTRL, 256, 128, 1, 0, 1, 1, .rw, 0, 3⟩
/-- SEQ_LCTRL.RESTART (R309). -/
def Fld.SEQ_LCTRL_RESTART : Field := ⟨Reg.SEQ_LCTRL, 256, 128, 1, 0, 2, 1, .wo, 0, 8⟩
/-- SEQ_LSTAT.STATE (R309). -/
def Fld.SEQ_LSTAT_STATE : Field := ⟨Reg.SEQ_LSTAT, 256, 128, 1, 0, 0, 3, .ro, 0, 3⟩
/-- SEQ_LSTAT.INFLIGHT (R309). -/
def Fld.SEQ_LSTAT_INFLIGHT : Field := ⟨Reg.SEQ_LSTAT, 256, 128, 1, 0, 3, 2, .ro, 0, 3⟩
/-- SEQ_LSTAT.STOPPED (R309). -/
def Fld.SEQ_LSTAT_STOPPED : Field := ⟨Reg.SEQ_LSTAT, 256, 128, 1, 0, 5, 1, .w1c, 0, 3⟩
/-- SEQ_SUBQ_LO.ADDR (R309). -/
def Fld.SEQ_SUBQ_LO_ADDR : Field := ⟨Reg.SEQ_SUBQ_LO, 256, 128, 1, 0, 0, 32, .rw, 0, 3⟩
/-- SEQ_SUBQ_HI.ADDR (R309). -/
def Fld.SEQ_SUBQ_HI_ADDR : Field := ⟨Reg.SEQ_SUBQ_HI, 256, 128, 1, 0, 0, 32, .rw, 0, 3⟩
/-- SEQ_SUBQ_SIZE.ENTRIES (R309). -/
def Fld.SEQ_SUBQ_SIZE_ENTRIES : Field := ⟨Reg.SEQ_SUBQ_SIZE, 256, 128, 1, 0, 0, 21, .rw, 0, 3⟩
/-- SEQ_SUBQ_TAIL.INDEX (R309). -/
def Fld.SEQ_SUBQ_TAIL_INDEX : Field := ⟨Reg.SEQ_SUBQ_TAIL, 256, 128, 1, 0, 0, 32, .rw, 0, 3⟩
/-- SEQ_SUBQ_HEAD.INDEX (R309). -/
def Fld.SEQ_SUBQ_HEAD_INDEX : Field := ⟨Reg.SEQ_SUBQ_HEAD, 256, 128, 1, 0, 0, 32, .ro, 0, 3⟩
/-- SEQ_LERR.KIND (R309). -/
def Fld.SEQ_LERR_KIND : Field := ⟨Reg.SEQ_LERR, 256, 128, 1, 0, 0, 8, .ro, 0, 3⟩
/-- SEQ_LERR.SEQ (R309). -/
def Fld.SEQ_LERR_SEQ : Field := ⟨Reg.SEQ_LERR, 256, 128, 1, 0, 8, 18, .ro, 0, 3⟩
/-- SEQ_LERR.OVERRUN (R309). -/
def Fld.SEQ_LERR_OVERRUN : Field := ⟨Reg.SEQ_LERR, 256, 128, 1, 0, 30, 1, .w1c, 0, 3⟩
/-- SEQ_LERR.VALID (R309). -/
def Fld.SEQ_LERR_VALID : Field := ⟨Reg.SEQ_LERR, 256, 128, 1, 0, 31, 1, .w1c, 0, 3⟩
/-- SEQ_STEP_LO.STEP (R309). -/
def Fld.SEQ_STEP_LO_STEP : Field := ⟨Reg.SEQ_STEP_LO, 256, 128, 1, 0, 0, 32, .ro, 0, 3⟩
/-- SEQ_STEP_HI.STEP (R309). -/
def Fld.SEQ_STEP_HI_STEP : Field := ⟨Reg.SEQ_STEP_HI, 256, 128, 1, 0, 0, 32, .ro, 0, 3⟩
/-- SEQ_DETOK_LO.ADDR (R309). -/
def Fld.SEQ_DETOK_LO_ADDR : Field := ⟨Reg.SEQ_DETOK_LO, 256, 128, 1, 0, 0, 32, .rw, 0, 3⟩
/-- SEQ_DETOK_HI.ADDR (R309). -/
def Fld.SEQ_DETOK_HI_ADDR : Field := ⟨Reg.SEQ_DETOK_HI, 256, 128, 1, 0, 0, 32, .rw, 0, 3⟩
/-- SEQ_DETOK_COUNT.COUNT (R309). -/
def Fld.SEQ_DETOK_COUNT_COUNT : Field := ⟨Reg.SEQ_DETOK_COUNT, 256, 128, 1, 0, 0, 32, .rw, 0, 3⟩
/-- SEQ_WINCTRL.ARM (R309). -/
def Fld.SEQ_WINCTRL_ARM : Field := ⟨Reg.SEQ_WINCTRL, 256, 128, 1, 0, 0, 1, .w1s, 0, 3⟩
/-- SEQ_WINCTRL.STATUS (R309). -/
def Fld.SEQ_WINCTRL_STATUS : Field := ⟨Reg.SEQ_WINCTRL, 256, 128, 1, 0, 1, 3, .ro, 0, 3⟩
/-- SEQ_WSTART_LO.COUNT (R309). -/
def Fld.SEQ_WSTART_LO_COUNT : Field := ⟨Reg.SEQ_WSTART_LO, 256, 128, 1, 0, 0, 32, .rw, 0, 3⟩
/-- SEQ_WSTOP_LO.COUNT (R309). -/
def Fld.SEQ_WSTOP_LO_COUNT : Field := ⟨Reg.SEQ_WSTOP_LO, 256, 128, 1, 0, 0, 32, .rw, 0, 3⟩
/-- SEQ_WSTART_HI.COUNT (R309). -/
def Fld.SEQ_WSTART_HI_COUNT : Field := ⟨Reg.SEQ_WSTART_HI, 256, 128, 1, 0, 0, 32, .rw, 0, 3⟩
/-- SEQ_WSTOP_HI.COUNT (R309). -/
def Fld.SEQ_WSTOP_HI_COUNT : Field := ⟨Reg.SEQ_WSTOP_HI, 256, 128, 1, 0, 0, 32, .rw, 0, 3⟩
/-- SEQ_REPLAYS.COUNT (R309). -/
def Fld.SEQ_REPLAYS_COUNT : Field := ⟨Reg.SEQ_REPLAYS, 256, 128, 1, 0, 0, 32, .rc, 0, 3⟩
/-- SEQ_RINGWAIT.COUNT (R309). -/
def Fld.SEQ_RINGWAIT_COUNT : Field := ⟨Reg.SEQ_RINGWAIT, 256, 128, 1, 0, 0, 32, .rc, 0, 3⟩
/-- SEQ_TDESC.BASE (R309). -/
def Fld.SEQ_TDESC_BASE : Field := ⟨Reg.SEQ_TDESC, 1024, 32, 1, 0, 0, 18, .rw, 0, 3⟩
/-- SEQ_TDCNT.COUNT (R309). -/
def Fld.SEQ_TDCNT_COUNT : Field := ⟨Reg.SEQ_TDCNT, 1024, 32, 1, 0, 0, 19, .rw, 0, 3⟩
/-- SEQ_TPQUOTA.FRAMES (R309). -/
def Fld.SEQ_TPQUOTA_FRAMES : Field := ⟨Reg.SEQ_TPQUOTA, 1024, 32, 1, 0, 0, 32, .rw, 4294967295, 3⟩
/-- SEQ_TTOK.TOKSHARE (R309). -/
def Fld.SEQ_TTOK_TOKSHARE : Field := ⟨Reg.SEQ_TTOK, 1024, 32, 1, 0, 0, 16, .rw, 0, 3⟩
/-- SEQ_TTOK.OVER (R309). -/
def Fld.SEQ_TTOK_OVER : Field := ⟨Reg.SEQ_TTOK, 1024, 32, 1, 0, 16, 1, .ro, 0, 3⟩
/-- SEQ_THELD.FRAMES (R309). -/
def Fld.SEQ_THELD_FRAMES : Field := ⟨Reg.SEQ_THELD, 1024, 32, 1, 0, 0, 32, .ro, 0, 3⟩
/-- FAB_DEVID.DEVICE (R336). -/
def Fld.FAB_DEVID_DEVICE : Field := ⟨Reg.FAB_DEVID, 1, 0, 1, 0, 0, 17, .rw, 0, 3⟩
/-- FAB_DEVID.VALID (R336). -/
def Fld.FAB_DEVID_VALID : Field := ⟨Reg.FAB_DEVID, 1, 0, 1, 0, 31, 1, .ro, 0, 3⟩
/-- FAB_CTRL.TIMEOUT (R336). -/
def Fld.FAB_CTRL_TIMEOUT : Field := ⟨Reg.FAB_CTRL, 1, 0, 1, 0, 0, 16, .rw, 1000, 3⟩
/-- FAB_EVENT.PORT_DOWN (R336). -/
def Fld.FAB_EVENT_PORT_DOWN : Field := ⟨Reg.FAB_EVENT, 1, 0, 1, 0, 0, 1, .w1c, 0, 3⟩
/-- FAB_EVENT.ERR (R336). -/
def Fld.FAB_EVENT_ERR : Field := ⟨Reg.FAB_EVENT, 1, 0, 1, 0, 1, 1, .w1c, 0, 3⟩
/-- FAB_EVENT.SHADOW_LOST (R336). -/
def Fld.FAB_EVENT_SHADOW_LOST : Field := ⟨Reg.FAB_EVENT, 1, 0, 1, 0, 2, 1, .w1c, 0, 3⟩
/-- FAB_EVENT.AUTH (R336). -/
def Fld.FAB_EVENT_AUTH : Field := ⟨Reg.FAB_EVENT, 1, 0, 1, 0, 3, 1, .w1c, 0, 3⟩
/-- FAB_ERR.CODE (R336). -/
def Fld.FAB_ERR_CODE : Field := ⟨Reg.FAB_ERR, 1, 0, 1, 0, 0, 4, .ro, 0, 3⟩
/-- FAB_ERR.SIDE (R336). -/
def Fld.FAB_ERR_SIDE : Field := ⟨Reg.FAB_ERR, 1, 0, 1, 0, 4, 1, .ro, 0, 3⟩
/-- FAB_ERR.OVERRUN (R336). -/
def Fld.FAB_ERR_OVERRUN : Field := ⟨Reg.FAB_ERR, 1, 0, 1, 0, 30, 1, .w1c, 0, 3⟩
/-- FAB_ERR.VALID (R336). -/
def Fld.FAB_ERR_VALID : Field := ⟨Reg.FAB_ERR, 1, 0, 1, 0, 31, 1, .w1c, 0, 3⟩
/-- FAB_ERR_DEV.DEVICE (R336). -/
def Fld.FAB_ERR_DEV_DEVICE : Field := ⟨Reg.FAB_ERR_DEV, 1, 0, 1, 0, 0, 17, .ro, 0, 3⟩
/-- FAB_COLL_LO.ADDR (R336). -/
def Fld.FAB_COLL_LO_ADDR : Field := ⟨Reg.FAB_COLL_LO, 1, 0, 1, 0, 0, 32, .wo, 0, 8⟩
/-- FAB_COLL_HI.ADDR (R336). -/
def Fld.FAB_COLL_HI_ADDR : Field := ⟨Reg.FAB_COLL_HI, 1, 0, 1, 0, 0, 32, .wo, 0, 8⟩
/-- FAB_COLL_FREE.FREE (R336). -/
def Fld.FAB_COLL_FREE_FREE : Field := ⟨Reg.FAB_COLL_FREE, 1, 0, 1, 0, 0, 9, .ro, 256, 8⟩
/-- FAB_BUDDY.DEVICE (R336). -/
def Fld.FAB_BUDDY_DEVICE : Field := ⟨Reg.FAB_BUDDY, 1, 0, 1, 0, 0, 17, .rw, 0, 3⟩
/-- FAB_BUDDY.EN (R336). -/
def Fld.FAB_BUDDY_EN : Field := ⟨Reg.FAB_BUDDY, 1, 0, 1, 0, 17, 1, .rw, 0, 3⟩
/-- FAB_BUDDY.LOST (R336). -/
def Fld.FAB_BUDDY_LOST : Field := ⟨Reg.FAB_BUDDY, 1, 0, 1, 0, 18, 1, .w1c, 0, 3⟩
/-- FAB_BUDDY_LOG_LO.ADDR (R336). -/
def Fld.FAB_BUDDY_LOG_LO_ADDR : Field := ⟨Reg.FAB_BUDDY_LOG_LO, 1, 0, 1, 0, 0, 32, .rw, 0, 3⟩
/-- FAB_SHADOW_BASE_LO.ADDR (R336). -/
def Fld.FAB_SHADOW_BASE_LO_ADDR : Field := ⟨Reg.FAB_SHADOW_BASE_LO, 1, 0, 1, 0, 0, 32, .rw, 0, 3⟩
/-- FAB_BUDDY_LOG_HI.ADDR (R336). -/
def Fld.FAB_BUDDY_LOG_HI_ADDR : Field := ⟨Reg.FAB_BUDDY_LOG_HI, 1, 0, 1, 0, 0, 32, .rw, 0, 3⟩
/-- FAB_SHADOW_BASE_HI.ADDR (R336). -/
def Fld.FAB_SHADOW_BASE_HI_ADDR : Field := ⟨Reg.FAB_SHADOW_BASE_HI, 1, 0, 1, 0, 0, 32, .rw, 0, 3⟩
/-- FAB_BUDDY_SIZE.LOG2 (R336). -/
def Fld.FAB_BUDDY_SIZE_LOG2 : Field := ⟨Reg.FAB_BUDDY_SIZE, 1, 0, 1, 0, 0, 6, .rw, 20, 3⟩
/-- FAB_SHADOW_SIZE.LOG2 (R336). -/
def Fld.FAB_SHADOW_SIZE_LOG2 : Field := ⟨Reg.FAB_SHADOW_SIZE, 1, 0, 1, 0, 0, 6, .rw, 20, 3⟩
/-- FAB_SHADOW_SRC.DEVICE (R336). -/
def Fld.FAB_SHADOW_SRC_DEVICE : Field := ⟨Reg.FAB_SHADOW_SRC, 1, 0, 1, 0, 0, 17, .rw, 0, 3⟩
/-- FAB_SHADOW_SRC.EN (R336). -/
def Fld.FAB_SHADOW_SRC_EN : Field := ⟨Reg.FAB_SHADOW_SRC, 1, 0, 1, 0, 17, 1, .rw, 0, 3⟩
/-- FAB_PORT_CTRL.EN (R337). -/
def Fld.FAB_PORT_CTRL_EN : Field := ⟨Reg.FAB_PORT_CTRL, 18, 64, 1, 0, 0, 1, .rw, 0, 3⟩
/-- FAB_PORT_CTRL.REKEY (R337). -/
def Fld.FAB_PORT_CTRL_REKEY : Field := ⟨Reg.FAB_PORT_CTRL, 18, 64, 1, 0, 1, 1, .wo, 0, 8⟩
/-- FAB_PORT_CTRL.RETRAIN (R337). -/
def Fld.FAB_PORT_CTRL_RETRAIN : Field := ⟨Reg.FAB_PORT_CTRL, 18, 64, 1, 0, 2, 1, .wo, 0, 8⟩
/-- FAB_PORT_STAT.STATE (R337). -/
def Fld.FAB_PORT_STAT_STATE : Field := ⟨Reg.FAB_PORT_STAT, 18, 64, 1, 0, 0, 3, .ro, 0, 8⟩
/-- FAB_PORT_STAT.WIDTH (R337). -/
def Fld.FAB_PORT_STAT_WIDTH : Field := ⟨Reg.FAB_PORT_STAT, 18, 64, 1, 0, 3, 2, .ro, 0, 8⟩
/-- FAB_PORT_STAT.SLOW (R337). -/
def Fld.FAB_PORT_STAT_SLOW : Field := ⟨Reg.FAB_PORT_STAT, 18, 64, 1, 0, 5, 1, .ro, 0, 8⟩
/-- FAB_PORT_CRC.COUNT (R337). -/
def Fld.FAB_PORT_CRC_COUNT : Field := ⟨Reg.FAB_PORT_CRC, 18, 64, 1, 0, 0, 32, .rc, 0, 7⟩
/-- FAB_PORT_REPLAY.COUNT (R337). -/
def Fld.FAB_PORT_REPLAY_COUNT : Field := ⟨Reg.FAB_PORT_REPLAY, 18, 64, 1, 0, 0, 32, .rc, 0, 7⟩
/-- FAB_PORT_AUTH.COUNT (R337). -/
def Fld.FAB_PORT_AUTH_COUNT : Field := ⟨Reg.FAB_PORT_AUTH, 18, 64, 1, 0, 0, 32, .rc, 0, 7⟩
/-- FAB_PORT_RETRAIN.COUNT (R337). -/
def Fld.FAB_PORT_RETRAIN_COUNT : Field := ⟨Reg.FAB_PORT_RETRAIN, 18, 64, 1, 0, 0, 32, .rc, 0, 7⟩
/-- FAB_PORT_FLITS_LO.COUNT (R337). -/
def Fld.FAB_PORT_FLITS_LO_COUNT : Field := ⟨Reg.FAB_PORT_FLITS_LO, 18, 64, 1, 0, 0, 32, .ro, 0, 7⟩
/-- FAB_PORT_FLITS_HI.COUNT (R337). -/
def Fld.FAB_PORT_FLITS_HI_COUNT : Field := ⟨Reg.FAB_PORT_FLITS_HI, 18, 64, 1, 0, 0, 32, .ro, 0, 7⟩
/-- MER_CTRL.SRC (R338). -/
def Fld.MER_CTRL_SRC : Field := ⟨Reg.MER_CTRL, 1, 0, 1, 0, 0, 2, .rw, 2, 2⟩
/-- MER_PARENT.DEVICE (R338). -/
def Fld.MER_PARENT_DEVICE : Field := ⟨Reg.MER_PARENT, 1, 0, 1, 0, 0, 17, .rw, 0, 2⟩
/-- MER_STATUS.LOCKED (R338). -/
def Fld.MER_STATUS_LOCKED : Field := ⟨Reg.MER_STATUS, 1, 0, 1, 0, 0, 1, .ro, 0, 2⟩
/-- MER_STATUS.FAR (R338). -/
def Fld.MER_STATUS_FAR : Field := ⟨Reg.MER_STATUS, 1, 0, 1, 0, 1, 1, .w1c, 0, 2⟩
/-- MER_STATUS.STEPPED (R338). -/
def Fld.MER_STATUS_STEPPED : Field := ⟨Reg.MER_STATUS, 1, 0, 1, 0, 2, 1, .w1c, 0, 2⟩
/-- MER_STATUS.PPS_LOST (R338). -/
def Fld.MER_STATUS_PPS_LOST : Field := ⟨Reg.MER_STATUS, 1, 0, 1, 0, 3, 1, .w1c, 0, 2⟩
/-- MER_OFFSET.NS (R338). -/
def Fld.MER_OFFSET_NS : Field := ⟨Reg.MER_OFFSET, 1, 0, 1, 0, 0, 32, .ro, 0, 2⟩
/-- MER_SET_LO.COUNT (R338). -/
def Fld.MER_SET_LO_COUNT : Field := ⟨Reg.MER_SET_LO, 1, 0, 1, 0, 0, 32, .rw, 0, 2⟩
/-- MER_SET_HI.COUNT (R338). -/
def Fld.MER_SET_HI_COUNT : Field := ⟨Reg.MER_SET_HI, 1, 0, 1, 0, 0, 32, .rw, 0, 2⟩
/-- RAS_EVENT.CE (R362). -/
def Fld.RAS_EVENT_CE : Field := ⟨Reg.RAS_EVENT, 1, 0, 1, 0, 0, 1, .w1c, 0, 3⟩
/-- RAS_EVENT.UE (R362). -/
def Fld.RAS_EVENT_UE : Field := ⟨Reg.RAS_EVENT, 1, 0, 1, 0, 1, 1, .w1c, 0, 3⟩
/-- RAS_EVENT.REFETCH (R362). -/
def Fld.RAS_EVENT_REFETCH : Field := ⟨Reg.RAS_EVENT, 1, 0, 1, 0, 2, 1, .w1c, 0, 3⟩
/-- RAS_EVENT.REPAIR (R362). -/
def Fld.RAS_EVENT_REPAIR : Field := ⟨Reg.RAS_EVENT, 1, 0, 1, 0, 3, 1, .w1c, 0, 3⟩
/-- RAS_EVENT.LOST (R362). -/
def Fld.RAS_EVENT_LOST : Field := ⟨Reg.RAS_EVENT, 1, 0, 1, 0, 4, 1, .w1c, 0, 3⟩
/-- RAS_EVENT.RETIRED (R362). -/
def Fld.RAS_EVENT_RETIRED : Field := ⟨Reg.RAS_EVENT, 1, 0, 1, 0, 5, 1, .w1c, 0, 3⟩
/-- RAS_EVENT.SPARE_OUT (R362). -/
def Fld.RAS_EVENT_SPARE_OUT : Field := ⟨Reg.RAS_EVENT, 1, 0, 1, 0, 6, 1, .w1c, 0, 3⟩
/-- RAS_EVENT.RGN_OFF (R362). -/
def Fld.RAS_EVENT_RGN_OFF : Field := ⟨Reg.RAS_EVENT, 1, 0, 1, 0, 7, 1, .w1c, 0, 3⟩
/-- RAS_EVENT.SCRUB_END (R362). -/
def Fld.RAS_EVENT_SCRUB_END : Field := ⟨Reg.RAS_EVENT, 1, 0, 1, 0, 9, 1, .w1c, 0, 3⟩
/-- RAS_ERR.KIND (R362). -/
def Fld.RAS_ERR_KIND : Field := ⟨Reg.RAS_ERR, 1, 0, 1, 0, 0, 4, .ro, 0, 3⟩
/-- RAS_ERR.SOURCE (R362). -/
def Fld.RAS_ERR_SOURCE : Field := ⟨Reg.RAS_ERR, 1, 0, 1, 0, 8, 8, .ro, 0, 3⟩
/-- RAS_ERR.OVERRUN (R362). -/
def Fld.RAS_ERR_OVERRUN : Field := ⟨Reg.RAS_ERR, 1, 0, 1, 0, 30, 1, .w1c, 0, 3⟩
/-- RAS_ERR.VALID (R362). -/
def Fld.RAS_ERR_VALID : Field := ⟨Reg.RAS_ERR, 1, 0, 1, 0, 31, 1, .w1c, 0, 3⟩
/-- RAS_ERR_ADDR_LO.ADDR (R362). -/
def Fld.RAS_ERR_ADDR_LO_ADDR : Field := ⟨Reg.RAS_ERR_ADDR_LO, 1, 0, 1, 0, 0, 32, .ro, 0, 3⟩
/-- RAS_ERR_ADDR_HI.ADDR (R362). -/
def Fld.RAS_ERR_ADDR_HI_ADDR : Field := ⟨Reg.RAS_ERR_ADDR_HI, 1, 0, 1, 0, 0, 32, .ro, 0, 3⟩
/-- RAS_CE_LO.COUNT (R362). -/
def Fld.RAS_CE_LO_COUNT : Field := ⟨Reg.RAS_CE_LO, 1, 0, 1, 0, 0, 32, .ro, 0, 3⟩
/-- RAS_CE_HI.COUNT (R362). -/
def Fld.RAS_CE_HI_COUNT : Field := ⟨Reg.RAS_CE_HI, 1, 0, 1, 0, 0, 32, .ro, 0, 3⟩
/-- RAS_UE_LO.COUNT (R362). -/
def Fld.RAS_UE_LO_COUNT : Field := ⟨Reg.RAS_UE_LO, 1, 0, 1, 0, 0, 32, .ro, 0, 3⟩
/-- RAS_UE_HI.COUNT (R362). -/
def Fld.RAS_UE_HI_COUNT : Field := ⟨Reg.RAS_UE_HI, 1, 0, 1, 0, 0, 32, .ro, 0, 3⟩
/-- RAS_SPARES.DIE_A (R362). -/
def Fld.RAS_SPARES_DIE_A : Field := ⟨Reg.RAS_SPARES, 1, 0, 1, 0, 0, 3, .ro, 4, 3⟩
/-- RAS_SPARES.DIE_B (R362). -/
def Fld.RAS_SPARES_DIE_B : Field := ⟨Reg.RAS_SPARES, 1, 0, 1, 0, 3, 3, .ro, 4, 3⟩
/-- RAS_ROWS.MINLEFT (R362). -/
def Fld.RAS_ROWS_MINLEFT : Field := ⟨Reg.RAS_ROWS, 1, 0, 1, 0, 0, 3, .ro, 4, 3⟩
/-- RAS_ROWS.EXHAUSTED (R362). -/
def Fld.RAS_ROWS_EXHAUSTED : Field := ⟨Reg.RAS_ROWS, 1, 0, 1, 0, 3, 21, .ro, 0, 3⟩
/-- RAS_RETREC_LO.OFFSET (R362). -/
def Fld.RAS_RETREC_LO_OFFSET : Field := ⟨Reg.RAS_RETREC_LO, 1, 0, 1, 0, 0, 32, .rw, 0, 3⟩
/-- RAS_RETREC_HI.OFFSET (R362). -/
def Fld.RAS_RETREC_HI_OFFSET : Field := ⟨Reg.RAS_RETREC_HI, 1, 0, 1, 0, 0, 32, .rw, 0, 3⟩
/-- RAS_RGN_SEL.INDEX (R362). -/
def Fld.RAS_RGN_SEL_INDEX : Field := ⟨Reg.RAS_RGN_SEL, 1, 0, 1, 0, 0, 6, .rw, 0, 3⟩
/-- RAS_RGN_CTRL.KIND (R362). -/
def Fld.RAS_RGN_CTRL_KIND : Field := ⟨Reg.RAS_RGN_CTRL, 1, 0, 1, 0, 0, 2, .rw, 0, 3⟩
/-- RAS_RGN_CTRL.COMMIT (R362). -/
def Fld.RAS_RGN_CTRL_COMMIT : Field := ⟨Reg.RAS_RGN_CTRL, 1, 0, 1, 0, 2, 1, .wo, 0, 8⟩
/-- RAS_RGN_CTRL.ERR (R362). -/
def Fld.RAS_RGN_CTRL_ERR : Field := ⟨Reg.RAS_RGN_CTRL, 1, 0, 1, 0, 3, 1, .w1c, 0, 3⟩
/-- RAS_RGN_BASE_LO.V (R362). -/
def Fld.RAS_RGN_BASE_LO_V : Field := ⟨Reg.RAS_RGN_BASE_LO, 1, 0, 1, 0, 0, 32, .rw, 0, 3⟩
/-- RAS_RGN_BASE_HI.V (R362). -/
def Fld.RAS_RGN_BASE_HI_V : Field := ⟨Reg.RAS_RGN_BASE_HI, 1, 0, 1, 0, 0, 32, .rw, 0, 3⟩
/-- RAS_RGN_LEN_LO.V (R362). -/
def Fld.RAS_RGN_LEN_LO_V : Field := ⟨Reg.RAS_RGN_LEN_LO, 1, 0, 1, 0, 0, 32, .rw, 0, 3⟩
/-- RAS_RGN_LEN_HI.V (R362). -/
def Fld.RAS_RGN_LEN_HI_V : Field := ⟨Reg.RAS_RGN_LEN_HI, 1, 0, 1, 0, 0, 32, .rw, 0, 3⟩
/-- RAS_RGN_SRC_LO.V (R362). -/
def Fld.RAS_RGN_SRC_LO_V : Field := ⟨Reg.RAS_RGN_SRC_LO, 1, 0, 1, 0, 0, 32, .rw, 0, 3⟩
/-- RAS_RGN_SRC_HI.V (R362). -/
def Fld.RAS_RGN_SRC_HI_V : Field := ⟨Reg.RAS_RGN_SRC_HI, 1, 0, 1, 0, 0, 32, .rw, 0, 3⟩
/-- RAS_SCRUB_BASE_LO.V (R362). -/
def Fld.RAS_SCRUB_BASE_LO_V : Field := ⟨Reg.RAS_SCRUB_BASE_LO, 1, 0, 1, 0, 0, 32, .rw, 0, 3⟩
/-- RAS_SCRUB_BASE_HI.V (R362). -/
def Fld.RAS_SCRUB_BASE_HI_V : Field := ⟨Reg.RAS_SCRUB_BASE_HI, 1, 0, 1, 0, 0, 32, .rw, 0, 3⟩
/-- RAS_SCRUB_LEN_LO.V (R362). -/
def Fld.RAS_SCRUB_LEN_LO_V : Field := ⟨Reg.RAS_SCRUB_LEN_LO, 1, 0, 1, 0, 0, 32, .rw, 0, 3⟩
/-- RAS_SCRUB_LEN_HI.V (R362). -/
def Fld.RAS_SCRUB_LEN_HI_V : Field := ⟨Reg.RAS_SCRUB_LEN_HI, 1, 0, 1, 0, 0, 32, .rw, 0, 3⟩
/-- RAS_SCRUB_CTRL.START (R362). -/
def Fld.RAS_SCRUB_CTRL_START : Field := ⟨Reg.RAS_SCRUB_CTRL, 1, 0, 1, 0, 0, 1, .wo, 0, 8⟩
/-- RAS_SCRUB_CTRL.ABORT (R362). -/
def Fld.RAS_SCRUB_CTRL_ABORT : Field := ⟨Reg.RAS_SCRUB_CTRL, 1, 0, 1, 0, 1, 1, .wo, 0, 8⟩
/-- RAS_SCRUB_CTRL.RATE (R362). -/
def Fld.RAS_SCRUB_CTRL_RATE : Field := ⟨Reg.RAS_SCRUB_CTRL, 1, 0, 1, 0, 2, 10, .rw, 100, 3⟩
/-- RAS_SCRUB_STATUS.STATE (R362). -/
def Fld.RAS_SCRUB_STATUS_STATE : Field := ⟨Reg.RAS_SCRUB_STATUS, 1, 0, 1, 0, 0, 2, .ro, 0, 3⟩
/-- RAS_SCRUB_STATUS.ERR (R362). -/
def Fld.RAS_SCRUB_STATUS_ERR : Field := ⟨Reg.RAS_SCRUB_STATUS, 1, 0, 1, 0, 2, 2, .ro, 0, 3⟩
/-- RAS_SCRUB_POS_LO.POS (R362). -/
def Fld.RAS_SCRUB_POS_LO_POS : Field := ⟨Reg.RAS_SCRUB_POS_LO, 1, 0, 1, 0, 0, 32, .ro, 0, 3⟩
/-- RAS_SCRUB_POS_HI.POS (R362). -/
def Fld.RAS_SCRUB_POS_HI_POS : Field := ⟨Reg.RAS_SCRUB_POS_HI, 1, 0, 1, 0, 0, 32, .ro, 0, 3⟩
/-- RAS_SCRUB_PCT.PCT (R362). -/
def Fld.RAS_SCRUB_PCT_PCT : Field := ⟨Reg.RAS_SCRUB_PCT, 1, 0, 1, 0, 0, 10, .ro, 0, 3⟩
/-- RAS_SCRUB_CE.COUNT (R362). -/
def Fld.RAS_SCRUB_CE_COUNT : Field := ⟨Reg.RAS_SCRUB_CE, 1, 0, 1, 0, 0, 32, .ro, 0, 3⟩
/-- RAS_SCRUB_UE.COUNT (R362). -/
def Fld.RAS_SCRUB_UE_COUNT : Field := ⟨Reg.RAS_SCRUB_UE, 1, 0, 1, 0, 0, 32, .ro, 0, 3⟩
/-- RAS_SCRUB_RETIRED.COUNT (R362). -/
def Fld.RAS_SCRUB_RETIRED_COUNT : Field := ⟨Reg.RAS_SCRUB_RETIRED, 1, 0, 1, 0, 0, 32, .ro, 0, 3⟩
/-- RAS_SCRUB_FIRST_LO.V (R362). -/
def Fld.RAS_SCRUB_FIRST_LO_V : Field := ⟨Reg.RAS_SCRUB_FIRST_LO, 1, 0, 1, 0, 0, 32, .ro, 0, 3⟩
/-- RAS_SCRUB_FIRST_HI.V (R362). -/
def Fld.RAS_SCRUB_FIRST_HI_V : Field := ⟨Reg.RAS_SCRUB_FIRST_HI, 1, 0, 1, 0, 0, 32, .ro, 0, 3⟩
/-- RAS_SCRUB_LAST_LO.V (R362). -/
def Fld.RAS_SCRUB_LAST_LO_V : Field := ⟨Reg.RAS_SCRUB_LAST_LO, 1, 0, 1, 0, 0, 32, .ro, 0, 3⟩
/-- RAS_SCRUB_LAST_HI.V (R362). -/
def Fld.RAS_SCRUB_LAST_HI_V : Field := ⟨Reg.RAS_SCRUB_LAST_HI, 1, 0, 1, 0, 0, 32, .ro, 0, 3⟩
/-- SAF_STATUS.DEVICE (R363). -/
def Fld.SAF_STATUS_DEVICE : Field := ⟨Reg.SAF_STATUS, 1, 0, 1, 0, 0, 1, .ro, 0, 8⟩
/-- SAF_STATUS.DIE_A (R363). -/
def Fld.SAF_STATUS_DIE_A : Field := ⟨Reg.SAF_STATUS, 1, 0, 1, 0, 1, 1, .ro, 0, 8⟩
/-- SAF_STATUS.DIE_B (R363). -/
def Fld.SAF_STATUS_DIE_B : Field := ⟨Reg.SAF_STATUS, 1, 0, 1, 0, 2, 1, .ro, 0, 8⟩
/-- SAF_STATUS.PERM (R363). -/
def Fld.SAF_STATUS_PERM : Field := ⟨Reg.SAF_STATUS, 1, 0, 1, 0, 3, 1, .ro, 0, 8⟩
/-- SAF_EVENT.MISMATCH (R363). -/
def Fld.SAF_EVENT_MISMATCH : Field := ⟨Reg.SAF_EVENT, 1, 0, 1, 0, 0, 1, .w1c, 0, 3⟩
/-- SAF_EVENT.HUBCMP (R363). -/
def Fld.SAF_EVENT_HUBCMP : Field := ⟨Reg.SAF_EVENT, 1, 0, 1, 0, 1, 1, .w1c, 0, 3⟩
/-- SAF_EVENT.DIE_LOST (R363). -/
def Fld.SAF_EVENT_DIE_LOST : Field := ⟨Reg.SAF_EVENT, 1, 0, 1, 0, 2, 1, .w1c, 0, 3⟩
/-- SAF_EVENT.RECOVERED (R363). -/
def Fld.SAF_EVENT_RECOVERED : Field := ⟨Reg.SAF_EVENT, 1, 0, 1, 0, 3, 1, .w1c, 0, 3⟩
/-- SAF_EVENT.CHECKER (R363). -/
def Fld.SAF_EVENT_CHECKER : Field := ⟨Reg.SAF_EVENT, 1, 0, 1, 0, 4, 1, .w1c, 0, 3⟩
/-- SAF_RECOV.COUNT (R363). -/
def Fld.SAF_RECOV_COUNT : Field := ⟨Reg.SAF_RECOV, 1, 0, 1, 0, 0, 32, .rc, 0, 3⟩
/-- SAF_LAST.US (R363). -/
def Fld.SAF_LAST_US : Field := ⟨Reg.SAF_LAST, 1, 0, 1, 0, 0, 12, .ro, 0, 3⟩
/-- SAF_CKPT_LO.COUNT (R363). -/
def Fld.SAF_CKPT_LO_COUNT : Field := ⟨Reg.SAF_CKPT_LO, 1, 0, 1, 0, 0, 32, .ro, 0, 8⟩
/-- SAF_CKPT_HI.COUNT (R363). -/
def Fld.SAF_CKPT_HI_COUNT : Field := ⟨Reg.SAF_CKPT_HI, 1, 0, 1, 0, 0, 32, .ro, 0, 8⟩
/-- BST_CTRL.HOLD (R380). -/
def Fld.BST_CTRL_HOLD : Field := ⟨Reg.BST_CTRL, 1, 0, 1, 0, 0, 1, .rw, 0, 3⟩
/-- BST_STATUS.PHASE (R380). -/
def Fld.BST_STATUS_PHASE : Field := ⟨Reg.BST_STATUS, 1, 0, 1, 0, 0, 2, .ro, 0, 8⟩
/-- BST_STATUS.CLU_A (R380). -/
def Fld.BST_STATUS_CLU_A : Field := ⟨Reg.BST_STATUS, 1, 0, 1, 0, 2, 8, .ro, 255, 8⟩
/-- BST_STATUS.CLU_B (R380). -/
def Fld.BST_STATUS_CLU_B : Field := ⟨Reg.BST_STATUS, 1, 0, 1, 0, 10, 8, .ro, 255, 8⟩
/-- BST_STATUS.INPLACE (R380). -/
def Fld.BST_STATUS_INPLACE : Field := ⟨Reg.BST_STATUS, 1, 0, 1, 0, 18, 1, .ro, 0, 8⟩
/-- BST_STATUS.REFUSE (R380). -/
def Fld.BST_STATUS_REFUSE : Field := ⟨Reg.BST_STATUS, 1, 0, 1, 0, 19, 3, .ro, 0, 8⟩
/-- BST_EVENT.FAIL (R380). -/
def Fld.BST_EVENT_FAIL : Field := ⟨Reg.BST_EVENT, 1, 0, 1, 0, 0, 1, .w1c, 0, 3⟩
/-- BST_EVENT.REFUSED (R380). -/
def Fld.BST_EVENT_REFUSED : Field := ⟨Reg.BST_EVENT, 1, 0, 1, 0, 1, 1, .w1c, 0, 3⟩
/-- BST_EVENT.BEHIND (R380). -/
def Fld.BST_EVENT_BEHIND : Field := ⟨Reg.BST_EVENT, 1, 0, 1, 0, 2, 1, .w1c, 0, 3⟩
/-- BST_EVENT.RETEST (R380). -/
def Fld.BST_EVENT_RETEST : Field := ⟨Reg.BST_EVENT, 1, 0, 1, 0, 3, 1, .w1c, 0, 3⟩
/-- BST_EVENT.DENIED (R380). -/
def Fld.BST_EVENT_DENIED : Field := ⟨Reg.BST_EVENT, 1, 0, 1, 0, 4, 1, .w1c, 0, 3⟩
/-- BST_LAST.KIND (R380). -/
def Fld.BST_LAST_KIND : Field := ⟨Reg.BST_LAST, 1, 0, 1, 0, 0, 2, .ro, 0, 3⟩
/-- BST_LAST.INDEX (R380). -/
def Fld.BST_LAST_INDEX : Field := ⟨Reg.BST_LAST, 1, 0, 1, 0, 2, 13, .ro, 0, 3⟩
/-- BST_LAST.RESULT (R380). -/
def Fld.BST_LAST_RESULT : Field := ⟨Reg.BST_LAST, 1, 0, 1, 0, 15, 2, .ro, 0, 3⟩
/-- BST_POS_LO.POS (R380). -/
def Fld.BST_POS_LO_POS : Field := ⟨Reg.BST_POS_LO, 1, 0, 1, 0, 0, 32, .ro, 0, 3⟩
/-- BST_POS_HI.POS (R380). -/
def Fld.BST_POS_HI_POS : Field := ⟨Reg.BST_POS_HI, 1, 0, 1, 0, 0, 32, .ro, 0, 3⟩
/-- BST_PCT.PCT (R380). -/
def Fld.BST_PCT_PCT : Field := ⟨Reg.BST_PCT, 1, 0, 1, 0, 0, 10, .ro, 0, 3⟩
/-- BST_AGE.SECONDS (R380). -/
def Fld.BST_AGE_SECONDS : Field := ⟨Reg.BST_AGE, 1, 0, 1, 0, 0, 16, .ro, 0, 8⟩
/-- BST_FAILS.COUNT (R380). -/
def Fld.BST_FAILS_COUNT : Field := ⟨Reg.BST_FAILS, 1, 0, 1, 0, 0, 32, .rc, 0, 3⟩
/-- BST_DIR_CTRL.START (R380). -/
def Fld.BST_DIR_CTRL_START : Field := ⟨Reg.BST_DIR_CTRL, 1, 0, 1, 0, 0, 1, .wo, 0, 8⟩
/-- BST_DIR_CTRL.KIND (R380). -/
def Fld.BST_DIR_CTRL_KIND : Field := ⟨Reg.BST_DIR_CTRL, 1, 0, 1, 0, 1, 2, .rw, 0, 3⟩
/-- BST_DIR_CTRL.INDEX (R380). -/
def Fld.BST_DIR_CTRL_INDEX : Field := ⟨Reg.BST_DIR_CTRL, 1, 0, 1, 0, 3, 13, .rw, 0, 3⟩
/-- BST_DIR_CTRL.COUNT (R380). -/
def Fld.BST_DIR_CTRL_COUNT : Field := ⟨Reg.BST_DIR_CTRL, 1, 0, 1, 0, 16, 16, .rw, 0, 3⟩
/-- BST_DIR_SEED_LO.SEED (R380). -/
def Fld.BST_DIR_SEED_LO_SEED : Field := ⟨Reg.BST_DIR_SEED_LO, 1, 0, 1, 0, 0, 32, .rw, 0, 3⟩
/-- BST_DIR_SEED_HI.SEED (R380). -/
def Fld.BST_DIR_SEED_HI_SEED : Field := ⟨Reg.BST_DIR_SEED_HI, 1, 0, 1, 0, 0, 32, .rw, 0, 3⟩
/-- BST_DIR_SIG_LO.SIG (R380). -/
def Fld.BST_DIR_SIG_LO_SIG : Field := ⟨Reg.BST_DIR_SIG_LO, 1, 0, 1, 0, 0, 32, .ro, 0, 3⟩
/-- BST_DIR_SIG_HI.SIG (R380). -/
def Fld.BST_DIR_SIG_HI_SIG : Field := ⟨Reg.BST_DIR_SIG_HI, 1, 0, 1, 0, 0, 32, .ro, 0, 3⟩
/-- SEC_LCS.STATE (R381). -/
def Fld.SEC_LCS_STATE : Field := ⟨Reg.SEC_LCS, 1, 0, 1, 0, 0, 3, .ro, 2, 3⟩
/-- SEC_LCS.UNLOCKS (R381). -/
def Fld.SEC_LCS_UNLOCKS : Field := ⟨Reg.SEC_LCS, 1, 0, 1, 0, 3, 7, .ro, 0, 1⟩
/-- SEC_BOOT.FW_OK (R381). -/
def Fld.SEC_BOOT_FW_OK : Field := ⟨Reg.SEC_BOOT, 1, 0, 1, 0, 0, 1, .ro, 0, 3⟩
/-- SEC_BOOT.FW_SRC (R381). -/
def Fld.SEC_BOOT_FW_SRC : Field := ⟨Reg.SEC_BOOT, 1, 0, 1, 0, 1, 2, .ro, 0, 3⟩
/-- SEC_BOOT.SLOT (R381). -/
def Fld.SEC_BOOT_SLOT : Field := ⟨Reg.SEC_BOOT, 1, 0, 1, 0, 3, 2, .ro, 0, 3⟩
/-- SEC_KEYSLOT.PRESENT (R381). -/
def Fld.SEC_KEYSLOT_PRESENT : Field := ⟨Reg.SEC_KEYSLOT, 1, 0, 1, 0, 0, 4, .ro, 1, 1⟩
/-- SEC_KEYSLOT.REVOKED (R381). -/
def Fld.SEC_KEYSLOT_REVOKED : Field := ⟨Reg.SEC_KEYSLOT, 1, 0, 1, 0, 4, 4, .ro, 0, 1⟩
/-- SEC_KEYSLOT.LMS (R381). -/
def Fld.SEC_KEYSLOT_LMS : Field := ⟨Reg.SEC_KEYSLOT, 1, 0, 1, 0, 8, 1, .ro, 0, 1⟩
/-- SEC_FLOOR_LO.GEN (R381). -/
def Fld.SEC_FLOOR_LO_GEN : Field := ⟨Reg.SEC_FLOOR_LO, 1, 0, 1, 0, 0, 32, .ro, 0, 1⟩
/-- SEC_FLOOR_HI.GEN (R381). -/
def Fld.SEC_FLOOR_HI_GEN : Field := ⟨Reg.SEC_FLOOR_HI, 1, 0, 1, 0, 0, 32, .ro, 0, 1⟩
/-- SEC_FLOOR_SET_LO.GEN (R381). -/
def Fld.SEC_FLOOR_SET_LO_GEN : Field := ⟨Reg.SEC_FLOOR_SET_LO, 1, 0, 1, 0, 0, 32, .wo, 0, 8⟩
/-- SEC_FLOOR_SET_HI.GEN (R381). -/
def Fld.SEC_FLOOR_SET_HI_GEN : Field := ⟨Reg.SEC_FLOOR_SET_HI, 1, 0, 1, 0, 0, 32, .wo, 0, 8⟩
/-- SEC_ALARM.MESH (R381). -/
def Fld.SEC_ALARM_MESH : Field := ⟨Reg.SEC_ALARM, 1, 0, 1, 0, 0, 1, .w1c, 0, 2⟩
/-- SEC_ALARM.VGLITCH (R381). -/
def Fld.SEC_ALARM_VGLITCH : Field := ⟨Reg.SEC_ALARM, 1, 0, 1, 0, 1, 1, .w1c, 0, 2⟩
/-- SEC_ALARM.CGLITCH (R381). -/
def Fld.SEC_ALARM_CGLITCH : Field := ⟨Reg.SEC_ALARM, 1, 0, 1, 0, 2, 1, .w1c, 0, 2⟩
/-- SEC_ALARM.TEMP (R381). -/
def Fld.SEC_ALARM_TEMP : Field := ⟨Reg.SEC_ALARM, 1, 0, 1, 0, 3, 1, .w1c, 0, 2⟩
/-- SEC_ALARM.AUTH (R381). -/
def Fld.SEC_ALARM_AUTH : Field := ⟨Reg.SEC_ALARM, 1, 0, 1, 0, 4, 1, .w1c, 0, 2⟩
/-- SEC_ALARM.LEVEL (R381). -/
def Fld.SEC_ALARM_LEVEL : Field := ⟨Reg.SEC_ALARM, 1, 0, 1, 0, 5, 2, .ro, 0, 2⟩
/-- SEC_ALARM_LVL.LEVELS (R381). -/
def Fld.SEC_ALARM_LVL_LEVELS : Field := ⟨Reg.SEC_ALARM_LVL, 1, 0, 1, 0, 0, 10, .rw, 427, 2⟩
/-- SEC_AUTHFAIL.COUNT (R381). -/
def Fld.SEC_AUTHFAIL_COUNT : Field := ⟨Reg.SEC_AUTHFAIL, 1, 0, 1, 0, 0, 32, .rc, 0, 3⟩
/-- SEC_TKEY_SEL.TENANT (R381). -/
def Fld.SEC_TKEY_SEL_TENANT : Field := ⟨Reg.SEC_TKEY_SEL, 1, 0, 1, 0, 0, 10, .rw, 0, 3⟩
/-- SEC_TKEY_CTRL.OP (R381). -/
def Fld.SEC_TKEY_CTRL_OP : Field := ⟨Reg.SEC_TKEY_CTRL, 1, 0, 1, 0, 0, 2, .wo, 0, 8⟩
/-- SEC_TKEY_STATUS.PRESENT (R381). -/
def Fld.SEC_TKEY_STATUS_PRESENT : Field := ⟨Reg.SEC_TKEY_STATUS, 1, 0, 1, 0, 0, 1, .ro, 0, 3⟩
/-- SEC_TKEY_STATUS.BUSY (R381). -/
def Fld.SEC_TKEY_STATUS_BUSY : Field := ⟨Reg.SEC_TKEY_STATUS, 1, 0, 1, 0, 1, 1, .ro, 0, 3⟩
/-- SEC_TKEY_STATUS.ERR (R381). -/
def Fld.SEC_TKEY_STATUS_ERR : Field := ⟨Reg.SEC_TKEY_STATUS, 1, 0, 1, 0, 2, 1, .w1c, 0, 3⟩
/-- PWR_LIMIT.WATTS (R405). -/
def Fld.PWR_LIMIT_WATTS : Field := ⟨Reg.PWR_LIMIT, 1, 0, 1, 0, 0, 12, .rw, 2000, 3⟩
/-- PWR_STATUS.NOHIST (R405). -/
def Fld.PWR_STATUS_NOHIST : Field := ⟨Reg.PWR_STATUS, 1, 0, 1, 0, 0, 1, .ro, 1, 8⟩
/-- PWR_STATUS.BUSY (R405). -/
def Fld.PWR_STATUS_BUSY : Field := ⟨Reg.PWR_STATUS, 1, 0, 1, 0, 1, 1, .ro, 0, 8⟩
/-- PWR_STATUS.QUEUED (R405). -/
def Fld.PWR_STATUS_QUEUED : Field := ⟨Reg.PWR_STATUS, 1, 0, 1, 0, 2, 5, .ro, 0, 8⟩
/-- PWR_STATUS.DRAW (R405). -/
def Fld.PWR_STATUS_DRAW : Field := ⟨Reg.PWR_STATUS, 1, 0, 1, 0, 7, 12, .ro, 0, 8⟩
/-- PWR_EVENT.AVS_FAIL (R405). -/
def Fld.PWR_EVENT_AVS_FAIL : Field := ⟨Reg.PWR_EVENT, 1, 0, 1, 0, 0, 1, .w1c, 0, 3⟩
/-- PWR_EVENT.REFUSED (R405). -/
def Fld.PWR_EVENT_REFUSED : Field := ⟨Reg.PWR_EVENT, 1, 0, 1, 0, 1, 1, .w1c, 0, 3⟩
/-- PWR_EVENT.OVER (R405). -/
def Fld.PWR_EVENT_OVER : Field := ⟨Reg.PWR_EVENT, 1, 0, 1, 0, 2, 1, .w1c, 0, 3⟩
/-- PWR_EVENT.WAKE (R405). -/
def Fld.PWR_EVENT_WAKE : Field := ⟨Reg.PWR_EVENT, 1, 0, 1, 0, 3, 1, .w1c, 0, 3⟩
/-- PWR_REQ.STATE (R405). -/
def Fld.PWR_REQ_STATE : Field := ⟨Reg.PWR_REQ, 1, 0, 1, 0, 0, 3, .wo, 0, 8⟩
/-- PWR_REQ.SAVE (R405). -/
def Fld.PWR_REQ_SAVE : Field := ⟨Reg.PWR_REQ, 1, 0, 1, 0, 3, 1, .wo, 0, 8⟩
/-- PWR_REQ.KIND (R405). -/
def Fld.PWR_REQ_KIND : Field := ⟨Reg.PWR_REQ, 1, 0, 1, 0, 4, 2, .wo, 0, 8⟩
/-- PWR_REQ.INDEX (R405). -/
def Fld.PWR_REQ_INDEX : Field := ⟨Reg.PWR_REQ, 1, 0, 1, 0, 6, 10, .wo, 0, 8⟩
/-- PWR_REQ_ADDR_LO.ADDR (R405). -/
def Fld.PWR_REQ_ADDR_LO_ADDR : Field := ⟨Reg.PWR_REQ_ADDR_LO, 1, 0, 1, 0, 0, 32, .rw, 0, 3⟩
/-- PWR_REQ_ADDR_HI.ADDR (R405). -/
def Fld.PWR_REQ_ADDR_HI_ADDR : Field := ⟨Reg.PWR_REQ_ADDR_HI, 1, 0, 1, 0, 0, 32, .rw, 0, 3⟩
/-- PWR_REQ_STATUS.STATE (R405). -/
def Fld.PWR_REQ_STATUS_STATE : Field := ⟨Reg.PWR_REQ_STATUS, 1, 0, 1, 0, 0, 3, .ro, 0, 3⟩
/-- PWR_REQ_STATUS.RESULT (R405). -/
def Fld.PWR_REQ_STATUS_RESULT : Field := ⟨Reg.PWR_REQ_STATUS, 1, 0, 1, 0, 3, 2, .ro, 0, 3⟩
/-- PWR_REQ_STATUS.REFUSER (R405). -/
def Fld.PWR_REQ_STATUS_REFUSER : Field := ⟨Reg.PWR_REQ_STATUS, 1, 0, 1, 0, 5, 3, .ro, 0, 3⟩
/-- PWR_REFUSE_LAST.REFUSER (R405). -/
def Fld.PWR_REFUSE_LAST_REFUSER : Field := ⟨Reg.PWR_REFUSE_LAST, 1, 0, 1, 0, 0, 3, .ro, 0, 3⟩
/-- PWR_REFUSE_LAST.STATE (R405). -/
def Fld.PWR_REFUSE_LAST_STATE : Field := ⟨Reg.PWR_REFUSE_LAST, 1, 0, 1, 0, 3, 3, .ro, 0, 3⟩
/-- PWR_REFUSE_LAST.KIND (R405). -/
def Fld.PWR_REFUSE_LAST_KIND : Field := ⟨Reg.PWR_REFUSE_LAST, 1, 0, 1, 0, 6, 2, .ro, 0, 3⟩
/-- PWR_REFUSE_LAST.INDEX (R405). -/
def Fld.PWR_REFUSE_LAST_INDEX : Field := ⟨Reg.PWR_REFUSE_LAST, 1, 0, 1, 0, 8, 10, .ro, 0, 3⟩
/-- PWR_REFUSE_LAST.ABORTED (R405). -/
def Fld.PWR_REFUSE_LAST_ABORTED : Field := ⟨Reg.PWR_REFUSE_LAST, 1, 0, 1, 0, 18, 1, .ro, 0, 3⟩
/-- PWR_REFUSE_ARB.COUNT (R405). -/
def Fld.PWR_REFUSE_ARB_COUNT : Field := ⟨Reg.PWR_REFUSE_ARB, 1, 0, 1, 0, 0, 32, .rc, 0, 3⟩
/-- PWR_REFUSE_BUSY.COUNT (R405). -/
def Fld.PWR_REFUSE_BUSY_COUNT : Field := ⟨Reg.PWR_REFUSE_BUSY, 1, 0, 1, 0, 0, 32, .rc, 0, 3⟩
/-- PWR_REFUSE_THERM.COUNT (R405). -/
def Fld.PWR_REFUSE_THERM_COUNT : Field := ⟨Reg.PWR_REFUSE_THERM, 1, 0, 1, 0, 0, 32, .rc, 0, 3⟩
/-- PWR_REFUSE_SAFE.COUNT (R405). -/
def Fld.PWR_REFUSE_SAFE_COUNT : Field := ⟨Reg.PWR_REFUSE_SAFE, 1, 0, 1, 0, 0, 32, .rc, 0, 3⟩
/-- PWR_REFUSE_HOLD.COUNT (R405). -/
def Fld.PWR_REFUSE_HOLD_COUNT : Field := ⟨Reg.PWR_REFUSE_HOLD, 1, 0, 1, 0, 0, 32, .rc, 0, 3⟩
/-- PWR_REFUSE_TRACE.COUNT (R405). -/
def Fld.PWR_REFUSE_TRACE_COUNT : Field := ⟨Reg.PWR_REFUSE_TRACE, 1, 0, 1, 0, 0, 32, .rc, 0, 3⟩
/-- PWR_DOM.GRANT (R405). -/
def Fld.PWR_DOM_GRANT : Field := ⟨Reg.PWR_DOM, 13, 4, 1, 0, 0, 12, .ro, 0, 8⟩
/-- PWR_DOM.LEVEL (R405). -/
def Fld.PWR_DOM_LEVEL : Field := ⟨Reg.PWR_DOM, 13, 4, 1, 0, 12, 4, .ro, 0, 8⟩
/-- PWR_DOM.ARB (R405). -/
def Fld.PWR_DOM_ARB : Field := ⟨Reg.PWR_DOM, 13, 4, 1, 0, 16, 4, .ro, 0, 8⟩
/-- PWR_DOM.THERM (R405). -/
def Fld.PWR_DOM_THERM : Field := ⟨Reg.PWR_DOM, 13, 4, 1, 0, 20, 4, .ro, 0, 8⟩
/-- PWR_DOM.FLOOR (R405). -/
def Fld.PWR_DOM_FLOOR : Field := ⟨Reg.PWR_DOM, 13, 4, 1, 0, 24, 1, .ro, 0, 8⟩
/-- PWR_CON_SEL.CON (R405). -/
def Fld.PWR_CON_SEL_CON : Field := ⟨Reg.PWR_CON_SEL, 1, 0, 1, 0, 0, 10, .rw, 0, 3⟩
/-- PWR_CON_SHARE.WATTS (R405). -/
def Fld.PWR_CON_SHARE_WATTS : Field := ⟨Reg.PWR_CON_SHARE, 1, 0, 1, 0, 0, 12, .rw, 0, 3⟩
/-- PWR_CON_SHARE.HOLD (R405). -/
def Fld.PWR_CON_SHARE_HOLD : Field := ⟨Reg.PWR_CON_SHARE, 1, 0, 1, 0, 12, 1, .rw, 0, 3⟩
/-- PWR_CON_STAT.DRAW (R405). -/
def Fld.PWR_CON_STAT_DRAW : Field := ⟨Reg.PWR_CON_STAT, 1, 0, 1, 0, 0, 12, .ro, 0, 8⟩
/-- PWR_CON_STAT.LEVEL (R405). -/
def Fld.PWR_CON_STAT_LEVEL : Field := ⟨Reg.PWR_CON_STAT, 1, 0, 1, 0, 12, 4, .ro, 0, 8⟩
/-- PWR_CON_STAT.NOHIST (R405). -/
def Fld.PWR_CON_STAT_NOHIST : Field := ⟨Reg.PWR_CON_STAT, 1, 0, 1, 0, 16, 1, .ro, 0, 8⟩
/-- PWR_AVS_STATUS.PEND (R405). -/
def Fld.PWR_AVS_STATUS_PEND : Field := ⟨Reg.PWR_AVS_STATUS, 1, 0, 1, 0, 0, 4, .ro, 0, 8⟩
/-- PWR_AVS_STATUS.SUSP (R405). -/
def Fld.PWR_AVS_STATUS_SUSP : Field := ⟨Reg.PWR_AVS_STATUS, 1, 0, 1, 0, 4, 4, .ro, 0, 8⟩
/-- PWR_AVS_FAILS.COUNT (R405). -/
def Fld.PWR_AVS_FAILS_COUNT : Field := ⟨Reg.PWR_AVS_FAILS, 1, 0, 1, 0, 0, 32, .rc, 0, 3⟩
/-- PWR_WAKE_AT_LO.COUNT (R405). -/
def Fld.PWR_WAKE_AT_LO_COUNT : Field := ⟨Reg.PWR_WAKE_AT_LO, 1, 0, 1, 0, 0, 32, .rw, 0, 3⟩
/-- PWR_WAKE_AT_HI.COUNT (R405). -/
def Fld.PWR_WAKE_AT_HI_COUNT : Field := ⟨Reg.PWR_WAKE_AT_HI, 1, 0, 1, 0, 0, 32, .rw, 0, 3⟩
/-- PWR_STATES.REST (R405). -/
def Fld.PWR_STATES_REST : Field := ⟨Reg.PWR_STATES, 1, 0, 1, 0, 0, 12, .ro, 0, 8⟩
/-- PWR_STATES.SLEEP (R405). -/
def Fld.PWR_STATES_SLEEP : Field := ⟨Reg.PWR_STATES, 1, 0, 1, 0, 12, 18, .ro, 0, 8⟩
/-- PWR_TRACE_WR_LO.COUNT (R405). -/
def Fld.PWR_TRACE_WR_LO_COUNT : Field := ⟨Reg.PWR_TRACE_WR_LO, 1, 0, 1, 0, 0, 32, .ro, 0, 2⟩
/-- PWR_TRACE_WR_HI.COUNT (R405). -/
def Fld.PWR_TRACE_WR_HI_COUNT : Field := ⟨Reg.PWR_TRACE_WR_HI, 1, 0, 1, 0, 0, 32, .ro, 0, 2⟩
/-- PWR_TRACE_LOST.COUNT (R405). -/
def Fld.PWR_TRACE_LOST_COUNT : Field := ⟨Reg.PWR_TRACE_LOST, 1, 0, 1, 0, 0, 32, .rc, 0, 2⟩
/-- CLU_PWR.STATE (R405). -/
def Fld.CLU_PWR_STATE : Field := ⟨Reg.CLU_PWR, 152, 65536, 1, 0, 0, 3, .ro, 0, 8⟩
/-- CLU_PWR.SAVED (R405). -/
def Fld.CLU_PWR_SAVED : Field := ⟨Reg.CLU_PWR, 152, 65536, 1, 0, 3, 1, .ro, 0, 8⟩
/-- THM_DIE.TEMP (R406). -/
def Fld.THM_DIE_TEMP : Field := ⟨Reg.THM_DIE, 15, 4, 1, 0, 0, 8, .ro, 0, 8⟩
/-- THM_DIE.DIODE (R406). -/
def Fld.THM_DIE_DIODE : Field := ⟨Reg.THM_DIE, 15, 4, 1, 0, 8, 8, .ro, 0, 8⟩
/-- THM_DIE.RING (R406). -/
def Fld.THM_DIE_RING : Field := ⟨Reg.THM_DIE, 15, 4, 1, 0, 16, 8, .ro, 0, 8⟩
/-- THM_DIE.STATE (R406). -/
def Fld.THM_DIE_STATE : Field := ⟨Reg.THM_DIE, 15, 4, 1, 0, 24, 2, .ro, 0, 3⟩
/-- THM_DIE.RATE (R406). -/
def Fld.THM_DIE_RATE : Field := ⟨Reg.THM_DIE, 15, 4, 1, 0, 26, 2, .ro, 0, 8⟩
/-- THM_EVENT.SUSPECT (R406). -/
def Fld.THM_EVENT_SUSPECT : Field := ⟨Reg.THM_EVENT, 1, 0, 1, 0, 0, 1, .w1c, 0, 3⟩
/-- THM_EVENT.FAILED (R406). -/
def Fld.THM_EVENT_FAILED : Field := ⟨Reg.THM_EVENT, 1, 0, 1, 0, 1, 1, .w1c, 0, 3⟩
/-- THM_EVENT.THROTTLE (R406). -/
def Fld.THM_EVENT_THROTTLE : Field := ⟨Reg.THM_EVENT, 1, 0, 1, 0, 2, 1, .w1c, 0, 3⟩
/-- THM_EVENT.READOUT (R406). -/
def Fld.THM_EVENT_READOUT : Field := ⟨Reg.THM_EVENT, 1, 0, 1, 0, 3, 1, .w1c, 0, 3⟩
/-- THM_EVENT.LIMIT (R406). -/
def Fld.THM_EVENT_LIMIT : Field := ⟨Reg.THM_EVENT, 1, 0, 1, 0, 4, 1, .w1c, 0, 3⟩
/-- CKR_REF_CTRL.AUTO (R425). -/
def Fld.CKR_REF_CTRL_AUTO : Field := ⟨Reg.CKR_REF_CTRL, 1, 0, 1, 0, 0, 1, .rw, 1, 3⟩
/-- CKR_REF_CTRL.SEL (R425). -/
def Fld.CKR_REF_CTRL_SEL : Field := ⟨Reg.CKR_REF_CTRL, 1, 0, 1, 0, 1, 2, .rw, 0, 3⟩
/-- CKR_REF_STATUS.ACTIVE (R425). -/
def Fld.CKR_REF_STATUS_ACTIVE : Field := ⟨Reg.CKR_REF_STATUS, 1, 0, 1, 0, 0, 2, .ro, 0, 8⟩
/-- CKR_REF_STATUS.A_STATE (R425). -/
def Fld.CKR_REF_STATUS_A_STATE : Field := ⟨Reg.CKR_REF_STATUS, 1, 0, 1, 0, 2, 2, .ro, 0, 8⟩
/-- CKR_REF_STATUS.B_STATE (R425). -/
def Fld.CKR_REF_STATUS_B_STATE : Field := ⟨Reg.CKR_REF_STATUS, 1, 0, 1, 0, 4, 2, .ro, 0, 8⟩
/-- CKR_REF_STATUS.MER_TRUSTED (R425). -/
def Fld.CKR_REF_STATUS_MER_TRUSTED : Field := ⟨Reg.CKR_REF_STATUS, 1, 0, 1, 0, 6, 1, .ro, 0, 8⟩
/-- CKR_REF_STATUS.HOLDOVER (R425). -/
def Fld.CKR_REF_STATUS_HOLDOVER : Field := ⟨Reg.CKR_REF_STATUS, 1, 0, 1, 0, 7, 1, .ro, 0, 8⟩
/-- CKR_REF_PPM.A (R425). -/
def Fld.CKR_REF_PPM_A : Field := ⟨Reg.CKR_REF_PPM, 1, 0, 1, 0, 0, 16, .ro, 0, 8⟩
/-- CKR_REF_PPM.B (R425). -/
def Fld.CKR_REF_PPM_B : Field := ⟨Reg.CKR_REF_PPM, 1, 0, 1, 0, 16, 16, .ro, 0, 8⟩
/-- CKR_EVENT.WARN (R425). -/
def Fld.CKR_EVENT_WARN : Field := ⟨Reg.CKR_EVENT, 1, 0, 1, 0, 0, 1, .w1c, 0, 3⟩
/-- CKR_EVENT.SWITCH (R425). -/
def Fld.CKR_EVENT_SWITCH : Field := ⟨Reg.CKR_EVENT, 1, 0, 1, 0, 1, 1, .w1c, 0, 3⟩
/-- CKR_EVENT.HOLD_ON (R425). -/
def Fld.CKR_EVENT_HOLD_ON : Field := ⟨Reg.CKR_EVENT, 1, 0, 1, 0, 2, 1, .w1c, 0, 3⟩
/-- CKR_EVENT.HOLD_OFF (R425). -/
def Fld.CKR_EVENT_HOLD_OFF : Field := ⟨Reg.CKR_EVENT, 1, 0, 1, 0, 3, 1, .w1c, 0, 3⟩
/-- CKR_EVENT.XSTAT (R425). -/
def Fld.CKR_EVENT_XSTAT : Field := ⟨Reg.CKR_EVENT, 1, 0, 1, 0, 4, 1, .w1c, 0, 3⟩
/-- CKR_EVENT.FIFO_DROP (R425). -/
def Fld.CKR_EVENT_FIFO_DROP : Field := ⟨Reg.CKR_EVENT, 1, 0, 1, 0, 5, 1, .w1c, 0, 3⟩
/-- CKR_EVENT.READY (R425). -/
def Fld.CKR_EVENT_READY : Field := ⟨Reg.CKR_EVENT, 1, 0, 1, 0, 6, 1, .w1c, 0, 3⟩
/-- CKR_XSTAT.OFFSET (R425). -/
def Fld.CKR_XSTAT_OFFSET : Field := ⟨Reg.CKR_XSTAT, 1, 0, 1, 0, 0, 27, .ro, 0, 3⟩
/-- CKR_XSTAT.SRC (R425). -/
def Fld.CKR_XSTAT_SRC : Field := ⟨Reg.CKR_XSTAT, 1, 0, 1, 0, 27, 2, .ro, 0, 3⟩
/-- CKR_XSTAT.ACCESS_TIMEOUT (R425). -/
def Fld.CKR_XSTAT_ACCESS_TIMEOUT : Field := ⟨Reg.CKR_XSTAT, 1, 0, 1, 0, 29, 1, .w1c, 0, 3⟩
/-- CKR_XSTAT.CDC_UNSTABLE (R425). -/
def Fld.CKR_XSTAT_CDC_UNSTABLE : Field := ⟨Reg.CKR_XSTAT, 1, 0, 1, 0, 30, 1, .w1c, 0, 3⟩
/-- CKR_FIFO_DROP.COUNT (R425). -/
def Fld.CKR_FIFO_DROP_COUNT : Field := ⟨Reg.CKR_FIFO_DROP, 1, 0, 1, 0, 0, 32, .rc, 0, 3⟩
/-- CKR_RST.KIND (R425). -/
def Fld.CKR_RST_KIND : Field := ⟨Reg.CKR_RST, 1, 0, 1, 0, 0, 3, .wo, 0, 8⟩
/-- CKR_RST.INDEX (R425). -/
def Fld.CKR_RST_INDEX : Field := ⟨Reg.CKR_RST, 1, 0, 1, 0, 3, 10, .wo, 0, 8⟩
/-- CKR_RST_STATUS.BUSY (R425). -/
def Fld.CKR_RST_STATUS_BUSY : Field := ⟨Reg.CKR_RST_STATUS, 1, 0, 1, 0, 0, 1, .ro, 0, 8⟩
/-- CKR_RST_STATUS.LAST (R425). -/
def Fld.CKR_RST_STATUS_LAST : Field := ⟨Reg.CKR_RST_STATUS, 1, 0, 1, 0, 1, 3, .ro, 0, 3⟩
/-- CKR_RST_STATUS.REFUSED (R425). -/
def Fld.CKR_RST_STATUS_REFUSED : Field := ⟨Reg.CKR_RST_STATUS, 1, 0, 1, 0, 4, 1, .w1c, 0, 3⟩
/-- CKR_RST_CAUSE.DEVICE (R425). -/
def Fld.CKR_RST_CAUSE_DEVICE : Field := ⟨Reg.CKR_RST_CAUSE, 1, 0, 1, 0, 0, 1, .ro, 0, 2⟩
/-- CKR_BOOT.PHASE (R425). -/
def Fld.CKR_BOOT_PHASE : Field := ⟨Reg.CKR_BOOT, 1, 0, 1, 0, 0, 4, .ro, 0, 3⟩
/-- CKR_BOOT.READY (R425). -/
def Fld.CKR_BOOT_READY : Field := ⟨Reg.CKR_BOOT, 1, 0, 1, 0, 4, 1, .ro, 0, 3⟩
/-- CKR_BOOT.FAIL (R425). -/
def Fld.CKR_BOOT_FAIL : Field := ⟨Reg.CKR_BOOT, 1, 0, 1, 0, 5, 3, .ro, 0, 3⟩
/-- CKR_TRAIN_POS_LO.POS (R425). -/
def Fld.CKR_TRAIN_POS_LO_POS : Field := ⟨Reg.CKR_TRAIN_POS_LO, 1, 0, 1, 0, 0, 32, .ro, 0, 3⟩
/-- CKR_TRAIN_POS_HI.POS (R425). -/
def Fld.CKR_TRAIN_POS_HI_POS : Field := ⟨Reg.CKR_TRAIN_POS_HI, 1, 0, 1, 0, 0, 32, .ro, 0, 3⟩
/-- CKR_TRAIN_PCT.PCT (R425). -/
def Fld.CKR_TRAIN_PCT_PCT : Field := ⟨Reg.CKR_TRAIN_PCT, 1, 0, 1, 0, 0, 10, .ro, 0, 3⟩
/-- CKR_TRAIN_CTRL.FULL (R425). -/
def Fld.CKR_TRAIN_CTRL_FULL : Field := ⟨Reg.CKR_TRAIN_CTRL, 1, 0, 1, 0, 0, 1, .rw, 0, 2⟩
/-- CKR_TRAIN_CTRL.STORED (R425). -/
def Fld.CKR_TRAIN_CTRL_STORED : Field := ⟨Reg.CKR_TRAIN_CTRL, 1, 0, 1, 0, 1, 1, .ro, 0, 3⟩
/-- CKR_TRAIN_CTRL.SAVE (R425). -/
def Fld.CKR_TRAIN_CTRL_SAVE : Field := ⟨Reg.CKR_TRAIN_CTRL, 1, 0, 1, 0, 2, 1, .wo, 0, 8⟩
/-- CKR_TRAIN_PARAM_LO.OFFSET (R425). -/
def Fld.CKR_TRAIN_PARAM_LO_OFFSET : Field := ⟨Reg.CKR_TRAIN_PARAM_LO, 1, 0, 1, 0, 0, 32, .rw, 0, 2⟩
/-- CKR_TRAIN_PARAM_HI.OFFSET (R425). -/
def Fld.CKR_TRAIN_PARAM_HI_OFFSET : Field := ⟨Reg.CKR_TRAIN_PARAM_HI, 1, 0, 1, 0, 0, 32, .rw, 0, 2⟩
/-- IRQ_CTRL.GDIS (R443). -/
def Fld.IRQ_CTRL_GDIS : Field := ⟨Reg.IRQ_CTRL, 1, 0, 1, 0, 0, 1, .rw, 0, 3⟩
/-- IRQ_STATUS.BADCPL (R443). -/
def Fld.IRQ_STATUS_BADCPL : Field := ⟨Reg.IRQ_STATUS, 1, 0, 1, 0, 0, 1, .w1c, 0, 3⟩
/-- IRQ_SPURIOUS.COUNT (R443). -/
def Fld.IRQ_SPURIOUS_COUNT : Field := ⟨Reg.IRQ_SPURIOUS, 1, 0, 1, 0, 0, 32, .rc, 0, 3⟩
/-- IRQ_SWSET.SOURCE (R443). -/
def Fld.IRQ_SWSET_SOURCE : Field := ⟨Reg.IRQ_SWSET, 1, 0, 1, 0, 0, 12, .wo, 0, 8⟩
/-- IRQ_SRC_SEL.SOURCE (R443). -/
def Fld.IRQ_SRC_SEL_SOURCE : Field := ⟨Reg.IRQ_SRC_SEL, 1, 0, 1, 0, 0, 12, .rw, 0, 3⟩
/-- IRQ_SRC_CFG.PRIO (R443). -/
def Fld.IRQ_SRC_CFG_PRIO : Field := ⟨Reg.IRQ_SRC_CFG, 1, 0, 1, 0, 0, 4, .rw, 1, 3⟩
/-- IRQ_SRC_CFG.PENDING (R443). -/
def Fld.IRQ_SRC_CFG_PENDING : Field := ⟨Reg.IRQ_SRC_CFG, 1, 0, 1, 0, 4, 1, .ro, 0, 8⟩
/-- IRQ_SRC_CFG.INSERV (R443). -/
def Fld.IRQ_SRC_CFG_INSERV : Field := ⟨Reg.IRQ_SRC_CFG, 1, 0, 1, 0, 5, 1, .ro, 0, 8⟩
/-- IRQ_SRC_CFG.LEVEL (R443). -/
def Fld.IRQ_SRC_CFG_LEVEL : Field := ⟨Reg.IRQ_SRC_CFG, 1, 0, 1, 0, 6, 1, .ro, 0, 1⟩
/-- IRQ_SRC_CFG.TARGET (R443). -/
def Fld.IRQ_SRC_CFG_TARGET : Field := ⟨Reg.IRQ_SRC_CFG, 1, 0, 1, 0, 7, 2, .ro, 0, 3⟩
/-- IRQ_SRC_CFG.FUNCTION (R443). -/
def Fld.IRQ_SRC_CFG_FUNCTION : Field := ⟨Reg.IRQ_SRC_CFG, 1, 0, 1, 0, 9, 8, .ro, 0, 3⟩
/-- IRQ_SRC_CFG.VECTOR (R443). -/
def Fld.IRQ_SRC_CFG_VECTOR : Field := ⟨Reg.IRQ_SRC_CFG, 1, 0, 1, 0, 17, 11, .ro, 0, 3⟩
/-- IRQ_CLAIM_SUP.SOURCE (R443). -/
def Fld.IRQ_CLAIM_SUP_SOURCE : Field := ⟨Reg.IRQ_CLAIM_SUP, 1, 0, 1, 0, 0, 12, .rc, 4095, 8⟩
/-- IRQ_CLAIM_MGT.SOURCE (R443). -/
def Fld.IRQ_CLAIM_MGT_SOURCE : Field := ⟨Reg.IRQ_CLAIM_MGT, 1, 0, 1, 0, 0, 12, .rc, 4095, 8⟩
/-- IRQ_VCLAIM.SOURCE (R443). -/
def Fld.IRQ_VCLAIM_SOURCE : Field := ⟨Reg.IRQ_VCLAIM, 2048, 8, 1, 0, 0, 12, .rc, 4095, 8⟩
/-- IRQ_CPL_SUP.SOURCE (R443). -/
def Fld.IRQ_CPL_SUP_SOURCE : Field := ⟨Reg.IRQ_CPL_SUP, 1, 0, 1, 0, 0, 12, .wo, 0, 8⟩
/-- IRQ_CPL_MGT.SOURCE (R443). -/
def Fld.IRQ_CPL_MGT_SOURCE : Field := ⟨Reg.IRQ_CPL_MGT, 1, 0, 1, 0, 0, 12, .wo, 0, 8⟩
/-- IRQ_VCPL.SOURCE (R443). -/
def Fld.IRQ_VCPL_SOURCE : Field := ⟨Reg.IRQ_VCPL, 2048, 8, 1, 0, 0, 12, .wo, 0, 8⟩
/-- IRQ_PEND.PEND (R443). -/
def Fld.IRQ_PEND_PEND : Field := ⟨Reg.IRQ_PEND, 128, 4, 1, 0, 0, 32, .ro, 0, 8⟩
/-- HPT_LINK.RATE (R443). -/
def Fld.HPT_LINK_RATE : Field := ⟨Reg.HPT_LINK, 2, 4096, 1, 0, 0, 2, .ro, 0, 8⟩
/-- HPT_LINK.WIDTH (R443). -/
def Fld.HPT_LINK_WIDTH : Field := ⟨Reg.HPT_LINK, 2, 4096, 1, 0, 2, 5, .ro, 0, 8⟩
/-- HPT_LINK.CXL (R443). -/
def Fld.HPT_LINK_CXL : Field := ⟨Reg.HPT_LINK, 2, 4096, 1, 0, 7, 1, .ro, 0, 8⟩
/-- HPT_EVENT.LINK_DOWN (R443). -/
def Fld.HPT_EVENT_LINK_DOWN : Field := ⟨Reg.HPT_EVENT, 2, 4096, 1, 0, 0, 1, .w1c, 0, 3⟩
/-- HPT_EVENT.RESET (R443). -/
def Fld.HPT_EVENT_RESET : Field := ⟨Reg.HPT_EVENT, 2, 4096, 1, 0, 1, 1, .w1c, 0, 3⟩
/-- HPT_EVENT.FLR (R443). -/
def Fld.HPT_EVENT_FLR : Field := ⟨Reg.HPT_EVENT, 2, 4096, 1, 0, 2, 1, .w1c, 0, 3⟩
/-- HPT_EVENT.AER (R443). -/
def Fld.HPT_EVENT_AER : Field := ⟨Reg.HPT_EVENT, 2, 4096, 1, 0, 3, 1, .w1c, 0, 3⟩
/-- HPT_EVENT.OUT_ERR (R443). -/
def Fld.HPT_EVENT_OUT_ERR : Field := ⟨Reg.HPT_EVENT, 2, 4096, 1, 0, 4, 1, .w1c, 0, 3⟩
/-- HPT_OTBL_LO.ADDR (R443). -/
def Fld.HPT_OTBL_LO_ADDR : Field := ⟨Reg.HPT_OTBL_LO, 2, 4096, 1, 0, 0, 32, .rw, 0, 3⟩
/-- HPT_OTBL_HI.ADDR (R443). -/
def Fld.HPT_OTBL_HI_ADDR : Field := ⟨Reg.HPT_OTBL_HI, 2, 4096, 1, 0, 0, 32, .rw, 0, 3⟩
/-- HPT_OERR_LO.OFFSET (R443). -/
def Fld.HPT_OERR_LO_OFFSET : Field := ⟨Reg.HPT_OERR_LO, 2, 4096, 1, 0, 0, 32, .ro, 0, 3⟩
/-- HPT_OERR_HI.OFFSET (R443). -/
def Fld.HPT_OERR_HI_OFFSET : Field := ⟨Reg.HPT_OERR_HI, 2, 4096, 1, 0, 0, 32, .ro, 0, 3⟩
/-- HPT_HDM_BASE_LO.OFFSET (R443). -/
def Fld.HPT_HDM_BASE_LO_OFFSET : Field := ⟨Reg.HPT_HDM_BASE_LO, 2, 4096, 1, 0, 0, 32, .rw, 0, 3⟩
/-- HPT_HDM_BASE_HI.OFFSET (R443). -/
def Fld.HPT_HDM_BASE_HI_OFFSET : Field := ⟨Reg.HPT_HDM_BASE_HI, 2, 4096, 1, 0, 0, 32, .rw, 0, 3⟩
/-- HPT_HDM_SIZE.UNITS (R443). -/
def Fld.HPT_HDM_SIZE_UNITS : Field := ⟨Reg.HPT_HDM_SIZE, 2, 4096, 1, 0, 0, 12, .rw, 0, 3⟩
/-- HPT_VFAP_LO.OFFSET (R443). -/
def Fld.HPT_VFAP_LO_OFFSET : Field := ⟨Reg.HPT_VFAP_LO, 2, 4096, 255, 8, 0, 32, .rw, 0, 3⟩
/-- HPT_VFAP_HI.OFFSET (R443). -/
def Fld.HPT_VFAP_HI_OFFSET : Field := ⟨Reg.HPT_VFAP_HI, 2, 4096, 255, 8, 0, 32, .rw, 0, 3⟩
/-- HUB_SERIAL_LO.SERIAL (R28). -/
def Fld.HUB_SERIAL_LO_SERIAL : Field := ⟨Reg.HUB_SERIAL_LO, 1, 0, 1, 0, 0, 32, .ro, 0, 1⟩
/-- HUB_SERIAL_HI.SERIAL (R28). -/
def Fld.HUB_SERIAL_HI_SERIAL : Field := ⟨Reg.HUB_SERIAL_HI, 1, 0, 1, 0, 0, 32, .ro, 0, 1⟩
/-- MER_COUNT_LO.COUNT (R308). -/
def Fld.MER_COUNT_LO_COUNT : Field := ⟨Reg.MER_COUNT_LO, 1, 0, 1, 0, 0, 32, .ro, 0, 2⟩
/-- MER_COUNT_HI.COUNT (R308). -/
def Fld.MER_COUNT_HI_COUNT : Field := ⟨Reg.MER_COUNT_HI, 1, 0, 1, 0, 0, 32, .ro, 0, 2⟩

/-- The fields of block HUB. -/
def fieldsHUB : List Field :=
  [Fld.HUB_ID_PART, Fld.HUB_ID_FAMILY, Fld.HUB_REV_MINOR, Fld.HUB_REV_MAJOR, Fld.HUB_REV_GRADE, Fld.HUB_REV_LIT, Fld.HUB_MMIO_ERR_ADDR_OFFSET, Fld.HUB_MMIO_ERR_ADDR_SRC, Fld.HUB_MMIO_ERR_ADDR_OVERRUN, Fld.HUB_MMIO_ERR_ADDR_VALID, Fld.HUB_MMIO_ERR_CNT_COUNT, Fld.HUB_LMAP_PHYS, Fld.HUB_HASH_PROBE_LO_OFFSET, Fld.HUB_HASH_PROBE_HI_OFFSET, Fld.HUB_HASH_RESULT_CHANNEL, Fld.HUB_HASH_RESULT_STACK, Fld.HUB_HASH_RESULT_PC, Fld.HUB_HASH_RESULT_BANK, Fld.HUB_HASH_RESULT_ROW, Fld.HUB_HASH_RESULT_VALID] ++
  [Fld.HUB_HASH_INFO_CHANNELS, Fld.HUB_ZFILL_BASE_LO_OFFSET, Fld.HUB_ZFILL_BASE_HI_OFFSET, Fld.HUB_ZFILL_LEN_LO_BYTES, Fld.HUB_ZFILL_LEN_HI_BYTES, Fld.HUB_ZFILL_CTRL_START, Fld.HUB_ZFILL_CTRL_ABORT, Fld.HUB_ZFILL_STATUS_STATE, Fld.HUB_ZFILL_STATUS_ERR, Fld.HUB_ZFILL_STATUS_END, Fld.HUB_ZFILL_POS_LO_POS, Fld.HUB_ZFILL_POS_HI_POS, Fld.HUB_ZFILL_PCT_PCT, Fld.HUB_FEAT0_CLUSTERS, Fld.HUB_FEAT0_ROWS, Fld.HUB_FEAT0_COLS, Fld.HUB_FEAT0_THIN, Fld.HUB_FEAT1_ARR_FMT, Fld.HUB_FEAT1_CVT_FMT, Fld.HUB_FEAT2_LIT] ++
  [Fld.HUB_FEAT2_STACKS, Fld.HUB_FEAT3_PAIRS, Fld.HUB_FEAT3_QSLOTS, Fld.HUB_FEAT3_SCORES, Fld.HUB_FEAT3_MACS, Fld.HUB_FEAT3_PAIRINGS, Fld.HUB_FEAT4_SPAD, Fld.HUB_FEAT4_IWORDS, Fld.HUB_FEAT5_FEED, Fld.HUB_FEAT5_DRAIN, Fld.HUB_FEAT5_DMA, Fld.HUB_FEAT6_SCMD, Fld.HUB_FEAT6_SLINES, Fld.HUB_FEAT6_LAUNCH, Fld.HUB_FEAT6_METEOR, Fld.HUB_FEAT7_LANES, Fld.HUB_FEAT7_LANES64, Fld.HUB_FEAT7_KLOG, Fld.HUB_FEAT7_TILEQ, Fld.HUB_FEAT7_LEVELS] ++
  [Fld.HUB_TINV_KEY_LO_KEY, Fld.HUB_TINV_KEY_HI_KEY, Fld.HUB_TINV_CTRL_START, Fld.HUB_TINV_CTRL_KIND, Fld.HUB_TINV_STATUS_BUSY, Fld.HUB_TINV_STATUS_DONE, Fld.HUB_TINV_STATUS_IGNORED, Fld.HUB_SERIAL_LO_SERIAL, Fld.HUB_SERIAL_HI_SERIAL]
/-- The fields of block IMG. -/
def fieldsIMG : List Field :=
  [Fld.IMG_CTRL_START, Fld.IMG_CTRL_ABORT, Fld.IMG_CTRL_SRC_KIND, Fld.IMG_STATUS_STATE, Fld.IMG_STATUS_SCOPE, Fld.IMG_STATUS_TARGET, Fld.IMG_STATUS_REF_BUSY, Fld.IMG_STATUS_REF_DENIED, Fld.IMG_STATUS_END, Fld.IMG_ERR_CODE, Fld.IMG_ERR_SECTION, Fld.IMG_ERR_DETAIL, Fld.IMG_SRC_LO_ADDR, Fld.IMG_SRC_HI_ADDR, Fld.IMG_LEN_BYTES, Fld.IMG_LOAD_PCT_PCT, Fld.IMG_MIGRATE_RATE, Fld.IMG_LOAD_POS_LO_POS, Fld.IMG_LOAD_POS_HI_POS, Fld.IMG_GEN_LO_GEN] ++
  [Fld.IMG_GEN_HI_GEN, Fld.IMG_DIGEST_WORD]
/-- The fields of block SEQ. -/
def fieldsSEQ : List Field :=
  [Fld.SEQ_DESC_BASE_LO_ADDR, Fld.SEQ_DESC_BASE_HI_ADDR, Fld.SEQ_PREFIX_FREE_COUNT, Fld.SEQ_EMPTY_LO_COUNT, Fld.SEQ_EMPTY_HI_COUNT, Fld.SEQ_CTX_PCT_PCT, Fld.SEQ_CTX_POS_LO_POS, Fld.SEQ_CTX_POS_HI_POS, Fld.SEQ_LCTRL_EN, Fld.SEQ_LCTRL_CIRQ, Fld.SEQ_LCTRL_RESTART, Fld.SEQ_LSTAT_STATE, Fld.SEQ_LSTAT_INFLIGHT, Fld.SEQ_LSTAT_STOPPED, Fld.SEQ_SUBQ_LO_ADDR, Fld.SEQ_SUBQ_HI_ADDR, Fld.SEQ_SUBQ_SIZE_ENTRIES, Fld.SEQ_SUBQ_TAIL_INDEX, Fld.SEQ_SUBQ_HEAD_INDEX, Fld.SEQ_LERR_KIND] ++
  [Fld.SEQ_LERR_SEQ, Fld.SEQ_LERR_OVERRUN, Fld.SEQ_LERR_VALID, Fld.SEQ_STEP_LO_STEP, Fld.SEQ_STEP_HI_STEP, Fld.SEQ_DETOK_LO_ADDR, Fld.SEQ_DETOK_HI_ADDR, Fld.SEQ_DETOK_COUNT_COUNT, Fld.SEQ_WINCTRL_ARM, Fld.SEQ_WINCTRL_STATUS, Fld.SEQ_WSTART_LO_COUNT, Fld.SEQ_WSTOP_LO_COUNT, Fld.SEQ_WSTART_HI_COUNT, Fld.SEQ_WSTOP_HI_COUNT, Fld.SEQ_REPLAYS_COUNT, Fld.SEQ_RINGWAIT_COUNT, Fld.SEQ_TDESC_BASE, Fld.SEQ_TDCNT_COUNT, Fld.SEQ_TPQUOTA_FRAMES, Fld.SEQ_TTOK_TOKSHARE] ++
  [Fld.SEQ_TTOK_OVER, Fld.SEQ_THELD_FRAMES]
/-- The fields of block KVM. -/
def fieldsKVM : List Field :=
  [Fld.KVM_ATT_LO_ADDR, Fld.KVM_ATT_HI_ADDR, Fld.KVM_ATT_FREE_FREE, Fld.KVM_FREE_SEL_GEOM, Fld.KVM_FREE_PAGES_COUNT, Fld.KVM_FREE_PAIRS_COUNT, Fld.KVM_ZEROING_COUNT, Fld.KVM_EVENT_ERR, Fld.KVM_EVENT_PARK, Fld.KVM_EVENT_PREEMPT, Fld.KVM_EVENT_SWAPIN_FAIL, Fld.KVM_EVENT_SWAP_END, Fld.KVM_ERR_CODE, Fld.KVM_ERR_OVERRUN, Fld.KVM_ERR_VALID, Fld.KVM_ERR_SEQ_SEQ, Fld.KVM_SWAPTAB_LO_ADDR, Fld.KVM_SWAPTAB_HI_ADDR, Fld.KVM_HKVTAB_LO_ADDR, Fld.KVM_HKVTAB_HI_ADDR] ++
  [Fld.KVM_SWAP_STATUS_SEQ, Fld.KVM_SWAP_STATUS_STATE, Fld.KVM_SWAP_STATUS_QUEUED, Fld.KVM_SWAP_POS_LO_POS, Fld.KVM_SWAP_POS_HI_POS, Fld.KVM_SWAP_PCT_PCT, Fld.KVM_EVICTED_LO_COUNT, Fld.KVM_EVICTED_HI_COUNT, Fld.KVM_PREEMPTS_COUNT, Fld.KVM_PARKS_COUNT, Fld.KVM_COWS_COUNT, Fld.KVM_TCFG_EVICT, Fld.KVM_TCFG_DECAY, Fld.KVM_TCFG_CHECK, Fld.KVM_TCFG_HASHKV]
/-- The fields of block IRQ. -/
def fieldsIRQ : List Field :=
  [Fld.IRQ_CTRL_GDIS, Fld.IRQ_STATUS_BADCPL, Fld.IRQ_SPURIOUS_COUNT, Fld.IRQ_SWSET_SOURCE, Fld.IRQ_SRC_SEL_SOURCE, Fld.IRQ_SRC_CFG_PRIO, Fld.IRQ_SRC_CFG_PENDING, Fld.IRQ_SRC_CFG_INSERV, Fld.IRQ_SRC_CFG_LEVEL, Fld.IRQ_SRC_CFG_TARGET, Fld.IRQ_SRC_CFG_FUNCTION, Fld.IRQ_SRC_CFG_VECTOR, Fld.IRQ_CLAIM_SUP_SOURCE, Fld.IRQ_CLAIM_MGT_SOURCE, Fld.IRQ_VCLAIM_SOURCE, Fld.IRQ_CPL_SUP_SOURCE, Fld.IRQ_CPL_MGT_SOURCE, Fld.IRQ_VCPL_SOURCE, Fld.IRQ_PEND_PEND]
/-- The fields of block PWR. -/
def fieldsPWR : List Field :=
  [Fld.PWR_LIMIT_WATTS, Fld.PWR_STATUS_NOHIST, Fld.PWR_STATUS_BUSY, Fld.PWR_STATUS_QUEUED, Fld.PWR_STATUS_DRAW, Fld.PWR_EVENT_AVS_FAIL, Fld.PWR_EVENT_REFUSED, Fld.PWR_EVENT_OVER, Fld.PWR_EVENT_WAKE, Fld.PWR_REQ_STATE, Fld.PWR_REQ_SAVE, Fld.PWR_REQ_KIND, Fld.PWR_REQ_INDEX, Fld.PWR_REQ_ADDR_LO_ADDR, Fld.PWR_REQ_ADDR_HI_ADDR, Fld.PWR_REQ_STATUS_STATE, Fld.PWR_REQ_STATUS_RESULT, Fld.PWR_REQ_STATUS_REFUSER, Fld.PWR_REFUSE_LAST_REFUSER, Fld.PWR_REFUSE_LAST_STATE] ++
  [Fld.PWR_REFUSE_LAST_KIND, Fld.PWR_REFUSE_LAST_INDEX, Fld.PWR_REFUSE_LAST_ABORTED, Fld.PWR_REFUSE_ARB_COUNT, Fld.PWR_REFUSE_BUSY_COUNT, Fld.PWR_REFUSE_THERM_COUNT, Fld.PWR_REFUSE_SAFE_COUNT, Fld.PWR_REFUSE_HOLD_COUNT, Fld.PWR_REFUSE_TRACE_COUNT, Fld.PWR_DOM_GRANT, Fld.PWR_DOM_LEVEL, Fld.PWR_DOM_ARB, Fld.PWR_DOM_THERM, Fld.PWR_DOM_FLOOR, Fld.PWR_CON_SEL_CON, Fld.PWR_CON_SHARE_WATTS, Fld.PWR_CON_SHARE_HOLD, Fld.PWR_CON_STAT_DRAW, Fld.PWR_CON_STAT_LEVEL, Fld.PWR_CON_STAT_NOHIST] ++
  [Fld.PWR_AVS_STATUS_PEND, Fld.PWR_AVS_STATUS_SUSP, Fld.PWR_AVS_FAILS_COUNT, Fld.PWR_WAKE_AT_LO_COUNT, Fld.PWR_WAKE_AT_HI_COUNT, Fld.PWR_STATES_REST, Fld.PWR_STATES_SLEEP, Fld.PWR_TRACE_WR_LO_COUNT, Fld.PWR_TRACE_WR_HI_COUNT, Fld.PWR_TRACE_LOST_COUNT]
/-- The fields of block THM. -/
def fieldsTHM : List Field :=
  [Fld.THM_DIE_TEMP, Fld.THM_DIE_DIODE, Fld.THM_DIE_RING, Fld.THM_DIE_STATE, Fld.THM_DIE_RATE, Fld.THM_EVENT_SUSPECT, Fld.THM_EVENT_FAILED, Fld.THM_EVENT_THROTTLE, Fld.THM_EVENT_READOUT, Fld.THM_EVENT_LIMIT]
/-- The fields of block MER. -/
def fieldsMER : List Field :=
  [Fld.MER_CTRL_SRC, Fld.MER_PARENT_DEVICE, Fld.MER_STATUS_LOCKED, Fld.MER_STATUS_FAR, Fld.MER_STATUS_STEPPED, Fld.MER_STATUS_PPS_LOST, Fld.MER_OFFSET_NS, Fld.MER_SET_LO_COUNT, Fld.MER_SET_HI_COUNT, Fld.MER_COUNT_LO_COUNT, Fld.MER_COUNT_HI_COUNT]
/-- The fields of block RAS. -/
def fieldsRAS : List Field :=
  [Fld.RAS_EVENT_CE, Fld.RAS_EVENT_UE, Fld.RAS_EVENT_REFETCH, Fld.RAS_EVENT_REPAIR, Fld.RAS_EVENT_LOST, Fld.RAS_EVENT_RETIRED, Fld.RAS_EVENT_SPARE_OUT, Fld.RAS_EVENT_RGN_OFF, Fld.RAS_EVENT_SCRUB_END, Fld.RAS_ERR_KIND, Fld.RAS_ERR_SOURCE, Fld.RAS_ERR_OVERRUN, Fld.RAS_ERR_VALID, Fld.RAS_ERR_ADDR_LO_ADDR, Fld.RAS_ERR_ADDR_HI_ADDR, Fld.RAS_CE_LO_COUNT, Fld.RAS_CE_HI_COUNT, Fld.RAS_UE_LO_COUNT, Fld.RAS_UE_HI_COUNT, Fld.RAS_SPARES_DIE_A] ++
  [Fld.RAS_SPARES_DIE_B, Fld.RAS_ROWS_MINLEFT, Fld.RAS_ROWS_EXHAUSTED, Fld.RAS_RETREC_LO_OFFSET, Fld.RAS_RETREC_HI_OFFSET, Fld.RAS_RGN_SEL_INDEX, Fld.RAS_RGN_CTRL_KIND, Fld.RAS_RGN_CTRL_COMMIT, Fld.RAS_RGN_CTRL_ERR, Fld.RAS_RGN_BASE_LO_V, Fld.RAS_RGN_BASE_HI_V, Fld.RAS_RGN_LEN_LO_V, Fld.RAS_RGN_LEN_HI_V, Fld.RAS_RGN_SRC_LO_V, Fld.RAS_RGN_SRC_HI_V, Fld.RAS_SCRUB_BASE_LO_V, Fld.RAS_SCRUB_BASE_HI_V, Fld.RAS_SCRUB_LEN_LO_V, Fld.RAS_SCRUB_LEN_HI_V, Fld.RAS_SCRUB_CTRL_START] ++
  [Fld.RAS_SCRUB_CTRL_ABORT, Fld.RAS_SCRUB_CTRL_RATE, Fld.RAS_SCRUB_STATUS_STATE, Fld.RAS_SCRUB_STATUS_ERR, Fld.RAS_SCRUB_POS_LO_POS, Fld.RAS_SCRUB_POS_HI_POS, Fld.RAS_SCRUB_PCT_PCT, Fld.RAS_SCRUB_CE_COUNT, Fld.RAS_SCRUB_UE_COUNT, Fld.RAS_SCRUB_RETIRED_COUNT, Fld.RAS_SCRUB_FIRST_LO_V, Fld.RAS_SCRUB_FIRST_HI_V, Fld.RAS_SCRUB_LAST_LO_V, Fld.RAS_SCRUB_LAST_HI_V]
/-- The fields of block SAF. -/
def fieldsSAF : List Field :=
  [Fld.SAF_STATUS_DEVICE, Fld.SAF_STATUS_DIE_A, Fld.SAF_STATUS_DIE_B, Fld.SAF_STATUS_PERM, Fld.SAF_EVENT_MISMATCH, Fld.SAF_EVENT_HUBCMP, Fld.SAF_EVENT_DIE_LOST, Fld.SAF_EVENT_RECOVERED, Fld.SAF_EVENT_CHECKER, Fld.SAF_RECOV_COUNT, Fld.SAF_LAST_US, Fld.SAF_CKPT_LO_COUNT, Fld.SAF_CKPT_HI_COUNT]
/-- The fields of block BST. -/
def fieldsBST : List Field :=
  [Fld.BST_CTRL_HOLD, Fld.BST_STATUS_PHASE, Fld.BST_STATUS_CLU_A, Fld.BST_STATUS_CLU_B, Fld.BST_STATUS_INPLACE, Fld.BST_STATUS_REFUSE, Fld.BST_EVENT_FAIL, Fld.BST_EVENT_REFUSED, Fld.BST_EVENT_BEHIND, Fld.BST_EVENT_RETEST, Fld.BST_EVENT_DENIED, Fld.BST_LAST_KIND, Fld.BST_LAST_INDEX, Fld.BST_LAST_RESULT, Fld.BST_POS_LO_POS, Fld.BST_POS_HI_POS, Fld.BST_PCT_PCT, Fld.BST_AGE_SECONDS, Fld.BST_FAILS_COUNT, Fld.BST_DIR_CTRL_START] ++
  [Fld.BST_DIR_CTRL_KIND, Fld.BST_DIR_CTRL_INDEX, Fld.BST_DIR_CTRL_COUNT, Fld.BST_DIR_SEED_LO_SEED, Fld.BST_DIR_SEED_HI_SEED, Fld.BST_DIR_SIG_LO_SIG, Fld.BST_DIR_SIG_HI_SIG]
/-- The fields of block SEC. -/
def fieldsSEC : List Field :=
  [Fld.SEC_LCS_STATE, Fld.SEC_LCS_UNLOCKS, Fld.SEC_BOOT_FW_OK, Fld.SEC_BOOT_FW_SRC, Fld.SEC_BOOT_SLOT, Fld.SEC_KEYSLOT_PRESENT, Fld.SEC_KEYSLOT_REVOKED, Fld.SEC_KEYSLOT_LMS, Fld.SEC_FLOOR_LO_GEN, Fld.SEC_FLOOR_HI_GEN, Fld.SEC_FLOOR_SET_LO_GEN, Fld.SEC_FLOOR_SET_HI_GEN, Fld.SEC_ALARM_MESH, Fld.SEC_ALARM_VGLITCH, Fld.SEC_ALARM_CGLITCH, Fld.SEC_ALARM_TEMP, Fld.SEC_ALARM_AUTH, Fld.SEC_ALARM_LEVEL, Fld.SEC_ALARM_LVL_LEVELS, Fld.SEC_AUTHFAIL_COUNT] ++
  [Fld.SEC_TKEY_SEL_TENANT, Fld.SEC_TKEY_CTRL_OP, Fld.SEC_TKEY_STATUS_PRESENT, Fld.SEC_TKEY_STATUS_BUSY, Fld.SEC_TKEY_STATUS_ERR]
/-- The fields of block CKR. -/
def fieldsCKR : List Field :=
  [Fld.CKR_REF_CTRL_AUTO, Fld.CKR_REF_CTRL_SEL, Fld.CKR_REF_STATUS_ACTIVE, Fld.CKR_REF_STATUS_A_STATE, Fld.CKR_REF_STATUS_B_STATE, Fld.CKR_REF_STATUS_MER_TRUSTED, Fld.CKR_REF_STATUS_HOLDOVER, Fld.CKR_REF_PPM_A, Fld.CKR_REF_PPM_B, Fld.CKR_EVENT_WARN, Fld.CKR_EVENT_SWITCH, Fld.CKR_EVENT_HOLD_ON, Fld.CKR_EVENT_HOLD_OFF, Fld.CKR_EVENT_XSTAT, Fld.CKR_EVENT_FIFO_DROP, Fld.CKR_EVENT_READY, Fld.CKR_XSTAT_OFFSET, Fld.CKR_XSTAT_SRC, Fld.CKR_XSTAT_ACCESS_TIMEOUT, Fld.CKR_XSTAT_CDC_UNSTABLE] ++
  [Fld.CKR_FIFO_DROP_COUNT, Fld.CKR_RST_KIND, Fld.CKR_RST_INDEX, Fld.CKR_RST_STATUS_BUSY, Fld.CKR_RST_STATUS_LAST, Fld.CKR_RST_STATUS_REFUSED, Fld.CKR_RST_CAUSE_DEVICE, Fld.CKR_BOOT_PHASE, Fld.CKR_BOOT_READY, Fld.CKR_BOOT_FAIL, Fld.CKR_TRAIN_POS_LO_POS, Fld.CKR_TRAIN_POS_HI_POS, Fld.CKR_TRAIN_PCT_PCT, Fld.CKR_TRAIN_CTRL_FULL, Fld.CKR_TRAIN_CTRL_STORED, Fld.CKR_TRAIN_CTRL_SAVE, Fld.CKR_TRAIN_PARAM_LO_OFFSET, Fld.CKR_TRAIN_PARAM_HI_OFFSET]
/-- The fields of block HPT. -/
def fieldsHPT : List Field :=
  [Fld.HPT_LINK_RATE, Fld.HPT_LINK_WIDTH, Fld.HPT_LINK_CXL, Fld.HPT_EVENT_LINK_DOWN, Fld.HPT_EVENT_RESET, Fld.HPT_EVENT_FLR, Fld.HPT_EVENT_AER, Fld.HPT_EVENT_OUT_ERR, Fld.HPT_OTBL_LO_ADDR, Fld.HPT_OTBL_HI_ADDR, Fld.HPT_OERR_LO_OFFSET, Fld.HPT_OERR_HI_OFFSET, Fld.HPT_HDM_BASE_LO_OFFSET, Fld.HPT_HDM_BASE_HI_OFFSET, Fld.HPT_HDM_SIZE_UNITS, Fld.HPT_VFAP_LO_OFFSET, Fld.HPT_VFAP_HI_OFFSET]
/-- The fields of block FAB. -/
def fieldsFAB : List Field :=
  [Fld.FAB_DEVID_DEVICE, Fld.FAB_DEVID_VALID, Fld.FAB_CTRL_TIMEOUT, Fld.FAB_EVENT_PORT_DOWN, Fld.FAB_EVENT_ERR, Fld.FAB_EVENT_SHADOW_LOST, Fld.FAB_EVENT_AUTH, Fld.FAB_ERR_CODE, Fld.FAB_ERR_SIDE, Fld.FAB_ERR_OVERRUN, Fld.FAB_ERR_VALID, Fld.FAB_ERR_DEV_DEVICE, Fld.FAB_COLL_LO_ADDR, Fld.FAB_COLL_HI_ADDR, Fld.FAB_COLL_FREE_FREE, Fld.FAB_BUDDY_DEVICE, Fld.FAB_BUDDY_EN, Fld.FAB_BUDDY_LOST, Fld.FAB_BUDDY_LOG_LO_ADDR, Fld.FAB_SHADOW_BASE_LO_ADDR] ++
  [Fld.FAB_BUDDY_LOG_HI_ADDR, Fld.FAB_SHADOW_BASE_HI_ADDR, Fld.FAB_BUDDY_SIZE_LOG2, Fld.FAB_SHADOW_SIZE_LOG2, Fld.FAB_SHADOW_SRC_DEVICE, Fld.FAB_SHADOW_SRC_EN, Fld.FAB_PORT_CTRL_EN, Fld.FAB_PORT_CTRL_REKEY, Fld.FAB_PORT_CTRL_RETRAIN, Fld.FAB_PORT_STAT_STATE, Fld.FAB_PORT_STAT_WIDTH, Fld.FAB_PORT_STAT_SLOW, Fld.FAB_PORT_CRC_COUNT, Fld.FAB_PORT_REPLAY_COUNT, Fld.FAB_PORT_AUTH_COUNT, Fld.FAB_PORT_RETRAIN_COUNT, Fld.FAB_PORT_FLITS_LO_COUNT, Fld.FAB_PORT_FLITS_HI_COUNT]
/-- The fields of block STK. -/
def fieldsSTK : List Field :=
  [Fld.STK_INFO_LIT, Fld.STK_INFO_RIDS, Fld.STK_MODE_PMASK, Fld.STK_MODE_CHANGING, Fld.STK_DIESTATE_ALLOW, Fld.STK_STATUS_THROT, Fld.STK_STATUS_WHOLD, Fld.STK_EVENT_WHOLD_ON, Fld.STK_EVENT_WHOLD_OFF, Fld.STK_EVENT_HALVE, Fld.STK_EVENT_CMD_ERR, Fld.STK_EVENT_CHECKSUM, Fld.STK_CMD_ERR_STATUS, Fld.STK_CMD_ERR_CHANNEL, Fld.STK_CMD_ERR_PC, Fld.STK_CMD_ERR_PAIR, Fld.STK_CMD_ERR_OPCODE, Fld.STK_CMD_ERR_OVERRUN, Fld.STK_CMD_ERR_VALID, Fld.STK_CMD_ERR_TAG_TAG] ++
  [Fld.STK_ACT_LO_COUNT, Fld.STK_ACT_HI_COUNT, Fld.STK_TPAW_WAIT_LO_COUNT, Fld.STK_TPAW_WAIT_HI_COUNT, Fld.STK_DIETEMP_TEMP, Fld.STK_CQ_CMD_FREE, Fld.STK_CQ_PAY_FREE]
/-- The fields of block CLU. -/
def fieldsCLU : List Field :=
  [Fld.CLU_ARR_MODE_FREEZE, Fld.CLU_ARR_MODE_FREEZE_ACT, Fld.CLU_ARR_STATUS_BANKBUSY, Fld.CLU_ARR_STATUS_STREAM, Fld.CLU_ARR_STATUS_LEVEL, Fld.CLU_ARR_STATUS_PACK, Fld.CLU_ARR_STATUS_PREEMPT, Fld.CLU_ARR_STATUS_THIN, Fld.CLU_ARR_EVENT_RECOMP, Fld.CLU_ARR_EVENT_TILE_FAIL, Fld.CLU_ARR_EVENT_HALF_LOST, Fld.CLU_ARR_ERR_KIND, Fld.CLU_ARR_ERR_BANK, Fld.CLU_ARR_ERR_SUB, Fld.CLU_ARR_ERR_THIN, Fld.CLU_ARR_ERR_OVERRUN, Fld.CLU_ARR_ERR_VALID, Fld.CLU_ARR_ERR_TAG_TAG, Fld.CLU_ARR_STEPS_LO_COUNT, Fld.CLU_ARR_STEPS_HI_COUNT] ++
  [Fld.CLU_ARR_BUBBLES_LO_COUNT, Fld.CLU_ARR_BUBBLES_HI_COUNT, Fld.CLU_ARR_DUMMY_LO_COUNT, Fld.CLU_ARR_DUMMY_HI_COUNT, Fld.CLU_ARR_FREEZES_LO_COUNT, Fld.CLU_ARR_FREEZES_HI_COUNT, Fld.CLU_ARR_RECOMP_COUNT, Fld.CLU_LAUNCH_LO_ADDR, Fld.CLU_LAUNCH_HI_ADDR, Fld.CLU_LSTAT_FREE, Fld.CLU_LSTAT_BUSY, Fld.CLU_LSTAT_DONE, Fld.CLU_LSTAT_ERR, Fld.CLU_LSTAT_REFUSED, Fld.CLU_LSTAT_ERRIDX, Fld.CLU_FAULT_CAUSE, Fld.CLU_FAULT_SLOT, Fld.CLU_FAULT_DEFERRED, Fld.CLU_FAULT_DETAIL, Fld.CLU_FAULT_OVERRUN] ++
  [Fld.CLU_FAULT_VALID, Fld.CLU_FAULT_PC_LO_PC, Fld.CLU_FAULT_PC_HI_PC, Fld.CLU_ICTRL_ICINV, Fld.CLU_PC_LO_PC, Fld.CLU_PC_HI_PC, Fld.CLU_PWR_STATE, Fld.CLU_PWR_SAVED]
/-- The fields of block CON. -/
def fieldsCON : List Field :=
  [Fld.CON_INFO_LEAVES, Fld.CON_INFO_LEVEL, Fld.CON_INFO_BOUND, Fld.CON_INFO_TENANT, Fld.CON_INFO_PARENT]

/-- The fields of the block at a local MMIO offset (Table 1.11). -/
def fieldsNear (off : Nat) : List Field :=
  if off < 0x1000000 then
    match off / 0x100000 with
    | 0 => fieldsHUB
    | 1 => fieldsIMG
    | 2 => fieldsSEQ
    | 3 => fieldsKVM
    | 4 => fieldsIRQ
    | 5 => fieldsPWR
    | 6 => fieldsTHM
    | 7 => fieldsMER
    | 8 => fieldsRAS
    | 9 => fieldsSAF
    | 10 => fieldsBST
    | 11 => fieldsSEC
    | 12 => fieldsCKR
    | 13 => fieldsHPT
    | 14 => fieldsFAB
    | _ => []
  else if off < 0x2000000 then fieldsSTK
  else if off < 0x3000000 then fieldsCLU
  else if off < 0x4000000 then []
  else if off < 0x8000000 then fieldsCON
  else []

/-- The fields of the register at an offset; none where no register is defined (R2, R22). -/
def fieldsAt (off : Nat) : List Field := (fieldsNear off).filter (fun f => (f.at? off).isSome)

/-- A register is defined at the offset. -/
def isReg (off : Nat) : Bool := !(fieldsAt off).isEmpty

/-- The reset value of STK_INFO.LIT: the lit stacks are S0 to S3 and S6 to S9 (R15). -/
def isLit (n : Nat) : Bool := decide (n < 4) || (decide (6 ≤ n) && decide (n < 10))

/-- The value of a field at reset, before an image is loaded (R7). -/
def Field.resetAt (f : Field) (off : Nat) : Nat :=
  if f = Fld.STK_INFO_LIT then (if isLit ((off - f.base) / f.s1) then 1 else 0) else f.reset

/-- The value of the register at an offset after reset (R7). -/
def regReset (off : Nat) : BitVec 32 :=
  (fieldsAt off).foldl (fun v f => v ||| (BitVec.ofNat 32 (f.resetAt off) <<< f.lo)) 0#32

/-- A register file: registers at their reset values are not listed. -/
abbrev Regs := KMap (BitVec 32)

def Regs.read (m : Regs) (off : Nat) : BitVec 32 := KMap.get regReset m off
def Regs.write (m : Regs) (off : Nat) (v : BitVec 32) : Regs := KMap.set regReset m off v

/-- Bits [lo, lo + w) of a register word. -/
def getBits (x : BitVec 32) (lo w : Nat) : Nat := x.toNat / 2 ^ lo % 2 ^ w

/-- The register word with bits [lo, lo + w) replaced. -/
def putBits (x : BitVec 32) (lo w v : Nat) : BitVec 32 :=
  BitVec.ofNat 32 (x.toNat / 2 ^ (lo + w) * 2 ^ (lo + w) + (v % 2 ^ w) * 2 ^ lo + x.toNat % 2 ^ lo)

/-- Read a field. -/
def Regs.getF (m : Regs) (f : Field) (i : Nat := 0) (j : Nat := 0) : Nat := getBits (m.read (f.addr i j)) f.lo f.width

/-- Write a field as the hardware does, whatever its access code. -/
def Regs.setF (m : Regs) (f : Field) (v : Nat) (i : Nat := 0) (j : Nat := 0) : Regs :=
  m.write (f.addr i j) (putBits (m.read (f.addr i j)) f.lo f.width v)

/-- One field under a write of `w` to its register (Table 0.2): RW takes the bits, W1C clears and W1S sets where a 1 is written. -/
def writeField (w : BitVec 32) (v : BitVec 32) (f : Field) : BitVec 32 :=
  let new := getBits w f.lo f.width
  let old := getBits v f.lo f.width
  match f.acc with
  | .rw => putBits v f.lo f.width new
  | .w1c => putBits v f.lo f.width (old ^^^ (old &&& new))
  | .w1s => putBits v f.lo f.width (old ||| new)
  | _ => v

/-- A write to the register at an offset by the codes of Table 0.2; WO fields act through their own operations. -/
def Regs.swWrite (m : Regs) (off : Nat) (w : BitVec 32) : Regs :=
  m.write off ((fieldsAt off).foldl (writeField w) (m.read off))

/-- What a read returns: WO fields read 0 (Table 0.2). -/
def Regs.swRead (m : Regs) (off : Nat) : BitVec 32 :=
  (fieldsAt off).foldl (fun v f => if f.acc = .wo then putBits v f.lo f.width 0 else v) (m.read off)

/-- What a read leaves: RC fields clear (Table 0.2). -/
def Regs.afterRead (m : Regs) (off : Nat) : Regs :=
  if (fieldsAt off).any (fun f => f.acc = .rc) then
    m.write off ((fieldsAt off).foldl (fun v f => if f.acc = .rc then putBits v f.lo f.width 0 else v) (m.read off))
  else m

/-- Add one to a counter field, saturating at its largest value. -/
def Regs.incSat (m : Regs) (f : Field) (i : Nat := 0) (j : Nat := 0) : Regs :=
  let v := m.getF f i j
  m.setF f (if v + 1 ≥ 2 ^ f.width then 2 ^ f.width - 1 else v + 1) i j

/-- A 64-bit pair, by the fields of its halves. -/
def Regs.get64 (m : Regs) (lo hi : Field) (i : Nat := 0) (j : Nat := 0) : Nat := m.getF lo i j + 2 ^ 32 * m.getF hi i j

def Regs.set64 (m : Regs) (lo hi : Field) (v : Nat) (i : Nat := 0) (j : Nat := 0) : Regs :=
  (m.setF lo v i j).setF hi (v / 2 ^ 32) i j

/-- An event of a rank of Table 0.3 at the register of an offset: each field it does not keep through returns to its reset value (R8). -/
def resetWord (rank : Nat) (off : Nat) (v : BitVec 32) : BitVec 32 :=
  (fieldsAt off).foldl (fun v f => if f.kept ≤ rank then v else putBits v f.lo f.width (f.resetAt off)) v

/-- An event of a rank that reaches the offsets `p` (R8). Only listed registers can differ from their reset values. -/
def Regs.resetWhere (m : Regs) (rank : Nat) (p : Nat → Bool) : Regs :=
  m.foldl (fun acc e => if p e.1 then acc.write e.1 (resetWord rank e.1 e.2) else acc) m

end Sys2Proof.Machine
end

