-- ==== Sys2Proof/Machine/State.lean ====
section
/-! DEFINITION. The state of the block, as plain data: every piece of state the spec gives the LXP-1536, and the state after reset. -/

namespace Sys2Proof.Machine

/-- Why the block stops. No rule of the spec stops it: every command has an effect or leaves the state as it is, so no meaning answers
a fault. -/
inductive Fault where
  /-- Kept for a damaged queue; raised by nothing (safe: a stop never proves a false claim). -/
  | stopped
  deriving DecidableEq, Repr

/-- Why a command has no meaning in the model. -/
inductive Refusal where
  /-- The command is not modelled yet; raised by the dispatch's arms alone (safe: nothing can be proved of what it does). -/
  | notModelled (mnemonic : String)
  deriving DecidableEq, Repr

/-! What commands answer -/

/-- A flit (Table 12.2): SEQ, ACK, TYPE byte, CVC, CREDITS, payload and TAG as sent. -/
structure Flit where
  seq : Nat
  ack : Nat
  vc : Nat
  null : Bool
  nak : Bool
  cvc : Nat
  credits : Nat
  payload : List Byte
  tag : BitVec 128
  deriving DecidableEq, Repr

/-- Who waits for the answer of an access or request. -/
inductive Origin where
  /-- A cluster's load or atomic, by its number and part, or a store (none); the word's address and the slot. -/
  | cluster (c : Nat) (load : Option (Nat × Nat)) (pc slot : Nat)
  | hub (who : Requester)
  /-- A collective's pull or push: CID, peer rank, first line. -/
  | collective (cid rank line : Nat)
  /-- A write of the shadow log. -/
  | shadow
  /-- Nothing waits: an access an engine of the part makes for itself. -/
  | nobody
  /-- A request of another part served here. -/
  | served (p : Packet)
  /-- A cluster's DMA, by its number: the read of one of its lines, or a write (none). -/
  | dma (c id : Nat) (line : Option Nat)
  /-- A CXL.mem request of a host port for a line, and whether the host keeps a copy (R440). -/
  | cxlMem (p line : Nat) (keep : Bool)
  deriving DecidableEq, Repr

/-- What a requester receives. -/
inductive Answer where
  /-- Data of a read, with its poison mark (R342). -/
  | data (bytes : List Byte) (poison : Bool)
  /-- The value of a register read. -/
  | value (v : BitVec 64)
  /-- A write was performed or accepted. -/
  | done
  /-- The access waits at its point of order (R24, R53, R143, R346, R440). -/
  | held
  /-- Address error of R90: 1 space not permitted, 2 alignment, 3 offset out of range (Table 7.17). -/
  | addressError (detail : Nat)
  /-- The tenant boundary check of R239 failed. -/
  | tenantError
  /-- Unsupported Request, the form of both errors at a host port (R90, R239). -/
  | unsupported
  /-- The 4 µs access timeout (R412): a read returns ones, a write is discarded. -/
  | timeout
  /-- Refusals of an indexed reduction (R115). -/
  | retry | reduceBusy | reduceMismatch | reduceIndex | reduceDup
  /-- A code of Table 12.6 for a request to another part. -/
  | fabError (code : Nat)
  /-- A flit sent on a port, and a NAK with its ACK field (R312, R313). -/
  | flit (port : Nat) (f : Flit)
  | nak (port ack : Nat)
  /-- A memory request sent to a host: port, write, CXL.cache, No Snoop, requester ID, tag, address, data, poison (R438, R440). -/
  | tlp (port : Nat) (write cxl noSnoop : Bool) (function tag addr : Nat) (data : List Byte) (poison : Bool)
  /-- An MSI-X message (R431). -/
  | msix (port function vector : Nat)
  /-- A PLDM event to the event receiver (R431). -/
  | pldmEvent (receiver : Nat)
  /-- A back-invalidate to a host port (R440). -/
  | backInvalidate (port line : Nat)
  /-- A protocol message to the outside: SPDM, PLDM, MCTP, fabric or host-port answers, by number and content. -/
  | message (code : Nat) (body : List Byte)
  deriving DecidableEq, Repr

/-- An answer to a requester, or a message to the outside (none). -/
structure Reply where
  who : Option Requester
  answer : Answer
  deriving DecidableEq, Repr

/-! The image in force (02) -/

/-- A member of a constellation: a logical cluster or a constellation (R40). -/
inductive Member where
  | cluster (l : Nat)
  | con (k : Nat)
  deriving DecidableEq, Repr

structure ConRec where
  num : Nat
  members : List Member
  deriving DecidableEq, Repr

/-- A loop slot record (Table 11.1). -/
structure LoopRec where
  slot : Nat
  preempt : Bool
  tenant : Nat
  con : Nat
  tokBudget : Nat
  entry : Nat
  stage : Nat
  chunk : Nat
  deadline : Nat
  fill : Nat
  replayMax : Nat
  runMax : Nat
  deriving DecidableEq, Repr

/-- An interrupt routing entry (R428). -/
structure IrqRoute where
  source : Nat
  target : Nat
  prio : Nat
  function : Nat
  vector : Nat
  deriving DecidableEq, Repr

/-- The functions of one host port (R436). -/
structure PortFuncs where
  cxl : Bool
  hdm : Bool
  pfVec : Nat
  /-- Tenant and vector count of each virtual function, from 1 on. -/
  vfs : List (Nat × Nat)
  deriving DecidableEq, Repr

/-- A window of the meridian schedule template (R306). -/
structure Window where
  loop : Nat
  start : Nat
  stop : Nat
  deriving DecidableEq, Repr

structure Template where
  period : Nat
  epoch : Nat
  windows : List Window
  deriving DecidableEq, Repr

/-- A placement of firmware or programs (R49). -/
structure Placement where
  offset : Nat
  length : Nat
  entry : Nat
  deriving DecidableEq, Repr

/-- The hash of R95: the channel list and the selection table. -/
structure Hashing where
  chans : List Nat
  table : List Nat
  deriving DecidableEq, Repr

/-- The structure an image defines (Table 2.1). -/
structure Image where
  loaded : Bool
  tree : List ConRec
  /-- Physical cluster of each logical number, 0 to 143; empty before the first load. -/
  lmap : List Nat
  /-- Mode mask of each stack, 0 for a dark one. -/
  pmask : KMap Nat
  hash : Hashing
  /-- Tenant of each bound constellation (R48). -/
  binds : List (Nat × Nat)
  loops : List LoopRec
  routes : List IrqRoute
  /-- Static shares of domains 0 to 12 in watts, and caps of constellations (R399). -/
  shares : List Nat
  caps : List (Nat × Nat)
  limit : Nat
  template : Template
  /-- Role bits of each port: ENABLE, X4_ONLY, SLOW_ONLY (R311). -/
  roles : List Nat
  /-- Port masks of the 768 route entries (R317). -/
  fabRoutes : List Nat
  funcs : List PortFuncs
  firmware : Option Placement
  programs : Option Placement
  deriving DecidableEq, Repr

def Image.none : Image :=
  ⟨false, [], [], [], ⟨[], []⟩, [], [], [], [], [], 0, ⟨0, 0, []⟩, [], [], [], .none, .none⟩

/-- An access that waits at its point of order (R24, R53, R143, R346, R440). -/
structure Waiting where
  origin : Origin
  who : Requester
  addr : Nat
  kind : AccessKind
  deriving DecidableEq, Repr

/-- A granule in the loader's holding buffer (R53): its hashed granule number, bytes and poison marks of its four lines. -/
structure Granule where
  g : Nat
  bytes : List Byte
  poison : List Bool
  deriving DecidableEq, Repr

/-- The image load in progress (R50 to R53). IMG_STATUS.STATE holds its phase. -/
structure Load where
  /-- A load runs: accepted and not yet done or failed. -/
  running : Bool
  srcKind : Nat
  bytes : List Byte
  scope : Nat
  target : Nat
  gen : Nat
  /-- The structure the switch brings in. -/
  next : Image
  /-- Granules that stand at their new location (the migration map), and the holding buffer. -/
  moved : KSet
  hold : Option Granule
  /-- 4 KiB units written when prepare began or written since by anyone but the loader. -/
  units : KSet
  /-- The load ended before its switch and granules move back; the code it ends with. -/
  backing : Option Nat
  /-- The target stack's mode mask when prepare began (R53). -/
  mask : Nat
  /-- Spares that a retirement claimed during prepare (R55). -/
  claimed : List Nat
  /-- Constellations whose CON blocks appear at the end of the load (R25). -/
  appear : List Nat
  /-- The PLDM component whose apply result the load's end gives (R441). -/
  pldm : Option Nat
  deriving DecidableEq, Repr

def Load.idle : Load := ⟨false, 0, [], 0, 0, 0, .none, [], .none, [], .none, 0, [], [], none⟩

/-! Memory (04) -/

/-- A granule in a channel's background-fill queue: the 4 KiB unit and a mask of the lines already written (R100). -/
structure Fill where
  unit : Nat
  written : Nat
  deriving DecidableEq, Repr

/-- A write that the base die has accepted and not yet performed (R104, R110, R143). -/
structure PendingWrite where
  line : Nat
  low : Nat
  bytes : List Byte
  poison : Bool
  deriving DecidableEq, Repr

/-- A valid line of a shared-cache slice (R111): its hashed line number. -/
structure CacheLine where
  line : Nat
  dirty : Bool
  data : BitVec 512
  poison : Bool
  deriving DecidableEq, Repr

/-- One set of a slice: 16 ways and 15 node bits of tree pseudo-LRU (R111). -/
structure CacheSet where
  ways : List (Option CacheLine)
  nodes : Nat
  deriving DecidableEq, Repr

def CacheSet.empty : CacheSet := ⟨List.replicate 16 none, 0⟩

/-- A node of an indexed reduction: its size, line and poison. -/
structure RedNode where
  size : Nat
  data : BitVec 512
  poison : Bool
  deriving DecidableEq, Repr

/-- An open indexed reduction at a slice (R114, R115). -/
structure OpenReduction where
  slice : Nat
  addr : Nat
  format : RedFormat
  count : Nat
  accum : Bool
  completion : Option GAddr
  next : Nat
  stack : List RedNode
  parked : List (Nat × RedNode)
  deriving DecidableEq, Repr

/-- A host-held line in a port's snoop filter, oldest insertion first (R440). -/
structure Snoop where
  port : Nat
  line : Nat
  deriving DecidableEq, Repr

/-- The tenant boundary table (R239): tenants of 2 MiB units of the hashed space, of placed frames and of windows. -/
structure Boundary where
  units : KMap (Option Nat)
  frames : KMap (Option Nat)
  windows : KMap (Option Nat)
  deriving DecidableEq, Repr

/-- A running zero-fill (R102): base and length in map blocks and each stack's next granule in its order. -/
structure ZeroFill where
  base : Nat
  blocks : Nat
  cursor : KMap Nat
  deriving DecidableEq, Repr

/-- A region of the RAS table (R345). -/
structure Region where
  kind : Nat
  base : Nat
  len : Nat
  src : Nat
  deriving DecidableEq, Repr

structure Memory where
  /-- DRAM bytes, by stack × 2^37 + channel × 2^31 + channel-local address (Table 4.3). -/
  dram : List Host.Cell
  /-- Lines, by that address / 64, that hold stored poison (Table 13.2). -/
  poison : KSet
  /-- The written maps: 4 KiB units, by that address / 4096 (R99). In processor mode a unit is four rows of a bank (R128). -/
  written : KSet
  /-- Background-fill queues by part-wide channel (R100). -/
  fills : KMap (List Fill)
  /-- Writes accepted by the base die, by part-wide channel, oldest first. -/
  accepted : KMap (List PendingWrite)
  /-- Slices: (die × 16 + slice) × 6144 + set. -/
  sets : KMap CacheSet
  /-- Scratchpad bytes, by physical cluster × 2^22 + offset, and marks of 32-byte blocks. -/
  spad : List Host.Cell
  spadPoison : KSet
  reductions : List OpenReduction
  /-- Contributions refused with RETRY, to be resent (R115). -/
  retries : List Waiting
  waiting : List Waiting
  snoop : List Snoop
  bounds : Boundary
  zfill : Option ZeroFill
  /-- Hashed lines, by physical line, under restore (R346). -/
  restoring : KSet
  regions : KMap Region
  deriving DecidableEq, Repr

def Region.none : Region := ⟨0, 0, 0, 0⟩

def Memory.reset : Memory :=
  ⟨[], [], [], [], [], [], [], [], [], [], [], [], ⟨[], [], []⟩, .none, [], []⟩

/-! Stacks (05) -/

/-- A stack command (Tables 5.3, 5.5) on its way to a bank pair. `request` names the KV manager's request it belongs to. -/
structure StkCmd where
  issuer : Requester
  chan : Nat
  pc : Nat
  pair : Nat
  header : BitVec 512
  payload : List (BitVec 512)
  poison : Bool
  request : Option Nat
  /-- A row command of RSETUP kind that has started and keeps its entry (R125). -/
  started : Bool
  deriving DecidableEq, Repr

/-- A loaded query slot (R130). -/
structure QSlot where
  geom : Nat
  qattr : Nat
  scale : Nat
  tbase : Nat
  anc : Nat
  sattr : Nat
  oattr : Nat
  vector : List Byte
  poison : Bool
  deriving DecidableEq, Repr

/-- A partial record (m, l, o) of one query slot, in FP32 (R118). -/
structure Partial where
  slot : Nat
  m : Nat
  l : Nat
  o : List Nat
  flags : Nat
  poison : Bool
  deriving DecidableEq, Repr

/-- A block of partials over reduction indices start to start + size − 1 (R119). -/
structure Block where
  rid : Nat
  start : Nat
  size : Nat
  recs : List Partial
  /-- The ATTEND with the lowest index in the block: TAG, channel, pseudo-channel, pair (R149). -/
  tag : Nat
  site : Nat
  deriving DecidableEq, Repr

/-- A held entry of a unit: whether it is offered to the reducer and whether it has been refused; `since` is the bank cycle of its
first refusal for a RID that is not open (R119, R137). -/
structure Held where
  block : Block
  offered : Bool
  refused : Bool
  since : Option Nat
  deriving DecidableEq, Repr

/-- A bank-pair unit (Table 5.1). -/
structure BankUnit where
  slots : KMap (Option QSlot)
  scores : KMap (List Nat)
  held : List Held
  rowBuffer : List Byte
  deriving DecidableEq, Repr

def BankUnit.reset : BankUnit := ⟨[], [], [], []⟩

/-- A reduction open at the stack reducer (R135). -/
structure Reduction where
  cmd : StkCmd
  count : Nat
  qmask : Nat
  dim : Nat
  dest : Nat
  next : Nat
  stack : List Block
  parked : List Block
  failed : Option Nat
  deriving DecidableEq, Repr

/-- A completion delivered to the KV manager (R251, R264). -/
structure StkDone where
  request : Nat
  opcode : Nat
  tag : Nat
  status : Nat
  pmax : Nat
  psum : Nat
  poison : Bool
  deriving DecidableEq, Repr

structure Stack where
  /-- Commands that wait at their issuers (R126), in order of issue. -/
  waiting : List StkCmd
  /-- Commands in the channel queues, in order of arrival. -/
  queue : List StkCmd
  /-- Per channel: the issuer admitted last, and admissions since the KV manager's last (R126). -/
  lastIssuer : KMap Nat
  sinceKvm : KMap Nat
  units : KMap BankUnit
  rids : KMap (Option Reduction)
  /-- Cycles of each core die's last activations (R140). -/
  acts : KMap (List Nat)
  /-- Open row of each bank, plus one; bank = channel × 32 + pseudo-channel × 16 + bank. -/
  openRow : KMap Nat
  /-- Bank under refresh and the end of its refresh. -/
  refreshing : KMap Nat
  /-- tREFI in bank cycles in force, the one asked for and the bank cycle it was asked at (R105). -/
  trefi : Nat
  trefiNext : Nat
  trefiAt : Nat
  /-- Core dies in the 95 °C step, as a mask (R142). -/
  hot : Nat
  /-- Throttle level that applies from the next group (R144). -/
  throttleNext : Nat
  /-- Core dies that leave processor mode, and those that enter it, as masks (R145, R146). -/
  leaving : Nat
  entering : Nat
  /-- Core dies whose written map is being cleared (R145, R146). -/
  clearing : Nat
  deriving DecidableEq, Repr

def Stack.reset : Stack := ⟨[], [], [], [], [], [], [], [], [], 3120, 3120, 0, 0, 0, 0, 0, 0⟩

/-! Interrupts and host ports (17) -/

/-- A claim interface (R429). -/
inductive Context where
  | supervisor
  | management
  | vector (port function vec : Nat)
  deriving DecidableEq, Repr

/-- Routing in force of a source: PRIO, TARGET, FUNCTION, VECTOR (R428). -/
structure SrcCfg where
  prio : Nat
  target : Nat
  function : Nat
  vector : Nat
  deriving DecidableEq, Repr

/-- A source that no loaded section names (R428). -/
def SrcCfg.default : SrcCfg := ⟨1, 0, 0, 0⟩

structure Irq where
  cfg : KMap SrcCfg
  /-- Pending bits of edge sources; a level source's is its level while it is not in service (R427). -/
  pulsed : KSet
  /-- Sources in service, with the context that claimed each. -/
  inService : KMap (Option Context)
  /-- Contexts that had a claimable source at the last delivery (R431). -/
  active : List Context
  /-- MSI-X: functions enabled, functions masked, vectors unmasked, pending bits (R431); keys (port × 256 + function) × 2048 + vector. -/
  msixEnable : KSet
  msixFnMask : KSet
  msixUnmasked : KSet
  pba : KSet
  /-- The receiver SetEventReceiver named (R431). -/
  eventReceiver : Option Nat
  deriving DecidableEq, Repr

/-- A request in a host port's outbound queue or open at the host (R417, R438). -/
structure HostReq where
  tag : Nat
  origin : Origin
  who : Requester
  /-- Window offset and translated host address. -/
  offset : Nat
  hostAddr : Nat
  function : Nat
  noSnoop : Bool
  cxl : Bool
  kind : AccessKind
  /-- An MSI-X message of a function and vector in place of an access. -/
  msix : Option (Nat × Nat)
  deriving DecidableEq, Repr

structure HostPort where
  /-- Requests not yet sent, oldest first (R234, R417). -/
  outbound : List HostReq
  /-- Non-posted requests sent and not answered (R438). -/
  open_ : List HostReq
  nextTag : Nat
  /-- The link is in L2/L3 Ready (R389). -/
  l23 : Bool
  /-- The host's HDM decoder is committed (R440). -/
  committed : Bool
  /-- Cached outbound entries by index (R237). -/
  cache : KMap (Option Nat)
  /-- Functions whose configuration space has been set up by the host; lost by a reset (R439). -/
  configured : KSet
  /-- CXL.mem requests that wait for room in the snoop filter: hashed offset, access, and whether the host keeps a copy (R440). -/
  cxlWait : List (Nat × AccessKind × Bool)
  deriving DecidableEq, Repr

def HostPort.reset : HostPort := ⟨[], [], 0, false, false, [], [], []⟩

/-! Reliability and safety (13) -/

/-- An uncorrectable read that waits for the RAS block's reread (R346), or a page for repair (R347). -/
inductive Suspect where
  /-- Physical line and hashed offset. -/
  | line (phys off : Nat)
  /-- A processor-mode row, by physical address / 1024. -/
  | row (phys : Nat)
  deriving DecidableEq, Repr

structure Ras where
  suspects : List Suspect
  /-- Rows to be tested, by physical row number (R348). -/
  rowTests : List Nat
  /-- Corrected reads of a row: the meridian counts of distinct reads (R348). -/
  corrected : KMap (List Nat)
  /-- Spare rows left in each bank: stack × 2048 + channel × 32 + pseudo-channel × 16 + bank (R348). -/
  spareRows : KMap Nat
  /-- Rows kept in service with no spare left (R348). -/
  exhausted : KSet
  /-- The retirement record: clusters and bank-pair units (R354, R355), in boot flash. -/
  retiredClusters : KSet
  retiredUnits : KSet
  /-- Mismatch, tile-fail and unit-fail times for the "within 1 s" rules (R354, R355, R358). -/
  mismatchAt : KMap (Option Nat)
  /-- With the step whose tile failed (none outside serving). -/
  tileFailAt : KMap (Option (Nat × Option (Nat × Nat)))
  unitFailAt : KMap (Option Nat)
  /-- A running scrub: next line. -/
  scrub : Option Nat
  /-- Clusters that R354 has the RAS block retire. -/
  condemned : KSet
  /-- Bank-pair units that R355 has it retire: stack × 1024 + unit. -/
  condemnedUnits : KSet
  /-- Rows that the last scrub sent to testing (R350). -/
  scrubRows : KSet
  /-- Logical clusters that move: number, old and new physical cluster (R354, R366). -/
  moves : List (Nat × Nat × Nat)
  deriving DecidableEq, Repr

def Ras.reset : Ras := ⟨[], [], [], [], [], [], [], [], [], [], .none, [], [], [], []⟩

/-- An MMIO access that is held (R24, R358). -/
structure HeldMmio where
  who : Requester
  off : Nat
  write : Bool
  wide : Bool
  value : BitVec 64
  deriving DecidableEq, Repr

structure Saf where
  /-- Clusters, units (stack × 1024 + unit) in eclipse (R360). -/
  clusters : KSet
  units : KSet
  /-- The held store buffer of Castor and Pollux (R357). -/
  stores : List SupStore
  /-- The last checkpoint's core state, as a number of the checkpoint (the register contents are the firmware's). -/
  checkpoint : Nat
  /-- A recovery runs under R358; its start and the instruction address of the disagreement. -/
  recovering : Option Nat
  lastMismatch : Option (Nat × Nat)
  /-- Security eclipse of level 3, which only a power-on reset ends (R360). -/
  alarm : Bool
  /-- MMIO writes to hub control blocks held by device eclipse (R358). -/
  heldMmio : List HeldMmio
  /-- Die recovery: last heartbeat received and the time of loss (R359). -/
  heartbeat : KMap Nat
  lostAt : KMap (Option Nat)
  deriving DecidableEq, Repr

def Saf.reset : Saf := ⟨[], [], [], 0, .none, .none, false, [], [], []⟩

/-! Clusters (06, 07, 08) -/

/-- A launch in a launch queue or running (Table 7.5, R41, R185). -/
structure Launch where
  entry : Nat
  arg : Nat
  ltag : Nat
  icinv : Bool
  /-- The completion count, when FLAGS.CPL is set. -/
  cpl : Option Nat
  /-- The constellation it was launched through, with the number of the launch there; none for the cluster itself. -/
  con : Option (Nat × Nat)
  index : Nat
  count : Nat
  /-- s58: the tenant, or 0xFFFF for a free cluster. -/
  tenant : Nat
  /-- The serving step that launched it: loop and step number (s59). -/
  step : Option (Nat × Nat)
  /-- The cluster and handle whose LAUNCH entered it (Table 7.9). -/
  via : Option (Nat × Nat)
  deriving DecidableEq, Repr

/-- A launch from the Q slot held at its queue (R206): target block offset, descriptor address, handle, word address. -/
structure HeldLaunch where
  target : Nat
  addr : GAddr
  h : Nat
  pc : Nat
  deriving DecidableEq, Repr

/-- A launch that has ended and whose completion is not yet counted (R185): its number on the cluster, and whether a fault ended it. -/
structure Ending where
  no : Nat
  launch : Launch
  failed : Bool
  deriving DecidableEq, Repr

/-- A queue handle (R187): kind, target, entries issued and not completed. -/
structure Handle where
  kind : Nat
  target : Nat
  deriving DecidableEq, Repr

/-- A register that a load writes. -/
inductive RegRef where
  | s (n : Nat)
  | v (n : Nat)
  /-- A 32-byte piece of a vector register. -/
  | vPiece (n piece : Nat)
  | p (n : Nat)
  deriving DecidableEq, Repr

/-- A load or atomic that has issued and whose register is not yet written (R177, R225). -/
structure PendLoad where
  id : Nat
  dst : RegRef
  addr : Nat
  bytes : Nat
  /-- Data that have come, with poison, in 64-byte parts by number; complete when every part is there. -/
  parts : KMap (Option (List Byte × Bool))
  pc : Nat
  /-- An operand that the operation read carried poison (R178). -/
  poison : Bool
  deriving DecidableEq, Repr

/-- A DMA descriptor in the queue (Table 7.12, R194). -/
structure Dma where
  id : Nat
  src : Nat
  dst : Nat
  len : Nat
  cpl : Nat
  h : Nat
  pc : Nat
  /-- Its lines have been read; one of its accesses failed. -/
  moved : Bool
  failed : Bool
  deriving DecidableEq, Repr

/-- A drain layout descriptor (Table 8.5). -/
structure DrainLayout where
  cdim : Bool
  scatter : Bool
  strides : List Nat
  slist : Nat
  scount : Nat
  deriving DecidableEq, Repr

/-- A sub-problem entry of a tile descriptor (Table 7.11). -/
structure SubTile where
  aword : Nat
  bword : Nat
  rword : Nat
  k : Nat
  row0 : Nat
  col0 : Nat
  dest : Nat
  csrc : Nat
  deriving DecidableEq, Repr

/-- A tile (Table 6.1). -/
structure Tile where
  bank : Nat
  pack : Nat
  drain : Nat
  cont : Bool
  thin : Bool
  tag : Nat
  seed : Nat
  ttag : Nat
  width : Nat
  layout : DrainLayout
  subs : List SubTile
  /-- Drain handle, number of the launch on the cluster, and address of the word that issued it. -/
  h : Nat
  launch : Nat
  pc : Nat
  deriving DecidableEq, Repr

/-- A feed descriptor (Table 8.2). -/
structure FeedDesc where
  base : Nat
  sfmt : Nat
  sbscale : Nat
  dfmt : Nat
  trans : Bool
  sat : Bool
  gather : Bool
  side : Bool
  vcnt : Nat
  sizes : List Nat
  strides : List Nat
  scale : Nat
  glist : Nat
  h : Nat
  pc : Nat
  deriving DecidableEq, Repr

/-- A skid slot: an operand line of which halves have arrived (R162). Lines are named by global address / 64. -/
structure Skid where
  line : Nat
  data : BitVec 512
  poison : Bool
  lo : Bool
  hi : Bool
  /-- Released under R163. -/
  lost : Bool
  deriving DecidableEq, Repr

/-- A feed stream: its descriptors in order, the edge vectors of the first that tiles have taken, the lines in the feed queue, and the
lines of the traversal's present pass released to the edge, with their poison; those released under R163 are in `lost`. -/
structure Feeder where
  descs : List FeedDesc
  taken : Nat
  skid : List Skid
  lines : KMap (Option (BitVec 512 × Bool))
  lost : KSet
  deriving DecidableEq, Repr

def Feeder.reset : Feeder := ⟨[], 0, [], [], []⟩

/-- One accumulator (R69, R75, R158). -/
inductive Cell where
  | exact (a : Acc)
  | single (s : Sum32)
  | triple (hh hl lh : Sum32)
  deriving DecidableEq, Repr

/-- Where a tile stands on its way through the array. -/
inductive TilePhase where
  | preloading | ready | streaming | tail | complete | draining | drained
  deriving DecidableEq, Repr

/-- What a sub-problem's drain found: its flags, poison, and whether its checks are for equality (R167, R170). -/
structure SubResult where
  flags : BitVec 8
  poison : Bool
  exact : Bool
  deriving DecidableEq, Repr

/-- A tile in its bank. Cell key: sub-problem × 65536 + row × 256 + column. -/
structure TileRun where
  tile : Tile
  phase : TilePhase
  /-- Reduction steps that have entered. -/
  step : Nat
  /-- Cells that differ from the empty accumulator of the tile's class, and those preloaded with poison. -/
  cells : KMap Cell
  badCell : KSet
  /-- Conversion flags and poison of operand rows and columns: sub-problem × 512 + row, or + 256 + column. -/
  flags : KMap (BitVec 8)
  badEdge : KSet
  /-- Sub-problems that took a line released under R163. -/
  lost : KSet
  /-- Quarter core cycles since admission. -/
  time4 : Nat
  /-- The edge vectors taken, for a recompute (R168): sub-problem, descriptor, vector number. -/
  srcA : List (Nat × FeedDesc × Nat)
  srcB : List (Nat × FeedDesc × Nat)
  /-- Found at drain; sub-problems whose status word has been delivered. -/
  results : List SubResult
  reported : Nat
  deriving DecidableEq, Repr

/-- A fault that a remote unit reported (R205). -/
structure Deferred where
  cause : Nat
  slot : Nat
  detail : Nat
  pc : Nat
  deriving DecidableEq, Repr

structure Cluster where
  pc : Nat
  running : Option Launch
  /-- Its number, and the launches that have ended and still await their last drain (R185). -/
  launchNo : Nat
  ending : List Ending
  /-- The last launch ended at HALT (DONE of Table 7.7). -/
  lastHalt : Bool
  sregs : KMap (BitVec 64)
  vregs : KMap (BitVec 2048)
  pregs : KMap (BitVec 64)
  spoison : KSet
  vpoison : KSet
  ppoison : KSet
  merShadow : BitVec 32
  handles : KMap Handle
  loads : List PendLoad
  nextId : Nat
  queue : List Launch
  heldLaunches : List HeldLaunch
  dma : List Dma
  /-- Stack commands sent and not completed, by TAG, channel and handle (R189). -/
  scmds : List (Nat × Nat × Nat)
  /-- The tile section, oldest first; tiles preloaded or admitted, those complete in the order they completed. -/
  tiles : List Tile
  runs : List TileRun
  /-- Feed A (0), feed B (1), and the thin path's A (2) and B (3) streams. -/
  feeders : KMap Feeder
  drainQ : List (BitVec 64)
  /-- Instruction cache: per set, up to four words, the oldest fill first. -/
  icache : KMap (List (Nat × BitVec 512))
  deferred : List Deferred
  /-- Quarter core cycles of the gap in progress, and those not yet counted in CLU_ARR_DUMMY (R164, R175). -/
  gap : Nat
  dummy4 : Nat
  /-- The core issues no word (pre-emption R185, eclipse R360, self-test R366); the tile boundary has been reached (R173). -/
  stopped : Bool
  boundary : Bool
  deriving DecidableEq, Repr

/-- Default bindings of Table 7.8. -/
def handleReset (q : Nat) : Handle := ⟨if q < 5 then q + 1 else 0, 0⟩

def Cluster.reset : Cluster :=
  ⟨0, none, 0, [], false, [], [], [], [], [], [], 0#32, [], [], 0, [], [], [], [], [], [], [], [], [], [], 0, 0, false, false⟩

/-- A launch through a constellation that has not ended on every leaf (R43, R185). -/
structure ConRun where
  id : Nat
  con : Nat
  leaves : Nat
  remaining : Nat
  cpl : Option Nat
  failed : Bool
  via : Option (Nat × Nat)
  deriving DecidableEq, Repr

/-! The KV manager (10) -/

/-- The tag of an attention request: loop and step number of the launch that entered it (R286). -/
abbrev StepTag := Option (Nat × Nat)

/-- A request in the queue, or held while the queue is full (R249). -/
structure AttEntry where
  who : Requester
  addr : Nat
  tag : StepTag
  deriving DecidableEq, Repr

/-- A command the KV manager has still to issue for a request (R251). -/
inductive KvTodo where
  /-- Append token n of the request into a page at a unit and base row. -/
  | append (n unit baseRow slot : Nat)
  | setup (span stack : Nat)
  | load (k unit : Nat)
  /-- Page, its unit, base row, VALID and TOK0, and whether it is the last of its span at the unit. -/
  | attend (page unit baseRow valid tok0 : Nat) (last : Bool)
  deriving DecidableEq, Repr

/-- An accepted request (Table 10.4) on its way. -/
structure AttRun where
  id : Nat
  tag : StepTag
  seq : Nat
  layer : Nat
  head : Nat
  qn : Nat
  mode : Nat
  check : Bool
  score : Bool
  /-- Addresses of the payloads to append, and the query records with their poison. -/
  srcs : List Nat
  queries : List (List Byte × Bool)
  dest : Nat
  /-- The completion count; none for a fix-up of the sequencer. -/
  cpl : Option Nat
  tenant : Nat
  geom : Nat
  /-- Length before the appends, and with them. -/
  lc : Nat
  v : Nat
  /-- Pages lie in hashed space (R263). -/
  hkv : Bool
  todo : List KvTodo
  /-- Appends and reductions issued or to be issued, and not completed. -/
  open_ : Nat
  /-- RID and stack of each span's open reduction, and the query slots taken (R251). -/
  rids : KMap (Option (Nat × Nat))
  slots : List Nat
  /-- PMAX and PSUM of each page, for the score update (R264). -/
  stats : KMap (Option (Nat × Nat))
  bad : Bool
  poison : Bool
  deriving DecidableEq, Repr

/-- Where the payloads of a tree's nodes lie, for the fix-up (R259): step, sequence, layer, head, KVADDR. -/
structure TreeSrc where
  tag : StepTag
  seq : Nat
  layer : Nat
  head : Nat
  addr : Nat
  deriving DecidableEq, Repr

/-- A cached line of a page table (R247): its sequence and tenant, its hashed line number, and its content. -/
structure CachedLine where
  seq : Nat
  tenant : Nat
  line : Nat
  data : BitVec 512
  deriving DecidableEq, Repr

/-- A formatted bank pair: geometry, reference count of each frame, frames that wait for zeroing (R242, R244, R272). -/
structure Pair where
  geom : Nat
  refs : KMap Nat
  zeroing : KSet
  deriving DecidableEq, Repr

/-- A page of a sequence. -/
structure PageId where
  layer : Nat
  head : Nat
  page : Nat
  deriving DecidableEq, Repr

/-- A swap-out or swap-in in progress or waiting (R269, R271). -/
structure SwapJob where
  seq : Nat
  /-- Stack whose pages go first; none for a quota reduction. -/
  stack : Option Nat
  pages : List PageId
  total : Nat
  deriving DecidableEq, Repr

/-- A prefix record (R272, R300): the leaf entries of its pages in order of layer, head and page. -/
structure Prefix where
  tenant : Nat
  serial : Nat
  lp : Nat
  geom : Nat
  layers : Nat
  heads : Nat
  hkv : Bool
  entries : List Nat
  deriving DecidableEq, Repr

/-- A staged score or AGE update (R264). -/
structure Staged where
  tag : StepTag
  seq : Nat
  page : PageId
  score : Option Nat
  deriving DecidableEq, Repr

/-- A reserved frame (R284). -/
structure Reserved where
  loop : Nat
  step : Nat
  seq : Nat
  page : PageId
  stack : Nat
  deriving DecidableEq, Repr

structure Kvm where
  queue : List AttEntry
  held : List AttEntry
  runs : List AttRun
  nextId : Nat
  pairs : KMap (Option Pair)
  /-- Next pair in each stack's round-robin (R248). -/
  rr : KMap Nat
  reserved : List Reserved
  parked : List Nat
  swaps : List SwapJob
  swapOut : Option SwapJob
  swapIn : List SwapJob
  /-- Allocated stretches of each tenant's swap region, in KiB, and of its hashed pool, in 4 KiB units: tenant, offset, length. -/
  swapUsed : List (Nat × Nat × Nat)
  poolUsed : List (Nat × Nat × Nat)
  /-- Reference counts of hashed-pool pages shared by a prefix, by first unit's hashed offset. -/
  poolRefs : KMap Nat
  prefixes : KMap (Option Prefix)
  serial : Nat
  staged : List Staged
  done : List StkDone
  /-- Frames of each tenant (SEQ_THELD), shared frames once. -/
  frames : KMap Nat
  /-- The walk cache and the page-walk caches of the stacks, oldest first (R247). -/
  walk : List CachedLine
  leafCache : KMap (List CachedLine)
  /-- A table invalidation in progress: kind and key (R238). -/
  tinv : Option (Nat × Nat)
  trees : List TreeSrc
  deriving DecidableEq, Repr

def Kvm.reset : Kvm :=
  ⟨[], [], [], 0, [], [], [], [], [], none, [], [], [], [], [], 0, [], [], [], [], [], none, []⟩

/-! The serving sequencer (11) -/

/-- A step record entry (Table 11.7). -/
structure StepEntry where
  seq : Nat
  kind : Nat
  nodes : Nat
  pos : Nat
  ntok : Nat
  src : Nat
  res : Nat
  deriving DecidableEq, Repr

/-- An output ring entry (Table 11.10). -/
structure RingEntry where
  seq : Nat
  token : Nat
  step : Nat
  flags : Nat
  text : List Byte
  deriving DecidableEq, Repr

/-- What the sampler staged for one sequence of a step (R288, R290). -/
structure Sampled where
  seq : Nat
  tokens : List Nat
  /-- Nodes of the accepted path of a tree, in depth order. -/
  path : List Nat
  newLc : Nat
  next : Nat
  endReason : Nat
  poison : Bool
  deriving DecidableEq, Repr

inductive StepPhase where
  | admission | run | sample | commit | fixup | discard
  deriving DecidableEq, Repr

structure Step where
  num : Nat
  phase : StepPhase
  entries : List StepEntry
  tokens : Nat
  start : Nat
  /-- Runs discarded, whether it has been failed, and sequences that left the batch (R289). -/
  runs : Nat
  failed : Bool
  left : List Nat
  outcomes : List Sampled
  /-- Fix-up requests not yet completed (R289). -/
  fixups : Nat
  /-- A launch on the constellation is under way; its number there. -/
  launch : Option Nat
  deriving DecidableEq, Repr

/-- A one-shot window (R307): F and STOP. -/
structure OneShot where
  from_ : Nat
  stop : Nat
  deriving DecidableEq, Repr

structure Loop where
  lastStep : Nat
  steps : List Step
  /-- Consecutive admissions since it took its clusters (R303), and whether it holds them. -/
  ran : Nat
  holds : Bool
  stopped : Bool
  /-- Sequences in the order their NEW or TURN was applied (R283). -/
  prefill : List Nat
  notices : List RingEntry
  releases : List Nat
  oneShot : Option OneShot
  /-- Meridian count at which the oldest waiting sequence became admissible (R283). -/
  waiting : Option Nat
  /-- A committed step whose SEQ_STEP and interrupt wait for the shadow log's TAIL (R291). -/
  due : Option Nat
  /-- Host ports whose outbound queues hold that step's ring writes (R417). -/
  ports : List Nat
  /-- Its context lies in its save area. -/
  saved : Bool
  /-- A load has stopped scheduling it (R52). -/
  barred : Bool
  deriving DecidableEq, Repr

def Loop.reset : Loop := ⟨0, [], 0, false, false, [], [], [], none, none, none, [], false, false⟩

structure Seq where
  loops : KMap Loop
  /-- Tokens admitted of each tenant in the present ms, and its share in force (R302). -/
  tokUsed : KMap Nat
  tokShare : KMap Nat
  /-- Saved contexts: loop × 256 + leaf (R304); NIGHT saves: 2^20 + physical cluster (R384). -/
  contexts : KMap (Option Cluster)
  /-- A context save in progress: leaves to save, bytes saved, bytes in all. -/
  saving : List (Nat × Nat)
  saveTotal : Nat
  conRuns : List ConRun
  nextRun : Nat
  /-- Constellations whose last launch ended at HALT on every leaf (R43). -/
  conDone : KSet
  deriving DecidableEq, Repr

def Seq.reset : Seq := ⟨[], [], [], [], [], 0, [], 0, []⟩

/-! The fabric (12) -/

/-- A request to another part, sent and not answered, or held before it is sent (R319, R322, R323). -/
structure FabReq where
  packet : Packet
  origin : Origin
  /-- Port that carried it; none while it is held under R319. -/
  port : Option Nat
  deriving DecidableEq, Repr

/-- A kept answer of an ATOMIC or RED (R322). -/
structure KeptAnswer where
  src : Nat
  tag : Nat
  answer : Packet
  deriving DecidableEq, Repr

structure Port where
  /-- Next sequence number to send, last accepted from the peer, last acknowledged by it (R312, R313). -/
  txSeq : Nat
  rxSeq : Nat
  acked : Nat
  /-- Flits sent and not acknowledged, oldest first: the replay buffer of 1,024; and their payloads before encryption. -/
  replay : List Flit
  clear : List (List Byte)
  /-- Rejections of the flit now due, and whether later flits are being discarded (R313, R314). -/
  rejects : Nat
  discarding : Bool
  /-- Send credits by virtual channel, and receive-buffer flits freed and not yet returned (R312). -/
  credits : KMap Nat
  freed : KMap Nat
  /-- Keys and salts of both directions, by their number, none before a session or after zeroisation; original transmissions. -/
  key : Option Nat
  sent : Nat
  received : Nat
  /-- Times of recent retrains and tag failures, in ns (R314, R315). -/
  retrains : List Nat
  authFails : List Nat
  deriving DecidableEq, Repr

/-- Each end grants 256 flits per virtual channel (R312). -/
def creditReset (_ : Nat) : Nat := 256

def Port.reset : Port := ⟨0, 0xFFFF, 0xFFFF, [], [], 0, false, [], [], none, 0, 0, [], []⟩

/-- An accepted collective descriptor (Table 12.8) on its way at this rank. -/
structure Collective where
  op : Nat
  fmt : Nat
  nrank : Nat
  rank : Nat
  root : Nat
  group : Nat
  src : Nat
  dst : Nat
  lines : Nat
  cid : Nat
  work : Nat
  cpl : Nat
  who : Requester
  /-- Lines of each rank's input pulled for the chunk this rank owns: rank × 2^32 + line, data. -/
  pulled : KMap (Option (BitVec 512 × Bool))
  /-- Lines this rank has written or received into DST, and pushes not yet acknowledged. -/
  got : KSet
  pushes : Nat
  started : Bool
  failed : Bool
  deriving DecidableEq, Repr

/-- A COLL_PULL or COLL_PUSH that waits for this rank's descriptor (R328). -/
structure WaitingColl where
  packet : Packet
  deriving DecidableEq, Repr

structure Fab where
  ports : KMap Port
  requests : List FabReq
  nextTag : KMap Nat
  kept : List KeptAnswer
  /-- Flit payloads that wait for a credit: port, virtual channel, bytes; oldest first. -/
  out : List (Nat × Nat × List Byte)
  collQueue : List (Requester × Nat)
  collHeld : List (Requester × Nat)
  colls : List Collective
  collWaiting : List WaitingColl
  /-- Shadow log: TAIL, records waiting for room, sequences created since the restart (R333, R334). -/
  shadowTail : Nat
  shadowHead : Nat
  shadowPending : List (List Byte)
  shadowSeqs : KSet
  shadowing : Bool
  /-- Meridian exchanges: offsets that await their average, successive good averages, parent's hops (R330). -/
  merOffsets : List Int
  merGood : Nat
  merHops : Nat
  /-- The rate correction in ppm that slews the count, and whether MER_10M is absent (R330, R455). -/
  merSlew : Int
  no10m : Bool
  /-- When the last MER_PPS edge was accepted, in ns, and whether edges have been missed since (R455, R338). -/
  pps : Option Nat
  ppsLost : Bool
  deriving DecidableEq, Repr

def Fab.reset : Fab := ⟨[], [], [], [], [], [], [], [], [], 0, 0, [], [], false, [], 0, 0, 0, false, none, false⟩

/-! Self-test and security (14) -/

/-- A running self-test (R364): a cluster, a unit of a stack, or a directed test. -/
inductive TestKind where
  | cluster (c : Nat)
  | unit (stack unit : Nat)
  | directed (kind target : Nat)
  deriving DecidableEq, Repr

structure Test where
  kind : TestKind
  /-- A repeat after a first mismatch (R368). -/
  second : Bool
  /-- Constellations that contained a cluster when it was swapped out (R341, R368). -/
  cons : List Nat
  /-- Query slots saved in base-die storage (R367). -/
  slots : KMap (Option QSlot)
  deriving DecidableEq, Repr

structure Bst where
  tests : List Test
  /-- Next cluster of each die and next unit of each stack in rotation. -/
  nextCluster : KMap Nat
  nextUnit : KMap Nat
  /-- Tests refused and to be retried (R365). -/
  refused : List TestKind
  /-- When each cluster and unit was last tested, in ns; unit key 2^10 × (stack + 1) + unit. -/
  testedAt : KMap Nat
  /-- Loops whose admission waits on a test in place (R366). -/
  inPlace : List Nat
  /-- When the boot sequence last tested every domain, in ns. -/
  bootAt : Nat
  deriving DecidableEq, Repr

def Bst.reset : Bst := ⟨[], [], [], [], [], [], 0⟩

/-- An SPDM session (R374). -/
structure Session where
  id : Nat
  /-- Established by FINISH. -/
  live : Bool
  /-- The hash of the requester's certificate chain, when it presented one. -/
  owner : Option (BitVec 384)
  /-- Generation of its keys, raised by KEY_UPDATE. -/
  keyGen : Nat
  tenant : Option Nat
  deriving DecidableEq, Repr

structure Sec where
  /-- Swap keys by tenant (R375). -/
  keys : KMap (Option (BitVec 512))
  sessions : List Session
  /-- SPDM negotiation: version asked for, algorithms selected. -/
  negotiated : Nat
  nextSession : Nat
  /-- Private keys and secrets present: UDS readable, UDS destroyed, CDI0, CDI1, DeviceID, Alias, DRBG state. -/
  udsLocked : Bool
  udsDestroyed : Bool
  secrets : Bool
  certificate : Bool
  drbg : Nat
  /-- Authentication failures (R376): time in ns and the tenant of the failing session, when one is named. -/
  authFails : List (Nat × Option Nat)
  /-- Sequences that a level-2 alarm ends at their tenant's next commit (R378). -/
  ending : KSet
  /-- Fuse state: last token count, floor rows used. -/
  lastCount : Nat
  floorRows : Nat
  /-- The life-cycle state in fuses, and FIELD-DEBUG in force (R370). -/
  lcs : Nat
  fieldDebug : Bool
  /-- ALARM_N is asserted until power-on (R377). -/
  alarmLatched : Bool
  deriving DecidableEq, Repr

def Sec.reset : Sec :=
  ⟨[], [], 0, 1, false, false, false, true, 0, [], [], 0, 0, 2, false, false⟩

/-! Power and temperature (15) -/

/-- A request of the request queue (R383). -/
structure PwrReq where
  who : Requester
  state : Nat
  save : Bool
  kind : Nat
  index : Nat
  deriving DecidableEq, Repr

/-- The request being applied: the domains it names that have not reached the state, by kind and index. -/
structure PwrRun where
  req : PwrReq
  /-- The save area in force when it was taken from the queue. -/
  addr : Nat
  doms : List (Nat × Nat)
  /-- Domains past their point of no return, with the meridian count there (R385, R392). -/
  past : List (Nat × Nat × Nat)
  /-- CLU_PWR.STATE of each cluster before the entry. -/
  was : KMap Nat
  deriving DecidableEq, Repr

/-- The AVSBus state of a rail, in mV (R393, R394). -/
structure Avs where
  /-- The setpoint in force and the one asked for. -/
  inForce : Nat
  asked : Nat
  pending : Bool
  /-- How often the pending request has been written. -/
  writes : Nat
  suspended : Bool
  /-- When the last request was made, in ns. -/
  lastAt : Option Nat
  deriving DecidableEq, Repr

/-- Comparison of a die's diode with its ring oscillators (R401). -/
structure Sensor where
  /-- Since when every sample has differed by more than 3 °C; since when none has; whether the last differed by more than 8 °C. -/
  apart : Option Nat
  close : Option Nat
  wide : Bool
  deriving DecidableEq, Repr

def Sensor.reset : Sensor := ⟨none, none, false⟩

structure Pwr where
  queue : List PwrReq
  run : Option PwrRun
  /-- Stacks in REST and ports in SLEEP; what is waking: stacks, ports (12 + p), clusters (1000 + c), the part (999). -/
  rest : KSet
  sleep : KSet
  waking : KSet
  standby : Bool
  /-- Clusters that wait to start waking or gating at window boundaries (R387). -/
  toWake : List Nat
  toGate : List Nat
  /-- Domain that a partition or cluster reset woke first (R419): clusters to reset once awake. -/
  resetOnWake : KSet
  /-- PWR_CON_SHARE of each constellation, as its register word (R398). -/
  share : KMap (BitVec 32)
  /-- Estimate, level and windows left without history of each constellation. -/
  conDraw : KMap Nat
  conLevel : KMap Nat
  conHist : KMap Nat
  /-- Estimates of domains 10 to 12 over the last four windows, newest first. -/
  reserve : KMap (List Nat)
  /-- Correction of each coefficient set, as a fraction, by rail (R395); 4 is VDDQ_STK. -/
  scaleNum : KMap Nat
  scaleDen : KMap Nat
  /-- Estimates of the last window by domain, in mW. -/
  est : KMap Nat
  /-- The limit in force and whether a write waits for the next window. -/
  limit : Nat
  limitPending : Bool
  histLeft : Nat
  avs : KMap Avs
  /-- Trace records by index, and the clusters' FIFOs (R391). -/
  trace : KMap (BitVec 128)
  fifo : KMap (List (BitVec 128))
  sensors : KMap Sensor
  /-- Core-die readouts of each stack as replaced under R402: stack × 16 + die; and governing estimates by die. -/
  readout : KMap Int
  governs : KMap Int
  deriving DecidableEq, Repr

/-- Nominal voltage of VDD_A, VDD_B, VDD_HUB, VDD_SER in mV (R446). -/
def nominalMv (r : Nat) : Nat := if r < 2 then 750 else if r = 2 then 800 else 850

def Avs.reset (r : Nat) : Avs := ⟨nominalMv r, nominalMv r, false, 0, false, none⟩

def Pwr.reset : Pwr :=
  ⟨[], none, [], [], [], false, [], [], [], [], [], [], [], [], [], [], [], 2000, false, 16, [], [], [], [], [], []⟩

/-! Clocks, resets and start-up (16) -/

/-- One reference (R408): streaks of successive windows, the state they give (0 good, 1 warn, 2 off), and absence (R407). -/
structure RefTrack where
  warn : Nat
  off : Nat
  good : Nat
  state : Nat
  absent : Bool
  deriving DecidableEq, Repr

/-- The stored training parameters (R423): whether their CRC passes, the serials they name and each stack's diode reading. -/
structure TrainParams where
  crcOk : Bool
  serial : Nat
  stackSerials : List Nat
  diodes : List Int
  deriving DecidableEq, Repr

structure Ckr where
  trackA : RefTrack
  trackB : RefTrack
  /-- Fabric ports that a port reset is training again (R418). -/
  portResets : KSet
  /-- The boot sequence runs: the part is held or not yet serving-ready. -/
  booting : Bool
  /-- The stored parameters, and whether a row has been repaired since they were written. -/
  params : Option TrainParams
  repaired : Bool
  /-- DRAM serials of the stacks, as last trained (R423). -/
  stackSerials : List Nat
  /-- BOOTSRC as sampled at the rise of PORST_N (R452). -/
  bootSrc : Nat
  /-- Time of the last reset, in ns. -/
  startedAt : Nat
  /-- First-stage firmware that a PLDM update wrote to boot flash (R441). -/
  flashed : Option Firmware
  deriving DecidableEq, Repr

def RefTrack.reset : RefTrack := ⟨0, 0, 0, 0, false⟩

def Ckr.reset : Ckr := ⟨.reset, .reset, [], true, none, false, [], 0, 0, none⟩

/-! The state of the block -/

structure State where
  /-- Commands that wait, first in, first out. -/
  pending : List Instr
  /-- The MMIO registers, by offset; a register at its reset value is not listed. Registers whose fields only report other state are
  computed when they are read and are not kept here. -/
  regs : Regs
  /-- Shadows of the _HI halves (R4), by offset of the _LO half. -/
  shadow : KMap (BitVec 32)
  /-- What the last command answered. -/
  out : List Reply
  /-- The model's own counter of free values (log 9). -/
  fresh : Nat
  /-- Nanoseconds since the first reset, and the meridian count (R308). -/
  ns : Nat
  mer : Nat
  img : Image
  load : Load
  mem : Memory
  stk : KMap Stack
  clu : KMap Cluster
  kvm : Kvm
  seq : Seq
  fab : Fab
  ras : Ras
  saf : Saf
  bst : Bst
  sec : Sec
  pwr : Pwr
  ckr : Ckr
  irq : Irq
  hpt : KMap HostPort
  /-- MMIO accesses held at alias blocks (R24). -/
  held : List HeldMmio
  /-- A hash lookup is in progress: its offset, and the readers held for its result, with a 64-bit read's mark (R97). -/
  probe : Option Nat
  probeHeld : List (Requester × Bool)
  /-- FAULT_N and ALARM_N are asserted (R454). -/
  faultN : Bool
  alarmN : Bool
  deriving DecidableEq, Repr

def Irq.reset : Irq := ⟨[], [], [], [], [], [], [], [], none⟩

/-- The block right after reset: every register at its reset value (fuse-backed fields: log 6), nothing loaded, nothing running (log 5). -/
def State.reset : State where
  pending := []
  regs := []
  shadow := []
  out := []
  fresh := 0
  ns := 0
  mer := 0
  img := .none
  load := .idle
  mem := .reset
  stk := []
  clu := []
  kvm := .reset
  seq := .reset
  fab := .reset
  ras := .reset
  saf := .reset
  bst := .reset
  sec := .reset
  pwr := .reset
  ckr := .reset
  irq := .reset
  hpt := []
  held := []
  probe := none
  probeHeld := []
  faultN := false
  alarmN := false

end Sys2Proof.Machine
end

