-- ==== Sys2Proof/Machine/Ops.lean ====
section
/-! DEFINITION. The named operations over the state that every family shares: answers, registers, requesters and their rights, the
structure of the image in force, free values and trace records. -/

namespace Sys2Proof.Machine

/-- What a meaning answers. -/
abbrev Out := Host.Outcome State Fault Refusal

/-! Answers -/

/-- Every command begins with no answers. -/
def quiet (s : State) : State := { s with out := [] }

/-- Answer a requester. -/
def reply (s : State) (who : Requester) (a : Answer) : State := { s with out := s.out ++ [⟨some who, a⟩] }

/-- Send a message to the outside. -/
def emit (s : State) (a : Answer) : State := { s with out := s.out ++ [⟨none, a⟩] }

/-- Take the next free value (log 9). -/
def free (w : Nat) (s : State) : BitVec w × State := (Config.freeValue w s.fresh, { s with fresh := s.fresh + 1 })

/-- The free value of the k-th of several that one operation takes, apart from every value that `free` gives (log 9). -/
def freeAt (w k : Nat) (s : State) : BitVec w := Config.freeValue w (s.fresh + 2 ^ 64 * (k + 1))

/-! Registers -/

def rd (s : State) (f : Field) (i : Nat := 0) (j : Nat := 0) : Nat := s.regs.getF f i j
def wr (s : State) (f : Field) (v : Nat) (i : Nat := 0) (j : Nat := 0) : State := { s with regs := s.regs.setF f v i j }
/-- Set a one-bit field. -/
def flag (s : State) (f : Field) (i : Nat := 0) (j : Nat := 0) : State := wr s f 1 i j
/-- Add to a saturating counter field. -/
def inc (s : State) (f : Field) (i : Nat := 0) (j : Nat := 0) : State := { s with regs := s.regs.incSat f i j }
def rd64 (s : State) (lo hi : Field) (i : Nat := 0) (j : Nat := 0) : Nat := s.regs.get64 lo hi i j
def wr64 (s : State) (lo hi : Field) (v : Nat) (i : Nat := 0) (j : Nat := 0) : State :=
  { s with regs := s.regs.set64 lo hi v i j }

/-- A register of a CON block that has the layout of a CLU register (R42). -/
def conField (f : Field) : Field := { f with base := f.base + 0x2000000, n1 := 1024 }

/-- Progress registers of a long operation (R9): at the start both are 0. -/
def progress (s : State) (lo hi pct : Field) (pos done total : Nat) : State :=
  wr (wr64 s lo hi pos) pct (if total = 0 then 1000 else done * 1000 / total)

/-! Units of the machine -/

def cl (s : State) (c : Nat) : Cluster := KMap.get (fun _ => Cluster.reset) s.clu c
def setCl (s : State) (c : Nat) (x : Cluster) : State := { s with clu := KMap.set (fun _ => Cluster.reset) s.clu c x }
def modCl (s : State) (c : Nat) (f : Cluster → Cluster) : State := setCl s c (f (cl s c))

def stk (s : State) (n : Nat) : Stack := KMap.get (fun _ => Stack.reset) s.stk n
def setStk (s : State) (n : Nat) (x : Stack) : State := { s with stk := KMap.set (fun _ => Stack.reset) s.stk n x }
def modStk (s : State) (n : Nat) (f : Stack → Stack) : State := setStk s n (f (stk s n))

def hport (s : State) (p : Nat) : HostPort := KMap.get (fun _ => HostPort.reset) s.hpt p
def setHport (s : State) (p : Nat) (x : HostPort) : State := { s with hpt := KMap.set (fun _ => HostPort.reset) s.hpt p x }

def fport (s : State) (p : Nat) : Port := KMap.get (fun _ => Port.reset) s.fab.ports p
def setFport (s : State) (p : Nat) (x : Port) : State :=
  { s with fab := { s.fab with ports := KMap.set (fun _ => Port.reset) s.fab.ports p x } }

def loopOf (s : State) (n : Nat) : Loop := KMap.get (fun _ => Loop.reset) s.seq.loops n
def setLoop (s : State) (n : Nat) (x : Loop) : State :=
  { s with seq := { s.seq with loops := KMap.set (fun _ => Loop.reset) s.seq.loops n x } }
def modLoop (s : State) (n : Nat) (f : Loop → Loop) : State := setLoop s n (f (loopOf s n))

/-- A unit of a stack: channel × 16 + pseudo-channel × 8 + pair. -/
def unitNo (chan pc pair : Nat) : Nat := chan * 16 + pc * 8 + pair
def bankUnit (k : Stack) (u : Nat) : BankUnit := KMap.get (fun _ => BankUnit.reset) k.units u
def setBankUnit (k : Stack) (u : Nat) (x : BankUnit) : Stack :=
  { k with units := KMap.set (fun _ => BankUnit.reset) k.units u x }

/-- Cycles since the first reset, from the nanosecond count: bank 800 MHz, core 1.8 GHz (R1, log 3). -/
def bankCycle (s : State) : Nat := s.ns * 4 / 5
def coreCycle (s : State) : Nat := s.ns * 9 / 5

/-! Requesters -/

/-- HUB_MMIO_ERR_ADDR.SRC (Table 1.14). -/
def srcCode : Requester → Nat
  | .hostPf p => p.val
  | .hostVf p _ => p.val
  | .mgmt _ => 2
  | _ => 3

/-- The requesters that may write IMG_CTRL (02 "Image registers"): the management port, the physical functions, Castor and Pollux. -/
def mayImage : Requester → Bool
  | .hostPf _ => true
  | .mgmt _ => true
  | .supervisor => true
  | _ => false

def isHost : Requester → Bool
  | .hostPf _ => true
  | .hostVf _ _ => true
  | _ => false

/-! The structure in force (02) -/

def conRec (img : Image) (k : Nat) : Option ConRec := img.tree.find? (fun r => r.num = k)

/-- Constellations are nested up to six levels (Table 0.5). -/
def maxLevel : Nat := 6

/-- Leaf clusters of a member, depth first (R41). -/
def leavesAux (tree : List ConRec) : Nat → Member → List Nat
  | _, .cluster l => [l]
  | 0, .con _ => []
  | n + 1, .con k =>
    match tree.find? (fun r => r.num = k) with
    | none => []
    | some r => r.members.flatMap (leavesAux tree n)

/-- Leaf clusters of constellation k, as logical numbers in member order. -/
def leaves (img : Image) (k : Nat) : List Nat := leavesAux img.tree maxLevel (.con k)

/-- Level of a member (R40). -/
def levelAux (tree : List ConRec) : Nat → Member → Nat
  | _, .cluster _ => 0
  | 0, .con _ => 0
  | n + 1, .con k =>
    match tree.find? (fun r => r.num = k) with
    | none => 0
    | some r => 1 + (r.members.map (levelAux tree n)).foldl Nat.max 0

def levelOf (img : Image) (k : Nat) : Nat := levelAux img.tree (maxLevel + 2) (.con k)

def parentOf (img : Image) (k : Nat) : Option Nat := (img.tree.find? (fun r => r.members.contains (.con k))).map (·.num)

/-- A constellation and its ancestors, nearest first. -/
def ancestors (img : Image) : Nat → Nat → List Nat
  | 0, k => [k]
  | n + 1, k => match parentOf img k with
    | none => [k]
    | some p => k :: ancestors img n p

/-- A constellation and everything below it. -/
def subtreeAux (tree : List ConRec) : Nat → Nat → List Nat
  | 0, k => [k]
  | n + 1, k =>
    match tree.find? (fun r => r.num = k) with
    | none => [k]
    | some r => k :: r.members.flatMap (fun m => match m with
        | .con j => subtreeAux tree n j
        | .cluster _ => [])

def subtree (img : Image) (k : Nat) : List Nat := subtreeAux img.tree maxLevel k

/-- Tenant a constellation is bound to, itself or through an ancestor (R48). -/
def conTenant (img : Image) (k : Nat) : Option Nat :=
  (ancestors img maxLevel k).findSome? (fun a => (img.binds.find? (fun b => b.2 = a)).map (·.1))

/-- Physical cluster of a logical number, and the reverse. -/
def physOf (img : Image) (l : Nat) : Option Nat := img.lmap[l]?
def logicalOf (img : Image) (c : Nat) : Option Nat :=
  if img.lmap.contains c then some (img.lmap.findIdx (fun x => x = c)) else none

/-- Constellations of which a logical cluster is a leaf. -/
def consOf (img : Image) (l : Nat) : List Nat := (img.tree.filter (fun r => (leaves img r.num).contains l)).map (·.num)

/-- Tenant of a logical cluster: the one its constellations are bound to. -/
def clusterTenant (img : Image) (l : Nat) : Option Nat := (consOf img l).findSome? (conTenant img)

def physTenant (img : Image) (c : Nat) : Option Nat := (logicalOf img c).bind (clusterTenant img)

/-- Constellation that contains the cluster directly or not and is highest; used where a rule names "the constellation" of a cluster. -/
def loopRec (img : Image) (n : Nat) : Option LoopRec := img.loops.find? (fun r => r.slot = n)

/-- Physical leaves of a constellation, in member order. -/
def physLeaves (img : Image) (k : Nat) : List Nat := (leaves img k).filterMap (physOf img)

/-- Loops bound to a constellation that contains a physical cluster. -/
def loopsOn (img : Image) (c : Nat) : List Nat := (img.loops.filter (fun r => (physLeaves img r.con).contains c)).map (·.slot)

/-- Compute die of a physical cluster: A (0) holds 0 to 75, B (1) holds 76 to 151 (R14). -/
def dieOfCluster (c : Nat) : Nat := c / 76

/-- Mode mask of a stack (R47). -/
def pmask (img : Image) (n : Nat) : Nat := KMap.get (fun _ => 0) img.pmask n

/-- Core die d of stack n is in processor mode. -/
def procDie (img : Image) (n d : Nat) : Bool := bitsOf (pmask img n) d 1 = 1

/-- Virtual function v of port p: its tenant. -/
def vfTenant (img : Image) (p v : Nat) : Option Nat :=
  if v = 0 then none else (img.funcs[p]?).bind (fun f => (f.vfs[v - 1]?).map (·.1))

/-- The tenant a requester is bound to; none for a requester that is bound to none (R239, R437). -/
def tenantOf (s : State) : Requester → Option Nat
  | .hostVf p v => vfTenant s.img p.val v.val
  | .cluster c => physTenant s.img c.val
  | .kvm t => t.map (·.val)
  | .fabric _ t => t.map (·.val)
  | _ => none

/-- A requester bound to a given tenant. -/
def boundTo (s : State) (who : Requester) (t : Nat) : Bool := tenantOf s who = some t

/-! Global addresses (R87, R89) -/

def spaceOf (a : GAddr) : Nat := a.toNat / 2 ^ 58
def devOf (a : GAddr) : Nat := a.toNat / 2 ^ 41 % 2 ^ 17
def offOf (a : GAddr) : Nat := a.toNat % 2 ^ 41
def gaddr (space dev off : Nat) : GAddr := BitVec.ofNat 64 (space * 2 ^ 58 + dev % 2 ^ 17 * 2 ^ 41 + off % 2 ^ 41)

/-! Safety states (13) -/

def deviceEclipse (s : State) : Bool := rd s Fld.SAF_STATUS_DEVICE ≠ 0
def dieEclipse (s : State) (d : Nat) : Bool :=
  if d = 0 then rd s Fld.SAF_STATUS_DIE_A ≠ 0 else rd s Fld.SAF_STATUS_DIE_B ≠ 0
def clusterEclipse (s : State) (c : Nat) : Bool := s.saf.clusters.contains c || dieEclipse s (dieOfCluster c)

/-- No step commits while the device or a die is in eclipse or a hub-scope load holds the commit pause (R54, R358, R359). -/
def commitBarred (s : State) : Bool :=
  deviceEclipse s || dieEclipse s 0 || dieEclipse s 1 || s.pwr.standby ||
  (s.load.running && s.load.scope = 3 && rd s Fld.IMG_STATUS_STATE = 3)

/-! Trace (R391) -/

/-- A trace record (Table 15.5). -/
def traceRec (time type kind index state code ltag : Nat) : BitVec 128 :=
  BitVec.ofNat 128 (time % 2 ^ 64 + 2 ^ 64 * (type % 256) + 2 ^ 72 * (kind % 256) + 2 ^ 80 * (index % 2 ^ 16) +
    2 ^ 96 * (state % 256) + 2 ^ 104 * (code % 256) + 2 ^ 112 * (ltag % 2 ^ 16))

/-- Write a record to the ring. -/
def storeTrace (s : State) (r : BitVec 128) : State :=
  let n := rd64 s Fld.PWR_TRACE_WR_LO_COUNT Fld.PWR_TRACE_WR_HI_COUNT
  let s := wr64 s Fld.PWR_TRACE_WR_LO_COUNT Fld.PWR_TRACE_WR_HI_COUNT (n + 1)
  { s with pwr := { s.pwr with trace := KMap.set (fun _ => 0#128) s.pwr.trace (n % 32768) r } }

/-- A record made by a cluster enters its FIFO of 64, or is dropped and counted. -/
def clusterTrace (s : State) (c : Nat) (r : BitVec 128) : State :=
  let q := KMap.get (fun _ => []) s.pwr.fifo c
  if q.length ≥ 64 then inc s Fld.PWR_TRACE_LOST_COUNT
  else { s with pwr := { s.pwr with fifo := KMap.set (fun _ => []) s.pwr.fifo c (q ++ [r]) } }

/-- A cluster's FIFO reaches the store, in the order the cluster made its records (R392). -/
def flushTrace (s : State) (c : Nat) : State :=
  let q := KMap.get (fun _ => []) s.pwr.fifo c
  let s := { s with pwr := { s.pwr with fifo := KMap.set (fun _ => []) s.pwr.fifo c [] } }
  q.foldl storeTrace s

def flushAll (s : State) : State := (s.pwr.fifo.map (·.1)).foldl flushTrace s

/-! Errors captured by the hub -/

/-- An offending access is recorded and counted (R2, R29, R30). -/
def recordOffending (s : State) (who : Requester) (off : Nat) : State :=
  let s := if rd s Fld.HUB_MMIO_ERR_ADDR_VALID = 1 then flag s Fld.HUB_MMIO_ERR_ADDR_OVERRUN else s
  let s := flag s Fld.HUB_MMIO_ERR_ADDR_VALID
  let s := wr s Fld.HUB_MMIO_ERR_ADDR_OFFSET off
  let s := wr s Fld.HUB_MMIO_ERR_ADDR_SRC (srcCode who)
  inc s Fld.HUB_MMIO_ERR_CNT_COUNT

/-- An access that timed out or was returned unstable is recorded in CKR_XSTAT (R411, R412). -/
def recordXstat (s : State) (f : Field) (who : Requester) (off : Nat) : State :=
  flag (flag (wr (wr s Fld.CKR_XSTAT_OFFSET off) Fld.CKR_XSTAT_SRC (srcCode who)) f) Fld.CKR_EVENT_XSTAT

/-- An authentication failure (R374, R376). -/
def secFail (s : State) (tenant : Option Nat) : State :=
  { inc s Fld.SEC_AUTHFAIL_COUNT with sec := { s.sec with authFails := s.sec.authFails ++ [(s.ns, tenant)] } }

/-- Boot has reached READY (R422). -/
def isReady (s : State) : Bool := rd s Fld.CKR_BOOT_READY = 1

/-- The life-cycle state in force (R370). -/
def lifeCycle (s : State) : Nat := if s.sec.lcs = 2 ∧ s.sec.fieldDebug = true then 3 else s.sec.lcs

/-- Table 14.3: serving, with tenant keys or test keys. -/
def mayServe (s : State) : Bool := lifeCycle s = 1 || lifeCycle s = 2 || lifeCycle s = 3

/-- An event less than 1 s ago (R354, R355, R358, R376). -/
def within (t : Option Nat) (now : Nat) : Bool := t.any (fun x => decide (now < x + 1000000000))

/-! Lists -/

/-- Take the first element that satisfies p out of a list. -/
def takeFirst {α : Type} (p : α → Bool) : List α → Option (α × List α)
  | [] => none
  | x :: t => if p x then some (x, t) else (takeFirst p t).map (fun r => (r.1, x :: r.2))

/-- Replace the first element that satisfies p. -/
def replaceFirst {α : Type} (p : α → Bool) (f : α → α) : List α → List α
  | [] => []
  | x :: t => if p x then f x :: t else x :: replaceFirst p f t

/-- Elements until and with a bound, added if absent. -/
def addNew {α : Type} [DecidableEq α] (l : List α) (x : α) : List α := if x ∈ l then l else l ++ [x]

def natBits (n : Nat) : List Nat := (List.range n)

/-- Bytes of a bit vector of 8n bits, the lowest first. -/
def bytesOf (n : Nat) (v : Nat) : List Byte := natLe n v

/-- The 64 bytes of a line. -/
def lineBytes (v : BitVec 512) : List Byte := natLe 64 v.toNat
def lineOf (bs : List Byte) : BitVec 512 := BitVec.ofNat 512 (leNat bs)

end Sys2Proof.Machine
end

