-- ==== Sys2Proof/Machine/Memory.lean ====
section
/-! DEFINITION. The memory of the block (04): stack lines and the written map, the hash, shared-cache slices, scratchpad windows,
atomics and indexed reductions, and the checks an access meets at its point of order. -/

namespace Sys2Proof.Machine

/-! Stack lines (R93, R99, R100, R104). A line number is channel × 2^25 + channel-local address / 64. -/

def dramByte (m : Memory) (k : Nat) : Byte := KMap.get (fun _ => 0#8) m.dram k

def rawLine (m : Memory) (n : Nat) : BitVec 512 := lineOf (KMap.getSeq (fun _ => 0#8) m.dram (n * 64) 64)

def chanOfLine (n : Nat) : Nat := n / 2 ^ 25
def unitOfLine (n : Nat) : Nat := n / 64

def fillsOf (m : Memory) (ch : Nat) : List Fill := KMap.get (fun _ => []) m.fills ch
def setFills (m : Memory) (ch : Nat) (q : List Fill) : Memory := { m with fills := KMap.set (fun _ => []) m.fills ch q }

/-- What a read of a line returns: zeros where the unit is unwritten or its fill has not come to the line yet. -/
def lineView (m : Memory) (n : Nat) : BitVec 512 × Bool :=
  if unitOfLine n ∈ m.written then
    match (fillsOf m (chanOfLine n)).find? (fun f => f.unit = unitOfLine n) with
    | some f => if bitsOf f.written (n % 64) 1 = 1 then (rawLine m n, decide (n ∈ m.poison)) else (0#512, false)
    | none => (rawLine m n, decide (n ∈ m.poison))
  else (0#512, false)

def storeLine (m : Memory) (n : Nat) (d : BitVec 512) (p : Bool) : Memory :=
  { m with
    dram := KMap.setSeq (fun _ => 0#8) m.dram (n * 64) (lineBytes d)
    poison := if p then KSet.add m.poison n else KSet.del m.poison n }

/-- A background fill writes zeros to one line that nothing else has written. -/
def fillLine (m : Memory) (f : Fill) (i : Nat) : Memory :=
  if bitsOf f.written i 1 = 1 then m else storeLine m (f.unit * 64 + i) 0#512 false

/-- A fill is completed and leaves the queue. -/
def finishFill (m : Memory) (ch : Nat) (f : Fill) : Memory :=
  let m := (List.range 64).foldl (fun m i => fillLine m f i) m
  setFills m ch ((fillsOf m ch).filter (fun g => g.unit ≠ f.unit))

/-- A first write waits for room in the fill queue of 16: the oldest fill ends first (log 13). -/
def makeRoom (m : Memory) (ch : Nat) : Memory :=
  match fillsOf m ch with
  | f :: t => if t.length ≥ 15 then finishFill m ch f else m
  | [] => m

/-- One line is written to the stack (R100). -/
def putLine (m : Memory) (n : Nat) (d : BitVec 512) (p : Bool) : Memory :=
  let ch := chanOfLine n
  let u := unitOfLine n
  if u ∈ m.written then
    let q := (fillsOf m ch).map (fun f => if f.unit = u then { f with written := f.written ||| 2 ^ (n % 64) } else f)
    storeLine (setFills m ch (q.filter (fun f => f.written ≠ 2 ^ 64 - 1))) n d p
  else
    let m := makeRoom m ch
    let m := { m with written := KSet.add m.written u }
    storeLine (setFills m ch (fillsOf m ch ++ [⟨u, 2 ^ (n % 64)⟩])) n d p

/-- The written-map bit of a unit is cleared and its fill cancelled (R102). -/
def clearUnit (m : Memory) (u : Nat) : Memory :=
  let m := { m with written := KSet.del m.written u }
  setFills m (u / 2 ^ 19) ((fillsOf m (u / 2 ^ 19)).filter (fun f => f.unit ≠ u))

/-! Writes the base die has accepted (R104, R110, R143) -/

def acceptedOf (m : Memory) (ch : Nat) : List PendingWrite := KMap.get (fun _ => []) m.accepted ch
def setAccepted (m : Memory) (ch : Nat) (q : List PendingWrite) : Memory :=
  { m with accepted := KMap.set (fun _ => []) m.accepted ch q }

/-- Replace the bytes of a line from `low` on. -/
def mergeBytes (d : BitVec 512) (low : Nat) (bs : List Byte) : BitVec 512 :=
  let old := lineBytes d
  lineOf (old.take low ++ bs ++ old.drop (low + bs.length))

/-- A performed write: the line as read, the new bytes, and the poison mark where either carries it (R342). A whole line replaces mark
and all. -/
def performWrite (m : Memory) (w : PendingWrite) : Memory :=
  let v := lineView m w.line
  let whole := w.bytes.length = 64
  putLine m w.line (mergeBytes v.1 w.low w.bytes) (w.poison || (!whole && v.2))

/-- The accepted writes of one line are performed in order; a later access observes them (R110). -/
def settle (m : Memory) (n : Nat) : Memory :=
  let ch := chanOfLine n
  let q := acceptedOf m ch
  let m := setAccepted m ch (q.filter (fun w => w.line ≠ n))
  (q.filter (fun w => w.line = n)).foldl (fun m w => performWrite m w) m

/-! The hash (R95) -/

def hashSize (h : Hashing) : Nat := h.chans.length * 2 ^ 31

/-- Byte key of a hashed offset: channel × 2^31 + channel-local address. -/
def hashKey (h : Hashing) (off : Nat) : Option Nat :=
  let n := h.chans.length
  if n = 0 ∨ off ≥ n * 2 ^ 31 then none
  else
    let g := off / 256
    let q := g / n
    let t := (q % 4096) ^^^ (q / 4096 % 4096)
    let r := h.chans.findIdx (fun c => c = h.table.getD t 0)
    let ch := h.chans.getD ((g % n + r) % n) 0
    some (ch * 2 ^ 31 + q * 256 + off % 256)

/-- A stack-scope load moves granules now: prepare of scope 2, or moving back after its end (R53). -/
def migrating (s : State) : Bool := s.load.running && s.load.scope = 2 && rd s Fld.IMG_STATUS_STATE = 2

/-- Where a hashed granule stands. -/
inductive Place where
  | at (key : Nat)
  /-- In the loader's holding buffer. -/
  | buffer
  | nowhere
  deriving DecidableEq, Repr

def placeOf (s : State) (off : Nat) : Place :=
  let g := off / 256
  if migrating s then
    match s.load.hold with
    | some h => if h.g = g then .buffer
      else
        match hashKey (if g ∈ s.load.moved then s.load.next.hash else s.img.hash) off with
        | some k => .at k
        | none => .nowhere
    | none =>
      match hashKey (if g ∈ s.load.moved then s.load.next.hash else s.img.hash) off with
      | some k => .at k
      | none => .nowhere
  else
    match hashKey s.img.hash off with
    | some k => .at k
    | none => .nowhere

/-- Line number of a hashed offset that stands in a stack. -/
def lineNo (s : State) (off : Nat) : Option Nat :=
  match placeOf s off with
  | .at k => some (k / 64)
  | _ => none

/-- Hashed lines the part can address now (R89). -/
def hashedValid (s : State) (off : Nat) : Bool := decide (off < hashSize s.img.hash)

def stackOfLine (n : Nat) : Nat := n / 2 ^ 31

/-- Home die of a line: A for S0 to S5, B for S6 to S11 (R111). -/
def dieOfStack (n : Nat) : Nat := n / 6

/-! Faults of data (R340, R342, R344) -/

/-- RAS_ERR records the first uncorrected fault after VALID was cleared (R362). -/
def recordUe (s : State) (kind source addr : Nat) : State :=
  let s := flag s Fld.RAS_EVENT_UE
  let s := wr64 s Fld.RAS_UE_LO_COUNT Fld.RAS_UE_HI_COUNT (rd64 s Fld.RAS_UE_LO_COUNT Fld.RAS_UE_HI_COUNT + 1)
  if rd s Fld.RAS_ERR_VALID = 1 then flag s Fld.RAS_ERR_OVERRUN
  else
    let s := flag (wr (wr s Fld.RAS_ERR_KIND kind) Fld.RAS_ERR_SOURCE source) Fld.RAS_ERR_VALID
    wr64 s Fld.RAS_ERR_ADDR_LO_ADDR Fld.RAS_ERR_ADDR_HI_ADDR addr

/-- A poisoned read is counted, and no more (R344). -/
def countPoison (s : State) : State :=
  wr64 s Fld.RAS_UE_LO_COUNT Fld.RAS_UE_HI_COUNT (rd64 s Fld.RAS_UE_LO_COUNT Fld.RAS_UE_HI_COUNT + 1)

def recordCe (s : State) : State :=
  let s := flag s Fld.RAS_EVENT_CE
  wr64 s Fld.RAS_CE_LO_COUNT Fld.RAS_CE_HI_COUNT (rd64 s Fld.RAS_CE_LO_COUNT Fld.RAS_CE_HI_COUNT + 1)

/-- Row of a line number: stack, channel, pseudo-channel, bank and row of Table 4.3, as key / 2^15 with the block bits left out. -/
def rowOfLine (n : Nat) : Nat :=
  let ch := n / 2 ^ 25
  let a := n % 2 ^ 25 * 64
  ch * 2 ^ 21 + a / 256 % 32 * 2 ^ 16 + a / 2 ^ 15

/-- Nanoseconds of 24 hours (R348). -/
def dayNs : Nat := 86400000000000

/-- A corrected read of a row; the fourth within 24 hours sends it to testing (R348). -/
def rowCorrected (s : State) (row : Nat) : State :=
  let old := (KMap.get (fun _ => []) s.ras.corrected row).filter (fun t => s.ns < t + dayNs)
  if old.length ≥ 3 then
    { s with ras := { s.ras with
        corrected := KMap.set (fun _ => []) s.ras.corrected row []
        rowTests := addNew s.ras.rowTests row } }
  else { s with ras := { s.ras with corrected := KMap.set (fun _ => []) s.ras.corrected row (old ++ [s.ns]) } }

def localDevice (s : State) : Nat := rd s Fld.FAB_DEVID_DEVICE

/-- Global address of a local offset. -/
def localAddr (s : State) (space off : Nat) : Nat := (gaddr space (localDevice s) off).toNat

/-- The data of a read that its error check cannot correct, which no rule states (log 9): apart for every such read, since each counts in
RAS_UE. -/
def badData (s : State) (k : Nat) : BitVec 512 :=
  freeAt 512 (rd64 s Fld.RAS_UE_LO_COUNT Fld.RAS_UE_HI_COUNT * 2 ^ 40 + k) s

/-- A line is read from its stack (R99, R104): its data and poison. -/
def fetchLine (s : State) (off n : Nat) (ecc : Ecc) : State × BitVec 512 × Bool :=
  let s := { s with mem := settle s.mem n }
  let v := lineView s.mem n
  if unitOfLine n ∈ s.mem.written then
    match ecc with
    | .clean => (if v.2 then countPoison s else s, v)
    | .corrected => (rowCorrected (recordCe s) (rowOfLine n), v)
    | .uncorrectable =>
      let d := badData s n
      let s := recordUe s 0 (0xC0 + stackOfLine n) (localAddr s 0 (off / 64 * 64))
      ({ s with ras := { s.ras with suspects := addNew s.ras.suspects (.line n (off / 64 * 64)) } }, d, true)
  else (s, v)

/-! Shared-cache slices (R111, R112) -/

/-- The slice within the home die: the XOR of the 4-bit chunks of offset bits [40:6]. -/
def sliceOf (off : Nat) : Nat :=
  (List.range 9).foldl (fun a i => a ^^^ (off / 2 ^ (6 + 4 * i) % 16)) 0

def setKey (die off : Nat) : Nat := (die * 16 + sliceOf off) * 6144 + off / 64 % 6144

def cacheSet (m : Memory) (k : Nat) : CacheSet := KMap.get (fun _ => CacheSet.empty) m.sets k
def putSet (m : Memory) (k : Nat) (x : CacheSet) : Memory := { m with sets := KMap.set (fun _ => CacheSet.empty) m.sets k x }

/-- The way that holds a line. -/
def findWay (x : CacheSet) (line : Nat) : Option Nat :=
  let i := x.ways.findIdx (fun w => match w with
    | some l => l.line = line
    | none => false)
  if i < x.ways.length then some i else none

/-- A way's path in the tree: every node on it names the half that does not contain the way. -/
def touchAux : Nat → Nat → Nat → Nat → Nat
  | 0, _, _, nodes => nodes
  | d + 1, way, node, nodes =>
    let b := bitsOf way d 1
    let cleared := nodes - bitsOf nodes node 1 * 2 ^ node
    touchAux d way (2 * node + 1 + b) (if b = 0 then cleared + 2 ^ node else cleared)

def touch (nodes way : Nat) : Nat := touchAux 4 way 0 nodes

/-- The victim: from the root, the child each node bit names. -/
def victimAux : Nat → Nat → Nat → Nat → Nat
  | 0, _, _, way => way
  | d + 1, nodes, node, way =>
    let b := bitsOf nodes node 1
    victimAux d nodes (2 * node + 1 + b) (2 * way + b)

/-- The way a new line takes: the lowest invalid one, else the victim. -/
def chooseWay (x : CacheSet) : Nat :=
  let i := x.ways.findIdx (fun w => w.isNone)
  if i < x.ways.length then i else victimAux 4 x.nodes 0 0

/-- No row write reaches a stack under write hold (R143) or in REST (R386). -/
def stackClosed (s : State) (n : Nat) : Bool := rd s Fld.STK_STATUS_WHOLD n = 1 || decide (n ∈ s.pwr.rest)

/-- A line leaves its slice for the stack; during a write hold the base die keeps it in its queue (R143). -/
def writeBack (s : State) (l : CacheLine) : State :=
  match lineNo s (l.line * 64) with
  | none => s
  | some n =>
    let m := settle s.mem n
    if stackClosed s (stackOfLine n) then
      let q := acceptedOf m (chanOfLine n) ++ [⟨n, 0, lineBytes l.data, l.poison⟩]
      { s with mem := setAccepted m (chanOfLine n) q }
    else { s with mem := putLine m n l.data l.poison }

/-- A line takes a way of its set; a dirty victim is written back. -/
def allocate (s : State) (die off : Nat) (d : BitVec 512) (p dirty : Bool) : State :=
  let k := setKey die off
  let x := cacheSet s.mem k
  let w := (findWay x (off / 64)).getD (chooseWay x)
  let s :=
    match x.ways.getD w none with
    | some l => if l.line ≠ off / 64 ∧ l.dirty then writeBack s l else s
    | none => s
  { s with mem := putSet s.mem k ⟨x.ways.set w (some ⟨off / 64, dirty, d, p⟩), touch x.nodes w⟩ }

/-- Drop a line from its slice without writing it back. -/
def dropLine (m : Memory) (die off : Nat) : Memory :=
  let k := setKey die off
  let x := cacheSet m k
  match findWay x (off / 64) with
  | none => m
  | some w => putSet m k { x with ways := x.ways.set w none }

/-- The line a slice holds. -/
def cached (m : Memory) (die off : Nat) : Option CacheLine :=
  let x := cacheSet m (setKey die off)
  (findWay x (off / 64)).bind (fun w => x.ways.getD w none)

/-- Write a line back if it is dirty and drop it. -/
def flushLine (s : State) (die off : Nat) : State :=
  match cached s.mem die off with
  | none => s
  | some l =>
    let s := if l.dirty then writeBack s l else s
    { s with mem := dropLine s.mem die off }

/-- A hit touches the tree and may fail the slice's own check (Table 13.1). -/
def hitLine (s : State) (die off : Nat) (l : CacheLine) (ecc : Ecc) : State × BitVec 512 × Bool :=
  let k := setKey die off
  let x := cacheSet s.mem k
  let w := (findWay x (off / 64)).getD 0
  let bad := l.poison || ecc == .uncorrectable
  let d := if ecc == .uncorrectable then badData s (2 ^ 36 + off / 64) else l.data
  let s := { s with mem := putSet s.mem k ⟨x.ways.set w (some { l with data := d, poison := bad }), touch x.nodes w⟩ }
  match ecc with
  | .clean => (if l.poison then countPoison s else s, d, bad)
  | .corrected => (recordCe s, d, bad)
  | .uncorrectable => (recordUe s 3 0xF0 (localAddr s 0 (off / 64 * 64)), d, bad)

/-- Home die of a hashed offset. -/
def homeDie (s : State) (off : Nat) : Nat := ((lineNo s off).map (fun n => dieOfStack (stackOfLine n))).getD 0

/-- A line brought into its slice: on a hit as it stands, on a miss fetched and allocated. -/
def obtainLine (s : State) (off : Nat) (ecc : Ecc) : State × BitVec 512 × Bool :=
  let die := homeDie s off
  match cached s.mem die off with
  | some l => hitLine s die off l ecc
  | none =>
    match lineNo s off with
    | none => (s, 0#512, true)
    | some n =>
      let r := fetchLine s off n ecc
      (allocate r.1 die off r.2.1 r.2.2 false, r.2.1, r.2.2)

/-- A line as the machine reads it now, changing nothing. -/
def peekLine (s : State) (off : Nat) : BitVec 512 × Bool :=
  match cached s.mem (homeDie s off) off with
  | some l => (l.data, l.poison)
  | none =>
    match lineNo s off with
    | none => (0#512, true)
    | some n => lineView (settle s.mem n) n

/-- A byte of hashed space as the machine reads it now. -/
def peekByte (s : State) (off : Nat) : Byte := (lineBytes (peekLine s off).1).getD (off % 64) 0#8

/-! Regions (R345) -/

/-- The region of a hashed offset. -/
def regionOf (s : State) (off : Nat) : Option Region :=
  (s.mem.regions.map (·.2)).find? (fun r => r.kind ≠ 0 ∧ r.base / 2 ^ 58 = 0 ∧ r.base % 2 ^ 41 ≤ off ∧ off < r.base % 2 ^ 41 + r.len)

/-- The other copy of a mirrored offset. -/
def mirrorOf (s : State) (off : Nat) : Option Nat :=
  match regionOf s off with
  | some r => if r.kind = 2 then some (r.src % 2 ^ 41 + (off - r.base % 2 ^ 41)) else none
  | none => none

/-- A unit of 4 KiB of hashed space written by anyone but the loader, while granules move (R53). -/
def noteWrite (s : State) (who : Requester) (off : Nat) : State :=
  if migrating s && who ≠ .loader then
    match hashKey s.img.hash off with
    | some k => { s with load := { s.load with units := KSet.add s.load.units (k / 4096) } }
    | none => s
  else s

/-- Write a line in its slice at one copy. -/
def writeLine1 (s : State) (off : Nat) (d : BitVec 512) (p : Bool) : State := allocate s (homeDie s off) off d p true

/-- Write a line at its home, both copies of a mirrored one (R345). -/
def writeLine (s : State) (who : Requester) (off : Nat) (d : BitVec 512) (p : Bool) : State :=
  let s := noteWrite s who off
  let s := writeLine1 s off d p
  match mirrorOf s off with
  | some o => writeLine1 (noteWrite s who o) o d p
  | none => s

/-- A meteor write at one copy: into the slice on a hit, else accepted by the base die (R110, R112). A clean write of half a poisoned
line leaves the mark; a poisoned one sets it (R342). -/
def meteorPut1 (s : State) (off : Nat) (d : BitVec 256) (p : Bool) : State :=
  let die := homeDie s off
  match cached s.mem die off with
  | some l => allocate s die off (mergeBytes l.data (off % 64) (natLe 32 d.toNat)) (l.poison || p) true
  | none =>
    match lineNo s off with
    | none => s
    | some n =>
      let q := acceptedOf s.mem (chanOfLine n) ++ [⟨n, off % 64, natLe 32 d.toNat, p⟩]
      { s with mem := setAccepted s.mem (chanOfLine n) q }

def meteorPut (s : State) (who : Requester) (off : Nat) (d : BitVec 256) (p : Bool) : State :=
  let s := meteorPut1 (noteWrite s who off) off d p
  match mirrorOf s off with
  | some o => meteorPut1 (noteWrite s who o) o d p
  | none => s

/-- The channel's queue of 32 has no room for a meteor write that misses (R143). -/
def meteorFull (s : State) (off : Nat) : Bool :=
  match cached s.mem (homeDie s off) off, lineNo s off with
  | none, some n => decide ((acceptedOf s.mem (chanOfLine n)).length ≥ 32)
  | _, _ => false

/-! Atomic operations (Table 4.11) -/

def signedVal (wide : Bool) (x : Nat) : Int :=
  let w := if wide then 64 else 32
  if x % 2 ^ w ≥ 2 ^ (w - 1) then (x % 2 ^ w : Nat) - (2 ^ w : Nat) else (x % 2 ^ w : Nat)

/-- The value an atomic stores. -/
def atomicNew (op : AtomicOp) (wide : Bool) (old operand compare : Nat) : Nat :=
  let m := if wide then 2 ^ 64 else 2 ^ 32
  let x := operand % m
  let y := old % m
  match op with
  | .add => (y + x) % m
  | .and => y &&& x
  | .or => y ||| x
  | .xor => y ^^^ x
  | .smin => if signedVal wide x < signedVal wide y then x else y
  | .smax => if signedVal wide x > signedVal wide y then x else y
  | .umin => Nat.min x y
  | .umax => Nat.max x y
  | .swap => x
  | .cas => if y = compare % m then x else y

/-- An atomic stores its result; a CAS that does not match stores nothing. -/
def atomicStores (op : AtomicOp) (wide : Bool) (old compare : Nat) : Bool :=
  let m := if wide then 2 ^ 64 else 2 ^ 32
  decide (op ≠ .cas) || decide (old % m = compare % m)

def atomicSize (wide : Bool) : Nat := if wide then 8 else 4

/-! Scratchpads (R91, R342) -/

def spadBytes (m : Memory) (c off n : Nat) : List Byte := KMap.getSeq (fun _ => 0#8) m.spad (c * 2 ^ 22 + off) n

/-- 32-byte blocks of a range. -/
def blocksOf (k n : Nat) : List Nat := (List.range ((k + n + 31) / 32 - k / 32)).map (fun i => k / 32 + i)

def spadPoisoned (m : Memory) (c off n : Nat) : Bool :=
  (blocksOf (c * 2 ^ 22 + off) n).any (fun b => decide (b ∈ m.spadPoison))

/-- Write scratchpad bytes: poisoned data marks their blocks; clean data clears the blocks they cover whole (Table 13.2). -/
def spadWrite (m : Memory) (c off : Nat) (bs : List Byte) (p : Bool) : Memory :=
  let k := c * 2 ^ 22 + off
  let bl := blocksOf k bs.length
  let whole := bl.filter (fun b => k ≤ b * 32 ∧ b * 32 + 32 ≤ k + bs.length)
  { m with
    spad := KMap.setSeq (fun _ => 0#8) m.spad k bs
    spadPoison := if p then bl.foldl KSet.add m.spadPoison else whole.foldl KSet.del m.spadPoison }

/-- A checked scratchpad read. -/
def spadRead (s : State) (c off n : Nat) (ecc : Ecc) : State × List Byte × Bool :=
  let p := spadPoisoned s.mem c off n
  let bs := spadBytes s.mem c off n
  match ecc with
  | .clean => (if p then countPoison s else s, bs, p)
  | .corrected => (recordCe s, bs, p)
  | .uncorrectable =>
    let l := (logicalOf s.img c).getD 0
    (recordUe s 2 c (localAddr s 2 (l * 2 ^ 22 + off)), natLe n (badData s (2 ^ 37 + c * 2 ^ 22 + off)).toNat, true)

/-- Physical cluster and offset of a window offset (R42, R91). -/
def windowOf (s : State) (off : Nat) : Option (Nat × Nat) :=
  if off < 0x24000000 then (physOf s.img (off / 2 ^ 22)).map (fun c => (c, off % 2 ^ 22))
  else if off < 2 ^ 40 then none
  else
    let k := (off - 2 ^ 40) / 2 ^ 30
    let x := (off - 2 ^ 40) % 2 ^ 30
    (((leaves s.img k)[x / 2 ^ 22]?).bind (physOf s.img)).map (fun c => (c, x % 2 ^ 22))

/-- CLU_PWR.STATE of a cluster in DUSK or NIGHT (Table 15.11). -/
def clusterOff (s : State) (c : Nat) : Bool :=
  let x := rd s Fld.CLU_PWR_STATE c
  x = 1 || x = 2

/-! The tenant boundary (R239) -/

def unitTenant (s : State) (off : Nat) : Option Nat := KMap.get (fun _ => none) s.mem.bounds.units (off / 2 ^ 21)

/-- A checked requester of tenant t may access a hashed offset. -/
def hashedAllowed (s : State) (t off : Nat) : Bool := unitTenant s off = some t

/-- A window belongs to the tenant the table names, and to the tenant its cluster's constellation is bound to (log 15). -/
def windowAllowed (s : State) (t c : Nat) : Bool :=
  match logicalOf s.img c with
  | none => false
  | some l => KMap.get (fun _ => none) s.mem.bounds.windows l = some t || clusterTenant s.img l = some t

/-! Accesses that wait at their point of order -/

/-- A line is held: by the loader's buffer (R53), by a restore (R346), by the host (R440), or behind a waiting access. -/
def lineHeld (s : State) (off : Nat) : Bool :=
  placeOf s off = .buffer ||
  (match lineNo s off with
    | some n => decide (n ∈ s.mem.restoring)
    | none => false) ||
  s.mem.snoop.any (fun x => x.line = off / 64) ||
  s.mem.waiting.any (fun w => w.addr / 2 ^ 58 = 0 ∧ w.addr % 2 ^ 41 / 64 = off / 64)

/-- Under write hold, a later access to a line that the slice does not hold waits behind a held write of the line, and a write that finds
no room waits (R143). An access that reaches a stack in REST waits for its wake (R386). -/
def holdBlocks (s : State) (off : Nat) (kind : AccessKind) : Bool :=
  match lineNo s off with
  | none => false
  | some n =>
    if decide (stackOfLine n ∈ s.pwr.rest) && (cached s.mem (homeDie s off) off).isNone then
      match kind with
      | .lineWrite _ _ => false
      | _ => true
    else if rd s Fld.STK_STATUS_WHOLD (stackOfLine n) = 1 && (cached s.mem (homeDie s off) off).isNone then
      match kind with
      | .lineWrite _ _ => false
      | .meteorWrite _ _ => meteorFull s off
      | _ => (acceptedOf s.mem (chanOfLine n)).any (fun w => w.line = n)
    else
      match kind with
      | .meteorWrite _ _ => meteorFull s off
      | _ => false

/-- Bytes an access touches, and whether its address suits its kind (R2, R113, R228). -/
def accessFits (off : Nat) : AccessKind → Bool
  | .lineRead => off % 64 = 0
  | .lineWrite _ _ => off % 64 = 0
  | .partialStore d _ => decide (0 < d.length) && decide (off % 64 + d.length ≤ 64)
  | .meteorRead => off % 32 = 0
  | .meteorWrite _ _ => off % 32 = 0
  | .atomic _ wide _ _ _ => off % atomicSize wide = 0
  | .contribute c => off % 64 = 0 &&
      (match c.completion with
        | some a => decide (a.toNat % 8 = 0) && decide (spaceOf a = 0)
        | none => true)
  | .reduceCancel => off % 64 = 0

def isWrite : AccessKind → Bool
  | .lineRead => false
  | .meteorRead => false
  | _ => true

/-! Indexed reductions (R114, R115) -/

/-- One word position of a line. -/
def word32 (d : BitVec 512) (i : Nat) : Nat := d.toNat / 2 ^ (32 * i) % 2 ^ 32

/-- The combination of two partials in a format. -/
def combine (f : RedFormat) (x y : BitVec 512) : BitVec 512 :=
  match f with
  | .fp32 => lineOf ((List.range 16).flatMap (fun i => natLe 4 (fAdd fp32 (word32 x i) (word32 y i)).1))
  | .int32 => lineOf ((List.range 16).flatMap (fun i => natLe 4 ((word32 x i + word32 y i) % 2 ^ 32)))
  | .int64 => lineOf ((List.range 8).flatMap (fun i =>
      natLe 8 ((x.toNat / 2 ^ (64 * i) + y.toNat / 2 ^ (64 * i)) % 2 ^ 64)))
  | .raw => lineOf ((List.range 2).flatMap (fun i =>
      let a := readRaw (x.toNat / 2 ^ (256 * i) % 2 ^ 256)
      let b := readRaw (y.toNat / 2 ^ (256 * i) % 2 ^ 256)
      let r := mergeRaw a b
      natLe 32 (rawRecord r.1 r.2)))

def combineNodes (f : RedFormat) (l r : RedNode) : RedNode := ⟨l.size + r.size, combine f l.data r.data, l.poison || r.poison⟩

/-- Merge the top two entries while they have equal size; the stack's top is its head. -/
def mergeTop (f : RedFormat) : Nat → List RedNode → List RedNode
  | 0, st => st
  | n + 1, right :: left :: t =>
    if right.size = left.size then mergeTop f n (combineNodes f left right :: t) else right :: left :: t
  | _, st => st

/-- Push every partial that is next in turn. -/
def drainParked : Nat → OpenReduction → OpenReduction
  | 0, r => r
  | n + 1, r =>
    match takeFirst (fun p => p.1 = r.next) r.parked with
    | none => r
    | some (p, rest) =>
      drainParked n { r with parked := rest, next := r.next + 1, stack := mergeTop r.format 16 (p.2 :: r.stack) }

/-- Combine what remains on the stack, the lower entry to the left. -/
def closeStack (f : RedFormat) : List RedNode → Option RedNode
  | [] => none
  | top :: t => some (t.foldl (fun acc left => combineNodes f left acc) top)

def slicesUsed (s : State) (slice : Nat) : Nat := (s.mem.reductions.filter (fun r => r.slice = slice)).length
def parkedUsed (s : State) (slice : Nat) : Nat :=
  ((s.mem.reductions.filter (fun r => r.slice = slice)).map (fun r => r.parked.length)).foldl (· + ·) 0

/-- A contribution at its slice: the answer, and the closed reduction with its result where this was the last. -/
def contributeAt (s : State) (slice addr : Nat) (c : Contribution) : State × Answer × Option (OpenReduction × RedNode) :=
  let i := c.index.toNat
  let node : RedNode := ⟨1, c.data, c.poison⟩
  let accept (r : OpenReduction) : State × Answer × Option (OpenReduction × RedNode) :=
    let r := drainParked 4097 { r with parked := r.parked ++ [(i, node)] }
    let others := s.mem.reductions.filter (fun x => x.addr ≠ addr)
    if r.next = r.count then
      ({ s with mem := { s.mem with reductions := others } }, .done, (closeStack r.format r.stack).map (fun x => (r, x)))
    else ({ s with mem := { s.mem with reductions := others ++ [r] } }, .done, none)
  match s.mem.reductions.find? (fun r => r.addr = addr) with
  | none =>
    if c.index.toNat ≥ c.count.toNat then (s, .reduceIndex, none)
    else if slicesUsed s slice ≥ 256 then (s, .retry, none)
    else if i ≠ 0 ∧ parkedUsed s slice ≥ 64 then (s, .retry, none)
    else accept ⟨slice, addr, c.format, c.count.toNat, c.accum, c.completion, 0, [], []⟩
  | some r =>
    if r.count ≠ c.count.toNat ∨ r.format ≠ c.format ∨ r.accum ≠ c.accum ∨ r.completion ≠ c.completion then (s, .reduceMismatch, none)
    else if i ≥ r.count then (s, .reduceIndex, none)
    else if i < r.next ∨ r.parked.any (fun p => p.1 = i) then (s, .reduceDup, none)
    else if i ≠ r.next ∧ parkedUsed s slice ≥ 64 then (s, .retry, none)
    else accept r

/-! An access at its point of order -/

/-- What an access did: the state, the answer, and a completion count to be raised (R463). -/
abbrev Done := State × Answer × Option GAddr

/-- An access to a hashed line that nothing holds back and that Table 4.2 and R239 permit. -/
def performHashed (s : State) (who : Requester) (off : Nat) (kind : AccessKind) (ecc : Ecc) : Done :=
  let line := off / 64 * 64
  let openRed := s.mem.reductions.any (fun r => r.addr = localAddr s 0 line)
  match kind with
  | .lineRead =>
    let r := obtainLine s line ecc
    (r.1, .data (lineBytes r.2.1) r.2.2, none)
  | .meteorRead =>
    match cached s.mem (homeDie s off) off with
    | some l =>
      let r := hitLine s (homeDie s off) off l ecc
      (r.1, .data ((lineBytes r.2.1).drop (off % 64) |>.take 32) r.2.2, none)
    | none =>
      match lineNo s off with
      | none => (s, .addressError 3, none)
      | some n =>
        let r := fetchLine s off n ecc
        (r.1, .data ((lineBytes r.2.1).drop (off % 64) |>.take 32) r.2.2, none)
  | .lineWrite d p => if openRed then (s, .reduceBusy, none) else (writeLine s who line d p, .done, none)
  | .partialStore bs p =>
    if openRed then (s, .reduceBusy, none)
    else
      let r := obtainLine s line ecc
      (writeLine r.1 who line (mergeBytes r.2.1 (off % 64) bs) (r.2.2 || p), .done, none)
  | .meteorWrite d p => if openRed then (s, .reduceBusy, none) else (meteorPut s who off d p, .done, none)
  | .atomic op wide x y p =>
    if openRed then (s, .reduceBusy, none)
    else
      let r := obtainLine s line ecc
      let n := atomicSize wide
      let old := fieldOf (lineBytes r.2.1) (off % 64) n
      let s := if r.2.2 then r.1
        else writeLine r.1 who line (mergeBytes r.2.1 (off % 64) (natLe n (atomicNew op wide old x.toNat y.toNat)))
          (p && atomicStores op wide old y.toNat)
      (s, .data (natLe n old) r.2.2, none)
  | .contribute c =>
    let r := contributeAt s (homeDie s line * 16 + sliceOf line) (localAddr s 0 line) c
    match r.2.2 with
    | none => (r.1, r.2.1, none)
    | some (red, node) =>
      if red.accum then
        let o := obtainLine r.1 line ecc
        (writeLine o.1 who line (combine red.format o.2.1 node.data) (o.2.2 || node.poison), .done, red.completion)
      else (writeLine r.1 who line node.data node.poison, .done, red.completion)
  | .reduceCancel =>
    ({ s with mem := { s.mem with reductions := s.mem.reductions.filter (fun r => r.addr ≠ localAddr s 0 line) } }, .done, none)

/-- An access to the scratchpad of physical cluster c, at a scratchpad offset; `off` is its window offset. -/
def performWindow (s : State) (off c x : Nat) (kind : AccessKind) (ecc : Ecc) : Done :=
  let addr := localAddr s 2 (((logicalOf s.img c).getD 0) * 2 ^ 22 + x / 64 * 64)
  let slice := dieOfCluster c * 16 + sliceOf off
  let openRed := s.mem.reductions.any (fun r => r.addr = addr)
  match kind with
  | .lineRead =>
    let r := spadRead s c x 64 ecc
    (r.1, .data r.2.1 r.2.2, none)
  | .meteorRead =>
    let r := spadRead s c x 32 ecc
    (r.1, .data r.2.1 r.2.2, none)
  | .lineWrite d p =>
    if openRed then (s, .reduceBusy, none) else ({ s with mem := spadWrite s.mem c x (lineBytes d) p }, .done, none)
  | .partialStore bs p =>
    if openRed then (s, .reduceBusy, none) else ({ s with mem := spadWrite s.mem c x bs p }, .done, none)
  | .meteorWrite d p =>
    if openRed then (s, .reduceBusy, none) else ({ s with mem := spadWrite s.mem c x (natLe 32 d.toNat) p }, .done, none)
  | .atomic op wide a b p =>
    if openRed then (s, .reduceBusy, none)
    else
      let n := atomicSize wide
      let r := spadRead s c x n ecc
      let old := leNat r.2.1
      let s := if r.2.2 then r.1
        else { r.1 with mem := spadWrite r.1.mem c x (natLe n (atomicNew op wide old a.toNat b.toNat)) (p && atomicStores op wide old b.toNat) }
      (s, .data (natLe n old) r.2.2, none)
  | .contribute q =>
    let r := contributeAt s slice addr q
    match r.2.2 with
    | none => (r.1, r.2.1, none)
    | some (red, node) =>
      if red.accum then
        let o := spadRead r.1 c (x / 64 * 64) 64 ecc
        let sum := lineBytes (combine red.format (lineOf o.2.1) node.data)
        ({ o.1 with mem := spadWrite o.1.mem c (x / 64 * 64) sum (o.2.2 || node.poison) }, .done, red.completion)
      else ({ r.1 with mem := spadWrite r.1.mem c (x / 64 * 64) (lineBytes node.data) node.poison }, .done, red.completion)
  | .reduceCancel =>
    ({ s with mem := { s.mem with reductions := s.mem.reductions.filter (fun r => r.addr ≠ addr) } }, .done, none)

/-- Bytes an access of a kind reads. -/
def readSize : AccessKind → Nat
  | .lineRead => 64
  | .meteorRead => 32
  | .atomic _ wide _ _ _ => atomicSize wide
  | _ => 0

/-- What a window access to a cluster in DUSK or NIGHT receives (R91). -/
def windowTimeout (kind : AccessKind) : Answer :=
  if readSize kind = 0 then .timeout else .data (List.replicate (readSize kind) 0xFF#8) false

/-- The home slice asks the ports that hold a line to give it back, once (R440). -/
def backInvalidateAsk (s : State) (off : Nat) : State :=
  if s.mem.waiting.any (fun w => w.addr / 64 = off / 64) then s
  else (s.mem.snoop.filter (fun x => x.line = off / 64)).foldl (fun s x => emit s (.backInvalidate x.port x.line)) s

/-- An access to a hashed or scratchpad-window address of this part (R89 to R91, R112, R113, R239). An access that waits keeps its origin. -/
def localAccess (s : State) (origin : Origin) (who : Requester) (space off : Nat) (kind : AccessKind) (ecc : Ecc) : Done :=
  if space = 0 then
    if !accessFits off kind then (s, .addressError 2, none)
    else if !hashedValid s off then (s, .addressError 3, none)
    else if (match tenantOf s who with
        | some t => !hashedAllowed s t off
        | none => false) then (s, .tenantError, none)
    else if lineHeld s off || holdBlocks s off kind then
      let s := backInvalidateAsk s off
      ({ s with mem := { s.mem with waiting := s.mem.waiting ++ [⟨origin, who, off, kind⟩] } }, .held, none)
    else performHashed s who off kind ecc
  else if space = 2 then
    match windowOf s off with
    | none => (s, .addressError 3, none)
    | some (c, x) =>
      if !accessFits off kind then (s, .addressError 2, none)
      else if (match tenantOf s who with
          | some t => !windowAllowed s t c
          | none => false) then (s, .tenantError, none)
      else if clusterOff s c then (s, windowTimeout kind, none)
      else performWindow s off c x kind ecc
  else (s, .addressError 1, none)

end Sys2Proof.Machine
end

