-- ==== Sys2Proof/Machine/Host.lean ====
section
/-! DEFINITION. The host ports' outbound side (17): the host window's translation, the outbound queue, and what leaves on a link. -/

namespace Sys2Proof.Machine

/-- The link of a port is up and not in L2/L3 Ready. -/
def linkUp (s : State) (p : Nat) : Bool := rd s Fld.HPT_LINK_RATE p ≠ 0 && !(hport s p).l23

/-- A request that waits for a completion (R438). -/
def nonPosted (r : HostReq) : Bool := r.msix.isNone && (r.cxl || !isWrite r.kind)

/-- The data a store carries. -/
def storeData : AccessKind → List Byte × Bool
  | .lineWrite d p => (lineBytes d, p)
  | .partialStore b p => (b, p)
  | .meteorWrite d p => (natLe 32 d.toNat, p)
  | _ => ([], false)

/-- The next 10-bit tag that no open request of the port carries (R435). -/
def nextHostTag (h : HostPort) : Nat :=
  (((List.range 1024).map (fun i => (h.nextTag + i) % 1024)).find? (fun t => !h.open_.any (fun r => r.tag = t))).getD h.nextTag

/-- One request leaves the port; a non-posted one takes a tag. -/
def hostSend1 (s : State) (p : Nat) (r : HostReq) : State :=
  match r.msix with
  | some (f, v) => emit s (.msix p f v)
  | none =>
    let d := storeData r.kind
    let h := hport s p
    let t := if nonPosted r then nextHostTag h else 0
    let s := emit s (.tlp p (isWrite r.kind) r.cxl r.noSnoop r.function t r.hostAddr d.1 d.2)
    if nonPosted r then setHport s p { h with open_ := h.open_ ++ [{ r with tag := t }], nextTag := (t + 1) % 1024 } else s

/-- The outbound queue drains in order while the link is up; 768 non-posted requests may be open (R435, R417). -/
def hostDrainAux : Nat → State → Nat → State
  | 0, s, _ => s
  | n + 1, s, p =>
    if !linkUp s p then s
    else
      match (hport s p).outbound with
      | [] => s
      | r :: t =>
        if nonPosted r && decide ((hport s p).open_.length ≥ 768) then s
        else hostDrainAux n (hostSend1 (setHport s p { hport s p with outbound := t }) p r) p

def hostDrain (s : State) (p : Nat) : State := hostDrainAux (hport s p).outbound.length s p

/-- A request enters the outbound queue, and leaves at once where nothing stops it. -/
def hostPush (s : State) (p : Nat) (r : HostReq) : State :=
  hostDrain (setHport s p { hport s p with outbound := (hport s p).outbound ++ [r] }) p

/-- The outbound table entry of a 2 MiB unit of a window, cached by the port under R237. -/
def outEntry (s : State) (p i : Nat) : State × Nat :=
  match KMap.get (fun _ => none) (hport s p).cache i with
  | some e => (s, e)
  | none =>
    let base := rd64 s Fld.HPT_OTBL_LO_ADDR Fld.HPT_OTBL_HI_ADDR p % 2 ^ 41
    let r := obtainLine s ((base + 8 * i) / 64 * 64) .clean
    let e := fieldOf (lineBytes r.2.1) ((base + 8 * i) % 64) 8
    let h := hport r.1 p
    (setHport r.1 p { h with cache := KMap.set (fun _ => none) h.cache i (some e) }, e)

/-- The part of a table entry that a request carries (R438). -/
def entryValid (e : Nat) : Bool := bitsOf e 0 1 = 1
def entryCxl (e : Nat) : Bool := bitsOf e 1 1 = 1
def entryNoSnoop (e : Nat) : Bool := bitsOf e 2 1 = 1
def entryFunction (e : Nat) : Nat := bitsOf e 4 8
def entryBase (e : Nat) : Nat := e / 2 ^ 21 % 2 ^ 43 * 2 ^ 21

/-- A failed access has no effect and is reported by the port (R438). -/
def outFail (s : State) (p off : Nat) (a : Answer) : State × Answer :=
  (wr64 (flag s Fld.HPT_EVENT_OUT_ERR p) Fld.HPT_OERR_LO_OFFSET Fld.HPT_OERR_HI_OFFSET off p, a)

/-- An access to the host window: OFFSET bit [40] selects the port (R89, R438). -/
def hostAccess (s : State) (origin : Origin) (who : Requester) (off : Nat) (kind : AccessKind) : State × Answer :=
  match kind with
  | .atomic _ _ _ _ _ => (s, .addressError 1)
  | .contribute _ => (s, .addressError 1)
  | .reduceCancel => (s, .addressError 1)
  | _ =>
    if !accessFits off kind then (s, .addressError 2)
    else
      let p := off / 2 ^ 40
      let x := off % 2 ^ 40
      let r := outEntry s p (x / 2 ^ 21)
      let e := r.2
      if !entryValid e then outFail r.1 p x (.addressError 1)
      else if (match tenantOf s who with
          | some t => entryFunction e ≠ 0 && vfTenant s.img p (entryFunction e) ≠ some t
          | none => false) then outFail r.1 p x .tenantError
      else
        let q : HostReq := ⟨0, origin, who, x, entryBase e + x % 2 ^ 21, entryFunction e, entryNoSnoop e, entryCxl e, kind, none⟩
        -- A posted store completes as the queue accepts it (Table 9.1), while the link is down as it leaves the queue (R417).
        if nonPosted q || !linkUp r.1 p then (hostPush r.1 p q, .held)
        else (hostPush r.1 p { q with origin := .nobody }, .done)

end Sys2Proof.Machine
end

