-- ==== Sys2Proof/Machine/Irq.lean ====
section
/-! DEFINITION. The interrupt controller (17): sources, routing, claims, completes and delivery. -/

namespace Sys2Proof.Machine

/-! Sources (Table 17.1) -/

/-- An edge source. -/
def isEdge (n : Nat) : Bool := (0x300 ≤ n && n < 0x400) || (0x800 ≤ n && n < 0xFFF)

/-- A source number that is not reserved. -/
def isSource (n : Nat) : Bool :=
  decide (n ≤ 0x10) || (decide (0x40 ≤ n) && decide (n < 0x58)) || (decide (0x100 ≤ n) && decide (n < 0x220)) ||
  (decide (0x300 ≤ n) && decide (n < 0x500)) || (decide (0x800 ≤ n) && decide (n < 0xFFF))

/-- The level sources that a register of a given content asserts. -/
def assertedBy (img : Image) (off : Nat) (v : BitVec 32) : List Nat :=
  let on (lo w n : Nat) : List Nat := if getBits v lo w ≠ 0 then [n] else []
  if off = Reg.IMG_STATUS then on 30 1 0x000
  else if off = Reg.HUB_ZFILL_STATUS then on 30 1 0x001
  else if off = Reg.HUB_TINV_STATUS then on 1 1 0x002
  else if off = Reg.KVM_EVENT then on 0 5 0x003
  else if off = Reg.FAB_EVENT then on 0 4 0x004
  else if off = Reg.MER_STATUS then on 1 3 0x005
  else if off = Reg.RAS_EVENT then on 1 8 0x006 ++ on 0 1 0x007 ++ on 9 1 0x008
  else if off = Reg.SAF_EVENT then on 0 5 0x009
  else if off = Reg.BST_EVENT then on 0 5 0x00A
  else if off = Reg.SEC_ALARM then on 0 5 0x00B
  else if off = Reg.PWR_EVENT then on 0 4 0x00C
  else if off = Reg.THM_EVENT then on 0 5 0x00D
  else if off = Reg.CKR_EVENT then on 0 7 0x00E
  else
    match Fld.HPT_EVENT_LINK_DOWN.at? off with
    | some (p, _) => on 0 5 (0x00F + p)
    | none =>
      match Fld.STK_EVENT_WHOLD_ON.at? off with
      | some (n, _) => on 0 3 (0x040 + 2 * n) ++ on 3 2 (0x041 + 2 * n)
      | none =>
        match Fld.CLU_FAULT_VALID.at? off with
        | some (c, _) => (logicalOf img c).elim [] (fun l => on 31 1 (0x100 + 2 * l))
        | none =>
          match Fld.CLU_ARR_EVENT_RECOMP.at? off with
          | some (c, _) => (logicalOf img c).elim [] (fun l => on 0 3 (0x101 + 2 * l))
          | none =>
            match Fld.SEQ_LSTAT_STOPPED.at? off with
            | some (n, _) => on Fld.SEQ_LSTAT_STOPPED.lo 1 (0x400 + n)
            | none => []

/-- Level sources asserted now. Every driving bit is 0 at reset, so a register that is not listed asserts nothing. -/
def asserted (s : State) : List Nat := s.regs.flatMap (fun e => assertedBy s.img e.1 e.2)

def inService (s : State) (n : Nat) : Option Context := KMap.get (fun _ => none) s.irq.inService n
def setService (s : State) (n : Nat) (c : Option Context) : State :=
  { s with irq := { s.irq with inService := KMap.set (fun _ => none) s.irq.inService n c } }

/-- Pending sources: a level source while not in service follows its level; a pulse stands (R427). -/
def pendingSources (s : State) : List Nat := (asserted s).filter (fun n => (inService s n).isNone) ++ s.irq.pulsed

def isPending (s : State) (n : Nat) : Bool := (pendingSources s).contains n

def srcCfg (s : State) (n : Nat) : SrcCfg := KMap.get (fun _ => SrcCfg.default) s.irq.cfg n
def setCfg (s : State) (n : Nat) (c : SrcCfg) : State :=
  { s with irq := { s.irq with cfg := KMap.set (fun _ => SrcCfg.default) s.irq.cfg n c } }

/-- The context a source is routed to (R428). -/
def contextOf (c : SrcCfg) : Context :=
  if c.target = 1 then .vector 0 c.function c.vector
  else if c.target = 2 then .vector 1 c.function c.vector
  else if c.target = 3 then .management
  else .supervisor

/-- Claimable sources (R429). -/
def claimable (s : State) : List Nat :=
  (pendingSources s).filter (fun n => (inService s n).isNone && (srcCfg s n).prio ≠ 0)

def claimableAt (s : State) (c : Context) : List Nat := (claimable s).filter (fun n => contextOf (srcCfg s n) = c)

/-- The claimable source with the highest PRIO, ties to the lowest number. -/
def bestSource (s : State) (l : List Nat) : Option Nat :=
  l.foldl (fun b n =>
    match b with
    | none => some n
    | some m =>
      let pn := (srcCfg s n).prio
      let pm := (srcCfg s m).prio
      if pn > pm || (pn = pm && decide (n < m)) then some n else b) none

def gdis (s : State) : Bool := rd s Fld.IRQ_CTRL_GDIS = 1

/-- Key of a function, and of a vector, of a port. -/
def fnKey (p f : Nat) : Nat := p * 256 + f
def vecKey (p f v : Nat) : Nat := fnKey p f * 2048 + v

/-- The message of a vector is sent, or held by a mask in the PBA (R431). -/
def sendMsix (s : State) (p f v : Nat) : State :=
  if fnKey p f ∈ s.irq.msixEnable then
    if fnKey p f ∈ s.irq.msixFnMask ∨ ¬ vecKey p f v ∈ s.irq.msixUnmasked then
      { s with irq := { s.irq with pba := KSet.add s.irq.pba (vecKey p f v) } }
    else
      let s := { s with irq := { s.irq with pba := KSet.del s.irq.pba (vecKey p f v) } }
      hostPush s p ⟨0, .hub .supervisor, .supervisor, 0, 0, f, false, false, .lineRead, some (f, v)⟩
  else s

/-- One delivery of a context (R431). The line of Castor and Pollux is `supLine`. -/
def deliverTo (s : State) (c : Context) : State :=
  match c with
  | .supervisor => s
  | .management =>
    match s.irq.eventReceiver with
    | some r => emit s (.pldmEvent r)
    | none => s
  | .vector p f v => sendMsix s p f v

/-- Contexts that have a claimable source. -/
def liveContexts (s : State) : List Context := ((claimable s).map (fun n => contextOf (srcCfg s n))).dedup

/-- Contexts that gained a claimable source while they had none are delivered; the others are noted (R431, R432). -/
def irqUpdate (s : State) : State :=
  if gdis s then s
  else
    let live := liveContexts s
    let fresh := live.filter (fun c => !s.irq.active.contains c)
    fresh.foldl deliverTo { s with irq := { s.irq with active := live } }

/-- Contexts that lost their last claimable source are noted, without a delivery. -/
def irqForget (s : State) : State :=
  let live := liveContexts s
  { s with irq := { s.irq with active := s.irq.active.filter (fun c => live.contains c) } }

/-- The interrupt line of Castor and Pollux (R431, R432). -/
def supLine (s : State) : Bool := !gdis s && !(claimableAt s .supervisor).isEmpty

/-- A pulse of an edge source (R427). -/
def pulse (s : State) (n : Nat) : State := { s with irq := { s.irq with pulsed := KSet.add s.irq.pulsed n } }

/-- A claim by a context's owner (R430): the source read. -/
def claim (s : State) (c : Context) : State × Nat :=
  if gdis s then (s, 0xFFF)
  else
    match bestSource s (claimableAt s c) with
    | none => (inc s Fld.IRQ_SPURIOUS_COUNT, 0xFFF)
    | some n =>
      let s := setService s n (some c)
      (irqForget { s with irq := { s.irq with pulsed := KSet.del s.irq.pulsed n } }, n)

/-- A complete written to a context (R427, R430). -/
def complete (s : State) (c : Context) (n : Nat) : State :=
  if inService s n = some c then
    let s := setService s n none
    -- The context is delivered when the complete leaves it with a claimable source (R431).
    let s := { s with irq := { s.irq with active := s.irq.active.filter (fun x => x ≠ c) } }
    irqUpdate s
  else flag s Fld.IRQ_STATUS_BADCPL

/-- A write of GDIS (R432). -/
def writeGdis (s : State) (v : Nat) : State :=
  if v = 0 then irqUpdate (wr { s with irq := { s.irq with active := [] } } Fld.IRQ_CTRL_GDIS 0)
  else wr s Fld.IRQ_CTRL_GDIS 1

/-- The context a requester owns at a claim or complete register of the BAR0 view (R430). -/
def vectorContext (who : Requester) (v : Nat) : Option Context :=
  match who with
  | .hostPf p => some (.vector p.val 0 v)
  | .hostVf p f => some (.vector p.val f.val v)
  | _ => none

/-- Vectors of a function (R436). -/
def fnVectors (img : Image) (p f : Nat) : Nat :=
  match img.funcs[p]? with
  | none => 0
  | some r => if f = 0 then r.pfVec else (r.vfs[f - 1]?).elim 0 (·.2)

def ownsSupervisor (who : Requester) : Bool := decide (who = .supervisor)
def ownsManagement : Requester → Bool
  | .mgmt _ => true
  | _ => false

/-- A write of IRQ_SWSET (R443). -/
def swset (s : State) (who : Requester) (n : Nat) : State :=
  if !(mayImage who) then s
  else if 0x800 ≤ n ∧ n < 0xFFF then irqUpdate (pulse s n)
  else s

/-- A routing section takes effect at a switch: sources in service stay where they were claimed; pending ones move (R433). -/
def applyRoutes (s : State) (routes : List IrqRoute) (keep : Nat → Bool) : State :=
  let base := s.irq.cfg.filter (fun e => keep e.1)
  let cfg := routes.foldl (fun m r => KMap.set (fun _ => SrcCfg.default) m r.source ⟨r.prio, r.target, r.function, r.vector⟩) base
  irqUpdate { s with irq := { s.irq with cfg := cfg } }

/-- A host-port reset completes every source in service at the port's contexts and loses the MSI-X tables of its functions (R433). -/
def irqPortReset (s : State) (p : Nat) (f : Option Nat) : State :=
  let mine (q g : Nat) : Bool := q = p && (f.isNone || f = some g)
  let serving := s.irq.inService.filter (fun e => match e.2 with
    | some (.vector q g _) => !mine q g
    | _ => true)
  let keyOk (k : Nat) : Bool := !mine (k / 256) (k % 256)
  { s with irq := { s.irq with
      inService := serving
      active := s.irq.active.filter (fun c => match c with
        | .vector q g _ => !mine q g
        | _ => true)
      msixEnable := s.irq.msixEnable.filter keyOk
      msixFnMask := s.irq.msixFnMask.filter keyOk
      msixUnmasked := s.irq.msixUnmasked.filter (fun k => keyOk (k / 2048))
      pba := s.irq.pba.filter (fun k => keyOk (k / 2048)) } }

end Sys2Proof.Machine
end

