-- ==== Sys2Proof/Machine/Fabric.lean ====
section
/-! DEFINITION. The fabric's links and requests (12): flits, credits and replay, routing, requests to other parts. -/

namespace Sys2Proof.Machine

/-! Packets as bytes (Table 12.3) -/

def packetHeader (p : Packet) : Nat :=
  p.opc % 64 + 2 ^ 6 * (if p.poison then 1 else 0) + 2 ^ 7 * (if p.unchk then 1 else 0) + 2 ^ 10 * p.tag.toNat +
  2 ^ 26 * p.src.toNat + 2 ^ 43 * p.dst.toNat + 2 ^ 60 * p.tenant.val + 2 ^ 70 * p.offset.toNat + 2 ^ 111 * p.space.toNat +
  2 ^ 117 * p.arg.toNat

def packetBytes (p : Packet) : List Byte := natLe 16 (packetHeader p) ++ p.body

/-- Virtual channel of a kind (Table 12.4). -/
def vcOf (opc : Nat) : Nat := if opc < 0x10 then 0 else if opc < 0x20 then 1 else 2

/-! Flits (R312, R313, R315) -/

def portState (s : State) (p : Nat) : Nat := rd s Fld.FAB_PORT_STAT_STATE p

def txKey (n : Nat) : BitVec 256 := Config.sessionKey (2 * n)
def rxKey (n : Nat) : BitVec 256 := Config.sessionKey (2 * n + 1)
def txNonce (n count : Nat) : BitVec 96 := Config.sessionSalt (2 * n) ++ BitVec.ofNat 64 count
def rxNonce (n count : Nat) : BitVec 96 := Config.sessionSalt (2 * n + 1) ++ BitVec.ofNat 64 count

/-- Bytes 0 to 7 of a flit (Table 12.2). -/
def flitHeader (f : Flit) : List Byte :=
  natLe 2 f.seq ++ natLe 2 f.ack ++ natLe 1 (f.vc + (if f.null then 4 else 0) + (if f.nak then 8 else 0)) ++ natLe 1 f.cvc ++
    natLe 2 f.credits

/-- Bytes 0 to 247 of a flit. -/
def flitBody (f : Flit) : List Byte := flitHeader f ++ f.payload ++ natLe 16 f.tag.toNat

/-- The 256 bytes of a flit as sent. -/
def flitBytes (f : Flit) : List Byte := flitBody f ++ natLe 4 (crc32c (flitBody f)) ++ natLe 4 0

/-- A flit read from 256 bytes. -/
def readFlit (b : List Byte) : Flit :=
  let t := fieldOf b 4 1
  ⟨fieldOf b 0 2, fieldOf b 2 2, t % 4, bitsOf t 2 1 = 1, bitsOf t 3 1 = 1, fieldOf b 5 1 % 4, fieldOf b 6 2,
    (b.drop 8).take 224, BitVec.ofNat 128 (fieldOf b 232 16)⟩

/-- A virtual channel whose freed credits are due to be returned. -/
def creditDue (t : Port) : Nat × Nat :=
  match t.freed with
  | (vc, n) :: _ => (vc, Nat.min n 65535)
  | [] => (0, 0)

/-- Fresh keys for both directions of a link; the counts restart (R315). -/
def newKeys (s : State) (p : Nat) : State :=
  setFport { s with fresh := s.fresh + 1 } p { fport s p with key := some s.fresh, sent := 0, received := 0 }

/-- The ends rekey after 2^40 flits in a direction (R315). -/
def rekeyDue (s : State) (p : Nat) : State :=
  if (fport s p).key.isSome && (decide (2 ^ 40 ≤ (fport s p).sent) || decide (2 ^ 40 ≤ (fport s p).received)) then newKeys s p else s

/-- One flit is sealed, kept for replay and sent (R312, R313, R315). -/
def sendFlit (s : State) (p vc : Nat) (payload : List Byte) : State :=
  let t := fport s p
  let c := creditDue t
  let f0 : Flit := ⟨t.txSeq, t.rxSeq, vc, false, false, c.1, c.2, payload, 0#128⟩
  let f := match t.key with
    | none => f0
    | some n =>
      let cipher := Config.gcmCrypt (txKey n) (txNonce n t.sent) payload
      { f0 with payload := cipher, tag := Config.gcmTag (txKey n) (txNonce n t.sent) (flitHeader f0 ++ cipher) }
  let t := { t with
    txSeq := (t.txSeq + 1) % 65536
    replay := t.replay ++ [f]
    clear := t.clear ++ [payload]
    sent := t.sent + 1
    credits := KMap.mod creditReset t.credits vc (· - 1)
    freed := KMap.mod (fun _ => 0) t.freed c.1 (· - c.2) }
  emit (rekeyDue (setFport s p t) p) (.flit p f)

/-- A payload may leave now: the link is UP (virtual channel 2 from SECURING on), the channel has a credit, the replay buffer has room. -/
def maySend (s : State) (p vc : Nat) : Bool :=
  let t := fport s p
  (portState s p = 3 || (vc = 2 && portState s p = 2)) && decide (0 < KMap.get creditReset t.credits vc) &&
    decide (t.replay.length < 1024)

/-- Payloads that wait leave in order within their port and virtual channel (R312, R318). -/
def pumpAux : List (Nat × Nat × List Byte) → List (Nat × Nat) → State → State
  | [], _, s => s
  | (p, vc, b) :: t, stuck, s =>
    if !stuck.contains (p, vc) && maySend s p vc then
      pumpAux t stuck (sendFlit s p vc b)
    else pumpAux t ((p, vc) :: stuck) { s with fab := { s.fab with out := s.fab.out ++ [(p, vc, b)] } }

def pump (s : State) : State := pumpAux s.fab.out [] { s with fab := { s.fab with out := [] } }

/-- Payloads of a packet: 14 slots of 16 bytes each, the last padded with zeros. -/
def payloads : Nat → List Byte → List (List Byte)
  | 0, _ => []
  | _, [] => []
  | n + 1, b => ((b.take 224) ++ List.replicate (224 - (b.take 224).length) 0#8) :: payloads n (b.drop 224)

/-- A packet is sent on a port; each packet begins a flit of its own (log 18). -/
def sendPacket (s : State) (port : Nat) (p : Packet) : State :=
  let b := packetBytes p
  pump { s with fab := { s.fab with
    out := s.fab.out ++ (payloads (b.length + 1) b).map (fun x => (port, vcOf p.opc, x)) } }

/-! Routing (R317) -/

/-- The ports a route entry permits and that are UP, ascending. -/
def eligible (s : State) (dst : Nat) : List Nat :=
  let own := localDevice s
  let i := if dst / 256 = own / 256 then 512 + dst % 256 else dst / 256
  let mask := s.img.fabRoutes.getD i 0
  (List.range 18).filter (fun p => bitsOf mask p 1 = 1 && portState s p = 3)

def routeHash (off : Nat) : Nat := (off / 2 ^ 8 % 2 ^ 16) ^^^ (off / 2 ^ 24 % 2 ^ 16) ^^^ (off / 2 ^ 40 % 2)

/-- The port that carries a packet to a device. -/
def routePort (s : State) (dst off : Nat) : Option Nat :=
  let l := eligible s dst
  if l.isEmpty then none else l[routeHash off % l.length]?

/-- The failure of a request is recorded (R323): side 0 a request of this part, 1 one served here. -/
def fabRecord (s : State) (code side dev : Nat) : State :=
  let s := flag s Fld.FAB_EVENT_ERR
  if rd s Fld.FAB_ERR_VALID = 1 then flag s Fld.FAB_ERR_OVERRUN
  else wr (flag (wr (wr s Fld.FAB_ERR_CODE code) Fld.FAB_ERR_SIDE side) Fld.FAB_ERR_VALID) Fld.FAB_ERR_DEV_DEVICE dev

/-! Requests to other parts (R321 to R324) -/

/-- The next free TAG toward a destination (R316). -/
def freeTagAux (used : List Nat) : Nat → Nat → Nat
  | 0, t => t
  | n + 1, t => if used.contains t then freeTagAux used n ((t + 1) % 65536) else t

/-- A new request waits while an open request to the device would now take another port (R319). -/
def mustHold (s : State) (dst : Nat) : Bool :=
  s.fab.requests.any (fun r => r.packet.dst.toNat = dst &&
    (match r.port with
      | none => true
      | some p => routePort s dst r.packet.offset.toNat ≠ some p))

def openTo (s : State) (dst : Nat) : List FabReq := s.fab.requests.filter (fun r => r.packet.dst.toNat = dst)

/-- A request leaves for another part, is held under R319, or ends UNMAPPED (R88, R317, R320). -/
def fabRequest (s : State) (origin : Origin) (who : Requester) (opc : Nat) (dev space off arg : Nat) (body : List Byte)
    (poison : Bool) : State × Answer :=
  if rd s Fld.FAB_DEVID_VALID = 0 then (s, .addressError 1)
  else
    match routePort s dev off with
    | none => (fabRecord s 1 0 dev, .fabError 1)
    | some port =>
      let t := KMap.get (fun _ => 0) s.fab.nextTag dev
      let tag := freeTagAux ((openTo s dev).map (fun r => r.packet.tag.toNat)) 65536 t
      let ten := tenantOf s who
      let p : Packet := ⟨opc, poison, ten.isNone, BitVec.ofNat 16 tag, BitVec.ofNat 17 (localDevice s), BitVec.ofNat 17 dev,
        Fin.ofNat 1024 (ten.getD 0), BitVec.ofNat 6 space, BitVec.ofNat 41 off, BitVec.ofNat 11 arg, body⟩
      let hold := mustHold s dev || decide ((openTo s dev).length ≥ 65536)
      let s := { s with fab := { s.fab with
        nextTag := KMap.set (fun _ => 0) s.fab.nextTag dev ((tag + 1) % 65536)
        requests := s.fab.requests ++ [⟨p, origin, if hold then none else some port⟩] } }
      (if hold then s else sendPacket s port p, .held)

/-- Held requests toward devices whose old requests are all answered are sent (R319). -/
def releaseRequests (s : State) : State :=
  let ready (r : FabReq) : Bool := r.port.isNone &&
    !(s.fab.requests.any (fun x => x.packet.dst = r.packet.dst && x.port.isSome &&
      routePort s x.packet.dst.toNat x.packet.offset.toNat ≠ x.port))
  let go := s.fab.requests.filter ready
  let s := { s with fab := { s.fab with requests := s.fab.requests.map (fun r =>
    if ready r then { r with port := routePort s r.packet.dst.toNat r.packet.offset.toNat } else r) } }
  go.foldl (fun s r =>
    match routePort s r.packet.dst.toNat r.packet.offset.toNat with
    | some p => sendPacket s p r.packet
    | none => s) s

/-- The code of Table 4.11's operations as AMO SUB (R316, Table 7.13). -/
def amoCode : AtomicOp → Nat
  | .add => 0 | .and => 1 | .or => 2 | .xor => 3 | .smin => 4 | .smax => 5 | .umin => 6 | .umax => 7 | .swap => 8 | .cas => 9

def amoOp (n : Nat) : Option AtomicOp :=
  match n with
  | 0 => some .add | 1 => some .and | 2 => some .or | 3 => some .xor | 4 => some .smin | 5 => some .smax
  | 6 => some .umin | 7 => some .umax | 8 => some .swap | 9 => some .cas | _ => none

def redFormatCode : RedFormat → Nat
  | .fp32 => 0 | .int32 => 1 | .int64 => 2 | .raw => 3

def redFormatOf (n : Nat) : RedFormat :=
  match n % 4 with
  | 0 => .fp32 | 1 => .int32 | 2 => .int64 | _ => .raw

/-- An access to another part as a packet of Table 12.4; a store of less than a burst goes as one WR_BURST that holds the stored bytes
(log 19). -/
def remoteAccess (s : State) (origin : Origin) (who : Requester) (a : GAddr) (kind : AccessKind) : State × Answer :=
  let dev := devOf a
  let sp := spaceOf a
  let off := offOf a
  if !accessFits off kind then (s, .addressError 2)
  else
    match kind with
    | .meteorRead => fabRequest s origin who 0x01 dev sp off 0 [] false
    | .lineRead => fabRequest s origin who 0x02 dev sp off 0 [] false
    | .meteorWrite d p => fabRequest s origin who 0x03 dev sp off 0 (natLe 32 d.toNat) p
    | .partialStore b p => fabRequest s origin who 0x03 dev sp off 0 b p
    | .lineWrite d p => fabRequest s origin who 0x04 dev sp off 0 (lineBytes d) p
    | .atomic op wide x y p =>
      fabRequest s origin who 0x05 dev sp off (amoCode op + (if wide then 16 else 0)) (natLe 8 x.toNat ++ natLe 8 y.toNat) p
    | .contribute c =>
      fabRequest s origin who 0x06 dev sp off (redFormatCode c.format + (if c.accum then 4 else 0))
        (natLe 8 (c.index.toNat % 4096 + (c.count.toNat - 1) % 4096 * 2 ^ 16) ++ natLe 8 ((c.completion.map BitVec.toNat).getD 0) ++
          lineBytes c.data) c.poison
    | .reduceCancel => (s, .addressError 1)

end Sys2Proof.Machine
end

