-- ==== Sys2Proof/Machine/Access.lean ====
section
/-! DEFINITION. Accesses by global address (R87 to R91): where each is served, what its requester receives, completion counts, and the
release of accesses that wait. -/

namespace Sys2Proof.Machine

/-! What a cluster receives (R177, R205) -/

/-- Data of one part of a load or atomic arrives. -/
def fillPart (x : Cluster) (id part : Nat) (b : List Byte) (p : Bool) : Cluster :=
  { x with loads := x.loads.map (fun l =>
    if l.id = id then { l with parts := KMap.set (fun _ => none) l.parts part (some (b, p)) } else l) }

/-- A load that receives no data ends without writing its register. -/
def dropLoad (x : Cluster) (id : Nat) : Cluster := { x with loads := x.loads.filter (fun l => l.id ≠ id) }

def addDeferred (x : Cluster) (cause slot detail pc : Nat) : Cluster :=
  { x with deferred := x.deferred ++ [⟨cause, slot, detail, pc⟩] }

/-- Cause and DETAIL of a failed access (Tables 7.17 and 12.6). A REDUCE failure at another part does not say which of the four it is. -/
def faultOf (s : State) : Answer → Option (Nat × Nat) × State
  | .addressError d => (some (0x04, d), s)
  | .tenantError => (some (0x05, 0), s)
  | .reduceMismatch => (some (0x07, 1), s)
  | .reduceIndex => (some (0x07, 2), s)
  | .reduceDup => (some (0x07, 3), s)
  | .reduceBusy => (some (0x07, 4), s)
  | .fabError c =>
    if c = 4 then (some (0x05, 0), s)
    else if c = 5 then
      let r := free 8 s
      (some (0x07, r.1.toNat), r.2)
    else if c = 1 ∨ c = 2 then (some (0x04, 1), s)
    else (some (0x04, 3), s)
  | _ => (none, s)

/-- A failure of a request that went to another part. -/
def isFabError : Answer → Bool
  | .fabError _ => true
  | _ => false

/-- Cluster c receives the answer of an access of the word at `pc`, slot `slot` (R205, R323). -/
def clusterAnswer (s : State) (c : Nat) (load : Option (Nat × Nat)) (pc slot : Nat) (a : Answer) : State :=
  match a with
  | .data b p => match load with
    | some (id, part) => modCl s c (fun x => fillPart x id part b p)
    | none => s
  | _ =>
    match faultOf s a with
    | (none, s) => s
    | (some (cause, detail), s) =>
      let s := modCl s c (fun x => addDeferred x cause slot detail pc)
      match load with
      | none => s
      | some (id, part) =>
        -- A load that another part fails delivers its data with poison (R323); what data is not stated.
        if isFabError a then
          let r := free 512 s
          modCl r.2 c (fun x => fillPart x id part (lineBytes r.1) true)
        else modCl s c (fun x => dropLoad x id)

/-- The form an answer takes at a hub-side requester: both errors are Unsupported Request at a host port (R90, R239), and a host read of
poison is recorded (R344). -/
def hubAnswer (s : State) (who : Requester) (a : Answer) : State :=
  if isHost who then
    match a with
    | .addressError _ => reply s who .unsupported
    | .tenantError => reply s who .unsupported
    | .fabError _ => reply s who .unsupported
    | .data b true => reply (recordUe s 9 0xF0 0) who (.data b true)
    | a => reply s who a
  else reply s who a

/-! Answers to other parts (R321, R323) -/

/-- A response packet to a request. -/
def response (s : State) (p : Packet) (opc arg : Nat) (body : List Byte) (poison : Bool) : Packet :=
  { p with opc := opc, poison := poison, src := BitVec.ofNat 17 (localDevice s), dst := p.src, arg := BitVec.ofNat 11 arg, body := body }

/-- Table 12.6 for an access served here. -/
def servedCode : Answer → Nat
  | .addressError d => if d = 1 then 2 else 3
  | .tenantError => 4
  | .unsupported => 2
  | .fabError c => c
  | _ => 5

/-- An answer leaves for the requesting part; that of an ATOMIC or RED is kept (R322). -/
def sendResponse (s : State) (p q : Packet) : State :=
  let s := if p.opc = 5 ∨ p.opc = 6 then
      { s with fab := { s.fab with kept := s.fab.kept ++ [⟨p.src.toNat, p.tag.toNat, q⟩] } } else s
  match routePort s p.src.toNat p.offset.toNat with
  | some port => sendPacket s port q
  | none => s

/-- The home point answers a request it has served. -/
def serveAnswer (s : State) (p : Packet) (a : Answer) : State :=
  match a with
  | .data b poison =>
    let body := if p.opc = 5 then b ++ List.replicate (16 - b.length) 0#8 else b
    sendResponse s p (response s p 0x10 0 body poison)
  | .done => sendResponse s p (response s p 0x11 0 [] false)
  | .timeout => sendResponse s p (response s p 0x11 0 [] false)
  | .held => s
  | .retry => s
  | a => sendResponse (fabRecord s (servedCode a) 1 p.src.toNat) p (response s p 0x12 (servedCode a) [] false)

/-! Delivery -/

/-- A DMA's failed access is reported deferred (R205). -/
def dmaFault (s : State) (c id : Nat) (a : Answer) : State :=
  match faultOf s a with
  | (none, s) => s
  | (some (cause, detail), s) =>
    modCl s c (fun x =>
      let x := addDeferred x cause 4 detail ((x.dma.find? (fun d => d.id = id)).elim 0 (·.pc))
      { x with dma := x.dma.map (fun d => if d.id = id then { d with failed := true } else d) })

/-- A CXL.mem request has been performed: the snoop filter holds the line when the host keeps it (R440). -/
def trackLine (s : State) (p line : Nat) (keep : Bool) : State :=
  { s with mem := { s.mem with
      snoop := s.mem.snoop.filter (fun x => !(x.port = p && x.line = line)) ++ (if keep then [⟨p, line⟩] else []) } }

/-- The answer of an access reaches what waits for it. -/
def answerTo (s : State) (o : Origin) (a : Answer) : State :=
  match o with
  | .cluster c load pc slot => clusterAnswer s c load pc slot a
  | .hub who => hubAnswer s who a
  | .served p => serveAnswer s p a
  | .dma c id _ => dmaFault s c id a
  | .cxlMem p line keep =>
    hubAnswer (match a with
      | .data _ _ => trackLine s p line keep
      | .done => trackLine s p line keep
      | _ => s) (.hostPf (Fin.ofNat 2 p)) a
  | .collective _ _ _ => s
  | .shadow => s
  | .nobody => s

/-! Routing by address -/

/-- Local accesses need DEVICE to be the part's own (R88). -/
def isLocal (s : State) (a : GAddr) : Bool := devOf a = localDevice s

/-- A completion count is raised by n: a 64-bit atomic ADD at the word's home (R463). -/
def bump (s : State) (who : Requester) (a : GAddr) (n : Nat) : State :=
  if isLocal s a then (localAccess s .nobody who (spaceOf a) (offOf a) (.atomic .add true (BitVec.ofNat 64 n) 0 false) .clean).1
  else (remoteAccess s .nobody who a (.atomic .add true (BitVec.ofNat 64 n) 0 false)).1

/-- A completion count is raised with poison (R343). -/
def bumpPoison (s : State) (who : Requester) (a : GAddr) (n : Nat) : State :=
  let s := bump s who a n
  if isLocal s a && spaceOf a = 0 && hashedValid s (offOf a) && !lineHeld s (offOf a) then
    let line := offOf a / 64 * 64
    let r := obtainLine s line .clean
    writeLine r.1 who line r.2.1 true
  else s

/-- An access by global address to memory: hashed, scratchpad window, host window, or another part. -/
def access (s : State) (o : Origin) (who : Requester) (a : GAddr) (kind : AccessKind) (ecc : Ecc) : State × Answer :=
  if !isLocal s a then remoteAccess s o who a kind
  else if spaceOf a = 4 then hostAccess s o who (offOf a) kind
  else
    let r := localAccess s o who (spaceOf a) (offOf a) kind ecc
    match r.2.1 with
    | .retry =>
      -- R115: it is resent after 64 core cycles.
      ({ r.1 with mem := { r.1.mem with retries := r.1.mem.retries ++ [⟨o, who, a.toNat, kind⟩] } }, .retry)
    | ans =>
      match r.2.2 with
      | some cpl => (bump r.1 who cpl 1, ans)
      | none => (r.1, ans)

/-- As `answerTo`; a line that a DMA has read is written to its destination (R194). -/
def deliver (s : State) (o : Origin) (a : Answer) : State :=
  match o, a with
  | .dma c id (some k), .data b p =>
    match (cl s c).dma.find? (fun d => d.id = id) with
    | none => s
    | some d =>
      let o := Origin.dma c id none
      let r := access s o (.cluster (Fin.ofNat 152 c)) (BitVec.ofNat 64 (d.dst + 64 * k)) (.lineWrite (lineOf b) p) .clean
      answerTo r.1 o r.2
  | _, _ => answerTo s o a

/-- An access whose answer goes straight to what waits for it. -/
def accessFor (s : State) (o : Origin) (who : Requester) (a : GAddr) (kind : AccessKind) (ecc : Ecc) : State :=
  let r := access s o who a kind ecc
  deliver r.1 o r.2

/-! Release of accesses that wait -/

/-- What holds a line back, waiting accesses themselves apart. -/
def lineBlocked (s : State) (off : Nat) : Bool := lineHeld { s with mem := { s.mem with waiting := [] } } off

/-- The first waiting access that nothing holds back any more: every access to one line keeps its place. -/
def nextFree (s : State) : Option (Waiting × List Waiting) :=
  takeFirst (fun w =>
    !(lineBlocked s w.addr || holdBlocks s w.addr w.kind) &&
    (match s.mem.waiting.find? (fun v => v.addr / 64 = w.addr / 64) with
      | some v => v = w
      | none => true)) s.mem.waiting

/-- Waiting accesses proceed while any can. -/
def releaseAux : Nat → State → State
  | 0, s => s
  | n + 1, s =>
    match nextFree s with
    | none => s
    | some (w, rest) =>
      let s := { s with mem := { s.mem with waiting := rest } }
      let r := performHashed s w.who w.addr w.kind .clean
      let s := deliver r.1 w.origin r.2.1
      releaseAux n (match r.2.2 with
        | some cpl => bump s w.who cpl 1
        | none => s)

def releaseWaiting (s : State) : State := releaseAux s.mem.waiting.length s

/-! Accesses of the part's own engines -/

/-- A line as an engine reads it, with its poison: none where it cannot be read (R90, R239). -/
def engineRead (s : State) (who : Requester) (a : GAddr) : State × Option (BitVec 512 × Bool) :=
  if !isLocal s a then (s, none)
  else if spaceOf a = 0 then
    let off := offOf a / 64 * 64
    if !hashedValid s off || (tenantOf s who).any (fun t => !hashedAllowed s t off) then (s, none)
    else
      match s.load.hold with
      | some h =>
        if placeOf s off = .buffer then
          let i := off % 256 / 64
          (s, some (lineOf ((h.bytes.drop (i * 64)).take 64), h.poison.getD i false))
        else let r := obtainLine s off .clean; (r.1, some r.2)
      | none => let r := obtainLine s off .clean; (r.1, some r.2)
  else if spaceOf a = 2 then
    match windowOf s (offOf a) with
    | none => (s, none)
    | some (c, x) =>
      if (tenantOf s who).any (fun t => !windowAllowed s t c) then (s, none)
      else (s, some (lineOf (spadBytes s.mem c (x / 64 * 64) 64), spadPoisoned s.mem c (x / 64 * 64) 64))
  else (s, none)

/-- Consecutive bytes as an engine reads them, and whether any carries poison: none where a line cannot be read. -/
def engineBytes (s : State) (who : Requester) (a n : Nat) : State × Option (List Byte × Bool) :=
  let r := (List.range ((a + n + 63) / 64 - a / 64)).foldl (fun (r : State × Option (List Byte × Bool)) i =>
    match r.2 with
    | none => r
    | some (bs, p) =>
      let q := engineRead r.1 who (BitVec.ofNat 64 (a / 64 * 64 + 64 * i))
      (q.1, q.2.map (fun l => (bs ++ lineBytes l.1, p || l.2)))) (s, some ([], false))
  (r.1, r.2.map (fun x => ((x.1.drop (a % 64)).take n, x.2)))

/-- Bytes of one line written by an engine. -/
def engineStore (s : State) (who : Requester) (a : Nat) (bs : List Byte) (p : Bool) : State :=
  if bs = [] then s
  else (access s .nobody who (BitVec.ofNat 64 a)
    (if bs.length = 64 ∧ a % 64 = 0 then .lineWrite (lineOf bs) p else .partialStore bs p) .clean).1

/-- Consecutive bytes written by an engine, line by line; `fuel` bounds the lines. -/
def engineWriteAux (who : Requester) (p : Bool) : Nat → State → Nat → List Byte → State
  | 0, s, _, _ => s
  | n + 1, s, a, bs =>
    if bs = [] then s
    else
      let k := 64 - a % 64
      engineWriteAux who p n (engineStore s who a (bs.take k) p) (a + k) (bs.drop k)

def engineWrite (s : State) (who : Requester) (a : Nat) (bs : List Byte) (p : Bool) : State :=
  engineWriteAux who p (bs.length / 64 + 2) s a bs

end Sys2Proof.Machine
end

