-- ==== Sys2Proof/Machine/Vector.lean ====
section
/-! DEFINITION. Scalar and vector operations of the cluster core (07 R199 to R201, 03 R86). -/

namespace Sys2Proof.Machine

/-! The S slot -/

def sgn64 (x : Nat) : Int := signedOf 64 x
def toU64 (x : Int) : Nat := (x % 2 ^ 64).toNat

/-- Operations sD := sA op sB of Table 7.15, opcodes 0x01 to 0x12. -/
def scalarOp (op a b : Nat) : Option Nat :=
  match op with
  | 0x01 => some ((a + b) % 2 ^ 64)
  | 0x02 => some ((a + 2 ^ 64 - b) % 2 ^ 64)
  | 0x03 => some (a * b % 2 ^ 64)
  | 0x04 => some (toU64 (sgn64 a * sgn64 b / 2 ^ 64))
  | 0x05 => some (a &&& b)
  | 0x06 => some (a ||| b)
  | 0x07 => some (a ^^^ b)
  | 0x08 => some (if b ≥ 64 then 0 else a * 2 ^ b % 2 ^ 64)
  | 0x09 => some (if b ≥ 64 then 0 else a / 2 ^ b)
  | 0x0A => some (toU64 (sgn64 a / 2 ^ Nat.min b 63))
  | 0x10 => some (if a = b then 1 else 0)
  | 0x11 => some (if sgn64 a < sgn64 b then 1 else 0)
  | 0x12 => some (if a < b then 1 else 0)
  | _ => none

/-! Lanes (R178, R200) -/

/-- Element e of `w` bits of a register. -/
def lane (w v e : Nat) : Nat := bitsOf v (w * e) w

/-- Elements placed one after another from bit 0. -/
def packLanes (w : Nat) (xs : List Nat) : Nat := xs.foldr (fun x a => x % 2 ^ w + 2 ^ w * a) 0

/-- The first n elements of `w` bits, those a mask names replaced; the bits above keep their values. -/
def setLanes (w n old mask : Nat) (f : Nat → Nat) : Nat :=
  packLanes w ((List.range n).map (fun e => if mask.testBit e then f e else lane w old e)) + old / 2 ^ (w * n) * 2 ^ (w * n)

/-- Distance of elements in a register (R200). -/
def stride (fmt : Nat) : Nat := if fmt = 10 then 64 else if fmt ≤ 2 then 32 else fmtWidth fmt

/-- Elements a register holds of a format that lies in lanes. -/
def laneCount (fmt : Nat) : Nat := if fmt = 10 then 32 else 64

/-- The format an operation computes in (R86). -/
def computeFmt (fmt : Nat) : Fmt := if fmt = 10 then fp64 else fp32

def fmtOr32 (fmt : Nat) : Fmt := (fmtOf fmt).getD fp32

/-- An operand widened exactly to FP32 (R86). -/
def widen (fmt x : Nat) : Nat :=
  if fmt = 1 ∨ fmt = 2 then (convertF fp32 false none (decodeF (fmtOr32 fmt) (x % 2 ^ 16))).1 else x

/-- A result converted back (R86). -/
def narrow (fmt : Nat) (r : Nat × Flags) : Nat × Flags :=
  if fmt = 1 ∨ fmt = 2 then
    let c := convertF (fmtOr32 fmt) false none (decodeF fp32 r.1)
    (c.1, r.2 ||| c.2)
  else r

/-- Floating-point operations of Table 7.15, opcodes 0x01 to 0x0C. -/
def floatOp (f : Fmt) (op a b c : Nat) : Nat × Flags :=
  match op with
  | 0x01 => fAdd f a b
  | 0x02 => fSub f a b
  | 0x03 => fMul f a b
  | 0x04 => fFma f a b c
  | 0x05 => fDiv f a b
  | 0x06 => fSqrt f a
  | 0x07 => fMin f a b
  | 0x08 => fMax f a b
  | 0x09 => fExp2 f a
  | 0x0A => fLog2 f a
  | 0x0B => fRcp f a
  | _ => fRsq f a

/-- Integer operations on 32-bit lanes, opcodes 0x10 to 0x18. -/
def intOp (op a b : Nat) : Nat :=
  match op with
  | 0x10 => (a + b) % 2 ^ 32
  | 0x11 => (a + 2 ^ 32 - b) % 2 ^ 32
  | 0x12 => a * b % 2 ^ 32
  | 0x13 => a &&& b
  | 0x14 => a ||| b
  | 0x15 => a ^^^ b
  | 0x16 => if b ≥ 32 then 0 else a * 2 ^ b % 2 ^ 32
  | 0x17 => if b ≥ 32 then 0 else a / 2 ^ b
  | _ => ((signedOf 32 a / 2 ^ Nat.min b 31) % 2 ^ 32).toNat

/-- Compares, opcodes 0x20 to 0x22. -/
def compareOp (f : Fmt) (op a b : Nat) : Bool :=
  match op with
  | 0x20 => fEq f a b
  | 0x21 => fLt f a b
  | _ => fLe f a b

/-- One step of a cross-lane reduction, opcodes 0x30 to 0x32. -/
def reduceOp (f : Fmt) (op : Nat) (a b : Nat × Flags) : Nat × Flags :=
  let r := if op = 0x30 then fAdd f a.1 b.1 else if op = 0x31 then fMax f a.1 b.1 else fMin f a.1 b.1
  (r.1, a.2 ||| b.2 ||| r.2)

/-! The V slot -/

/-- A V-slot operation (R199). -/
structure VecOp where
  opc : Nat
  fmt : Nat
  d : Nat
  a : Nat
  b : Nat
  c : Nat
  p : Nat
  neg : Bool
  s : Nat
  sr : Bool
  sat : Bool
  dfmt : Nat
  pd : Nat
  deriving DecidableEq, Repr

def VecOp.isFloat (o : VecOp) : Bool := 0x01 ≤ o.opc && o.opc ≤ 0x0C
def VecOp.isInt (o : VecOp) : Bool := 0x10 ≤ o.opc && o.opc ≤ 0x18
def VecOp.isCompare (o : VecOp) : Bool := 0x20 ≤ o.opc && o.opc ≤ 0x22
def VecOp.isConvert (o : VecOp) : Bool := o.opc = 0x28
def VecOp.isReduce (o : VecOp) : Bool := 0x30 ≤ o.opc && o.opc ≤ 0x32
def VecOp.isBcast (o : VecOp) : Bool := o.opc = 0x38
def VecOp.isSelect (o : VecOp) : Bool := o.opc = 0x39
def VecOp.known (o : VecOp) : Bool :=
  o.isFloat || o.isInt || o.isCompare || o.isConvert || o.isReduce || o.isBcast || o.isSelect

/-- Vector sources: vA, vB, vC as the operation uses them. -/
def VecOp.sources (o : VecOp) : List Nat :=
  if o.isBcast then []
  else if o.isConvert || o.isReduce || o.opc = 0x06 || (0x09 ≤ o.opc && o.opc ≤ 0x0C) then [o.a]
  else if o.opc = 0x04 then [o.a, o.b, o.c]
  else [o.a, o.b]

/-- Scalar sources: sS of BCAST, and the three rounding inputs of a CVT with SR (R201). -/
def VecOp.scalars (o : VecOp) : List Nat :=
  if o.isBcast then [o.s] else if o.isConvert && o.sr then [o.s, o.s + 1, o.s + 2] else []

/-- The fault a V slot raises by its fields alone: ILLEGAL (1) or ATTR (2), or 0 (R199, R201, R67). -/
def VecOp.fault (o : VecOp) : Nat :=
  if !o.known then 1
  else if !o.isConvert && (o.dfmt ≠ 0 || o.sr || o.sat) then 1
  else if (o.isInt || o.isBcast || o.isSelect) && o.fmt ≠ 0 then 1
  else if o.isConvert && o.sr && o.s > 53 then 1
  else if (o.isFloat || o.isCompare) && !([0, 1, 2, 10].contains o.fmt) then 2
  else if o.isReduce && !([0, 10].contains o.fmt) then 2
  else if o.isConvert && (o.fmt > 10 || o.dfmt > 10) then 2
  else if o.isConvert && o.sr && !isNarrow o.dfmt then 2
  else 0

/-- Registers as a V slot reads them: v0 to v31, s0 to s63, and the predicate's bits with PNEG applied. -/
structure VecIn where
  v : Nat → Nat
  s : Nat → Nat
  mask : Nat
  /-- pD, and the free value of a reduction over no lane (log 9). -/
  pd : Nat
  none_ : Nat

/-- CVT (R200, R201): the element count is that of the wider side's lanes. -/
def convertLanes (o : VecOp) (i : VecIn) : Nat :=
  let n := if o.fmt = 10 ∨ o.dfmt = 10 then 32 else 64
  let src := fmtOr32 o.fmt
  let dst := fmtOr32 o.dfmt
  let one (e : Nat) : Nat :=
    let sr := if o.sr then some (srDraw (i.s o.s) (i.s (o.s + 1) % 2 ^ 32) ((i.s (o.s + 2) + e) % 2 ^ 64)) else none
    (convertF dst o.sat sr (decodeF src (lane (stride o.fmt) (i.v o.a) e % 2 ^ src.width))).1
  let w := stride o.dfmt
  let old := i.v o.d
  if o.dfmt ≤ 2 ∨ o.dfmt = 10 then setLanes w n old i.mask one
  else setLanes w n (old % 2 ^ (w * n)) i.mask one

/-- The value a V slot writes: to vD, or to pD for a compare. -/
def vectorOp (o : VecOp) (i : VecIn) : Nat :=
  let f := computeFmt o.fmt
  let w := stride o.fmt
  let n := laneCount o.fmt
  let el (r e : Nat) : Nat := widen o.fmt (lane w (i.v r) e)
  if o.isFloat then
    setLanes w n (i.v o.d) i.mask (fun e => (narrow o.fmt (floatOp f o.opc (el o.a e) (el o.b e) (el o.c e))).1)
  else if o.isInt then
    setLanes 32 64 (i.v o.d) i.mask (fun e => intOp o.opc (lane 32 (i.v o.a) e) (lane 32 (i.v o.b) e))
  else if o.isCompare then
    setLanes 1 n i.pd i.mask (fun e => if compareOp f o.opc (el o.a e) (el o.b e) then 1 else 0)
  else if o.isConvert then convertLanes o i
  else if o.isReduce then
    let xs := ((List.range n).filter (fun e => i.mask.testBit e)).map (fun e => (lane w (i.v o.a) e, 0#8))
    match tree (reduceOp f o.opc) xs with
    | some r => r.1
    | none => i.none_ % 2 ^ w
  else if o.isBcast then setLanes 32 64 (i.v o.d) i.mask (fun _ => i.s o.s)
  else packLanes 32 ((List.range 64).map (fun e => lane 32 (i.v (if i.mask.testBit e then o.a else o.b)) e))

/-- Every lane of the destination is written. -/
def fullWrite (o : VecOp) (mask : Nat) : Bool :=
  if o.isReduce || o.isSelect then true
  else
    let n := if o.isConvert then (if o.fmt = 10 ∨ o.dfmt = 10 then 32 else 64) else laneCount o.fmt
    let all := (List.range n).all (fun e => mask.testBit e)
    if o.isConvert && n = 32 && o.dfmt ≤ 2 then false else if o.isCompare && n = 32 then false else all

end Sys2Proof.Machine
end

