-- ==== Sys2Proof/Machine/Operands.lean ====
section
/-! DEFINITION. The wide word (07 R176 to R199): its slots, their fields and operations, the registers a word reads and writes, and the
faults of its fields alone. -/

namespace Sys2Proof.Machine

/-- A register an operation reads or writes. -/
inductive Reg3 where
  | s (n : Nat)
  | v (n : Nat)
  | p (n : Nat)
  deriving DecidableEq, Repr

/-- S-slot operations (Table 7.15). -/
inductive ScalarInstr where
  | alu (op d a b : Nat)
  | movi (d imm : Nat)
  | addi (d a imm : Nat)
  | vext (d v lane : Nat)
  | pset (p a : Nat)
  | pget (d p : Nat)
  deriving DecidableEq, Repr

/-- The fields of a TILE (Table 7.10). -/
structure TileFields where
  bank : Nat
  pack : Nat
  drain : Nat
  cont : Bool
  thin : Bool
  tag : Nat
  desc : Nat
  qa : Nat
  qb : Nat
  qd : Nat
  deriving DecidableEq, Repr

inductive MatrixInstr where
  | mnop
  | tile (f : TileFields)
  | tsync
  deriving DecidableEq, Repr

/-- L-slot operations (Table 7.12). Immediates are taken as signed. -/
inductive LoadInstr where
  | lnop
  | feed (h a : Nat)
  | lds (d a size : Nat) (imm : Int)
  | ldv (d a : Nat) (imm : Int)
  | mld (d piece a : Nat) (imm : Int)
  | scmd (h a b : Nat)
  | dma (h a : Nat)
  deriving DecidableEq, Repr

/-- D-slot operations (Table 7.13). -/
inductive StoreInstr where
  | dnop
  | sts (a b size : Nat) (imm : Int)
  | stv (a v : Nat) (imm : Int)
  | mst (a v piece : Nat) (imm : Int)
  | amo (op : AtomicOp) (wide : Bool) (a b c d : Nat)
  | red (a v quarter fmt : Nat) (accum : Bool) (c d : Nat)
  | rcan (a : Nat)
  deriving DecidableEq, Repr

/-- Q-slot operations (Table 7.14). -/
inductive QueueInstr where
  | qnop
  | qwait (h n lines : Nat)
  | qstat (d h : Nat)
  | qbind (h kind a : Nat)
  | dpop (d h : Nat)
  | fence (scope : Nat)
  | br (imm : Int)
  | brz (a : Nat) (imm : Int)
  | brnz (a : Nat) (imm : Int)
  | brany (p : Nat) (imm : Int)
  | brall (p : Nat) (imm : Int)
  | call (d : Nat) (imm : Int)
  | jr (a : Nat)
  | launch (h a : Nat)
  | halt
  | icinv
  | merwait (a : Nat)
  deriving DecidableEq, Repr

/-- A wide word's enabled slots. -/
structure WideWord where
  s : Option ScalarInstr
  v : Option VecOp
  m : Option MatrixInstr
  l : Option LoadInstr
  d : Option StoreInstr
  q : Option QueueInstr
  deriving DecidableEq, Repr

/-- A fault: cause (Table 7.17), slot (Table 7.7), detail. -/
structure WordFault where
  cause : Nat
  slot : Nat
  detail : Nat
  deriving DecidableEq, Repr

def illegal (slot : Nat) : WordFault := ⟨0x01, slot, 0⟩

/-! Slots (Table 7.1) -/

def slotS (w : Nat) : Nat := bitsOf w 32 96
def slotV (w : Nat) : Nat := bitsOf w 128 96
def slotM (w : Nat) : Nat := bitsOf w 224 64
def slotL (w : Nat) : Nat := bitsOf w 288 96
def slotD (w : Nat) : Nat := bitsOf w 384 64
def slotQ (w : Nat) : Nat := bitsOf w 448 64

def scalarAluOps : List Nat := [1, 2, 3, 4, 5, 6, 7, 8, 9, 10, 0x10, 0x11, 0x12]

/-- The S slot (R199). -/
def decodeS (x : Nat) : Option ScalarInstr :=
  let op := bitsOf x 0 8
  let d := bitsOf x 8 6
  let a := bitsOf x 14 6
  let b := bitsOf x 20 6
  let imm := bitsOf x 32 64
  if bitsOf x 26 6 ≠ 0 then none
  else if scalarAluOps.contains op then some (.alu op d a b)
  else
    match op with
    | 0x18 => some (.movi d imm)
    | 0x19 => some (.addi d a imm)
    | 0x20 => some (.vext d (a % 32) (imm % 64))
    | 0x21 => some (.pset (d % 8) a)
    | 0x22 => some (.pget d (a % 8))
    | _ => none

/-- The V slot's fields (R199). -/
def vecFields (x : Nat) : VecOp :=
  ⟨bitsOf x 0 8, bitsOf x 8 4, bitsOf x 12 5, bitsOf x 17 5, bitsOf x 22 5, bitsOf x 27 5, bitsOf x 32 3, bitsOf x 35 1 = 1,
    bitsOf x 36 6, bitsOf x 42 1 = 1, bitsOf x 43 1 = 1, bitsOf x 44 4, bitsOf x 48 3⟩

/-- The M slot (Table 7.10). QB is zero for ENG 1. -/
def decodeM (x : Nat) : Option MatrixInstr :=
  if bitsOf x 48 16 ≠ 0 then none
  else
    match bitsOf x 0 6 with
    | 0x00 => some .mnop
    | 0x01 =>
      let f : TileFields := ⟨bitsOf x 6 2, bitsOf x 8 2, bitsOf x 10 2, bitsOf x 12 1 = 1, bitsOf x 13 1 = 1, bitsOf x 14 16,
        bitsOf x 30 6, bitsOf x 36 4, bitsOf x 40 4, bitsOf x 44 4⟩
      if f.thin && f.qb ≠ 0 then none else some (.tile f)
    | 0x02 => some .tsync
    | _ => none

/-- The L slot (Table 7.12). -/
def decodeL (x : Nat) : Option LoadInstr :=
  let d := bitsOf x 6 6
  let a := bitsOf x 12 6
  let b := bitsOf x 18 6
  let h := bitsOf x 24 4
  let sz := bitsOf x 28 3
  let imm := signedOf 32 (bitsOf x 32 32)
  if bitsOf x 31 1 ≠ 0 ∨ bitsOf x 64 32 ≠ 0 then none
  else
    match bitsOf x 0 6 with
    | 0x00 => some .lnop
    | 0x01 => some (.feed h a)
    | 0x02 => if sz > 3 then none else some (.lds d a (2 ^ sz) imm)
    | 0x03 => some (.ldv (d % 32) a imm)
    | 0x04 => some (.mld (d % 32) sz a imm)
    | 0x05 => some (.scmd h a b)
    | 0x06 => some (.dma h a)
    | _ => none

/-- The D slot (Table 7.13). SZ of AMO is the width its row gives (log 24). -/
def decodeD (x : Nat) : Option StoreInstr :=
  let op := bitsOf x 0 6
  let a := bitsOf x 6 6
  let b := bitsOf x 12 6
  let c := bitsOf x 18 6
  let d := bitsOf x 24 6
  let sz := bitsOf x 30 2
  let sub := bitsOf x 32 4
  let imm := signedOf 24 (bitsOf x 40 24)
  if bitsOf x 37 3 ≠ 0 then none
  else if (op = 0x04 ∨ op = 0x05 ∨ op = 0x06) ∧ imm ≠ 0 then none
  else
    match op with
    | 0x00 => some .dnop
    | 0x01 => some (.sts a b (2 ^ sz) imm)
    | 0x02 => if sz ≠ 0 then none else some (.stv a (b % 32) imm)
    | 0x03 => if sz ≠ 0 then none else some (.mst a (b % 32) (sub % 8) imm)
    | 0x04 =>
      if sz > 1 then none
      else
        match sub with
        | 0 => some (.amo .add (sz = 1) a b c d)
        | 1 => some (.amo .and (sz = 1) a b c d)
        | 2 => some (.amo .or (sz = 1) a b c d)
        | 3 => some (.amo .xor (sz = 1) a b c d)
        | 4 => some (.amo .smin (sz = 1) a b c d)
        | 5 => some (.amo .smax (sz = 1) a b c d)
        | 6 => some (.amo .umin (sz = 1) a b c d)
        | 7 => some (.amo .umax (sz = 1) a b c d)
        | 8 => some (.amo .swap (sz = 1) a b c d)
        | 9 => some (.amo .cas (sz = 1) a b c d)
        | _ => none
    | 0x05 => some (.red a (b % 32) sz (sub % 4) (bitsOf x 36 1 = 1) c d)
    | 0x06 => if sz ≠ 0 then none else some (.rcan a)
    | _ => none

/-- The Q slot (Table 7.14). -/
def decodeQ (x : Nat) : Option QueueInstr :=
  let h := bitsOf x 6 4
  let n := bitsOf x 10 10
  let d := bitsOf x 29 6
  let a := bitsOf x 35 6
  let p := bitsOf x 41 3
  let imm := signedOf 19 (bitsOf x 45 19)
  if bitsOf x 44 1 ≠ 0 then none
  else
    match bitsOf x 0 6 with
    | 0x00 => some .qnop
    | 0x01 => some (.qwait h n (bitsOf x 20 9))
    | 0x02 => some (.qstat d h)
    | 0x03 => if n % 16 > 7 then none else some (.qbind h (n % 16) a)
    | 0x04 => some (.dpop d h)
    | 0x05 => some (.fence (if n % 16 = 0 then 15 else n % 16))
    | 0x06 => some (.br imm)
    | 0x07 => some (.brz a imm)
    | 0x08 => some (.brnz a imm)
    | 0x09 => some (.brany p imm)
    | 0x0A => some (.brall p imm)
    | 0x0B => some (.call d imm)
    | 0x0C => some (.jr a)
    | 0x0D => some (.launch h a)
    | 0x0E => some .halt
    | 0x0F => some .icinv
    | 0x10 => some (.merwait a)
    | _ => none

/-! Registers read and written (R177, R180) -/

def ScalarInstr.reads : ScalarInstr → List Reg3
  | .alu _ _ a b => [.s a, .s b]
  | .movi _ _ => []
  | .addi _ a _ => [.s a]
  | .vext _ v _ => [.v v]
  | .pset _ a => [.s a]
  | .pget _ p => [.p p]

def ScalarInstr.writes : ScalarInstr → List Reg3
  | .alu _ d _ _ => [.s d]
  | .movi d _ => [.s d]
  | .addi d _ _ => [.s d]
  | .vext d _ _ => [.s d]
  | .pset p _ => [.p p]
  | .pget d _ => [.s d]

/-- A V slot also reads its predicate, and its destination where lanes may keep their values. -/
def VecOp.reads (o : VecOp) : List Reg3 :=
  o.sources.map .v ++ o.scalars.map .s ++ [.p o.p] ++
    (if o.isCompare then [.p o.pd] else if o.isReduce || o.isSelect then [] else [.v o.d])

def VecOp.writes (o : VecOp) : List Reg3 := if o.isCompare then [.p o.pd] else [.v o.d]

def MatrixInstr.reads : MatrixInstr → List Reg3
  | .tile f => [.s f.desc]
  | _ => []

def LoadInstr.reads : LoadInstr → List Reg3
  | .lnop => []
  | .feed _ a => [.s a]
  | .lds _ a _ _ => [.s a]
  | .ldv _ a _ => [.s a]
  | .mld d _ a _ => [.s a, .v d]
  | .scmd _ a b => [.s a, .s b]
  | .dma _ a => [.s a]

def LoadInstr.writes : LoadInstr → List Reg3
  | .lds d _ _ _ => [.s d]
  | .ldv d _ _ => [.v d]
  | .mld d _ _ _ => [.v d]
  | _ => []

def StoreInstr.reads : StoreInstr → List Reg3
  | .dnop => []
  | .sts a b _ _ => [.s a, .s b]
  | .stv a v _ => [.s a, .v v]
  | .mst a v _ _ => [.s a, .v v]
  | .amo op _ a b c _ => [.s a, .s b] ++ (if op = .cas then [.s c] else [])
  | .red a v _ _ _ c d => [.s a, .v v, .s c, .s d]
  | .rcan a => [.s a]

def StoreInstr.writes : StoreInstr → List Reg3
  | .amo _ _ _ _ _ d => [.s d]
  | _ => []

def QueueInstr.reads : QueueInstr → List Reg3
  | .qbind _ kind a => if kind > 5 then [.s a] else []
  | .brz a _ => [.s a]
  | .brnz a _ => [.s a]
  | .brany p _ => [.p p]
  | .brall p _ => [.p p]
  | .jr a => [.s a]
  | .launch _ a => [.s a]
  | .merwait a => [.s a]
  | _ => []

def QueueInstr.writes : QueueInstr → List Reg3
  | .qstat d _ => [.s d]
  | .dpop d _ => [.s d]
  | .call d _ => [.s d]
  | _ => []

/-- Control uses (R180): addresses, conditions and targets of branches, targets of QBIND. -/
def WideWord.controls (w : WideWord) : List (Nat × Reg3) :=
  (match w.m with
    | some (.tile f) => [(3, Reg3.s f.desc)]
    | _ => []) ++
  (match w.l with
    | some (.mld _ _ a _) => [(4, Reg3.s a)]
    | some i => i.reads.map (fun r => (4, r))
    | none => []) ++
  (match w.d with
    | some (.sts a _ _ _) => [(5, Reg3.s a)]
    | some (.stv a _ _) => [(5, .s a)]
    | some (.mst a _ _ _) => [(5, .s a)]
    | some (.amo _ _ a _ _ _) => [(5, .s a)]
    | some (.red a _ _ _ _ _ d) => [(5, .s a), (5, .s d)]
    | some (.rcan a) => [(5, .s a)]
    | _ => []) ++
  (match w.q with
    | some (.merwait _) => []
    | some i => i.reads.map (fun r => (6, r))
    | none => [])

/-- Reads and writes of a word by slot. -/
def WideWord.slotReads (w : WideWord) : List Reg3 :=
  (w.s.map (·.reads)).getD [] ++ (w.v.map (·.reads)).getD [] ++ (w.m.map (·.reads)).getD [] ++ (w.l.map (·.reads)).getD [] ++
    (w.d.map (·.reads)).getD [] ++ (w.q.map (·.reads)).getD []

def WideWord.slotWrites (w : WideWord) : List (Nat × Reg3) :=
  ((w.s.map (·.writes)).getD []).map (fun r => (1, r)) ++ ((w.v.map (·.writes)).getD []).map (fun r => (2, r)) ++
    ((w.l.map (·.writes)).getD []).map (fun r => (4, r)) ++ ((w.d.map (·.writes)).getD []).map (fun r => (5, r)) ++
    ((w.q.map (·.writes)).getD []).map (fun r => (6, r))

/-- A register that a write reaches: s0 and p0 discard (R178, log 24). -/
def Reg3.holds : Reg3 → Bool
  | .s n => n ≠ 0
  | .p n => n ≠ 0
  | .v _ => true

/-- A write to a special register, or a second write of one register, faults (R177, R179). -/
def writeFaults : List (Nat × Reg3) → List Reg3 → List WordFault
  | [], _ => []
  | (slot, r) :: t, seen =>
    let special := match r with
      | .s n => decide (n ≥ 56)
      | _ => false
    (if special || (r.holds && seen.contains r) then [illegal slot] else []) ++ writeFaults t (r :: seen)

/-! The word -/

/-- One slot of a word: its operation where enabled, and its fault. -/
def slotOf {α : Type} (en : Bool) (slot bits : Nat) (dec : Nat → Option α) : Option α × List WordFault :=
  if en then
    match dec bits with
    | some x => (some x, [])
    | none => (none, [illegal slot])
  else (none, if bits = 0 then [] else [illegal slot])

/-- The V slot, with the faults of R199. -/
def slotVec (en : Bool) (bits : Nat) : Option VecOp × List WordFault :=
  if en then
    let o := vecFields bits
    if bitsOf bits 51 45 ≠ 0 then (none, [illegal 2])
    else if o.fault = 1 then (none, [illegal 2])
    else if o.fault = 2 then (none, [⟨0x02, 2, 0⟩])
    else (some o, [])
  else (none, if bits = 0 then [] else [illegal 2])

/-- A word read from its 512 bits, and the faults of its fields, in slot order (R176, R177, R179). -/
def readWord (w : Nat) : WideWord × List WordFault :=
  let en (i : Nat) : Bool := bitsOf w i 1 = 1
  let s := slotOf (en 0) 1 (slotS w) decodeS
  let v := slotVec (en 1) (slotV w)
  let m := slotOf (en 2) 3 (slotM w) decodeM
  let l := slotOf (en 3) 4 (slotL w) decodeL
  let d := slotOf (en 4) 5 (slotD w) decodeD
  let q := slotOf (en 5) 6 (slotQ w) decodeQ
  let x : WideWord := ⟨s.1, v.1, m.1, l.1, d.1, q.1⟩
  (x, (if bitsOf w 6 26 ≠ 0 then [illegal 0] else []) ++ s.2 ++ v.2 ++ m.2 ++ l.2 ++ d.2 ++ q.2 ++ writeFaults x.slotWrites [])

end Sys2Proof.Machine
end

