-- ==== Sys2Proof/Machine/Feed.lean ====
section
/-! DEFINITION. Tensor layout, feed descriptors and edge vectors (08 R209 to R219), the skid buffer (06 R162, R163), and the commands of
the feeders. -/

namespace Sys2Proof.Machine

/-! Layout (R209, R210) -/

/-- Bytes of a channel vector of a format. -/
def vectorBytes (fmt : Nat) : Nat := 4 * fmtWidth fmt

/-- Formats that accept block scaling (R65). -/
def blockFmt (fmt : Nat) : Bool := isNarrow fmt || fmt == 8

/-- Elements per block of a BSCALE code, 0 for none. -/
def blockSize (b : Nat) : Nat := if b = 1 then 32 else if b = 2 then 16 else 0

/-! Feed descriptors (R211, R212) -/

/-- A feed descriptor read from its 64 bytes. -/
def readFeed (b : List Byte) (h pc : Nat) : FeedDesc :=
  let ctl := fieldOf b 10 1
  ⟨fieldOf b 0 8, fieldOf b 8 1 % 16, fieldOf b 8 1 / 16 % 4, fieldOf b 9 1 % 16, bitsOf ctl 0 1 = 1, bitsOf ctl 1 1 = 1,
    bitsOf ctl 2 1 = 1, bitsOf ctl 3 1 = 1, fieldOf b 12 2, (List.range 4).map (fun i => fieldOf b (16 + 8 * i) 2),
    (List.range 4).map (fun i => fieldOf b (18 + 8 * i) 6), fieldOf b 48 8, fieldOf b 56 4, h, pc⟩

def FeedDesc.size (d : FeedDesc) (i : Nat) : Nat := d.sizes.getD i 0
def FeedDesc.stride (d : FeedDesc) (i : Nat) : Nat := d.strides.getD i 0

/-- Edge extent E (R213). -/
def FeedDesc.extent (d : FeedDesc) : Nat := if d.trans then 32 * d.vcnt else d.size 0
/-- Edge vectors of one pass, and of the descriptor. -/
def FeedDesc.inner (d : FeedDesc) : Nat := if d.trans then d.size 0 else 32 * d.vcnt
def FeedDesc.vectors (d : FeedDesc) : Nat := d.inner * d.size 1 * d.size 2 * d.size 3

/-- Permitted conversions (Table 8.4). -/
def feedConverts (sfmt sb dfmt : Nat) : Bool :=
  if sfmt = dfmt then sfmt ≤ 9
  else if sb ≠ 0 then dfmt ≤ 2 && blockFmt sfmt
  else if sfmt ≤ 7 then dfmt ≤ 7
  else isIntFmt sfmt && isIntFmt dfmt

/-- An address in this part's hashed space or scratchpad windows. -/
def feedSpace (s : State) (a : Nat) : Bool :=
  let g := BitVec.ofNat 64 a
  isLocal s g && (spaceOf g = 0 || spaceOf g = 2)

/-- The bytes of a descriptor that must be zero (Table 8.2). -/
def feedReserved (b : List Byte) (d : FeedDesc) : Bool :=
  fieldOf b 8 1 < 64 && fieldOf b 9 1 < 16 && fieldOf b 10 1 < 16 && fieldOf b 11 1 = 0 && fieldOf b 14 2 = 0 && fieldOf b 60 4 = 0 &&
    (d.sbscale ≠ 0 || d.scale = 0) && (d.gather || d.glist = 0)

/-- The fault of a descriptor on a feeder of a kind (R212): cause and detail. -/
def feedFault (s : State) (b : List Byte) (kind : Nat) : Option (Nat × Nat) :=
  let d := readFeed b 0 0
  if !feedSpace s d.base || (d.sbscale ≠ 0 && !feedSpace s d.scale) then some (0x04, 1)
  else if d.base % 8 ≠ 0 || (d.gather && d.glist % 8 ≠ 0) then some (0x04, 2)
  else if d.sfmt ≤ 9 && d.strides.any (fun x => x % vectorBytes d.sfmt ≠ 0) then some (0x04, 3)
  else if d.sfmt > 9 || d.dfmt > 9 || !feedConverts d.sfmt d.sbscale d.dfmt || d.sbscale = 3 ||
      (d.sbscale ≠ 0 && (!blockFmt d.sfmt || d.trans)) || (d.side && kind ≠ 3) then some (0x02, 0)
  else if d.sizes.any (· = 0) || d.vcnt = 0 || d.vcnt > 256 || d.extent > 256 || (d.gather && d.size 0 > 4096) ||
      !feedReserved b d then some (0x03, 0)
  else none

/-! Edge vectors (R213 to R216) -/

/-- A gather or scatter list entry: the sum of its coordinates times the strides, and its poison (R214, R222). -/
def listOffset (s : State) (c list r : Nat) (strides : List Nat) : Nat × Bool :=
  let b := spadBytes s.mem c (list + 8 * r) 8
  ((List.range 4).foldl (fun a i => a + fieldOf b (2 * i) 2 * strides.getD i 0) 0, spadPoisoned s.mem c (list + 8 * r) 8)

/-- Element (r, c) of a pass: the byte offset of its vector and the poison of its list entry. -/
def elemOffset (s : State) (cn : Nat) (d : FeedDesc) (r d2 d3 d4 c : Nat) : Nat × Bool :=
  let x := if d.gather then listOffset s cn d.glist r d.strides else (r * d.stride 0, false)
  (x.1 + d2 * d.stride 1 + d3 * d.stride 2 + d4 * d.stride 3 + c / 32 * vectorBytes d.sfmt, x.2)

/-- The elements of edge vector n: vector offset, channel within the run, list poison. -/
def edgeElems (s : State) (cn : Nat) (d : FeedDesc) (n : Nat) : List (Nat × Nat × Bool) :=
  let k := n % d.inner
  let p := n / d.inner
  let d3 := p % d.size 2
  let d4 := p / d.size 2 % d.size 3
  let d2 := p / d.size 2 / d.size 3
  (List.range d.extent).map (fun e =>
    let r := if d.trans then k else e
    let c := if d.trans then e else k
    let o := elemOffset s cn d r d2 d3 d4 c
    (o.1, c, o.2))

/-- First bit of an element and the byte of its scale, as global addresses. -/
def elemBit (d : FeedDesc) (off c : Nat) : Nat := (d.base + off) * 8 + c % 32 * fmtWidth d.sfmt
def scaleByte (d : FeedDesc) (off c : Nat) : Nat :=
  d.scale + off / vectorBytes d.sfmt * d.sbscale + (if d.sbscale = 2 then c % 32 / 16 else 0)

/-- Lines an element needs (global address / 64). -/
def elemLines (d : FeedDesc) (off c : Nat) : List Nat :=
  let b := elemBit d off c
  [b / 512, (b + fmtWidth d.sfmt - 1) / 512] ++ (if d.sbscale = 0 then [] else [scaleByte d off c / 64])

def edgeLines (s : State) (cn : Nat) (d : FeedDesc) (n : Nat) : List Nat :=
  ((edgeElems s cn d n).flatMap (fun e => elemLines d e.1 e.2.1)).dedup

/-- One element as it reaches the edge. -/
structure EdgeElem where
  v : FVal
  fl : Flags
  poison : Bool
  deriving DecidableEq, Repr

/-- Elements beyond the edge extent (R217). -/
def EdgeElem.zero : EdgeElem := ⟨.fin false 0 0, 0#8, false⟩

/-- The value an element is delivered with (R215, R216). -/
def deliverElem (d : FeedDesc) (code : Nat) (scale : Option Nat) : FVal × Flags :=
  let f := fmtOr32 d.sfmt
  if d.sfmt = d.dfmt then (scaled f code scale, 0#8)
  else
    let g := fmtOr32 d.dfmt
    let r := convertF g d.sat none (scaled f code scale)
    (decodeF g r.1, r.2)

/-- An edge vector formed from lines; `look` gives a line's content and poison. -/
def edgeVector (s : State) (cn : Nat) (d : FeedDesc) (n : Nat) (look : Nat → BitVec 512 × Bool) : List EdgeElem :=
  (edgeElems s cn d n).map (fun e =>
    let b := elemBit d e.1 e.2.1
    let w := fmtWidth d.sfmt
    let l0 := look (b / 512)
    let l1 := look ((b + w - 1) / 512)
    let code := bitsOf (l0.1.toNat + (if (b + w - 1) / 512 = b / 512 then 0 else l1.1.toNat * 2 ^ 512)) (b % 512) w
    let sb := scaleByte d e.1 e.2.1
    let sl := look (sb / 64)
    let r := deliverElem d code (if d.sbscale = 0 then none else some (bitsOf sl.1.toNat (sb % 64 * 8) 8))
    ⟨r.1, r.2, l0.2 || l1.2 || e.2.2 || (d.sbscale ≠ 0 && sl.2)⟩)

/-! Streams (R217, R218) -/

def feeder (x : Cluster) (f : Nat) : Feeder := KMap.get (fun _ => Feeder.reset) x.feeders f
def setFeeder (x : Cluster) (f : Nat) (y : Feeder) : Cluster := { x with feeders := KMap.set (fun _ => Feeder.reset) x.feeders f y }

/-- The i-th edge vector of the descriptors from the n-th vector of the first on. -/
def streamAt : List FeedDesc → Nat → Option (FeedDesc × Nat)
  | [], _ => none
  | d :: t, i => if i < d.vectors then some (d, i) else streamAt t (i - d.vectors)

/-- The i-th edge vector that is next to be taken. -/
def Feeder.next (f : Feeder) (i : Nat) : Option (FeedDesc × Nat) := streamAt f.descs (f.taken + i)

/-- Descriptors whose vectors are all taken leave. -/
def dropTaken : List FeedDesc → Nat → List FeedDesc × Nat
  | [], n => ([], n)
  | d :: t, n => if n < d.vectors then (d :: t, n) else dropTaken t (n - d.vectors)

/-- Vectors left in the descriptors of a stream. -/
def Feeder.left (f : Feeder) : Nat := (f.descs.map (·.vectors)).foldl (· + ·) 0 - f.taken

/-- A vector still to be taken needs a line. -/
def wantsLine (s : State) (cn : Nat) (f : Feeder) (l : Nat) : Bool :=
  (List.range f.left).any (fun i => match f.next i with
    | some (d, k) => (edgeLines s cn d k).contains l
    | none => false)

/-- Take n vectors. The lines of a pass are kept while the pass lasts (R219); then those that no vector still to come needs leave. -/
def Feeder.take (s : State) (cn : Nat) (f : Feeder) (n : Nat) : Feeder :=
  let r := dropTaken f.descs (f.taken + n)
  let same : Bool := match f.descs, r.1 with
    | d :: _, e :: _ => decide (f.descs.length = r.1.length) && f.taken / d.inner = r.2 / e.inner
    | _, _ => false
  let g := { f with descs := r.1, taken := r.2 }
  if same then g
  else { g with lines := g.lines.filter (fun p => wantsLine s cn g p.1), lost := g.lost.filter (wantsLine s cn g) }

/-- Lines still to be read for the present pass and the descriptors after it, in descriptor order; `fuel` bounds the vectors looked at. -/
def neededFrom (s : State) (cn : Nat) (f : Feeder) : Nat → Nat → Option Nat
  | 0, _ => none
  | n + 1, i =>
    match f.next i with
    | none => none
    | some (d, k) =>
      match (edgeLines s cn d k).find? (fun l => (KMap.get (fun _ => none) f.lines l).isNone) with
      | some l => some l
      | none => neededFrom s cn f n (i + 1)

/-- The line next in descriptor order that the edge does not hold. -/
def nextLine (s : State) (cn : Nat) (f : Feeder) : Option Nat := neededFrom s cn f f.left 0

/-- Valid lines are released to the edge in descriptor order (R162). -/
def releaseLines (s : State) (cn : Nat) : Nat → Feeder → Feeder
  | 0, f => f
  | n + 1, f =>
    match nextLine s cn f with
    | none => f
    | some l =>
      match f.skid.find? (fun k => k.line = l ∧ k.lo ∧ k.hi) with
      | none => f
      | some k =>
        releaseLines s cn n { f with
          skid := f.skid.filter (fun j => j.line ≠ l)
          lines := KMap.set (fun _ => none) f.lines l (some (k.data, k.poison))
          lost := if k.lost then KSet.add f.lost l else f.lost }

/-- Line entries in use in the queue of a stream; the two thin streams share theirs (R218). -/
def queueLines (x : Cluster) (f : Nat) : Nat :=
  if f < 2 then (feeder x f).skid.length else (feeder x 2).skid.length + (feeder x 3).skid.length
def queueDescs (x : Cluster) (f : Nat) : Nat :=
  if f < 2 then (feeder x f).descs.length else (feeder x 2).descs.length + (feeder x 3).descs.length

/-- First stream of a feeder of a kind (Table 7.8). -/
def feederOf (kind : Nat) : Nat := kind - 1

/-- Edge vector i of a stream is whole: every line it needs is at the edge. -/
def vectorWhole (s : State) (cn : Nat) (f : Feeder) (i : Nat) : Bool :=
  match f.next i with
  | none => false
  | some (d, k) => (edgeLines s cn d k).all (fun l => (KMap.get (fun _ => none) f.lines l).isSome)

def lineLook (f : Feeder) (l : Nat) : BitVec 512 × Bool := (KMap.get (fun _ => none) f.lines l).getD (0#512, true)

/-! Reading operand lines -/

/-- What a feeder's read of a line finds: its data and poison, a fault, or none while the line is held back (R212, R239). -/
inductive LineRead where
  | data (d : BitVec 512) (poison : Bool)
  | fault (cause detail : Nat)
  | held

/-- A feeder of cluster c reads a line at its point of order. -/
def readOperand (s : State) (c : Fin 152) (line : Nat) (ecc : Ecc) : State × LineRead :=
  let a := BitVec.ofNat 64 (line * 64)
  if line * 64 ≥ 2 ^ 64 ∨ !feedSpace s (line * 64) then (s, .fault 0x04 3)
  else if spaceOf a = 0 && hashedValid s (offOf a) && (lineHeld s (offOf a) || holdBlocks s (offOf a) .lineRead) then (s, .held)
  else
    let r := localAccess s .nobody (.cluster c) (spaceOf a) (offOf a) .lineRead ecc
    match r.2.1 with
    | .data b p => (r.1, .data (lineOf b) p)
    | .tenantError => (r.1, .fault 0x05 0)
    | _ => (r.1, .fault 0x04 3)

def halfSeen (k : Skid) (hi : Bool) : Skid := if hi then { k with hi := true } else { k with lo := true }

/-- A line enters its skid slot with one half. -/
def enterLine (s : State) (c : Fin 152) (f line : Nat) (hi : Bool) (d : BitVec 512) (p : Bool) : State :=
  modCl s c.val (fun x =>
    let y := feeder x f
    setFeeder x f { y with skid := y.skid ++ [halfSeen ⟨line, d, p, false, false, false⟩ hi] })

/-- The pc of the FEED whose descriptor needs a line, or of the first. -/
def feedPc (s : State) (c : Nat) (f line : Nat) : Nat :=
  let y := feeder (cl s c) f
  match (List.range y.left).find? (fun i => match y.next i with
      | some (d, k) => (edgeLines s c d k).contains line
      | none => false) with
  | some i => ((y.next i).map (·.1.pc)).getD 0
  | none => 0

/-- A half arrives (R162). The line is read whole at its point of order when its first half arrives. A line that cannot be read is
delivered with poison and a deferred fault; its data is not stated (log 9). -/
def halfArrives (s : State) (c : Fin 152) (f line : Nat) (hi : Bool) (ecc : Ecc) : State :=
  let x := cl s c.val
  let y := feeder x f
  let settle (s : State) : State :=
    modCl s c.val (fun x => setFeeder x f (releaseLines s c.val 64 (feeder x f)))
  match y.skid.find? (fun k => k.line = line) with
  | some k =>
    if k.lost then s
    else settle (modCl s c.val (fun x => setFeeder x f { y with skid := y.skid.map (fun j => if j.line = line then halfSeen k hi else j) }))
  | none =>
    if (KMap.get (fun _ => none) y.lines line).isSome || !wantsLine s c.val y line || decide (queueLines x f ≥ 64) then s
    else
      let r := readOperand s c line ecc
      match r.2 with
      | .held => s
      | .data d p => settle (enterLine r.1 c f line hi d p)
      | .fault cause detail =>
        let pc := feedPc s c.val f line
        let z := free 512 (modCl r.1 c.val (fun x => addDeferred x cause 4 detail pc))
        settle (enterLine z.2 c f line hi z.1 true)

/-- OPERAND_HALF_ARRIVE (R162). -/
def execOperandHalfArrive (c : Fin 152) (stream : Fin 4) (line : BitVec 58) (hi : Bool) (ecc : Ecc) (s : State) : Out :=
  .next (halfArrives (quiet s) c stream.val line.toNat hi ecc)

end Sys2Proof.Machine
end

