-- ==== Sys2Proof/Machine/Geom.lean ====
section
/-! DEFINITION. Page geometries, page rows and checksum words (10 R241 to R243), the page partial and the softmax merge
(05 R118, 10 R254). -/

namespace Sys2Proof.Machine

/-- A page geometry: format code, head dimension, element width and key bytes per token (Table 10.1). -/
structure Geom where
  fmt : Nat
  d : Nat
  width : Nat
  deriving DecidableEq, Repr

/-- Table 10.1 by code; bits [7:4] must be zero (R241). -/
def geomOf (code : Nat) : Option Geom :=
  match code with
  | 0 => some ⟨3, 64, 8⟩
  | 1 => some ⟨3, 128, 8⟩
  | 2 => some ⟨3, 256, 8⟩
  | 3 => some ⟨7, 64, 4⟩
  | 4 => some ⟨7, 128, 4⟩
  | 5 => some ⟨7, 256, 4⟩
  | 6 => some ⟨1, 64, 16⟩
  | 7 => some ⟨1, 128, 16⟩
  | 8 => some ⟨1, 256, 16⟩
  | _ => none

/-- Key bytes per token. -/
def Geom.kb (g : Geom) : Nat := g.d * g.width / 8
/-- Tokens per row (T). -/
def Geom.perRow (g : Geom) : Nat := 1024 / g.kb
/-- Key rows (K), and as many value rows. -/
def Geom.keyRows (g : Geom) : Nat := 64 / g.perRow
def Geom.isFp4 (g : Geom) : Bool := g.fmt == 7
/-- Scale rows. -/
def Geom.scaleRows (g : Geom) : Nat := if g.isFp4 then 1 else 0
/-- Shared scales of one key or value. -/
def Geom.scales (g : Geom) : Nat := if g.isFp4 then g.d / 32 else 0
/-- Bytes of a checksum word (Table 10.2). -/
def Geom.wordBytes (g : Geom) : Nat := if g.isFp4 then 2 else 4
def Geom.words (g : Geom) : Nat := 2 * (g.d + g.scales)
def Geom.sumRows (g : Geom) : Nat := ceilDiv (g.words * g.wordBytes) 1024
/-- First checksum row, and page rows. -/
def Geom.sumRow (g : Geom) : Nat := 2 * g.keyRows + g.scaleRows
def Geom.rows (g : Geom) : Nat := g.sumRow + g.sumRows
/-- Frame rows per bank (F) and frames per bank pair. -/
def Geom.frameRows (g : Geom) : Nat := ceilDiv g.rows 2
def Geom.frames (g : Geom) : Nat := 65536 / g.frameRows
/-- Query format (R241): BF16 for BF16 pages, else FP8-E4M3. -/
def Geom.qfmt (g : Geom) : Nat := if g.fmt = 1 then 1 else 3
def Geom.qBytes (g : Geom) : Nat := if g.fmt = 1 then 2 * g.d else g.d
def Geom.qloadLines (g : Geom) : Nat := ceilDiv g.qBytes 64
def Geom.appendLines (g : Geom) : Nat := ceilDiv (2 * g.kb) 64 + g.scaleRows
/-- Bytes of one record at DEST (R138). -/
def recBytes (d : Nat) : Nat := ceilDiv (16 + 4 * d) 64 * 64

/-- Where slot j's parts lie (R242): key row, value row, byte in both, and bytes of the key and value scales in the scale row. -/
def Geom.keyRow (g : Geom) (j : Nat) : Nat := j / g.perRow
def Geom.valRow (g : Geom) (j : Nat) : Nat := g.keyRows + j / g.perRow
def Geom.slotByte (g : Geom) (j : Nat) : Nat := j % g.perRow * g.kb
def Geom.keyScaleByte (g : Geom) (j : Nat) : Nat := j * g.scales
def Geom.valScaleByte (g : Geom) (j : Nat) : Nat := 512 + j * g.scales

/-- Bank within the pair and DRAM row of page row r (R242). -/
def pageRowAt (base r : Nat) : Nat × Nat := (r % 2, base + r / 2)

/-- Key, value, key scales and value scales of one token. -/
structure Token where
  key : List Byte
  val : List Byte
  keyScale : List Byte
  valScale : List Byte
  deriving DecidableEq, Repr

def slice (bs : List Byte) (off n : Nat) : List Byte := (bs.drop off).take n

/-- Replace bytes of a row from `off` on. -/
def splice (bs : List Byte) (off : Nat) (new : List Byte) : List Byte := bs.take off ++ new ++ bs.drop (off + new.length)

/-- Slot j of a page, given its rows. -/
def slotToken (g : Geom) (row : Nat → List Byte) (j : Nat) : Token :=
  ⟨slice (row (g.keyRow j)) (g.slotByte j) g.kb, slice (row (g.valRow j)) (g.slotByte j) g.kb,
    slice (row (2 * g.keyRows)) (g.keyScaleByte j) g.scales, slice (row (2 * g.keyRows)) (g.valScaleByte j) g.scales⟩

/-- The token of a KV_APPEND payload (R241). -/
def payloadToken (g : Geom) (p : List Byte) : Token :=
  let s := ceilDiv (2 * g.kb) 64 * 64
  ⟨slice p 0 g.kb, slice p g.kb g.kb, slice p s g.scales, slice p (s + g.scales) g.scales⟩

/-- Elements of a channel vector, the first at bit 0. -/
def elemsOf (width n : Nat) (bs : List Byte) : List Nat :=
  let x := leNat bs
  (List.range n).map (fun e => bitsOf x (e * width) width)

/-- V of one element (Table 10.2). -/
def quantity (fmt x : Nat) : Int :=
  if fmt = 1 then (x : Int)
  else if fmt = 3 ∧ x % 128 = 127 then (if x ≥ 128 then -(2 ^ 18) else 2 ^ 18)
  else
    match (fmtOf fmt).map (fun f => decodeF f x) with
    | some (.fin neg m e) => unitsAt neg m e (if fmt = 3 then -9 else -1)
    | _ => 0

/-- The checksum quantities of one token, in word order (Table 10.2). -/
def tokenQuantities (g : Geom) (t : Token) : List Int :=
  (elemsOf g.width g.d t.key).map (quantity g.fmt) ++ t.keyScale.map (fun b => (b.toNat : Int)) ++
  (elemsOf g.width g.d t.val).map (quantity g.fmt) ++ t.valScale.map (fun b => (b.toNat : Int))

/-- Words of checksum rows, laid out one after another. -/
def sumWords (g : Geom) (row : Nat → List Byte) : List Nat :=
  let bs := (List.range g.sumRows).flatMap (fun i => row (g.sumRow + i))
  (List.range g.words).map (fun i => fieldOf bs (i * g.wordBytes) g.wordBytes)

/-- Checksum rows of words; unused bytes are zero. -/
def sumRowBytes (g : Geom) (ws : List Nat) : List (List Byte) :=
  let bs := ws.flatMap (fun w => natLe g.wordBytes w)
  let bs := bs ++ List.replicate (g.sumRows * 1024 - bs.length) 0#8
  (List.range g.sumRows).map (fun i => slice bs (i * 1024) 1024)

/-- A word after one addend is replaced by another, modulo 2^w (R134). -/
def adjust (g : Geom) (w : Nat) (old new : Int) : Nat := (((w : Int) - old + new) % (2 ^ (8 * g.wordBytes) : Int)).toNat

def adjustWords (g : Geom) (ws : List Nat) (old new : List Int) : List Nat :=
  (ws.zip (old.zip new)).map (fun x => adjust g x.1 x.2.1 x.2.2)

/-- The checksum words of a page's data rows (R243). -/
def pageWords (g : Geom) (row : Nat → List Byte) : List Nat :=
  (List.range 64).foldl (fun ws j => adjustWords g ws (List.replicate g.words 0) (tokenQuantities g (slotToken g row j)))
    (List.replicate g.words 0)

/-! Partials (R118, R254) -/

def negInf32 : Nat := 0xFF800000

/-- The empty partial (R132). -/
def emptyPartial (slot d : Nat) : Partial := ⟨slot, negInf32, 0, List.replicate d 0, 0, false⟩

/-- FP32 sum with flags. -/
def sum32 (x y : Nat × Flags) : Nat × Flags := add32 x y

/-- Values of one key or value under its block scales. -/
def tokenValues (g : Geom) (bs scales : List Byte) : List FVal :=
  match fmtOf g.fmt with
  | none => []
  | some f =>
    let sc := scales.map (·.toNat)
    (elemsOf g.width g.d bs).zipIdx.map (fun p => scaled f p.1 (if g.isFp4 then sc[p.2 / 32]? else none))

/-- A sum of products in ascending order, converted once to FP32 (Table 5.2). -/
def dot32 (g : Geom) (anchor : Int) (sat : Bool) (ps : List (FVal × FVal)) : Nat × Flags :=
  if g.fmt = 1 then
    let r := ps.foldl (fun (a : Sum32) p => a.addProd p.1 p.2) Sum32.zero
    (r.bits, r.fl)
  else (ps.foldl (fun (a : Acc) p => a.addProd anchor p.1 p.2) Acc.zero).convert anchor fp32 sat none

/-- Anchor of an attribute word. -/
def attrAnchor (w : Nat) : Int := signedOf 9 (w / 2 ^ 8)
def attrSat (w : Nat) : Bool := bitsOf w 7 1 = 1

/-- The page partial of one query slot over visible tokens in ascending order (R118), and the scores t. -/
def pagePartial (g : Geom) (slot : Nat) (q : QSlot) (ts : List Token) : Partial × List Nat :=
  match fmtOf g.qfmt with
  | none => (emptyPartial slot g.d, [])
  | some qf =>
    let qv := (elemsOf qf.width g.d q.vector).map (decodeF qf)
    let t := ts.map (fun tk =>
      let s := dot32 g (attrAnchor q.sattr) (attrSat q.sattr) (qv.zip (tokenValues g tk.key tk.keyScale))
      let p := fMul fp32 q.scale s.1
      (p.1, p.2 ||| s.2))
    match t with
    | [] => (emptyPartial slot g.d, [])
    | t0 :: rest =>
      let m := rest.foldl (fun a x => (fMax fp32 a x.1).1) t0.1
      let ps := t.map (fun x =>
        let d := fSub fp32 x.1 m
        let p := fExp2 fp32 d.1
        (p.1, x.2 ||| d.2 ||| p.2))
      let l := (ps.drop 1).foldl sum32 (ps.headD (0, 0#8))
      let w := ps.map (fun p => decodeF bf16 (roundIeee bf16 (decodeF fp32 p.1)).1)
      let vs := ts.map (fun tk => tokenValues g tk.val tk.valScale)
      let o := (List.range g.d).map (fun e =>
        dot32 g (attrAnchor q.oattr) (attrSat q.oattr) (w.zip (vs.map (fun v => v.getD e .nan))))
      let fl := o.foldl (fun a x => a ||| x.2) (ps.foldl (fun a x => a ||| x.2) l.2)
      (⟨slot, m, l.1, o.map (·.1), fl.toNat, q.poison⟩, t.map (·.1))

/-- The softmax merge operator of R254. -/
def mergePartial (x y : Partial) : Partial :=
  let m := fMax fp32 x.m y.m
  let fl := BitVec.ofNat 8 x.flags ||| BitVec.ofNat 8 y.flags ||| m.2
  if m.1 = negInf32 then
    { x with m := negInf32, l := 0, o := x.o.map (fun _ => 0), flags := fl.toNat, poison := x.poison || y.poison }
  else
    let d1 := fSub fp32 x.m m.1
    let d2 := fSub fp32 y.m m.1
    let a1 := fExp2 fp32 d1.1
    let a2 := fExp2 fp32 d2.1
    let comb (u v : Nat) : Nat × Flags :=
      let p := fMul fp32 a1.1 u
      let q := fMul fp32 a2.1 v
      let r := fAdd fp32 p.1 q.1
      (r.1, p.2 ||| q.2 ||| r.2)
    let l := comb x.l y.l
    let o := (x.o.zip y.o).map (fun p => comb p.1 p.2)
    let fl := o.foldl (fun a r => a ||| r.2) (fl ||| d1.2 ||| d2.2 ||| a1.2 ||| a2.2 ||| l.2)
    { x with m := m.1, l := l.1, o := o.map (·.1), flags := fl.toNat, poison := x.poison || y.poison }

/-- The record of one slot as the reducer writes it (R138). -/
def recordBytes (p : Partial) : List Byte :=
  let bs := natLe 4 p.m ++ natLe 4 p.l ++ natLe 1 p.flags ++ natLe 1 p.slot ++ natLe 6 0 ++ p.o.flatMap (natLe 4)
  bs ++ List.replicate (recBytes p.o.length - bs.length) 0#8

end Sys2Proof.Machine
end

