-- ==== Sys2Proof/Machine/Array.lean ====
section
/-! DEFINITION. The matrix array and the thin path (06 R151 to R175): tile descriptors, reduction steps, drains, status words, and the
commands of this family. -/

namespace Sys2Proof.Machine

/-! Attribute words of operands and results (R66, R67) -/

def operandFault (w : Nat) : Bool :=
  decide (w % 16 > 9) || bitsOf w 4 2 = 3 || (bitsOf w 4 2 ≠ 0 && !blockFmt (w % 16)) || bitsOf w 6 26 ≠ 0

def resultFault (w : Nat) : Bool :=
  decide (w % 16 > 9) || bitsOf w 4 2 ≠ 0 || bitsOf w 17 15 ≠ 0 || (bitsOf w 6 1 = 1 && !isNarrow (w % 16))

/-- How an operand pair accumulates (Table 3.3). -/
inductive CellClass where
  | exact | single | triple
  deriving DecidableEq, Repr

def cellClass (a b : Nat) : Option CellClass :=
  if (isNarrow a && isNarrow b) || (isIntFmt a && isIntFmt b) then some .exact
  else if a = b ∧ (a = 1 ∨ a = 2) then some .single
  else if a = 0 ∧ b = 0 then some .triple
  else none

/-! Tiles -/

def SubTile.cls (p : SubTile) : CellClass := (cellClass (p.aword % 16) (p.bword % 16)).getD .exact

/-- Quarter core cycles per step of an operand format (Table 6.2, R171). -/
def rateOf (thin : Bool) (pack fmt : Nat) : Nat :=
  if thin then (if fmt = 0 then 24 else if fmt ≤ 2 then 8 else 4)
  else if fmt = 0 then 8
  else if fmt ≤ 2 then [8, 8, 16].getD pack 8
  else if isFp6 fmt then [2, 3, 6].getD pack 2
  else if isFp4 fmt ∨ fmt = 9 then [2, 2, 4].getD pack 2
  else [4, 4, 8].getD pack 4

def SubTile.rate (thin : Bool) (pack : Nat) (p : SubTile) : Nat :=
  Nat.max (rateOf thin pack (p.aword % 16)) (rateOf thin pack (p.bword % 16))

def Tile.rate (t : Tile) : Nat := (t.subs.map (SubTile.rate t.thin t.pack)).foldl Nat.max 0
def Tile.steps (t : Tile) : Nat := (t.subs.map (·.k)).foldl Nat.max 0
/-- Streaming time in core cycles (R153). -/
def Tile.stream (t : Tile) : Nat := ceilDiv (t.rate * t.steps) 4
def Tile.triple (t : Tile) : Bool := !t.thin && t.subs.any (fun p => p.cls = .triple)

/-- Rows and columns of a tile or sub-problem (Table 6.1, R158, R171). -/
def Tile.rows (t : Tile) : Nat := if t.thin then 8 else if t.triple then 64 else [128, 64, 32].getD t.pack 128
def Tile.cols (t : Tile) : Nat := if t.thin then 256 else if t.triple then 64 else [128, 64, 32].getD t.pack 128

/-- Core cycles from the end of streaming to the last product (R154, R171). -/
def Tile.tail (t : Tile) : Nat := if t.thin then 16 else if t.triple then 128 else [256, 128, 64].getD t.pack 256

/-- Banks a tile occupies (R158, R171). -/
def Tile.banks (t : Tile) : List Nat := if t.triple then [0, 1, 2, 3] else [t.bank]

/-- Element width and vector bytes of what the drain writes (R156, R223). -/
def drainWidth (drain : Nat) (p : SubTile) : Nat :=
  if drain = 2 then (if p.cls = .exact then 256 else 32) else fmtWidth (p.rword % 16)

/-- Sub-problems of a PACK code. -/
def packCount (pack : Nat) : Nat := [1, 4, 16].getD pack 1

/-- Sub-problem entry s (Table 7.11). -/
def readSub (b : List Byte) (s : Nat) : SubTile :=
  let f (o n : Nat) := fieldOf b (32 + 32 * s + o) n
  ⟨f 0 4, f 4 4, f 8 4, f 12 2 + 1, f 16 4, f 20 4, f 24 4, f 28 4⟩

/-- A drain layout descriptor (Table 8.5). -/
def readLayout (b : List Byte) : DrainLayout :=
  ⟨fieldOf b 0 1 % 2 = 1, fieldOf b 0 1 / 2 % 2 = 1, (List.range 4).map (fun i => fieldOf b (8 + 4 * i) 4), fieldOf b 24 4,
    fieldOf b 28 2⟩

/-- Scratchpad bytes; those beyond it read as zeros. -/
def localBytes (s : State) (c off n : Nat) : List Byte := spadBytes s.mem c off (Nat.min n (2 ^ 22 - off))

/-- A tile read from its descriptor and the layout it names. -/
def readTile (s : State) (c : Nat) (f : TileFields) (off pc no : Nat) : Tile :=
  let b := localBytes s c off (32 + 32 * 16)
  ⟨f.bank, f.pack, f.drain, f.cont, f.thin, f.tag, fieldOf b 0 8, fieldOf b 8 4, fieldOf b 12 4,
    readLayout (localBytes s c (fieldOf b 16 4) 32), (List.range (packCount f.pack)).map (readSub b), f.qd, no, pc⟩

/-- A drain layout that breaks Table 8.5 for a sub-problem (R221). -/
def layoutFault (b : List Byte) (t : Tile) (p : SubTile) : Bool :=
  let y := readLayout b
  decide (fieldOf b 0 1 ≥ 4) || fieldOf b 1 7 ≠ 0 || fieldOf b 30 2 ≠ 0 ||
    y.strides.any (fun x => x % (4 * drainWidth t.drain p) ≠ 0) ||
    (if y.scatter then
      y.slist % 8 ≠ 0 || decide (y.scount > 4096) || decide (y.scount < Nat.max t.rows t.cols) ||
        decide (y.slist + 8 * y.scount > 2 ^ 22)
    else y.slist ≠ 0 || y.scount ≠ 0)

/-- The fault of one sub-problem entry (R67, R68, R152, R171, R191): cause and whether it is named by its number. -/
def subFault (b : List Byte) (t : Tile) (i : Nat) : Option Nat :=
  let p := readSub b i
  if operandFault p.aword || operandFault p.bword || resultFault p.rword ||
      (cellClass (p.aword % 16) (p.bword % 16)).isNone then some 0x02
  else
    let sofar := { t with subs := t.subs.take (i + 1) }
    if (p.cls = .triple && t.pack ≠ 0) || decide (p.k > 8192) || fieldOf b (32 + 32 * i + 14) 2 ≠ 0 ||
        (p.csrc ≠ 0 && !t.cont && t.drain ≠ 1) || decide (sofar.stream > 8192) then some 0x03
    else none

/-- The first fault of a TILE, in the order header, sub-problems, drain layout: cause and DETAIL (R152, R171, R191, R221). -/
def tileFault (s : State) (c : Nat) (f : TileFields) (off : Nat) : Option (Nat × Nat) :=
  let b := localBytes s c off (32 + 32 * 16)
  let t := readTile s c f off 0 0
  let lay := fieldOf b 16 4
  if f.pack = 3 ∨ f.drain = 3 ∨ fieldOf b 20 12 ≠ 0 ∨ (f.thin = true ∧ (f.bank > 1 ∨ f.pack ≠ 0)) ∨ lay + 32 > 2 ^ 22 then some (0x03, 0)
  else
    match (List.range (packCount f.pack)).findSome? (fun i => (subFault b t i).map (fun x => (x, i))) with
    | some x => some x
    | none => if t.subs.any (layoutFault (localBytes s c lay 32) t) then some (0x03, 0) else none

/-! Runs -/

def TileRun.new (t : Tile) (ph : TilePhase) : TileRun := ⟨t, ph, 0, [], [], [], [], [], 0, [], [], [], 0⟩

def cellKey (sub i j : Nat) : Nat := sub * 65536 + i * 256 + j

/-- The empty accumulator of a class. -/
def emptyCell : CellClass → Cell
  | .exact => .exact Acc.zero
  | .single => .single Sum32.zero
  | .triple => .triple Sum32.zero Sum32.zero Sum32.zero

def subAt (t : Tile) (i : Nat) : SubTile := t.subs.getD i ⟨0, 0, 0, 0, 0, 0, 0, 0⟩

/-- The empty accumulator at a key. -/
def blankCell (t : Tile) (k : Nat) : Cell := emptyCell (subAt t (k / 65536)).cls

/-- One product enters an accumulator (R70, R75, R76). -/
def addTo (anchor : Int) (x : Cell) (a b : FVal) : Cell :=
  match x with
  | .exact r => .exact (r.addProd anchor a b)
  | .single r => .single (r.addProd a b)
  | .triple hh hl lh =>
    let p := splitHiLo a
    let q := splitHiLo b
    .triple (hh.addProd p.1 q.1) (hl.addProdQuiet p.1 q.2) (lh.addProdQuiet p.2 q.1)

/-- Flags and poison that a vector brings to the rows or columns it feeds; `base` is the first key. -/
def edgeFlags (m : KMap (BitVec 8)) (base : Nat) (v : List EdgeElem) : KMap (BitVec 8) :=
  v.zipIdx.foldl (fun m e => KMap.mod (fun _ => 0#8) m (base + e.2) (fun x => x ||| e.1.fl)) m
def edgePoison (m : KSet) (base : Nat) (v : List EdgeElem) : KSet :=
  v.zipIdx.foldl (fun m e => if e.1.poison then KSet.add m (base + e.2) else m) m

/-- A reduction step of one sub-problem enters: every cell adds a_ik × b_kj; positions beyond the edge extents are zero (R151, R217). -/
def subStep (r : TileRun) (i : Nat) (va vb : List EdgeElem) : TileRun :=
  let t := r.tile
  let p := subAt t i
  let anchor := attrAnchor p.rword
  let cells := (List.range t.rows).flatMap (fun y => (List.range t.cols).map (fun x =>
    let k := cellKey i y x
    (k, addTo anchor (KMap.get (blankCell t) r.cells k) (va.getD y .zero).v (vb.getD x .zero).v)))
  { r with
    cells := r.cells.filter (fun e => e.1 < cellKey i 0 0) ++ cells.filter (fun e => e.2 ≠ blankCell t e.1) ++
      r.cells.filter (fun e => cellKey (i + 1) 0 0 ≤ e.1)
    flags := edgeFlags (edgeFlags r.flags (i * 512) va) (i * 512 + 256) vb
    badEdge := edgePoison (edgePoison r.badEdge (i * 512) va) (i * 512 + 256) vb }

/-- Sub-problems that take part in step k (R217). -/
def activeSubs (t : Tile) (k : Nat) : List Nat := (List.range t.subs.length).filter (fun i => k < (subAt t i).k)

def streamA (thin : Bool) : Nat := if thin then 2 else 0
def streamB (thin : Bool) : Nat := if thin then 3 else 1

def isStreaming (thin : Bool) (r : TileRun) : Bool := r.tile.thin = thin && r.phase = .streaming

/-- The step next in turn is whole (R160). -/
def stepWhole (s : State) (c : Nat) (r : TileRun) : Bool :=
  let x := cl s c
  (List.range (activeSubs r.tile r.step).length).all (fun i =>
    vectorWhole s c (feeder x (streamA r.tile.thin)) i && vectorWhole s c (feeder x (streamB r.tile.thin)) i)

/-- The i-th vector of a stream as it enters, with its descriptor and number, and whether it used a line released under R163. -/
def takeVector (s : State) (c : Nat) (f : Feeder) (i : Nat) : List EdgeElem × Option (FeedDesc × Nat) × Bool :=
  match f.next i with
  | none => ([], none, false)
  | some (d, n) => (edgeVector s c d n (lineLook f), some (d, n), (edgeLines s c d n).any (fun l => f.lost.contains l))

/-- Whether a vector suits the operand word that consumes it (R217, R218). -/
def vectorFits (d : FeedDesc) (n word side k : Nat) : Bool :=
  let carried := if d.sfmt = d.dfmt then d.sbscale else 0
  decide (d.extent ≤ side) && d.dfmt = word % 16 && carried = bitsOf word 4 2 &&
    (k ≠ 0 || carried = 0 || n % d.inner % blockSize carried = 0)

/-- The vectors of a stream that a tile takes, in order: its sub-problem and step. -/
def tileTakes (t : Tile) : List (Nat × Nat) :=
  (List.range t.steps).flatMap (fun k => (activeSubs t k).map (fun i => (i, k)))

/-- The first sub-problem whose vectors in a list of takes do not fit. -/
def misfit (f : Feeder) (side : Nat) (word : SubTile → Nat) (t : Tile) (takes : List ((Nat × Nat) × Nat)) : Option Nat :=
  takes.findSome? (fun e => match f.next e.2 with
    | some (d, n) => if vectorFits d n (word (subAt t e.1.1)) side e.1.2 then none else some e.1.1
    | none => none)

/-- The check of R217 over vectors the streams hold now. -/
def tileMisfit (x : Cluster) (t : Tile) (takes : List ((Nat × Nat) × Nat)) : Option Nat :=
  match misfit (feeder x (streamA t.thin)) t.rows (·.aword) t takes with
  | some i => some i
  | none => misfit (feeder x (streamB t.thin)) t.cols (·.bword) t takes

/-! Counters and current control (R164, R175) -/

def bump64 (s : State) (lo hi : Field) (c n : Nat) : State := wr64 s lo hi ((rd64 s lo hi c + n) % 2 ^ 64) c

def level (s : State) (c : Nat) : Nat := rd s Fld.CLU_ARR_STATUS_LEVEL c

/-- Quarter core cycles of dummy activity are counted in whole core cycles. -/
def addDummy (s : State) (c n : Nat) : State :=
  let d := (cl s c).dummy4 + n
  let s := modCl s c (fun x => { x with dummy4 := d % 4 })
  bump64 s Fld.CLU_ARR_DUMMY_LO_COUNT Fld.CLU_ARR_DUMMY_HI_COUNT c (d / 4)

/-- n quarter core cycles of a gap at level 16; those after the first 32 core cycles belong to the ramp-out. -/
def gapTime (s : State) (c n : Nat) : State :=
  let x := cl s c
  let m := if level s c = 16 then Nat.min n (128 - x.gap) else 0
  addDummy (modCl s c (fun x => { x with gap := Nat.min 128 (x.gap + n) })) c m

def oldest (x : Cluster) (thin : Bool) : Option Tile := x.tiles.find? (fun t => t.thin = thin)

/-- A run of the engine holds one of these banks: its drain has not read every line (R155). -/
def bankHeld (x : Cluster) (t : Tile) : Bool :=
  x.runs.any (fun r => r.tile.thin = t.thin && r.phase ≠ .drained && r.phase ≠ .ready && r.tile.banks.any (fun b => t.banks.contains b))

/-- The preload of a CONT tile has ended. -/
def preloaded (x : Cluster) (t : Tile) : Bool := x.runs.any (fun r => r.phase = .ready && r.tile.thin = t.thin)

def preempting (s : State) (c : Nat) : Bool := rd s Fld.CLU_ARR_STATUS_PREEMPT c = 1

/-- The oldest tile of an engine may be admitted, its level apart (R155, R157, R173). -/
def admissible (s : State) (c : Nat) (thin : Bool) : Bool :=
  let x := cl s c
  match oldest x thin with
  | none => false
  | some t =>
    !preempting s c && !bankHeld x t && (!t.cont || preloaded x t) && !x.runs.any (isStreaming thin)

/-- A real step could enter the array, its level apart. -/
def stepReady (s : State) (c : Nat) : Bool :=
  match (cl s c).runs.find? (isStreaming false) with
  | some r => stepWhole s c r
  | none => admissible s c false

/-- Every tile streaming, or on its way to its last product, takes n more quarter core cycles. -/
def holdRuns (x : Cluster) (n : Nat) : Cluster :=
  { x with runs := x.runs.map (fun r => if r.phase = .streaming ∨ r.phase = .tail then { r with time4 := r.time4 + n } else r) }

def frozen (s : State) (c : Nat) : Bool := rd s Fld.CLU_ARR_MODE_FREEZE_ACT c = 1

/-- A run is replaced. -/
def setRun (x : Cluster) (p : TileRun → Bool) (f : TileRun → TileRun) : Cluster := { x with runs := replaceFirst p f x.runs }

/-- Round quarter core cycles up to whole ones. -/
def wholeCycles (n : Nat) : Nat := ceilDiv n 4 * 4

/-! Steps -/

/-- A whole step enters (R151, R160, R217). -/
def enterStep (s : State) (c : Nat) (thin : Bool) (r : TileRun) : State :=
  let x := cl s c
  let fa := feeder x (streamA thin)
  let fb := feeder x (streamB thin)
  let subs := activeSubs r.tile r.step
  let r := subs.zipIdx.foldl (fun (r : TileRun) e =>
    let a := takeVector s c fa e.2
    let b := takeVector s c fb e.2
    let r := subStep r e.1 a.1 b.1
    { r with
      lost := if a.2.2 || b.2.2 then KSet.add r.lost e.1 else r.lost
      srcA := r.srcA ++ (a.2.1.map (fun d => (e.1, d.1, d.2))).toList
      srcB := r.srcB ++ (b.2.1.map (fun d => (e.1, d.1, d.2))).toList }) r
  let k := r.step + 1
  let time := r.time4 + r.tile.rate
  let r := { r with
    step := k
    time4 := if k = r.tile.steps then wholeCycles time else time
    phase := if k = r.tile.steps then TilePhase.tail else .streaming }
  let s := modCl s c (fun x =>
    let x := setFeeder (setFeeder x (streamA thin) (fa.take s c subs.length)) (streamB thin) (fb.take s c subs.length)
    { setRun x (isStreaming thin) (fun _ => r) with gap := if thin then x.gap else 0 })
  bump64 s Fld.CLU_ARR_STEPS_LO_COUNT Fld.CLU_ARR_STEPS_HI_COUNT c 1

/-- A tile that breaks R217 leaves with a deferred TILE fault. -/
def dropTile (s : State) (c : Nat) (t : Tile) (sub : Nat) : State :=
  modCl s c (fun x => addDeferred x 0x03 3 sub t.pc)

/-- A step slot of a streaming tile: its step, or a bubble or held cycle in its place (R160, R161, R164). -/
def streamSlot (s : State) (c : Nat) (thin : Bool) (r : TileRun) : State :=
  if stepWhole s c r then
    match tileMisfit (cl s c) r.tile (((activeSubs r.tile r.step).map (fun i => (i, r.step))).zipIdx) with
    | some i => dropTile (modCl s c (fun x => { x with runs := ((takeFirst (isStreaming thin) x.runs).map (·.2)).getD x.runs })) c r.tile i
    | none => if thin || level s c = 16 then enterStep s c thin r else s
  else if frozen s c then
    bump64 (gapTime (modCl s c (fun x => holdRuns x 4)) c 4) Fld.CLU_ARR_FREEZES_LO_COUNT Fld.CLU_ARR_FREEZES_HI_COUNT c 1
  else
    let s := modCl s c (fun x => setRun x (isStreaming thin) (fun r => { r with time4 := r.time4 + r.tile.rate }))
    if thin then s
    else bump64 (gapTime s c r.tile.rate) Fld.CLU_ARR_BUBBLES_LO_COUNT Fld.CLU_ARR_BUBBLES_HI_COUNT c 1

/-- A slot of the array with no streaming tile: a bubble where R155 stops admission, and a core cycle of the gap (R160, R164). -/
def idleSlot (s : State) (c : Nat) : State :=
  let x := cl s c
  let s := gapTime s c 4
  if (oldest x false).any (bankHeld x) then bump64 s Fld.CLU_ARR_BUBBLES_LO_COUNT Fld.CLU_ARR_BUBBLES_HI_COUNT c 1 else s

/-- ARRAY_STEP (R160): a step slot of the array, or of the thin path. -/
def arrayStep (s : State) (c : Nat) (thin : Bool) : State :=
  match (cl s c).runs.find? (isStreaming thin) with
  | some r => streamSlot s c thin r
  | none => if thin then s else idleSlot s c

def execArrayStep (c : Fin 152) (thin : Bool) (s : State) : Out := .next (arrayStep (quiet s) c.val thin)

/-! Admission -/

/-- The oldest tile of an engine is admitted and begins to stream, or fails the check of R217. -/
def admitTile (s : State) (c : Nat) (thin : Bool) : State :=
  let x := cl s c
  match oldest x thin with
  | none => s
  | some t =>
    let ready (r : TileRun) : Bool := r.phase = .ready && r.tile.thin = thin
    let run := (x.runs.find? ready).getD (.new t .ready)
    let x : Cluster := { x with
      tiles := ((takeFirst (fun (y : Tile) => decide (y.thin = thin)) x.tiles).map (·.2)).getD x.tiles
      runs := x.runs.filter (fun r => !ready r) }
    match tileMisfit x t (tileTakes t).zipIdx with
    | some i => dropTile (setCl s c x) c t i
    | none => setCl s c { x with runs := x.runs ++ [{ run with phase := .streaming }] }

/-- TILE_ADMIT (R155, R171, R217). -/
def execTileAdmit (c : Fin 152) (thin : Bool) (s : State) : Out :=
  let s := quiet s
  .next (if admissible s c.val thin && (thin || level s c.val = 16) then admitTile s c.val thin else s)

/-! Drain layout (R222, R223) -/

/-- P(r), and the poison of the scatter entry. -/
def layoutOffset (s : State) (c : Nat) (y : DrainLayout) (r : Nat) : Nat × Bool :=
  if y.scatter then listOffset s c y.slist r y.strides else (r * y.strides.getD 0 0, false)

/-- Byte of the vector of output (i, j) from a base, and the bit of its element. -/
def layoutAt (s : State) (c : Nat) (y : DrainLayout) (base width i j : Nat) : Nat × Nat × Bool :=
  let ch := if y.cdim then i else j
  let r := if y.cdim then j else i
  let p := layoutOffset s c y r
  (base + p.1 + ch / 32 * (4 * width), ch % 32 * width, p.2)

/-- An element in the scratchpad under a layout: its code and poison, or none where it lies outside. -/
def layoutElem (s : State) (c : Nat) (y : DrainLayout) (base width i j : Nat) : Option (Nat × Bool) :=
  let a := layoutAt s c y base width i j
  let lo := a.1 + a.2.1 / 8
  let n := (a.2.1 % 8 + width + 7) / 8
  if lo + n > 2 ^ 22 then none
  else some (bitsOf (leNat (spadBytes s.mem c lo n)) (a.2.1 % 8) width, spadPoisoned s.mem c lo n || a.2.2)

/-! Preload (R157) -/

def preloadCell (p : SubTile) (x : Nat) : Cell :=
  match p.cls with
  | .exact => let r := readRaw x; .exact (r.1.realign r.2 (attrAnchor p.rword))
  | .single => .single ⟨some (x % 2 ^ 32), 0#8⟩
  | .triple => .triple ⟨some (x % 2 ^ 32), 0#8⟩ Sum32.zero Sum32.zero

/-- Output positions of a sub-problem. -/
def outputs (t : Tile) : List (Nat × Nat) := (List.range t.rows).flatMap (fun i => (List.range t.cols).map (fun j => (i, j)))

/-- Accumulators of one sub-problem preloaded from CSRC. What lies outside the scratchpad is not stated (log 9): it is a free value with
poison and a deferred ADDR fault. -/
def preloadSub (s : State) (c : Nat) (r : TileRun) (i : Nat) : State × TileRun × Bool :=
  let p := subAt r.tile i
  let w := if p.cls = .exact then 256 else 32
  (outputs r.tile).foldl (fun (z : State × TileRun × Bool) e =>
    let k := cellKey i e.1 e.2
    match layoutElem z.1 c r.tile.layout p.csrc w e.1 e.2 with
    | some (x, bad) =>
      (z.1, { z.2.1 with
        cells := KMap.set (blankCell r.tile) z.2.1.cells k (preloadCell p x)
        badCell := if bad then KSet.add z.2.1.badCell k else z.2.1.badCell }, z.2.2)
    | none =>
      let f := free 256 z.1
      (f.2, { z.2.1 with
        cells := KMap.set (blankCell r.tile) z.2.1.cells k (preloadCell p f.1.toNat)
        badCell := KSet.add z.2.1.badCell k }, true)) (s, r, false)

def preloadAll (s : State) (c : Nat) (r : TileRun) : State × TileRun :=
  let z := (List.range r.tile.subs.length).foldl (fun (z : State × TileRun × Bool) i =>
    let y := preloadSub z.1 c z.2.1 i
    (y.1, y.2.1, z.2.2 || y.2.2)) (s, r, false)
  (if z.2.2 then modCl z.1 c (fun x => addDeferred x 0x04 3 3 r.tile.pc) else z.1, z.2.1)

/-- PRELOAD_END (R157): the preload takes the drain port in order with the drains. -/
def execPreloadEnd (c : Fin 152) (thin : Bool) (s : State) : Out :=
  let s := quiet s
  let x := cl s c.val
  .next (match oldest x thin with
    | none => s
    | some t =>
      if t.cont && !bankHeld x t && !preloaded x t && !preempting s c.val && !x.runs.any (fun r => r.phase = .draining) then
        let r := preloadAll s c.val (.new t .ready)
        modCl r.1 c.val (fun x => { x with runs := x.runs ++ [r.2] })
      else s)

/-- TILE_LAST_PRODUCT (R154). -/
def execTileLastProduct (c : Fin 152) (thin : Bool) (bank : Fin 4) (s : State) : Out :=
  let s := quiet s
  .next (match takeFirst (fun (r : TileRun) => r.tile.thin = thin && r.phase = .tail && r.tile.bank = bank.val) (cl s c.val).runs with
    | none => s
    | some (r, rest) => modCl s c.val (fun x => { x with
        runs := rest ++ [{ r with phase := .complete, time4 := r.time4 + 4 * r.tile.tail }] }))

/-! Drain -/

/-- An output before its conversion: value, flags, and the value as written by RAW. -/
def cellValue (anchor : Int) : Cell → FVal × Flags × Nat
  | .exact a => let v := a.value anchor; (v.1, a.fl ||| v.2, rawRecord a anchor)
  | .single x => (decodeF fp32 x.bits, x.fl, x.bits)
  | .triple hh hl lh => let m := mergePasses hh hl lh; (decodeF fp32 m.1, m.2, m.1)

/-- Flags of the accumulator before conversion. -/
def cellFlags : Cell → Flags
  | .exact a => a.fl
  | .single x => x.fl
  | .triple hh hl lh => hh.fl ||| hl.fl ||| lh.fl

/-- Draw of R79 for output (i, j). -/
def drainDraw (t : Tile) (p : SubTile) (i j : Nat) : SrDraw :=
  if bitsOf p.rword 6 1 = 1 then some (srDraw t.seed t.ttag ((p.row0 + i) * t.width + p.col0 + j)) else none

/-- An output as the drain writes it (R156), given C for CONVERT_ADD: its code and flags. -/
def drainCell (t : Tile) (p : SubTile) (i j : Nat) (x : Cell) (add : Nat) : Nat × Flags :=
  let anchor := attrAnchor p.rword
  let f := fmtOr32 (p.rword % 16)
  let sr := drainDraw t p i j
  if t.drain = 2 then
    -- A raw record keeps its guard bits, so nothing leaves the window here (R69).
    match x with
    | .exact a => (rawRecord a anchor, a.fl)
    | x => let v := cellValue anchor x; (v.2.2, v.2.1)
  else
    match x with
    | .exact a => (if t.drain = 1 then a.addVal anchor (decodeF f add) else a).convert anchor f (attrSat p.rword) sr
    | x =>
      let v := cellValue anchor x
      let y : FVal × Flags :=
        if t.drain = 1 then
          let e := addExact (decodeF f add) v.1
          let r := roundIeee fp32 e.1
          (decodeF fp32 r.1, v.2.1 ||| e.2 ||| r.2)
        else (v.1, v.2.1)
      let r := convertF f (attrSat p.rword) sr y.1
      (r.1, y.2 ||| r.2)

/-- An output that the drain has formed. -/
structure DrainOut where
  code : Nat
  fl : Flags
  poison : Bool
  deriving DecidableEq, Repr

/-- One output, with C read from CSRC as it stood before the drain. C outside the scratchpad is not stated (log 9). -/
def drainOne (s : State) (c : Nat) (r : TileRun) (sub i j : Nat) (bad : Bool) : State × DrainOut × Bool :=
  let t := r.tile
  let p := subAt t sub
  let x := KMap.get (blankCell t) r.cells (cellKey sub i j)
  let base := bad || r.badEdge.contains (sub * 512 + i) || r.badEdge.contains (sub * 512 + 256 + j) ||
    r.badCell.contains (cellKey sub i j)
  if t.drain = 1 then
    match layoutElem s c t.layout p.csrc (fmtWidth (p.rword % 16)) i j with
    | some (a, q) => let o := drainCell t p i j x a; (s, ⟨o.1, o.2, base || q⟩, false)
    | none =>
      let f := free 32 s
      let o := drainCell t p i j x (f.1.toNat % 2 ^ fmtWidth (p.rword % 16))
      (f.2, ⟨o.1, o.2, true⟩, true)
  else let o := drainCell t p i j x 0; (s, ⟨o.1, o.2, base⟩, false)

/-- Write bytes to the scratchpad, those outside it left out: whether some were. -/
def clipWrite (m : Memory) (c off : Nat) (bs : List Byte) : Memory × Bool :=
  let keep := bs.take (2 ^ 22 - off)
  (if keep = [] then m else spadWrite m c off keep false, decide (keep.length < bs.length))

/-- Mark the line that holds a byte of a cluster's scratchpad (R163). -/
def markLine (m : Memory) (c off : Nat) : Memory :=
  if off < 2 ^ 22 then
    let b := (c * 2 ^ 22 + off) / 64 * 2
    { m with spadPoison := KSet.add (KSet.add m.spadPoison b) (b + 1) }
  else m

/-- What a drain gathers: the memory as written, bytes of poisoned outputs, flags, poison, a write outside, and INX before C. -/
structure DrainAcc where
  mem : Memory
  marks : List Nat
  fl : Flags
  poison : Bool
  out : Bool
  inx : Bool

/-- One run of up to 32 outputs along the channel dimension (R222). `pre` is the state before the drain. -/
def drainChunk (pre : State) (c : Nat) (r : TileRun) (sub row ch0 n : Nat) (all : Bool) (z : State × DrainAcc) : State × DrainAcc :=
  let t := r.tile
  let p := subAt t sub
  let w := drainWidth t.drain p
  let pos (ch : Nat) : Nat × Nat := if t.layout.cdim then (ch, row) else (row, ch)
  let bad := (layoutOffset pre c t.layout row).2 || all
  let q := (List.range n).foldl (fun (q : State × List DrainOut × Bool) e =>
    let ij := pos (ch0 + e)
    let o := drainOne { q.1 with mem := pre.mem } c r sub ij.1 ij.2 bad
    ({ q.1 with fresh := o.1.fresh }, q.2.1 ++ [o.2.1], q.2.2 || o.2.2)) (z.1, [], false)
  let ij := pos ch0
  let a := layoutAt pre c t.layout p.dest w ij.1 ij.2
  let wr := clipWrite z.2.mem c a.1 (natLe (n * w / 8) (packLanes w (q.2.1.map (·.code))))
  let bytes := (q.2.1.zipIdx.filter (fun e => e.1.poison)).flatMap (fun e =>
    [a.1 + e.2 * w / 8, a.1 + (e.2 * w + w - 1) / 8])
  let cells := (List.range n).map (fun e => let ij := pos (ch0 + e); KMap.get (blankCell t) r.cells (cellKey sub ij.1 ij.2))
  (q.1, { z.2 with
    mem := wr.1
    marks := z.2.marks ++ bytes
    fl := q.2.1.foldl (fun f o => f ||| o.fl) z.2.fl
    poison := z.2.poison || q.2.1.any (·.poison)
    out := z.2.out || wr.2 || q.2.2
    inx := z.2.inx || cells.any (fun x => cellFlags x &&& INX ≠ 0#8) })

/-- One sub-problem is drained, in ascending r and then ascending c (R222). `all` poisons every output (R168). -/
def drainSub (s : State) (c : Nat) (r : TileRun) (sub : Nat) (all : Bool) : State × SubResult :=
  let t := r.tile
  let rows := if t.layout.cdim then t.cols else t.rows
  let chans := if t.layout.cdim then t.rows else t.cols
  let z := (List.range rows).foldl (fun (z : State × DrainAcc) row =>
    (List.range ((chans + 31) / 32)).foldl (fun z v => drainChunk s c r sub row (32 * v) (Nat.min 32 (chans - 32 * v)) all z) z)
    (s, ⟨s.mem, [], 0#8, false, false, false⟩)
  let feed := (r.flags.filter (fun e => e.1 / 512 = sub)).foldl (fun f e => f ||| e.2) 0#8
  let mem := z.2.marks.dedup.foldl (fun m a => markLine m c a) z.2.mem
  let s := { z.1 with mem := mem }
  (if z.2.out then modCl s c (fun x => addDeferred x 0x04 3 3 t.pc) else s,
    ⟨z.2.fl ||| feed, z.2.poison, decide ((subAt t sub).cls = .exact) && !z.2.inx⟩)

/-- A tile is drained, its sub-problems in ascending number. -/
def drainTile (s : State) (c : Nat) (r : TileRun) : State × List SubResult :=
  (List.range r.tile.subs.length).foldl (fun (z : State × List SubResult) i =>
    let y := drainSub z.1 c r i false
    (y.1, z.2 ++ [y.2])) (s, [])

/-- DRAIN_START (R156): the first completed tile is drained when the port is free. -/
def execDrainStart (c : Fin 152) (s : State) : Out :=
  let s := quiet s
  let x := cl s c.val
  .next (if x.runs.any (fun r => r.phase = .draining) then s
    else
      match x.runs.find? (fun r => r.phase = .complete) with
      | none => s
      | some r =>
        let d := drainTile s c.val r
        modCl d.1 c.val (fun x => setRun x (fun r => r.phase = .complete) (fun r => { r with phase := .draining, results := d.2 })))

/-- DRAIN_READ_END (R156): the bank is free. -/
def execDrainReadEnd (c : Fin 152) (s : State) : Out :=
  .next (modCl (quiet s) c.val (fun x => setRun x (fun r => r.phase = .draining) (fun r => { r with phase := .drained })))

/-! Status words (R168, R170, R174) -/

/-- CLU_ARR_ERR records the first event after VALID was cleared (R174). -/
def recordArr (s : State) (c kind bank sub : Nat) (thin : Bool) (tag : Nat) : State :=
  if rd s Fld.CLU_ARR_ERR_VALID c = 1 then flag s Fld.CLU_ARR_ERR_OVERRUN c
  else
    let s := wr (wr (wr s Fld.CLU_ARR_ERR_KIND kind c) Fld.CLU_ARR_ERR_BANK bank c) Fld.CLU_ARR_ERR_SUB sub c
    let s := wr (flag s Fld.CLU_ARR_ERR_VALID c) Fld.CLU_ARR_ERR_THIN (if thin then 1 else 0) c
    wr s Fld.CLU_ARR_ERR_TAG_TAG tag c

/-- The lines of a sub-problem's operands are read again (R168). -/
def rereadLines (s : State) (c : Nat) (src : List (Nat × FeedDesc × Nat)) : State :=
  (src.flatMap (fun e => edgeLines s c e.2.1 e.2.2)).dedup.foldl
    (fun s l => (engineRead s (.cluster (Fin.ofNat 152 c)) (BitVec.ofNat 64 (l * 64))).1) s

/-- A line as a recompute finds it; one that can no longer be read has no stated data (log 9) and poison. -/
def rereadLook (s : State) (c l : Nat) : BitVec 512 × Bool :=
  ((engineRead s (.cluster (Fin.ofNat 152 c)) (BitVec.ofNat 64 (l * 64))).2).getD (freeAt 512 l s, true)

/-- A sub-problem is computed again from the same descriptors (R168). -/
def recompute (s : State) (c : Nat) (r : TileRun) (sub : Nat) : State × TileRun :=
  let a := r.srcA.filter (fun e => e.1 = sub)
  let b := r.srcB.filter (fun e => e.1 = sub)
  let s := rereadLines s c (a ++ b)
  let out (k : Nat) : Bool := decide (k / 512 ≠ sub)
  let r := { r with
    cells := r.cells.filter (fun e => e.1 / 65536 ≠ sub)
    badCell := r.badCell.filter (fun k => k / 65536 ≠ sub)
    flags := r.flags.filter (fun e => out e.1)
    badEdge := r.badEdge.filter out
    time4 := 4 * (ceilDiv (r.tile.rate * (subAt r.tile sub).k) 4 + r.tile.tail) }
  let p : State × TileRun := if r.tile.cont then let z := preloadSub s c r sub; (z.1, z.2.1) else (s, r)
  let r := (a.zip b).foldl (fun r e =>
    subStep r sub (edgeVector p.1 c e.1.2.1 e.1.2.2 (rereadLook p.1 c)) (edgeVector p.1 c e.2.2.1 e.2.2.2 (rereadLook p.1 c))) p.2
  let s := (free 512 p.1).2
  (bump64 s Fld.CLU_ARR_STEPS_LO_COUNT Fld.CLU_ARR_STEPS_HI_COUNT c (subAt r.tile sub).k, r)

/-- A tile failed again: it is recorded, a second step's failure within 1 s condemns the cluster (R354), and a launch outside serving
ends with ERR (R340). -/
def tileFailed (s : State) (c : Nat) (r : TileRun) (sub : Nat) (exact : Bool) : State :=
  let s := flag s Fld.CLU_ARR_EVENT_TILE_FAIL c
  let s := recordArr s c (if exact then 0 else 1) r.tile.bank sub r.tile.thin r.tile.tag
  let s := recordUe s 4 c 0
  let x := cl s c
  let mine : List Launch := (x.running.toList.filter (fun _ => x.launchNo = r.tile.launch)) ++
    (x.ending.filter (fun e => e.no = r.tile.launch)).map (·.launch)
  let step := (mine.head?).bind (·.step)
  let s := if mine ≠ [] ∧ step = none then flag s Fld.CLU_LSTAT_ERR c else s
  let twice := match KMap.get (fun _ => none) s.ras.tileFailAt c with
    | some (t, st) => within (some t) s.ns && decide (st ≠ step)
    | none => false
  { s with ras := { s.ras with
    tileFailAt := KMap.set (fun _ => none) s.ras.tileFailAt c (some (s.ns, step))
    condemned := if twice then KSet.add s.ras.condemned c else s.ras.condemned } }

/-- The status word of Table 6.6. -/
def statusWord (tag : Nat) (f : Flags) (check : Nat) (poison lost : Bool) (sub cycles : Nat) : BitVec 64 :=
  BitVec.ofNat 64 (tag % 2 ^ 16 + f.toNat * 2 ^ 16 + check % 4 * 2 ^ 24 + (if poison then 2 ^ 26 else 0) + (if lost then 2 ^ 27 else 0) +
    sub % 16 * 2 ^ 28 + Nat.min cycles 0xFFFFFFFF * 2 ^ 32)

/-- The result of a sub-problem after its tests, `fails` of which failed: the state, the run, the result and CHECK (R167, R168). -/
def checkSub (s : State) (c : Nat) (r : TileRun) (sub fails : Nat) : State × TileRun × SubResult × Nat :=
  let res := r.results.getD sub ⟨0#8, false, false⟩
  if fails = 0 then (s, r, res, if res.exact then 0 else 1)
  else
    let z := recompute s c r sub
    let d := drainSub z.1 c z.2 sub (decide (fails > 1))
    if fails = 1 then (inc (flag d.1 Fld.CLU_ARR_EVENT_RECOMP c) Fld.CLU_ARR_RECOMP_COUNT c, z.2, d.2, 2)
    else (tileFailed d.1 c z.2 sub d.2.exact, z.2, d.2, 3)

/-- STATUS_WORD_DELIVER (R170): `fails` tells whether the tile failed its test, and again after its recompute (R168). -/
def execStatusWordDeliver (c : Fin 152) (fails : Fin 3) (s : State) : Out :=
  let s := quiet s
  .next (match (cl s c.val).runs.find? (fun r => r.phase = .drained) with
    | none => s
    | some r =>
      let sub := r.reported
      let z := checkSub s c.val r sub fails.val
      let r' := z.2.1
      let w := statusWord r.tile.tag z.2.2.1.flags z.2.2.2 z.2.2.1.poison (r.lost.contains sub) (if r.tile.thin then 0 else sub) (r'.time4 / 4)
      modCl z.1 c.val (fun x =>
        let x := { x with drainQ := x.drainQ ++ [w] }
        if sub + 1 ≥ r.tile.subs.length then
          { x with runs := ((takeFirst (fun (r : TileRun) => decide (r.phase = .drained)) x.runs).map (·.2)).getD x.runs }
        else setRun x (fun r => r.phase = .drained) (fun r => { r with reported := sub + 1 })))

/-! Operand lines that stay half (R163) -/

/-- The vectors that the tiles of an engine take from each of its streams, in order: the rest of the streaming tile, then the tiles not
yet admitted; each with its tile and sub-problem. -/
def pendingTakes (x : Cluster) (thin : Bool) : List (Tile × Nat) :=
  (match x.runs.find? (isStreaming thin) with
    | some r => ((tileTakes r.tile).filter (fun e => decide (r.step ≤ e.2))).map (fun e => (r.tile, e.1))
    | none => []) ++
  (x.tiles.filter (fun t => t.thin = thin)).flatMap (fun t => (tileTakes t).map (fun e => (t, e.1)))

/-- The tile and sub-problem that take the first vector of stream f that needs a line. -/
def tileTaking (s : State) (c f line : Nat) : Option (Tile × Nat) :=
  let x := cl s c
  let y := feeder x f
  ((pendingTakes x (decide (f ≥ 2))).zipIdx.find? (fun e => match y.next e.2 with
    | some (d, k) => (edgeLines s c d k).contains line
    | none => false)).map (·.1)

/-- HALF_LINE_TIMEOUT (R163): a line with one half is released with poison. The TAG of a line no tile will take is not stated (log 9). -/
def halfLost (s : State) (c f line : Nat) : State :=
  let x := cl s c
  let y := feeder x f
  match y.skid.find? (fun k => k.line = line ∧ k.lo ≠ k.hi) with
  | none => s
  | some k =>
    let taker := tileTaking s c f line
    let s := modCl s c (fun x => setFeeder x f { y with
      skid := y.skid.map (fun j => if j.line = line then { k with poison := true, lost := true, lo := true, hi := true } else j) })
    let s := modCl s c (fun x => setFeeder x f (releaseLines s c 64 (feeder x f)))
    let s := flag s Fld.CLU_ARR_EVENT_HALF_LOST c
    match taker with
    | some (t, sub) => recordArr s c 2 t.bank (if t.thin then 0 else sub) t.thin t.tag
    | none => let r := free 16 s; recordArr r.2 c 2 0 0 (decide (f ≥ 2)) r.1.toNat

def execHalfLineTimeout (c : Fin 152) (stream : Fin 4) (line : BitVec 58) (s : State) : Out :=
  .next (halfLost (quiet s) c.val stream.val line.toNat)

/-! Activity level, freeze mode, pre-emption -/

/-- ACTIVITY_LEVEL_STEP (R164). -/
def levelStep (s : State) (c : Nat) : State :=
  let l := level s c
  if stepReady s c then
    if l < 16 then wr (if l > 0 then addDummy s c 16 else s) Fld.CLU_ARR_STATUS_LEVEL (l + 1) c else s
  else if l > 0 then
    wr (addDummy (gapTime s c 128) c 16) Fld.CLU_ARR_STATUS_LEVEL (l - 1) c
  else s

def execActivityLevelStep (c : Fin 152) (s : State) : Out := .next (levelStep (quiet s) c.val)

/-- FREEZE_MODE_APPLY (R161). -/
def execFreezeModeApply (c : Fin 152) (s : State) : Out :=
  let s := quiet s
  .next (if (cl s c.val).runs.any (fun r => r.phase = .streaming || r.phase = .tail || r.phase = .draining) then s
    else wr s Fld.CLU_ARR_MODE_FREEZE_ACT (rd s Fld.CLU_ARR_MODE_FREEZE c.val) c.val)

/-- A pre-emption request reaches a cluster (R173, R185). -/
def preempt (s : State) (c : Nat) : State :=
  modCl (flag s Fld.CLU_ARR_STATUS_PREEMPT c) c (fun x => { x with stopped := true })

/-- PREEMPT_REQUEST (R173). -/
def execPreemptRequest (c : Fin 152) (s : State) : Out := .next (preempt (quiet s) c.val)

/-- No tile is streaming or waiting for its last product (R173). -/
def atBoundary (x : Cluster) : Bool := !x.runs.any (fun r => r.phase = .streaming || r.phase = .tail)

/-- TILE_BOUNDARY (R173). -/
def execTileBoundary (c : Fin 152) (s : State) : Out :=
  let s := quiet s
  .next (if preempting s c.val && atBoundary (cl s c.val) then modCl s c.val (fun x => { x with boundary := true }) else s)

end Sys2Proof.Machine
end

