-- ==== Sys2Proof/Machine/Launch.lean ====
section
/-! DEFINITION. Launches (07 R183 to R186, R206, 02 R42 to R44): targets, rights, the checks and entry of a launch, its start and its
end. -/

namespace Sys2Proof.Machine

/-- What a launch queue belongs to. -/
inductive LaunchTarget where
  /-- A physical cluster. -/
  | cluster (c : Nat)
  | con (k : Nat)
  deriving DecidableEq, Repr

/-- The launch queue of a block offset: a CLU block, an alias block (R24) or a CON block (R187). -/
def launchTarget (img : Image) (off : Nat) : Option LaunchTarget :=
  let b := off / 65536
  if 0x200 ≤ b ∧ b < 0x200 + 152 then some (.cluster (b - 0x200))
  else if 0x300 ≤ b ∧ b < 0x300 + 144 then (physOf img (b - 0x300)).map .cluster
  else if 0x400 ≤ b ∧ b < 0x400 + 1024 then (conRec img (b - 0x400)).map (fun r => .con r.num)
  else none

/-- Leaves of a target, with their physical clusters in member order. -/
def targetLeaves (img : Image) : LaunchTarget → List Nat
  | .cluster c => [c]
  | .con k => physLeaves img k

/-- Tenant of a target. -/
def targetTenant (img : Image) : LaunchTarget → Option Nat
  | .cluster c => physTenant img c
  | .con k => conTenant img k

/-- A cluster that no constellation holds (R184). -/
def freeCluster (img : Image) (c : Nat) : Bool :=
  match logicalOf img c with
  | some l => (consOf img l).isEmpty
  | none => true

/-- The requesters whose launches are accepted (R184). -/
def mayLaunch (s : State) (who : Requester) (t : LaunchTarget) : Bool :=
  decide (who = .supervisor) ||
  (!(match t with
      | .cluster c => freeCluster s.img c
      | .con _ => false) &&
    (match who with
      | .sequencer => true
      | .hostPf _ => true
      | _ => (targetTenant s.img t).any (boundTo s who)))

/-- A launch descriptor (Table 7.5) read from its 64 bytes: none where a field that must be zero is not, or CPL_ADDR is not an 8-byte
aligned hashed address of this part. -/
def readLaunch (b : List Byte) : Option Launch :=
  let flags := fieldOf b 20 1
  let cpl := fieldOf b 24 8
  let a := BitVec.ofNat 64 cpl
  let bad := decide (flags ≥ 4) || fieldOf b 21 3 ≠ 0 || fieldOf b 32 32 ≠ 0 ||
    (flags / 2 = 1 && (cpl % 8 ≠ 0 || spaceOf a ≠ 0))
  if bad then none
  else some ⟨fieldOf b 0 8, fieldOf b 8 8, fieldOf b 16 4, flags % 2 = 1, if flags / 2 = 1 then some cpl else none, none, 0, 1, 0xFFFF,
    none, none⟩

/-- A descriptor is read for a requester: from this part's memory, or as another part or a host delivered it. Poison makes it unreadable. -/
def fetchLaunch (s : State) (who : Requester) (a : GAddr) (remote : Option (BitVec 512)) : State × Option Launch :=
  if a.toNat % 64 ≠ 0 then (s, none)
  else if isLocal s a && spaceOf a ≠ 4 then
    let r := engineRead s who a
    (r.1, match r.2 with
      | some (d, false) => readLaunch (lineBytes d)
      | _ => none)
  else (s, remote.bind (fun d => readLaunch (lineBytes d)))

def queueFull (s : State) (c : Nat) : Bool := decide ((cl s c).queue.length ≥ 16)

/-- REFUSED of a target's status register (R184, R386). -/
def setRefused (s : State) : LaunchTarget → State
  | .cluster c => flag s Fld.CLU_LSTAT_REFUSED c
  | .con k => flag s (conField Fld.CLU_LSTAT_REFUSED) k

/-- A launch enters the queue of a cluster, or those of every leaf in one step (R43). -/
def enterLaunch (s : State) (t : LaunchTarget) (l : Launch) : State :=
  let tenant := (targetTenant s.img t).getD 0xFFFF
  match t with
  | .cluster c => modCl s c (fun x => { x with queue := x.queue ++ [{ l with tenant := tenant }] })
  | .con k =>
    let ls := physLeaves s.img k
    let id := s.seq.nextRun
    let s := { s with seq := { s.seq with
      nextRun := id + 1
      conRuns := s.seq.conRuns ++ [⟨id, k, ls.length, ls.length, l.cpl, false, l.via⟩]
      conDone := KSet.del s.seq.conDone k } }
    ls.zipIdx.foldl (fun s e => modCl s e.1 (fun x => { x with
      queue := x.queue ++ [{ l with con := some (k, id), index := e.2, count := ls.length, tenant := tenant }] })) s

/-- What became of a launch. -/
inductive LaunchResult where
  | entered | full | refused
  deriving DecidableEq, Repr

/-- Conditions of R184, R386 and R422 other than room, and the descriptor. -/
def checkLaunch (s : State) (who : Requester) (t : LaunchTarget) (a : GAddr) (remote : Option (BitVec 512)) : State × Option Launch :=
  let off := match t with
    | .con k => (physLeaves s.img k).any (clusterOff s)
    | .cluster _ => false
  if !isReady s || !mayLaunch s who t || off then (s, none) else fetchLaunch s who a remote

/-- A launch is offered to a target (R184, R206). -/
def offerLaunch (s : State) (who : Requester) (t : LaunchTarget) (a : GAddr) (remote : Option (BitVec 512)) (via : Option (Nat × Nat))
    (step : Option (Nat × Nat)) : State × LaunchResult :=
  let r := checkLaunch s who t a remote
  match r.2 with
  | none => (setRefused r.1 t, .refused)
  | some l =>
    if (targetLeaves s.img t).any (queueFull s) then (r.1, .full)
    else (enterLaunch r.1 t { l with via := via, step := step }, .entered)

/-- A write to CLU_LAUNCH or CON_LAUNCH (R184): a full queue refuses it. -/
def launchWrite (s : State) (who : Requester) (t : LaunchTarget) (a : GAddr) (remote : Option (BitVec 512)) : State :=
  let r := offerLaunch s who t a remote none none
  if r.2 = .full then setRefused r.1 t else r.1

/-- A launch from the Q slot, held while a queue is full (R206). -/
def launchFrom (s : State) (c : Fin 152) (target : Nat) (a : GAddr) (h pc : Nat) (remote : Option (BitVec 512)) : State × Bool :=
  match launchTarget s.img target with
  | none => (modCl s c.val (fun x => addDeferred x 0x06 6 7 pc), true)
  | some t =>
    let r := offerLaunch s (.cluster c) t a remote (some (c.val, h)) none
    match r.2 with
    | .entered => (r.1, true)
    | .full => (r.1, false)
    | .refused => (modCl r.1 c.val (fun x => addDeferred x 0x06 6 7 pc), true)

/-- The instruction cache of a cluster is invalidated (R182). -/
def icinv (s : State) (c : Nat) : State := modCl s c (fun x => { x with icache := [] })

/-! Start -/

def launchTrace (s : State) (c type code : Nat) (l : Launch) : State := clusterTrace s c (traceRec s.mer type 0 c 0 code l.ltag)

/-- The core state at the start of a launch (R185). -/
def startCore (x : Cluster) (l : Launch) (rest : List Launch) : Cluster :=
  { x with
    pc := l.entry
    running := some l
    launchNo := x.launchNo + 1
    queue := rest
    lastHalt := false
    sregs := KMap.set (fun _ => 0#64) (KMap.set (fun _ => 0#64) [] 2 (BitVec.ofNat 64 l.ltag)) 1 (BitVec.ofNat 64 l.arg)
    vregs := []
    pregs := []
    spoison := []
    vpoison := []
    ppoison := []
    handles := []
    loads := []
    icache := if l.icinv then [] else x.icache }

/-- A launch may start (R185, R173, R360, R384). -/
def launchReady (s : State) (c : Nat) : Bool :=
  let x := cl s c
  x.running.isNone && rd s Fld.CLU_LSTAT_ERR c = 0 && !x.stopped && !preempting s c && !clusterEclipse s c && !clusterOff s c

/-- LAUNCH_START (R185). -/
def execLaunchStart (c : Fin 152) (s : State) : Out :=
  let s := quiet s
  .next (match (cl s c.val).queue with
    | [] => s
    | l :: rest => if launchReady s c.val then launchTrace (modCl s c.val (fun x => startCore x l rest)) c.val 0x10 0 l else s)

/-! End -/

/-- A tile of a launch whose status words have not all been delivered. -/
def tilesLeft (x : Cluster) (no : Nat) : Bool :=
  x.tiles.any (fun t => t.launch = no) || x.runs.any (fun r => r.tile.launch = no)

/-- The launch of a serving step has ended on every leaf (R289). -/
def stepLaunchEnded (s : State) (id : Nat) (failed : Bool) : State :=
  { s with seq := { s.seq with loops := s.seq.loops.map (fun e => (e.1, { e.2 with
      steps := e.2.steps.map (fun t => if t.launch = some id then { t with launch := none, failed := t.failed || failed } else t) })) } }

/-- A leaf's share of a constellation launch ends; the last one counts it (R43, R185). -/
def leafEnded (s : State) (c id : Nat) (failed : Bool) : State :=
  match s.seq.conRuns.find? (fun r => r.id = id) with
  | none => s
  | some r =>
    let bad := r.failed || failed
    if r.remaining > 1 then
      { s with seq := { s.seq with
        conRuns := replaceFirst (fun r => decide (r.id = id)) (fun r => { r with remaining := r.remaining - 1, failed := bad }) s.seq.conRuns } }
    else
      let s := { s with seq := { s.seq with
        conRuns := s.seq.conRuns.filter (fun r => r.id ≠ id)
        conDone := if bad then s.seq.conDone else KSet.add s.seq.conDone r.con } }
      let s := stepLaunchEnded s id bad
      match r.cpl with
      | some a => bump s (.cluster (Fin.ofNat 152 c)) (BitVec.ofNat 64 a) 1
      | none => s

/-- A launch's end is counted (R185). -/
def endLaunch (s : State) (c : Nat) (e : Ending) : State :=
  match e.launch.con with
  | some (_, id) => leafEnded s c id e.failed
  | none => match e.launch.cpl with
    | some a => bump s (.cluster (Fin.ofNat 152 c)) (BitVec.ofNat 64 a) 1
    | none => s

/-- LAUNCH_END (R185): the first ended launch whose last drain has delivered its status word. -/
def execLaunchEnd (c : Fin 152) (s : State) : Out :=
  let s := quiet s
  let x := cl s c.val
  .next (match takeFirst (fun (e : Ending) => !tilesLeft x e.no) x.ending with
    | none => s
    | some (e, rest) => endLaunch (modCl s c.val (fun x => { x with ending := rest })) c.val e)

/-! Held launches -/

/-- LAUNCH_QUEUE_ENTER (R206): the oldest launch a cluster holds enters once every queue it needs has room. `remote` gives a descriptor
that lies at another part or a host. -/
def execLaunchQueueEnter (c : Fin 152) (remote : Option (BitVec 512)) (s : State) : Out :=
  let s := quiet s
  .next (match (cl s c.val).heldLaunches with
    | [] => s
    | h :: rest =>
      let r := launchFrom s c h.target h.addr h.h h.pc remote
      if r.2 then modCl r.1 c.val (fun x => { x with heldLaunches := rest }) else r.1)

/-! Status (R43, R186) -/

/-- Table 7.7's FREE, BUSY and DONE of a cluster. -/
def cluFree (x : Cluster) : Nat := 16 - x.queue.length
def cluDone (x : Cluster) : Bool := x.lastHalt && x.running.isNone && x.queue.isEmpty

/-- Table 2.5 for constellation k. -/
def conFree (s : State) (k : Nat) : Nat := ((physLeaves s.img k).map (fun c => cluFree (cl s c))).foldl Nat.min 16
def conBusy (s : State) (k : Nat) : Bool :=
  (physLeaves s.img k).any (fun c => (cl s c).running.any (fun l => l.con.any (fun e => e.1 = k)))
def conIsDone (s : State) (k : Nat) : Bool := !s.seq.conRuns.any (fun r => r.con = k) && s.seq.conDone.contains k
/-- Lowest member index with ERR. -/
def conErr (s : State) (k : Nat) : Option Nat :=
  ((physLeaves s.img k).zipIdx.find? (fun e => rd s Fld.CLU_LSTAT_ERR e.1 = 1)).map (·.2)

end Sys2Proof.Machine
end

