-- ==== Sys2Proof/Machine/StackOps.lean ====
section
/-! DEFINITION. Lit stacks (05): command layouts and checks, rows in processor mode, the activation rule, completion, and the stack
reducer. -/

namespace Sys2Proof.Machine

/-! Names -/

/-- Lit-stack slot of a stack, and the reverse (R47, R94). -/
def slotOfStack (n : Nat) : Nat := if n < 6 then n else n - 2
def stackOfSlot (k : Nat) : Nat := if k < 4 then k else k + 2

/-- UNIT of Table 10.3: bits [39:27] of the placed offset of a bank pair. -/
def placedUnit (n u : Nat) : Nat := slotOfStack n * 1024 + u
def unitStack (p : Nat) : Nat := stackOfSlot (p / 1024)

def pairRefUnit (u : PairRef) : Nat := unitNo u.chan.val u.pc.val u.pair.val
def cmdUnit (c : StkCmd) : Nat := unitNo c.chan c.pc c.pair
def cmdPlaced (n : Nat) (c : StkCmd) : Nat := placedUnit n (cmdUnit c)
/-- Core die of a channel. -/
def dieOfChan (ch : Nat) : Nat := ch / 4

/-! Command fields (Tables 5.3 and 5.5) -/

/-- `n` bytes of the header at byte `off`. -/
def hf (c : StkCmd) (off n : Nat) : Nat := bitsOf c.header.toNat (8 * off) (8 * n)
def cmdOp (c : StkCmd) : Nat := hf c 0 1
def cmdPlen (c : StkCmd) : Nat := hf c 1 1 % 32
def cmdCpl (c : StkCmd) : Bool := bitsOf (hf c 3 1) 0 1 = 1
def cmdFence (c : StkCmd) : Bool := bitsOf (hf c 3 1) 1 1 = 1
def cmdEnd (c : StkCmd) : Bool := bitsOf (hf c 3 1) 2 1 = 1
def cmdCheck (c : StkCmd) : Bool := bitsOf (hf c 3 1) 3 1 = 1
def cmdTag (c : StkCmd) : Nat := hf c 4 4
def cmdCplAddr (c : StkCmd) : GAddr := BitVec.ofNat 64 (hf c 8 8)
def cmdPayload (c : StkCmd) : List Byte := c.payload.flatMap lineBytes
/-- The row named A, B or C (0 to 2): bank within the pair and row. -/
def cmdRow (c : StkCmd) (i : Nat) : Nat × Nat := (bitsOf (hf c 22 1) i 1, hf c (16 + 2 * i) 2)

/-- Opcodes of Table 5.4. -/
def stkOpcodes : List Nat := [0x00, 0x01, 0x02, 0x03, 0x04, 0x05, 0x06, 0x08, 0x09, 0x10, 0x11, 0x12, 0x18, 0x19]
def isRowOp (op : Nat) : Bool := 0x01 ≤ op && op ≤ 0x09
/-- Commands that write rows (R143). -/
def writesRows (op : Nat) : Bool := (0x01 ≤ op && op ≤ 0x06) || op = 0x09 || op = 0x10

/-- Operand bytes an opcode has, as offset and length (Table 5.5). -/
def operandBytes (op : Nat) : List (Nat × Nat) :=
  if op = 0x01 ∨ op = 0x08 then [(16, 7), (24, 8)]
  else if isRowOp op then [(16, 7)]
  else if op = 0x10 then [(16, 4)]
  else if op = 0x11 then [(16, 2), (20, 14), (36, 8)]
  else if op = 0x12 then [(16, 14), (32, 32)]
  else if op = 0x18 then [(26, 4), (32, 4), (40, 8)]
  else if op = 0x19 then [(26, 2)]
  else []

/-- Rows an opcode uses, as a mask of A, B and C (Table 5.4). -/
def rowsUsed (op : Nat) : Nat :=
  if op = 0x01 ∨ op = 0x09 then 4
  else if op = 0x02 ∨ op = 0x06 then 5
  else if op = 0x08 then 1
  else if isRowOp op then 7
  else 0

/-- Byte of GEOM, for the opcodes that carry it. -/
def geomByte (op : Nat) : Option Nat :=
  if op = 0x10 ∨ op = 0x12 then some 18 else if op = 0x11 then some 17 else if op = 0x18 then some 28 else none

def cmdGeom (c : StkCmd) : Option Geom := (geomByte (cmdOp c)).bind (fun b => geomOf (hf c b 1))

/-- PLEN of an opcode (Table 5.4). -/
def plenOf (op : Nat) (g : Option Geom) : Nat :=
  if op = 0x09 then 16
  else if op = 0x10 then g.elim 0 (·.appendLines)
  else if op = 0x11 then g.elim 0 (·.qloadLines)
  else 0

/-- Reserved bytes are zero (R121). -/
def reservedZero (c : StkCmd) : Bool :=
  let used := (0, 2) :: (3, 13) :: operandBytes (cmdOp c)
  (List.range 64).all (fun b => used.any (fun r => r.1 ≤ b ∧ b < r.1 + r.2) || hf c b 1 = 0) &&
  hf c 1 1 < 32 && hf c 3 1 < 16

/-- A global address in the hashed or scratchpad-window space, of this part at a valid offset (R89) or of another part. -/
def dataAddr (s : State) (a : GAddr) : Bool :=
  if isLocal s a then
    (spaceOf a = 0 && hashedValid s (offOf a)) || (spaceOf a = 2 && (windowOf s (offOf a)).isSome)
  else spaceOf a = 0 || spaceOf a = 2

def cplAddrOk (s : State) (c : StkCmd) : Bool := hf c 8 8 % 32 = 0 && dataAddr s (cmdCplAddr c)

/-- DEST of ROW_READ and RSETUP. -/
def cmdDest (c : StkCmd) : Option Nat :=
  if cmdOp c = 0x08 then some (hf c 24 8) else if cmdOp c = 0x18 then some (hf c 40 8) else none

/-- Operand ranges of Table 5.5. -/
def rangesOk (c : StkCmd) : Bool :=
  let op := cmdOp c
  if op = 0x10 then hf c 19 1 < 64
  else if op = 0x11 then hf c 16 1 < 8
  else if op = 0x12 then hf c 19 1 ≠ 0 && 1 ≤ hf c 24 1 && hf c 24 1 ≤ 64 && hf c 25 1 < 3 && hf c 26 2 < 128
  else if op = 0x18 then hf c 26 2 < 128 && hf c 29 1 ≠ 0 && 1 ≤ hf c 32 4 && hf c 32 4 ≤ 65536
  else if op = 0x19 then hf c 26 2 < 128
  else true

/-- Rows that a row command does not use, and their BANKS bits, are zero (R123). -/
def unusedRowsZero (c : StkCmd) : Bool :=
  !isRowOp (cmdOp c) ||
  (hf c 22 1 < 8 &&
    (List.range 3).all (fun i => bitsOf (rowsUsed (cmdOp c)) i 1 = 1 || (cmdRow c i = (0, 0))))

/-- Status OPCODE or FIELD of a command, or 0 (R122, R123). -/
def fieldStatus (s : State) (c : StkCmd) : Nat :=
  let op := cmdOp c
  if !stkOpcodes.contains op then 1
  else if !reservedZero c then 2
  else if cmdCpl c && !cplAddrOk s c then 2
  else if (geomByte op).isSome && (cmdGeom c).isNone then 2
  else if cmdPlen c ≠ plenOf op (cmdGeom c) then 2
  else if !rangesOk c || !unusedRowsZero c then 2
  else if (match cmdDest c with
      | some d => d % 64 ≠ 0 || !dataAddr s (BitVec.ofNat 64 d)
      | none => false) then 2
  else if (op = 0x10 || op = 0x12) && hf c 16 2 + (cmdGeom c).elim 0 (·.frameRows) - 1 > 65535 then 2
  else 0

/-! The tenant check of the stack controller (R239) -/

/-- Key of a frame in the boundary table: pair × 2^16 + BASE_ROW. -/
def frameKey (placed base : Nat) : Nat := placed * 65536 + base
def pairOf (s : State) (placed : Nat) : Option Pair := KMap.get (fun _ => none) s.kvm.pairs placed
def frameTenant (s : State) (key : Nat) : Option Nat := KMap.get (fun _ => none) s.mem.bounds.frames key

/-- Tenant of the frame that holds a row of a pair. -/
def rowTenant (s : State) (placed row : Nat) : Option Nat :=
  match (pairOf s placed).bind (fun p => geomOf p.geom) with
  | none => none
  | some g => frameTenant s (frameKey placed (row / g.frameRows * g.frameRows))

/-- Rows of the pair that a command names. -/
def namedRows (c : StkCmd) : List Nat :=
  if isRowOp (cmdOp c) then
    ((List.range 3).filter (fun i => bitsOf (rowsUsed (cmdOp c)) i 1 = 1)).map (fun i => (cmdRow c i).2)
  else if cmdOp c = 0x10 ∨ cmdOp c = 0x12 then
    match cmdGeom c with
    | some g => [hf c 16 2, hf c 16 2 + g.frameRows - 1]
    | none => []
  else []

/-- A global address the command writes to belongs to the tenant. -/
def addrAllowed (s : State) (t : Nat) (a n : Nat) : Bool :=
  [a, a + n - 1].all (fun x =>
    let g := BitVec.ofNat 64 x
    if !isLocal s g then true
    else if spaceOf g = 0 then hashedAllowed s t (offOf g)
    else match windowOf s (offOf g) with
      | some (c, _) => windowAllowed s t c
      | none => false)

/-- Set bits of a mask of eight. -/
def maskBits (m : Nat) : List Nat := (List.range 8).filter (fun k => bitsOf m k 1 = 1)

/-- The placed address passes: every row the command names lies in a frame of the tenant; a command that names none needs a frame of the
tenant in its pair (log 20). -/
def placedAllowed (s : State) (t n : Nat) (c : StkCmd) : Bool :=
  let p := cmdPlaced n c
  match namedRows c with
  | [] => s.mem.bounds.frames.any (fun e => e.1 / 65536 = p ∧ e.2 = some t)
  | rs => rs.all (fun r => rowTenant s p r = some t)

/-- CPL_ADDR passes the check for the command's tenant. -/
def cplAllowed (s : State) (c : StkCmd) : Bool :=
  match tenantOf s c.issuer with
  | none => true
  | some t => !cmdCpl c || addrAllowed s t (hf c 8 8) 32

def tenantFails (s : State) (n : Nat) (c : StkCmd) : Bool :=
  match tenantOf s c.issuer with
  | none => false
  | some t =>
    !(placedAllowed s t n c && cplAllowed s c &&
      (match cmdDest c with
        | none => true
        | some d =>
          let len := if cmdOp c = 0x08 then 1024
            else (maskBits (hf c 29 1)).length * recBytes ((cmdGeom c).elim 0 (·.d))
          addrAllowed s t d len))

/-! Completion (R124, R149) -/

/-- What a completion record reports (Table 5.6). -/
structure CmdResult where
  status : Nat
  flags : Nat
  acts : Nat
  pmax : Nat
  psum : Nat
  wait : Nat
  poison : Bool
  deriving DecidableEq, Repr

def CmdResult.plain (status : Nat) : CmdResult := ⟨status, 0, 0, 0, 0, 0, false⟩

/-- STK_CMD_ERR records the first failing command after VALID was last cleared (R149). -/
def recordCmdErr (s : State) (n status chan pc pair opcode tag : Nat) : State :=
  let s := flag s Fld.STK_EVENT_CMD_ERR n
  if rd s Fld.STK_CMD_ERR_VALID n = 1 then flag s Fld.STK_CMD_ERR_OVERRUN n
  else
    let s := wr (wr (wr s Fld.STK_CMD_ERR_STATUS status n) Fld.STK_CMD_ERR_CHANNEL chan n) Fld.STK_CMD_ERR_PC pc n
    let s := wr (wr s Fld.STK_CMD_ERR_PAIR pair n) Fld.STK_CMD_ERR_OPCODE opcode n
    wr (flag s Fld.STK_CMD_ERR_VALID n) Fld.STK_CMD_ERR_TAG_TAG tag n

/-- The 32 bytes of a completion record (Table 5.6). -/
def completionRecord (c : StkCmd) (r : CmdResult) : BitVec 256 :=
  BitVec.ofNat 256 (cmdTag c + 2 ^ 32 * r.status + 2 ^ 40 * r.flags + 2 ^ 48 * Nat.min r.acts 65535 +
    2 ^ 64 * r.pmax + 2 ^ 96 * r.psum + 2 ^ 128 * Nat.min r.wait 0xFFFFFFFF)

/-- Take the first element equal to x out of a list. -/
def dropFirst {α : Type} [DecidableEq α] (l : List α) (x : α) : List α := ((takeFirst (fun y => decide (y = x)) l).map (·.2)).getD l

/-- A cluster's account of its commands is settled (R189, R195). -/
def settleIssuer (s : State) (n : Nat) (c : StkCmd) : State :=
  match c.issuer with
  | .cluster x => modCl s x.val (fun k => { k with
      scmds := ((takeFirst (fun e => decide (e.1 = cmdTag c ∧ e.2.1 = slotOfStack n * 64 + c.chan)) k.scmds).map (·.2)).getD k.scmds })
  | _ => s

/-- A command leaves the stack: its record, its error, and its requester's account. -/
def finishCmd (s : State) (n : Nat) (c : StkCmd) (r : CmdResult) : State :=
  let s := modStk s n (fun k => { k with queue := dropFirst k.queue c })
  let s := if r.status ≠ 0 ∧ r.status ≠ 6 then recordCmdErr s n r.status c.chan c.pc c.pair (cmdOp c) (cmdTag c) else s
  let s := settleIssuer s n c
  let s := match c.request with
    | some id => { s with kvm := { s.kvm with done := s.kvm.done ++
        [⟨id, cmdOp c, cmdTag c, r.status, r.pmax, r.psum, r.poison || c.poison⟩] } }
    | none => s
  if cmdCpl c && cplAddrOk s c && cplAllowed s c then
    accessFor s .nobody c.issuer (cmdCplAddr c) (.meteorWrite (completionRecord c r) (r.poison || c.poison)) .clean
  else s

/-! Rows in processor mode (R94, R128) -/

/-- Line number of block b (0 to 15) of a row; bank 0 to 15 within the pseudo-channel (Table 4.3). -/
def rowLine (n chan pc bank row b : Nat) : Nat :=
  ((n * 64 + chan) * 2 ^ 31 + pc * 2 ^ 8 + bank / 4 * 2 ^ 9 + bank % 4 * 2 ^ 11 + row * 2 ^ 15 + b / 4 * 2 ^ 13 + b % 4 * 64) / 64

/-- Granule of four rows of a bank in the written map. -/
def rowUnit (n chan pc bank row : Nat) : Nat := (n * 64 + chan) * 2 ^ 19 + (pc * 16 + bank) * 2 ^ 14 + row / 4

def rowWritten (s : State) (n chan pc bank row : Nat) : Bool := decide (rowUnit n chan pc bank row ∈ s.mem.written)

/-- Read a row: zeros where its granule is unwritten. -/
def readRow (s : State) (n chan pc bank row : Nat) : List Byte :=
  if rowWritten s n chan pc bank row then
    (List.range 16).flatMap (fun b => lineBytes (rawLine s.mem (rowLine n chan pc bank row b)))
  else List.replicate 1024 0#8

/-- Store the 16 lines of a row. -/
def storeRow (m : Memory) (n chan pc bank row : Nat) (bs : List Byte) : Memory :=
  (List.range 16).foldl (fun m b => storeLine m (rowLine n chan pc bank row b) (lineOf (slice bs (b * 64) 64)) false) m

/-- Write a row; a first write into a granule writes zeros to its other rows first (R128). -/
def writeRow (s : State) (n chan pc bank row : Nat) (bs : List Byte) : State :=
  let m := s.mem
  let m :=
    if rowWritten s n chan pc bank row then m
    else
      let m := { m with written := KSet.add m.written (rowUnit n chan pc bank row) }
      (List.range 4).foldl (fun m i => storeRow m n chan pc bank (row / 4 * 4 + i) (List.replicate 1024 0#8)) m
  { s with mem := storeRow m n chan pc bank row bs }

/-- Row of a command's pair: bank 0 or 1 within the pair. -/
def cmdReadRow (s : State) (n : Nat) (c : StkCmd) (x : Nat × Nat) : List Byte := readRow s n c.chan c.pc (2 * c.pair + x.1) x.2
def cmdWriteRow (s : State) (n : Nat) (c : StkCmd) (x : Nat × Nat) (bs : List Byte) : State :=
  writeRow s n c.chan c.pc (2 * c.pair + x.1) x.2 bs

/-! The activation rule (R140, R142, R144) -/

/-- A core die is on the halved allowance: its 95 °C step, or the floor of a failed stack sensor (R142, Table 15.8). -/
def dieHalved (s : State) (n d : Nat) : Bool := bitsOf (stk s n).hot d 1 = 1 || rd s Fld.THM_DIE_STATE (3 + n) = 2

/-- A command activation may take bank cycle t of a die, given its earlier activations. -/
def slotFree (s : State) (n d : Nat) (acts : List Nat) (t : Nat) : Bool :=
  t % 128 < 125 && decide (rd s Fld.STK_STATUS_THROT n ≤ t / 32 % 16) && !acts.contains t &&
  decide ((acts.filter (fun a => a ≤ t ∧ t < a + 32)).length < (if dieHalved s n d then 16 else 32))

/-- The first free slot from t on, within `fuel` cycles. -/
def nextSlot (s : State) (n d : Nat) (acts : List Nat) : Nat → Nat → Nat
  | 0, t => t
  | fuel + 1, t => if slotFree s n d acts t then t else nextSlot s n d acts fuel (t + 1)

/-- `k` activations one after another, each asked for once the one before it was granted: slots and bank cycles waited (log 14). -/
def grantSlots (s : State) (n d : Nat) : Nat → List Nat → Nat → Nat → List Nat × Nat
  | 0, acts, _, w => (acts, w)
  | k + 1, acts, t, w =>
    let g := nextSlot s n d acts 1024 t
    grantSlots s n d k (acts ++ [g]) (g + 1) (w + (g - t))

/-- Activations of a command on a die: they are counted, and the bank cycles waited are its WAIT (R150). -/
def activate (s : State) (n d k : Nat) : State × Nat :=
  let now := bankCycle s
  let old := (KMap.get (fun _ => []) (stk s n).acts d).filter (fun a => now < a + 32)
  let r := grantSlots s n d k old now 0
  let s := modStk s n (fun x => { x with acts := KMap.set (fun _ => []) x.acts d r.1 })
  let s := wr64 s Fld.STK_ACT_LO_COUNT Fld.STK_ACT_HI_COUNT (rd64 s Fld.STK_ACT_LO_COUNT Fld.STK_ACT_HI_COUNT n + k) n
  let s := wr64 s Fld.STK_TPAW_WAIT_LO_COUNT Fld.STK_TPAW_WAIT_HI_COUNT
    (rd64 s Fld.STK_TPAW_WAIT_LO_COUNT Fld.STK_TPAW_WAIT_HI_COUNT n + r.2) n
  (s, r.2)

/-- A row a command opens: bank within the pair, row, and whether it is written. -/
abbrev Touch := Nat × Nat × Bool

def bankNo (chan pc bank : Nat) : Nat := chan * 32 + pc * 16 + bank

/-- Activations of the rows a command opens, in order, and the rows left open; `fresh` are granules it has written first (R122, R128). -/
def planRows (s : State) (n : Nat) (c : StkCmd) : List Touch → List (Nat × Nat) → KMap Nat → Nat → Nat × KMap Nat
  | [], _, open_, k => (k, open_)
  | (b, row, w) :: t, fresh, open_, k =>
    let bank := 2 * c.pair + b
    let key := bankNo c.chan c.pc bank
    let written := rowWritten s n c.chan c.pc bank row || fresh.contains (b, row / 4)
    if !written && !w then planRows s n c t fresh open_ k
    else
      let opened := KMap.set (fun _ => 0) open_ key (row + 1)
      if !written then planRows s n c t ((b, row / 4) :: fresh) opened (k + 4)
      else if KMap.get (fun _ => 0) open_ key = row + 1 then planRows s n c t fresh open_ k
      else planRows s n c t fresh opened (k + 1)

/-- The rows of a command are opened: the state, activations and wait. -/
def openRows (s : State) (n : Nat) (c : StkCmd) (ts : List Touch) : State × Nat × Nat :=
  let p := planRows s n c ts [] (stk s n).openRow 0
  let s := modStk s n (fun k => { k with openRow := p.2 })
  let r := activate s n (dieOfChan c.chan) p.1
  (r.1, p.1, r.2)

/-- A bank under refresh is out of service (R105). -/
def bankBusy (s : State) (n : Nat) (c : StkCmd) (ts : List Touch) : Bool :=
  ts.any (fun t => decide (bankCycle s < KMap.get (fun _ => 0) (stk s n).refreshing (bankNo c.chan c.pc (2 * c.pair + t.1))))

/-! Order of execution (R125, R143) -/

/-- The command that may run next at a bank pair: the first in its queue that has not started. -/
def headCmd (s : State) (n u : Nat) : Option StkCmd := (stk s n).queue.find? (fun c => cmdUnit c = u && !c.started)

/-- Commands received on the channel before the head of a pair. -/
def before (s : State) (n : Nat) (c : StkCmd) : List StkCmd :=
  ((stk s n).queue.takeWhile (fun x => x ≠ c)).filter (fun x => x.chan = c.chan)

/-- A unit is out of service for its test (R367). -/
def unitTested (s : State) (n u : Nat) : Bool := s.bst.tests.any (fun t => match t.kind with
  | .unit a b => decide (a = n ∧ b = u)
  | _ => false)

/-- Nothing holds the command back. -/
def mayStart (s : State) (n : Nat) (c : StkCmd) : Bool :=
  (!cmdFence c || (before s n c).isEmpty) && !unitTested s n (cmdUnit c) && decide (n ∉ s.pwr.rest) &&
  !(rd s Fld.STK_STATUS_WHOLD n = 1 && writesRows (cmdOp c) && fieldStatus s c = 0)

/-- The status with which a command ends before it acts: OPCODE, FIELD or MODE (R124, R146). -/
def entryStatus (s : State) (n : Nat) (c : StkCmd) : Nat :=
  let f := fieldStatus s c
  if f ≠ 0 then f
  else if bitsOf (stk s n).leaving (dieOfChan c.chan) 1 = 1 || !procDie s.img n (dieOfChan c.chan) then 5
  else 0

/-- Run the head command of a pair where its opcode is the row's; `body` is what it does once nothing fails it before. -/
def runHead (s : State) (u : PairRef) (mine : Nat → Bool) (touched : StkCmd → List Touch) (body : State → Nat → StkCmd → State) : State :=
  let n := u.stack.val
  match headCmd s n (pairRefUnit u) with
  | none => s
  | some c =>
    if !mine (cmdOp c) || !mayStart s n c then s
    else if entryStatus s n c ≠ 0 then finishCmd s n c (.plain (entryStatus s n c))
    else if bankBusy s n c (touched c) then s
    else body s n c

/-! The stack reducer (R135 to R138) -/

def redOf (k : Stack) (rid : Nat) : Option Reduction := KMap.get (fun _ => none) k.rids rid
def setRed (k : Stack) (rid : Nat) (r : Option Reduction) : Stack := { k with rids := KMap.set (fun _ => none) k.rids rid r }

/-- Parking entries in use (R137). -/
def parkedCount (k : Stack) : Nat := (k.rids.map (fun e => e.2.elim 0 (fun r => r.parked.length))).foldl (· + ·) 0

def overlap (a s b t : Nat) : Bool := a < b + t && b < a + s

/-- A block's record for each slot of QMASK; the empty partial where it carries none. An o of another head dimension has no stated
value (log 9). -/
def takeRecords (s : State) (r : Reduction) (b : Block) : State × Block :=
  let step (a : State × List Partial) (k : Nat) : State × List Partial :=
    match b.recs.find? (fun p => p.slot = k) with
    | none => (a.1, a.2 ++ [emptyPartial k r.dim])
    | some p =>
      if p.o.length = r.dim then (a.1, a.2 ++ [p])
      else
        let f := free (32 * r.dim) a.1
        (f.2, a.2 ++ [{ p with o := (List.range r.dim).map (fun e => bitsOf f.1.toNat (32 * e) 32) }])
  let t := (maskBits r.qmask).foldl step (s, [])
  (t.1, { b with recs := t.2 })

def mergeBlocks (x y : Block) : Block :=
  { x with size := x.size + y.size, recs := (x.recs.zip y.recs).map (fun p => mergePartial p.1 p.2) }

/-- Merge the top two entries while they have equal size; the top is the head. -/
def mergeBlockTop : Nat → List Block → List Block
  | 0, st => st
  | n + 1, right :: left :: t =>
    if right.size = left.size then mergeBlockTop n (mergeBlocks left right :: t) else right :: left :: t
  | _, st => st

/-- Push every block that is next in turn (R136). -/
def drainBlocks : Nat → Reduction → Reduction
  | 0, r => r
  | n + 1, r =>
    match takeFirst (fun b : Block => b.start = r.next) r.parked with
    | none => r
    | some (b, rest) =>
      drainBlocks n { r with parked := rest, next := r.next + b.size, stack := mergeBlockTop 32 (b :: r.stack) }

/-- Combine what remains, the lower entry to the left. -/
def closeBlocks : List Block → Option Block
  | [] => none
  | top :: t => some (t.foldl (fun acc left => mergeBlocks left acc) top)

/-- The records of a committed reduction go to DEST as line writes (R138). -/
def writeRecords (s : State) (r : Reduction) (b : Block) : State :=
  let lines := b.recs.flatMap (fun p =>
    let bs := recordBytes p
    (List.range (bs.length / 64)).map (fun i => (lineOf (slice bs (i * 64) 64), p.poison)))
  lines.zipIdx.foldl (fun s x =>
    accessFor s .nobody r.cmd.issuer (BitVec.ofNat 64 (r.dest + 64 * x.2)) (.lineWrite x.1.1 x.1.2) .clean) s

/-- The RSETUP of a failed reduction completes, and the RID stays open (R137). -/
def failRed (s : State) (n rid : Nat) (r : Reduction) (status : Nat) : State :=
  let s := modStk s n (fun k => setRed k rid (some { r with failed := some status, stack := [], parked := [] }))
  finishCmd s n r.cmd (.plain status)

/-- How the reducer answers an offered block. -/
inductive Offer where
  | taken
  | refused
  /-- The RID is not open. -/
  | closed
  deriving DecidableEq, Repr

/-- The reducer checks, parks or merges a block (R136, R137). A failing check of the reducer's own poisons what it merges (Table 13.1). -/
def offerBlock (s : State) (n : Nat) (b : Block) (fault : Bool) : State × Offer :=
  match redOf (stk s n) b.rid with
  | none => (s, .closed)
  | some r =>
    if r.failed.isSome then (s, .taken)
    else if b.start + b.size > r.count then (failRed s n b.rid r 9, .taken)
    else if b.start < r.next || r.parked.any (fun p => overlap p.start p.size b.start b.size) then (failRed s n b.rid r 10, .taken)
    else if b.start ≠ r.next ∧ parkedCount (stk s n) ≥ 256 then (s, .refused)
    else
      let t := takeRecords s r b
      let s := if fault then recordUe t.1 5 (0xC0 + n) 0 else t.1
      let b := if fault then { t.2 with recs := t.2.recs.map (fun p => { p with poison := true }) } else t.2
      let r := drainBlocks 257 { r with parked := r.parked ++ [b] }
      if r.next = r.count then
        match closeBlocks r.stack with
        | none => (s, .taken)
        | some acc =>
          let s := modStk s n (fun k => setRed k b.rid none)
          (finishCmd (writeRecords s r acc) n r.cmd (.plain 0), .taken)
      else (modStk s n (fun k => setRed k b.rid (some r)), .taken)

/-! Held entries (R119) -/

def unitHeld (s : State) (n u : Nat) : List Held := (bankUnit (stk s n) u).held
def setHeld (s : State) (n u : Nat) (h : List Held) : State :=
  modStk s n (fun k => setBankUnit k u { bankUnit k u with held := h })

/-- An entry is offered: it leaves the unit, or stays held as refused. -/
def flushEntry (s : State) (n u : Nat) (h : Held) (fault : Bool) : State :=
  let r := offerBlock s n h.block fault
  match r.2 with
  | .taken => setHeld r.1 n u (dropFirst (unitHeld r.1 n u) h)
  | .refused => setHeld r.1 n u (replaceFirst (fun x => decide (x = h))
      (fun x => { x with refused := true, offered := false, since := none }) (unitHeld r.1 n u))
  | .closed => setHeld r.1 n u (replaceFirst (fun x => decide (x = h))
      (fun x => { x with refused := true, offered := false, since := some (x.since.getD (bankCycle s)) }) (unitHeld r.1 n u))

/-- Every entry of a unit that satisfies p is offered. -/
def flushWhere (s : State) (n u : Nat) (p : Held → Bool) : State :=
  ((unitHeld s n u).filter p).foldl (fun s h => flushEntry s n u h false) s

/-- Two held entries merge into a node of the index tree where R119 allows it; the merged entry is offered in place of either. -/
def mergeHeld (l : List Held) : List Held :=
  match l with
  | [x, y] =>
    let a := if x.block.start ≤ y.block.start then x else y
    let b := if x.block.start ≤ y.block.start then y else x
    if a.block.rid = b.block.rid ∧ a.block.recs.map (·.slot) = b.block.recs.map (·.slot) ∧ a.block.size = b.block.size ∧
        a.block.start % (2 * a.block.size) = 0 ∧ b.block.start = a.block.start + a.block.size then
      [⟨mergeBlocks a.block b.block, a.offered || b.offered, a.refused || b.refused,
        match a.since, b.since with
        | some i, some j => some (Nat.min i j)
        | some i, none => some i
        | none, j => j⟩]
    else l
  | _ => l

end Sys2Proof.Machine
end

