-- ==== Sys2Proof/Machine/Stack.lean ====
section
/-! DEFINITION. The commands of the lit stacks (05): stack commands, the reducer, refresh, temperature, throttling and mode changes. -/

namespace Sys2Proof.Machine

/-! Forwarding (R126) -/

/-- Number of an issuer in the round-robin: a cluster's own, 152 the KV manager. -/
def issuerNo : Requester → Nat
  | .cluster c => c.val
  | _ => 152

/-- The issuer whose command enters next: the KV manager at least once in four, else the next after the last. -/
def nextIssuer (k : Stack) (ch : Nat) : Option Nat :=
  let live := (k.waiting.filter (fun c => c.chan = ch)).map (fun c => issuerNo c.issuer)
  if live.isEmpty then none
  else if live.contains 152 && KMap.get (fun _ => 0) k.sinceKvm ch ≥ 3 then some 152
  else
    let last := KMap.get (fun _ => 152) k.lastIssuer ch
    let order := (List.range 153).map (fun i => (last + 1 + i) % 153)
    order.find? (fun i => live.contains i)

def freeEntries (k : Stack) (ch : Nat) : Nat := 128 - (k.queue.filter (fun c => c.chan = ch)).length
def freeLines (k : Stack) (ch : Nat) : Nat :=
  256 - ((k.queue.filter (fun c => c.chan = ch)).map cmdPlen).foldl (· + ·) 0

/-- One command moves from its issuer into a channel's queue; a tenant failure ends it there (R239). -/
def forward (s : State) (n ch : Nat) : State :=
  let k := stk s n
  match nextIssuer k ch with
  | none => s
  | some i =>
    match takeFirst (fun c : StkCmd => c.chan = ch ∧ issuerNo c.issuer = i) k.waiting with
    | none => s
    | some (c, rest) =>
      if freeEntries k ch = 0 ∨ freeLines k ch < cmdPlen c then s
      else
        let k := { k with
          waiting := rest
          lastIssuer := KMap.set (fun _ => 152) k.lastIssuer ch i
          sinceKvm := KMap.set (fun _ => 0) k.sinceKvm ch (if i = 152 then 0 else KMap.get (fun _ => 0) k.sinceKvm ch + 1) }
        if fieldStatus s c = 0 && tenantFails s n c then finishCmd (setStk s n k) n c (.plain 13)
        else setStk s n { k with queue := k.queue ++ [c] }

/-- STK_CMD_FORWARD (R126). -/
def execStkCmdForward (stack : Fin 12) (channel : Fin 64) (s : State) : Out := .next (forward (quiet s) stack.val channel.val)

/-! Row commands (R127 to R129) -/

/-- STK_NOP (R122): also the end of a command with an undefined opcode. -/
def execStkNop (u : PairRef) (s : State) : Out :=
  .next (runHead (quiet s) u (fun op => op = 0 || !stkOpcodes.contains op) (fun _ => [])
    (fun s n c => finishCmd s n c (.plain 0)))

/-- Physical row number: channel × 2^21 + bank × 2^16 + row. -/
def physRow (n chan pc bank row : Nat) : Nat := (n * 64 + chan) * 2 ^ 21 + (pc * 16 + bank) * 2 ^ 16 + row

/-- A row the on-die ECC reports uncorrectable goes to the RAS block (R129, R362). -/
def badRow (s : State) (n : Nat) (c : StkCmd) (x : Nat × Nat) : State :=
  let off := cmdPlaced n c * 2 ^ 27 + x.1 * 2 ^ 26 + x.2 * 2 ^ 10
  let s := recordUe s 1 (0xC0 + n) (localAddr s 1 off)
  { s with ras := { s.ras with suspects := addNew s.ras.suspects (.row (physRow n c.chan c.pc (2 * c.pair + x.1) x.2)) } }

/-- Reported rows that were read: an unwritten row is not (R128). -/
def badRows (s : State) (n : Nat) (c : StkCmd) (rows : List ((Nat × Nat) × Bool)) : List (Nat × Nat) :=
  (rows.filter (fun r => r.2 && rowWritten s n c.chan c.pc (2 * c.pair + r.1.1) r.1.2)).map (·.1)

def setRowBuffer (s : State) (n u : Nat) (bs : List Byte) : State :=
  modStk s n (fun k => setBankUnit k u { bankUnit k u with rowBuffer := bs })

/-- Rows that a row command opens: its sources, then row C; none for the copy of a row to itself (R127). -/
def rowTouches (c : StkCmd) : List Touch :=
  let used := rowsUsed (cmdOp c)
  let src (i : Nat) : List Touch := if bitsOf used i 1 = 1 then [((cmdRow c i).1, (cmdRow c i).2, false)] else []
  let dst : List Touch :=
    if bitsOf used 2 1 = 0 ∨ (cmdOp c = 0x02 ∧ cmdRow c 2 = cmdRow c 0) then [] else [((cmdRow c 2).1, (cmdRow c 2).2, true)]
  src 0 ++ src 1 ++ dst

/-- A command that writes row C: `data` computes it from rows A and B. -/
def rowWrite (s : State) (n : Nat) (c : StkCmd) (badA badB : Bool) (data : List Byte → List Byte → List Byte) : State :=
  let o := openRows s n c (rowTouches c)
  let used := rowsUsed (cmdOp c)
  let bad := badRows o.1 n c
    ((if bitsOf used 0 1 = 1 then [(cmdRow c 0, badA)] else []) ++ (if bitsOf used 1 1 = 1 then [(cmdRow c 1, badB)] else []))
  let s := bad.foldl (fun s x => badRow s n c x) o.1
  let poison := c.poison || !bad.isEmpty
  let writes := (rowTouches c).any (·.2.2)
  let s :=
    if poison || !writes then s
    else
      let bs := data (cmdReadRow s n c (cmdRow c 0)) (cmdReadRow s n c (cmdRow c 1))
      setRowBuffer (cmdWriteRow s n c (cmdRow c 2) bs) n (cmdUnit c) bs
  finishCmd s n c ⟨0, 0, o.2.1, 0, 0, o.2.2, poison⟩

/-- The pattern of ROW_INIT, repeated 128 times. -/
def patternRow (c : StkCmd) : List Byte := (List.replicate 128 (natLe 8 (hf c 24 8))).flatten

/-- ROW_INIT (R122). -/
def execRowInit (u : PairRef) (s : State) : Out :=
  .next (runHead (quiet s) u (fun op => op = 0x01) rowTouches (fun s n c => rowWrite s n c false false (fun _ _ => patternRow c)))

/-- ROW_COPY (R127). -/
def execRowCopy (u : PairRef) (bad : Bool) (s : State) : Out :=
  .next (runHead (quiet s) u (fun op => op = 0x02) rowTouches (fun s n c => rowWrite s n c bad false (fun a _ => a)))

/-- ROW_AND (R122). -/
def execRowAnd (u : PairRef) (badA badB : Bool) (s : State) : Out :=
  .next (runHead (quiet s) u (fun op => op = 0x03) rowTouches
    (fun s n c => rowWrite s n c badA badB (fun a b => List.zipWith (· &&& ·) a b)))

/-- ROW_OR (R122). -/
def execRowOr (u : PairRef) (badA badB : Bool) (s : State) : Out :=
  .next (runHead (quiet s) u (fun op => op = 0x04) rowTouches
    (fun s n c => rowWrite s n c badA badB (fun a b => List.zipWith (· ||| ·) a b)))

/-- ROW_XOR (R122). -/
def execRowXor (u : PairRef) (badA badB : Bool) (s : State) : Out :=
  .next (runHead (quiet s) u (fun op => op = 0x05) rowTouches
    (fun s n c => rowWrite s n c badA badB (fun a b => List.zipWith (· ^^^ ·) a b)))

/-- ROW_NOT (R122). -/
def execRowNot (u : PairRef) (bad : Bool) (s : State) : Out :=
  .next (runHead (quiet s) u (fun op => op = 0x06) rowTouches (fun s n c => rowWrite s n c bad false (fun a _ => a.map (~~~ ·))))

/-- ROW_WRITE (R122). -/
def execRowWrite (u : PairRef) (s : State) : Out :=
  .next (runHead (quiet s) u (fun op => op = 0x09) rowTouches (fun s n c => rowWrite s n c false false (fun _ _ => cmdPayload c)))

/-- A row as it is read: the columns of 32 bytes that `bad` names are free values, for no rule states their data (R129). -/
def badColumns (s : State) (bad : Nat) (bs : List Byte) : List Byte :=
  if bad = 0 then bs
  else (List.range 32).flatMap (fun i => if bitsOf bad i 1 = 1 then natLe 32 (badData s (2 ^ 38 + i)).toNat else slice bs (32 * i) 32)

/-- Row A goes to DEST as 16 lines with fresh check bytes; `bad` marks its uncorrectable 32-byte columns (R129). -/
def rowRead (s : State) (n : Nat) (c : StkCmd) (bad : Nat) : State :=
  let o := openRows s n c (rowTouches c)
  let s := o.1
  let a := cmdRow c 0
  let bad := if rowWritten s n c.chan c.pc (2 * c.pair + a.1) a.2 then bad else 0
  let s := if bad ≠ 0 then badRow s n c a else s
  let bs := badColumns s bad (cmdReadRow s n c a)
  let s := setRowBuffer s n (cmdUnit c) bs
  let s := (List.range 16).foldl (fun s l =>
    accessFor s .nobody c.issuer (BitVec.ofNat 64 (hf c 24 8 + 64 * l))
      (.lineWrite (lineOf (slice bs (64 * l) 64)) (c.poison || bitsOf bad (2 * l) 2 ≠ 0)) .clean) s
  finishCmd s n c ⟨0, 0, o.2.1, 0, 0, o.2.2, c.poison || bad ≠ 0⟩

/-- ROW_READ (R129). -/
def execRowRead (u : PairRef) (bad : BitVec 32) (s : State) : Out :=
  .next (runHead (quiet s) u (fun op => op = 0x08) rowTouches (fun s n c => rowRead s n c bad.toNat))

/-! Attention commands (R118, R130 to R134) -/

/-- A page row of a command as bank within the pair and row. -/
def cmdPageRow (c : StkCmd) (r : Nat) : Nat × Nat := pageRowAt (hf c 16 2) r

/-- Page rows a KV_APPEND touches: key, value, scale and checksum rows. -/
def appendRows (g : Geom) (slot : Nat) : List Nat :=
  [g.keyRow slot, g.valRow slot] ++ (if g.isFp4 then [2 * g.keyRows] else []) ++ (List.range g.sumRows).map (fun i => g.sumRow + i)

def appendTouches (c : StkCmd) : List Touch :=
  match cmdGeom c with
  | none => []
  | some g => (appendRows g (hf c 19 1)).map (fun r => ((cmdPageRow c r).1, (cmdPageRow c r).2, true))

/-- The rows of a page after one token is written in a slot (R134): page row and content. -/
def appendedRows (g : Geom) (slot : Nat) (row : Nat → List Byte) (t : Token) : List (Nat × List Byte) :=
  let old := slotToken g row slot
  let ws := adjustWords g (sumWords g row) (tokenQuantities g old) (tokenQuantities g t)
  [(g.keyRow slot, splice (row (g.keyRow slot)) (g.slotByte slot) t.key),
   (g.valRow slot, splice (row (g.valRow slot)) (g.slotByte slot) t.val)] ++
  (if g.isFp4 then
    [(2 * g.keyRows, splice (splice (row (2 * g.keyRows)) (g.keyScaleByte slot) t.keyScale) (g.valScaleByte slot) t.valScale)]
   else []) ++
  (sumRowBytes g ws).zipIdx.map (fun p => (g.sumRow + p.2, p.1))

/-- The page row reported uncorrectable, where the command read it and it is written. -/
def badPageRow (s : State) (n : Nat) (c : StkCmd) (read : List Nat) (bad : Option (Fin 66)) : List (Nat × Nat) :=
  match bad with
  | none => []
  | some r => badRows s n c (if read.contains r.val then [(cmdPageRow c r.val, true)] else [])

def kvAppend (s : State) (n : Nat) (c : StkCmd) (bad : Option (Fin 66)) : State :=
  match cmdGeom c with
  | none => s
  | some g =>
    let slot := hf c 19 1
    let o := openRows s n c (appendTouches c)
    let b := badPageRow o.1 n c (appendRows g slot) bad
    let s := b.foldl (fun s x => badRow s n c x) o.1
    let poison := c.poison || !b.isEmpty
    let row (r : Nat) : List Byte := cmdReadRow s n c (cmdPageRow c r)
    let s := if poison then s
      else (appendedRows g slot row (payloadToken g (cmdPayload c))).foldl (fun s p => cmdWriteRow s n c (cmdPageRow c p.1) p.2) s
    finishCmd s n c ⟨0, 0, o.2.1, 0, 0, o.2.2, poison⟩

/-- KV_APPEND (R134). -/
def execKvAppend (u : PairRef) (bad : Option (Fin 66)) (s : State) : Out :=
  .next (runHead (quiet s) u (fun op => op = 0x10) appendTouches (fun s n c => kvAppend s n c bad))

def qslotOf (s : State) (n u k : Nat) : Option QSlot := KMap.get (fun _ => none) (bankUnit (stk s n) u).slots k

/-- An attribute word of a result in FP32: rounding and BSCALE are not its role's, SAT and ANCHOR are (R66, R67, R130). -/
def resultWordOk (w : Nat) : Bool := w % 128 = 0 && w < 2 ^ 17

/-- QLOAD (R130): the slot, or status ATTR. -/
def qload (s : State) (n : Nat) (c : StkCmd) : State :=
  match cmdGeom c with
  | none => s
  | some g =>
    let u := cmdUnit c
    let k := hf c 16 1
    if hf c 20 4 ≠ g.qfmt ∨ !resultWordOk (hf c 36 4) ∨ !resultWordOk (hf c 40 4) then finishCmd s n c (.plain 3)
    else
      let s := flushWhere s n u (fun h => h.block.recs.any (fun p => p.slot = k))
      let q : QSlot := ⟨hf c 17 1, hf c 20 4, hf c 24 4, hf c 28 4, hf c 32 2, hf c 36 4, hf c 40 4,
        slice (cmdPayload c) 0 g.qBytes, c.poison⟩
      let s := modStk s n (fun x => setBankUnit x u
        { bankUnit x u with slots := KMap.set (fun _ => none) (bankUnit x u).slots k (some q) })
      finishCmd s n c (.plain 0)

/-- QLOAD (R130). -/
def execQload (u : PairRef) (s : State) : Out :=
  .next (runHead (quiet s) u (fun op => op = 0x11) (fun _ => []) qload)

/-- A page slot is visible to a query slot (Table 5.8). -/
def visible (mode t qpos : Nat) (q : QSlot) : Bool :=
  if mode = 2 then true
  else t ≤ qpos && (mode = 0 || t < q.tbase || (t - q.tbase ≤ 15 && bitsOf q.anc (t - q.tbase) 1 = 1))

/-- Visible page slots of query slot k. -/
def visibleSlots (c : StkCmd) (k : Nat) (q : QSlot) : List Nat :=
  (List.range (hf c 24 1)).filter (fun j => visible (hf c 25 1) (hf c 20 4 + j) (hf c (32 + 4 * k) 4) q)

/-- Query slots an ATTEND names, as loaded at its unit. -/
def namedSlots (s : State) (n : Nat) (c : StkCmd) : List (Nat × Option QSlot) :=
  (maskBits (hf c 19 1)).map (fun k => (k, qslotOf s n (cmdUnit c) k))

/-- ATTR or QEMPTY of an ATTEND, or 0 (R124, R130). -/
def attendStatus (s : State) (n : Nat) (c : StkCmd) (g : Geom) : Nat :=
  let qs := namedSlots s n c
  if qs.any (fun q => match q.2 with
      | some x => (geomOf x.geom).elim true (fun h => h.d ≠ g.d || h.qfmt ≠ g.qfmt)
      | none => false) then 3
  else if qs.any (fun q => q.2.isNone) then 4
  else 0

/-- Page rows an ATTEND reads (R132, R133). -/
def attendRows (s : State) (n : Nat) (c : StkCmd) (g : Geom) : List Nat :=
  if (namedSlots s n c).all (fun q => (q.2.elim [] (visibleSlots c q.1)).isEmpty) then []
  else if cmdCheck c then List.range g.rows
  else
    let r := ceilDiv (hf c 24 1) g.perRow
    List.range r ++ (List.range r).map (fun i => g.keyRows + i) ++ (if g.isFp4 then [2 * g.keyRows] else [])

def attendTouches (s : State) (n : Nat) (c : StkCmd) : List Touch :=
  match cmdGeom c with
  | none => []
  | some g =>
    if attendStatus s n c g ≠ 0 then []
    else (attendRows s n c g).map (fun r => ((cmdPageRow c r).1, (cmdPageRow c r).2, false))

/-- A page partial takes a held entry, or is discarded (R119). -/
def holdBlock (s : State) (n u : Nat) (b : Block) : State × Bool :=
  let s := match unitHeld s n u with
    | [x, y] => flushEntry s n u (if x.block.start ≤ y.block.start then x else y) false
    | _ => s
  let held := unitHeld s n u
  if held.length ≥ 2 then (s, false) else (setHeld s n u (mergeHeld (held ++ [⟨b, false, false, none⟩])), true)

/-- A unit whose check failed: its eclipse; a second failure within 1 s condemns it (R355, R360). -/
def unitFault (s : State) (n u : Nat) : State :=
  let s := recordUe s 5 (0xC0 + n) 0
  let key := n * 1024 + u
  let twice := within (KMap.get (fun _ => none) s.ras.unitFailAt key) s.ns
  { s with
    saf := { s.saf with units := KSet.add s.saf.units key }
    ras := { s.ras with
      unitFailAt := KMap.set (fun _ => none) s.ras.unitFailAt key (some s.ns)
      condemnedUnits := if twice then KSet.add s.ras.condemnedUnits key else s.ras.condemnedUnits } }

def attend (s : State) (n : Nat) (c : StkCmd) (bad : Option (Fin 66)) (fault : Bool) : State :=
  match cmdGeom c with
  | none => s
  | some g =>
    let u := cmdUnit c
    let st := attendStatus s n c g
    if st ≠ 0 then finishCmd s n c (.plain st)
    else
      let rid := hf c 26 2
      let rows := attendRows s n c g
      let touches := attendTouches s n c
      let qs := namedSlots s n c
      let s := flushWhere s n u (fun h => h.block.rid ≠ rid)
      let o := openRows s n c touches
      let b := badPageRow o.1 n c rows bad
      let s := b.foldl (fun s x => badRow s n c x) o.1
      let s := if fault then unitFault s n u else s
      let lost := if b.isEmpty then none else bad.map (·.val)
      let row (r : Nat) : List Byte :=
        badColumns s (if lost = some r then 2 ^ 32 - 1 else 0) (cmdReadRow s n c (cmdPageRow c r))
      let wrong := cmdCheck c && !rows.isEmpty && decide (sumWords g row ≠ pageWords g row)
      let s := if wrong then flag s Fld.STK_EVENT_CHECKSUM n else s
      let poison := c.poison || !b.isEmpty || wrong || fault
      let parts := qs.filterMap (fun q => q.2.map (fun x =>
        let r := pagePartial g q.1 x ((visibleSlots c q.1 x).map (slotToken g row))
        ({ r.1 with poison := r.1.poison || poison }, r.2)))
      let s := modStk s n (fun k => setBankUnit k u { bankUnit k u with
        scores := parts.foldl (fun m p => KMap.set (fun _ => []) m p.1.slot p.2) (bankUnit k u).scores })
      let blk : Block := ⟨rid, hf c 28 2, 1, parts.map (·.1), cmdTag c, u⟩
      let h := holdBlock s n u blk
      let s := if cmdEnd c then setHeld h.1 n u ((unitHeld h.1 n u).map (fun x => { x with offered := true })) else h.1
      let fl := parts.foldl (fun a p => a ||| p.1.flags) 0
      let p0 := (parts.head?).map (·.1)
      finishCmd s n c ⟨if !h.2 then 6 else if wrong then 12 else 0, fl, o.2.1, p0.elim 0 (·.m), p0.elim 0 (·.l), o.2.2,
        poison || parts.any (·.1.poison)⟩

/-- ATTEND (R118, R131 to R133). -/
def execAttend (u : PairRef) (bad : Option (Fin 66)) (fault : Bool) (s : State) : Out :=
  .next (runHead (quiet s) u (fun op => op = 0x12) (attendTouches s u.stack.val) (fun s n c => attend s n c bad fault))

/-- HELD_FLUSH_RETRY (R119): refused entries of a unit are offered again. -/
def execHeldFlushRetry (u : PairRef) (s : State) : Out :=
  .next (flushWhere (quiet s) u.stack.val (pairRefUnit u) (fun h => h.refused))

/-! The stack reducer -/

def rsetup (s : State) (n : Nat) (c : StkCmd) : State :=
  let rid := hf c 26 2
  if (redOf (stk s n) rid).isSome then finishCmd s n c (.plain 8)
  else
    let c' := { c with started := true }
    let r : Reduction := ⟨c', hf c 32 4, hf c 29 1, (cmdGeom c).elim 0 (·.d), hf c 40 8, 0, [], [], none⟩
    modStk s n (fun k => setRed { k with queue := replaceFirst (fun x => decide (x = c)) (fun _ => c') k.queue } rid (some r))

/-- RSETUP (R135). -/
def execRsetup (u : PairRef) (s : State) : Out :=
  .next (runHead (quiet s) u (fun op => op = 0x18) (fun _ => []) rsetup)

/-- An open reduction is discarded; the entry of its RSETUP is given up without a record where it had not completed (log 21). -/
def rcancel (s : State) (n : Nat) (c : StkCmd) : State :=
  let rid := hf c 26 2
  let s :=
    match redOf (stk s n) rid with
    | none => s
    | some r =>
      let s := modStk s n (fun k => setRed k rid none)
      if r.failed.isSome then s
      else settleIssuer (modStk s n (fun k => { k with queue := dropFirst k.queue r.cmd })) n r.cmd
  finishCmd s n c (.plain 0)

/-- RCANCEL (R135). -/
def execRcancel (u : PairRef) (s : State) : Out :=
  .next (runHead (quiet s) u (fun op => op = 0x19) (fun _ => []) rcancel)

/-- REDUCER_BLOCK_ACCEPT (R136): the unit's first offered entry. -/
def execReducerBlockAccept (u : PairRef) (fault : Bool) (s : State) : Out :=
  let s := quiet s
  let n := u.stack.val
  match (unitHeld s n (pairRefUnit u)).find? (fun h => h.offered) with
  | none => .next s
  | some h => .next (flushEntry s n (pairRefUnit u) h fault)

/-- A block refused for 65,536 bank cycles because its RID is not open is discarded (R137, R149). -/
def noRid (s : State) (n u : Nat) : State :=
  let due (h : Held) : Bool :=
    (redOf (stk s n) h.block.rid).isNone && (h.since.elim false (fun t => decide (t + 65536 ≤ bankCycle s)))
  match (unitHeld s n u).find? due with
  | none => s
  | some h =>
    recordCmdErr (setHeld s n u (dropFirst (unitHeld s n u) h)) n 11 (h.block.site / 16) (h.block.site / 8 % 2) (h.block.site % 8)
      0x12 h.block.tag

/-- NO_RID_DISCARD (R137). -/
def execNoRidDiscard (u : PairRef) (s : State) : Out := .next (noRid (quiet s) u.stack.val (pairRefUnit u))

/-! Refresh, temperature and throttling -/

/-- BANK_REFRESH (R105): a bank of every channel is out of service for 135 ns, 108 bank cycles, and its row is closed. A change of tREFI
takes effect at a multiple of 3,120 of the count. -/
def execBankRefresh (stack : Fin 12) (bank : Fin 32) (s : State) : Out :=
  let s := quiet s
  let now := bankCycle s
  .next (modStk s stack.val (fun k =>
    let banks := (List.range 64).map (fun ch => ch * 32 + bank.val)
    { k with
      trefi := if k.trefiAt / 3120 < now / 3120 then k.trefiNext else k.trefi
      refreshing := banks.foldl (fun m b => KMap.set (fun _ => 0) m b (now + 108)) k.refreshing
      openRow := banks.foldl (fun m b => KMap.set (fun _ => 0) m b 0) k.openRow }))

/-- A temperature in tenths of a degree as a reading: rounded up to whole degrees, below 0 as 0 (R142). -/
def reading (t : Int) : Nat := (-((-t) / 10)).toNat

/-- Governing estimate of a stack, in tenths of a degree. -/
def stackGovern (s : State) (n : Nat) : Int := KMap.get (fun _ => 0) s.pwr.governs (3 + n)

/-- A readout more than 10 °C below the estimate is replaced by it (R402). -/
def replaced (s : State) (n r : Nat) : Bool := decide ((r : Int) * 10 + 100 < stackGovern s n)

def readDie (s : State) (n d r : Nat) : State :=
  let v := if replaced s n r then reading (stackGovern s n) else r
  let s := if replaced s n r then flag s Fld.THM_EVENT_READOUT else s
  let w := rd s Fld.STK_DIETEMP_TEMP n (d / 4)
  let old := bitsOf w (8 * (d % 4)) 8
  let s := wr s Fld.STK_DIETEMP_TEMP (w - old * 2 ^ (8 * (d % 4)) + Nat.min r 255 * 2 ^ (8 * (d % 4))) n (d / 4)
  let s := { s with pwr := { s.pwr with readout := KMap.set (fun _ => 0) s.pwr.readout (n * 16 + d) (v : Int) } }
  let k := stk s n
  let was := bitsOf k.hot d 1 = 1
  if !was && v > 95 then
    let s := setStk s n { k with hot := k.hot + 2 ^ d }
    if procDie s.img n d then flag s Fld.STK_EVENT_HALVE n else s
  else if was && v ≤ 92 then setStk s n { k with hot := k.hot - 2 ^ d }
  else s

def readoutOf (s : State) (n d : Nat) : Int := KMap.get (fun _ => 0) s.pwr.readout (n * 16 + d)
def hottest (s : State) (n : Nat) : Int := (List.range 16).foldl (fun a d => max a (readoutOf s n d)) 0

/-- Write hold begins above 105 °C and ends when every core die reads 102 °C or below (R142, R143). -/
def holdStep (s : State) (n : Nat) : State :=
  let on := rd s Fld.STK_STATUS_WHOLD n = 1
  if !on && hottest s n > 105 then flag (flag s Fld.STK_STATUS_WHOLD n) Fld.STK_EVENT_WHOLD_ON n
  else if on && hottest s n ≤ 102 then
    releaseWaiting (flag (wr s Fld.STK_STATUS_WHOLD 0 n) Fld.STK_EVENT_WHOLD_OFF n)
  else s

/-- tREFI is 1.95 µs above 85 °C and 3.9 µs again below 82 °C (R105); a dark stack with a failed sensor stays at 1.95 µs (Table 15.8). -/
def refreshStep (s : State) (n : Nat) : State :=
  let k := stk s n
  let floor := !isLit n && rd s Fld.THM_DIE_STATE (3 + n) = 2
  let want := if hottest s n > 85 || floor then 1560 else if hottest s n < 82 then 3120 else k.trefiNext
  if want = k.trefiNext then s else setStk s n { k with trefiNext := want, trefiAt := bankCycle s }

/-- DIE_TEMP_READ (R142): temperatures of the 16 core dies in tenths of a degree. -/
def execDieTempRead (stack : Fin 12) (temps : List Int) (s : State) : Out :=
  let s := (List.range 16).foldl (fun s d => readDie s stack.val d (reading (temps.getD d 0))) (quiet s)
  .next (refreshStep (holdStep s stack.val) stack.val)

/-- THROTTLE_GROUP_START (R144). -/
def execThrottleGroupStart (stack : Fin 12) (s : State) : Out :=
  let s := quiet s
  .next (wr s Fld.STK_STATUS_THROT (stk s stack.val).throttleNext stack.val)

/-! Mode changes (R145, R146) -/

def setPmask (s : State) (n m : Nat) : State :=
  { s with img := { s.img with pmask := KMap.set (fun _ => 0) s.img.pmask n m } }

/-- Units of a die are reset and its rows closed. -/
def resetDie (k : Stack) (d : Nat) : Stack :=
  { k with
    units := k.units.filter (fun e => dieOfChan (e.1 / 16) ≠ d)
    openRow := k.openRow.filter (fun e => dieOfChan (e.1 / 32) ≠ d)
    clearing := k.clearing ||| 2 ^ d }

/-- A die enters processor mode once the writes queued for its channels are done. -/
def enterMode (s : State) (n d : Nat) : State :=
  let k := stk s n
  let idle := (List.range 4).all (fun i => (acceptedOf s.mem (n * 64 + d * 4 + i)).isEmpty)
  if bitsOf k.entering d 1 = 0 || bitsOf k.clearing d 1 = 1 || procDie s.img n d || !idle then s
  else
    let s := setStk (setPmask s n (pmask s.img n + 2 ^ d)) n (resetDie k d)
    if bitsOf k.hot d 1 = 1 then flag s Fld.STK_EVENT_HALVE n else s

/-- PROCESSOR_MODE_ENTRY (R145, steps 1 to 3). -/
def execProcessorModeEntry (stack : Fin 12) (die : Fin 16) (s : State) : Out := .next (enterMode (quiet s) stack.val die.val)

/-- A die leaves processor mode once its queues are empty and its units hold no block. -/
def exitMode (s : State) (n d : Nat) : State :=
  let k := stk s n
  let idle := !k.queue.any (fun c => dieOfChan c.chan = d) &&
    !k.units.any (fun e => dieOfChan (e.1 / 16) = d && !e.2.held.isEmpty)
  if bitsOf k.leaving d 1 = 0 || !procDie s.img n d || !idle then s
  else setStk (setPmask s n (pmask s.img n - 2 ^ d)) n (resetDie k d)

/-- PROCESSOR_MODE_EXIT (R146, steps 1 to 3). -/
def execProcessorModeExit (stack : Fin 12) (die : Fin 16) (s : State) : Out := .next (exitMode (quiet s) stack.val die.val)

/-- The written-map bits of a die's channels are cleared, and its fills with them (R145). -/
def clearDieMap (m : Memory) (n d : Nat) : Memory :=
  let lo := (n * 64 + d * 4) * 2 ^ 19
  { m with
    written := m.written.filter (fun u => !(lo ≤ u && u < lo + 4 * 2 ^ 19))
    fills := m.fills.filter (fun e => !(n * 64 + d * 4 ≤ e.1 && e.1 < n * 64 + d * 4 + 4)) }

/-- DIE_MAP_CLEAR_DONE: a die that enters is reported to the KV manager with every pair free. -/
def mapCleared (s : State) (n d : Nat) : State :=
  let k := stk s n
  if bitsOf k.clearing d 1 = 0 then s
  else
    let s := { s with
      mem := clearDieMap s.mem n d
      kvm := { s.kvm with pairs := s.kvm.pairs.filter (fun e => !(unitStack e.1 = n && dieOfChan (e.1 % 1024 / 16) = d)) } }
    setStk s n { k with
      clearing := k.clearing - 2 ^ d
      entering := k.entering - bitsOf k.entering d 1 * 2 ^ d }

/-- DIE_MAP_CLEAR_DONE (R145, R146). -/
def execDieMapClearDone (stack : Fin 12) (die : Fin 16) (s : State) : Out := .next (mapCleared (quiet s) stack.val die.val)

end Sys2Proof.Machine
end

