-- ==== Sys2Proof/Machine/KvTables.lean ====
section
/-! DEFINITION. What the KV manager keeps (10): sequence descriptors (11 Table 11.3), page tables, frames and their placement, growth,
eviction, and the tables of swap regions and hashed pools. -/

namespace Sys2Proof.Machine

/-! Reads of the hub's engines -/

/-- Consecutive bytes at a global address as the hub's engines read them, with their poison: none where they cannot be read. Such a read
leaves the slices as they are (log 25). -/
def hubLook (s : State) (a n : Nat) : Option (List Byte × Bool) :=
  if n = 0 then some ([], false)
  else
    (List.range ((a + n + 63) / 64 - a / 64)).foldl (fun (r : Option (List Byte × Bool)) i =>
      match r with
      | none => none
      | some (bs, p) =>
        match (engineRead s (.kvm none) (BitVec.ofNat 64 (a / 64 * 64 + 64 * i))).2 with
        | none => none
        | some (d, q) => some (bs ++ lineBytes d, p || q)) (some ([], false))
    |>.map (fun r => ((r.1.drop (a % 64)).take n, r.2))

/-- As `hubLook`; what cannot be read has no stated value (log 9), and poison. -/
def hubRead (s : State) (a n : Nat) : List Byte × Bool :=
  (hubLook s a n).getD ((List.range n).map (fun i => BitVec.ofNat 8 ((freeAt 512 ((a + i) / 64) s).toNat / 256 ^ ((a + i) % 64))), true)

/-- A read by address whose lines the outside delivers where they do not lie here: `remote` gives those lines in order. -/
def readFrom (s : State) (who : Requester) (a n : Nat) (remote : List (BitVec 512)) : Option (List Byte × Bool) :=
  let g := BitVec.ofNat 64 a
  if isLocal s g && spaceOf g ≠ 4 then (engineBytes s who a n).2
  else
    let k := (a + n + 63) / 64 - a / 64
    if remote.length < k then none
    else some ((((remote.take k).flatMap lineBytes).drop (a % 64)).take n, false)

/-- Lines of `remote` that such a read uses up. -/
def remoteUsed (s : State) (a n : Nat) : Nat :=
  let g := BitVec.ofNat 64 a
  if isLocal s g && spaceOf g ≠ 4 then 0 else (a + n + 63) / 64 - a / 64

/-! Sequence descriptors (Table 11.3) -/

structure SeqDesc where
  state : Nat
  prio : Nat
  sflags : Nat
  loop : Nat
  tenant : Nat
  geom : Nat
  heads : Nat
  layers : Nat
  leaves : Nat
  lc : Nat
  lmax : Nat
  swapGen : Nat
  dir : Nat
  lastStep : Nat
  prompt : Nat
  pleft : Nat
  gleft : Nat
  stop : Nat
  next : Nat
  seed : Nat
  temp : Nat
  topp : Nat
  topk : Nat
  outSize : Nat
  out : Nat
  bytesBase : Nat
  bytesSize : Nat
  chk : Nat
  prefix_ : Nat
  outWr : Nat
  bytesWr : Nat
  deriving DecidableEq, Repr

def parseDesc (b : List Byte) : SeqDesc :=
  let f := fieldOf b
  ⟨f 0 1, f 1 1, f 2 1, f 3 1, f 4 2, f 6 1, f 7 1, f 8 2, f 10 1, f 12 4, f 16 4, f 20 4, f 24 8, f 32 8, f 40 8, f 48 4, f 52 4,
    f 56 4, f 60 4, f 64 8, f 72 4, f 76 4, f 80 2, f 84 4, f 88 8, f 96 8, f 104 4, f 108 4, f 112 8, f 120 4, f 124 4⟩

/-- Bytes 0 to 63 and 64 to 127 of a descriptor. -/
def descLow (d : SeqDesc) : List Byte :=
  natLe 1 d.state ++ natLe 1 d.prio ++ natLe 1 d.sflags ++ natLe 1 d.loop ++ natLe 2 d.tenant ++ natLe 1 d.geom ++ natLe 1 d.heads ++
    natLe 2 d.layers ++ natLe 1 d.leaves ++ natLe 1 0 ++ natLe 4 d.lc ++ natLe 4 d.lmax ++ natLe 4 d.swapGen ++ natLe 8 d.dir ++
    natLe 8 d.lastStep ++ natLe 8 d.prompt ++ natLe 4 d.pleft ++ natLe 4 d.gleft ++ natLe 4 d.stop ++ natLe 4 d.next

def descHigh (d : SeqDesc) : List Byte :=
  natLe 8 d.seed ++ natLe 4 d.temp ++ natLe 4 d.topp ++ natLe 2 d.topk ++ natLe 2 0 ++ natLe 4 d.outSize ++ natLe 8 d.out ++
    natLe 8 d.bytesBase ++ natLe 4 d.bytesSize ++ natLe 4 d.chk ++ natLe 8 d.prefix_ ++ natLe 4 d.outWr ++ natLe 4 d.bytesWr

def descAddr (s : State) (n : Nat) : Nat := rd64 s Fld.SEQ_DESC_BASE_LO_ADDR Fld.SEQ_DESC_BASE_HI_ADDR + 128 * n

/-- Descriptor n, and whether it carries poison. -/
def readDesc (s : State) (n : Nat) : SeqDesc × Bool := let r := hubRead s (descAddr s n) 128; (parseDesc r.1, r.2)

/-- A descriptor is written: bytes 64 to 127 first (R278). -/
def writeDesc (s : State) (n : Nat) (d : SeqDesc) : State :=
  let d := { d with chk := d.lastStep % 2 ^ 32 }
  let s := engineWrite s .sequencer (descAddr s n + 64) (descHigh d) false
  engineWrite s .sequencer (descAddr s n) (descLow d) false

def SeqDesc.flag (d : SeqDesc) (i : Nat) : Bool := bitsOf d.sflags i 1 = 1
def SeqDesc.setFlag (d : SeqDesc) (i : Nat) (v : Bool) : SeqDesc :=
  { d with sflags := if d.flag i = v then d.sflags else if v then d.sflags + 2 ^ i else d.sflags - 2 ^ i }
def SeqDesc.retain (d : SeqDesc) : Bool := d.flag 0
def SeqDesc.bytes (d : SeqDesc) : Bool := d.flag 1
def SeqDesc.tree (d : SeqDesc) : Bool := d.flag 2
def SeqDesc.regprefix (d : SeqDesc) : Bool := d.flag 3
def SeqDesc.cancel (d : SeqDesc) : Bool := d.flag 4
def SeqDesc.busy (d : SeqDesc) : Bool := d.flag 5
def SeqDesc.hkv (d : SeqDesc) : Bool := d.flag 6

/-- PREFILL, DECODE, IDLE, PREEMPTED and PARKED: a live sequence. -/
def SeqDesc.live (d : SeqDesc) : Bool := 1 ≤ d.state && d.state ≤ 5

/-- Descriptor numbers of a tenant (R302). -/
def tenantSeqs (s : State) (t : Nat) : List Nat :=
  (List.range (rd s Fld.SEQ_TDCNT_COUNT t)).map (fun i => rd s Fld.SEQ_TDESC_BASE t + i)

/-- Pages of a committed length. -/
def pagesOf (n : Nat) : Nat := ceilDiv n 64

/-! Page tables (R245 to R247) -/

def eUnit (e : Nat) : Nat := bitsOf e 0 13
def eBase (e : Nat) : Nat := bitsOf e 13 16
def eState (e : Nat) : Nat := bitsOf e 29 3
def eAge (e : Nat) : Nat := bitsOf e 32 9
def eHi (e : Nat) : Nat := bitsOf e 41 7
def eScore (e : Nat) : Nat := bitsOf e 48 16

def mkEntry (low state age hi score : Nat) : Nat :=
  low % 2 ^ 29 + state % 8 * 2 ^ 29 + age % 512 * 2 ^ 32 + hi % 128 * 2 ^ 41 + score % 2 ^ 16 * 2 ^ 48

/-- UNIT and BASE_ROW of a placed page. -/
def placeBits (unit base : Nat) : Nat := unit % 2 ^ 13 + base % 2 ^ 16 * 2 ^ 13

def withState (e st : Nat) : Nat := mkEntry e st (eAge e) (eHi e) (eScore e)

/-- Hashed line number of a directory entry's 8 bytes, and its byte. -/
def dirIndex (d : SeqDesc) (p : PageId) : Nat := d.dir + 8 * ((p.layer * d.heads + p.head) * d.leaves + p.page / 512)

/-- The caches of the KV manager hold a line. -/
def cachedTable (s : State) (line : Nat) : Option (BitVec 512) :=
  ((s.kvm.walk ++ s.kvm.leafCache.flatMap (·.2)).find? (fun x => x.line = line)).map (·.data)

/-- Eight bytes of a table, at a hashed offset, as the KV manager sees them: a cached line as cached. -/
def tableWord (s : State) (off : Nat) : Nat × Bool :=
  match cachedTable s (off / 64) with
  | some d => (bitsOf d.toNat (off % 64 * 8) 64, false)
  | none => let r := hubRead s (localAddr s 0 (off / 8 * 8)) 8; (leNat r.1, r.2)

/-- Hashed offset of a page's leaf entry: none where the directory has no leaf. -/
def leafOffset (s : State) (d : SeqDesc) (p : PageId) : Option Nat × Bool :=
  let e := tableWord s (dirIndex d p)
  (if e.1 % 2 = 1 then some (bitsOf e.1 12 29 * 4096 + 8 * (p.page % 512)) else none, e.2)

/-- The leaf entry of a page, 0 where it has none, and its poison. -/
def leafEntry (s : State) (d : SeqDesc) (p : PageId) : Nat × Bool :=
  match leafOffset s d p with
  | (some off, q) => let e := tableWord s off; (e.1, q || e.2)
  | (none, q) => (0, q)

/-- A leaf entry is written, and every cached copy of its line dropped (R247). -/
def setEntry (s : State) (d : SeqDesc) (p : PageId) (e : Nat) : State :=
  match (leafOffset s d p).1 with
  | none => s
  | some off =>
    let s := engineWrite s (.kvm none) (localAddr s 0 off) (natLe 8 e) false
    let keep (l : List CachedLine) := l.filter (fun x => x.line ≠ off / 64)
    { s with kvm := { s.kvm with
      walk := keep s.kvm.walk
      leafCache := (s.kvm.leafCache.map (fun x => (x.1, keep x.2))).filter (fun x => x.2 ≠ []) } }

/-- A line enters a cache of a given size, the oldest leaving. -/
def pushLine (l : List CachedLine) (size : Nat) (x : CachedLine) : List CachedLine :=
  if l.any (fun y => y.line = x.line) then l else (l ++ [x]).drop ((l ++ [x]).length - size)

/-- Stack of a placed or evicted entry. -/
def eStack (e : Nat) : Nat := unitStack (eUnit e)

/-- A page's directory and leaf lines are cached: the leaf at the stack of its page (R247). A poisoned line is not cached. -/
def cachePage (s : State) (n : Nat) (d : SeqDesc) (p : PageId) : State :=
  let put (off : Nat) : Option CachedLine :=
    match hubLook s (localAddr s 0 (off / 64 * 64)) 64 with
    | some (b, false) => some ⟨n, d.tenant, off / 64, (cachedTable s (off / 64)).getD (lineOf b)⟩
    | _ => none
  let s1 := match put (dirIndex d p) with
    | some x => { s with kvm := { s.kvm with walk := pushLine s.kvm.walk 4096 x } }
    | none => s
  match (leafOffset s d p).1 with
  | none => s1
  | some off =>
    let e := (leafEntry s d p).1
    if eState e = 1 ∨ eState e = 2 then
      match put off with
      | some x => { s1 with kvm := { s1.kvm with
          leafCache := KMap.mod (fun _ => []) s1.kvm.leafCache (eStack e) (fun l => pushLine l 8192 x) } }
      | none => s1
    else s1

/-- Every page of a sequence up to a length. -/
def seqPages (d : SeqDesc) (n : Nat) : List PageId :=
  (List.range d.layers).flatMap (fun l => (List.range d.heads).flatMap (fun h => (List.range (pagesOf n)).map (fun p => ⟨l, h, p⟩)))

/-! Frames (R242, R244, R248) -/

def geomRec (code : Nat) : Geom := (geomOf code).getD ⟨3, 64, 8⟩

def pairFrames (code : Nat) : Nat := (geomRec code).frames
def setPair (s : State) (u : Nat) (p : Option Pair) : State :=
  { s with kvm := { s.kvm with pairs := KMap.set (fun _ => none) s.kvm.pairs u p } }

def frameUsed (p : Pair) (f : Nat) : Bool := decide (KMap.get (fun _ => 0) p.refs f ≠ 0) || p.zeroing.contains f

/-- A frame that holds a row kept in service though it fails its test (R348). -/
def frameWorn (s : State) (u code f : Nat) : Bool :=
  !s.ras.exhausted.isEmpty && (List.range (geomRec code).rows).any (fun r =>
    let x := pageRowAt (f * (geomRec code).frameRows) r
    s.ras.exhausted.contains (physRow (unitStack u) (u % 1024 / 16) (u / 8 % 2) (2 * (u % 8) + x.1) x.2))

/-- The lowest free frame of a pair for a geometry. -/
def pairFrame (s : State) (u code : Nat) : Option Nat :=
  match pairOf s u with
  | none => (List.range (pairFrames code)).find? (fun f => !frameWorn s u code f)
  | some p => if p.geom ≠ code then none else (List.range (pairFrames code)).find? (fun f => !frameUsed p f && !frameWorn s u code f)

def pairFree (s : State) (u code : Nat) : Nat :=
  match pairOf s u with
  | none => pairFrames code
  | some p => if p.geom ≠ code then 0 else pairFrames code - p.refs.length - p.zeroing.length

/-- A pair that pages may be placed in (R47, R145, R355). -/
def pairOpen (s : State) (u : Nat) : Bool :=
  let n := unitStack u
  let d := dieOfChan (u % 1024 / 16)
  let k := stk s n
  procDie s.img n d && bitsOf k.leaving d 1 = 0 && bitsOf k.entering d 1 = 0 && bitsOf k.clearing d 1 = 0 &&
    !s.ras.retiredUnits.contains (n * 1024 + u % 1024) && !s.saf.units.contains (n * 1024 + u % 1024)

/-- Pairs of a stack in the order of R248: core die fastest, then pseudo-channel, channel, pair. -/
def stackPairs (n : Nat) : List Nat :=
  (List.range 1024).map (fun i =>
    placedUnit n (unitNo (i % 16 * 4 + i / 32 % 4) (i / 16 % 2) (i / 128)))

def openPairs (s : State) (n : Nat) : List Nat := (stackPairs n).filter (pairOpen s)

def reservedIn (s : State) (n code : Nat) : Nat :=
  (s.kvm.reserved.filter (fun r => r.stack = n ∧ ((readDesc s r.seq).1).geom = code)).length

/-- Free frames of a geometry in a stack, unformatted pairs at their frame count. -/
def stackFree (s : State) (n code : Nat) : Nat := ((openPairs s n).map (fun u => pairFree s u code)).foldl (· + ·) 0

/-- Frames of a geometry in a stack that wait for zeroing. -/
def stackZeroing (s : State) (n code : Nat) : Nat :=
  ((openPairs s n).map (fun u => match pairOf s u with
    | some p => if p.geom = code then p.zeroing.length else 0
    | none => 0)).foldl (· + ·) 0

def litStacks : List Nat := (List.range 8).map stackOfSlot

/-- A reference to a frame is taken: a free one is placed for a tenant. -/
def takeFrame (s : State) (t u code f : Nat) : State :=
  let p := (pairOf s u).getD ⟨code, [], []⟩
  let s := setPair s u (some { p with refs := KMap.set (fun _ => 0) p.refs f 1 })
  { s with
    kvm := { s.kvm with frames := KMap.mod (fun _ => 0) s.kvm.frames t (· + 1) }
    mem := { s.mem with bounds := { s.mem.bounds with
      frames := KMap.set (fun _ => none) s.mem.bounds.frames (frameKey u (f * (geomRec code).frameRows)) (some t) } } }

/-- A reference to a frame is given up; the last one sends it to zeroing (R244, R274). -/
def dropFrame (s : State) (t u base : Nat) : State :=
  match pairOf s u with
  | none => s
  | some p =>
    let f := base / (geomRec p.geom).frameRows
    let c := KMap.get (fun _ => 0) p.refs f
    if c = 0 then s
    else if c > 1 then setPair s u (some { p with refs := KMap.set (fun _ => 0) p.refs f (c - 1) })
    else
      let s := setPair s u (some { p with refs := KMap.set (fun _ => 0) p.refs f 0, zeroing := KSet.add p.zeroing f })
      { s with
        kvm := { s.kvm with frames := KMap.mod (fun _ => 0) s.kvm.frames t (· - 1) }
        mem := { s.mem with bounds := { s.mem.bounds with
          frames := KMap.set (fun _ => none) s.mem.bounds.frames (frameKey u base) none } } }

/-- The references of a frame. -/
def frameRefs (s : State) (u base : Nat) : Nat :=
  match pairOf s u with
  | none => 0
  | some p => KMap.get (fun _ => 0) p.refs (base / (geomRec p.geom).frameRows)

/-- The stack of a span: that of its first resident or shared page, or of a frame reserved in it (R248). -/
def spanStack (s : State) (n : Nat) (d : SeqDesc) (p : PageId) : Option Nat :=
  let first := p.page / 64 * 64
  let placed := (List.range 64).findSome? (fun i =>
    let e := (leafEntry s d { p with page := first + i }).1
    if eState e = 1 ∨ eState e = 2 then some (eStack e) else none)
  match placed with
  | some k => some k
  | none => (s.kvm.reserved.find? (fun r => r.seq = n ∧ r.page.layer = p.layer ∧ r.page.head = p.head ∧ r.page.page / 64 = p.page / 64)).map (·.stack)

/-- The element of a list with the greatest value, the first of equals. -/
def bestOf {α : Type} (f : α → Nat) : List α → Option α
  | [] => none
  | x :: t => match bestOf f t with
    | none => some x
    | some y => if f y > f x then some y else some x

/-- The pair and frame that a page takes in a stack (R248). -/
def choosePlace (s : State) (d : SeqDesc) (p : PageId) (n : Nat) : Option (Nat × Nat × Option Nat) :=
  let code := d.geom
  let mate := { p with page := if p.page % 2 = 0 then p.page + 1 else p.page - 1 }
  let e := (leafEntry s d mate).1
  let near := if (eState e = 1 ∨ eState e = 2) ∧ eStack e = n ∧ pairOpen s (eUnit e) = true then pairFrame s (eUnit e) code else none
  match near with
  | some f => some (eUnit e, f, none)
  | none =>
    let start := KMap.get (fun _ => 0) s.kvm.rr n
    let order := (stackPairs n).zipIdx
    (order.drop start ++ order.take start).findSome? (fun x =>
      if pairOpen s x.1 then (pairFrame s x.1 code).map (fun f => (x.1, f, some ((x.2 + 1) % 1024))) else none)

/-- A page is placed in a stack: the state, its pair and base row; none where no frame is free. -/
def placePage (s : State) (d : SeqDesc) (p : PageId) (n : Nat) : Option (State × Nat × Nat) :=
  (choosePlace s d p n).map (fun c =>
    let s := takeFrame s d.tenant c.1 d.geom c.2.1
    let s := match c.2.2 with
      | some r => { s with kvm := { s.kvm with rr := KMap.set (fun _ => 0) s.kvm.rr n r } }
      | none => s
    (s, c.1, c.2.1 * (geomRec d.geom).frameRows))

/-! Rows of pages -/

/-- A page row of a frame. -/
def frameRow (s : State) (u base r : Nat) : List Byte :=
  let x := pageRowAt base r
  readRow s (unitStack u) (u % 1024 / 16) (u / 8 % 2) (2 * (u % 8) + x.1) x.2

def setFrameRow (s : State) (u base r : Nat) (bs : List Byte) : State :=
  let x := pageRowAt base r
  writeRow s (unitStack u) (u % 1024 / 16) (u / 8 % 2) (2 * (u % 8) + x.1) x.2 bs

/-- Rows of a page at a hashed offset (R263). -/
def poolRow (s : State) (off r : Nat) : List Byte × Bool := hubRead s (localAddr s 0 (off + r * 1024)) 1024
def setPoolRow (s : State) (off r : Nat) (bs : List Byte) (p : Bool) : State :=
  engineWrite s (.kvm none) (localAddr s 0 (off + r * 1024)) bs p

/-! Regions: swap and hashed pools (R263, R268) -/

/-- First fit of a length among used stretches. -/
def firstFit (used : List (Nat × Nat)) (size len : Nat) : Option Nat :=
  let ends := 0 :: used.map (fun x => x.1 + x.2)
  let ok := ends.filter (fun o => decide (o + len ≤ size) && used.all (fun x => decide (o + len ≤ x.1) || decide (x.1 + x.2 ≤ o)))
  match ok with
  | [] => none
  | x :: t => some (t.foldl Nat.min x)

/-- Entry of a tenant in a table of 16-byte entries. -/
def tableEntry (s : State) (lo hi : Field) (t : Nat) : List Byte := (hubRead s (rd64 s lo hi + 16 * t) 16).1

/-- BASE, SIZE in KiB and KIND of a tenant's swap region. -/
def swapRegion (s : State) (t : Nat) : Nat × Nat × Nat :=
  let b := tableEntry s Fld.KVM_SWAPTAB_LO_ADDR Fld.KVM_SWAPTAB_HI_ADDR t
  (fieldOf b 0 8, fieldOf b 8 4, fieldOf b 12 1)

/-- Hashed offset and size in 4 KiB units of a tenant's pool. -/
def hkvPool (s : State) (t : Nat) : Nat × Nat :=
  let b := tableEntry s Fld.KVM_HKVTAB_LO_ADDR Fld.KVM_HKVTAB_HI_ADDR t
  (fieldOf b 0 8 % 2 ^ 41, fieldOf b 8 4)

def usedOf (l : List (Nat × Nat × Nat)) (t : Nat) : List (Nat × Nat) := (l.filter (fun x => x.1 = t)).map (·.2)

/-- Units of 4 KiB of a page in the pool. -/
def poolUnits (code : Nat) : Nat := ceilDiv (geomRec code).rows 4

/-- A page of a hashed sequence is placed: its hashed offset. -/
def placePool (s : State) (d : SeqDesc) : Option (State × Nat) :=
  let r := hkvPool s d.tenant
  let k := poolUnits d.geom
  (firstFit (usedOf s.kvm.poolUsed d.tenant) r.2 k).map (fun o =>
    ({ s with kvm := { s.kvm with
        poolUsed := s.kvm.poolUsed ++ [(d.tenant, o, k)]
        poolRefs := KMap.set (fun _ => 0) s.kvm.poolRefs (r.1 + 4096 * o) 1
        frames := KMap.mod (fun _ => 0) s.kvm.frames d.tenant (· + k) } }, r.1 + 4096 * o))

/-- A reference to a page of the pool is given up; the last one writes its units with zeros and frees them (R263). -/
def dropPool (s : State) (d : SeqDesc) (off : Nat) : State :=
  let c := KMap.get (fun _ => 0) s.kvm.poolRefs off
  let r := hkvPool s d.tenant
  let k := poolUnits d.geom
  if c > 1 then { s with kvm := { s.kvm with poolRefs := KMap.set (fun _ => 0) s.kvm.poolRefs off (c - 1) } }
  else
    let s := (List.range (4 * k)).foldl (fun s i => setPoolRow s off i (List.replicate 1024 0#8) false) s
    { s with kvm := { s.kvm with
      poolRefs := KMap.set (fun _ => 0) s.kvm.poolRefs off 0
      poolUsed := s.kvm.poolUsed.filter (fun x => !(x.1 = d.tenant ∧ r.1 + 4096 * x.2.1 = off))
      frames := KMap.mod (fun _ => 0) s.kvm.frames d.tenant (· - k) } }

/-- Hashed offset of a STATE 5 entry. -/
def ePool (e : Nat) : Nat := bitsOf e 0 29 * 4096
/-- Swap offset of a STATE 4 entry, in KiB. -/
def eSwap (e : Nat) : Nat := bitsOf e 0 29 + eHi e * 2 ^ 29
/-- A shared page (R246). -/
def eShared (e : Nat) : Bool := eState e = 2 || (eState e = 5 && eHi e % 2 = 1)

/-- Swap-region space of a page is freed. -/
def dropSwap (s : State) (t off : Nat) : State :=
  { s with kvm := { s.kvm with swapUsed := s.kvm.swapUsed.filter (fun x => !(x.1 = t ∧ x.2.1 = off)) } }

/-- Whatever a page's entry holds is given up. -/
def dropPage (s : State) (d : SeqDesc) (e : Nat) : State :=
  match eState e with
  | 1 => dropFrame s d.tenant (eUnit e) (eBase e)
  | 2 => dropFrame s d.tenant (eUnit e) (eBase e)
  | 4 => dropSwap s d.tenant (eSwap e)
  | 5 => dropPool s d (ePool e)
  | _ => s

/-- The pages of a sequence up to a length are given up, and their entries become absent. -/
def dropPages (s : State) (d : SeqDesc) (n : Nat) : State :=
  (seqPages d n).foldl (fun s p =>
    let e := (leafEntry s d p).1
    if eState e = 0 then s else setEntry (dropPage s d e) d p 0) s

/-! Growth (R265 to R267) -/

def tenantFrames (s : State) (t : Nat) : Nat := KMap.get (fun _ => 0) s.kvm.frames t
def quotaOf (s : State) (t : Nat) : Nat := rd s Fld.SEQ_TPQUOTA_FRAMES t

/-- Sequences whose swap-out runs or waits. -/
def swapping (s : State) (n : Nat) : Bool := (s.kvm.swapOut.toList ++ s.kvm.swaps).any (fun j => j.seq = n)

/-- Unshared frames that the swap-outs under way will still free, in a stack (or anywhere) for a geometry. -/
def swapPending (s : State) (t : Nat) (stack : Option Nat) (code : Nat) : Nat :=
  ((s.kvm.swapOut.toList ++ s.kvm.swaps).map (fun j =>
    let d := (readDesc s j.seq).1
    if stack.isNone ∧ d.tenant ≠ t then 0
    else (j.pages.filter (fun p =>
      let e := (leafEntry s d p).1
      eState e = 1 && d.geom = code && (stack.elim true (fun k => eStack e = k)))).length)).foldl (· + ·) 0

def reservedOf (s : State) (t : Nat) : Nat := (s.kvm.reserved.filter (fun r => ((readDesc s r.seq).1).tenant = t)).length

/-- Frames of a stack that a need can count on, and whether the quota leaves room. -/
def roomIn (s : State) (t n code : Nat) : Bool :=
  decide (reservedIn s n code < stackFree s n code + stackZeroing s n code + swapPending s t (some n) code)
def quotaRoom (s : State) (t code k : Nat) : Bool :=
  decide (tenantFrames s t + reservedOf s t + k ≤ quotaOf s t + swapPending s t none code)

/-- A protected page (R265). -/
def protectedPage (d : SeqDesc) (p : PageId) (e : Nat) : Bool :=
  decide (p.page < 4) || decide (p.page + 16 ≥ pagesOf d.lc) || decide (eAge e < 256) || decide (eState e = 2)

/-- BF16 scores in order. -/
def scoreLess (x y : Nat) : Bool := fLt bf16 x y

/-- The page that eviction takes: the lowest SCORE, ties to the lowest layer, head, page. -/
def victimPage (s : State) (d : SeqDesc) (stack : Option Nat) : Option (PageId × Nat) :=
  let l := ((seqPages d d.lc).map (fun p => (p, (leafEntry s d p).1))).filter (fun x =>
    eState x.2 = 1 && !protectedPage d x.1 x.2 && stack.elim true (fun k => eStack x.2 = k))
  match l with
  | [] => none
  | x :: t => some (t.foldl (fun a b => if scoreLess (eScore b.2) (eScore a.2) then b else a) x)

/-- A page is evicted (R265). -/
def evict (s : State) (d : SeqDesc) (p : PageId) (e : Nat) : State :=
  let s := setEntry s d p (withState e 3)
  let s := dropFrame s d.tenant (eUnit e) (eBase e)
  wr64 s Fld.KVM_EVICTED_LO_COUNT Fld.KVM_EVICTED_HI_COUNT
    ((rd64 s Fld.KVM_EVICTED_LO_COUNT Fld.KVM_EVICTED_HI_COUNT + 1) % 2 ^ 64)

/-- Unshared pages of a sequence that hold memory. -/
def ownPages (s : State) (d : SeqDesc) : List (PageId × Nat) :=
  ((seqPages d d.lc).map (fun p => (p, (leafEntry s d p).1))).filter (fun x =>
    eState x.2 = 1 || (eState x.2 = 5 && !eShared x.2))

/-- The rows of all its pages fit in the free part of the swap region. -/
def swapFits (s : State) (t rows k : Nat) : Bool :=
  let r := swapRegion s t
  ((List.range k).foldl (fun (u : Option (List (Nat × Nat))) _ =>
    u.bind (fun l => (firstFit l r.2.1 rows).map (fun o => (o, rows) :: l))) (some (usedOf s.kvm.swapUsed t))).isSome

/-- A sequence has a request queued, held or running. -/
def hasRequest (s : State) (n : Nat) : Bool :=
  s.kvm.runs.any (fun r => r.seq = n) ||
  (s.kvm.queue ++ s.kvm.held).any (fun a => fieldOf (hubRead s a.addr 4).1 0 4 % 2 ^ 18 = n)

/-- Whether a sequence may be pre-empted for a need in a stack, or for the quota (R267). -/
def mayVictim (s : State) (grow n : Nat) (d g : SeqDesc) (stack : Option Nat) : Bool :=
  let own := ownPages s d
  n ≠ grow && (d.state = 1 || d.state = 2 || d.state = 3) && d.tenant = g.tenant && !d.busy && !swapping s n && !hasRequest s n &&
    own.any (fun x => stack.elim true (fun k => eState x.2 = 1 && eStack x.2 = k && d.geom = g.geom) &&
      (g.hkv = false || eState x.2 = 5)) &&
    (swapRegion s d.tenant).2.2 ≠ 0 && swapFits s d.tenant (geomRec d.geom).rows own.length

/-- The victim of R267: lowest PRIO, then most frames in the needed stack, then the highest number. -/
def chooseVictim (s : State) (grow : Nat) (g : SeqDesc) (stack : Option Nat) : Option Nat :=
  let l := ((tenantSeqs s g.tenant).map (fun n => (n, (readDesc s n).1))).filter (fun x => mayVictim s grow x.1 x.2 g stack)
  let held (d : SeqDesc) : Nat := ((ownPages s d).filter (fun x => stack.elim true (fun k => eStack x.2 = k))).length
  match l with
  | [] => none
  | x :: t => some (t.foldl (fun a b =>
      if b.2.prio < a.2.prio then b
      else if b.2.prio > a.2.prio then a
      else if held b.2 ≥ held a.2 then b else a) x).1

/-- A swap-out is queued (R269): needed stack first, then ascending layer, head and page. -/
def queueSwap (s : State) (n : Nat) (d : SeqDesc) (stack : Option Nat) : State :=
  let own := ownPages s d
  let first := own.filter (fun x => stack.elim false (fun k => eState x.2 = 1 && eStack x.2 = k))
  let rest := own.filter (fun x => !(stack.elim false (fun k => eState x.2 = 1 && eStack x.2 = k)))
  let pages := (first ++ rest).map (·.1)
  let s := inc (flag s Fld.KVM_EVENT_PREEMPT) Fld.KVM_PREEMPTS_COUNT
  let s := { s with kvm := { s.kvm with swaps := s.kvm.swaps ++ [⟨n, stack, pages, pages.length⟩] } }
  modLoop s d.loop (fun l => { l with notices := l.notices ++ [⟨n, 0xFFFFFFFF, 0, 4, []⟩] })

/-- A growing sequence is parked (R266). -/
def park (s : State) (n : Nat) (d : SeqDesc) : State :=
  let s := inc (flag s Fld.KVM_EVENT_PARK) Fld.KVM_PARKS_COUNT
  let s := { s with kvm := { s.kvm with parked := addNew s.kvm.parked n } }
  writeDesc s n { d with state := 5 }

def reserve (s : State) (loop step n : Nat) (p : PageId) (k : Nat) : State :=
  { s with kvm := { s.kvm with reserved := s.kvm.reserved ++ [⟨loop, step, n, p, k⟩] } }

def isReserved (s : State) (n : Nat) (p : PageId) : Bool := s.kvm.reserved.any (fun r => r.seq = n ∧ r.page = p)

/-- The stack a need falls in: the span's, else the one with the most free frames, ties to the lowest slot (R248, R266). -/
def needStack (s : State) (n : Nat) (d : SeqDesc) (p : PageId) : Nat :=
  match spanStack s n d p with
  | some k => k
  | none => (bestOf (fun k => stackFree s k d.geom + stackZeroing s k d.geom - reservedIn s k d.geom) litStacks).getD 0

/-- Room in the pool of a hashed sequence, what swap-outs will free and what is reserved counted. -/
def poolRoom (s : State) (d : SeqDesc) : Bool :=
  decide (((usedOf s.kvm.poolUsed d.tenant).map (·.2)).foldl (· + ·) 0 + (reservedOf s d.tenant + 1) * poolUnits d.geom ≤ (hkvPool s d.tenant).2)

/-- One page is needed (R266): it is reserved, with an eviction or a pre-emption where no page is free. False: nothing met the need. -/
def need (s : State) (loop step n : Nat) (d : SeqDesc) (p : PageId) (mayPreempt : Bool) : State × Bool :=
  let k := needStack s n d p
  let units := if d.hkv then poolUnits d.geom else 1
  let room := if d.hkv then poolRoom s d else roomIn s d.tenant k d.geom
  let quota := quotaRoom s d.tenant d.geom units
  if room && quota then (reserve s loop step n p k, true)
  else
    let evicts := rd s Fld.KVM_TCFG_EVICT d.tenant = 1 && !d.hkv
    match (if evicts then victimPage s d (if room then none else some k) else none) with
    | some x => (reserve (evict s d x.1 x.2) loop step n p k, true)
    | none =>
      let stack := if room || d.hkv then none else some k
      match (if mayPreempt && decide (s.kvm.swaps.length < 64) then chooseVictim s n d stack else none) with
      | some v => (reserve (queueSwap s v (readDesc s v).1 stack) loop step n p k, true)
      | none => (s, false)

/-- The pages that an append of some tokens needs: absent ones, and copies of shared ones (R266). -/
def neededPages (s : State) (d : SeqDesc) (layer head k : Nat) : List PageId :=
  if k = 0 then []
  else
    let first := d.lc / 64
    let last := (d.lc + k - 1) / 64
    ((List.range (last + 1 - first)).map (fun i => (⟨layer, head, first + i⟩ : PageId))).filter (fun p =>
      let e := (leafEntry s d p).1
      eState e = 0 || eState e = 3 || eShared e)

/-- Pages are needed one after another; the first that nothing meets parks the sequence (R266). -/
def needAll (loop step n : Nat) (d : SeqDesc) : List PageId → State → State × Bool
  | [], s => (s, true)
  | p :: t, s =>
    if isReserved s n p then needAll loop step n d t s
    else
      let r := need s loop step n d p true
      if r.2 then needAll loop step n d t r.1 else (park r.1 n d, false)

/-- A new page's frame is taken where one is free, its reservation used up. -/
def placeNew (s : State) (n : Nat) (d : SeqDesc) (p : PageId) : Option (State × Nat) :=
  let k := ((s.kvm.reserved.find? (fun r => r.seq = n ∧ r.page = p)).map (·.stack)).getD (needStack s n d p)
  let s := { s with kvm := { s.kvm with reserved := s.kvm.reserved.filter (fun r => !(r.seq = n ∧ r.page = p)) } }
  if d.hkv then (placePool s d).map (fun r => (r.1, mkEntry (r.2 / 4096) 5 0 0 0))
  else (placePage s d p k).map (fun r => (r.1, mkEntry (placeBits r.2.1 r.2.2) 1 0 0 0))

/-- All rows of a page are copied (R274). -/
def copyRows (s : State) (code src dst : Nat) : State :=
  (List.range (geomRec code).rows).foldl (fun s r =>
    if eState src = 5 then
      let x := poolRow s (ePool src) r
      setPoolRow s (ePool dst) r x.1 x.2
    else setFrameRow s (eUnit dst) (eBase dst) r (frameRow s (eUnit src) (eBase src) r)) s

/-- An append's page is placed; a shared one is copied first (R251, R274). None while no zeroed frame is free. -/
def preparePage (s : State) (n : Nat) (d : SeqDesc) (p : PageId) : Option State :=
  let e := (leafEntry s d p).1
  (placeNew s n d p).map (fun r =>
    if eShared e then
      let s := copyRows r.1 d.geom e r.2
      let s := setEntry s d p (mkEntry r.2 (eState r.2) (eAge e) 0 (eScore e))
      inc (dropPage s d e) Fld.KVM_COWS_COUNT
    else setEntry r.1 d p r.2)

def prepareAll (n : Nat) (d : SeqDesc) : List PageId → State → Option State
  | [], s => some s
  | p :: t, s => (preparePage s n d p).bind (prepareAll n d t)

end Sys2Proof.Machine
end

