-- ==== Sys2Proof/Machine/Kvm.lean ====
section
/-! DEFINITION. The KV manager's commands (10): attention requests, dispatch, completion, score updates, zeroing, swap, and table
invalidation (09 R238). -/

namespace Sys2Proof.Machine

/-! Entry of requests (R249, R286) -/

/-- The serving step of the launch that runs on a cluster. -/
def stepTag (s : State) (who : Requester) : StepTag :=
  match who with
  | .cluster c => (cl s c.val).running.bind (·.step)
  | _ => none

/-- A request is entered, or held while the queue is full. -/
def attEnter (s : State) (who : Requester) (a : Nat) : State :=
  let e : AttEntry := ⟨who, a, stepTag s who⟩
  if s.kvm.queue.length ≥ 4096 then { s with kvm := { s.kvm with held := s.kvm.held ++ [e] } }
  else { s with kvm := { s.kvm with queue := s.kvm.queue ++ [e] } }

/-- Held writes enter as entries free. -/
def attRefill (s : State) : State :=
  let k := 4096 - s.kvm.queue.length
  { s with kvm := { s.kvm with queue := s.kvm.queue ++ s.kvm.held.take k, held := s.kvm.held.drop k } }

/-- A request of step N + 1 is held while step N of its loop is uncommitted (R286). -/
def attHeld (s : State) (e : AttEntry) : Bool :=
  match e.tag with
  | none => false
  | some (l, n) => (loopOf s l).steps.any (fun t => decide (t.num < n))

/-! Checks (R252) -/

/-- A request descriptor (Table 10.4). -/
structure AttReq where
  seq : Nat
  layer : Nat
  head : Nat
  qn : Nat
  mode : Nat
  napp : Nat
  check : Bool
  score : Bool
  qaddr : Nat
  kvaddr : Nat
  dest : Nat
  cpl : Nat
  reserved : Bool
  deriving DecidableEq, Repr

def parseAtt (b : List Byte) : AttReq :=
  let q := fieldOf b 7 1
  let fl := fieldOf b 10 1
  ⟨fieldOf b 0 4 % 2 ^ 18, fieldOf b 4 2, fieldOf b 6 1, q % 16, q / 16 % 4, fieldOf b 8 2, fl % 2 = 1, fl / 2 % 2 = 1,
    fieldOf b 16 8, fieldOf b 24 8, fieldOf b 32 8, fieldOf b 40 8,
    fieldOf b 0 4 / 2 ^ 18 ≠ 0 || q / 64 ≠ 0 || decide (fl ≥ 4) || fieldOf b 11 5 ≠ 0 || fieldOf b 48 16 ≠ 0⟩

/-- The requesters that may enter a request; a cluster needs a tenant (R249). -/
def mayAttend (s : State) (who : Requester) : Bool :=
  match who with
  | .supervisor => true
  | .sequencer => true
  | .hostPf _ => true
  | .cluster c => (physTenant s.img c.val).isSome
  | _ => false

/-- An address in a space that Table 4.1 permits for data. -/
def attAddr (s : State) (a : Nat) : Bool := dataAddr s (BitVec.ofNat 64 a)

def cplValid (s : State) (a : Nat) : Bool :=
  let g := BitVec.ofNat 64 a
  a % 8 = 0 && isLocal s g && spaceOf g = 0 && hashedValid s (offOf g)

/-- A sequence that the reservation of a step parked or that left its batch (R284, R289). -/
def leftBatch (s : State) (tag : StepTag) (n : Nat) : Bool :=
  match tag with
  | none => false
  | some (l, k) => (loopOf s l).steps.any (fun t => decide (t.num = k) && t.left.contains n)

/-- The code a request is refused with, growth apart; 0 for none (R252, log 26). -/
def attRefusal (s : State) (e : AttEntry) (r : AttReq) (d : SeqDesc) : Nat :=
  let v := d.lc + r.napp
  let tree := r.mode = 1
  if !isReady s || !mayAttend s e.who then 1
  else if !d.live || (match tenantOf s e.who with
      | some t => decide (d.tenant ≠ t)
      | none => false) then 2
  else if decide (r.layer ≥ d.layers) || decide (r.head ≥ d.heads) || decide (r.qn > 8) || r.mode = 3 || decide (r.napp > 4096) ||
      (tree && decide (r.napp > 16)) || decide (v > 4194304) || decide (v > 32768 * d.leaves) || r.reserved then 3
  else if leftBatch s e.tag r.seq && s.kvm.parked.contains r.seq then 5
  else if d.state = 4 ∨ d.state = 5 ∨ swapping s r.seq = true then 4
  else if !cplValid s r.cpl || r.dest % 64 ≠ 0 || (r.qn ≠ 0 && (r.qaddr % 64 ≠ 0 || !attAddr s r.qaddr || !attAddr s r.dest)) ||
      (r.napp ≠ 0 && (r.kvaddr % 64 ≠ 0 || !attAddr s r.kvaddr)) then 6
  else 0

/-- The KV manager as it acts for a tenant. -/
def kvmFor (t : Nat) : Requester := .kvm (some (Fin.ofNat 1024 t))

/-- A step one of whose requests was refused fails, but for a sequence that left its batch (R289). -/
def failStep (s : State) (tag : StepTag) : State :=
  match tag with
  | none => s
  | some (l, k) => modLoop s l (fun x => { x with
      steps := x.steps.map (fun t => if t.num = k then { t with failed := true } else t) })

/-- A request is refused (R252). -/
def refuseAtt (s : State) (e : AttEntry) (r : AttReq) (code : Nat) : State :=
  let s := flag s Fld.KVM_EVENT_ERR
  let s := if rd s Fld.KVM_ERR_VALID = 1 then flag s Fld.KVM_ERR_OVERRUN
    else wr (flag (wr s Fld.KVM_ERR_CODE code) Fld.KVM_ERR_VALID) Fld.KVM_ERR_SEQ_SEQ r.seq
  let s := if cplValid s r.cpl then bump s e.who (BitVec.ofNat 64 r.cpl) (2 ^ 32) else s
  if (code = 4 ∨ code = 5) ∧ leftBatch s e.tag r.seq = true then s else failStep s e.tag

/-! Acceptance (R251) -/

/-- One page a request reads: its entry, UNIT and BASE_ROW where it is placed. -/
structure PageRef where
  page : Nat
  entry : Nat
  deriving DecidableEq, Repr

/-- The unit to which a page's ATTEND goes: an evicted page's goes to a unit of its span's stack that holds the queries (R251). -/
def attendUnit (ps : List PageRef) (p : PageRef) : Nat :=
  if eState p.entry = 3 then
    match ps.find? (fun q => q.page / 64 = p.page / 64 ∧ (eState q.entry = 1 ∨ eState q.entry = 2)) with
    | some q => eUnit q.entry
    | none => eUnit p.entry
  else eUnit p.entry

/-- Pages of a request in ascending order. -/
def requestPages (s : State) (d : SeqDesc) (r : AttReq) (v : Nat) : List PageRef :=
  (List.range (pagesOf v)).map (fun p => ⟨p, (leafEntry s d ⟨r.layer, r.head, p⟩).1⟩)

/-- The commands of a request, in the order in which each stack gets them. -/
def requestTodo (s : State) (d : SeqDesc) (r : AttReq) : List KvTodo :=
  let v := d.lc + r.napp
  let ps := requestPages s d r v
  let at_ (p : Nat) : Nat := (ps.getD p ⟨0, 0⟩).entry
  let appends := (List.range r.napp).map (fun n =>
    let pos := d.lc + n
    KvTodo.append n (eUnit (at_ (pos / 64))) (eBase (at_ (pos / 64))) (pos % 64))
  if r.qn = 0 then appends
  else
    let spans := (List.range ((ps.length + 63) / 64)).map (fun i => KvTodo.setup i (eStack (at_ (64 * i))))
    let units := (ps.map (attendUnit ps)).dedup
    let loads := units.flatMap (fun u => (List.range r.qn).map (fun k => KvTodo.load k u))
    let attends := ps.map (fun p =>
      let u := attendUnit ps p
      let last := !ps.any (fun q => q.page / 64 = p.page / 64 ∧ p.page < q.page ∧ attendUnit ps q = u)
      if eState p.entry = 3 then KvTodo.attend p.page u 0 1 0xFFFFFFFF last
      else KvTodo.attend p.page u (eBase p.entry) (Nat.min 64 (v - 64 * p.page)) (64 * p.page) last)
    appends ++ spans ++ loads ++ attends

/-- Query records of a request: none where one cannot be read. -/
def readQueries (s : State) (who : Requester) (a bytes : Nat) (remote : List (BitVec 512)) : Nat → Nat → Option (List (List Byte × Bool))
  | 0, _ => some []
  | n + 1, i =>
    let x := a + i * bytes
    (readFrom s who x bytes (remote.drop (remoteUsed s a (i * bytes)))).bind (fun r =>
      (readQueries s who a bytes remote n (i + 1)).map (fun t => r :: t))

def nextAtt (s : State) : Option (AttEntry × List AttEntry) := takeFirst (fun e => !attHeld s e) s.kvm.queue

/-- An accepted request becomes a run; `queries` are its records. -/
def startRun (s : State) (e : AttEntry) (r : AttReq) (d : SeqDesc) (queries : List (List Byte × Bool)) (poison : Bool) : State :=
  let g := geomRec d.geom
  let todo := if d.hkv then [] else requestTodo s d r
  let spans := if r.qn = 0 ∨ d.hkv = true then 0 else (pagesOf (d.lc + r.napp) + 63) / 64
  let run : AttRun := ⟨s.kvm.nextId, e.tag, r.seq, r.layer, r.head, r.qn, r.mode, r.check || rd s Fld.KVM_TCFG_CHECK d.tenant = 1,
    r.score, (List.range r.napp).map (fun n => r.kvaddr + n * 64 * g.appendLines), queries, r.dest, some r.cpl, d.tenant, d.geom, d.lc,
    d.lc + r.napp, d.hkv, todo, if d.hkv then 0 else r.napp + spans, [], [], [], false, poison⟩
  let s := { s with kvm := { s.kvm with
    nextId := s.kvm.nextId + 1
    runs := s.kvm.runs ++ [run]
    trees := if r.mode = 1 ∧ r.napp ≠ 0 then s.kvm.trees ++ [⟨e.tag, r.seq, r.layer, r.head, r.kvaddr⟩] else s.kvm.trees } }
  (List.range (pagesOf (d.lc + r.napp))).foldl (fun s p => cachePage s r.seq d ⟨r.layer, r.head, p⟩) s

/-- The entries a request uses carry poison. -/
def tablesPoisoned (s : State) (d : SeqDesc) (r : AttReq) : Bool :=
  (List.range (pagesOf (d.lc + r.napp))).any (fun p => (leafEntry s d ⟨r.layer, r.head, p⟩).2)

/-- The first request that R286 does not hold is accepted or refused (R251, R252). -/
def acceptRequest (s : State) (remote : List (BitVec 512)) : State :=
  match nextAtt s with
  | none => s
  | some (e, rest) =>
    let drop (s : State) : State := attRefill { s with kvm := { s.kvm with queue := rest } }
    match readFrom s e.who e.addr 64 remote with
    | none => drop (refuseAtt s e (parseAtt []) 6)
    | some (b, p0) =>
      let r := parseAtt b
      let ds := readDesc s r.seq
      let d := ds.1
      let code := if e.addr % 64 ≠ 0 then 6 else attRefusal s e r d
      if code ≠ 0 then drop (refuseAtt s e r code)
      else
        let bytes := 64 * (1 + (geomRec d.geom).qloadLines)
        match readQueries s (kvmFor d.tenant) r.qaddr bytes (remote.drop (remoteUsed s e.addr 64)) r.qn 0 with
        | none => drop (refuseAtt s e r 6)
        | some qs =>
          let pages := neededPages s d r.layer r.head r.napp
          let l := (e.tag.map (·.1)).getD 256
          let k := (e.tag.map (·.2)).getD 0
          let g := needAll l k r.seq d pages s
          if !g.2 then drop (refuseAtt g.1 e r 5)
          else
            match prepareAll r.seq d pages g.1 with
            | none => g.1
            | some s => drop (startRun s e r d qs (p0 || ds.2 || tablesPoisoned s d r))

/-- KVM_REQUEST_ACCEPT (R251); `remote` gives the lines of the request and its query records that lie at another part. -/
def execKvmRequestAccept (remote : List (BitVec 512)) (s : State) : Out := .next (acceptRequest (quiet s) remote)

/-! Completions of stack commands -/

/-- One completion is taken into its run's account. -/
def absorbOne (r : AttRun) (d : StkDone) : AttRun :=
  if r.id ≠ d.request then r
  else
    let r := { r with bad := r.bad || d.status ≠ 0, poison := r.poison || d.poison }
    if d.opcode = 0x10 then { r with open_ := r.open_ - 1 }
    else if d.opcode = 0x18 then { r with open_ := r.open_ - 1, rids := KMap.set (fun _ => none) r.rids d.tag none }
    else if d.opcode = 0x12 ∧ r.score = true then { r with stats := KMap.set (fun _ => none) r.stats d.tag (some (d.pmax, d.psum)) }
    else r

def absorb (s : State) : State :=
  { s with kvm := { s.kvm with runs := s.kvm.runs.map (fun r => s.kvm.done.foldl absorbOne r), done := [] } }

/-! Dispatch (R251, R253) -/

/-- The bucket of a request. -/
def bucketOf (v : Nat) : Nat := if v ≤ 128 then 0 else log2F (v - 1) + 1 - 7

/-- The stack an item goes to. -/
def todoStack : KvTodo → Nat
  | .append _ u _ _ => unitStack u
  | .setup _ n => n
  | .load _ u => unitStack u
  | .attend _ u _ _ _ _ => unitStack u

def runUnits (r : AttRun) : List Nat :=
  (r.todo.filterMap (fun t => match t with
    | .load _ u => some u
    | .attend _ u _ _ _ _ => some u
    | _ => none)).dedup

/-- Query slots that no other request holds on a unit this one uses. -/
def freeSlots (s : State) (r : AttRun) : List Nat :=
  let taken := (s.kvm.runs.filter (fun x => x.id ≠ r.id && x.slots ≠ [])).flatMap (·.slots)
  (List.range 8).filter (fun k => !taken.contains k)

/-- A RID that is free at a stack. -/
def freeRid (s : State) (n : Nat) : Option Nat :=
  let k := stk s n
  (List.range 128).find? (fun i =>
    (redOf k i).isNone && !s.kvm.runs.any (fun r => r.rids.any (fun e => e.2 = some (i, n))) &&
      !(k.waiting ++ k.queue).any (fun c => cmdOp c = 0x18 && hf c 26 2 = i))

/-- A header from its fields: byte offset, length, value. -/
def header (fs : List (Nat × Nat × Nat)) : BitVec 512 :=
  BitVec.ofNat 512 ((fs.map (fun f => f.2.2 % 256 ^ f.2.1 * 256 ^ f.1)).foldl (· + ·) 0)

/-- A command of a run to a bank pair of a stack. -/
def kvCmd (r : AttRun) (unit : Nat) (hd : List (Nat × Nat × Nat)) (payload : List (BitVec 512)) (poison : Bool) : StkCmd :=
  ⟨kvmFor r.tenant, unit % 1024 / 16, unit / 8 % 2, unit % 8, header hd, payload, poison, some r.id, false⟩

def linesOf (b : List Byte) : List (BitVec 512) := (List.range ((b.length + 63) / 64)).map (fun i => lineOf ((b.drop (64 * i)).take 64))

def slotMask (r : AttRun) : Nat := (r.slots.map (2 ^ ·)).foldl (· + ·) 0

/-- Header line of query record k. -/
def queryHeader (r : AttRun) (k : Nat) : List Byte × Bool := r.queries.getD k ([], false)

/-- The command of an item; none where its payload cannot be read. -/
def itemCmd (s : State) (r : AttRun) (remote : List (BitVec 512)) (t : KvTodo) : Option StkCmd :=
  let g := geomRec r.geom
  match t with
  | .append n u base slot =>
    (readFrom s (kvmFor r.tenant) (r.srcs.getD n 0) (64 * g.appendLines) remote).map (fun p =>
      kvCmd r u [(0, 1, 0x10), (1, 1, g.appendLines), (4, 4, n), (16, 2, base), (18, 1, r.geom), (19, 1, slot)] (linesOf p.1) p.2)
  | .setup span n =>
    let rid := (freeRid s n).getD 0
    let u := (r.todo.findSome? (fun t => match t with
      | .attend p u _ _ _ _ => if p / 64 = span then some u else none
      | _ => none)).getD 0
    let pages := pagesOf r.v
    some (kvCmd r u [(0, 1, 0x18), (4, 4, span), (26, 2, rid), (28, 1, r.geom), (29, 1, slotMask r),
      (32, 4, Nat.min 64 (pages - 64 * span)), (40, 8, r.dest + span * r.qn * recBytes g.d)] [] false)
  | .load k u =>
    let q := queryHeader r k
    some (kvCmd r u [(0, 1, 0x11), (1, 1, g.qloadLines), (4, 4, k), (16, 1, r.slots.getD k 0), (17, 1, r.geom),
      (20, 4, fieldOf q.1 16 4), (24, 4, fieldOf q.1 12 4), (28, 4, fieldOf q.1 4 4), (32, 2, fieldOf q.1 8 2),
      (36, 4, fieldOf q.1 20 4), (40, 4, fieldOf q.1 24 4)] (linesOf (q.1.drop 64)) q.2)
  | .attend page u base valid tok0 last =>
    let rid := ((KMap.get (fun _ => none) r.rids (page / 64)).map (·.1)).getD 0
    let evicted := tok0 = 0xFFFFFFFF
    some (kvCmd r u ([(0, 1, 0x12), (3, 1, (if last then 4 else 0) + (if r.check then 8 else 0)), (4, 4, page), (16, 2, base),
      (18, 1, r.geom), (19, 1, slotMask r), (20, 4, tok0), (24, 1, valid), (25, 1, if evicted then 0 else r.mode), (26, 2, rid),
      (28, 2, page % 64)] ++ r.slots.zipIdx.map (fun x => (32 + 4 * x.1, 4, fieldOf (queryHeader r x.2).1 0 4))) [] false)

/-- A unit is in eclipse (R360). -/
def unitEclipse (s : State) (u : Nat) : Bool := s.saf.units.contains (unitStack u * 1024 + u % 1024)

/-- Nothing holds an item back: a span waits for a RID, a unit for query slots (R251), and a unit in eclipse gets no command (R360). -/
def itemReady (s : State) (r : AttRun) : KvTodo → Bool
  | .append _ u _ _ => !unitEclipse s u
  | .setup _ n => decide (r.slots ≠ [] ∨ (freeSlots s r).length ≥ r.qn) && (freeRid s n).isSome
  | .load _ u => decide (r.slots ≠ [] ∨ (freeSlots s r).length ≥ r.qn) && !unitEclipse s u
  | .attend p u _ _ _ _ => (KMap.get (fun _ => none) r.rids (p / 64)).isSome && !unitEclipse s u

/-- The first item of a run for a stack, and the others. -/
def runHeadItem (r : AttRun) (n : Nat) : Option (KvTodo × List KvTodo) := takeFirst (fun t => decide (todoStack t = n)) r.todo

/-- Runs from the highest non-empty bucket down, in order of arrival (R253). -/
def runOrder (s : State) : List AttRun :=
  (List.range 16).flatMap (fun i => s.kvm.runs.filter (fun r => bucketOf r.v = 15 - i))

def putRun (s : State) (r : AttRun) : State :=
  { s with kvm := { s.kvm with runs := replaceFirst (fun x => decide (x.id = r.id)) (fun _ => r) s.kvm.runs } }

/-- One command goes to a stack (R253). A payload that cannot be read fails its request and is not issued. -/
def dispatch (s : State) (n : Nat) (remote : List (BitVec 512)) : State :=
  let s := absorb s
  match (runOrder s).find? (fun r => (runHeadItem r n).any (fun t => itemReady s r t.1)) with
  | none => s
  | some r =>
    match runHeadItem r n with
    | none => s
    | some (t, rest) =>
      let needsSlots := match t with
        | .append _ _ _ _ => false
        | _ => true
      let r := if needsSlots && r.slots.isEmpty then { r with slots := (freeSlots s r).take r.qn } else r
      match itemCmd s r remote t with
      | none => putRun s { r with todo := rest, bad := true, open_ := r.open_ - 1 }
      | some c =>
        let r := match t with
          | .setup span _ => { r with rids := KMap.set (fun _ => none) r.rids span (some ((freeRid s n).getD 0, n)) }
          | _ => r
        modStk (putRun s { r with todo := rest }) n (fun k => { k with waiting := k.waiting ++ [c] })

/-- KVM_DISPATCH (R253). -/
def execKvmDispatch (stack : Fin 12) (remote : List (BitVec 512)) (s : State) : Out := .next (dispatch (quiet s) stack.val remote)

/-! Scores (R264) -/

def fp32Of (v : FVal) : Nat := (roundIeee fp32 v).1

/-- δ = 1 − 2^(−DECAY). -/
def deltaOf (k : Nat) : Nat := if k = 0 then 0 else fp32Of (.fin false (2 ^ k - 1) (-(k : Int)))

/-- A page's statistics; an evicted page, and one whose record is missing, gives +0. -/
def pageStat (r : AttRun) (p : Nat) : Nat × Nat := (KMap.get (fun _ => none) r.stats p).getD (negInf32, 0)

/-- The updated scores of a request's pages. -/
def newScores (s : State) (r : AttRun) (d : SeqDesc) : List (PageId × Nat) :=
  let ps := (List.range (pagesOf r.v)).map (fun p => (p, pageStat r p))
  let live := (ps.filter (fun x => x.2.2 % 2 ^ 31 ≠ 0)).map (fun x => x.2.1)
  match live with
  | [] => []
  | m0 :: t =>
    let m := t.foldl (fun a b => (fMax fp32 a b).1) m0
    let e := ps.map (fun x => if x.2.2 % 2 ^ 31 = 0 then 0
      else (fMul fp32 x.2.2 (fExp2 fp32 (fSub fp32 x.2.1 m).1).1).1)
    let l := (tree (fun a b => (fAdd fp32 a b).1) e).getD 0
    let delta := deltaOf (rd s Fld.KVM_TCFG_DECAY d.tenant)
    ((List.range (pagesOf r.v)).zip e).map (fun x =>
      let p : PageId := ⟨r.layer, r.head, x.1⟩
      let w := (fDiv fp32 x.2 l).1
      let old := widen 1 (eScore (leafEntry s d p).1)
      (p, (narrow 1 (fAdd fp32 (fMul fp32 old delta).1 w)).1))

def setScore (s : State) (d : SeqDesc) (p : PageId) (score : Nat) : State :=
  let e := (leafEntry s d p).1
  if eState e = 1 ∨ eState e = 2 then setEntry s d p (mkEntry e (eState e) (eAge e) (eHi e) score) else s

/-- Scores are staged until the step's commit; those of no step are written at once. -/
def stageScores (s : State) (r : AttRun) (d : SeqDesc) : State :=
  if r.score && rd s Fld.KVM_TCFG_EVICT r.tenant = 1 && !d.hkv then
    (newScores s r d).foldl (fun s x =>
      if r.tag.isNone then setScore s d x.1 x.2
      else { s with kvm := { s.kvm with staged := s.kvm.staged ++ [⟨r.tag, r.seq, x.1, some x.2⟩] } }) s
  else s

/-! Completion (R251, R263) -/

/-- Appends of a hashed sequence are written, with the checksum rows (R263). -/
def hkvAppend (s : State) (d : SeqDesc) (r : AttRun) (n : Nat) (p : List Byte) (poison : Bool) : State :=
  let g := geomRec r.geom
  let pos := r.lc + n
  let off := ePool (leafEntry s d ⟨r.layer, r.head, pos / 64⟩).1
  let rows := appendedRows g (pos % 64) (fun i => (poolRow s off i).1) (payloadToken g p)
  rows.foldl (fun s x => setPoolRow s off x.1 x.2 (poison || (poolRow s off x.1).2)) s

def hkvAppends (s : State) (d : SeqDesc) (r : AttRun) (remote : List (BitVec 512)) : State × Bool :=
  let g := geomRec r.geom
  let bytes := 64 * g.appendLines
  r.srcs.zipIdx.foldl (fun (z : State × Bool) x =>
    match readFrom z.1 (kvmFor r.tenant) x.1 bytes (remote.drop (x.2 * g.appendLines)) with
    | some p => (hkvAppend z.1 d r x.2 p.1 p.2, z.2)
    | none => (z.1, true)) (s, false)

/-- The page addresses of a hashed sequence are written to DEST. -/
def hkvDest (s : State) (d : SeqDesc) (r : AttRun) : State :=
  if r.qn = 0 then s
  else
    engineWrite s (kvmFor r.tenant) r.dest ((List.range (pagesOf r.v)).flatMap (fun p =>
      natLe 8 (localAddr s 0 (ePool (leafEntry s d ⟨r.layer, r.head, p⟩).1)))) false

/-- A run ends: its completion count, or the step's fix-ups; a bad one fails its step (R251, R289, R343). -/
def endRun (s : State) (r : AttRun) : State :=
  let s := { s with kvm := { s.kvm with runs := s.kvm.runs.filter (fun x => x.id ≠ r.id) } }
  let s := if r.bad then failStep s r.tag else s
  match r.cpl with
  | some a => if r.poison then bumpPoison s (kvmFor r.tenant) (BitVec.ofNat 64 a) 1 else bump s (kvmFor r.tenant) (BitVec.ofNat 64 a) 1
  | none => match r.tag with
    | some (l, k) => modLoop s l (fun x => { x with
        steps := x.steps.map (fun t => if t.num = k then { t with fixups := t.fixups - 1 } else t) })
    | none => s

/-- The first request with nothing left to do completes. -/
def completeRequest (s : State) (remote : List (BitVec 512)) : State :=
  let s := absorb s
  match s.kvm.runs.find? (fun r => r.todo = [] ∧ r.open_ = 0) with
  | none => s
  | some r =>
    let d := (readDesc s r.seq).1
    if r.hkv then
      let z := hkvAppends s d r remote
      endRun (hkvDest z.1 d r) { r with bad := r.bad || z.2 }
    else endRun (stageScores s r d) r

/-- KVM_REQUEST_COMPLETE (R251); `remote` gives the appended payloads of a hashed sequence that lie at another part. -/
def execKvmRequestComplete (remote : List (BitVec 512)) (s : State) : Out := .next (completeRequest (quiet s) remote)

/-! Zeroing (R244) -/

/-- A command or a request's item still names a frame (R247). -/
def frameInUse (s : State) (u base : Nat) : Bool :=
  let n := unitStack u
  ((stk s n).waiting ++ (stk s n).queue).any (fun c => cmdPlaced n c = u && namedRows c ≠ [] && (namedRows c).any (fun r => decide (base ≤ r))) ||
  s.kvm.runs.any (fun r => r.todo.any (fun t => match t with
    | .append _ x b _ => decide (x = u ∧ b = base)
    | .attend _ x b _ tok _ => decide (x = u ∧ b = base ∧ tok ≠ 0xFFFFFFFF)
    | _ => false))

/-- A freed frame is written with zeros and returns to the pool; a wholly free pair is unformatted (R242, R244). -/
def zeroFrame (s : State) (u f : Nat) : State :=
  match pairOf s u with
  | none => s
  | some p =>
    let g := geomRec p.geom
    let base := f * g.frameRows
    if !p.zeroing.contains f || frameInUse s u base || stackClosed s (unitStack u) then s
    else
      let s := (List.range g.rows).foldl (fun s r => setFrameRow s u base r (List.replicate 1024 0#8)) s
      let p := { p with zeroing := KSet.del p.zeroing f }
      setPair s u (if p.refs = [] ∧ p.zeroing = [] then none else some p)

/-- FRAME_ZEROED (R244). -/
def execFrameZeroed (pair : Fin 8192) (frame : Fin 65536) (s : State) : Out := .next (zeroFrame (quiet s) pair.val frame.val)

/-! Swap (R268 to R271) -/

def swapState (s : State) (st : Nat) : State := wr s Fld.KVM_SWAP_STATUS_STATE st

/-- The next waiting swap-out begins, and its sequence is pre-empted (R269). -/
def startSwapOut (s : State) : State :=
  match s.kvm.swapOut, s.kvm.swaps with
  | none, j :: rest =>
    let d := (readDesc s j.seq).1
    let s := writeDesc s j.seq { d with state := 4, swapGen := (d.swapGen + 1) % 2 ^ 32 }
    let s := { s with kvm := { s.kvm with swapOut := some j, swaps := rest } }
    let s := swapState (wr (wr s Fld.KVM_SWAP_STATUS_SEQ j.seq) Fld.KVM_SWAP_STATUS_QUEUED rest.length) 1
    progress s Fld.KVM_SWAP_POS_LO_POS Fld.KVM_SWAP_POS_HI_POS Fld.KVM_SWAP_PCT_PCT 0 0 (Nat.max 1 j.total)
  | _, _ => s

/-- SWAP_OUT_START (R269). -/
def execSwapOutStart (s : State) : Out := .next (startSwapOut (quiet s))

/-- Tweak of a row (R270). -/
def swapTweak (n : Nat) (d : SeqDesc) (p : PageId) (row : Nat) : BitVec 128 :=
  BitVec.ofNat 128 (n % 2 ^ 18 + p.layer % 2 ^ 16 * 2 ^ 18 + p.head % 2 ^ 8 * 2 ^ 34 + p.page % 2 ^ 16 * 2 ^ 42 + row % 2 ^ 7 * 2 ^ 58 +
    d.swapGen * 2 ^ 65)

/-- The swap-out ends. -/
def endSwap (s : State) (st : Nat) : State :=
  swapState (flag { s with kvm := { s.kvm with swapOut := none } } Fld.KVM_EVENT_SWAP_END) st

/-- Rows of a page, with their poison. -/
def pageRows (s : State) (d : SeqDesc) (e : Nat) : List (List Byte × Bool) :=
  (List.range (geomRec d.geom).rows).map (fun r =>
    if eState e = 5 then poolRow s (ePool e) r else (frameRow s (eUnit e) (eBase e) r, false))

/-- One page is written out; `bad` tells that a row read uncorrectable. The swap fails where the tenant has no key or no room is left. -/
def swapPage (s : State) (bad : Bool) : State :=
  match s.kvm.swapOut with
  | none => s
  | some j =>
    let d := (readDesc s j.seq).1
    match j.pages with
    | [] => endSwap s 2
    | p :: rest =>
      let e := (leafEntry s d p).1
      let rows := (geomRec d.geom).rows
      let r := swapRegion s d.tenant
      let next (s : State) : State :=
        let s := { s with kvm := { s.kvm with swapOut := some { j with pages := rest } } }
        let done := j.total - rest.length
        let s := progress s Fld.KVM_SWAP_POS_LO_POS Fld.KVM_SWAP_POS_HI_POS Fld.KVM_SWAP_PCT_PCT done done (Nat.max 1 j.total)
        if rest = [] then endSwap s 2 else s
      if eShared e || !(eState e = 1 || eState e = 5) then next s
      else
        match KMap.get (fun _ => none) s.sec.keys d.tenant, firstFit (usedOf s.kvm.swapUsed d.tenant) r.2.1 rows with
        | some key, some o =>
          let s := { s with kvm := { s.kvm with swapUsed := s.kvm.swapUsed ++ [(d.tenant, o, rows)] } }
          let s := (pageRows s d e).zipIdx.foldl (fun s x =>
            engineWrite s (.kvm none) (r.1 + (o + x.2) * 1024) (Config.xtsEncrypt key (swapTweak j.seq d p x.2) x.1.1) (x.1.2 || bad)) s
          let s := setEntry s d p (mkEntry o 4 (eAge e) (o / 2 ^ 29) (eScore e))
          next (dropPage s d e)
        | _, _ => endSwap s 3

/-- SWAP_PAGE_OUT (R269). -/
def execSwapPageOut (bad : Bool) (s : State) : Out := .next (swapPage (quiet s) bad)

/-- The checksum rows of a page agree with its data rows (R243). -/
def checksumOk (g : Geom) (rows : List (List Byte)) : Bool :=
  let row (r : Nat) : List Byte := rows.getD r []
  sumWords g row = pageWords g row

/-- A swap-in fails: the frames are freed and the sequence ends with ERROR (R271). -/
def swapInFails (s : State) (j : SwapJob) (d : SeqDesc) : State :=
  let s := flag s Fld.KVM_EVENT_SWAPIN_FAIL
  let s := { s with kvm := { s.kvm with swapIn := s.kvm.swapIn.filter (fun x => x.seq ≠ j.seq) } }
  let s := dropPages s d d.lc
  let s := modLoop s d.loop (fun l => { l with notices := l.notices ++ [⟨j.seq, 5, 0, 0x609, []⟩] })
  writeDesc s j.seq { d with state := 6 }

/-- The state a swapped-in sequence returns to (log 27). -/
def resumeState (d : SeqDesc) : Nat := if d.pleft ≠ 0 then 1 else if d.gleft ≠ 0 then 2 else 3

/-- One page is read, checked and placed; `rows` is what the region delivers, none where it cannot be read. -/
def swapInPage (s : State) (rows : Option (List Byte)) : State :=
  match s.kvm.swapIn with
  | [] => s
  | j :: others =>
    let d := (readDesc s j.seq).1
    match j.pages with
    | [] => writeDesc { s with kvm := { s.kvm with swapIn := others } } j.seq { d with state := resumeState d }
    | p :: rest =>
      let e := (leafEntry s d p).1
      let next (s : State) : State :=
        if rest = [] then writeDesc { s with kvm := { s.kvm with swapIn := others } } j.seq { d with state := resumeState d }
        else { s with kvm := { s.kvm with swapIn := { j with pages := rest } :: others } }
      if eState e ≠ 4 then next s
      else
        let g := geomRec d.geom
        match rows, KMap.get (fun _ => none) s.sec.keys d.tenant with
        | some b, some key =>
          let plain := (List.range g.rows).map (fun r => Config.xtsDecrypt key (swapTweak j.seq d p r) (slice b (1024 * r) 1024))
          if b.length ≠ 1024 * g.rows || !checksumOk g plain then swapInFails s j d
          else
            match placeNew s j.seq d p with
            | none => s
            | some (s, x) =>
              let s := plain.zipIdx.foldl (fun s y =>
                if d.hkv then setPoolRow s (ePool x) y.2 y.1 false else setFrameRow s (eUnit x) (eBase x) y.2 y.1) s
              let s := setEntry s d p (mkEntry x (eState x) (eAge e) 0 (eScore e))
              next (dropSwap s d.tenant (eSwap e))
        | _, _ => swapInFails s j d

/-- SWAP_IN_PAGE (R271). -/
def execSwapInPage (rows : Option (List Byte)) (s : State) : Out := .next (swapInPage (quiet s) rows)

/-! Table invalidation (R238, R240) -/

/-- A key in range for its kind. -/
def tinvKey (kind key : Nat) : Bool :=
  if kind = 0 then decide (key < 262144) else if kind = 1 then decide (key < 1024) else if kind = 2 then decide (key < 2) else true

/-- A START written to HUB_TINV_CTRL. -/
def tinvStart (s : State) (kind : Nat) : State :=
  let key := rd64 s Fld.HUB_TINV_KEY_LO_KEY Fld.HUB_TINV_KEY_HI_KEY
  if rd s Fld.HUB_TINV_STATUS_BUSY = 1 ∨ tinvKey kind key = false then flag s Fld.HUB_TINV_STATUS_IGNORED
  else
    let s := wr (flag s Fld.HUB_TINV_STATUS_BUSY) Fld.HUB_TINV_STATUS_DONE 0
    { s with kvm := { s.kvm with tinv := some (kind, key) } }

/-- A cached line matches an invalidation. -/
def tinvHits (kind key : Nat) (x : CachedLine) : Bool := if kind = 0 then x.seq = key else if kind = 1 then x.tenant = key else kind = 3

/-- An access or command that translated through an old entry has not completed. -/
def tinvPending (s : State) (kind key : Nat) : Bool :=
  s.kvm.runs.any (fun r => if kind = 0 then r.seq = key else if kind = 1 then r.tenant = key else kind = 3) ||
  [0, 1].any (fun p => (kind = 3 || (kind = 2 && p = key)) && ((hport s p).outbound ++ (hport s p).open_).any (fun r => r.msix.isNone))

/-- TINV_DONE (R238). -/
def execTinvDone (s : State) : Out :=
  let s := quiet s
  .next (match s.kvm.tinv with
    | none => s
    | some (kind, key) =>
      if tinvPending s kind key then s
      else
        let keep (l : List CachedLine) := l.filter (fun x => !tinvHits kind key x)
        let s := { s with kvm := { s.kvm with
          tinv := none
          walk := keep s.kvm.walk
          leafCache := (s.kvm.leafCache.map (fun x => (x.1, keep x.2))).filter (fun x => x.2 ≠ []) } }
        let s := [0, 1].foldl (fun s p =>
          if kind = 3 ∨ (kind = 2 ∧ p = key) then setHport s p { hport s p with cache := [] } else s) s
        flag (wr s Fld.HUB_TINV_STATUS_BUSY 0) Fld.HUB_TINV_STATUS_DONE)

/-! Moves of frames (R145, R355) -/

/-- An entry that names a frame is written with its new place. -/
def retarget (s : State) (d : SeqDesc) (p : PageId) (u base x : Nat) : State :=
  let e := (leafEntry s d p).1
  if (eState e = 1 ∨ eState e = 2) ∧ eUnit e = u ∧ eBase e = base then
    setEntry s d p (mkEntry x (eState e) (eAge e) (eHi e) (eScore e))
  else s

/-- Every page-table entry and prefix record that names a frame of a tenant follows its move. -/
def retargetAll (s : State) (t u base x : Nat) : State :=
  let s := (tenantSeqs s t).foldl (fun s n =>
    let d := (readDesc s n).1
    if d.live ∧ d.tenant = t then (seqPages d d.lc).foldl (fun s p => retarget s d p u base x) s else s) s
  { s with kvm := { s.kvm with prefixes := s.kvm.prefixes.map (fun e => (e.1, e.2.map (fun r =>
      { r with entries := r.entries.map (fun y =>
        if (eState y = 1 ∨ eState y = 2) ∧ eUnit y = u ∧ eBase y = base then mkEntry x (eState y) (eAge y) (eHi y) (eScore y) else y) }))) } }

/-- A frame moves to another pair of the stacks given, the first with a free frame; none where there is no room. -/
def moveFrameIn (s : State) (u f : Nat) (ns : List Nat) : Option State :=
  match pairOf s u with
  | none => none
  | some p =>
    let g := geomRec p.geom
    let base := f * g.frameRows
    match frameTenant s (frameKey u base) with
    | none => none
    | some t =>
      let places := ns.flatMap (openPairs s)
      (places.findSome? (fun v => if v = u then none else (pairFrame s v p.geom).map (fun f => (v, f)))).map (fun v =>
        let dst := v.2 * g.frameRows
        let refs := KMap.get (fun _ => 0) p.refs f
        let s := takeFrame s t v.1 p.geom v.2
        let s := setPair s v.1 ((pairOf s v.1).map (fun q => { q with refs := KMap.set (fun _ => 0) q.refs v.2 refs }))
        let s := (List.range g.rows).foldl (fun s r => setFrameRow s v.1 dst r (frameRow s u base r)) s
        let s := retargetAll s t u base (placeBits v.1 dst)
        let s := setPair s u ((pairOf s u).map (fun q => { q with refs := KMap.set (fun _ => 0) q.refs f 1 }))
        dropFrame s t u base)

/-- A frame moves within its stack, or to another one where it has no room. -/
def moveFrame (s : State) (u f : Nat) : Option State :=
  let n := unitStack u
  moveFrameIn s u f (n :: litStacks.filter (fun k => k ≠ n))

/-- The frames in use of a pair. -/
def usedFrames (s : State) (u : Nat) : List Nat := (pairOf s u).elim [] (fun p => p.refs.map (·.1))

/-- Every frame of a pair moves away; false where one finds no room. -/
def clearPair (s : State) (u : Nat) : State × Bool :=
  (usedFrames s u).foldl (fun (z : State × Bool) f =>
    match moveFrame z.1 u f with
    | some s => (s, z.2)
    | none => (z.1, false)) (s, true)

/-! Registers (Table 10.6) -/

def freePages (s : State) : Nat :=
  let code := rd s Fld.KVM_FREE_SEL_GEOM
  ((litStacks.flatMap (openPairs s)).map (fun u => match pairOf s u with
    | some p => if p.geom = code then pairFree s u code else 0
    | none => 0)).foldl (· + ·) 0
def freePairs (s : State) : Nat := ((litStacks.flatMap (openPairs s)).filter (fun u => (pairOf s u).isNone)).length
def zeroingCount (s : State) : Nat := (s.kvm.pairs.map (fun e => e.2.elim 0 (fun p => p.zeroing.length))).foldl (· + ·) 0

end Sys2Proof.Machine
end

