-- ==== Sys2Proof/Machine/MemCmd.lean ====
section
/-! DEFINITION. The commands of the memory system (04): accesses at the home slice, background fill, the meteor path, zero-fill and the
hash probe. -/

namespace Sys2Proof.Machine

/-! Accesses at their point of order -/

/-- LINE_READ (R112): a line read by a hub-side requester, a cluster or another part. -/
def execLineRead (who : Requester) (addr : GAddr) (ecc : Ecc) (s : State) : Out :=
  .next (accessFor (quiet s) (.hub who) who addr .lineRead ecc)

/-- LINE_WRITE (R112, R345). -/
def execLineWrite (who : Requester) (addr : GAddr) (data : BitVec 512) (poison : Bool) (s : State) : Out :=
  .next (accessFor (quiet s) (.hub who) who addr (.lineWrite data poison) .clean)

/-- PARTIAL_STORE (R112): a store of less than a line. -/
def execPartialStore (who : Requester) (addr : GAddr) (data : List Byte) (poison : Bool) (ecc : Ecc) (s : State) : Out :=
  .next (accessFor (quiet s) (.hub who) who addr (.partialStore data poison) ecc)

/-- METEOR_READ (R109, R112). -/
def execMeteorRead (who : Requester) (addr : GAddr) (ecc : Ecc) (s : State) : Out :=
  .next (accessFor (quiet s) (.hub who) who addr .meteorRead ecc)

/-- METEOR_WRITE (R110, R112). -/
def execMeteorWrite (who : Requester) (addr : GAddr) (data : BitVec 256) (poison : Bool) (s : State) : Out :=
  .next (accessFor (quiet s) (.hub who) who addr (.meteorWrite data poison) .clean)

/-- WINDOW_ACCESS (R91): an access to a scratchpad window; an address outside space 0x02 takes its own path. -/
def execWindowAccess (who : Requester) (addr : GAddr) (kind : AccessKind) (ecc : Ecc) (s : State) : Out :=
  .next (accessFor (quiet s) (.hub who) who addr kind ecc)

/-- ATOMIC_OP (R113). -/
def execAtomicOp (who : Requester) (addr : GAddr) (op : AtomicOp) (wide : Bool) (operand compare : BitVec 64) (ecc : Ecc)
    (s : State) : Out :=
  .next (accessFor (quiet s) (.hub who) who addr (.atomic op wide operand compare false) ecc)

/-- RED_CONTRIBUTION (R114, R115). -/
def execRedContribution (who : Requester) (addr : GAddr) (c : Contribution) (s : State) : Out :=
  .next (accessFor (quiet s) (.hub who) who addr (.contribute c) .clean)

/-- REDUCE_CANCEL (R115). -/
def execReduceCancel (who : Requester) (addr : GAddr) (s : State) : Out :=
  .next (accessFor (quiet s) (.hub who) who addr .reduceCancel .clean)

/-- The oldest contribution refused with RETRY is offered again (R115). -/
def resendRetry (s : State) : State :=
  match s.mem.retries with
  | [] => s
  | w :: t => accessFor { s with mem := { s.mem with retries := t } } w.origin w.who (BitVec.ofNat 64 w.addr) w.kind .clean

/-- RED_RETRY_RESEND (R115). -/
def execRedRetryResend (s : State) : Out := .next (resendRetry (quiet s))

/-! The stack side -/

/-- One line of a queued granule is filled with zeros; a granule with every line written leaves the queue (R100). -/
def fillOneLine (m : Memory) (ch u line : Nat) : Memory :=
  match (fillsOf m ch).find? (fun f => f.unit = u) with
  | none => m
  | some f =>
    let m := fillLine m f line
    let q := (fillsOf m ch).map (fun g => if g.unit = u then { g with written := g.written ||| 2 ^ line } else g)
    setFills m ch (q.filter (fun g => g.written ≠ 2 ^ 64 - 1))

/-- BACKGROUND_FILL_LINE (R100). -/
def execBackgroundFillLine (channel : Fin 768) (granule : BitVec 19) (line : Fin 64) (s : State) : Out :=
  let s := quiet s
  .next { s with mem := fillOneLine s.mem channel.val (channel.val * 2 ^ 19 + granule.toNat) line.val }

/-- The oldest write the base die has accepted on a channel is performed, unless the stack takes no row write (R104, R143). -/
def performOldest (s : State) (ch : Nat) (ecc : Ecc) : State :=
  match acceptedOf s.mem ch with
  | [] => s
  | w :: t =>
    if stackClosed s (stackOfLine w.line) then s
    else
      let read := decide (w.bytes.length < 64) && decide (unitOfLine w.line ∈ s.mem.written)
      let bad := read && ecc == .uncorrectable
      let old := badData s w.line
      let m := setAccepted s.mem ch t
      let s := { s with mem := if bad then putLine m w.line (mergeBytes old w.low w.bytes) true else performWrite m w }
      if bad then recordUe s 0 (0xC0 + stackOfLine w.line) 0
      else if read && ecc == .corrected then rowCorrected (recordCe s) (rowOfLine w.line)
      else s

/-- METEOR_RMW (R104). -/
def execMeteorRmw (channel : Fin 768) (ecc : Ecc) (s : State) : Out :=
  .next (releaseWaiting (performOldest (quiet s) channel.val ecc))

/-! Zero-fill (R102, R103) -/

def zfillBase (s : State) : Nat := rd64 s Fld.HUB_ZFILL_BASE_LO_OFFSET Fld.HUB_ZFILL_BASE_HI_OFFSET
def zfillLen (s : State) : Nat := rd64 s Fld.HUB_ZFILL_LEN_LO_BYTES Fld.HUB_ZFILL_LEN_HI_BYTES

/-- A zero-fill ends in a state with an error code, and drives ZFILL_END. -/
def zfillEnd (s : State) (state err : Nat) : State :=
  let s := wr (wr s Fld.HUB_ZFILL_STATUS_STATE state) Fld.HUB_ZFILL_STATUS_ERR err
  { flag s Fld.HUB_ZFILL_STATUS_END with mem := { (flag s Fld.HUB_ZFILL_STATUS_END).mem with zfill := none } }

def zfillProgress (s : State) (pos done total : Nat) : State :=
  progress s Fld.HUB_ZFILL_POS_LO_POS Fld.HUB_ZFILL_POS_HI_POS Fld.HUB_ZFILL_PCT_PCT pos done total

/-- A START (R103): refused while a fill runs, failed at once on its checks, else running. -/
def zfillStart (s : State) : State :=
  if s.mem.zfill.isSome then wr s Fld.HUB_ZFILL_STATUS_ERR 3
  else
    let n := s.img.hash.chans.length
    let base := zfillBase s
    let len := zfillLen s
    let s := zfillProgress s 0 0 1
    if base % (n * 4096) ≠ 0 ∨ len % (n * 4096) ≠ 0 then zfillEnd s 3 1
    else if base + len > hashSize s.img.hash then zfillEnd s 3 2
    else if len = 0 then zfillProgress (zfillEnd s 2 0) 0 1 1
    else
      let s := wr (wr s Fld.HUB_ZFILL_STATUS_STATE 1) Fld.HUB_ZFILL_STATUS_ERR 0
      { s with mem := { s.mem with zfill := some ⟨base / (n * 4096), len / (n * 4096), []⟩ } }

/-- A running zero-fill ends early with ERR 4. -/
def zfillStop (s : State) : State := if s.mem.zfill.isSome then zfillEnd s 3 4 else s

/-- A write of HUB_ZFILL_CTRL; START and ABORT together act as ABORT alone. -/
def zfillCtrl (s : State) (who : Requester) (start abort : Bool) : State :=
  if !mayImage who then s
  else if abort then zfillStop s
  else if start then zfillStart s
  else s

/-- The hashed channels of a stack, ascending. -/
def stackChans (s : State) (n : Nat) : List Nat := s.img.hash.chans.filter (fun c => c / 64 = n)

/-- The next granule of a stack in the range is cleared; writes to it that arrived before are lost (R102). -/
def zfillClear (s : State) (n : Nat) : State :=
  match s.mem.zfill with
  | none => s
  | some z =>
    let ch := stackChans s n
    let i := KMap.get (fun _ => 0) z.cursor n
    if i ≥ z.blocks * ch.length then s
    else
      let c := ch.getD (i % ch.length) 0
      let u := c * 2 ^ 19 + (z.base + i / ch.length)
      let m := setAccepted s.mem c ((acceptedOf s.mem c).filter (fun w => unitOfLine w.line ≠ u))
      let m := clearUnit m u
      let total := z.blocks * s.img.hash.chans.length
      let pos := rd64 s Fld.HUB_ZFILL_POS_LO_POS Fld.HUB_ZFILL_POS_HI_POS + 1
      let s := { s with mem := { m with zfill := some { z with cursor := KMap.set (fun _ => 0) z.cursor n (i + 1) } } }
      let s := zfillProgress s pos pos total
      if pos = total then zfillEnd s 2 0 else s

/-- ZFILL_GRANULE_CLEAR (R102). -/
def execZfillGranuleClear (stack : Fin 12) (s : State) : Out := .next (zfillClear (quiet s) stack.val)

/-! The hash probe (R97, R98) -/

/-- The write of the high half starts a lookup. -/
def probeStart (s : State) : State :=
  { s with probe := some (rd64 s Fld.HUB_HASH_PROBE_LO_OFFSET Fld.HUB_HASH_PROBE_HI_OFFSET) }

/-- The fields of HUB_HASH_RESULT for an offset (Table 4.6). -/
def probeResult (s : State) (off : Nat) : BitVec 32 :=
  match hashKey s.img.hash off with
  | none => 0
  | some k =>
    let ch := k / 2 ^ 31
    let a := k % 2 ^ 31
    BitVec.ofNat 32 (ch % 64 + ch / 64 * 2 ^ 6 + bitsOf a 8 1 * 2 ^ 10 + (bitsOf a 9 2 * 4 + bitsOf a 11 2) * 2 ^ 11 +
      bitsOf a 15 16 * 2 ^ 15 + 2 ^ 31)

/-- The lookup ends; held reads of the result are answered. -/
def probeDone (s : State) : State :=
  match s.probe with
  | none => s
  | some off =>
    let v := probeResult s off
    let held := s.probeHeld
    let n := s.img.hash.chans.length
    let s := { s with regs := s.regs.write Reg.HUB_HASH_RESULT v, probe := none, probeHeld := [] }
    held.foldl (fun s h => reply s h.1 (.value (BitVec.ofNat 64 (v.toNat + (if h.2 then n * 2 ^ 32 else 0))))) s

/-- HASH_LOOKUP_DONE (R97). -/
def execHashLookupDone (s : State) : Out := .next (probeDone (quiet s))

end Sys2Proof.Machine
end

