-- ==== Sys2Proof/Machine/Links.lean ====
section
/-! DEFINITION. The fabric's links (12 R311 to R315, R319, R336, R337): device number, training, sessions, flits received, retraining
and the loss of a port. -/

namespace Sys2Proof.Machine

def setPortState (s : State) (p st : Nat) : State := wr s Fld.FAB_PORT_STAT_STATE st p

/-- A write of FAB_DEVID (R336): accepted while every port is DISABLED. -/
def writeDevid (s : State) (who : Requester) (dev : Nat) : State :=
  if !mayImage who || (List.range 18).any (fun p => portState s p ≠ 0) then s
  else
    let s := flag (wr s Fld.FAB_DEVID_DEVICE dev) Fld.FAB_DEVID_VALID
    (List.range 18).foldl (fun s p => if rd s Fld.FAB_PORT_CTRL_EN p = 1 then setPortState s p 1 else s) s

/-- Requests that a lost port still holds go out on the port that now carries them (R319). -/
def reroute (s : State) (p : Nat) (held : List (List Byte)) : State :=
  let mine (r : FabReq) : Bool := r.port = some p && held.contains ((packetBytes r.packet ++ List.replicate 224 0#8).take 224)
  let s := { s with fab := { s.fab with requests := s.fab.requests.map (fun r => if mine r then { r with port := none } else r) } }
  releaseRequests s

/-- A port stops carrying traffic: what waited for it is dropped or sent elsewhere. -/
def loseLink (s : State) (p st : Nat) : State :=
  let waiting := (s.fab.out.filter (fun x => x.1 = p)).map (fun x => x.2.2)
  let held := (fport s p).clear ++ waiting
  let s := setPortState (wr (wr s Fld.FAB_PORT_STAT_WIDTH 0 p) Fld.FAB_PORT_STAT_SLOW 0 p) p st
  let s := setFport { s with fab := { s.fab with out := s.fab.out.filter (fun x => x.1 ≠ p) } } p
    { Port.reset with retrains := (fport s p).retrains, authFails := (fport s p).authFails }
  reroute s p held

/-- A port enters DOWN (R314). -/
def portDown (s : State) (p : Nat) : State := flag (loseLink s p 5) Fld.FAB_EVENT_PORT_DOWN

/-- FAB_PORT_CTRLp.EN takes a value (R32, R311, R314). -/
def setPortEn (s : State) (p v : Nat) : State :=
  if v = 1 ∧ bitsOf (s.img.roles.getD p 0) 0 1 = 0 then s
  else
    let old := rd s Fld.FAB_PORT_CTRL_EN p
    let s := wr s Fld.FAB_PORT_CTRL_EN v p
    if v = 0 then (if portState s p = 0 then s else loseLink s p 0)
    else if old = 0 ∧ rd s Fld.FAB_DEVID_VALID = 1 then setPortState s p 1
    else s

/-- A retrain starts (R314). -/
def startRetrain (s : State) (p : Nat) : State :=
  if portState s p = 3 then inc (setPortState s p 4) Fld.FAB_PORT_RETRAIN_COUNT p else s

/-- A write of FAB_PORT_CTRLp (R337). -/
def writePortCtrl (s : State) (who : Requester) (p en : Nat) (rekey retrain : Bool) : State :=
  if !mayImage who then s
  else
    let s := setPortEn s p en
    let s := if rekey && portState s p = 3 then newKeys s p else s
    if retrain then startRetrain s p else s

/-- Width and rate of a training in which the lane groups `lo` and `hi` train, `slow` at the lower rate only (Table 12.12). -/
def trained (s : State) (p : Nat) (lo hi slow : Bool) : State :=
  let role := s.img.roles.getD p 0
  let w := if lo && hi && bitsOf role 1 1 = 0 then 3 else if lo then 1 else if hi then 2 else 0
  wr (wr s Fld.FAB_PORT_STAT_WIDTH w p) Fld.FAB_PORT_STAT_SLOW (if slow || bitsOf role 2 1 = 1 then 1 else 0) p

/-- PORT_TRAIN (R311): what both ends support is an operand. -/
def execPortTrain (p : Fin 18) (lo hi slow : Bool) (s : State) : Out :=
  let s := quiet s
  .next (if portState s p.val = 1 && (lo || hi) then setPortState (trained s p.val lo hi slow) p.val 2 else s)

/-- PORT_TRAIN_RETRY (R311). -/
def execPortTrainRetry (p : Fin 18) (s : State) : Out :=
  let s := quiet s
  .next (if portState s p.val = 1 || portState s p.val = 2 then loseLink s p.val 1 else s)

/-- LINK_SESSION_ESTABLISH (R315): the port is UP. -/
def execLinkSessionEstablish (p : Fin 18) (s : State) : Out :=
  let s := quiet s
  .next (if portState s p.val = 2 then releaseRequests (pump (setPortState (newKeys s p.val) p.val 3)) else s)

/-! Flits received (R312, R313, R315) -/

/-- Every flit not yet acknowledged is sent again. -/
def resendAll (s : State) (p : Nat) : State :=
  (fport s p).replay.foldl (fun s f => inc (emit s (.flit p f)) Fld.FAB_PORT_REPLAY_COUNT p) s

/-- The peer has accepted every flit up to `ack`. -/
def ackTo (t : Port) (ack : Nat) : Port :=
  let n := (ack + 65536 - t.acked) % 65536
  if n ≤ t.replay.length then { t with replay := t.replay.drop n, clear := t.clear.drop n, acked := ack } else t

def rejectFlit (s : State) (p : Nat) : State :=
  let t := fport s p
  let s := emit (setFport s p { t with rejects := t.rejects + 1, discarding := true }) (.nak p t.rxSeq)
  if t.rejects + 1 ≥ 8 then startRetrain s p else s

/-- A flit whose tag fails (R315). -/
def authFail (s : State) (p : Nat) : State :=
  let t := fport s p
  let recent := (t.authFails ++ [s.ns]).filter (fun x => decide (s.ns < x + 1000000000))
  flag (inc (setFport s p { t with authFails := recent }) Fld.FAB_PORT_AUTH_COUNT p) Fld.FAB_EVENT_AUTH

def acceptFlit (s : State) (p : Nat) (f : Flit) : State :=
  let t := ackTo (fport s p) f.ack
  let t := { t with
    rxSeq := f.seq
    rejects := 0
    discarding := false
    received := t.received + 1
    credits := if f.credits = 0 then t.credits else KMap.mod creditReset t.credits f.cvc (· + f.credits)
    freed := if f.null then t.freed else KMap.mod (fun _ => 0) t.freed f.vc (· + 1) }
  let n := rd64 s Fld.FAB_PORT_FLITS_LO_COUNT Fld.FAB_PORT_FLITS_HI_COUNT p
  let s := wr64 (rekeyDue (setFport s p t) p) Fld.FAB_PORT_FLITS_LO_COUNT Fld.FAB_PORT_FLITS_HI_COUNT ((n + 1) % 2 ^ 64) p
  pump (if f.nak then resendAll s p else s)

def receiveFlit (s : State) (p : Nat) (b : List Byte) : State :=
  if portState s p ≠ 2 ∧ portState s p ≠ 3 then s
  else
    let t := fport s p
    let f := readFlit b
    let due := f.seq = (t.rxSeq + 1) % 65536
    if crc32c (b.take 248) ≠ fieldOf b 248 4 ∨ b.length ≠ 256 then
      let s := inc s Fld.FAB_PORT_CRC_COUNT p
      if t.discarding && !due then s else rejectFlit s p
    else if !due then s
    else
      match t.key with
      | none => acceptFlit s p f
      | some n =>
        if Config.gcmTag (rxKey n) (rxNonce n t.received) (b.take 8 ++ f.payload) = f.tag then acceptFlit s p f
        else rejectFlit (authFail s p) p

def execFlitReceive (p : Fin 18) (flit : List Byte) (s : State) : Out := .next (receiveFlit (quiet s) p.val flit)

/-- ACK_TIMEOUT (R314). -/
def execAckTimeout (p : Fin 18) (s : State) : Out :=
  let s := quiet s
  .next (if (fport s p.val).replay.isEmpty then s else startRetrain s p.val)

/-- A retrain ends (R314). -/
def retrainEnd (s : State) (p : Nat) (lo hi slow : Bool) : State :=
  if portState s p ≠ 4 then s
  else if !lo && !hi then portDown s p
  else
    let t := fport s p
    let recent := (t.retrains ++ [s.ns]).filter (fun x => decide (s.ns < x + 1000000000))
    let s := setFport s p { t with retrains := recent, rejects := 0, discarding := false }
    if recent.length ≥ 3 then portDown s p
    else
      let s := setPortState (trained s p lo hi slow) p (if t.key.isSome then 3 else 2)
      releaseRequests (pump (resendAll s p))

def execPortRetrainEnd (p : Fin 18) (lo hi slow : Bool) (s : State) : Out := .next (retrainEnd (quiet s) p.val lo hi slow)

/-! Timers of requests and answers -/

/-- HELD_REQUEST_RELEASE (R319). -/
def execHeldRequestRelease (s : State) : Out := .next (releaseRequests (quiet s))

/-- ANSWER_RECORD_EXPIRY (R322). -/
def execAnswerRecordExpiry (src : BitVec 17) (tag : BitVec 16) (s : State) : Out :=
  let s := quiet s
  .next { s with fab := { s.fab with kept := s.fab.kept.filter (fun k => !(k.src = src.toNat && k.tag = tag.toNat)) } }

end Sys2Proof.Machine
end

