-- ==== Sys2Proof/Machine/FabCmd.lean ====
section
/-! DEFINITION. The packets of the fabric (12 R316 to R323), the shadow log (R332 to R335), collectives (R326 to R328) and the
meridian (R329, R330). -/

namespace Sys2Proof.Machine

/-! The shadow log of the writer (R333, R334) -/

def shadowLog (s : State) : Nat := rd64 s Fld.FAB_BUDDY_LOG_LO_ADDR Fld.FAB_BUDDY_LOG_HI_ADDR % 2 ^ 41
def shadowSize (s : State) : Nat := 2 ^ rd s Fld.FAB_BUDDY_SIZE_LOG2
def isShadow (r : FabReq) : Bool := decide (r.origin = .shadow)
def shadowOpen (s : State) : Bool := s.fab.requests.any isShadow


/-- Steps 5 and 6 of R291: SEQ_STEP and the SEQ_COMMIT interrupt. -/
def finishCommit (s : State) (l num : Nat) : State :=
  let s := modLoop s l (fun x => { x with due := none, ports := [] })
  let s := wr64 s Fld.SEQ_STEP_LO_STEP Fld.SEQ_STEP_HI_STEP num l
  if rd s Fld.SEQ_LCTRL_CIRQ l = 1 then pulse s (0x300 + l) else s

/-- TAIL has completed (R291 step 5). -/
def shadowIdle (s : State) : Bool := s.fab.shadowPending.isEmpty && !shadowOpen s

/-- Ring writes of a committed step still wait in an outbound queue (R417), or on a CXL path for their completion (Table 9.1). -/
def ringsWait (s : State) (x : Loop) : Bool :=
  x.ports.any (fun p =>
    (hport s p).outbound.any (fun r => r.who = .sequencer) ||
    (hport s p).open_.any (fun r => r.who = .sequencer && isWrite r.kind))

/-- Commits that waited for TAIL, or for their ring writes, finish. -/
def dueCommits (s : State) : State :=
  if shadowIdle s then
    s.seq.loops.foldl (fun s e => match e.2.due with
      | some k => if ringsWait s e.2 then s else finishCommit s e.1 k
      | none => s) s
  else s

/-- Shadowing stops (R334); what it still had under way is forgotten, and waiting commits proceed. -/
def shadowLost (s : State) : State :=
  if !s.fab.shadowing then s
  else
    dueCommits <|
    let s := flag (flag s Fld.FAB_BUDDY_LOST) Fld.FAB_EVENT_SHADOW_LOST
    { s with fab := { s.fab with
      shadowing := false
      shadowPending := []
      requests := s.fab.requests.map (fun r => if isShadow r then { r with origin := .nobody } else r) } }

/-- One line goes to the buddy. -/
def shadowLine (s : State) (off : Nat) (b : List Byte) : State :=
  let r := fabRequest s .shadow .sequencer (if b.length = 64 then 0x04 else 0x03) (rd s Fld.FAB_BUDDY_DEVICE) 0 off 0 b false
  match r.2 with
  | .held => r.1
  | _ => shadowLost r.1

/-- Header of a record (Table 12.9) from its fields as offset, size and value. -/
def shadowHeader (fs : List (Nat × Nat × Nat)) : List Byte := lineBytes (header fs)

/-- A record's bytes go to the ring at TAIL; a PAD record fills the end of the ring when it would wrap. None where the ring lacks room. -/
def shadowPlace (s : State) (rec : List Byte) : Option State :=
  let size := shadowSize s
  let at_ := s.fab.shadowTail % size
  let pad := if at_ + rec.length > size then size - at_ else 0
  if s.fab.shadowTail + pad + rec.length > s.fab.shadowHead + size then none
  else
    let base := shadowLog s + 128
    let s := if pad = 0 then s else shadowLine s (base + at_) (shadowHeader [(0, 1, 4), (2, 2, pad / 64 - 1)])
    let start := if pad = 0 then at_ else 0
    let s := (List.range (rec.length / 64)).foldl (fun s i => shadowLine s (base + start + 64 * i) ((rec.drop (64 * i)).take 64)) s
    some { s with fab := { s.fab with shadowTail := s.fab.shadowTail + pad + rec.length } }

/-- Waiting records leave in order; an empty record stands for the new TAIL, which waits for the records before it (R334). -/
def shadowPumpAux : Nat → State → State
  | 0, s => s
  | n + 1, s =>
    match s.fab.shadowPending with
    | [] => s
    | rec :: rest =>
      let next (s : State) : State := if s.fab.shadowing then { s with fab := { s.fab with shadowPending := rest } } else s
      if rec.isEmpty then
        if shadowOpen s then s else shadowPumpAux n (next (shadowLine s (shadowLog s) (natLe 8 s.fab.shadowTail)))
      else
        match shadowPlace s rec with
        | none => s
        | some s => shadowPumpAux n (next s)

def shadowPump (s : State) : State := shadowPumpAux (s.fab.shadowPending.length + 1) s

/-- The records of a commit, and its TAIL, are handed to the writer. -/
def shadowSend (s : State) (recs : List (List Byte)) : State :=
  if s.fab.shadowing then shadowPump { s with fab := { s.fab with shadowPending := s.fab.shadowPending ++ recs ++ [[]] } } else s

/-- SHADOW_ROOM_WAIT (R334): HEAD as read at the buddy; none where no room appeared in time. -/
def execShadowRoomWait (head : Option (BitVec 64)) (s : State) : Out :=
  let s := quiet s
  .next (if s.fab.shadowPending.isEmpty then s
    else match head with
      | none => shadowLost s
      | some h => dueCommits (shadowPump { s with fab := { s.fab with shadowHead := h.toNat } }))

/-- A write of FAB_BUDDY (R332, R334). -/
def writeBuddy (s : State) (who : Requester) (dev en : Nat) (clearLost : Bool) : State :=
  if !mayImage who then s
  else
    let old := rd s Fld.FAB_BUDDY_EN
    let s := wr (wr s Fld.FAB_BUDDY_DEVICE dev) Fld.FAB_BUDDY_EN en
    let s := if clearLost then wr s Fld.FAB_BUDDY_LOST 0 else s
    if en = 1 ∧ old = 0 then
      { s with fab := { s.fab with shadowTail := 0, shadowHead := 0, shadowPending := [], shadowSeqs := [], shadowing := true } }
    else if en = 0 then dueCommits { s with fab := { s.fab with shadowing := false, shadowPending := [] } }
    else s

/-! The buddy's side (R332, R335, R353) -/

def shadowBase (s : State) : Nat := rd64 s Fld.FAB_SHADOW_BASE_LO_ADDR Fld.FAB_SHADOW_BASE_HI_ADDR % 2 ^ 41

/-- A write from the fabric that the shadow range refuses. -/
def shadowRefuses (s : State) (p : Packet) : Bool :=
  let base := shadowBase s
  let size := 2 ^ rd s Fld.FAB_SHADOW_SIZE_LOG2
  rd s Fld.FAB_SHADOW_SRC_EN = 1 && p.space.toNat = 0 && decide (base < p.offset.toNat + 256) &&
    decide (p.offset.toNat < base + size) && !(p.unchk && p.src.toNat = rd s Fld.FAB_SHADOW_SRC_DEVICE)

/-- Records of the log from a count to TAIL: place in the ring, and header. -/
def shadowRecords (s : State) (size tail : Nat) : Nat → Nat → List (Nat × List Byte)
  | 0, _ => []
  | n + 1, at_ =>
    if at_ ≥ tail then []
    else
      let off := shadowBase s + 128 + at_ % size
      let h := (hubRead s (localAddr s 0 off) 64).1
      (off, h) :: shadowRecords s size tail n (at_ + 64 + 64 * fieldOf h 2 2)

/-- The records up to the last COMMIT. -/
def upToCommit (l : List (Nat × List Byte)) : List (Nat × List Byte) :=
  (l.reverse.dropWhile (fun r => fieldOf r.2 0 1 ≠ 3)).reverse

/-- Firmware applies one record: a descriptor, or an attention request with QN = 0 that it writes at `work`. -/
def applyRecord (s : State) (work : Nat) (r : Nat × List Byte) : State :=
  let h := r.2
  if fieldOf h 0 1 = 1 then
    let b := (hubRead s (localAddr s 0 (r.1 + 64)) 128).1
    engineWrite s .supervisor (descAddr s (fieldOf h 4 4)) b false
  else if fieldOf h 0 1 = 2 then
    let a := localAddr s 0 work
    let req := natLe 4 (fieldOf h 4 4) ++ natLe 2 (fieldOf h 16 2) ++ natLe 1 (fieldOf h 18 1) ++ natLe 1 0 ++
      natLe 2 (fieldOf h 24 4) ++ natLe 14 0 ++ natLe 8 (localAddr s 0 (r.1 + 64)) ++ natLe 8 0 ++ natLe 8 (a + 64) ++ natLe 16 0
    attEnter (engineWrite s .supervisor a req false) .supervisor a
  else s

/-- BUDDY_LOG_APPLY (R335, R353): `work` is the firmware's own memory, 128 bytes for each record. -/
def execBuddyLogApply (work : BitVec 41) (s : State) : Out :=
  let s := quiet s
  let base := localAddr s 0 (shadowBase s)
  let tail := fieldOf (hubRead s base 8).1 0 8
  let head := fieldOf (hubRead s (base + 64) 8).1 0 8
  let size := 2 ^ rd s Fld.FAB_SHADOW_SIZE_LOG2
  let rs := upToCommit (shadowRecords s size tail (size / 64 + 1) head)
  let used := (rs.map (fun r => 64 + 64 * fieldOf r.2 2 2)).foldl (· + ·) 0
  let s := rs.zipIdx.foldl (fun s e => applyRecord s (work.toNat + 128 * e.2) e.1) s
  .next (engineWrite s .supervisor (base + 64) (natLe 8 (head + used)) false)

/-! Collectives (R326 to R328) -/

/-- Chunk length, and a chunk's first and last line. -/
def Collective.chunk (c : Collective) : Nat := ceilDiv c.lines c.nrank
def Collective.from_ (c : Collective) (r : Nat) : Nat := Nat.min (r * c.chunk) c.lines
def Collective.upTo (c : Collective) (r : Nat) : Nat := Nat.min ((r + 1) * c.chunk) c.lines
def Collective.reduces (c : Collective) : Bool := c.op = 1 || c.op = 2

/-- Lines this rank writes or receives into DST. -/
def Collective.wanted (c : Collective) : List Nat :=
  if c.op = 2 then (List.range c.lines).filter (fun l => c.from_ c.rank ≤ l && l < c.upTo c.rank) else List.range c.lines

/-- Table 12.8, and whether the fields are in their ranges. -/
def readColl (who : Requester) (b : List Byte) : Collective × Bool :=
  let f := fieldOf b
  let c : Collective := ⟨f 0 1, f 1 1, f 4 4, f 8 4, f 12 4, f 16 8, f 24 8, f 32 8, f 40 4, f 44 4, f 48 8, f 56 8, who, [], [], 0,
    true, false⟩
  (c, 1 ≤ c.op && c.op ≤ 4 && c.fmt < 4 && f 2 2 = 0 && 1 ≤ c.nrank && c.nrank ≤ 131072 && c.rank < c.nrank && c.root < c.nrank &&
    c.src % 64 = 0 && c.dst % 64 = 0 && c.work % 4096 = 0 && c.src < 2 ^ 41 && c.dst < 2 ^ 41 && c.work < 2 ^ 41)

def collOf (s : State) (cid : Nat) : Option Collective := s.fab.colls.find? (fun c => c.cid = cid)
def putColl (s : State) (c : Collective) : State :=
  { s with fab := { s.fab with colls := replaceFirst (fun x => decide (x.cid = c.cid)) (fun _ => c) s.fab.colls } }

/-- Device number of a rank. -/
def rankDevice (s : State) (c : Collective) (r : Nat) : Nat := fieldOf (hubRead s (c.group + 4 * r) 4).1 0 4 % 2 ^ 17

/-- A rank meets an error (R328). -/
def collFail (s : State) (cid : Nat) : State :=
  match collOf s cid with
  | none => s
  | some c => if c.failed || !c.started then s
    else bump (putColl s { c with failed := true }) c.who (BitVec.ofNat 64 c.cpl) (2 ^ 32)

/-- A rank meets an error in its own memory: it is recorded with its code of Table 12.6 (R323, R328). -/
def collLost (s : State) (cid code : Nat) : State :=
  match collOf s cid with
  | none => s
  | some c => if c.failed || !c.started then s else collFail (fabRecord s code 0 (localDevice s)) cid

/-- Why a line cannot be read here. -/
def collCode (s : State) (off : Nat) : Nat := if hashedValid s (off / 64 * 64) then 4 else 3

/-- A line as this rank reads it. -/
def collRead (s : State) (c : Collective) (off : Nat) : Option (BitVec 512 × Bool) :=
  (engineRead s c.who (BitVec.ofNat 64 (localAddr s 0 off))).2

def collKey (rank line : Nat) : Nat := rank * 2 ^ 32 + line

/-- An input line of a rank: its own from SRC, another's as pulled. -/
def collInput (s : State) (c : Collective) (rank line : Nat) : Option (BitVec 512 × Bool) :=
  if rank = c.rank then collRead s c (c.src + 64 * line) else KMap.get (fun _ => none) c.pulled (collKey rank line)

/-- The tree of R82 over inputs in order. -/
def treeOf (f : RedFormat) (xs : List (BitVec 512 × Bool)) : Option RedNode :=
  closeStack f (xs.foldl (fun st x => mergeTop f 20 (⟨1, x.1, x.2⟩ :: st)) [])

/-- A request of a collective to another rank; one that cannot leave fails the collective. -/
def collSend (s : State) (c : Collective) (rank line opc arg : Nat) (body : List Byte) (poison : Bool) : State :=
  let r := fabRequest s (.collective c.cid rank line) c.who opc (rankDevice s c rank) 0 (c.dst + 64 * line) arg body poison
  match r.2 with
  | .held => r.1
  | _ => collFail r.1 c.cid

/-- Lines of DST are pushed to every other rank in packets of at most four lines (R328). -/
def collPush (s : State) (c : Collective) (line : Nat) (ds : List (BitVec 512 × Bool)) : State :=
  ((List.range c.nrank).filter (fun r => r ≠ c.rank)).foldl (fun s r =>
    collSend s c r line 0x0A (2 * ds.length) (natLe 4 c.cid ++ natLe 4 line ++ natLe 8 0 ++ ds.flatMap (fun d => lineBytes d.1))
      (ds.any (·.2))) s

/-- Accesses to one line of DST in order; the first that ends in an error ends the rank's part (R328). -/
def collAccess (s : State) (c : Collective) (line : Nat) (kinds : List AccessKind) : State :=
  let a := BitVec.ofNat 64 (localAddr s 0 (c.dst + 64 * line))
  let r := kinds.foldl (fun (z : State × Option Nat) k =>
    if z.2.isSome then z
    else
      let r := access z.1 .nobody c.who a k .clean
      match r.2 with
      | .done => (r.1, none)
      | .held => (r.1, none)
      | x => (r.1, some (servedCode x))) (s, none)
  match r.2 with
  | none => putColl r.1 { c with got := KSet.add c.got line }
  | some code => collLost r.1 c.cid code

/-- A result line is written at this rank. -/
def collWrite (s : State) (cid line : Nat) (d : BitVec 512) (p : Bool) : State :=
  match collOf s cid with
  | none => s
  | some c => collAccess s c line [.lineWrite d p]

/-- A line of DST has not been performed yet: it waits at its point of order. -/
def collWaits (s : State) (c : Collective) : Bool :=
  s.mem.waiting.any (fun w => decide (c.dst ≤ w.addr) && decide (w.addr < c.dst + 64 * c.lines))

/-- The contributions of a line, in ascending rank, at this rank's home slice; above 4,096 ranks the tree is formed by blocks, whose
messages the spec does not lay out (log 28). `x` is the tree. -/
def collReduce (s : State) (c : Collective) (line : Nat) (xs : List (BitVec 512 × Bool)) (x : RedNode) : State :=
  if c.nrank ≤ 4096 then
    collAccess s c line (xs.zipIdx.map (fun e =>
      .contribute ⟨redFormatOf c.fmt, BitVec.ofNat 16 e.2, BitVec.ofNat 16 c.nrank, false, none, e.1.1, e.1.2⟩))
  else collWrite s c.cid line x.data x.poison

/-- A line of this rank's chunk is reduced once every input is here, and then pushed by an all-reduce. -/
def collLine (s : State) (cid line : Nat) : State :=
  match collOf s cid with
  | none => s
  | some c =>
    if c.failed || c.got.contains line then s
    else if (collInput s c c.rank line).isNone then collLost s cid (collCode s (c.src + 64 * line))
    else
      let xs := (List.range c.nrank).map (fun r => collInput s c r line)
      if xs.any Option.isNone then s
      else
        match treeOf (redFormatOf c.fmt) (xs.filterMap id) with
        | none => s
        | some x =>
          let s := collReduce s c line (xs.filterMap id) x
          if c.op = 1 && (collOf s cid).any (fun c => !c.failed) then collPush s c line [(x.data, x.poison)] else s

/-- Pieces of 64 lines of this rank's chunk, by rank. -/
def Collective.pieces (c : Collective) : List (Nat × Nat) :=
  (List.range (ceilDiv (c.upTo c.rank - c.from_ c.rank) 64)).flatMap (fun i =>
    ((List.range c.nrank).filter (fun r => r ≠ c.rank)).map (fun r => (r, c.from_ c.rank + 64 * i)))

def pullsOpen (s : State) (cid : Nat) : List (Nat × Nat) :=
  s.fab.requests.filterMap (fun r => match r.origin with
    | .collective k rank line => if k = cid ∧ r.packet.opc = 9 then some (rank, line) else none
    | _ => none)

/-- The next pieces are pulled, at most 16 open at a time (R327). -/
def collPullsAux : Nat → State → Nat → State
  | 0, s, _ => s
  | n + 1, s, cid =>
    match collOf s cid with
    | none => s
    | some c =>
      let open_ := pullsOpen s cid
      if c.failed || open_.length ≥ 16 then s
      else
        match c.pieces.find? (fun x => !open_.contains x && (KMap.get (fun _ => none) c.pulled (collKey x.1 x.2)).isNone &&
            !c.got.contains x.2) with
        | none => s
        | some x =>
          let k := Nat.min 64 (c.upTo c.rank - x.2)
          collPullsAux n (collSend s c x.1 x.2 0x09 0 (natLe 4 cid ++ natLe 4 x.2 ++ natLe 4 k ++ natLe 4 0) false) cid

def collPulls (s : State) (cid : Nat) : State := collPullsAux 16 s cid

/-- Every line of this rank's chunk that can be reduced is, and pulls go on. -/
def collAdvance (s : State) (cid : Nat) : State :=
  match collOf s cid with
  | none => s
  | some c =>
    let lines := (List.range c.lines).filter (fun l => c.from_ c.rank ≤ l && l < c.upTo c.rank)
    collPulls (lines.foldl (fun s l => collLine s cid l) s) cid

/-- A rank's own lines go to every rank (ALLGATHER, BROADCAST). -/
def collSpread (s : State) (c : Collective) : State :=
  let lines := (List.range c.lines).filter (fun l => c.op = 4 || (c.from_ c.rank ≤ l && l < c.upTo c.rank))
  lines.foldl (fun s l =>
    if (collOf s c.cid).any (fun c => c.failed) then s
    else match collRead s c (c.src + 64 * l) with
    | none => collLost s c.cid (collCode s (c.src + 64 * l))
    | some d => collWrite (collPush s c l [d]) c.cid l d.1 d.2) s

/-- Lines pulled from this rank, in DATA packets of 256 bytes (Table 12.4). -/
def servePull (s : State) (c : Collective) (p : Packet) : State :=
  let line := fieldOf p.body 4 4
  let n := fieldOf p.body 8 4
  (List.range (ceilDiv n 4)).foldl (fun s i =>
    let ds := (List.range (Nat.min 4 (n - 4 * i))).map (fun j => collRead s c (c.src + 64 * (line + 4 * i + j)))
    if (collOf s c.cid).any (fun c => c.failed) then s
    else if ds.any Option.isNone then collLost s c.cid (collCode s (c.src + 64 * (line + 4 * i)))
    else
      let ds := ds.filterMap id
      sendResponse s p (response s p 0x10 0 (ds.flatMap (fun d => lineBytes d.1)) (ds.any (·.2)))) s

/-- Lines pushed to this rank. -/
def takePush (s : State) (c : Collective) (p : Packet) : State :=
  let line := fieldOf p.body 4 4
  let n := p.arg.toNat / 2
  let s := (List.range n).foldl (fun s i => collWrite s c.cid (line + i) (lineOf ((p.body.drop (16 + 64 * i)).take 64)) p.poison) s
  if (collOf s c.cid).any (fun c => c.failed) then s else sendResponse s p (response s p 0x11 0 [] false)

/-- A COLL_PULL or COLL_PUSH reaches this rank; it waits until the rank has accepted its own descriptor (R328). -/
def serveColl (s : State) (p : Packet) : State :=
  match collOf s (fieldOf p.body 0 4) with
  | none => { s with fab := { s.fab with collWaiting := s.fab.collWaiting ++ [⟨p⟩] } }
  | some c => if c.failed then s else if p.opc = 9 then servePull s c p else takePush s c p

/-- FAB_COLL (R326). -/
def collEnter (s : State) (who : Requester) (a : Nat) : State :=
  if !mayAttend s who then s
  else if s.fab.collQueue.length ≥ 256 then { s with fab := { s.fab with collHeld := s.fab.collHeld ++ [(who, a)] } }
  else { s with fab := { s.fab with collQueue := s.fab.collQueue ++ [(who, a)] } }

/-- The oldest descriptor is accepted and its operation starts. -/
def collAccept (s : State) : State :=
  match s.fab.collQueue with
  | [] => s
  | (who, a) :: rest =>
    let s := { s with fab := { s.fab with collQueue := rest ++ s.fab.collHeld.take 1, collHeld := s.fab.collHeld.drop 1 } }
    match engineBytes s who a 64 with
    | (s, none) => fabRecord s 4 0 (localDevice s)
    | (s, some (b, poison)) =>
      let r := readColl who b
      if poison || !r.2 then bump (fabRecord s 3 0 (localDevice s)) who (BitVec.ofNat 64 r.1.cpl) (2 ^ 32)
      else
        let c := r.1
        let s := { s with fab := { s.fab with
          colls := s.fab.colls.filter (fun x => x.cid ≠ c.cid) ++ [c]
          collWaiting := s.fab.collWaiting.filter (fun w => fieldOf w.packet.body 0 4 ≠ c.cid) } }
        let waiting := (s.fab.collWaiting.filter (fun w => fieldOf w.packet.body 0 4 = c.cid)).map (·.packet)
        let s := if c.reduces then collAdvance s c.cid
          else if c.op = 3 || c.rank = c.root then collSpread s c
          else s
        waiting.foldl serveColl s

def execCollectiveAccept (s : State) : Out := .next (collAccept (quiet s))

/-- Every line this rank writes or receives into DST has completed; it still answers pulls of the CID (R328). -/
def execCollectiveComplete (cid : BitVec 32) (s : State) : Out :=
  let s := quiet s
  .next (match collOf s cid.toNat with
    | none => s
    | some c =>
      if c.started && !c.failed && c.wanted.all (fun l => c.got.contains l) && !collWaits s c then
        bump (putColl s { c with started := false }) c.who (BitVec.ofNat 64 c.cpl) 1
      else s)

/-! Packets received and sent (R316, R320 to R323) -/

/-- The requester a request acts for (R320). -/
def packetWho (p : Packet) : Requester := .fabric p.src (if p.unchk then none else some p.tenant)

def packetAddr (s : State) (p : Packet) (i : Nat) : GAddr := gaddr p.space.toNat (localDevice s) (p.offset.toNat + i)

/-- The units of a bulk request are served in order; the first failure is the request's (R321). -/
def serveBulk (s : State) (p : Packet) (kinds : List AccessKind) : State :=
  let r := kinds.zipIdx.foldl (fun (z : State × List Byte × Bool × Option Answer) e =>
    if z.2.2.2.isSome then z
    else
      let a := packetAddr z.1 p (32 * e.2)
      let r := access z.1 .nobody (packetWho p) a e.1 .clean
      match r.2 with
      | .data b q => (r.1, z.2.1 ++ b, z.2.2.1 || q, none)
      | .done => (r.1, z.2.1, z.2.2.1, none)
      | .held =>
        let d := (engineBytes r.1 (packetWho p) a.toNat 32).2.getD ([], true)
        (r.1, z.2.1 ++ d.1, z.2.2.1 || d.2, none)
      | x => (r.1, z.2.1, z.2.2.1, some x)) (s, [], false, none)
  match r.2.2.2 with
  | some x => serveAnswer r.1 p x
  | none => serveAnswer r.1 p (if p.opc = 7 then .data r.2.1 r.2.2.1 else .done)

/-- A request is entered at its point of order here (R321, R322, R332). -/
def serveRequest (s : State) (p : Packet) (ecc : Ecc) : State :=
  let go (k : AccessKind) : State := accessFor s (.served p) (packetWho p) (packetAddr s p 0) k ecc
  if (p.opc = 3 || p.opc = 4 || p.opc = 8) && shadowRefuses s p then serveAnswer s p .tenantError
  else
    match s.fab.kept.find? (fun k => (p.opc = 5 || p.opc = 6) && k.src = p.src.toNat && k.tag = p.tag.toNat) with
    | some k => (match routePort s p.src.toNat p.offset.toNat with
        | some port => sendPacket s port k.answer
        | none => s)
    | none =>
      let n := p.arg.toNat
      match p.opc with
      | 1 => go .meteorRead
      | 2 => go .lineRead
      | 3 => if p.body.length = 32 ∧ p.offset.toNat % 32 = 0 then go (.meteorWrite (BitVec.ofNat 256 (leNat p.body)) p.poison)
        else go (.partialStore p.body p.poison)
      | 4 => go (.lineWrite (lineOf (p.body.take 64)) p.poison)
      | 5 => (match amoOp (n % 16) with
        | some op => go (.atomic op (bitsOf n 4 1 = 1) (BitVec.ofNat 64 (fieldOf p.body 0 8)) (BitVec.ofNat 64 (fieldOf p.body 8 8)) p.poison)
        | none => serveAnswer s p (.addressError 1))
      | 6 =>
        let w := fieldOf p.body 0 4
        let cpl := fieldOf p.body 8 8
        go (.contribute ⟨redFormatOf n, BitVec.ofNat 16 (bitsOf w 0 12), BitVec.ofNat 16 (bitsOf w 16 12 + 1), bitsOf n 2 1 = 1,
          if cpl = 0 then none else some (BitVec.ofNat 64 cpl), lineOf ((p.body.drop 16).take 64), p.poison⟩)
      | 7 => if n = 0 ∨ n > 8 ∨ p.offset.toNat % (32 * n) ≠ 0 then serveAnswer s p (.addressError 2)
        else serveBulk s p (List.replicate n .meteorRead)
      | 8 => if n = 0 ∨ n > 8 ∨ p.offset.toNat % (32 * n) ≠ 0 then serveAnswer s p (.addressError 2)
        else serveBulk s p ((List.range n).map (fun i =>
          .meteorWrite (BitVec.ofNat 256 (leNat ((p.body.drop (32 * i)).take 32))) p.poison))
      | _ => serveColl s p

/-- The open request that a response answers. -/
def answered (s : State) (p : Packet) : Option (FabReq × List FabReq) :=
  takeFirst (fun (r : FabReq) => r.port.isSome && r.packet.dst = p.src && r.packet.tag = p.tag) s.fab.requests

/-- The data of an answer as the requester of an atomic gets them. -/
def answerBytes (r : FabReq) (p : Packet) : List Byte :=
  if r.packet.opc = 5 then p.body.take (if bitsOf r.packet.arg.toNat 4 1 = 1 then 8 else 4) else p.body

/-- Pulled lines arrive; the pull is answered once its last line is here. -/
def takePulled (s : State) (r : FabReq) (rest : List FabReq) (cid rank line : Nat) (p : Packet) : State :=
  match collOf s cid with
  | none => s
  | some c =>
    let n := fieldOf r.packet.body 8 4
    let seen := ((List.range n).filter (fun i => (KMap.get (fun _ => none) c.pulled (collKey rank (line + i))).isSome)).length
    let k := p.body.length / 64
    let pulled := (List.range k).foldl (fun m i =>
      KMap.set (fun _ => none) m (collKey rank (line + seen + i)) (some (lineOf ((p.body.drop (64 * i)).take 64), p.poison))) c.pulled
    let s := putColl s { c with pulled := pulled }
    let s := if seen + k ≥ n then { s with fab := { s.fab with requests := rest } } else s
    collAdvance s cid

/-- A request of this part ends in failure (R323). -/
def failRequest (s : State) (r : FabReq) (code : Nat) : State :=
  let s := fabRecord s code 0 r.packet.dst.toNat
  match r.origin with
  | .shadow => shadowLost s
  | .collective cid _ _ => collFail s cid
  | o => deliver s o (.fabError code)

/-- A response reaches its request; one without a request is discarded (R323). -/
def takeResponse (s : State) (p : Packet) : State :=
  match answered s p with
  | none => s
  | some (r, rest) =>
    let done := { s with fab := { s.fab with requests := rest } }
    let s :=
      if p.opc = 0x12 then failRequest done r p.arg.toNat
      else
        match r.origin with
        | .shadow => dueCommits (shadowPump done)
        | .collective cid rank line => if r.packet.opc = 9 then takePulled s r rest cid rank line p else done
        | o => deliver done o (if p.opc = 0x10 then .data (answerBytes r p) p.poison else .done)
    releaseRequests s

/-- A packet of a kind at this part: served or answered here, or sent by this part (R317, R321). -/
def handlePacket (s : State) (p : Packet) (opc : Nat) (ecc : Ecc) : State :=
  let p := { p with opc := opc }
  let own := localDevice s
  if p.dst.toNat = own then
    if opc < 0x10 then serveRequest s p ecc else takeResponse s p
  else if p.src.toNat = own then
    match routePort s p.dst.toNat p.offset.toNat with
    | none => fabRecord s 1 0 p.dst.toNat
    | some port =>
      if opc < 0x10 then
        sendPacket { s with fab := { s.fab with requests := s.fab.requests ++ [⟨p, .nobody, some port⟩] } } port p
      else sendPacket s port p
  else if opc < 0x10 then sendResponse (fabRecord s 1 1 p.src.toNat) p (response s p 0x12 1 [] false)
  else s

def execRdBurst (packet : Packet) (ecc : Ecc) (s : State) : Out := .next (handlePacket (quiet s) packet 0x01 ecc)
def execRdLine (packet : Packet) (ecc : Ecc) (s : State) : Out := .next (handlePacket (quiet s) packet 0x02 ecc)
def execWrBurst (packet : Packet) (s : State) : Out := .next (handlePacket (quiet s) packet 0x03 .clean)
def execWrLine (packet : Packet) (s : State) : Out := .next (handlePacket (quiet s) packet 0x04 .clean)
def execAtomicPacket (packet : Packet) (ecc : Ecc) (s : State) : Out := .next (handlePacket (quiet s) packet 0x05 ecc)
def execRedPacket (packet : Packet) (s : State) : Out := .next (handlePacket (quiet s) packet 0x06 .clean)
def execBulkRd (packet : Packet) (s : State) : Out := .next (handlePacket (quiet s) packet 0x07 .clean)
def execBulkWr (packet : Packet) (s : State) : Out := .next (handlePacket (quiet s) packet 0x08 .clean)
def execCollPull (packet : Packet) (s : State) : Out := .next (handlePacket (quiet s) packet 0x09 .clean)
def execCollPush (packet : Packet) (s : State) : Out := .next (handlePacket (quiet s) packet 0x0A .clean)
def execData (packet : Packet) (s : State) : Out := .next (handlePacket (quiet s) packet 0x10 .clean)
def execAck (packet : Packet) (s : State) : Out := .next (handlePacket (quiet s) packet 0x11 .clean)
def execErr (packet : Packet) (s : State) : Out := .next (handlePacket (quiet s) packet 0x12 .clean)

/-- REQUEST_TIMEOUT (R323). -/
def execRequestTimeout (dst : BitVec 17) (tag : BitVec 16) (s : State) : Out :=
  let s := quiet s
  .next (match takeFirst (fun (r : FabReq) => r.packet.dst = dst && r.packet.tag = tag) s.fab.requests with
    | none => s
    | some (r, rest) => releaseRequests (failRequest { s with fab := { s.fab with requests := rest } } r 6))

/-! The meridian (R329, R330) -/

def merSrc (s : State) : Nat := rd s Fld.MER_CTRL_SRC

/-- Hops this part advertises. -/
def ownHops (s : State) : Nat := if merSrc s = 0 then s.fab.merHops + 1 else 0

/-- A MER packet (log 28 for the layout of its timestamps): from the parent it brings the parent's hops; from a child it is answered. -/
def execMer (packet : Packet) (s : State) : Out :=
  let s := quiet s
  let own := localDevice s
  .next (if packet.dst.toNat ≠ own then handlePacket s packet 0x20 .clean
    else if merSrc s = 0 ∧ packet.src.toNat = rd s Fld.MER_PARENT_DEVICE then
      { s with fab := { s.fab with merHops := packet.arg.toNat } }
    else
      let body := packet.body.take 8 ++ natLe 8 s.mer ++ natLe 8 s.mer ++ natLe 8 0
      match routePort s packet.src.toNat packet.offset.toNat with
      | some port => sendPacket s port (response s { packet with opc := 0x20 } 0x20 (ownHops s) body false)
      | none => s)

/-- A serving loop is enabled. -/
def anyLoopOn (s : State) : Bool := s.img.loops.any (fun r => rd s Fld.SEQ_LCTRL_EN r.slot = 1)

def clampInt (lo hi x : Int) : Int := max lo (min hi x)

/-- The averaged offset as MER_OFFSET holds it. -/
def offsetWord (x : Int) : Nat := (clampInt (-2147483648) 2147483647 x % 4294967296).toNat

/-- MER_EXCHANGE (R330): the four timestamps of an exchange. Sixteen offsets make an average, by which the part corrects its count. -/
def merExchange (s : State) (t1 t2 t3 t4 : Nat) : State :=
  if merSrc s ≠ 0 then s
  else
    let off : Int := (((t2 : Int) - t1) - ((t4 : Int) - t3)) / 2
    let recent := (off :: s.fab.merOffsets).take 16
    if recent.length < 16 then { s with fab := { s.fab with merOffsets := recent } }
    else
      let avg := recent.foldl (· + ·) 0 / 16
      let near := decide (avg.natAbs ≤ 100)
      let good := if near then s.fab.merGood + 1 else 0
      let s := wr s Fld.MER_OFFSET_NS (offsetWord avg)
      let s := { s with fab := { s.fab with merOffsets := [], merGood := good } }
      let s := if good ≥ 16 then flag s Fld.MER_STATUS_LOCKED
        else if near then s else wr s Fld.MER_STATUS_LOCKED 0
      if anyLoopOn s || rd s Fld.MER_STATUS_LOCKED = 1 then
        let s := if avg.natAbs > 1000000 then flag s Fld.MER_STATUS_FAR else s
        { s with fab := { s.fab with merSlew := avg } }
      else
        let s := flag s Fld.MER_STATUS_STEPPED
        { s with mer := ((s.mer : Int) + avg).toNat, fab := { s.fab with merSlew := 0 } }

def execMerExchange (t1 t2 t3 t4 : BitVec 64) (s : State) : Out :=
  .next (merExchange (quiet s) t1.toNat t2.toNat t3.toNat t4.toNat)

/-- The count advances by one tick, slewed by at most 100 ppm (R330). -/
def merAdvance (s : State) (n : Nat) : State :=
  let k := s.fab.merSlew
  if k ≠ 0 ∧ s.ns % 10000 = 0 then
    { s with mer := (((s.mer + n : Nat) : Int) + k.sign).toNat, fab := { s.fab with merSlew := k - k.sign } }
  else { s with mer := s.mer + n }

end Sys2Proof.Machine
end

