-- ==== Sys2Proof/Machine/Image.lean ====
section
/-! DEFINITION. The assembly image (02): its container, the formats of its sections, the checks of R37 in their order, and the structure
a load brings in. -/

namespace Sys2Proof.Machine

/-! Container (R33, R34) -/

structure ImgHeader where
  magic : Nat
  version : Nat
  scope : Nat
  target : Nat
  sections : Nat
  length : Nat
  gen : Nat
  baseGen : Nat
  sigAlg : Nat
  keySlot : Nat
  sigOffset : Nat
  part : Nat
  minRev : Nat
  crc : Nat
  deriving DecidableEq, Repr

/-- Table 2.2. -/
def imgHeader (b : List Byte) : ImgHeader :=
  ⟨fieldOf b 0 4, fieldOf b 4 2, fieldOf b 6 2, fieldOf b 8 2, fieldOf b 10 2, fieldOf b 12 4, fieldOf b 16 8, fieldOf b 24 8,
   fieldOf b 32 2, fieldOf b 34 2, fieldOf b 36 4, fieldOf b 40 2, fieldOf b 42 2, fieldOf b 44 4⟩

/-- A section (Table 2.3), with whether its body and padding lie before the signature block and the padding is zero. -/
structure ImgSection where
  type : Nat
  flags : Nat
  rsvd : Nat
  crc : Nat
  body : List Byte
  fits : Bool
  /-- Header, body and padding in bytes. -/
  size : Nat
  deriving DecidableEq, Repr

def readSection (b : List Byte) (off stop : Nat) : ImgSection :=
  let len := fieldOf b (off + 4) 4
  let size := ceilDiv (16 + len) 16 * 16
  let body := slice b (off + 16) len
  ⟨fieldOf b off 2, fieldOf b (off + 2) 2, fieldOf b (off + 12) 4, fieldOf b (off + 8) 4, body,
    decide (off + size ≤ stop) && body.length = len && (slice b (off + 16 + len) (size - 16 - len)).all (· = 0#8), size⟩

/-- The sections from `off` on. -/
def sectionsFrom (b : List Byte) (stop : Nat) : Nat → Nat → List ImgSection
  | 0, _ => []
  | n + 1, off =>
    let x := readSection b off stop
    x :: sectionsFrom b stop n (off + x.size)

def imgSections (b : List Byte) : List ImgSection :=
  let h := imgHeader b
  sectionsFrom b h.sigOffset (Nat.min h.sections 14) 0x40

/-- Body and index of a section type. -/
def bodyOf (xs : List ImgSection) (t : Nat) : List Byte := ((xs.find? (fun x => x.type = t)).map (·.body)).getD []
def hasType (xs : List ImgSection) (t : Nat) : Bool := xs.any (fun x => x.type = t)
def indexOf (xs : List ImgSection) (t : Nat) : Nat := xs.findIdx (fun x => x.type = t)

/-- Table 2.4: required and permitted types of a scope. -/
def requiredTypes (scope : Nat) : List Nat :=
  if scope = 0 then [1, 2, 3, 4, 5, 6, 7, 8, 9, 10, 11, 12, 13] else if scope = 1 then [1] else if scope = 2 then [3, 4] else []
def permittedTypes (scope : Nat) : List Nat :=
  if scope = 0 then [14] else if scope = 1 then [5, 6, 7, 8, 14] else if scope = 2 then [] else [7, 8, 9, 11, 13]

/-- A failed check: code of Table 2.12, SECTION and DETAIL of IMG_ERR. -/
structure Failure where
  code : Nat
  sect : Nat
  detail : Nat
  deriving DecidableEq, Repr

/-- The first check that fails. -/
def firstFailure (l : List (Bool × Failure)) : Option Failure := (l.find? (fun x => !x.1)).map (·.2)

/-! Section formats -/

/-- Records of `size` bytes. -/
def records (size : Nat) (b : List Byte) : List (List Byte) := (List.range (b.length / size)).map (fun i => slice b (i * size) size)

/-- A constellation record as it stands: number, list length, offset, reserved bytes zero (R40). -/
structure RawCon where
  num : Nat
  len : Nat
  off : Nat
  clean : Bool
  deriving DecidableEq, Repr

/-- The records of a tree section; they end where the first member list begins (log 22). -/
def rawCons (b : List Byte) : Nat → Nat → Nat → List RawCon
  | 0, _, _ => []
  | n + 1, i, stop =>
    if 16 * i + 16 > stop then []
    else
      let r : RawCon := ⟨fieldOf b (16 * i) 2, fieldOf b (16 * i + 2) 2, fieldOf b (16 * i + 4) 4,
        (slice b (16 * i + 8) 8).all (· = 0#8)⟩
      r :: rawCons b n (i + 1) (Nat.min stop r.off)

def treeRaw (b : List Byte) : List RawCon := rawCons b 1024 0 b.length

def memberOf (v : Nat) : Member := if v ≥ 0x8000 then .con (v - 0x8000) else .cluster v

/-- The constellation tree of a section. -/
def readTree (b : List Byte) : List ConRec :=
  (treeRaw b).map (fun r => ⟨r.num, (List.range r.len).map (fun j => memberOf (fieldOf b (r.off + 2 * j) 2))⟩)

/-- The form of a tree section. -/
def treeForm (b : List Byte) : Bool :=
  let rs := treeRaw b
  rs.all (fun r => r.num < 1024 && 1 ≤ r.len && r.len ≤ 144 && 16 * rs.length ≤ r.off && r.off + 2 * r.len ≤ b.length && r.clean) &&
  (b.isEmpty || !rs.isEmpty)

/-- Every member of a tree. -/
def allMembers (tree : List ConRec) : List Member := tree.flatMap (·.members)

/-- Rules of R40 over a whole tree: the first constellation that breaks one. -/
def treeFault (tree : List ConRec) : Option Nat :=
  let bad (r : ConRec) : Bool :=
    r.members.isEmpty || decide (1 < (tree.filter (fun x => x.num = r.num)).length) ||
    r.members.any (fun m => (match m with
        | .cluster l => 144 ≤ l
        | .con k => !tree.any (fun x => x.num = k)) || decide (1 < (allMembers tree).count m)) ||
    decide (6 < levelAux tree 8 (.con r.num))
  (tree.find? bad).map (·.num)

/-- The cluster map section: the logical number of each physical cluster (R46). -/
def readMap (b : List Byte) : List Nat := (List.range 152).map (fun p => fieldOf b (2 * p) 2)

def mapForm (b : List Byte) : Bool :=
  let e := readMap b
  b.length = 304 && e.all (fun x => x < 144 || x = 0xFFFF) &&
  ((e.take 76).filter (· ≠ 0xFFFF)).length = 72 && ((e.drop 76).filter (· ≠ 0xFFFF)).length = 72 &&
  (List.range 144).all (fun l => e.count l = 1)

/-- The retirement record laid over the map: the map, and the first retired cluster no spare can take (R46). -/
def overlayMap (retired : List Nat) (e : List Nat) : List Nat × Option Nat :=
  retired.foldl (fun (a : List Nat × Option Nat) p =>
    if a.2.isSome ∨ a.1.getD p 0xFFFF = 0xFFFF then a
    else
      match ((List.range 76).map (fun i => p / 76 * 76 + i)).find? (fun q => a.1.getD q 0 = 0xFFFF ∧ !retired.contains q) with
      | none => (a.1, some p)
      | some q => ((a.1.set q (a.1.getD p 0xFFFF)).set p 0xFFFF, none)) (e, none)

/-- Physical cluster of each logical number. -/
def lmapOf (e : List Nat) : List Nat := (List.range 144).map (fun l => e.findIdx (fun x => x = l))

/-- Mode masks of a full image, in slot order (R47). -/
def readModes (b : List Byte) : KMap Nat :=
  (List.range 8).foldl (fun m k => KMap.set (fun _ => 0) m (stackOfSlot k) (fieldOf b (2 * k) 2)) []

/-- Memory-mode channels in ascending order (R95). -/
def channelList (pm : KMap Nat) : List Nat :=
  (List.range 768).filter (fun c => bitsOf (KMap.get (fun _ => 0) pm (c / 64)) (c % 64 / 4) 1 = 0)

def readHash (pm : KMap Nat) (b : List Byte) : Hashing := ⟨channelList pm, (List.range 4096).map (fun i => fieldOf b (2 * i) 2)⟩

/-- The stack of the first entry, or channel, that breaks R47. -/
def hashFault (b : List Byte) (h : Hashing) : Option Nat :=
  if b.length ≠ 8192 then some 0
  else
    match h.table.find? (fun e => !h.chans.contains e) with
    | some e => some (e / 64 % 16)
    | none => (h.chans.find? (fun c => !h.table.contains c)).map (fun c => c / 64)

/-- Bindings as tenant and constellation (R48). -/
def readBinds (b : List Byte) : List (Nat × Nat) := (records 4 b).map (fun r => (fieldOf r 0 2, fieldOf r 2 2))

/-- The constellation of the first binding that breaks R48. -/
def bindFault (tree : List ConRec) (binds : List (Nat × Nat)) : Option Nat :=
  let img := { Image.none with tree := tree }
  let bad (b : Nat × Nat) : Bool :=
    1024 ≤ b.1 || !tree.any (fun r => r.num = b.2) ||
    binds.any (fun c => c.1 ≠ b.1 && (ancestors img maxLevel b.2).contains c.2)
  (binds.find? bad).map (·.2)

/-- Table 11.1. -/
def readLoop (r : List Byte) : LoopRec :=
  ⟨fieldOf r 0 1, fieldOf r 1 1 % 2 = 1, fieldOf r 2 2, fieldOf r 4 2, fieldOf r 6 2, fieldOf r 8 8, fieldOf r 16 8, fieldOf r 24 2,
   fieldOf r 26 2, fieldOf r 28 2, fieldOf r 30 1, fieldOf r 31 1⟩

def readLoops (b : List Byte) : List LoopRec := (records 32 b).map readLoop

/-- Bytes of a staging area with `n` leaves (Table 11.2). -/
def contextBytes : Nat := 4210688
def stageBytes (n : Nat) : Nat := 0x8000000 + n * contextBytes

/-- Field ranges of a loop record; ENTRY and STAGE are hashed addresses inside the hashed space (R276, R277, log 23). -/
def loopForm (img : Image) (raw : List Byte) (r : LoopRec) : Bool :=
  let n := (leaves img r.con).length
  let size := hashSize img.hash
  fieldOf raw 1 1 < 2 && r.tenant < 1024 && 1 ≤ r.tokBudget && 256 ≤ r.chunk && r.chunk ≤ 4096 && 1 ≤ r.replayMax && r.replayMax ≤ 15 &&
  1 ≤ r.runMax && r.entry / 2 ^ 58 = 0 && r.entry % 64 = 0 && decide (r.entry % 2 ^ 41 < size) && r.stage / 2 ^ 58 = 0 &&
  r.stage % 4096 = 0 && decide (r.stage % 2 ^ 41 + stageBytes n ≤ size)

def routeOf (r : List Byte) : IrqRoute := ⟨fieldOf r 0 2, fieldOf r 2 1, fieldOf r 3 1, fieldOf r 4 2, fieldOf r 6 2⟩
def readRoutes (b : List Byte) : List IrqRoute := (records 8 (b.drop 16)).map routeOf

/-- An entry of the routing section (R428). -/
def routeForm (img : Image) (rs : List IrqRoute) (r : IrqRoute) : Bool :=
  isSource r.source && (rs.filter (fun x => x.source = r.source)).length = 1 && r.target < 4 && r.prio < 16 &&
  (if r.target = 1 ∨ r.target = 2 then
    (match img.funcs[r.target - 1]? with
      | some f => r.function ≤ f.vfs.length && r.vector < fnVectors img (r.target - 1) r.function
      | none => false)
   else r.function = 0 && r.vector = 0)

def routesForm (img : Image) (b : List Byte) : Bool :=
  16 ≤ b.length && fieldOf b 0 2 ≤ 4096 && (slice b 2 14).all (· = 0#8) && b.length = 16 + 8 * fieldOf b 0 2 &&
  (readRoutes b).all (routeForm img (readRoutes b))

def readShares (b : List Byte) : List Nat := (List.range 13).map (fun d => fieldOf b (4 + 2 * d) 2)
def readLimit (b : List Byte) : Nat := if fieldOf b 0 2 = 0 then 2000 else fieldOf b 0 2
def readCaps (b : List Byte) : List (Nat × Nat) := (records 4 (b.drop 32)).map (fun r => (fieldOf r 0 2, fieldOf r 2 2))

/-- The share section of a full or hub image; `allowed` are the constellations its entries may name (R399). -/
def sharesForm (partialScope : Bool) (allowed : List Nat) (b : List Byte) : Bool :=
  let caps := readCaps b
  32 ≤ b.length && (slice b 30 2).all (· = 0#8) && b.length = 32 + 4 * fieldOf b 2 2 &&
  (if partialScope then fieldOf b 0 2 = 0 && (slice b 4 26).all (· = 0#8)
   else 1200 ≤ readLimit b && readLimit b ≤ 2400 && (readShares b).foldl (· + ·) 0 ≤ readLimit b) &&
  caps.all (fun c => allowed.contains c.1 && (caps.filter (fun x => x.1 = c.1)).length = 1 && c.2 < 4096)

def readTemplate (b : List Byte) : Template :=
  ⟨fieldOf b 0 4, fieldOf b 4 8, (records 8 (b.drop 16)).map (fun r => ⟨fieldOf r 0 1, fieldOf r 2 3, fieldOf r 5 3⟩)⟩

/-- R306; a section outside these ranges has code MAP (log 22). -/
def templateForm (b : List Byte) : Bool :=
  let t := readTemplate b
  16 ≤ b.length && 1 ≤ t.period && t.period ≤ 2 ^ 24 && t.epoch % 256 = 0 && fieldOf b 12 2 ≤ 4096 && fieldOf b 14 2 = 0 &&
  b.length = 16 + 8 * fieldOf b 12 2 && (records 8 (b.drop 16)).all (fun r => fieldOf r 1 1 = 0) &&
  t.windows.all (fun w => w.start < t.period)

def readRoles (b : List Byte) : List Nat := (List.range 18).map (fun p => fieldOf b (2 * p) 2)
def rolesForm (b : List Byte) : Bool := b.length = 36 && (readRoles b).all (· < 8)
def readFabRoutes (b : List Byte) : List Nat := (List.range 768).map (fun i => fieldOf b (4 * i) 4)
def fabRoutesForm (b : List Byte) : Bool := b.length = 3072 && (readFabRoutes b).all (· < 2 ^ 18)

def readPort (b : List Byte) : PortFuncs :=
  ⟨fieldOf b 2 1 % 2 = 1, fieldOf b 2 1 / 2 % 2 = 1, fieldOf b 4 2,
    (List.range (Nat.min (fieldOf b 0 2) 255)).map (fun v => (fieldOf b (8 + 4 * v) 2, fieldOf b (10 + 4 * v) 2))⟩
def portSize (b : List Byte) : Nat := 8 + 4 * fieldOf b 0 2
def readFuncs (b : List Byte) : List PortFuncs := [readPort b, readPort (b.drop (portSize b))]

def portForm (b : List Byte) : Bool :=
  let p := readPort b
  8 ≤ b.length && fieldOf b 0 2 ≤ 255 && fieldOf b 2 1 < 4 && fieldOf b 3 1 = 0 && fieldOf b 6 2 = 0 && portSize b ≤ b.length &&
  1 ≤ p.pfVec && p.pfVec ≤ 2048 && p.vfs.all (fun v => v.1 < 1024 && 1 ≤ v.2 && v.2 ≤ 2048) &&
  p.pfVec + (p.vfs.map (·.2)).foldl (· + ·) 0 ≤ 2048

/-- R436. -/
def funcsForm (b : List Byte) : Bool :=
  portForm b && portForm (b.drop (portSize b)) && b.length = portSize b + portSize (b.drop (portSize b))

/-- The placement header of sections 0x0D and 0x0E (R49). -/
def readPlacement (b : List Byte) : Placement := ⟨fieldOf b 0 8 % 2 ^ 41, fieldOf b 8 4, fieldOf b 12 4⟩

def placementForm (s : State) (h : Hashing) (b : List Byte) : Bool :=
  let p := readPlacement b
  16 ≤ b.length && fieldOf b 0 8 / 2 ^ 41 = 0 && p.offset % 4096 = 0 && p.length = b.length - 16 && p.entry < p.length &&
  decide (p.offset + p.length ≤ hashSize h) &&
  !(s.mem.bounds.units.any (fun e => e.2.isSome && decide (e.1 * 2 ^ 21 < p.offset + p.length) && decide (p.offset < (e.1 + 1) * 2 ^ 21)))

/-! The structure a load brings in -/

/-- Constellations a constellation-scope load replaces. -/
def oldSubtree (img : Image) (k : Nat) : List Nat := if img.tree.any (fun r => r.num = k) then subtree img k else []

/-- The tree after a constellation-scope load: the subtree of k replaced; k leaves its parent's list when it is removed (R52). -/
def nextTree (img : Image) (k : Nat) (new : List ConRec) : List ConRec :=
  let gone := oldSubtree img k
  let kept := img.tree.filter (fun r => !gone.contains r.num)
  let kept := if new.isEmpty then kept.map (fun r => { r with members := r.members.filter (fun m => m ≠ .con k) }) else kept
  kept ++ new

/-- Sources a constellation-scope routing section may name (R428). -/
def subtreeSources (img : Image) (k : Nat) (loops : List LoopRec) : List Nat :=
  (leaves img k).flatMap (fun l => [0x100 + 2 * l, 0x101 + 2 * l]) ++
  (loops.filter (fun r => (subtree img k).contains r.con)).flatMap (fun r => [0x300 + r.slot, 0x400 + r.slot])

/-- The structure of an image laid over the one in force (Table 2.1). -/
def nextImage (s : State) (b : List Byte) : Image :=
  let h := imgHeader b
  let xs := imgSections b
  let old := s.img
  if h.scope = 0 then
    let pm := readModes (bodyOf xs 3)
    { loaded := true
      tree := readTree (bodyOf xs 1)
      lmap := lmapOf (overlayMap s.ras.retiredClusters (readMap (bodyOf xs 2))).1
      pmask := pm
      hash := readHash pm (bodyOf xs 4)
      binds := readBinds (bodyOf xs 5)
      loops := readLoops (bodyOf xs 6)
      routes := readRoutes (bodyOf xs 7)
      shares := readShares (bodyOf xs 8)
      caps := readCaps (bodyOf xs 8)
      limit := readLimit (bodyOf xs 8)
      template := readTemplate (bodyOf xs 9)
      roles := readRoles (bodyOf xs 10)
      fabRoutes := readFabRoutes (bodyOf xs 11)
      funcs := readFuncs (bodyOf xs 12)
      firmware := some (readPlacement (bodyOf xs 13))
      programs := if hasType xs 14 then some (readPlacement (bodyOf xs 14)) else none }
  else if h.scope = 1 then
    let gone := oldSubtree old h.target
    let tree := nextTree old h.target (readTree (bodyOf xs 1))
    let live (k : Nat) : Bool := tree.any (fun r => r.num = k)
    let binds := if hasType xs 5 then old.binds.filter (fun x => !gone.contains x.2) ++ readBinds (bodyOf xs 5)
      else old.binds.filter (fun x => live x.2)
    let loops := if hasType xs 6 then old.loops.filter (fun r => !gone.contains r.con) ++ readLoops (bodyOf xs 6)
      else old.loops.filter (fun r => live r.con)
    let img := { old with tree := tree, binds := binds, loops := loops }
    let mine := subtreeSources old h.target old.loops ++ subtreeSources img h.target loops
    { img with
      routes := if hasType xs 7 then old.routes.filter (fun r => !mine.contains r.source) ++ readRoutes (bodyOf xs 7) else old.routes
      caps := if hasType xs 8 then old.caps.filter (fun c => !gone.contains c.1) ++ readCaps (bodyOf xs 8)
        else old.caps.filter (fun c => live c.1)
      programs := if hasType xs 14 then some (readPlacement (bodyOf xs 14)) else old.programs }
  else if h.scope = 2 then
    let pm := KMap.set (fun _ => 0) old.pmask h.target (fieldOf (bodyOf xs 3) 0 2)
    { old with pmask := pm, hash := readHash pm (bodyOf xs 4) }
  else
    { old with
      routes := if hasType xs 7 then readRoutes (bodyOf xs 7) else old.routes
      shares := if hasType xs 8 then readShares (bodyOf xs 8) else old.shares
      caps := if hasType xs 8 then readCaps (bodyOf xs 8) else old.caps
      limit := if hasType xs 8 then readLimit (bodyOf xs 8) else old.limit
      template := if hasType xs 9 then readTemplate (bodyOf xs 9) else old.template
      fabRoutes := if hasType xs 11 then readFabRoutes (bodyOf xs 11) else old.fabRoutes
      firmware := if hasType xs 13 then some (readPlacement (bodyOf xs 13)) else old.firmware }

/-! Verification (R37) -/

/-- The key of a signature block: a P-384 point of 97 bytes under ECDSA; under LMS the block's own encoding (R35). -/
def sigKey (alg : Nat) (block : List Byte) : List Byte := if alg = 0 then block.take 97 else block

/-- A fused slot that is present and not revoked (R35). -/
def keySlotOk (s : State) (slot : Nat) : Bool :=
  slot < 4 && bitsOf (rd s Fld.SEC_KEYSLOT_PRESENT) slot 1 = 1 && bitsOf (rd s Fld.SEC_KEYSLOT_REVOKED) slot 1 = 0

/-- A signed object passes: slot, key hash and signature (R35, R37 steps 2 and 3). -/
def signatureOk (alg slot : Nat) (block signed : List Byte) : Bool :=
  decide (Config.keyHash (sigKey alg block) = Config.fusedKeyHash slot) && Config.signatureValid (alg = 1) block signed

def imgGen (s : State) : Nat := rd64 s Fld.IMG_GEN_LO_GEN Fld.IMG_GEN_HI_GEN
def secFloor (s : State) : Nat := rd64 s Fld.SEC_FLOOR_LO_GEN Fld.SEC_FLOOR_HI_GEN

/-- Whether TARGET fits SCOPE (Table 2.2): a stack-scope image carries the mask of a lit stack (R47). -/
def targetOk (h : ImgHeader) : Bool :=
  if h.scope = 1 then h.target < 1024 else if h.scope = 2 then h.target < 12 && isLit h.target else h.target = 0

/-- Steps 1 to 5 of R37. -/
def containerFailure (s : State) (b : List Byte) : Option Failure :=
  let h := imgHeader b
  let xs := imgSections b
  let idx := List.range xs.length
  let types := xs.map (·.type)
  let crcBad := idx.find? (fun i => match xs[i]? with
    | some x => !x.fits || crc32c x.body ≠ x.crc
    | none => false)
  let ended := 0x40 + (xs.map (·.size)).foldl (· + ·) 0 = h.sigOffset
  let scopeBad := idx.find? (fun i => match xs[i]? with
    | some x => !(requiredTypes h.scope ++ permittedTypes h.scope).contains x.type || (types.take i).contains x.type ||
        x.flags ≠ 0 || x.rsvd ≠ 0
    | none => false)
  let gensOk := if h.scope = 0 then secFloor s ≤ h.gen && h.baseGen = 0 else h.baseGen = imgGen s && imgGen s < h.gen
  firstFailure [
    (h.length = b.length, ⟨3, 0xFF, 0⟩),
    (64 ≤ b.length && h.magic = 0x4D49584C && h.version = 1 && h.part = 0x1536 && h.length ≤ 0x10000000 && crc32c (b.take 44) = h.crc &&
      (slice b 48 16).all (· = 0#8) && 1 ≤ h.sections && h.sections ≤ 14 && h.scope < 4 && targetOk h && h.sigOffset % 16 = 0 &&
      decide (h.sigOffset ≤ h.length), ⟨4, 0xFF, 0⟩),
    (h.minRev ≤ rd s Fld.HUB_REV_MINOR + 16 * rd s Fld.HUB_REV_MAJOR, ⟨5, 0xFF, 0⟩),
    (h.sigAlg = rd s Fld.SEC_KEYSLOT_LMS && keySlotOk s h.keySlot &&
      decide (Config.keyHash (sigKey h.sigAlg (b.drop h.sigOffset)) = Config.fusedKeyHash h.keySlot), ⟨6, 0xFF, 0⟩),
    (Config.signatureValid (h.sigAlg = 1) (b.drop h.sigOffset) (b.take h.sigOffset), ⟨7, 0xFF, 0⟩),
    (crcBad.isNone, ⟨8, crcBad.getD 0, 0⟩),
    (ended, ⟨8, xs.length - 1, 0⟩),
    (scopeBad.isNone, ⟨9, scopeBad.getD 0, 0⟩),
    ((requiredTypes h.scope).all (fun t => types.contains t), ⟨9, 0xFF, 0⟩),
    (gensOk, ⟨10, 0xFF, 0⟩)]

/-- A section's check, where the image carries it. -/
def checkSection (xs : List ImgSection) (t code : Nat) (ok : List Byte → Bool) (detail : Nat) : Bool × Failure :=
  (!hasType xs t || ok (bodyOf xs t), ⟨code, indexOf xs t, detail⟩)

/-- Step 6 of R37: the contents, in the order of their types, 0x0C before 0x07, which needs it (log 22). -/
def contentFailure (s : State) (b : List Byte) : Option Failure :=
  let h := imgHeader b
  let xs := imgSections b
  let img := nextImage s b
  let tf := treeFault img.tree
  let ov := overlayMap s.ras.retiredClusters (readMap (bodyOf xs 2))
  let hf := hashFault (bodyOf xs 4) img.hash
  let bf := bindFault img.tree img.binds
  let loopBad := (records 32 (bodyOf xs 6)).find? (fun r => !loopForm img r (readLoop r) ||
    decide (1 < (img.loops.filter (fun x => x.slot = (readLoop r).slot)).length) ||
    (h.scope = 1 && !(subtree img h.target).contains (readLoop r).con))
  let loopUnbound := img.loops.find? (fun r => conTenant img r.con ≠ some r.tenant)
  let sub := subtree img h.target
  let target := !(h.scope = 1) || (let new := readTree (bodyOf xs 1)
    new.isEmpty || (new.any (fun r => r.num = h.target) && new.all (fun r => sub.contains r.num)))
  let inScope := !(h.scope = 1) || !hasType xs 7 ||
    (readRoutes (bodyOf xs 7)).all (fun r => (subtreeSources img h.target img.loops).contains r.source)
  let boundInside := !(h.scope = 1) || (readBinds (bodyOf xs 5)).all (fun x => sub.contains x.2)
  firstFailure [
    checkSection xs 1 11 treeForm 0,
    checkSection xs 1 11 (fun _ => tf.isNone && target) (tf.getD h.target),
    checkSection xs 2 12 mapForm 0,
    checkSection xs 2 12 (fun _ => ov.2.isNone) (ov.2.getD 0),
    checkSection xs 3 12 (fun x => x.length = (if h.scope = 2 then 2 else 16)) 0,
    checkSection xs 4 13 (fun _ => hf.isNone) (hf.getD 0),
    checkSection xs 5 11 (fun x => x.length % 4 = 0 && bf.isNone && boundInside) (bf.getD 0),
    checkSection xs 6 12 (fun x => x.length % 32 = 0 && loopBad.isNone) ((loopBad.map (fun r => (readLoop r).slot)).getD 0),
    checkSection xs 6 11 (fun _ => loopUnbound.isNone) ((loopUnbound.map (·.slot)).getD 0),
    checkSection xs 12 12 funcsForm 0,
    checkSection xs 7 12 (fun x => routesForm img x && inScope) 0,
    checkSection xs 8 12 (sharesForm (h.scope = 1) (if h.scope = 1 then sub else img.tree.map (·.num))) 0,
    checkSection xs 9 12 templateForm 0,
    checkSection xs 10 12 rolesForm 0,
    checkSection xs 11 12 fabRoutesForm 0,
    checkSection xs 13 12 (placementForm s img.hash) 0,
    checkSection xs 14 12 (placementForm s img.hash) 0]

/-- The verdict on a fetched image (R37). -/
def verifyFailure (s : State) (b : List Byte) : Option Failure := (containerFailure s b).or (contentFailure s b)

/-! Digest (R39) -/

def imgDigest (s : State) : Nat :=
  (List.range 12).foldl (fun a i => a + rd s Fld.IMG_DIGEST_WORD i * 2 ^ (32 * i)) 0

/-- The 48 bytes of a digest. -/
def digestBytes (d : BitVec 384) : List Byte := natLe 48 d.toNat

def nextDigest (s : State) (b : List Byte) : BitVec 384 :=
  if (imgHeader b).scope = 0 then Config.sha384 b
  else Config.sha384 (natLe 48 (imgDigest s) ++ digestBytes (Config.sha384 b))

def setDigest (s : State) (d : BitVec 384) : State :=
  (List.range 12).foldl (fun s i => wr s Fld.IMG_DIGEST_WORD (bitsOf d.toNat (32 * i) 32) i) s

end Sys2Proof.Machine
end

