-- ==== Sys2Proof/Machine/Load.lean ====
section
/-! DEFINITION. The image load (02 R50 to R55, R57 to R61): its start and abort, verification, granule moves, switch and release. -/

namespace Sys2Proof.Machine

def imgState (s : State) : Nat := rd s Fld.IMG_STATUS_STATE

/-- A load ends: STATE 5 or 6, the code of Table 2.12, and IMG_END. A PLDM update that applied by it reports the code (R441). -/
def loadEnd (s : State) (state code sect detail : Nat) : State :=
  let s := wr (flag s Fld.IMG_STATUS_END) Fld.IMG_STATUS_STATE state
  let s := wr (wr (wr s Fld.IMG_ERR_CODE code) Fld.IMG_ERR_SECTION sect) Fld.IMG_ERR_DETAIL detail
  let s := match s.load.pldm with
    | some c => emit s (.message (0x2000 + c) (natLe 1 code))
    | none => s
  { s with load := .idle, seq := { s.seq with loops := s.seq.loops.map (fun e => (e.1, { e.2 with barred := false })) } }

/-- A load ends before its switch; dies released in prepare return under R145 (R51, R53). -/
def loadFails (s : State) (code sect detail : Nat) : State :=
  let s := if s.load.running && imgState s = 2 && s.load.scope = 2 then
      let gone := s.load.mask - (s.load.mask &&& pmask s.img s.load.target)
      modStk s s.load.target (fun k => { k with entering := k.entering ||| gone, leaving := 0 })
    else s
  loadEnd s 6 code sect detail

/-- A running load ends early; granules that have moved go back first (R53). -/
def stopLoad (s : State) (code : Nat) : State :=
  if !s.load.running || decide (imgState s > 2) || s.load.backing.isSome then s
  else if s.load.moved.isEmpty && s.load.hold.isNone then loadFails s code 0xFF 0
  else { s with load := { s.load with backing := some code } }

/-- A write of IMG_CTRL (R50, R57, R58). -/
def imgCtrl (s : State) (who : Requester) (start abort : Bool) (kind : Nat) : State :=
  if !mayImage who then flag s Fld.IMG_STATUS_REF_DENIED
  else
    let s := wr s Fld.IMG_CTRL_SRC_KIND kind
    if abort then stopLoad s 0x14
    else if !start then s
    else if s.load.running then flag s Fld.IMG_STATUS_REF_BUSY
    else
      let s := progress s Fld.IMG_LOAD_POS_LO_POS Fld.IMG_LOAD_POS_HI_POS Fld.IMG_LOAD_PCT_PCT 0 0 1
      if kind ≥ 2 then loadEnd s 6 3 0xFF 0
      else wr { s with load := { Load.idle with running := true, srcKind := kind } } Fld.IMG_STATUS_STATE 1

/-! Verify and prepare -/

/-- The granule that stands at a location of a hash. -/
def unhash (h : Hashing) (key : Nat) : Option Nat :=
  let n := h.chans.length
  let ch := key / 2 ^ 31
  if h.chans.contains ch then
    let q := key % 2 ^ 31 / 256
    let t := (q % 4096) ^^^ (q / 4096 % 4096)
    let r := h.chans.findIdx (fun c => c = h.table.getD t 0)
    some (q * n + (h.chans.findIdx (fun c => c = ch) + n - r) % n)
  else none

/-- Granules of a 4 KiB unit under a hash. -/
def unitGranules (h : Hashing) (u : Nat) : List Nat := (List.range 16).filterMap (fun i => unhash h (u * 4096 + i * 256))

/-- Loops of a constellation's subtree, before and after a load. -/
def subtreeLoops (s : State) (next : Image) (k : Nat) : List Nat :=
  ((s.img.loops.filter (fun r => (oldSubtree s.img k).contains r.con)) ++
    (next.loops.filter (fun r => (oldSubtree next k).contains r.con))).map (·.slot) |>.dedup

/-- Units of the dies of a mask, as placed units. -/
def dieUnits (n mask : Nat) : List Nat :=
  ((List.range 1024).filter (fun u => bitsOf mask (dieOfChan (u / 16)) 1 = 1)).map (placedUnit n)

/-- Prepare of a stack-scope load up to the release of the leaving dies (R53). -/
def prepareStack (s : State) (xs : List ImgSection) : State :=
  let n := s.load.target
  let old := s.img.hash
  let next := s.load.next.hash
  let size := hashSize next / 256
  let written := s.mem.written.filter (fun u => old.chans.contains (u / 2 ^ 19))
  if next.chans.length < old.chans.length ∧ written.any (fun u => (unitGranules old u).any (fun g => decide (size ≤ g))) then
    loadFails s 0x10 (indexOf xs 4) n
  else
    let gone := pmask s.img n - (pmask s.img n &&& pmask s.load.next n)
    let away := (dieUnits n gone).foldl (fun (z : State × Bool) u =>
      let r := clearPair z.1 u
      (r.1, z.2 && r.2)) (modStk s n (fun k => { k with leaving := gone }), true)
    if away.2 then { away.1 with load := { away.1.load with units := written } } else loadFails s 0x0F (indexOf xs 3) n

/-- A load whose image passed enters prepare (R51 to R54). -/
def enterPrepare (s : State) (b : List Byte) : State :=
  let h := imgHeader b
  let next := nextImage s b
  let s := wr (wr s Fld.IMG_STATUS_STATE 2) Fld.IMG_LOAD_PCT_PCT 200
  let s := { s with load := { s.load with
    bytes := b, scope := h.scope, target := h.target, gen := h.gen, next := next, mask := pmask s.img h.target } }
  if h.scope = 1 then
    (subtreeLoops s next h.target).foldl (fun s n => modLoop s n (fun l => { l with barred := true })) s
  else if h.scope = 2 then prepareStack s (imgSections b)
  else s

/-- The image as the loader fetches it: from this part's memory, or as boot flash, a host or another part delivers it (R57). -/
def imgSource (s : State) (fetched : Option (List Byte)) : Option (List Byte) :=
  let n := rd s Fld.IMG_LEN_BYTES
  let a := rd64 s Fld.IMG_SRC_LO_ADDR Fld.IMG_SRC_HI_ADDR
  let g := BitVec.ofNat 64 a
  let b := if s.load.srcKind = 0 && isLocal s g && spaceOf g ≠ 4 then
      (match hubLook s a n with
        | some (b, false) => some b
        | _ => none)
    else fetched
  b.bind (fun b => if b.length = n then some b else none)

/-- The checks run on the fetched image, none where it cannot be fetched (R37, R50, R58). -/
def verifyBytes (s : State) (image : Option (List Byte)) : State :=
  if !s.load.running || imgState s ≠ 1 then s
  else
    match image with
    | none => loadEnd s 6 3 0xFF 0
    | some b =>
      let h := imgHeader b
      let s := wr (wr (wr s Fld.IMG_STATUS_SCOPE h.scope) Fld.IMG_STATUS_TARGET h.target) Fld.IMG_LOAD_PCT_PCT 200
      match verifyFailure s b with
      | some f =>
        let s := if f.code = 6 ∨ f.code = 7 then secFail s none else s
        loadEnd s 6 f.code f.sect f.detail
      | none =>
        if h.scope = 0 ∧ s.seq.loops.any (fun e => !e.2.steps.isEmpty) then loadEnd s 6 0x12 0xFF 0
        else enterPrepare s b

/-- IMG_VERIFY_END. -/
def execImgVerifyEnd (fetched : Option (List Byte)) (s : State) : Out :=
  let s := quiet s
  .next (verifyBytes s (imgSource s fetched))

/-! Granule moves (R53) -/

/-- The granule has to move: it stands elsewhere under the new hash, and one of its places is in a written unit. A granule of space that
the load adds has no old place. -/
def mustMove (s : State) (g : Nat) : Bool :=
  match hashKey s.img.hash (g * 256), hashKey s.load.next.hash (g * 256) with
  | some o, some k => decide (o ≠ k) && (s.load.units.contains (o / 4096) || s.load.units.contains (k / 4096))
  | none, some k => s.load.units.contains (k / 4096)
  | _, none => false

/-- Every granule that has to move has moved. -/
def allMoved (s : State) : Bool :=
  s.load.units.all (fun u => (unitGranules s.img.hash u ++ unitGranules s.load.next.hash u).all (fun g =>
    !mustMove s g || s.load.moved.contains g))

def granuleBlocked (s : State) (g : Nat) : Bool := (List.range 4).any (fun i => lineBlocked s (g * 256 + 64 * i))

/-- A granule is read from where it stands; its lines leave their slice first. -/
def readGranule (s : State) (g : Nat) (ecc : Ecc) : State × Granule :=
  (List.range 4).foldl (fun (z : State × Granule) i =>
    let off := g * 256 + 64 * i
    let s := flushLine z.1 (homeDie z.1 off) off
    match lineNo s off with
    | none => (s, { z.2 with bytes := z.2.bytes ++ List.replicate 64 0#8, poison := z.2.poison ++ [false] })
    | some n =>
      let r := fetchLine s off n ecc
      (r.1, { z.2 with bytes := z.2.bytes ++ lineBytes r.2.1, poison := z.2.poison ++ [r.2.2] })) (s, ⟨g, [], []⟩)

/-- A granule is written at a location. -/
def writeGranule (s : State) (h : Granule) (key : Nat) : State :=
  (List.range 4).foldl (fun s i =>
    let n := key / 64 + i
    { s with mem := putLine (settle s.mem n) n (lineOf ((h.bytes.drop (64 * i)).take 64)) (h.poison.getD i false) }) s

/-- A location that takes the loader's writes now: its stack is open, and its die has left processor mode. -/
def takesGranule (s : State) (key : Nat) : Bool :=
  let ch := key / 2 ^ 31
  let n := ch / 64
  let d := ch % 64 / 4
  !stackClosed s n && !procDie s.img n d && bitsOf (stk s n).clearing d 1 = 0

/-- One granule goes to its place under `dst`; what still stands there is read into the holding buffer first. -/
def placeGranule (s : State) (h : Granule) (dst src : Hashing) (stays : Nat → Bool) (mark : KSet → KSet) (ecc : Ecc) : State :=
  match hashKey dst (h.g * 256) with
  | none => s
  | some key =>
    let occ := (unhash src key).bind (fun x => if x = h.g ∨ stays x then none else some x)
    if !takesGranule s key || occ.any (granuleBlocked s) then s
    else
      let r := match occ with
        | none => (s, none)
        | some x => let r := readGranule s x ecc; (r.1, some r.2)
      let s := writeGranule r.1 h key
      { s with load := { s.load with moved := mark s.load.moved, hold := r.2 } }

/-- PCT while granules move rises by an estimate the spec does not state, to at most 990 (R61, log 9). -/
def moveProgress (s : State) : State :=
  let p := rd s Fld.IMG_LOAD_PCT_PCT
  let r := free 10 s
  wr r.2 Fld.IMG_LOAD_PCT_PCT (p + r.1.toNat % (990 - p + 1))

/-- One step of a permutation cycle. -/
def granuleMove (s : State) (g : Nat) (ecc : Ecc) : State :=
  if !migrating s || s.load.backing.isSome then s
  else
    let go (s : State) (h : Granule) (ecc : Ecc) : State :=
      placeGranule s h s.load.next.hash s.img.hash
        (fun x => s.load.moved.contains x || decide (hashSize s.load.next.hash ≤ x * 256)) (fun m => KSet.add m h.g) ecc
    match s.load.hold with
    | some h => if h.g = g then moveProgress (go s h ecc) else s
    | none =>
      if !mustMove s g || s.load.moved.contains g || granuleBlocked s g ||
          !(hashKey s.load.next.hash (g * 256)).any (takesGranule s) then s
      else
        let r := readGranule s g ecc
        -- A granule whose new place is blocked stays in the buffer until the next move.
        let s := { r.1 with load := { r.1.load with hold := some r.2 } }
        moveProgress (go s r.2 .clean)

/-- IMG_GRANULE_MOVE. -/
def execImgGranuleMove (g : BitVec 33) (ecc : Ecc) (s : State) : Out := .next (granuleMove (quiet s) g.toNat ecc)

/-- One granule goes back to its old place; the load ends when none is left. -/
def granuleBack (s : State) (g : Nat) : State :=
  match s.load.backing with
  | none => s
  | some code =>
    let go (s : State) (h : Granule) : State :=
      placeGranule s h s.img.hash s.load.next.hash (fun x => !s.load.moved.contains x) (fun m => KSet.del m h.g) .clean
    let s := match s.load.hold with
      | some h => if h.g = g then go s h else s
      | none =>
        if !s.load.moved.contains g || granuleBlocked s g || !(hashKey s.img.hash (g * 256)).any (takesGranule s) then s
        else
          let r := readGranule s g .clean
          go { r.1 with load := { r.1.load with hold := some r.2, moved := KSet.del r.1.load.moved g } } r.2
    -- An occupant read into the buffer stands nowhere else.
    let s := match s.load.hold with
      | some h => { s with load := { s.load with moved := KSet.del s.load.moved h.g } }
      | none => s
    if s.load.moved.isEmpty && s.load.hold.isNone then loadFails s code 0xFF 0 else s

/-- IMG_GRANULE_MOVE_BACK. -/
def execImgGranuleMoveBack (g : BitVec 33) (s : State) : Out := .next (granuleBack (quiet s) g.toNat)

/-- HELD_GRANULE_ACCESS: accesses that waited for a granule proceed once it is written. -/
def execHeldGranuleAccess (s : State) : Out := .next (releaseWaiting (quiet s))

/-! Switch and release -/

/-- Every line of the slices goes to its stack. -/
def flushSlices (s : State) : State :=
  let dies := [0, 1]
  let lines := s.mem.sets.flatMap (fun e => e.2.ways.filterMap (fun w => w.map (·.line)))
  lines.foldl (fun s l => dies.foldl (fun s d => flushLine s d (l * 64)) s) s

/-- The modes of a full image take effect at once: the units of a die that changes are reset and its maps cleared. -/
def switchModes (s : State) (next : Image) : State :=
  litStacks.foldl (fun s n =>
    (List.range 16).foldl (fun s d =>
      if procDie s.img n d = procDie next n d then s
      else
        let k := resetDie (stk s n) d
        let s := setStk s n { k with clearing := 0, entering := 0, leaving := 0 }
        { s with
          mem := clearDieMap s.mem n d
          kvm := { s.kvm with pairs := s.kvm.pairs.filter (fun e => !(unitStack e.1 = n && dieOfChan (e.1 % 1024 / 16) = d)) } }) s) s

/-- LIMIT and the shares of a load's section 0x08 (R397, R399). -/
def loadShares (s : State) (scope : Nat) (next : Image) : State :=
  let keep (k : Nat) : Bool := scope = 1 && !(oldSubtree s.img s.load.target).contains k
  let base := s.pwr.share.filter (fun e => keep e.1)
  let share := next.caps.foldl (fun m c => if keep c.1 then m else KMap.set (fun _ => 0#32) m c.1 (BitVec.ofNat 32 c.2)) base
  let s := { s with pwr := { s.pwr with share := share, histLeft := 16 } }
  let s := wr s Fld.PWR_STATUS_NOHIST 1
  if scope = 1 then s
  else
    let s := wr s Fld.PWR_LIMIT_WATTS next.limit
    { s with pwr := { s.pwr with limit := next.limit, limitPending := false } }

/-- The body of a placement section is written to its place in this part's hashed space (R49). -/
def placeBody (s : State) (b : List Byte) : State :=
  engineWrite s .loader (localAddr s 0 (readPlacement b).offset) (b.drop 16) false

/-- Castor and Pollux take a checkpoint: the buffered stores leave (R357). -/
def releaseStores (s : State) : State :=
  let go (s : State) : SupStore → State
    | .line a d => accessFor s .nobody .supervisor a (.lineWrite d false) .clean
    | .unit i t => { s with mem := { s.mem with bounds := { s.mem.bounds with
        units := KMap.set (fun _ => none) s.mem.bounds.units i t } } }
    | .window l t => { s with mem := { s.mem with bounds := { s.mem.bounds with
        windows := KMap.set (fun _ => none) s.mem.bounds.windows l t } } }
  s.saf.stores.foldl go { s with saf := { s.saf with stores := [], checkpoint := s.saf.checkpoint + 1 } }

/-- A mirrored region whose two copies come to share a stack (R345). -/
def mirrorShares (h : Hashing) (r : Region) : Bool :=
  (List.range (r.len / 256)).any (fun i =>
    (hashKey h (r.base % 2 ^ 41 + 256 * i)).map (fun k => k / 2 ^ 37) = (hashKey h (r.src % 2 ^ 41 + 256 * i)).map (fun k => k / 2 ^ 37))

/-- The regions are checked again at the switch of a stack-scope load (R345). -/
def recheckRegions (s : State) : State :=
  s.mem.regions.foldl (fun s e =>
    if e.2.kind = 2 ∧ mirrorShares s.img.hash e.2 then
      let s := flag s Fld.RAS_EVENT_RGN_OFF
      { s with mem := { s.mem with regions := KMap.set (fun _ => Region.none) s.mem.regions e.1 Region.none } }
    else s) s

/-- The new structure takes effect together (R51 to R54, R182, R397, R428). -/
def applyImage (s : State) (b : List Byte) : State :=
  let h := imgHeader b
  let xs := imgSections b
  let old := s.img
  let next := nextImage s b
  let s := if h.scope = 0 then switchModes (flushSlices s) next else s
  let s := if hasType xs 8 then loadShares s h.scope next else s
  let now := pmask old h.target
  let s := { s with img := if h.scope = 2 then { next with pmask := KMap.set (fun _ => 0) next.pmask h.target now } else next }
  let s := if h.scope = 2 then
      recheckRegions (modStk s h.target (fun k => { k with leaving := 0, entering := pmask next h.target - (now &&& pmask next h.target) }))
    else s
  let s := if hasType xs 13 then placeBody s (bodyOf xs 13) else s
  let s := if hasType xs 14 then placeBody s (bodyOf xs 14) else s
  let touched := if h.scope = 1 then subtree next h.target else next.tree.map (·.num)
  let s := if hasType xs 14 then (touched.flatMap (physLeaves next)).dedup.foldl icinv s else s
  let s := if hasType xs 10 then
      (List.range 18).foldl (fun s p => setPortEn s p (bitsOf (next.roles.getD p 0) 0 1)) s
    else s
  let mine := subtreeSources old h.target old.loops ++ subtreeSources next h.target next.loops
  let s := if hasType xs 7 then applyRoutes s next.routes (fun n => h.scope = 1 && !mine.contains n) else s
  let s := if h.scope = 3 then releaseStores s else s
  setDigest (wr64 s Fld.IMG_GEN_LO_GEN Fld.IMG_GEN_HI_GEN h.gen) (nextDigest s b)

/-- Loop slots that a load removes and that still hold live sequences (R52). -/
def liveRemoved (s : State) : Option Nat :=
  (s.img.loops.find? (fun r => !s.load.next.loops.any (fun x => x.slot = r.slot) &&
    (tenantSeqs s r.tenant).any (fun n => let d := (readDesc s n).1; d.live && d.loop = r.slot))).map (·.slot)

/-- Prepare is over (R52, R53); a full load waits for the test of a cluster its map names (R366). -/
def switchReady (s : State) : Bool :=
  s.load.running && imgState s = 2 && s.load.backing.isNone &&
  !(s.load.scope = 0 && s.bst.tests.any (fun t => match t.kind with
    | .cluster c => s.load.next.lmap.contains c
    | _ => false)) &&
  (if s.load.scope = 1 then
    s.seq.loops.all (fun e => !e.2.barred || (e.2.steps.isEmpty && (!e.2.holds || e.2.saved)))
   else if s.load.scope = 2 then
    s.load.hold.isNone && allMoved s && (stk s s.load.target).clearing = 0 &&
      (stk s s.load.target).leaving &&& pmask s.img s.load.target = 0
   else true)

/-- The switch, or the end of a load that fails at it. -/
def imgSwitch (s : State) : State :=
  if !switchReady s then s
  else
    let xs := imgSections s.load.bytes
    if s.load.scope = 0 && s.load.claimed.any (fun c => s.load.next.lmap.contains c) then
      loadFails s 0x11 (indexOf xs 2) ((s.load.claimed.find? (fun c => s.load.next.lmap.contains c)).getD 0)
    else
      match (if s.load.scope = 1 then liveRemoved s else none) with
      | some n => loadFails s 0x0E 0xFF n
      | none =>
        let h := imgHeader s.load.bytes
        let old := s.img
        let s := applyImage s s.load.bytes
        let s := wr s Fld.IMG_LOAD_PCT_PCT (Nat.max 990 (rd s Fld.IMG_LOAD_PCT_PCT))
        let s := wr64 s Fld.IMG_LOAD_POS_LO_POS Fld.IMG_LOAD_POS_HI_POS h.length
        let s := wr s Fld.IMG_STATUS_STATE (if h.scope = 3 then 3 else 4)
        let appear := if h.scope = 1 then (s.img.tree.map (·.num)).filter (fun k => !old.tree.any (fun r => r.num = k)) else []
        { s with load := { s.load with moved := [], units := [], appear := appear } }

/-- IMG_SWITCH. -/
def execImgSwitch (s : State) : Out := .next (imgSwitch (quiet s))

/-- The release is over: the dies that entered are in the free pool, new CON blocks appear, loops run on (R25, R52 to R54). -/
def imgRelease (s : State) : State :=
  let k := stk s s.load.target
  if !s.load.running || imgState s < 3 || (s.load.scope = 2 && (k.entering ≠ 0 || k.clearing ≠ 0)) then s
  else loadEnd (wr s Fld.IMG_LOAD_PCT_PCT 1000) 5 0 0 0

/-- IMG_RELEASE_END. -/
def execImgReleaseEnd (s : State) : Out := .next (imgRelease (quiet s))

end Sys2Proof.Machine
end

