-- ==== Sys2Proof/Machine/SeqOps.lean ====
section
/-! DEFINITION. What the serving sequencer works with (11): rings, submissions, sequences that begin and end, prefix handles, windows and
the sharing of clusters. -/

namespace Sys2Proof.Machine

/-- No token (Table 11.3). -/
def noToken : Nat := 0xFFFFFFFF

/-- The requesters that may write a loop's registers (11 "Sequencer registers"). -/
def mayLoop (s : State) (who : Requester) (l : Nat) : Bool :=
  mayImage who || (loopRec s.img l).any (fun r => boundTo s who r.tenant)

/-- An uncommitted step of a loop holds a sequence that has not left its batch. -/
def Step.has (t : Step) (n : Nat) : Bool := t.entries.any (fun e => e.seq = n)
def inStep (s : State) (l n : Nat) : Bool := (loopOf s l).steps.any (fun t => t.has n)
def inAnyStep (s : State) (n : Nat) : Bool := s.seq.loops.any (fun e => e.2.steps.any (fun t => t.has n))

/-! Output rings (R296 to R298) -/

/-- Free room of a ring (R297). -/
def ringSpace (size wr head : Nat) : Nat := size - (wr + 2 ^ 32 - head % 2 ^ 32) % 2 ^ 32

/-- HEAD of a ring of a tenant: read here, or as given where the ring lies at a host. -/
def ringHead (s : State) (t base : Nat) (given : Option Nat) : Option Nat :=
  match readFrom s (kvmFor t) (base + 64) 4 [] with
  | some r => some (fieldOf r.1 0 4)
  | none => given

/-- An output entry (Table 11.10). -/
def ringEntry (i size : Nat) (e : RingEntry) : List Byte :=
  natLe 4 e.token ++ natLe 8 e.step ++ natLe 2 e.flags ++ natLe 1 e.text.length ++ natLe 1 (if i / size % 2 = 0 then 1 else 0)

/-- Bytes go to the byte ring from a count on. -/
def ringText (s : State) (d : SeqDesc) (w : Nat) (b : List Byte) : State :=
  let o := w % d.bytesSize
  let k := d.bytesSize - o
  let s := engineWrite s (kvmFor d.tenant) (d.bytesBase + 128 + o) (b.take k) false
  engineWrite s (kvmFor d.tenant) (d.bytesBase + 128) (b.drop k) false

/-- A descriptor whose rings have taken some entries. -/
def SeqDesc.wrote (d : SeqDesc) (es : List RingEntry) : SeqDesc :=
  if d.outSize = 0 then d
  else { d with
    outWr := (d.outWr + es.length) % 2 ^ 32
    bytesWr := (d.bytesWr + (es.map (fun e => e.text.length)).foldl (· + ·) 0) % 2 ^ 32 }

/-- Entries and their bytes are written, from the counts of a descriptor before them. -/
def writeEntries (s : State) (d : SeqDesc) : List RingEntry → State
  | [] => s
  | e :: t =>
    if d.outSize = 0 then s
    else
      let s := engineWrite s (kvmFor d.tenant) (d.out + 128 + 16 * (d.outWr % d.outSize)) (ringEntry d.outWr d.outSize e) false
      let s := if e.text.isEmpty then s else ringText s d d.bytesWr e.text
      writeEntries s (d.wrote [e]) t

/-- The TAIL lines of a sequence's rings. -/
def writeTails (s : State) (d : SeqDesc) (es : List RingEntry) : State :=
  if d.outSize = 0 || es.isEmpty then s
  else
    let s := engineWrite s (kvmFor d.tenant) d.out (natLe 4 d.outWr) false
    if es.any (fun e => !e.text.isEmpty) then engineWrite s (kvmFor d.tenant) d.bytesBase (natLe 4 d.bytesWr) false else s

/-- A descriptor and its entries are written at once, outside a commit. -/
def writeNow (s : State) (n : Nat) (d : SeqDesc) (es : List RingEntry) : State :=
  let s := writeDesc s n (d.wrote es)
  writeTails (writeEntries s d es) (d.wrote es) es

/-- Text of a token (R298). -/
def tokenText (s : State) (l : Nat) (d : SeqDesc) (tok : Nat) : List Byte :=
  if d.bytes && decide (tok < rd s Fld.SEQ_DETOK_COUNT_COUNT l) then
    match readFrom s (kvmFor d.tenant) (rd64 s Fld.SEQ_DETOK_LO_ADDR Fld.SEQ_DETOK_HI_ADDR l + 16 * tok) 16 [] with
    | some r => (r.1.drop 1).take (fieldOf r.1 0 1 % 16)
    | none => []
  else []

/-! The end of a sequence (R279, R281) -/

/-- What the KV manager still holds for a sequence is given up. -/
def forgetSeq (s : State) (n : Nat) : State :=
  let k := s.kvm
  { s with sec := { s.sec with ending := KSet.del s.sec.ending n }, kvm := { k with
    reserved := k.reserved.filter (fun r => r.seq ≠ n)
    parked := k.parked.filter (fun x => x ≠ n)
    swaps := k.swaps.filter (fun j => j.seq ≠ n)
    swapOut := if k.swapOut.any (fun j => j.seq = n) then none else k.swapOut
    swapIn := k.swapIn.filter (fun j => j.seq ≠ n)
    staged := k.staged.filter (fun x => x.seq ≠ n)
    trees := k.trees.filter (fun x => x.seq ≠ n)
    walk := k.walk.filter (fun x => x.seq ≠ n)
    leafCache := (k.leafCache.map (fun x => (x.1, x.2.filter (fun y => y.seq ≠ n)))).filter (fun x => x.2 ≠ []) } }

/-- Its pages and swap space are freed (ENDING), and it is FREE. -/
def freeSeq (s : State) (n : Nat) (d : SeqDesc) : State × SeqDesc :=
  let s := forgetSeq (dropPages s d d.lmax) n
  let s := modLoop s d.loop (fun x => { x with prefill := x.prefill.filter (fun y => y ≠ n) })
  let s := { s with fab := { s.fab with shadowSeqs := KSet.del s.fab.shadowSeqs n } }
  (s, { (d.setFlag 4 false).setFlag 5 false with state := 0 })

/-- A FINAL entry takes a sequence with RETAIN to IDLE and any other to ENDING (R279). -/
def finalSeq (s : State) (n : Nat) (d : SeqDesc) : State × SeqDesc :=
  if d.retain then
    (modLoop s d.loop (fun x => { x with prefill := x.prefill.filter (fun y => y ≠ n) }), { (d.setFlag 4 false).setFlag 5 false with state := 3 })
  else freeSeq s n d

/-- A sequence leaves every uncommitted step (R289). -/
def leaveSteps (s : State) (n : Nat) : State :=
  { s with seq := { s.seq with loops := s.seq.loops.map (fun e => (e.1, { e.2 with
    steps := e.2.steps.map (fun t => if t.has n then { t with left := addNew t.left n } else t) })) } }

/-- A sequence ends with ERROR, FINAL and a code (R293), and its pages are freed. -/
def endSequence (s : State) (n code : Nat) : State :=
  let d := (readDesc s n).1
  if !d.live then s
  else
    let s := leaveSteps s n
    let r := freeSeq s n d
    writeNow r.1 n r.2 [⟨n, code, d.lastStep, 0x609, []⟩]

/-- A sequence whose state is lost ends with STEPFAIL (R351). -/
def loseSequence (s : State) (n : Nat) : State := endSequence s n 7

/-! Prefix handles (R272, R300) -/

/-- The lowest number that a rising list of keys leaves free. -/
def firstGap : List Nat → Nat → Nat
  | [], k => k
  | h :: t, k => if h = k then firstGap t (k + 1) else firstGap t k

def prefixOf (s : State) (r : Nat) : Option Prefix := KMap.get (fun _ => none) s.kvm.prefixes r
def setPrefix (s : State) (r : Nat) (x : Option Prefix) : State :=
  let s := { s with kvm := { s.kvm with prefixes := KMap.set (fun _ => none) s.kvm.prefixes r x } }
  wr s Fld.SEQ_PREFIX_FREE_COUNT (65536 - s.kvm.prefixes.length)

def handleOf (r tenant serial : Nat) : Nat := r + tenant % 1024 * 2 ^ 16 + serial % 2 ^ 32 * 2 ^ 26

/-- The record that a handle of a tenant names. -/
def handleRecord (s : State) (t h : Nat) : Option (Nat × Prefix) :=
  let r := h % 2 ^ 16
  match prefixOf s r with
  | some x => if h = handleOf r t x.serial ∧ x.tenant = t then some (r, x) else none
  | none => none

/-- References of the memory that an entry names. -/
def entryRefs (s : State) (e : Nat) : Nat :=
  if eState e = 5 then KMap.get (fun _ => 0) s.kvm.poolRefs (ePool e) else frameRefs s (eUnit e) (eBase e)

/-- One reference more. -/
def addRef (s : State) (e : Nat) : State :=
  if eState e = 5 then { s with kvm := { s.kvm with poolRefs := KMap.mod (fun _ => 0) s.kvm.poolRefs (ePool e) (· + 1) } }
  else
    match pairOf s (eUnit e) with
    | none => s
    | some p => setPair s (eUnit e) (some { p with refs := KMap.mod (fun _ => 0) p.refs (eBase e / (geomRec p.geom).frameRows) (· + 1) })

/-- A page whose memory can be shared. -/
def holdsMemory (e : Nat) : Bool := eState e = 1 || eState e = 2 || eState e = 5

/-- An entry marked shared. -/
def sharedEntry (e : Nat) : Nat :=
  if eState e = 1 ∨ eState e = 2 then withState e 2 else if eState e = 5 then mkEntry e 5 (eAge e) 1 (eScore e) else e

/-- A prefix of a sequence is registered: its handle; none where no record is free. -/
def registerPrefix (s : State) (d : SeqDesc) : State × Option Nat :=
  let r := firstGap (s.kvm.prefixes.map (·.1)) 0
  if r ≥ 65536 then (s, none)
  else
    let serial := (s.kvm.serial + 1) % 2 ^ 32
    let z := (seqPages d d.lc).foldl (fun (z : State × List Nat) p =>
      let e := (leafEntry z.1 d p).1
      let x := sharedEntry e
      (if holdsMemory e then addRef (setEntry z.1 d p x) x else z.1, z.2 ++ [x])) (s, [])
    let s := setPrefix z.1 r (some ⟨d.tenant, serial, d.lc, d.geom, d.layers, d.heads, d.hkv, z.2⟩)
    ({ s with kvm := { s.kvm with serial := serial } }, some (handleOf r d.tenant serial))

/-- A record may be attached to a new sequence: same class and shape, and no count would pass 65,535 (log 29). -/
def mayAttach (s : State) (d : SeqDesc) (x : Prefix) : Bool :=
  x.hkv = d.hkv && x.geom = d.geom && x.layers = d.layers && x.heads = d.heads && decide (x.lp ≤ d.lmax) &&
    x.entries.all (fun e => !holdsMemory e || decide (entryRefs s e < 65535))

def attachPrefix (s : State) (d : SeqDesc) (x : Prefix) : State :=
  ((seqPages d x.lp).zip x.entries).foldl (fun s y =>
    setEntry (if holdsMemory y.2 then addRef s y.2 else s) d y.1 y.2) s

/-- A record is released; its memory is freed as counts reach 0 (R274, R300). -/
def releasePrefix (s : State) (r : Nat) (x : Prefix) : State :=
  let d : SeqDesc := { parseDesc [] with tenant := x.tenant, geom := x.geom }
  setPrefix (x.entries.foldl (fun s e => if holdsMemory e then dropPage s d e else s) s) r none

/-! Submissions (R280, R281) -/

def isPow2 (n : Nat) : Bool := n ≠ 0 && n = 2 ^ log2F n

/-- Ranges of a template's host fields (Table 11.3). -/
def templateOk (d : SeqDesc) : Bool :=
  let space (a : Nat) : Bool := let k := a / 2 ^ 58; k = 0 || k = 4
  decide (d.prio ≤ 15) && (geomOf d.geom).isSome && decide (1 ≤ d.heads) && decide (1 ≤ d.layers) && decide (1 ≤ d.lmax) &&
    decide (d.lmax ≤ 4194304) && fLt fp32 0 d.topp && fLe fp32 d.topp 0x3F800000 && decide (d.topk ≤ 256) && isPow2 d.outSize &&
    decide (16 ≤ d.outSize) && decide (d.outSize ≤ 2 ^ 20) && d.out % 128 = 0 && space d.out &&
    (!d.bytes || (d.bytesBase % 128 = 0 && isPow2 d.bytesSize && decide (256 ≤ d.bytesSize) && decide (d.bytesSize ≤ 2 ^ 24)))

/-- No core die is in processor mode (R263). -/
def noProcDie (img : Image) : Bool := (List.range 12).all (fun n => pmask img n = 0)

/-- The descriptor that a NEW makes, but for its prefix. -/
def newDesc (s : State) (l t : Nat) (d : SeqDesc) (reg : Bool) (dir : Nat) : SeqDesc :=
  let hkv := rd s Fld.KVM_TCFG_HASHKV t = 1 || noProcDie s.img
  { d with
    state := 1
    sflags := d.sflags % 8 + (if reg then 8 else 0) + (if hkv then 64 else 0)
    loop := l
    tenant := t
    leaves := ceilDiv d.lmax 32768
    lc := 0
    swapGen := 0
    dir := dir
    lastStep := 0
    next := noToken
    outWr := 0
    bytesWr := 0 }

/-- Directory and leaves of a new sequence, one after the other from `dir` on (R245, log 29). -/
def writeTables (s : State) (d : SeqDesc) : State :=
  let k := d.layers * d.heads * d.leaves
  let leaf := d.dir + ceilDiv (8 * k) 4096 * 4096
  let s := engineWrite s (.kvm none) (localAddr s 0 d.dir) ((List.range k).flatMap (fun i => natLe 8 (leaf + 4096 * i + 1))) false
  engineWrite s (.kvm none) (localAddr s 0 leaf) (List.replicate (4096 * k) 0#8) false

/-- A submission fails (R281): an ERROR entry at the next commit, or SEQ_LERR. -/
def failEntry (s : State) (l t n kind code : Nat) : State :=
  let d := (readDesc s n).1
  if (tenantSeqs s t).contains n && d.tenant = t && d.outSize ≠ 0 then
    modLoop s l (fun x => { x with notices := x.notices ++ [⟨n, code, 0, 8, []⟩] })
  else if rd s Fld.SEQ_LERR_VALID l = 1 then flag s Fld.SEQ_LERR_OVERRUN l
  else flag (wr (wr s Fld.SEQ_LERR_KIND kind l) Fld.SEQ_LERR_SEQ (n % 2 ^ 18) l) Fld.SEQ_LERR_VALID l

/-- NEW (R281). An unusable handle leaves the descriptor FREE, with the template's rings for the ERROR entry (log 29). -/
def subNew (s : State) (l t n : Nat) (reg : Bool) (template : Option (List Byte × Bool)) (dir : Nat) : State :=
  match template with
  | none => failEntry s l t n 1 1
  | some (b, bad) =>
    let d0 := parseDesc b
    if (readDesc s n).1.state ≠ 0 || bad || !templateOk d0 then failEntry s l t n 1 1
    else
      let d := newDesc s l t d0 reg dir
      let begin (s : State) (d : SeqDesc) : State :=
        let s := writeDesc s n d
        let s := if s.fab.shadowing then { s with fab := { s.fab with shadowSeqs := KSet.add s.fab.shadowSeqs n } } else s
        modLoop s l (fun x => { x with prefill := addNew x.prefill n })
      if d.prefix_ = 0 then begin (writeTables s d) d
      else
        match handleRecord s t d.prefix_ with
        | some (_, x) =>
          if mayAttach s d x then begin (attachPrefix (writeTables s d) d x) { d with lc := x.lp }
          else failEntry (writeDesc s n { d with state := 0 }) l t n 1 3
        | none => failEntry (writeDesc s n { d with state := 0 }) l t n 1 3

/-- TURN (R281). -/
def subTurn (s : State) (l t n : Nat) (reg : Bool) (prompt count gen : Nat) : State :=
  let d := (readDesc s n).1
  if d.state ≠ 3 then failEntry s l t n 2 2
  else if count > d.lmax || gen = 0 || gen > d.lmax then failEntry s l t n 2 1
  else
    let s := writeDesc s n { d.setFlag 3 reg with state := 1, prompt := prompt, pleft := count, gleft := gen }
    modLoop s d.loop (fun x => { x with prefill := addNew x.prefill n })

/-- RELEASE (R281): at once, or at the commit of the step that holds the sequence. -/
def subRelease (s : State) (n : Nat) : State :=
  let d := (readDesc s n).1
  if !d.live then s
  else if inAnyStep s n then modLoop s d.loop (fun x => { x with releases := addNew x.releases n })
  else
    let r := freeSeq s n d
    writeNow r.1 n r.2 [⟨n, noToken, d.lastStep, 0x501, []⟩]

/-- CANCEL (R299): no effect on a sequence that is already FINAL. -/
def subCancel (s : State) (n : Nat) : State :=
  let d := (readDesc s n).1
  if d.live && d.state ≠ 3 then writeDesc s n (d.setFlag 4 true) else s

def subPrelease (s : State) (l t n h : Nat) : State :=
  match handleRecord s t h with
  | some (r, x) => releasePrefix s r x
  | none => failEntry s l t n 5 3

/-- One submission entry (Table 11.5). -/
def applySub (s : State) (l t : Nat) (b : List Byte) (bad : Bool) (template : Option (List Byte)) (dir : Nat) : State :=
  let kind := fieldOf b 0 1
  let fl := fieldOf b 1 1
  let n := fieldOf b 4 4
  let addr := fieldOf b 8 8
  let count := fieldOf b 16 4
  let gen := fieldOf b 20 4
  let h := fieldOf b 24 8
  let zero : Bool :=
    if kind = 1 then count = 0 && gen = 0 && h = 0
    else if kind = 2 then h = 0
    else if kind = 5 then addr = 0 && count = 0 && gen = 0
    else addr = 0 && count = 0 && gen = 0 && h = 0
  if bad || kind = 0 || kind > 5 || fl > 1 || fieldOf b 2 2 ≠ 0 || !zero || !(tenantSeqs s t).contains n then failEntry s l t n kind 1
  else if kind = 1 then
    let x := match readFrom s (kvmFor t) addr 128 [] with
      | some r => some r
      | none => template.map (fun b => (b, false))
    subNew s l t n (fl = 1) x dir
  else if kind = 2 then subTurn s l t n (fl = 1) addr count gen
  else if kind = 3 then subCancel s n
  else if kind = 4 then subRelease s n
  else subPrelease s l t n h

/-- Entries from HEAD up to the tail are applied in order; one that can neither be read here nor is delivered waits. -/
def readSubs (l t : Nat) : Nat → List (List Byte × List Byte × BitVec 41) → State → State
  | 0, _, s => s
  | k + 1, supply, s =>
    let size := rd s Fld.SEQ_SUBQ_SIZE_ENTRIES l
    let head := rd s Fld.SEQ_SUBQ_HEAD_INDEX l
    let a := rd64 s Fld.SEQ_SUBQ_LO_ADDR Fld.SEQ_SUBQ_HI_ADDR l + 32 * (head % size)
    let x := supply.head?
    let entry := match readFrom s (kvmFor t) a 32 [] with
      | some r => some r
      | none => x.bind (fun y => if y.1.length = 32 then some (y.1, false) else none)
    match entry with
    | none => s
    | some (b, bad) =>
      let s := applySub s l t b bad (x.bind (fun y => if y.2.1.length = 128 then some y.2.1 else none)) ((x.map (fun y => y.2.2.toNat)).getD 0)
      readSubs l t k supply.tail (wr s Fld.SEQ_SUBQ_HEAD_INDEX ((head + 1) % 2 ^ 32) l)

/-- SUBMISSION_READ (R280). The i-th element of `supply` serves the i-th entry read: the entry and its template where they lie at a
host, and where the tables of a NEW are placed. -/
def execSubmissionRead (l : Fin 256) (supply : List (List Byte × List Byte × BitVec 41)) (s : State) : Out :=
  let s := quiet s
  .next (match loopRec s.img l.val with
    | none => s
    | some r =>
      let size := rd s Fld.SEQ_SUBQ_SIZE_ENTRIES l.val
      if !isPow2 size || size < 16 || size > 2 ^ 20 || (loopOf s l.val).barred then s
      else
        let n := (rd s Fld.SEQ_SUBQ_TAIL_INDEX l.val + 2 ^ 32 - rd s Fld.SEQ_SUBQ_HEAD_INDEX l.val) % 2 ^ 32
        readSubs l.val r.tenant n supply s)

/-- A write of SEQ_SUBQ_TAIL: the doorbell (R280). -/
def subqTail (s : State) (who : Requester) (l v : Nat) : State :=
  if mayLoop s who l then wr s Fld.SEQ_SUBQ_TAIL_INDEX v l else s

/-! Windows (R306, R307) -/

/-- The meridian slot boundary the part is at. -/
def slotStart (s : State) : Nat := s.mer / 256 * 256

/-- The template allows a loop at a slot boundary. -/
def templateOpen (img : Image) (l b : Nat) : Bool :=
  let t := img.template
  !t.windows.any (fun w => w.loop = l) ||
    (decide (t.epoch ≤ b) && t.windows.any (fun w =>
      let x := (b - t.epoch) / 256 % t.period
      w.loop = l && decide (w.start ≤ x) && decide (x < w.stop)))

/-- Admission of a loop is allowed at this boundary. -/
def windowOpen (s : State) (l : Nat) : Bool :=
  match (loopOf s l).oneShot with
  | some w => decide (w.from_ ≤ slotStart s) && decide (slotStart s < w.stop)
  | none => templateOpen s.img l (slotStart s)

def emptyWindow (s : State) : State :=
  wr64 s Fld.SEQ_EMPTY_LO_COUNT Fld.SEQ_EMPTY_HI_COUNT ((rd64 s Fld.SEQ_EMPTY_LO_COUNT Fld.SEQ_EMPTY_HI_COUNT + 1) % 2 ^ 64)

/-- A one-shot window resolves with a status. -/
def endWindow (s : State) (l st : Nat) : State :=
  let s := modLoop s l (fun x => { x with oneShot := none })
  wr (wr s Fld.SEQ_WINCTRL_ARM 0 l) Fld.SEQ_WINCTRL_STATUS st l

/-- A write of 1 to SEQ_WINCTRL.ARM (R307). -/
def armWindow (s : State) (who : Requester) (l : Nat) : State :=
  if (loopRec s.img l).isNone || !mayLoop s who l then s
  else
    let start := rd64 s Fld.SEQ_WSTART_LO_COUNT Fld.SEQ_WSTART_HI_COUNT l
    let stop := rd64 s Fld.SEQ_WSTOP_LO_COUNT Fld.SEQ_WSTOP_HI_COUNT l
    let f := Nat.max start s.mer
    if stop ≤ start || stop - start < 256 then emptyWindow (endWindow s l 4)
    else if stop ≤ s.mer || (f + 255) / 256 * 256 ≥ stop then emptyWindow (endWindow s l 5)
    else
      let s := modLoop s l (fun x => { x with oneShot := some ⟨f, stop⟩ })
      wr (flag s Fld.SEQ_WINCTRL_ARM l) Fld.SEQ_WINCTRL_STATUS (if f ≤ s.mer then 2 else 1) l

/-- WINDOW_OPEN (R307). -/
def execWindowOpen (l : Fin 256) (s : State) : Out :=
  let s := quiet s
  .next (match (loopOf s l.val).oneShot with
    | some w => if w.from_ ≤ s.mer ∧ s.mer < w.stop then wr s Fld.SEQ_WINCTRL_STATUS 2 l.val else s
    | none => s)

/-- WINDOW_DONE (R307). -/
def execWindowDone (l : Fin 256) (s : State) : Out :=
  let s := quiet s
  .next (match (loopOf s l.val).oneShot with
    | some w => if w.stop ≤ s.mer then endWindow s l.val 3 else s
    | none => s)

/-- EMPTY_WINDOW_PERIOD (R306): a period passes over an empty window of the template. -/
def execEmptyWindowPeriod (w : BitVec 12) (s : State) : Out :=
  let s := quiet s
  .next (match s.img.template.windows[w.toNat]? with
    | some x => if x.stop ≤ x.start then emptyWindow s else s
    | none => s)

/-! Sharing (R303) -/

def loopLeaves (img : Image) (l : Nat) : List Nat := (loopRec img l).elim [] (fun r => physLeaves img r.con)

/-- Two loops whose constellations share clusters. -/
def sharesWith (img : Image) (a b : Nat) : Bool := a ≠ b && (loopLeaves img a).any (fun c => (loopLeaves img b).contains c)

/-- The loops that share clusters with one, in ascending slot order from it on. -/
def sharers (img : Image) (l : Nat) : List Nat :=
  let all := (List.range 256).filter (fun k => (loopRec img k).isSome && sharesWith img l k)
  all.filter (fun k => l < k) ++ all.filter (fun k => k < l)

/-- A leaf of a loop whose clusters another loop holds, or whose context is still being saved. -/
def clustersTaken (s : State) (l : Nat) : Bool :=
  (sharers s.img l).any (fun k => (loopOf s k).holds) || s.seq.saving.any (fun x => x.1 ≠ l && sharesWith s.img l x.1)

/-- A loop has a step on its constellation. -/
def running (s : State) (l : Nat) : Bool := (loopOf s l).steps.any (fun t => t.launch.isSome)

/-- SEQ_LSTAT.STATE (Table 11.14). -/
def loopState (s : State) (l : Nat) : Nat :=
  if (loopRec s.img l).isNone then 0
  else if (loopOf s l).stopped then 3
  else if (loopOf s l).saved then 4
  else if (loopOf s l).steps.isEmpty then 1
  else 2

def loopInflight (s : State) (l : Nat) : Nat := (loopOf s l).steps.length

end Sys2Proof.Machine
end

