-- ==== Sys2Proof/Machine/Seq.lean ====
section
/-! DEFINITION. The steps of the serving sequencer (11): admission, launch, sampling, commit, replay, sharing and quotas. -/

namespace Sys2Proof.Machine

/-! The results of a step -/

def Step.outcome (t : Step) (n : Nat) : Option Sampled := t.outcomes.find? (fun o => o.seq = n)

/-- A prompt entry processes NEXT first. -/
def nextFirst (d : SeqDesc) (e : StepEntry) : Bool := (e.kind = 1 || e.kind = 2) && d.next ≠ noToken

/-- Prompt tokens of an entry. -/
def chunkOf (d : SeqDesc) (e : StepEntry) : Nat :=
  if e.kind = 1 ∨ e.kind = 2 then e.ntok - (if nextFirst d e then 1 else 0) else 0

/-- A descriptor with a step's results for its sequence (R288, R290). A FINAL sequence is shown in IDLE. -/
def applyEntry (d : SeqDesc) (e : StepEntry) (o : Option Sampled) (num : Nat) : SeqDesc :=
  let k := chunkOf d e
  let d1 := { d with lastStep := num, pleft := d.pleft - k, prompt := d.prompt + 4 * k }
  match o with
  | none => { d1 with lc := e.pos + e.ntok, next := if e.kind = 1 then noToken else d.next }
  | some o => { d1 with lc := o.newLc, next := o.next, gleft := d.gleft - o.tokens.length, state := if o.endReason ≠ 0 then 3 else 2 }

/-- The entries that a step writes for a sequence's tokens. -/
def tokenEntries (s : State) (l : Nat) (d : SeqDesc) (o : Option Sampled) (num : Nat) : List RingEntry :=
  match o with
  | none => []
  | some o => o.tokens.zipIdx.map (fun x =>
      ⟨o.seq, x.1, num, if x.2 + 1 = o.tokens.length ∧ o.endReason ≠ 0 then 1 + o.endReason * 256 else 0, tokenText s l d x.1⟩)

/-- A sequence as a step sees it, the results of the uncommitted steps before number `num` applied (R292). Room for a handle entry is
counted. -/
def viewBefore (s : State) (l num n : Nat) : SeqDesc :=
  ((loopOf s l).steps.filter (fun t => t.num < num)).foldl (fun d t =>
    match t.entries.find? (fun e => e.seq = n) with
    | none => d
    | some e =>
      if t.left.contains n then d
      else
        let o := t.outcome n
        let d' := (applyEntry d e o t.num).wrote (tokenEntries s l d o t.num)
        if e.kind = 2 ∧ d.regprefix = true then d'.wrote [⟨n, noToken, 0, 16, []⟩] else d') (readDesc s n).1

/-! The batch (R283) -/

structure Batch where
  tokens : Nat
  entries : List StepEntry
  res : Nat
  waits : Nat
  deriving DecidableEq, Repr

/-- HEAD values that the outside reads where rings lie at a host: sequence, HEAD of the output ring, HEAD of the byte ring. -/
abbrev Heads := List (Nat × Nat × Nat)

/-- A sequence's rings have the room of R283. -/
def ringsRoom (s : State) (heads : Heads) (n : Nat) (d : SeqDesc) : Bool :=
  let g := heads.find? (fun h => h.1 = n)
  (match ringHead s d.tenant d.out (g.map (·.2.1)) with
    | some h => decide (10 ≤ ringSpace d.outSize d.outWr h)
    | none => false) &&
  (!d.bytes || (match ringHead s d.tenant d.bytesBase (g.map (·.2.2)) with
    | some h => decide (160 ≤ ringSpace d.bytesSize d.bytesWr h)
    | none => false))

/-- Prompt tokens that fit a budget: the whole chunk, or one shortened to at least 256. -/
def fitChunk (pleft chunk extra budget : Nat) : Option Nat :=
  let want := Nat.min pleft chunk
  if want + extra ≤ budget then (if want + extra = 0 then none else some want)
  else if 256 + extra ≤ budget ∧ 256 ≤ want then some (budget - extra)
  else none

/-- The entry a sequence would take with a budget of tokens left. -/
def entryFor (r : LoopRec) (n : Nat) (d : SeqDesc) (budget res : Nat) : Option StepEntry :=
  if d.state = 2 then
    if d.tree then
      let k := Nat.max 1 (Nat.min 16 (d.lmax - d.lc))
      if budget < 16 then none else some ⟨n, 3, k, d.lc, k, d.next, res⟩
    else if budget < 1 then none else some ⟨n, 0, 1, d.lc, 1, d.next, res⟩
  else
    let extra := if d.next ≠ noToken then 1 else 0
    (fitChunk d.pleft r.chunk extra budget).map (fun k =>
      if k = d.pleft then ⟨n, 2, 1, d.lc, k + extra, d.prompt, res⟩ else ⟨n, 1, 1, d.lc, k + extra, d.prompt, 0⟩)

def entryCost (e : StepEntry) : Nat := if e.kind = 3 then 16 else e.ntok
def entryBytes (e : StepEntry) : Nat := if e.kind = 1 then 0 else 128 + 2112 * e.nodes

/-- One candidate joins the batch, waits for room in its rings, or does not fit. -/
def addCandidate (s : State) (r : LoopRec) (heads : Heads) (limit : Nat) (b : Batch) (x : Nat × SeqDesc) : Batch :=
  if b.entries.length ≥ 8192 || b.tokens ≥ limit then b
  else if x.2.cancel || !ringsRoom s heads x.1 x.2 then { b with waits := b.waits + 1 }
  else
    match entryFor r x.1 x.2 (limit - b.tokens) b.res with
    | none => b
    | some e =>
      if b.res + entryBytes e > 0x4000000 then b
      else ⟨b.tokens + entryCost e, b.entries ++ [e], b.res + entryBytes e, b.waits⟩

/-- The order of DECODE sequences: PRIO falling, LAST_STEP rising, number rising. -/
def decodeBefore (x y : Nat × SeqDesc) : Bool :=
  decide (x.2.prio > y.2.prio) || (x.2.prio = y.2.prio &&
    (decide (x.2.lastStep < y.2.lastStep) || (x.2.lastStep = y.2.lastStep && decide (x.1 < y.1))))

def insertDecode (x : Nat × SeqDesc) : List (Nat × SeqDesc) → List (Nat × SeqDesc)
  | [] => [x]
  | y :: t => if decodeBefore x y then x :: y :: t else y :: insertDecode x t

/-- Candidates of a loop's next step in the order of R283. -/
def candidates (s : State) (r : LoopRec) : List (Nat × SeqDesc) :=
  let free (n : Nat) : Bool := !(loopOf s r.slot).releases.contains n && !swapping s n && !s.kvm.parked.contains n
  let view (n : Nat) : Nat × SeqDesc := (n, viewBefore s r.slot (2 ^ 64) n)
  let decode := ((tenantSeqs s r.tenant).map view).filter (fun x => x.2.state = 2 && x.2.loop = r.slot && free x.1)
  let fill := ((loopOf s r.slot).prefill.map view).filter (fun x => x.2.state = 1 && free x.1)
  decode.foldr insertDecode [] ++ fill

/-- Tokens that an admission of a tenant may still take in this ms (R302). -/
def tokenLeft (s : State) (t : Nat) : Nat :=
  let share := KMap.get (fun _ => 0) s.seq.tokShare t
  if share = 0 then 2 ^ 32 else share * 64 - KMap.get (fun _ => 0) s.seq.tokUsed t

def batchOf (s : State) (r : LoopRec) (heads : Heads) : Batch :=
  (candidates s r).foldl (addCandidate s r heads (Nat.min r.tokBudget (tokenLeft s r.tenant))) ⟨0, [], 0x40000, 0⟩

/-- A loop has admissible work. -/
def hasWork (s : State) (r : LoopRec) (heads : Heads) : Bool := (batchOf s r heads).entries ≠ []

/-! Admission (R282 to R286) -/

/-- Room for a swap-in's pages. -/
def swapInFits (s : State) (d : SeqDesc) (k : Nat) : Bool :=
  quotaRoom s d.tenant d.geom (k * (if d.hkv then poolUnits d.geom else 1)) &&
    (if d.hkv then decide (((usedOf s.kvm.poolUsed d.tenant).map (·.2)).foldl (· + ·) 0 + k * poolUnits d.geom ≤ (hkvPool s d.tenant).2)
     else decide (k ≤ (litStacks.map (fun n => stackFree s n d.geom - reservedIn s n d.geom)).foldl (· + ·) 0))

/-- Swapped-out sequences of a loop that fit again are resumed (R271). -/
def startSwapIns (s : State) (r : LoopRec) : State :=
  (tenantSeqs s r.tenant).foldl (fun s n =>
    let d := (readDesc s n).1
    if d.state ≠ 4 || d.loop ≠ r.slot || d.cancel || swapping s n || s.kvm.swapIn.any (fun j => j.seq = n) then s
    else
      let ps := (seqPages d d.lc).filter (fun p => eState (leafEntry s d p).1 = 4)
      if swapInFits s d ps.length then { s with kvm := { s.kvm with swapIn := s.kvm.swapIn ++ [⟨n, none, ps, ps.length⟩] } } else s) s

/-- Pages an entry's appends need, for every layer and head (R284). -/
def entryPages (s : State) (d : SeqDesc) (k : Nat) : List PageId :=
  (List.range d.layers).flatMap (fun a => (List.range d.heads).flatMap (fun h => neededPages s d a h k))

/-- Every page is met, or none. -/
def tryAll (l step n : Nat) (d : SeqDesc) : List PageId → State → Option State
  | [], s => some s
  | p :: t, s =>
    let r := need s l step n d p true
    if r.2 then tryAll l step n d t r.1 else none

/-- Parked sequences are tried first, in the order in which they were parked (R266). -/
def retryParked (s : State) (r : LoopRec) (num : Nat) : State :=
  s.kvm.parked.foldl (fun s n =>
    let d := (readDesc s n).1
    if d.loop ≠ r.slot || inStep s r.slot n then s
    else
      let k := if d.pleft ≠ 0 then Nat.min d.pleft r.chunk + (if d.next ≠ noToken then 1 else 0) else if d.tree then 16 else 1
      match tryAll r.slot num n d (entryPages s d k) s with
      | none => s
      | some s =>
        let s := { s with kvm := { s.kvm with parked := s.kvm.parked.filter (fun x => x ≠ n) } }
        writeDesc s n { d with state := resumeState d }) s

/-- The frames of a step are reserved; a sequence parked on the way leaves the batch (R284). -/
def reserveStep (s : State) (l : Nat) (t : Step) : State :=
  t.entries.foldl (fun s e =>
    if t.left.contains e.seq then s
    else
      let d := (readDesc s e.seq).1
      let r := needAll l t.num e.seq d (entryPages s d e.ntok) s
      if r.2 then r.1
      else modLoop r.1 l (fun x => { x with
        steps := x.steps.map (fun y => if y.num = t.num then { y with left := addNew y.left e.seq } else y) })) s

/-- BUSY of a sequence follows the uncommitted steps that hold it. -/
def setBusy (s : State) (n : Nat) : State :=
  let d := (readDesc s n).1
  if d.busy = inAnyStep s n then s else writeDesc s n (d.setFlag 5 (inAnyStep s n))

/-- A step record (R285). -/
def recordOf (t : Step) : List Byte :=
  natLe 8 t.num ++ natLe 4 t.entries.length ++ natLe 4 t.tokens ++ natLe 8 t.start ++ natLe 40 0 ++
    t.entries.flatMap (fun e => natLe 4 e.seq ++ natLe 1 e.kind ++ natLe 1 e.nodes ++ natLe 2 0 ++ natLe 4 e.pos ++ natLe 4 e.ntok ++
      (if e.kind = 0 ∨ e.kind = 3 then natLe 4 e.src ++ natLe 4 0 else natLe 8 e.src) ++ natLe 4 e.res ++ natLe 4 0)

/-- Address of a step's buffer (R277). -/
def bufferOf (r : LoopRec) (num : Nat) : Nat := r.stage + num % 2 * 0x4000000

/-- The part or a loop is in a state in which the loop admits a step, windows and clusters apart. -/
def mayAdmit (s : State) (r : LoopRec) : Bool :=
  let x := loopOf s r.slot
  rd s Fld.SEQ_LCTRL_EN r.slot = 1 && !x.stopped && !x.barred && !x.saved && !s.bst.inPlace.contains r.slot && !deviceEclipse s &&
    isReady s && mayServe s &&
    (match x.steps with
      | [] => true
      | [t] => t.phase = .commit || t.phase = .fixup
      | _ => false)

/-- Another loop that shares the clusters, has work and an open window (R303). -/
def otherWaits (s : State) (r : LoopRec) (heads : Heads) : Bool :=
  (sharers s.img r.slot).any (fun k => windowOpen s k && (loopRec s.img k).any (fun q =>
    rd s Fld.SEQ_LCTRL_EN k = 1 && !(loopOf s k).stopped && !(loopOf s k).barred && (hasWork s q heads || (loopOf s k).steps.any (fun t => t.phase = .discard))))

/-- The batch may start now: FILL is reached, or the oldest waiting sequence has waited DEADLINE slots. -/
def filled (s : State) (r : LoopRec) (b : Batch) : Bool :=
  r.fill = 0 || decide (r.fill ≤ b.tokens) ||
    (r.deadline ≠ 0 && (loopOf s r.slot).waiting.any (fun w => decide (w + 256 * r.deadline ≤ s.mer)))

/-- A step is admitted with a batch. -/
def admitStep (s : State) (r : LoopRec) (b : Batch) : State :=
  let x := loopOf s r.slot
  let t : Step := ⟨x.lastStep + 1, .admission, b.entries, b.tokens, slotStart s, 0, false, [], [], 0, none⟩
  let first := x.steps.isEmpty
  let s := modLoop s r.slot (fun x => { x with
    lastStep := t.num
    steps := x.steps ++ [t]
    holds := true
    ran := if x.ran ≥ r.runMax then 1 else x.ran + 1
    waiting := none })
  let s := { s with seq := { s.seq with tokUsed := KMap.mod (fun _ => 0) s.seq.tokUsed r.tenant (· + b.tokens) } }
  let s := if first then reserveStep s r.slot t else s
  let s := t.entries.foldl (fun s e => setBusy s e.seq) s
  engineWrite s (kvmFor r.tenant) (bufferOf r t.num) (recordOf t) false

/-- A slot boundary at which a loop may admit a step (R283). -/
def tryAdmit (s : State) (r : LoopRec) (heads : Heads) : State :=
  let x := loopOf s r.slot
  if !mayAdmit s r || !windowOpen s r.slot || clustersTaken s r.slot || (decide (x.ran ≥ r.runMax) && otherWaits s r heads) then s
  else
    let s := startSwapIns (retryParked s r (x.lastStep + 1)) r
    let b := batchOf s r heads
    let s := (List.range b.waits).foldl (fun s _ => inc s Fld.SEQ_RINGWAIT_COUNT r.slot) s
    if b.entries.isEmpty then s
    else if filled s r b then admitStep s r b
    else if x.waiting.isNone then modLoop s r.slot (fun x => { x with waiting := some s.mer })
    else s

/-- STEP_ADMIT (R283); `heads` are the HEAD counts of rings that lie at a host. -/
def execStepAdmit (l : Fin 256) (heads : List (Nat × Nat × Nat)) (s : State) : Out :=
  let s := quiet s
  .next (match loopRec s.img l.val with
    | none => s
    | some r => tryAdmit s r heads)

/-! Launch (R285) -/

/-- A launch on a cluster belongs to a step that is no longer launched: discarded, or of a stopped loop. -/
def deadLaunch (s : State) (c : Nat) : Bool :=
  match (cl s c).running.bind (·.step) with
  | none => false
  | some (l, k) => !(loopOf s l).steps.any (fun t => t.num = k && t.launch.isSome)

/-- A discarded launch that has reached its tile boundary ends there, without a context save (R293). -/
def killLaunch (s : State) (c : Nat) : State :=
  if deadLaunch s c && (cl s c).boundary then
    let s := wr s Fld.CLU_ARR_STATUS_PREEMPT 0 c
    modCl s c (fun x => { x with
      running := none
      stopped := false
      boundary := false
      handles := []
      loads := []
      heldLaunches := []
      dma := []
      scmds := []
      tiles := []
      feeders := []
      deferred := [] })
  else s

/-- The leaves of a loop's constellation are free of discarded launches. -/
def leavesClear (s : State) (l : Nat) : Bool := (loopLeaves s.img l).all (fun c => !deadLaunch s c)

def updStep (s : State) (l num : Nat) (f : Step → Step) : State :=
  modLoop s l (fun x => { x with steps := x.steps.map (fun t => if t.num = num then f t else t) })

/-- The program of a step is launched on every leaf. -/
def launchStep (s : State) (r : LoopRec) (t : Step) : State :=
  let ls := loopLeaves s.img r.slot
  let s := ls.foldl killLaunch s
  if !(loopOf s r.slot).holds || (loopOf s r.slot).saved || !leavesClear s r.slot || ls.any (queueFull s) || ls.any (clusterOff s) then s
  else
    let a := bufferOf r t.num
    let id := s.seq.nextRun
    let s := updStep s r.slot t.num (fun t => { t with phase := .run, launch := some id })
    enterLaunch s (.con r.con) ⟨r.entry, a, t.num % 2 ^ 32, false, some (a + 24), none, 0, 1, 0xFFFF, some (r.slot, t.num), none⟩

def execStepLaunch (l : Fin 256) (s : State) : Out :=
  let s := quiet s
  .next (match loopRec s.img l.val, (loopOf s l.val).steps.find? (fun t => t.phase = .admission) with
    | some r, some t => launchStep s r t
    | _, _ => s)

/-! Sampling (R287, R288) -/

/-- A candidate record: identifiers with logits, LSE and poison; none where a field is out of range or the order is broken. -/
def readRecord (b : List Byte) : Option (List (Nat × Nat) × Nat) :=
  let c := fieldOf b 0 2
  let xs := (List.range c).map (fun i => (fieldOf b (16 + 8 * i) 4, fieldOf b (20 + 8 * i) 4))
  let ordered := (xs.zip xs.tail).all (fun p =>
    fLt fp32 p.2.2 p.1.2 || (fEq fp32 p.1.2 p.2.2 && decide (p.1.1 < p.2.1)))
  if 1 ≤ c ∧ c ≤ 256 ∧ ordered = true then some (xs, fieldOf b 4 4) else none

/-- Running sums of FP32 values. -/
def sums32 : Nat → List Nat → List Nat
  | _, [] => []
  | a, x :: t => let y := (fAdd fp32 a x).1; y :: sums32 y t

/-- The draw of R287 at position p. -/
def drawToken (xs : List (Nat × Nat)) (lse : Nat) (d : SeqDesc) (p : Nat) : Nat :=
  let id (i : Nat) : Nat := (xs.getD i (0, 0)).1
  if d.temp = 0 then id 0
  else
    let g := (fDiv fp32 0x3FB8AA3B d.temp).1
    let n := if d.topk = 0 then xs.length else Nat.min xs.length d.topk
    let cs := sums32 0 ((xs.take n).map (fun x => (fExp2 fp32 (fSub fp32 (fMul fp32 x.2 g).1 lse).1).1))
    let m := match cs.findIdx? (fun c => fLe fp32 d.topp c) with
      | some i => i + 1
      | none => n
    let r := philox (d.seed % 2 ^ 32, d.seed / 2 ^ 32) (p, 0, 0x53414D50, 0)
    let u := fp32Of (.fin false (r / 256) (-24))
    let target := (fMul fp32 u (cs.getD (m - 1) 0)).1
    match (cs.take m).findIdx? (fun c => fLt fp32 target c) with
    | some i => id i
    | none => id (m - 1)

/-- A result block as read: parents, tokens, and the records of its nodes; none where a check fails. -/
structure Result where
  parents : List Nat
  tokens : List Nat
  recs : List (List (Nat × Nat) × Nat)
  poison : List Bool
  deriving DecidableEq, Repr

def readResult (s : State) (r : LoopRec) (num : Nat) (e : StepEntry) : Option Result :=
  let a := bufferOf r num + e.res
  match readFrom s (kvmFor r.tenant) a 128 [] with
  | none => none
  | some (h, p0) =>
    let k := fieldOf h 0 1
    let parents := (List.range 16).map (fun i => if i = 0 then 0 else fieldOf h i 1)
    let ok := decide (1 ≤ k) && decide (k ≤ e.nodes) && (List.range k).all (fun i => i = 0 || decide (parents.getD i 0 < i)) && fieldOf h 80 48 = 0
    let rs := (List.range k).map (fun i => readFrom s (kvmFor r.tenant) (a + 128 + 2112 * i) 2112 [])
    let ds := rs.map (fun x => x.bind (fun y => readRecord y.1))
    if ok && ds.all Option.isSome then
      some ⟨parents.take k, (List.range k).map (fun i => fieldOf h (16 + 4 * i) 4), ds.filterMap (fun x => x),
        rs.map (fun x => p0 || x.elim true (·.2))⟩
    else none

/-- END reason of a token drawn at position p with `left` tokens still to generate; 0 for none (R288). -/
def endOf (d : SeqDesc) (tok left p : Nat) : Nat :=
  if d.stop ≠ noToken ∧ tok = d.stop then 1 else if left ≤ 1 then 2 else if p ≥ d.lmax then 3 else 0

/-- The walk of a tree from a node: tokens, accepted nodes, the END reason and poison. A node is accepted where the walk goes on in it. -/
def walkTree (b : Result) (d : SeqDesc) (pos : Nat) : Nat → Nat → Nat → Nat → List Nat × List Nat × Nat × Bool
  | 0, _, _, _ => ([], [], 0, false)
  | f + 1, node, depth, left =>
    let x := b.recs.getD node ([], 0)
    let p := pos + depth + 1
    let y := drawToken x.1 x.2 d p
    let bad := b.poison.getD node true
    let e := endOf d y left p
    if e ≠ 0 then ([y], [], e, bad)
    else
      match (List.range b.tokens.length).find? (fun i => node < i && b.parents.getD i 0 = node && b.tokens.getD i 0 = y) with
      | none => ([y], [], 0, bad)
      | some i =>
        let w := walkTree b d pos f i (depth + 1) (left - 1)
        (y :: w.1, i :: w.2.1, w.2.2.1, bad || w.2.2.2)

/-- Token of node 0 that the entry's KIND asks for; `last` is the chunk's last token where the prompt lies elsewhere. -/
def expectedToken (s : State) (r : LoopRec) (d : SeqDesc) (e : StepEntry) (last : Option Nat) : Option Nat :=
  if e.kind = 2 then
    let k := chunkOf d e
    if k = 0 then some d.next
    else match readFrom s (kvmFor r.tenant) (e.src + 4 * (k - 1)) 4 [] with
      | some x => some (leNat x.1)
      | none => last
  else some (e.src % 2 ^ 32)

/-- One result block is sampled: none where the step fails with cause SAMPLE. -/
def sampleEntry (s : State) (r : LoopRec) (num : Nat) (e : StepEntry) (last : Option Nat) : Option Sampled :=
  let d := viewBefore s r.slot num e.seq
  match readResult s r num e with
  | none => none
  | some b =>
    if some (b.tokens.getD 0 0) ≠ expectedToken s r d e last then none
    else
      let mk (tokens path : List Nat) (newLc reason : Nat) (bad : Bool) : Sampled :=
        ⟨e.seq, tokens, path, newLc, if reason = 3 then noToken else tokens.getLastD noToken, reason, bad⟩
      if e.kind = 3 then
        let w := walkTree b d e.pos 17 0 0 d.gleft
        some (mk w.1 (0 :: w.2.1) (e.pos + w.2.1.length + 1) w.2.2.1 w.2.2.2)
      else
        let x := b.recs.getD 0 ([], 0)
        let p := e.pos + e.ntok
        let y := drawToken x.1 x.2 d p
        some (mk [y] [0] p (endOf d y d.gleft p) (b.poison.getD 0 true))

/-! Discard (R293) -/

/-- A step's launch on the constellation is given up: its place in the queues is cleared, and what runs is stopped at its next boundary. -/
def stopLaunch (s : State) (l num : Nat) : State :=
  let s := { s with seq := { s.seq with conRuns := s.seq.conRuns.filter (fun r =>
    !(loopOf s l).steps.any (fun t => t.num = num && t.launch = some r.id)) } }
  let s := updStep s l num (fun t => { t with launch := none })
  (loopLeaves s.img l).foldl (fun s c =>
    let s := modCl s c (fun x => { x with
      queue := x.queue.filter (fun q => q.step ≠ some (l, num))
      ending := x.ending.filter (fun e => e.launch.step ≠ some (l, num)) })
    if (cl s c).running.any (fun q => q.step = some (l, num)) then preempt s c else s) s

/-- Staged results of a step are dropped, and the queued and held requests of a step that is taken back. -/
def dropStaged (s : State) (l num : Nat) (requests : Bool) : State :=
  let tag : StepTag := some (l, num)
  { s with kvm := { s.kvm with
    staged := s.kvm.staged.filter (fun x => x.tag ≠ tag)
    trees := s.kvm.trees.filter (fun x => x.tag ≠ tag)
    queue := if requests then s.kvm.queue.filter (fun x => x.tag ≠ tag) else s.kvm.queue
    held := if requests then s.kvm.held.filter (fun x => x.tag ≠ tag) else s.kvm.held
    reserved := if requests then s.kvm.reserved.filter (fun x => !(x.loop = l ∧ x.step = num)) else s.kvm.reserved } }

/-- The loop stops: its sequences end with STEPFAIL, and their descriptors keep what was last committed (R293). -/
def stopLoop (s : State) (l : Nat) (t : Step) : State :=
  let s := modLoop s l (fun x => { x with steps := [], stopped := true, lastStep := t.num })
  let s := flag s Fld.SEQ_LSTAT_STOPPED l
  t.entries.foldl (fun s e =>
    let d := (readDesc s e.seq).1
    if d.live then
      let r := finalSeq s e.seq d
      writeNow r.1 e.seq r.2 [⟨e.seq, 7, t.num, 0x609, []⟩]
    else s) s

/-- The oldest uncommitted step of a loop is discarded, with the one after it. Where the discard counts, the REPLAY_MAX-th stops the
loop (R293; a partition reset does not count, R416). -/
def discardWith (counts : Bool) (s : State) (l : Nat) : State :=
  match (loopOf s l).steps with
  | [] => s
  | t :: later =>
    let max := ((loopRec s.img l).map (·.replayMax)).getD 1
    let s := later.foldl (fun s u => inc (dropStaged (stopLaunch s l u.num) l u.num true) Fld.SEQ_REPLAYS_COUNT l) s
    let s := attRefill (dropStaged (stopLaunch s l t.num) l t.num false)
    let s := inc s Fld.SEQ_REPLAYS_COUNT l
    let s := modLoop s l (fun x => { x with lastStep := t.num, steps := x.steps.take 1 })
    let s := (later.flatMap (·.entries)).foldl (fun s e => setBusy s e.seq) s
    if counts ∧ t.runs + 1 ≥ max then stopLoop s l t
    else updStep s l t.num (fun u => { u with
      phase := .discard, runs := t.runs + (if counts then 1 else 0), failed := false, outcomes := [], fixups := 0 })

def discardStep (s : State) (l : Nat) : State := discardWith true s l

/-- SAMPLE (R287): `lasts` are the last chunk tokens of prompts that lie elsewhere, by sequence. -/
def execSample (l : Fin 256) (lasts : List (Nat × BitVec 32)) (s : State) : Out :=
  let s := quiet s
  .next (match loopRec s.img l.val, (loopOf s l.val).steps.find? (fun t => t.phase = .run) with
    | some r, some t =>
      if t.launch.isSome then s
      else
        let es := t.entries.filter (fun e => e.kind ≠ 1 && !t.left.contains e.seq)
        let os := es.map (fun e => sampleEntry s r t.num e ((lasts.find? (fun x => x.1 = e.seq)).map (·.2.toNat)))
        let first := (loopOf s r.slot).steps.head?.any (fun u => u.num = t.num)
        updStep s r.slot t.num (fun t => { t with
          phase := if first then .commit else .sample
          failed := t.failed || os.any Option.isNone
          outcomes := os.filterMap (fun x => x) })
    | _, _ => s)

/-! Commit (R289 to R291) -/

/-- Requests of a step that are queued, held or running. -/
def requestsOpen (s : State) (l num : Nat) : Bool :=
  let tag : StepTag := some (l, num)
  s.kvm.queue.any (fun e => e.tag = tag) || s.kvm.held.any (fun e => e.tag = tag) || s.kvm.runs.any (fun r => r.tag = tag)

/-- The commit checks of R289 that are not already in `failed`. -/
def checksFail (s : State) (t : Step) : Bool :=
  t.failed || t.outcomes.any (·.poison) || t.entries.any (fun e => !t.left.contains e.seq && (readDesc s e.seq).2)

/-- The fix-up request of one tree request of a step: the accepted path's payloads in depth order (R259). -/
def fixupRun (s : State) (x : TreeSrc) (o : Sampled) : State :=
  let d := (readDesc s x.seq).1
  let g := geomRec d.geom
  let r : AttReq := { parseAtt [] with seq := x.seq, layer := x.layer, head := x.head, napp := o.path.length }
  let run : AttRun := ⟨s.kvm.nextId, x.tag, x.seq, x.layer, x.head, 0, 0, false, false,
    o.path.map (fun n => x.addr + n * 64 * g.appendLines), [], 0, none, d.tenant, d.geom, d.lc, d.lc + o.path.length, d.hkv,
    if d.hkv then [] else requestTodo s d r, if d.hkv then 0 else o.path.length, [], [], [], false, false⟩
  { s with kvm := { s.kvm with nextId := s.kvm.nextId + 1, runs := s.kvm.runs ++ [run] } }

/-- COMMIT_CHECK (R289): the checks run, and the fix-up requests are posted. -/
def execCommitCheck (l : Fin 256) (s : State) : Out :=
  let s := quiet s
  .next (match (loopOf s l.val).steps with
    | t :: _ =>
      if t.phase ≠ .commit || commitBarred s || requestsOpen s l.val t.num then s
      else if checksFail s t then discardStep s l.val
      else
        let xs := s.kvm.trees.filterMap (fun x =>
          if x.tag = some (l.val, t.num) ∧ ¬ x.seq ∈ t.left then (t.outcome x.seq).map (fun o => (x, o)) else none)
        let s := xs.foldl (fun s x => fixupRun s x.1 x.2) s
        updStep s l.val t.num (fun t => { t with phase := .fixup, fixups := xs.length })
    | [] => s)

/-- A change that a commit makes to one sequence: its descriptor before its rings' counts move, and its entries. -/
structure Change where
  n : Nat
  d : SeqDesc
  entries : List RingEntry
  deriving DecidableEq, Repr

/-- Its change by the step, prefix registration included (R288, R299, R300). -/
def entryChange (s : State) (l : Nat) (t : Step) (e : StepEntry) : State × Change :=
  let n := e.seq
  let d0 := (readDesc s n).1
  let o := t.outcome n
  let d := applyEntry d0 e o t.num
  if d0.cancel then
    let r := finalSeq s n { d with next := noToken }
    (r.1, ⟨n, r.2, [⟨n, noToken, t.num, 0x403, []⟩]⟩)
  else
    let z : State × SeqDesc × List RingEntry :=
      if e.kind = 2 ∧ d0.regprefix = true then
        match registerPrefix s d with
        | (s, some h) => (s, d.setFlag 3 false, [⟨n, noToken, h, 16, []⟩])
        | (s, none) => (s, d, [⟨n, 4, t.num, 8, []⟩])
      else (s, d, [])
    let es := z.2.2 ++ tokenEntries z.1 l d0 o t.num
    if o.any (fun x => decide (x.endReason ≠ 0)) then
      let r := finalSeq z.1 n z.2.1
      (r.1, ⟨n, r.2, es⟩)
    else if d.state ≠ 1 then
      (modLoop z.1 l (fun x => { x with prefill := x.prefill.filter (fun y => y ≠ n) }), ⟨n, z.2.1, es⟩)
    else (z.1, ⟨n, z.2.1, es⟩)

/-- The changes so far with one more entry for a sequence. -/
def addEntry (cs : List Change) (c : Change) : List Change :=
  if cs.any (fun x => x.n = c.n) then
    replaceFirst (fun x => decide (x.n = c.n)) (fun x => { x with d := c.d, entries := x.entries ++ c.entries }) cs
  else cs ++ [c]

/-- A sequence's descriptor, as changed so far. -/
def changedDesc (s : State) (cs : List Change) (n : Nat) : SeqDesc :=
  match cs.find? (fun c => c.n = n) with
  | some c => c.d
  | none => (readDesc s n).1

/-- Notices, cancellations and releases that this commit completes (R281, R296, R299). -/
def sideChanges (s : State) (l num : Nat) (cs : List Change) : State × List Change :=
  let z := (loopOf s l).notices.foldl (fun (z : State × List Change) e =>
    let d := changedDesc z.1 z.2 e.seq
    if e.flags % 2 = 1 then
      let r := freeSeq z.1 e.seq d
      (r.1, addEntry z.2 ⟨e.seq, r.2, [{ e with step := num }]⟩)
    else (z.1, addEntry z.2 ⟨e.seq, d, [{ e with step := num }]⟩)) (s, cs)
  let s := modLoop z.1 l (fun x => { x with notices := [] })
  let tenant := (loopRec s.img l).map (·.tenant)
  let cancels := (tenant.elim [] (tenantSeqs s)).filter (fun n =>
    let d := changedDesc s z.2 n
    d.live && d.loop = l && d.cancel && !inAnyStep s n)
  let z := cancels.foldl (fun (z : State × List Change) n =>
    let r := finalSeq z.1 n (changedDesc z.1 z.2 n)
    (r.1, addEntry z.2 ⟨n, r.2, [⟨n, noToken, num, 0x403, []⟩]⟩)) (s, z.2)
  let rels := (loopOf z.1 l).releases.filter (fun n => !inAnyStep z.1 n)
  let s := modLoop z.1 l (fun x => { x with releases := x.releases.filter (fun n => !rels.contains n) })
  rels.foldl (fun (z : State × List Change) n =>
    let d := changedDesc z.1 z.2 n
    if d.live then
      let r := freeSeq z.1 n d
      (r.1, addEntry z.2 ⟨n, r.2, [⟨n, noToken, num, 0x501, []⟩]⟩)
    else z) (s, z.2)

/-- The KV manager's staged scores and ages of a step are written (R246, R264). -/
def writeStaged (s : State) (l : Nat) (t : Step) : State :=
  let s := (s.kvm.staged.filter (fun x => x.tag = some (l, t.num))).foldl (fun s x =>
    match x.score with
    | some v => if t.left.contains x.seq then s else setScore s (readDesc s x.seq).1 x.page v
    | none => s) s
  let s := { s with kvm := { s.kvm with staged := s.kvm.staged.filter (fun x => x.tag ≠ some (l, t.num)) } }
  t.entries.foldl (fun s e =>
    if t.left.contains e.seq then s
    else
      let d := (readDesc s e.seq).1
      (seqPages d d.lc).foldl (fun s p =>
        let y := (leafEntry s d p).1
        if holdsMemory y ∧ eAge y < 256 then setEntry s d p (mkEntry y (eState y) (eAge y + 1) (eHi y) (eScore y)) else s) s) s

/-- KV_APPEND payload of a token (Table 10.1). -/
def tokenPayload (g : Geom) (x : Token) : List Byte :=
  let body := x.key ++ x.val
  let pad := ceilDiv (2 * g.kb) 64 * 64 - 2 * g.kb
  let scales := x.keyScale ++ x.valScale
  body ++ List.replicate pad 0#8 ++ (if g.isFp4 then scales ++ List.replicate (64 - scales.length) 0#8 else [])

/-- Payload of a committed token of a sequence. -/
def storedPayload (s : State) (d : SeqDesc) (layer head pos : Nat) : List Byte :=
  let e := (leafEntry s d ⟨layer, head, pos / 64⟩).1
  let g := geomRec d.geom
  tokenPayload g (slotToken g (fun r => if eState e = 5 then (poolRow s (ePool e) r).1 else frameRow s (eUnit e) (eBase e) r) (pos % 64))

/-- Runs of positions that lie in one page: first position and count. -/
def pageRuns (from_ upTo : Nat) : List (Nat × Nat) :=
  ((List.range (pagesOf upTo)).filter (fun p => from_ < 64 * (p + 1))).map (fun p =>
    let a := Nat.max from_ (64 * p)
    (a, Nat.min upTo (64 * (p + 1)) - a))

/-- APPEND records of a sequence, a page at a time (R333, R334). -/
def appendRecords (s : State) (l num n : Nat) (d : SeqDesc) (from_ : Nat) : List (List Byte) :=
  let g := geomRec d.geom
  (List.range d.layers).flatMap (fun a => (List.range d.heads).flatMap (fun h =>
    (pageRuns from_ d.lc).map (fun r =>
      shadowHeader [(0, 1, 2), (1, 1, d.geom), (2, 2, r.2 * g.appendLines), (4, 4, n), (8, 8, num), (16, 2, a), (18, 1, h), (19, 1, l),
        (20, 4, r.1), (24, 4, r.2)] ++
      (List.range r.2).flatMap (fun i => storedPayload s d a h (r.1 + i)))))

/-- What a commit sends to the buddy (R334): `olds` are the lengths before it. -/
def shadowCommit (s : State) (l : Nat) (t : Step) (cs : List Change) (appends : List (List Byte)) : State :=
  if !s.fab.shadowing then s
  else
    let descs := (cs.filter (fun c => s.fab.shadowSeqs.contains c.n)).map (fun c =>
      let d := c.d.wrote c.entries
      shadowHeader [(0, 1, 1), (2, 2, 2), (4, 4, c.n), (8, 8, t.num), (19, 1, l)] ++ descLow d ++ descHigh { d with chk := d.lastStep % 2 ^ 32 })
    shadowSend s (descs ++ appends ++ [shadowHeader [(0, 1, 3), (8, 8, t.num), (19, 1, l)]])

/-- The payloads that a step appended for shadowed sequences. -/
def stepAppends (s : State) (l : Nat) (t : Step) : List (List Byte) :=
  t.entries.flatMap (fun e =>
    if t.left.contains e.seq || !s.fab.shadowSeqs.contains e.seq then []
    else
      let d0 := (readDesc s e.seq).1
      appendRecords s l t.num e.seq (applyEntry d0 e (t.outcome e.seq) t.num) e.pos)

/-- Sequences of the committing loop's tenant that a level-2 alarm ends (R378). -/
def endSecured (s : State) (l : Nat) : State :=
  match loopRec s.img l with
  | none => s
  | some r => (s.sec.ending.filter (fun n => (readDesc s n).1.tenant = r.tenant)).foldl (fun s n => endSequence s n 6) s

/-- The commit point and the writes after it. -/
def commitStep (s : State) (l : Nat) (t : Step) : State :=
  let appends := if s.fab.shadowing then stepAppends s l t else []
  let gone := (s.fab.shadowSeqs)
  let s := modLoop s l (fun x => { x with steps := x.steps.tail })
  let z := (t.entries.filter (fun e => !t.left.contains e.seq)).foldl (fun (z : State × List Change) e =>
    let r := entryChange z.1 l t e
    (r.1, addEntry z.2 r.2)) (s, [])
  -- A sequence that ended leaves the step after this one.
  let z := (z.2.filter (fun c => c.d.state ≠ 1 && c.d.state ≠ 2)).foldl (fun (z : State × List Change) c => (leaveSteps z.1 c.n, z.2)) z
  let z := sideChanges z.1 l t.num z.2
  let cs := z.2.map (fun c => { c with d := c.d.setFlag 5 (inAnyStep z.1 c.n) })
  -- Descriptors, staged updates, entries and bytes, TAIL lines (R291).
  let s := cs.foldl (fun s c => writeDesc s c.n (c.d.wrote c.entries)) z.1
  let s := writeStaged s l t
  let s := cs.foldl (fun s c => writeEntries s c.d c.entries) s
  let s := cs.foldl (fun s c => writeTails s (c.d.wrote c.entries) c.entries) s
  let s := { s with kvm := { s.kvm with
    trees := s.kvm.trees.filter (fun x => x.tag ≠ some (l, t.num))
    reserved := s.kvm.reserved.filter (fun x => !(x.loop = l ∧ x.step = t.num)) } }
  let s := t.left.foldl setBusy s
  let s := endSecured s l
  -- Shadow writes, and ring writes behind a host port, complete before SEQ_STEP.
  let behind := [0, 1].filter (fun p =>
    decide ((hport z.1 p).open_.length < (hport s p).open_.length) ||
    (decide ((hport z.1 p).outbound.length < (hport s p).outbound.length) &&
      (!linkUp s p || (hport s p).outbound.any (fun r => r.cxl && decide (r.who = .sequencer)))))
  let s := modLoop s l (fun x => { x with due := some t.num, ports := behind })
  let s := dueCommits (let live := s.fab.shadowSeqs
    let s := shadowCommit { s with fab := { s.fab with shadowSeqs := gone } } l t cs appends
    { s with fab := { s.fab with shadowSeqs := live } })
  -- The step after it: sampled, it enters COMMIT; its frames are reserved.
  match (loopOf s l).steps with
  | u :: _ => reserveStep (if u.phase = .sample then updStep s l u.num (fun u => { u with phase := .commit }) else s) l u
  | [] => s

/-- COMMIT_POINT (R291). -/
def execCommitPoint (l : Fin 256) (s : State) : Out :=
  let s := quiet s
  .next (match (loopOf s l.val).steps with
    | t :: _ =>
      if t.phase ≠ .fixup || t.fixups ≠ 0 || commitBarred s || (loopOf s l.val).due.isSome then s
      else if t.failed then discardStep s l.val
      else commitStep s l.val t
    | [] => s)

/-! Replay (R293, R351) -/

/-- A recovery that a failure set in motion is still under way (R351). -/
def recovering (s : State) (l : Nat) : Bool :=
  deviceEclipse s || dieEclipse s 0 || dieEclipse s 1 || !s.ras.suspects.isEmpty || !s.mem.restoring.isEmpty ||
    (loopLeaves s.img l).any (fun c => clusterEclipse s c || s.ras.condemned.contains c)

/-- REPLAY_LAUNCH (R293): the same record and number. -/
def execReplayLaunch (l : Fin 256) (s : State) : Out :=
  let s := quiet s
  .next (match loopRec s.img l.val, (loopOf s l.val).steps.find? (fun t => t.phase = .discard) with
    | some r, some t =>
      if recovering s l.val || requestsOpen s l.val t.num || (loopOf s l.val).stopped then s
      else
        let s := if clustersTaken s l.val then s else modLoop s l.val (fun x => { x with holds := true })
        launchStep s r t
    | _, _ => s)

/-- A write of 1 to SEQ_LCTRL.RESTART. -/
def restartLoop (s : State) (who : Requester) (l : Nat) : State :=
  if mayLoop s who l && (loopOf s l).stopped then modLoop s l (fun x => { x with stopped := false }) else s

/-! Sharing (R303 to R305) -/

/-- A loop's launches have ended, or stand pre-empted at a boundary with their drains delivered. -/
def mayHandOver (s : State) (l : Nat) : Bool :=
  !running s l || (loopLeaves s.img l).all (fun c => let x := cl s c; (x.running.isNone || x.boundary) && x.runs.isEmpty)

/-- A loop waits for the clusters: it has work and an open window, or a replay that takes them back (R303). -/
def wantsClusters (s : State) (heads : Heads) (k : Nat) : Bool :=
  (loopRec s.img k).any (fun q =>
    let x := loopOf s k
    !x.stopped && !x.barred &&
      (x.steps.any (fun t => t.phase = .discard) || (x.saved && !x.steps.isEmpty && windowOpen s k) ||
        (rd s Fld.SEQ_LCTRL_EN k = 1 && windowOpen s k && (x.saved || x.steps.isEmpty) && hasWork s q heads)))

/-- The loop that takes the clusters next: one with a replay, else the next in ascending order. -/
def nextLoop (s : State) (l : Nat) (heads : Heads) : Option Nat :=
  let ks := (sharers s.img l).filter (fun k => wantsClusters s heads k && !(sharers s.img k).any (fun j => j ≠ l && (loopOf s j).holds))
  match ks.find? (fun k => (loopOf s k).steps.any (fun t => t.phase = .discard)) with
  | some k => some k
  | none => ks.head?

/-- The holder gives its clusters up: RUNMAX reached, no work, no window, a replay elsewhere, or pre-empted. -/
def yields (s : State) (r : LoopRec) (heads : Heads) (k : Nat) : Bool :=
  let x := loopOf s r.slot
  decide (x.ran ≥ r.runMax) || !windowOpen s r.slot || !hasWork s r heads || (loopOf s k).steps.any (fun t => t.phase = .discard) ||
    (loopLeaves s.img r.slot).any (preempting s)

/-- LOOP_SWITCH (R303): the clusters of the loop that holds them pass on, and its context is to be saved. -/
def execLoopSwitch (l : Fin 256) (heads : List (Nat × Nat × Nat)) (s : State) : Out :=
  let s := quiet s
  .next (match loopRec s.img l.val, nextLoop s l.val heads with
    | some r, some k =>
      if !(loopOf s r.slot).holds || !mayHandOver s r.slot || !yields s r heads k then s
      else
        let n := (loopLeaves s.img r.slot).length
        let s := modLoop s r.slot (fun x => { x with holds := false, ran := 0, saved := true })
        let s := modLoop s k (fun x => { x with holds := true, ran := 0 })
        let s := { s with seq := { s.seq with
          saving := s.seq.saving ++ (List.range n).map (fun i => (r.slot, i))
          saveTotal := n * 2 ^ 22 } }
        progress s Fld.SEQ_CTX_POS_LO_POS Fld.SEQ_CTX_POS_HI_POS Fld.SEQ_CTX_PCT_PCT 0 0 (Nat.max 1 (n * 2 ^ 22))
    | _, _ => s)

/-- Address of a leaf's context record. -/
def contextAt (r : LoopRec) (leaf : Nat) : Nat := r.stage + 0x8000000 + leaf * contextBytes

/-- The scratchpad of a cluster is written to memory, line by line with its poison, and 16 KiB whose layout the spec does not state. -/
def saveSpad (s : State) (who : Requester) (c a : Nat) : State :=
  let s := (List.range 65536).foldl (fun s i =>
    engineStore s who (a + 64 * i) (spadBytes s.mem c (64 * i) 64) (spadPoisoned s.mem c (64 * i) 64)) s
  (List.range 256).foldl (fun s i =>
    let r := free 512 s
    engineStore r.2 who (a + 2 ^ 22 + 64 * i) (lineBytes r.1) false) s

/-- The scratchpad comes back from memory. -/
def loadSpad (s : State) (who : Requester) (c a : Nat) : State :=
  (List.range 65536).foldl (fun s i =>
    let r := (engineRead s who (BitVec.ofNat 64 (a + 64 * i))).2.getD (freeAt 512 (a / 64 + i) s, true)
    { s with mem := spadWrite s.mem c (64 * i) (lineBytes r.1) r.2 }) s

/-- CONTEXT_SAVE (R304): one leaf's record. -/
def execContextSave (s : State) : Out :=
  let s := quiet s
  .next (match s.seq.saving with
    | [] => s
    | (l, leaf) :: rest =>
      match loopRec s.img l, (loopLeaves s.img l)[leaf]? with
      | some r, some c =>
        let s := saveSpad s (kvmFor r.tenant) c (contextAt r leaf)
        let x := cl s c
        let s := { s with seq := { s.seq with
          saving := rest
          contexts := KMap.set (fun _ => none) s.seq.contexts (l * 256 + leaf) (some x) } }
        let s := wr (setCl s c { Cluster.reset with launchNo := x.launchNo, nextId := x.nextId }) Fld.CLU_ARR_STATUS_PREEMPT 0 c
        let pos := s.seq.saveTotal - rest.length * 2 ^ 22
        progress s Fld.SEQ_CTX_POS_LO_POS Fld.SEQ_CTX_POS_HI_POS Fld.SEQ_CTX_PCT_PCT pos pos (Nat.max 1 s.seq.saveTotal)
      | _, _ => { s with seq := { s.seq with saving := rest } })

/-- CONTEXT_RESTORE (R304): every leaf of a loop that holds its clusters again, or takes free ones. -/
def execContextRestore (l : Fin 256) (s : State) : Out :=
  let s := quiet s
  .next (match loopRec s.img l.val with
    | none => s
    | some r =>
      let x := loopOf s l.val
      if !x.saved || !s.seq.saving.isEmpty || clustersTaken s l.val then s
      else
        let s := (loopLeaves s.img l.val).zipIdx.foldl (fun s e =>
          match KMap.get (fun _ => none) s.seq.contexts (l.val * 256 + e.2) with
          | none => s
          | some y =>
            let s := loadSpad s (kvmFor r.tenant) e.1 (contextAt r e.2)
            let s := setCl s e.1 { y with stopped := false, boundary := false }
            { s with seq := { s.seq with contexts := KMap.set (fun _ => none) s.seq.contexts (l.val * 256 + e.2) none } }) s
        modLoop s l.val (fun x => { x with saved := false, holds := true }))

/-- LOOP_PREEMPT (R305): the leaves of the running loop are asked to stop. -/
def execLoopPreempt (l : Fin 256) (s : State) : Out :=
  let s := quiet s
  .next (match loopRec s.img l.val with
    | none => s
    | some r =>
      if !r.preempt || !windowOpen s l.val then s
      else
        ((sharers s.img l.val).filter (fun k => (loopOf s k).holds && running s k && (loopRec s.img k).any (fun q => !q.preempt))).foldl
          (fun s k => (loopLeaves s.img k).foldl (fun s c => if (cl s c).running.isSome then preempt s c else s) s) s)

/-! Quotas (R302) -/

/-- The page with the lowest SCORE among a tenant's sequences. -/
def tenantVictim (s : State) (t : Nat) : Option (Nat × PageId × Nat) :=
  ((tenantSeqs s t).filterMap (fun n =>
    let d := (readDesc s n).1
    if d.live && d.tenant = t && !d.busy && !d.hkv then (victimPage s d none).map (fun x => (n, x)) else none)).foldl (fun b x =>
      match b with
      | none => some x
      | some y => if scoreLess (eScore x.2.2) (eScore y.2.2) then some x else some y) none

/-- Evictions while the tenant is over its quota: what is left of the 64. -/
def evictSome (t : Nat) : Nat → State → State × Nat
  | 0, s => (s, 0)
  | k + 1, s =>
    if tenantFrames s t ≤ quotaOf s t then (s, 0)
    else
      match (if rd s Fld.KVM_TCFG_EVICT t = 1 then tenantVictim s t else none) with
      | none => (s, k + 1)
      | some x => evictSome t k (evict s (readDesc s x.1).1 x.2.1 x.2.2)

/-- The sequence a quota reduction swaps out: lowest PRIO, not BUSY, ties to the highest number. -/
def quotaVictim (s : State) (t : Nat) : Option Nat :=
  ((tenantSeqs s t).filter (fun n =>
    let d := (readDesc s n).1
    (d.state = 1 || d.state = 2 || d.state = 3) && d.tenant = t && !d.busy && !swapping s n && ownPages s d ≠ [] &&
      (swapRegion s t).2.2 ≠ 0)).foldl (fun b n =>
    match b with
    | none => some n
    | some m => if ((readDesc s n).1).prio ≤ ((readDesc s m).1).prio then some n else some m) none

/-- Pages of a tenant's swap-out go out while it is over its quota. -/
def swapSome (t : Nat) : Nat → State → State
  | 0, s => s
  | k + 1, s =>
    if tenantFrames s t ≤ quotaOf s t then s
    else
      match s.kvm.swapOut with
      | none => s
      | some j => if ((readDesc s j.seq).1).tenant = t then swapSome t k (swapPage s false) else s

/-- A step boundary of a tenant: up to 64 frames are freed while it is over its quota. -/
def quotaBoundary (s : State) (t : Nat) : State :=
  let r := evictSome t 64 s
  if r.2 = 0 || tenantFrames r.1 t ≤ quotaOf r.1 t then r.1
  else
    let s := r.1
    let s := if s.kvm.swapOut.isNone && s.kvm.swaps.isEmpty then
        match quotaVictim s t with
        | some n => startSwapOut (queueSwap s n (readDesc s n).1 none)
        | none => s
      else s
    swapSome t r.2 s

/-- QUOTA_STEP_BOUNDARY (R302). -/
def execQuotaStepBoundary (t : Fin 1024) (s : State) : Out := .next (quotaBoundary (quiet s) t.val)

/-- TOKSHARE_BOUNDARY (R302): a tenant's share starts anew, with the value written last. -/
def execTokshareBoundary (t : Fin 1024) (s : State) : Out :=
  let s := quiet s
  .next { s with seq := { s.seq with
    tokUsed := KMap.set (fun _ => 0) s.seq.tokUsed t.val 0
    tokShare := KMap.set (fun _ => 0) s.seq.tokShare t.val (rd s Fld.SEQ_TTOK_TOKSHARE t.val) } }

end Sys2Proof.Machine
end

