-- ==== Sys2Proof/Machine/Saf.lean ====
section
/-! DEFINITION. Eclipse, recovery and the resets that recovery makes (13 R354 to R361, 16 R415). -/

namespace Sys2Proof.Machine

/-! A cluster returns to its reset state (R415, R384) -/

/-- Offsets of a cluster's CLU block. -/
def inCluBlock (c off : Nat) : Bool := off / 65536 = 0x200 + c

/-- Scratchpad cleared, with valid check bits. -/
def clearSpad (m : Memory) (c : Nat) : Memory :=
  { m with
    spad := m.spad.filter (fun e => e.1 / 2 ^ 22 ≠ c)
    spadPoison := m.spadPoison.filter (fun b => b / 2 ^ 17 ≠ c) }

/-- What waits for an answer on behalf of a cluster. -/
def ofCluster (c : Nat) : Origin → Bool
  | .cluster d _ _ _ => d = c
  | .dma d _ _ => d = c
  | _ => false

/-- What still answers to a cluster that is reset answers to nobody: accesses that have left it complete (R415). -/
def orphan (s : State) (c : Nat) : State :=
  let f (o : Origin) : Origin := if ofCluster c o then .nobody else o
  { s with
    mem := { s.mem with
      waiting := s.mem.waiting.map (fun w => { w with origin := f w.origin })
      retries := s.mem.retries.filter (fun w => !ofCluster c w.origin) }
    fab := { s.fab with requests := s.fab.requests.map (fun r => { r with origin := f r.origin }) }
    hpt := s.hpt.map (fun e => (e.1, { e.2 with
      outbound := e.2.outbound.map (fun r => { r with origin := f r.origin })
      open_ := e.2.open_.map (fun r => { r with origin := f r.origin }) })) }

/-- A cluster is reset by an event of a rank of Table 0.3. -/
def resetCluster (s : State) (c rank : Nat) : State :=
  let s := orphan s c
  let s := { s with
    regs := s.regs.resetWhere rank (inCluBlock c)
    shadow := s.shadow.filter (fun e => !inCluBlock c e.1)
    mem := clearSpad s.mem c }
  setCl s c Cluster.reset

/-- A cluster in eclipse has lost its core state; what it ran outside serving ends with ERR (R340), and its launch queue stands. -/
def abandonCore (s : State) (c : Nat) : State :=
  let x := cl s c
  let s := match x.running with
    | some l => if l.step.isNone then flag s Fld.CLU_LSTAT_ERR c else s
    | none => s
  let s := wr s Fld.CLU_ARR_STATUS_PREEMPT 0 c
  setCl s c { Cluster.reset with
    queue := x.queue
    launchNo := x.launchNo
    nextId := x.nextId
    ending := x.ending ++ (match x.running with
      | some l => if l.step.isNone then [⟨x.launchNo, l, true⟩] else []
      | none => []) }

/-- Loops with an uncommitted step on a constellation that contains a cluster. -/
def loopsWith (s : State) (c : Nat) : List Nat := (loopsOn s.img c).filter (fun l => !(loopOf s l).steps.isEmpty)

/-- Their steps are failed and discarded (R341, R293). -/
def failStepsOn (s : State) (c : Nat) : State := (loopsWith s c).foldl discardStep s

/-- Every uncommitted step of the part is failed and discarded. -/
def failAllSteps (s : State) : State :=
  ((s.seq.loops.filter (fun e => !e.2.steps.isEmpty)).map (·.1)).foldl discardStep s

/-! Clusters (R341, R354) -/

/-- A checker mismatch of a cluster; a second one within 1 s has it retired. -/
def checkerMismatch (s : State) (c : Nat) : State :=
  let s := recordUe s 6 c 0
  let twice := within (KMap.get (fun _ => none) s.ras.mismatchAt c) s.ns
  let s := { s with
    saf := { s.saf with clusters := KSet.add s.saf.clusters c }
    ras := { s.ras with
      mismatchAt := KMap.set (fun _ => none) s.ras.mismatchAt c (some s.ns)
      condemned := if twice then KSet.add s.ras.condemned c else s.ras.condemned } }
  abandonCore (failStepsOn s c) c

/-- CLUSTER_CHECKER_MISMATCH (R341). -/
def execClusterCheckerMismatch (c : Fin 152) (s : State) : Out := .next (checkerMismatch (quiet s) c.val)

/-- Clusters of a die that hold no logical number and may take one. -/
def freeSpare (s : State) (d c : Nat) : Bool :=
  dieOfCluster c = d && !s.img.lmap.contains c && !s.ras.retiredClusters.contains c && !s.load.claimed.contains c &&
    !s.ras.condemned.contains c && !s.saf.clusters.contains c

/-- RAS_SPARES of a die: its 76 clusters less the 72 in use and those retired. -/
def sparesLeft (s : State) (d : Nat) : Nat := 4 - (s.ras.retiredClusters.filter (fun c => dieOfCluster c = d)).length

def putSpares (s : State) : State := wr (wr s Fld.RAS_SPARES_DIE_A (sparesLeft s 0)) Fld.RAS_SPARES_DIE_B (sparesLeft s 1)

/-- Every loop bound to a constellation that holds a cluster stops (R354, R293). -/
def stopLoopsOn (s : State) (c : Nat) : State :=
  (loopsOn s.img c).foldl (fun s l =>
    match (loopOf s l).steps with
    | [] => flag (modLoop s l (fun x => { x with stopped := true })) Fld.SEQ_LSTAT_STOPPED l
    | _ :: _ =>
      let s := discardStep s l
      match (loopOf s l).steps with
      | t :: _ => stopLoop s l t
      | [] => s) s

/-- A cluster is retired; its logical number goes to the lowest free spare of its die (R354, R55). -/
def retireCluster (s : State) (c : Nat) : State :=
  let d := dieOfCluster c
  let s := flag s Fld.RAS_EVENT_RETIRED
  let s := putSpares { s with
    saf := { s.saf with clusters := KSet.add s.saf.clusters c }
    ras := { s.ras with condemned := KSet.del s.ras.condemned c, retiredClusters := KSet.add s.ras.retiredClusters c } }
  let s := abandonCore (failStepsOn s c) c
  match logicalOf s.img c with
  | none => s
  | some l =>
    match (List.range 152).find? (freeSpare s d) with
    | none => stopLoopsOn (flag s Fld.RAS_EVENT_SPARE_OUT) c
    | some n =>
      { s with
        img := { s.img with lmap := s.img.lmap.set l n }
        load := if s.load.running then { s.load with claimed := addNew s.load.claimed n } else s.load
        ras := { s.ras with moves := s.ras.moves ++ [(l, c, n)] } }

/-- CLUSTER_RETIRE (R354): a cluster that R354 has retired. -/
def execClusterRetire (c : Fin 152) (s : State) : Out :=
  let s := quiet s
  .next (if s.ras.condemned.contains c.val then retireCluster s c.val else s)

/-- Scratchpad bytes and marks of one cluster as those of another. -/
def moveSpad (m : Memory) (a b : Nat) : Memory :=
  let m1 := clearSpad m b
  { m1 with
    spad := (m1.spad.filter (fun e => e.1 / 2 ^ 22 = a)).foldl (fun r e => KMap.insert r (b * 2 ^ 22 + e.1 % 2 ^ 22) e.2) m1.spad
    spadPoison := (m1.spadPoison.filter (fun k => k / 2 ^ 17 = a)).foldl (fun r k => KSet.add r (b * 2 ^ 17 + k % 2 ^ 17)) m1.spadPoison }

/-- The 4 KiB of a reloadable region at an offset, from its source, or as the outside delivers it. -/
def regionSource (s : State) (r : Region) (at_ : Nat) (given : Option (List Byte)) : Option (List Byte) :=
  let a := r.src + at_ / 4096 * 4096
  match readFrom s .supervisor a 4096 [] with
  | some (b, false) => some b
  | _ => given.bind (fun b => if b.length = 4096 then some b else none)

/-- The reloadable region of scratchpad windows that holds an offset of a cluster's window, with the offset in the region. -/
def spadRegion (s : State) (c off : Nat) : Option (Region × Nat) :=
  (s.mem.regions.map (·.2)).findSome? (fun r =>
    if r.kind = 1 ∧ r.base / 2 ^ 58 = 2 then
      (logicalOf s.img c).bind (fun l =>
        let x := l * 2 ^ 22 + off
        let b := r.base % 2 ^ 41
        if b ≤ x ∧ x < b + r.len then some (r, x - b) else none)
    else none)

/-- A 4 KiB piece of a scratchpad is restored from its region; false where there is no copy (R346). -/
def restoreSpad (s : State) (c off : Nat) (given : Option (List Byte)) : State × Bool :=
  match spadRegion s c off with
  | none => (s, false)
  | some (r, x) =>
    match regionSource s r x given with
    | none => (s, false)
    | some b => (flag { s with mem := spadWrite s.mem c (off / 4096 * 4096) b false } Fld.RAS_EVENT_REFETCH, true)

/-- FAILOVER_COPY_DONE (R354): `bad` are 64-byte lines of the old scratchpad that read uncorrectable, with source data from a host where
their region's source lies there. -/
def execFailoverCopyDone (l : Fin 144) (bad : List (BitVec 16 × List Byte)) (s : State) : Out :=
  let s := quiet s
  .next (match takeFirst (fun (m : Nat × Nat × Nat) => decide (m.1 = l.val)) s.ras.moves with
    | none => s
    | some ((_, a, b), rest) =>
      let s := { s with mem := moveSpad s.mem a b, ras := { s.ras with moves := rest } }
      bad.foldl (fun s x =>
        let off := x.1.toNat * 64
        let lost := badData s (2 ^ 37 + a * 2 ^ 22 + off)
        let s := recordUe s 2 a (localAddr s 2 (l.val * 2 ^ 22 + off))
        let r := restoreSpad s b off (some x.2)
        if r.2 then r.1
        else { s with mem := spadWrite s.mem b off (lineBytes lost) true }) s)

/-! Castor and Pollux (R357, R358) -/

/-- CHECKPOINT (R357): held stores are released; those the cores make until the next one are held from now on (log 16). -/
def execCheckpoint (stores : List SupStore) (s : State) : Out :=
  let s := releaseStores (quiet s)
  .next (wr64 { s with saf := { s.saf with stores := stores.take 4096 } } Fld.SAF_CKPT_LO_COUNT Fld.SAF_CKPT_HI_COUNT s.mer)

/-- Steps that have entered COMMIT without passing their commit point are discarded (R358). -/
def discardCommits (s : State) : State :=
  ((s.seq.loops.filter (fun e => e.2.steps.head?.any (fun t => t.phase = .commit || t.phase = .fixup))).map (·.1)).foldl discardStep s

/-- A disagreement of the cores, or of a duplicated hub block. -/
def mismatch (s : State) (pc : Nat) (hub : Bool) : State :=
  let s := recordUe (if hub then flag s Fld.SAF_EVENT_HUBCMP else flag s Fld.SAF_EVENT_MISMATCH) 8 0xF0 0
  let perm := s.saf.lastMismatch.any (fun x => x.2 = pc && within (some x.1) s.ns)
  let s := discardCommits (stopLoad (flag s Fld.SAF_STATUS_DEVICE) 0x13)
  let s := { s with saf := { s.saf with
    stores := []
    recovering := some ((s.saf.recovering).getD s.ns)
    lastMismatch := some (s.ns, pc) } }
  if perm then { flag s Fld.SAF_STATUS_PERM with faultN := true } else s

/-- LOCKSTEP_MISMATCH (R358): the instruction address at which the sides disagree. -/
def execLockstepMismatch (pc : BitVec 64) (hub : Bool) (s : State) : Out := .next (mismatch (quiet s) pc.toNat hub)

/-- A recovery is counted (R363). -/
def recovered (s : State) (start : Nat) : State :=
  wr (inc (flag s Fld.SAF_EVENT_RECOVERED) Fld.SAF_RECOV_COUNT) Fld.SAF_LAST_US (Nat.min 4095 ((s.ns - start) / 1000))

/-- Eclipse of the device ends after a recovery, unless something else holds it. The arbiter is rebuilt without history. -/
def releaseDevice (s : State) : State :=
  match s.saf.recovering with
  | none => s
  | some t =>
    if rd s Fld.SAF_STATUS_PERM = 1 ∨ s.saf.alarm = true then s
    else
      let s := recovered { s with saf := { s.saf with recovering := none } } t
      { wr s Fld.SAF_STATUS_DEVICE 0 with pwr := { s.pwr with histLeft := 16 } }

/-! Heartbeats (R359) -/

def dieBit (d : Nat) : Field := if d = 0 then Fld.SAF_STATUS_DIE_A else Fld.SAF_STATUS_DIE_B

/-- HUB_HEARTBEAT (R359). -/
def execHubHeartbeat (die : Fin 2) (s : State) : Out :=
  let s := quiet s
  .next { s with saf := { s.saf with heartbeat := KMap.set (fun _ => 0) s.saf.heartbeat die.val s.ns } }

/-- The six stacks of a die. -/
def dieStacks (d : Nat) : List Nat := (List.range 6).map (fun i => 6 * d + i)

/-- A die goes 100 µs without a heartbeat. -/
def loseDie (s : State) (d : Nat) : State :=
  if s.ns < KMap.get (fun _ => 0) s.saf.heartbeat d + 100000 ∨ dieEclipse s d = true then s
  else
    let s := flag (flag s (dieBit d)) Fld.SAF_EVENT_DIE_LOST
    let s := { s with
      pwr := { s.pwr with rest := (dieStacks d).foldl KSet.add s.pwr.rest }
      saf := { s.saf with lostAt := KMap.set (fun _ => none) s.saf.lostAt d (some s.ns) } }
    failAllSteps (stopLoad s 0x13)

/-- HEARTBEAT_LOSS (R359). -/
def execHeartbeatLoss (die : Fin 2) (s : State) : Out := .next (loseDie (quiet s) die.val)

/-- Scratchpad contents of a cluster that reloadable regions cover are restored; `given` gives sources that lie at a host, by global
address. -/
def refillSpad (s : State) (c : Nat) (given : List (GAddr × List Byte)) : State :=
  (List.range 1024).foldl (fun s i =>
    match spadRegion s c (4096 * i) with
    | none => s
    | some (r, x) => (restoreSpad s c (4096 * i) ((given.find? (fun g => g.1.toNat = r.src + x / 4096 * 4096)).map (·.2))).1) s

/-- DIE_RECOVERY_END (R359): clusters of the die are reset, its stacks wake, and it is released. -/
def execDieRecoveryEnd (die : Fin 2) (sources : List (GAddr × List Byte)) (s : State) : Out :=
  let s := quiet s
  let d := die.val
  .next (match KMap.get (fun _ => none) s.saf.lostAt d with
    | none => s
    | some t =>
      let cs := (List.range 76).map (fun i => 76 * d + i)
      let s := cs.foldl (fun s c => refillSpad (resetCluster s c 6) c sources) s
      let s := { s with
        pwr := { s.pwr with rest := (dieStacks d).foldl KSet.del s.pwr.rest }
        saf := { s.saf with
          lostAt := KMap.set (fun _ => none) s.saf.lostAt d none
          heartbeat := KMap.set (fun _ => 0) s.saf.heartbeat d s.ns } }
      recovered (wr s (dieBit d) 0) t)

/-- DIE_LINK_LOST_TIMEOUT (R359): 10 ms without the link. -/
def execDieLinkLostTimeout (die : Fin 2) (s : State) : Out :=
  let s := quiet s
  .next (match KMap.get (fun _ => none) s.saf.lostAt die.val with
    | none => s
    | some t => if s.ns < t + 10000000 then s else { flag s Fld.SAF_STATUS_DEVICE with faultN := true })

/-! Fault injection (R361) -/

/-- FAULT_INJECTION (R361): a checker of a cluster or a unit that fails to flag its fault has its block retired. -/
def execFaultInjection (c : Option (Fin 152)) (u : Option PairRef) (flagged : Bool) (s : State) : Out :=
  let s := quiet s
  .next (if flagged then s
    else
      let s := flag s Fld.SAF_EVENT_CHECKER
      let s := match c with
        | some c => { s with ras := { s.ras with condemned := KSet.add s.ras.condemned c.val } }
        | none => s
      match u with
      | some u => { s with ras := { s.ras with condemnedUnits := KSet.add s.ras.condemnedUnits (u.stack.val * 1024 + pairRefUnit u) } }
      | none => s)

end Sys2Proof.Machine
end

