-- ==== Sys2Proof/Machine/Ras.lean ====
section
/-! DEFINITION. The RAS block (13): rereads and restores, page repair, row tests, patrol, scrubs, regions and the retirement of units. -/

namespace Sys2Proof.Machine

/-! Restores (R346) -/

/-- The line at the same place of the other copy of a mirrored region. -/
def otherCopy (s : State) (off : Nat) : Option Nat :=
  match mirrorOf s off with
  | some o => some o
  | none => (s.mem.regions.map (·.2)).findSome? (fun r =>
      if r.kind = 2 ∧ r.src % 2 ^ 41 ≤ off ∧ off < r.src % 2 ^ 41 + r.len then some (r.base % 2 ^ 41 + (off - r.src % 2 ^ 41)) else none)

/-- Sequences that hold a page of the pool at a hashed offset. -/
def poolOwners (s : State) (off : Nat) : List Nat :=
  s.kvm.poolUsed.flatMap (fun x =>
    let base := (hkvPool s x.1).1 + 4096 * x.2.1
    if base ≤ off ∧ off < base + 4096 * x.2.2 then
      (tenantSeqs s x.1).filter (fun n =>
        let d := (readDesc s n).1
        d.live && d.hkv && (seqPages d d.lc).any (fun p => let e := (leafEntry s d p).1; eState e = 5 && ePool e = base))
    else [])

/-- Data is lost: sequences that need it end with STEPFAIL (R351). -/
def loseData (s : State) (seqs : List Nat) : State := seqs.foldl loseSequence (flag s Fld.RAS_EVENT_LOST)

/-- Lines of a 4 KiB piece are written over. -/
def rewrite4k (s : State) (off : Nat) (b : List Byte) : State :=
  (List.range 64).foldl (fun s i => writeLine1 s (off / 4096 * 4096 + 64 * i) (lineOf ((b.drop (64 * i)).take 64)) false) s

/-- Stored poison of a line is restored from its region; none where the source has still to be delivered. -/
def restoreLine (s : State) (off : Nat) (given : Option (List Byte)) : Option State :=
  match regionOf s off with
  | some r =>
    if r.kind = 1 then
      (regionSource s r (off - r.base % 2 ^ 41) given).map (fun b => flag (rewrite4k s off b) Fld.RAS_EVENT_REFETCH)
    else
      let y := peekLine s ((otherCopy s off).getD off)
      some (if y.2 then loseData s (poolOwners s off) else flag (writeLine1 s off y.1 false) Fld.RAS_EVENT_REFETCH)
  | none =>
    match otherCopy s off with
    | some o =>
      let y := peekLine s o
      some (if y.2 then loseData s (poolOwners s off) else flag (writeLine1 s off y.1 false) Fld.RAS_EVENT_REFETCH)
    | none => some (loseData s (poolOwners s off))

def testRow (s : State) (row : Nat) : State := { s with ras := { s.ras with rowTests := addNew s.ras.rowTests row } }

def isLineSuspect : Suspect → Bool
  | .line _ _ => true
  | .row _ => false

/-- The oldest uncorrectable line is reread. -/
def reread (s : State) (bad : Bool) (given : Option (List Byte)) : State :=
  match takeFirst isLineSuspect s.ras.suspects with
  | some (.line n off, rest) =>
    let done (s : State) : State := releaseWaiting { s with
      ras := { s.ras with suspects := rest }
      mem := { s.mem with restoring := KSet.del s.mem.restoring n } }
    if !bad then done s
    else
      let s := { s with mem := { s.mem with poison := KSet.add s.mem.poison n } }
      match restoreLine s off given with
      | none => { s with mem := { s.mem with restoring := KSet.add s.mem.restoring n } }
      | some s => testRow (done s) (rowOfLine n)
  | _ => s

/-- RAS_REREAD (R346): whether the reread fails, and the 4 KiB of a source that lies at a host. -/
def execRasReread (bad : Bool) (source : Option (List Byte)) (s : State) : Out := .next (reread (quiet s) bad source)

/-! Processor-mode rows -/

/-- A row by its physical number: stack, unit of the stack, bank of the pair, row. -/
structure RowAt where
  stack : Nat
  unit : Nat
  half : Nat
  row : Nat
  deriving DecidableEq, Repr

def rowAt (n : Nat) : RowAt :=
  let bank := n / 2 ^ 16 % 16
  ⟨n / 2 ^ 27, unitNo (n / 2 ^ 21 % 64) (n / 2 ^ 20 % 2) (bank / 2), bank % 2, n % 2 ^ 16⟩

def RowAt.placed (r : RowAt) : Nat := placedUnit r.stack r.unit
def rowProc (s : State) (r : RowAt) : Bool := procDie s.img r.stack (dieOfChan (r.unit / 16))

/-- The frame in use that holds a row, with its first row. -/
def frameOfRow (s : State) (r : RowAt) : Option (Pair × Nat × Nat) :=
  match pairOf s r.placed with
  | none => none
  | some p =>
    let k := (geomRec p.geom).frameRows
    let f := r.row / k
    if KMap.get (fun _ => 0) p.refs f = 0 then none else some (p, f, f * k)

/-! Page repair (R347) -/

/-- Where quantity w of token j lies: page row and first bit. -/
def quantityBit (g : Geom) (w j : Nat) : Nat × Nat :=
  if w < g.d then (g.keyRow j, 8 * g.slotByte j + w * g.width)
  else if w < g.d + g.scales then (2 * g.keyRows, 8 * (g.keyScaleByte j + (w - g.d)))
  else if w < 2 * g.d + g.scales then (g.valRow j, 8 * g.slotByte j + (w - g.d - g.scales) * g.width)
  else (2 * g.keyRows, 8 * (g.valScaleByte j + (w - 2 * g.d - g.scales)))

/-- Bits of a quantity. -/
def quantityWidth (g : Geom) (w : Nat) : Nat :=
  if (g.d ≤ w ∧ w < g.d + g.scales) ∨ 2 * g.d + g.scales ≤ w then 8 else g.width

def wordBit (g : Geom) (w : Nat) : Nat × Nat := (g.sumRow + w * g.wordBytes / 1024, w * g.wordBytes % 1024 * 8)

/-- The 32-byte column of a bit has been lost. -/
def lostAt (lost : List (Nat × Nat)) (x : Nat × Nat) : Bool := lost.contains (x.1, x.2 / 256)

/-- The code whose quantity is a value: the first, so that zero is the positive one (Table 10.2). -/
def codeOf (g : Geom) (w : Nat) (v : Int) : Nat :=
  let width := quantityWidth g w
  if width = g.width ∧ g.fmt ≠ 1 ∧ ((w < g.d) ∨ (g.d + g.scales ≤ w ∧ w < 2 * g.d + g.scales)) then
    ((List.range (2 ^ width)).find? (fun c => quantity g.fmt c = v)).getD 0
  else (v % (2 ^ width : Int)).toNat

/-- Bits of a row replaced. -/
def putElem (row : List Byte) (bit width code : Nat) : List Byte :=
  let x := leNat row
  natLe row.length (x - bitsOf x bit width * 2 ^ bit + code % 2 ^ width * 2 ^ bit)

/-- Lost tokens of each checksum word. -/
def lostTokens (g : Geom) (lost : List (Nat × Nat)) (w : Nat) : List Nat := (List.range 64).filter (fun j => lostAt lost (quantityBit g w j))

/-- Every checksum word has at most one lost quantity among its addends and itself. -/
def repairable (g : Geom) (lost : List (Nat × Nat)) : Bool :=
  (List.range g.words).all (fun w =>
    decide ((lostTokens g lost w).length + (if lostAt lost (wordBit g w) then 1 else 0) ≤ 1))

/-- A value modulo 2^w, as signed. -/
def signedMod (w : Nat) (v : Int) : Int := signedOf w (v % (2 ^ w : Int)).toNat

/-- The page's rows rebuilt from its checksum words. -/
def rebuild (g : Geom) (rows : List (List Byte)) (lost : List (Nat × Nat)) : List (List Byte) :=
  let row (r : Nat) : List Byte := rows.getD r []
  let words := sumWords g row
  let qs := (List.range 64).map (fun j => tokenQuantities g (slotToken g row j))
  let fixed := (List.range g.words).foldl (fun (rs : List (List Byte)) w =>
    match lostTokens g lost w with
    | [] => rs
    | j :: _ =>
      let others := (qs.zipIdx.map (fun x => if x.2 = j then 0 else x.1.getD w 0)).foldl (· + ·) 0
      let v := signedMod (8 * g.wordBytes) ((words.getD w 0 : Int) - others)
      let p := quantityBit g w j
      rs.set p.1 (putElem (rs.getD p.1 []) p.2 (quantityWidth g w) (codeOf g w v))) rows
  let sums := pageWords g (fun r => fixed.getD r [])
  let ws := words.zipIdx.map (fun x => if lostAt lost (wordBit g x.2) then sums.getD x.2 0 else x.1)
  fixed.take g.sumRow ++ sumRowBytes g ws

/-- Sequences that use a frame. -/
def frameOwners (s : State) (t u base : Nat) : List Nat :=
  (tenantSeqs s t).filter (fun n =>
    let d := (readDesc s n).1
    d.live && d.tenant = t && (seqPages d d.lc).any (fun p =>
      let e := (leafEntry s d p).1
      (eState e = 1 || eState e = 2) && eUnit e = u && eBase e = base))

/-- Suspect rows of a frame are settled: their rows go to testing. -/
def settleRows (s : State) (u base rows : Nat) : State :=
  let here (x : Suspect) : Option Nat := match x with
    | .row n => let r := rowAt n; if r.placed = u ∧ base ≤ r.row ∧ r.row < base + rows then some n else none
    | .line _ _ => none
  let ns := s.ras.suspects.filterMap here
  ns.foldl testRow { s with ras := { s.ras with suspects := s.ras.suspects.filter (fun x => (here x).isNone) } }

/-- No frame is free for a repair: steps 1 and 2 of R266, then parking. -/
def makeRepairRoom (s : State) (owner : Option Nat) (n code : Nat) : State :=
  match owner with
  | none => s
  | some q =>
    let d := (readDesc s q).1
    if stackZeroing s n code + swapPending s d.tenant (some n) code > 0 then s
    else
      match (if rd s Fld.KVM_TCFG_EVICT d.tenant = 1 then victimPage s d (some n) else none) with
      | some x => evict s d x.1 x.2
      | none =>
        match (if s.kvm.swaps.length < 64 then chooseVictim s q d (some n) else none) with
        | some v => queueSwap s v (readDesc s v).1 (some n)
        | none => if s.kvm.parked.contains q then s else park s q d

/-- The page of the oldest suspect row is repaired; `lost` are the columns that its maintenance reads report, by page row and column. -/
def repairPage (s : State) (lost : List (Nat × Nat)) : State :=
  match takeFirst (fun x => !isLineSuspect x) s.ras.suspects with
  | some (.row n, rest) =>
    let r := rowAt n
    let drop (s : State) : State := testRow { s with ras := { s.ras with suspects := rest } } n
    match frameOfRow s r with
    | none => drop s
    | some (p, f, base) =>
      let g := geomRec p.geom
      let u := r.placed
      match frameTenant s (frameKey u base) with
      | none => drop s
      | some t =>
        let owners := frameOwners s t u base
        if !repairable g lost then settleRows (loseData s owners) u base g.frameRows
        else
          match moveFrameIn s u f [unitStack u] with
          | none => makeRepairRoom s owners.head? (unitStack u) p.geom
          | some _ =>
            let fixed := rebuild g ((List.range g.rows).map (frameRow s u base)) lost
            let s := fixed.zipIdx.foldl (fun s x => setFrameRow s u base x.2 x.1) s
            match moveFrameIn s u f [unitStack u] with
            | none => s
            | some s => settleRows (flag s Fld.RAS_EVENT_REPAIR) u base g.frameRows
  | _ => s

/-- PAGE_REPAIR (R347). -/
def execPageRepair (lost : List (Nat × Nat)) (s : State) : Out := .next (repairPage (quiet s) lost)

/-! Row tests (R348) -/

/-- The bank of a row. -/
def bankOfRow (n : Nat) : Nat := n / 2 ^ 16
def sparesOf (s : State) (bank : Nat) : Nat := KMap.get (fun _ => 4) s.ras.spareRows bank

/-- RAS_ROWS (Table 13.7). -/
def putRows (s : State) : State :=
  let l := s.ras.spareRows.map (·.2)
  wr (wr s Fld.RAS_ROWS_MINLEFT (l.foldl Nat.min 4)) Fld.RAS_ROWS_EXHAUSTED (l.filter (fun x => x = 0)).length

/-- A row that fails its test takes a spare row of its bank, or stays in service where none is left. -/
def retireRow (s : State) (n : Nat) : State :=
  let k := sparesOf s (bankOfRow n)
  if k = 0 then { s with ras := { s.ras with exhausted := KSet.add s.ras.exhausted n } }
  else
    let s := flag s Fld.RAS_EVENT_RETIRED
    let s := if s.ras.scrubRows.contains n then inc s Fld.RAS_SCRUB_RETIRED_COUNT else s
    putRows { s with
      ras := { s.ras with spareRows := KMap.set (fun _ => 4) s.ras.spareRows (bankOfRow n) (k - 1) }
      ckr := { s.ckr with repaired := true } }

/-- ROW_TEST (R348): the oldest row due is tested. A processor-mode row in use is first moved or freed by the KV manager. -/
def execRowTest (fails : Bool) (s : State) : Out :=
  let s := quiet s
  .next (match s.ras.rowTests with
    | [] => s
    | n :: rest =>
      let done (s : State) : State := { s with ras := { s.ras with rowTests := rest } }
      if !fails then done s
      else
        let r := rowAt n
        if rowProc s r then
          match frameOfRow s r with
          | some (_, f, _) =>
            match moveFrame s r.placed f with
            | some s => retireRow (done s) n
            | none => s
          | none => retireRow (done s) n
        else retireRow (done s) n)

/-! Patrol and scrub (R349, R350) -/

/-- A hashed line is read for its check: whether it was corrected, and whether it is uncorrectable. Unwritten lines are not read. -/
def checkLine (s : State) (off : Nat) (ecc : Ecc) : State × Bool × Bool :=
  match lineNo s off with
  | none => (s, false, false)
  | some n =>
    if unitOfLine n ∈ s.mem.written then
      let r := fetchLine s off n ecc
      let bad := r.2.2
      let s := if bad then { r.1 with ras := { r.1.ras with suspects := addNew r.1.ras.suspects (.line n (off / 64 * 64)) } } else r.1
      (s, decide (ecc = .corrected), bad)
    else (s, false, false)

def rowIsWritten (s : State) (r : RowAt) : Bool :=
  rowWritten s r.stack (r.unit / 16) (r.unit / 8 % 2) (2 * (r.unit % 8) + r.half) r.row

/-- Placed offset of a row. -/
def RowAt.offset (r : RowAt) : Nat := r.placed * 2 ^ 27 + r.half * 2 ^ 26 + r.row * 2 ^ 10

/-- A processor-mode row is read for its check. -/
def checkRow (s : State) (n : Nat) (ecc : Ecc) : State × Bool × Bool :=
  let r := rowAt n
  if !rowProc s r || !rowIsWritten s r then (s, false, false)
  else
    match ecc with
    | .clean => (s, false, false)
    | .corrected => (rowCorrected (recordCe s) n, true, false)
    | .uncorrectable =>
      let s := recordUe s 1 (0xC0 + r.stack) (localAddr s 1 r.offset)
      ({ s with ras := { s.ras with suspects := addNew s.ras.suspects (.row n) } }, false, true)

/-- PATROL_READ (R349): a hashed line, or a row of a core die in processor mode. -/
def execPatrolRead (row : Bool) (addr : BitVec 41) (ecc : Ecc) (s : State) : Out :=
  let s := quiet s
  .next (if row then (checkRow s addr.toNat ecc).1 else (checkLine s addr.toNat ecc).1)

/-- Base of the scrub's range, and its length. -/
def scrubBase (s : State) : Nat := rd64 s Fld.RAS_SCRUB_BASE_LO_V Fld.RAS_SCRUB_BASE_HI_V
def scrubLen (s : State) : Nat := rd64 s Fld.RAS_SCRUB_LEN_LO_V Fld.RAS_SCRUB_LEN_HI_V

/-- Physical row of a placed offset. -/
def placedRow (off : Nat) : Nat :=
  let u := off / 2 ^ 27
  physRow (unitStack u) (u % 1024 / 16) (u / 8 % 2) (2 * (u % 8) + off / 2 ^ 26 % 2) (off / 2 ^ 10 % 2 ^ 16)

/-- A range of one of the two forms of R350. -/
def scrubRange (s : State) : Bool :=
  let a := BitVec.ofNat 64 (scrubBase s)
  let len := scrubLen s
  if !isLocal s a then false
  else if spaceOf a = 0 then offOf a % 4096 = 0 && len % 4096 = 0 && decide (offOf a + len ≤ hashSize s.img.hash)
  else if spaceOf a = 1 then
    offOf a % 1024 = 0 && len % 1024 = 0 && decide (offOf a + len ≤ 2 ^ 40) &&
      (List.range (len / 1024)).all (fun i => rowProc s (rowAt (placedRow (offOf a + 1024 * i))))
  else false

/-- A scrub ends. -/
def endScrub (s : State) (st err : Nat) : State :=
  let s := flag { s with ras := { s.ras with scrub := none } } Fld.RAS_EVENT_SCRUB_END
  wr (wr s Fld.RAS_SCRUB_STATUS_STATE st) Fld.RAS_SCRUB_STATUS_ERR err

def scrubProgress (s : State) (pos : Nat) : State :=
  let total := scrubLen s / 64
  if total = 0 then progress s Fld.RAS_SCRUB_POS_LO_POS Fld.RAS_SCRUB_POS_HI_POS Fld.RAS_SCRUB_PCT_PCT 0 1 1
  else progress s Fld.RAS_SCRUB_POS_LO_POS Fld.RAS_SCRUB_POS_HI_POS Fld.RAS_SCRUB_PCT_PCT pos pos total

/-- A write of RAS_SCRUB_CTRL: START and ABORT (R350). -/
def scrubCtrl (s : State) (who : Requester) (start abort : Bool) : State :=
  if !mayImage who then s
  else if abort then (if s.ras.scrub.isSome then endScrub s 3 3 else s)
  else if !start then s
  else if s.ras.scrub.isSome then wr s Fld.RAS_SCRUB_STATUS_ERR 2
  else
    let s := wr (wr (wr s Fld.RAS_SCRUB_CE_COUNT 0) Fld.RAS_SCRUB_UE_COUNT 0) Fld.RAS_SCRUB_RETIRED_COUNT 0
    let s := wr64 (wr64 s Fld.RAS_SCRUB_FIRST_LO_V Fld.RAS_SCRUB_FIRST_HI_V 0) Fld.RAS_SCRUB_LAST_LO_V Fld.RAS_SCRUB_LAST_HI_V 0
    let s := progress s Fld.RAS_SCRUB_POS_LO_POS Fld.RAS_SCRUB_POS_HI_POS Fld.RAS_SCRUB_PCT_PCT 0 0 1
    if !scrubRange s then endScrub s 3 1
    else
      let s := wr (wr s Fld.RAS_SCRUB_STATUS_STATE 1) Fld.RAS_SCRUB_STATUS_ERR 0
      { s with ras := { s.ras with scrub := some 0, scrubRows := [] } }

/-- Line i of the range has been written. -/
def scrubWritten (s : State) (i : Nat) : Bool :=
  let a := BitVec.ofNat 64 (scrubBase s)
  let off := offOf a + 64 * i
  if spaceOf a = 0 then (lineNo s off).any (fun n => s.mem.written.contains (unitOfLine n))
  else rowIsWritten s (rowAt (placedRow off))

/-- The next written line of the range is read. -/
def scrubStep (s : State) (ecc : Ecc) : State :=
  match s.ras.scrub with
  | none => s
  | some pos =>
    let total := scrubLen s / 64
    let a := BitVec.ofNat 64 (scrubBase s)
    match (List.range (total - pos)).find? (fun i => scrubWritten s (pos + i)) with
    | none => endScrub (scrubProgress s total) 2 0
    | some i =>
      let off := offOf a + 64 * (pos + i)
      let hashed := spaceOf a = 0
      let row := if hashed then ((lineNo s off).map rowOfLine).getD 0 else placedRow off
      let r := if hashed then checkLine s off ecc else checkRow s row ecc
      let s := if r.2.1 then inc r.1 Fld.RAS_SCRUB_CE_COUNT else r.1
      let s := if r.2.2 then
          let x := scrubBase s + 64 * (pos + i)
          let s := if rd s Fld.RAS_SCRUB_UE_COUNT = 0 then wr64 s Fld.RAS_SCRUB_FIRST_LO_V Fld.RAS_SCRUB_FIRST_HI_V x else s
          inc (wr64 s Fld.RAS_SCRUB_LAST_LO_V Fld.RAS_SCRUB_LAST_HI_V x) Fld.RAS_SCRUB_UE_COUNT
        else s
      let s := if r.2.1 || r.2.2 then { s with ras := { s.ras with scrubRows := KSet.add s.ras.scrubRows row } } else s
      let next := pos + i + 1
      let s := scrubProgress { s with ras := { s.ras with scrub := some next } } next
      if next ≥ total then endScrub s 2 0 else s

/-- SCRUB_READ (R350). -/
def execScrubRead (ecc : Ecc) (s : State) : Out := .next (scrubStep (quiet s) ecc)

/-! Regions (R345, R362) -/

def regionAt (s : State) (i : Nat) : Region := KMap.get (fun _ => Region.none) s.mem.regions i

/-- A write to RAS_RGN_SEL loads the entry into the staging registers. -/
def regionSelect (s : State) (who : Requester) (i : Nat) : State :=
  if !mayImage who then s
  else
    let r := regionAt s i
    let s := wr s Fld.RAS_RGN_SEL_INDEX i
    let s := wr64 s Fld.RAS_RGN_BASE_LO_V Fld.RAS_RGN_BASE_HI_V r.base
    let s := wr64 s Fld.RAS_RGN_LEN_LO_V Fld.RAS_RGN_LEN_HI_V r.len
    wr64 s Fld.RAS_RGN_SRC_LO_V Fld.RAS_RGN_SRC_HI_V r.src

/-- Two regions overlap. -/
def regionsOverlap (a b : Region) : Bool :=
  a.kind ≠ 0 && b.kind ≠ 0 && decide (a.base < b.base + b.len) && decide (b.base < a.base + a.len)

/-- An entry that R345 accepts at index i. -/
def regionOk (s : State) (i : Nat) (r : Region) : Bool :=
  let base := BitVec.ofNat 64 r.base
  let src := BitVec.ofNat 64 r.src
  let others := (s.mem.regions.filter (fun e => e.1 ≠ i)).map (·.2)
  r.kind = 0 ||
    (r.base % 4096 = 0 && r.len % 4096 = 0 && r.src % 4096 = 0 && decide (0 < r.len) && decide (r.len ≤ 2 ^ 30) && isLocal s base &&
      !others.any (regionsOverlap r) &&
      (if r.kind = 1 then (spaceOf base = 0 || spaceOf base = 2) && (spaceOf src = 0 || spaceOf src = 4)
       else r.kind = 2 && spaceOf base = 0 && spaceOf src = 0 && isLocal s src && !mirrorShares s.img.hash r))

/-- A write of 1 to RAS_RGN_CTRL.COMMIT applies the staged entry with KIND, or refuses it. -/
def regionCommit (s : State) (who : Requester) (kind : Nat) : State :=
  if !mayImage who then s
  else
    let s := wr s Fld.RAS_RGN_CTRL_KIND kind
    let i := rd s Fld.RAS_RGN_SEL_INDEX
    let r : Region := ⟨kind, rd64 s Fld.RAS_RGN_BASE_LO_V Fld.RAS_RGN_BASE_HI_V, rd64 s Fld.RAS_RGN_LEN_LO_V Fld.RAS_RGN_LEN_HI_V,
      rd64 s Fld.RAS_RGN_SRC_LO_V Fld.RAS_RGN_SRC_HI_V⟩
    if regionOk s i r then
      { s with mem := { s.mem with regions := KMap.set (fun _ => Region.none) s.mem.regions i (if kind = 0 then Region.none else r) } }
    else flag s Fld.RAS_RGN_CTRL_ERR

/-! Units (R355) -/

/-- UNIT_RETIRE (R355): the pages of a condemned unit move, and it is never allocated again. -/
def execUnitRetire (u : PairRef) (s : State) : Out :=
  let s := quiet s
  let key := u.stack.val * 1024 + pairRefUnit u
  .next (if !s.ras.condemnedUnits.contains key then s
    else
      let s := { s with saf := { s.saf with units := KSet.add s.saf.units key } }
      let r := clearPair s (placedUnit u.stack.val (pairRefUnit u))
      if r.2 then
        flag { r.1 with ras := { r.1.ras with
          condemnedUnits := KSet.del r.1.ras.condemnedUnits key
          retiredUnits := KSet.add r.1.ras.retiredUnits key } } Fld.RAS_EVENT_RETIRED
      else r.1)

end Sys2Proof.Machine
end

