-- ==== Sys2Proof/Machine/Bst.lean ====
section
/-! DEFINITION. Self-test: rotation of clusters and bank-pair units, directed tests (14 R364 to R369, R380). -/

namespace Sys2Proof.Machine

/-! Whether a test may run (R365) -/

/-- The AVSBus state of a rail. -/
def avsOf (s : State) (r : Nat) : Avs := KMap.get Avs.reset s.pwr.avs r

/-- A die's diode reads below 100 °C and is neither suspect nor failed; dies are numbered as in THM_DIE (R406). -/
def diodeFit (s : State) (i : Nat) : Bool :=
  decide (signedOf 8 (rd s Fld.THM_DIE_DIODE i) < 100) && rd s Fld.THM_DIE_STATE i = 0

/-- BST_STATUS.REFUSE for a domain, 0 where every condition holds: its AVSBus rail if it has one, its die's sensor, and what the rail's
monitor and the PLL report. -/
def testRefusal (s : State) (rail : Option Nat) (die : Nat) (volts locked : Bool) : Nat :=
  if !volts || rail.any (fun r => (avsOf s r).pending) then 1
  else if !locked || rd s Fld.CKR_REF_STATUS_HOLDOVER = 1 then 2
  else if !diodeFit s die then 3
  else 0

/-- BST_LAST (Table 14.8). -/
def setLast (s : State) (k : TestKind) (result : Nat) : State :=
  let r := match k with
    | .cluster c => (0, c)
    | .unit n u => (1, placedUnit n u)
    | .directed d i => (d, i)
  wr (wr (wr s Fld.BST_LAST_KIND r.1) Fld.BST_LAST_INDEX r.2) Fld.BST_LAST_RESULT result

/-- A refusal is recorded, to be retried (R365). -/
def refuseTest (s : State) (k : TestKind) (code : Nat) : State :=
  let s := setLast (flag (wr s Fld.BST_STATUS_REFUSE code) Fld.BST_EVENT_REFUSED) k 3
  { s with bst := { s.bst with refused := addNew s.bst.refused k } }

/-- Rotation starts no test before READY, in STANDBY, under HOLD, or while a load runs (R366, R369, R380). -/
def rotationOff (s : State) : Bool :=
  !isReady s || s.pwr.standby || rd s Fld.BST_CTRL_HOLD = 1 || s.load.running

def isTest (k : TestKind) (t : Test) : Bool := decide (t.kind = k)

/-- PHASE follows the tests that run. -/
def setTests (s : State) (ts : List Test) : State :=
  wr { s with bst := { s.bst with tests := ts } } Fld.BST_STATUS_PHASE (if ts.isEmpty then 0 else 2)

def bstProgress (s : State) (done total : Nat) : State :=
  progress s Fld.BST_POS_LO_POS Fld.BST_POS_HI_POS Fld.BST_PCT_PCT done done total

def clusterField (d : Nat) : Field := if d = 0 then Fld.BST_STATUS_CLU_A else Fld.BST_STATUS_CLU_B

/-! Clusters (R366) -/

/-- Accesses of a cluster that have left it and not completed. -/
def openAccesses (s : State) (c : Nat) : Bool :=
  s.mem.waiting.any (fun w => ofCluster c w.origin) || s.mem.retries.any (fun w => ofCluster c w.origin) ||
  s.fab.requests.any (fun r => ofCluster c r.origin) ||
  s.hpt.any (fun e => (e.2.outbound ++ e.2.open_).any (fun r => ofCluster c r.origin))

def isClusterReq (c : Nat) : Requester → Bool
  | .cluster d => d.val = c
  | _ => false

/-- Nothing of a cluster is under way outside it: its loads, DMA, stack commands and requests have completed, and no tile is in a bank. -/
def settled (s : State) (c : Nat) : Bool :=
  let x := cl s c
  x.runs.isEmpty && x.loads.isEmpty && x.dma.isEmpty && x.scmds.isEmpty && !openAccesses s c &&
  !(s.kvm.queue ++ s.kvm.held).any (fun e => isClusterReq c e.who) &&
  !(s.fab.collQueue ++ s.fab.collHeld).any (fun e => isClusterReq c e.1) && !s.fab.colls.any (fun e => isClusterReq c e.who)

/-- It stands at a tile boundary, or runs nothing (R173). -/
def atRest (s : State) (c : Nat) : Bool := ((cl s c).running.isNone || (cl s c).boundary) && settled s c

/-- It holds no work at all. -/
def isIdle (s : State) (c : Nat) : Bool :=
  let x := cl s c
  x.running.isNone && x.queue.isEmpty && x.tiles.isEmpty && x.ending.isEmpty && settled s c

/-- A cluster that rotation may test: not retired, and on (R386). One in eclipse after a mismatch leaves it by its test (Table 13.5). -/
def mayTest (s : State) (c : Nat) : Bool :=
  !s.ras.retiredClusters.contains c && !s.ras.condemned.contains c && rd s Fld.CLU_PWR_STATE c = 0

/-- The next cluster of a die in ascending order. -/
def nextCluster (s : State) (d : Nat) : Option Nat :=
  let i := KMap.get (fun _ => 0) s.bst.nextCluster d
  ((List.range 76).map (fun k => 76 * d + (i + k) % 76)).find? (mayTest s)

def testsCluster (s : State) (d : Nat) : Bool := s.bst.tests.any (fun t => match t.kind with
  | .cluster c => dieOfCluster c = d
  | _ => false)

/-- The cluster enters eclipse and its test begins. -/
def beginTest (s : State) (c : Nat) (cons : List Nat) : State :=
  let d := dieOfCluster c
  let s := { s with
    saf := { s.saf with clusters := KSet.add s.saf.clusters c }
    bst := { s.bst with nextCluster := KMap.set (fun _ => 0) s.bst.nextCluster d ((c % 76 + 1) % 76) } }
  bstProgress (wr (setTests s (s.bst.tests ++ [⟨.cluster c, false, cons, []⟩])) (clusterField d) c) 0 65536

/-- The registers of a cluster's block as those of another's. -/
def moveRegs (s : State) (a b : Nat) : State :=
  let base (c : Nat) : Nat := Reg.CLU_LAUNCH_LO + 65536 * c
  let s := { s with regs := s.regs.resetWhere 0 (inCluBlock b) }
  let s := (s.regs.filter (fun e => inCluBlock a e.1)).foldl (fun (s : State) e =>
    { s with regs := s.regs.write (e.1 - base a + base b) e.2 }) s
  { s with
    regs := s.regs.resetWhere 0 (inCluBlock a)
    shadow := (s.shadow.filter (fun e => inCluBlock a e.1)).foldl (fun m e => KMap.set (fun _ => 0#32) m (e.1 - base a + base b) e.2)
      (s.shadow.filter (fun e => !inCluBlock a e.1 && !inCluBlock b e.1)) }

/-- Launches that a cluster's LAUNCH slot made count for the cluster that now holds its context. -/
def moveVia (s : State) (a b : Nat) : State :=
  let f (v : Option (Nat × Nat)) : Option (Nat × Nat) := v.map (fun x => if x.1 = a then (b, x.2) else x)
  let g (l : Launch) : Launch := { l with via := f l.via }
  { s with
    clu := s.clu.map (fun e => (e.1, { e.2 with
      running := e.2.running.map g
      queue := e.2.queue.map g
      ending := e.2.ending.map (fun x => { x with launch := g x.launch }) }))
    seq := { s.seq with conRuns := s.seq.conRuns.map (fun r => { r with via := f r.via }) } }

/-- The context of a cluster moves to a spare, which takes its logical number and resumes (R366 steps 3 and 4). -/
def swapOutCluster (s : State) (c n l : Nat) : State :=
  let s := moveRegs { s with mem := moveSpad s.mem c n } c n
  let x := cl s c
  let s := setCl (setCl s n { x with stopped := false, boundary := false }) c { Cluster.reset with launchNo := x.launchNo, nextId := x.nextId }
  let s := moveVia (wr s Fld.CLU_ARR_STATUS_PREEMPT 0 n) c n
  { s with img := { s.img with lmap := s.img.lmap.set l n } }

/-- Admission of a cluster's loops is held (R366). -/
def holdLoops (s : State) (ls : List Nat) : State :=
  if ls.isEmpty then s
  else flag { s with bst := { s.bst with inPlace := ls.foldl addNew s.bst.inPlace } } Fld.BST_STATUS_INPLACE

/-- The test of a cluster starts, or what has to come before it is asked for: a stop at a tile boundary, or the end of its loops' steps. -/
def startCluster (s : State) (c : Nat) : State :=
  let cons := (logicalOf s.img c).elim [] (consOf s.img)
  match logicalOf s.img c, cons with
  | some l, _ :: _ =>
    match (List.range 152).find? (fun n => freeSpare s (dieOfCluster c) n && rd s Fld.CLU_PWR_STATE n = 0 && isIdle s n) with
    | some n => if atRest s c then beginTest (swapOutCluster s c n l) c cons else preempt s c
    | none =>
      let s := holdLoops s (loopsOn s.img c)
      if (loopsWith s c).isEmpty && isIdle s c then beginTest s c cons else s
  | _, _ => if isIdle s c then beginTest s c [] else s

/-- One rotation slot of a die. -/
def rotationSlot (s : State) (d : Nat) (volts locked : Bool) : State :=
  if rotationOff s || testsCluster s d then s
  else
    match nextCluster s d with
    | none => s
    | some c =>
      let code := testRefusal s (some d) d volts locked
      if code ≠ 0 then refuseTest s (.cluster c) code else startCluster s c

/-- ROTATION_SLOT (R366): a repeated slot goes on with a test that had to wait. -/
def execRotationSlot (die : Fin 2) (volts locked : Bool) (s : State) : Out := .next (rotationSlot (quiet s) die.val volts locked)

/-- Steps of the loops bound to constellations are failed and discarded (R341). -/
def failStepsCons (s : State) (cons : List Nat) : State :=
  ((s.img.loops.filter (fun r => cons.contains r.con && !(loopOf s r.slot).steps.isEmpty)).map (·.slot)).foldl discardStep s

/-- Loops held by tests that still run. -/
def heldLoops (s : State) : List Nat :=
  s.bst.tests.flatMap (fun t => match t.kind with
    | .cluster c => if (logicalOf s.img c).isSome then loopsOn s.img c else []
    | _ => [])

/-- A domain fails (R368). -/
def domainFails (s : State) (k : TestKind) : State :=
  inc (flag (setLast s k 2) Fld.BST_EVENT_FAIL) Fld.BST_FAILS_COUNT

/-- A domain passes. -/
def domainPasses (s : State) (t : Test) (key : Nat) : State :=
  let s := setLast s t.kind (if t.second then 1 else 0)
  let s := { s with bst := { s.bst with testedAt := KMap.set (fun _ => 0) s.bst.testedAt key s.ns } }
  if t.second then flag s Fld.BST_EVENT_RETEST else s

/-- A cluster's test ends: the signature matches or not. -/
def clusterTestEnd (s : State) (c : Nat) (ok : Bool) : State :=
  match takeFirst (isTest (.cluster c)) s.bst.tests with
  | none => s
  | some (t, rest) =>
    if !ok && !t.second then bstProgress (setTests s ({ t with second := true } :: rest)) 0 65536
    else
      let s := bstProgress (wr (setTests s rest) (clusterField (dieOfCluster c)) 255) 65536 65536
      let s := { s with bst := { s.bst with inPlace := s.bst.inPlace.filter (fun l => (heldLoops s).contains l) } }
      let s := wr s Fld.BST_STATUS_INPLACE (if s.bst.inPlace.isEmpty then 0 else 1)
      if ok then
        let x := cl s c
        let s := setCl (resetCluster s c 1) c { Cluster.reset with queue := x.queue, launchNo := x.launchNo, nextId := x.nextId }
        domainPasses { s with saf := { s.saf with clusters := KSet.del s.saf.clusters c } } t c
      else
        failStepsCons (domainFails { s with ras := { s.ras with condemned := KSet.add s.ras.condemned c } } t.kind) t.cons

/-- CLUSTER_TEST_END (R368). -/
def execClusterTestEnd (c : Fin 152) (ok : Bool) (s : State) : Out := .next (clusterTestEnd (quiet s) c.val ok)

/-! Bank-pair units (R367) -/

def unitKey (n u : Nat) : Nat := 1024 * (n + 1) + u

/-- The next unit of a stack in ascending order. -/
def nextTestUnit (s : State) (n : Nat) : Option Nat :=
  let i := KMap.get (fun _ => 0) s.bst.nextUnit n
  ((List.range 1024).map (fun k => (i + k) % 1024)).find? (fun u =>
    !s.ras.retiredUnits.contains (n * 1024 + u) && !s.ras.condemnedUnits.contains (n * 1024 + u))

/-- A unit stops taking commands, its held entries are flushed, its query slots are saved, and its test begins. -/
def startUnit (s : State) (n u : Nat) : State :=
  let s := flushWhere s n u (fun _ => true)
  let t : Test := ⟨.unit n u, false, [], (bankUnit (stk s n) u).slots⟩
  let s := { s with bst := { s.bst with nextUnit := KMap.set (fun _ => 0) s.bst.nextUnit n ((u + 1) % 1024) } }
  bstProgress (setTests s (s.bst.tests ++ [t])) 0 4096

def testsUnit (s : State) (n : Nat) : Bool := s.bst.tests.any (fun t => match t.kind with
  | .unit m _ => m = n
  | _ => false)

def unitSlot (s : State) (n : Nat) (volts locked : Bool) : State :=
  if rotationOff s || !isLit n || decide (n ∈ s.pwr.rest) || testsUnit s n then s
  else
    match nextTestUnit s n with
    | none => s
    | some u =>
      let code := testRefusal s none (3 + n) volts locked
      if code ≠ 0 then refuseTest s (.unit n u) code else startUnit s n u

/-- UNIT_TEST_SLOT (R367). -/
def execUnitTestSlot (stack : Fin 12) (volts locked : Bool) (s : State) : Out := .next (unitSlot (quiet s) stack.val volts locked)

/-- A unit's test ends once its held entries have left it: it is re-initialised and its query slots are restored. -/
def unitTestEnd (s : State) (n u : Nat) (ok : Bool) : State :=
  match takeFirst (isTest (.unit n u)) s.bst.tests with
  | none => s
  | some (t, rest) =>
    if !(unitHeld s n u).isEmpty then s
    else if !ok && !t.second then bstProgress (setTests s ({ t with second := true } :: rest)) 0 4096
    else
      let s := bstProgress (setTests s rest) 4096 4096
      let s := modStk s n (fun k => setBankUnit k u { BankUnit.reset with slots := t.slots })
      if ok then domainPasses { s with saf := { s.saf with units := KSet.del s.saf.units (n * 1024 + u) } } t (unitKey n u)
      else domainFails { s with ras := { s.ras with condemnedUnits := KSet.add s.ras.condemnedUnits (n * 1024 + u) } } t.kind

/-- UNIT_TEST_END (R367, R368). -/
def execUnitTestEnd (u : PairRef) (ok : Bool) (s : State) : Out := .next (unitTestEnd (quiet s) u.stack.val (pairRefUnit u) ok)

/-! Retries, holds, age -/

/-- TEST_REFUSAL_RETRY (R365): the oldest refused test is tried again. -/
def execTestRefusalRetry (volts locked : Bool) (s : State) : Out :=
  let s := quiet s
  .next (match s.bst.refused with
    | [] => s
    | k :: rest =>
      if rotationOff s then s
      else
        let s := { s with bst := { s.bst with refused := rest } }
        match k with
        | .cluster c =>
          let d := dieOfCluster c
          if testsCluster s d || !mayTest s c then s
          else
            let code := testRefusal s (some d) d volts locked
            if code ≠ 0 then refuseTest s k code else startCluster s c
        | .unit n u =>
          if decide (n ∈ s.pwr.rest) || testsUnit s n then s
          else
            let code := testRefusal s none (3 + n) volts locked
            if code ≠ 0 then refuseTest s k code else startUnit s n u
        | .directed _ _ => s)

/-- BST_HOLD_EXPIRY (R380). -/
def execBstHoldExpiry (s : State) : Out := .next (wr (quiet s) Fld.BST_CTRL_HOLD 0)

/-- When the least recently tested cluster or unit that is still in service was tested, in ns (R369). -/
def oldestTest (s : State) : Nat :=
  let at_ (k : Nat) : Nat := Nat.max s.bst.bootAt (KMap.get (fun _ => 0) s.bst.testedAt k)
  let cs := ((List.range 152).filter (fun c => !s.ras.retiredClusters.contains c)).map at_
  let us := litStacks.flatMap (fun n => ((List.range 1024).filter (fun u => !s.ras.retiredUnits.contains (n * 1024 + u))).map
    (fun u => at_ (unitKey n u)))
  (cs ++ us).foldl Nat.min s.ns

/-- BST_AGE.SECONDS. -/
def testAge (s : State) : Nat := Nat.min 65535 ((s.ns - oldestTest s) / 1000000000)

/-- BEHIND_CHECK (R369). -/
def execBehindCheck (s : State) : Out :=
  let s := quiet s
  .next (if oldestTest s + 720000000000 < s.ns then flag s Fld.BST_EVENT_BEHIND else s)

/-! Directed tests (R380) -/

/-- Directed tests run in MANUFACTURE and RETURN alone. -/
def mayDirect (s : State) : Bool := lifeCycle s = 1 || lifeCycle s = 4

/-- A write of BST_DIR_CTRL: its fields, and with START a directed test, from its first pattern to its signature. Scan destroys the
state of the block under test, which is re-initialised. -/
def dirStart (s : State) (who : Requester) (w : Nat) (volts locked : Bool) : State :=
  if !mayImage who then s
  else if !mayDirect s then flag s Fld.BST_EVENT_DENIED
  else
    let kind := bitsOf w 1 2
    let index := bitsOf w 3 13
    let count := bitsOf w 16 16
    let s := wr (wr (wr s Fld.BST_DIR_CTRL_KIND kind) Fld.BST_DIR_CTRL_INDEX index) Fld.BST_DIR_CTRL_COUNT count
    if bitsOf w 0 1 = 0 then s
    else
      let n := unitStack index
      let rail := if kind = 0 then some (dieOfCluster index) else if kind = 2 then some 2 else none
      let die := if kind = 0 then dieOfCluster index else if kind = 2 then 2 else if kind = 1 then 3 + n else if index < 12 then 3 + index else 2
      let code := testRefusal s rail die volts locked
      if code ≠ 0 then refuseTest s (.directed kind index) code
      else
        let seed := rd64 s Fld.BST_DIR_SEED_LO_SEED Fld.BST_DIR_SEED_HI_SEED
        let sig := Config.testSignature (kind + 4 * index + 2 ^ 15 * count) (BitVec.ofNat 64 seed)
        let s := if kind = 0 ∧ index < 152 then resetCluster s index 1
          else if kind = 1 ∧ index < 8192 then modStk s n (fun k => setBankUnit k (index % 1024) BankUnit.reset)
          else s
        let s := wr64 s Fld.BST_DIR_SIG_LO_SIG Fld.BST_DIR_SIG_HI_SIG sig.toNat
        setLast (bstProgress s (16 * count) (16 * count)) (.directed kind index) 0

end Sys2Proof.Machine
end

