-- ==== Sys2Proof/Machine/Sec.lean ====
section
/-! DEFINITION. Security: life cycle, tokens, tenant keys, alarms and SPDM (14 R370 to R379, R381). -/

namespace Sys2Proof.Machine

/-! Zeroisation (R377) -/

/-- Every tenant swap key. -/
def zeroKeys (s : State) : State := { s with sec := { s.sec with keys := [] } }

/-- Every fabric link key and salt: no port keeps its session. -/
def zeroLinks (s : State) : State := (List.range 18).foldl portDown s

/-! Life cycle (R370, R371) -/

/-- TESTER_PROVISIONING (R370): BLANK to MANUFACTURE. -/
def execTesterProvisioning (s : State) : Out :=
  let s := quiet s
  .next (if s.sec.lcs = 0 then { s with sec := { s.sec with lcs := 1, udsDestroyed := false } } else s)

/-- SEALING_COMMAND (R370): MANUFACTURE to SEALED; Carkel signs the DeviceID certificate (R373). -/
def execSealingCommand (s : State) : Out :=
  let s := quiet s
  .next (if s.sec.lcs = 1 then { s with sec := { s.sec with lcs := 2, certificate := true } } else s)

/-- The signed bytes of a life-cycle token: serial number, target state, count (R371). -/
def tokenBytes (serial target count : Nat) : List Byte := natLe 8 serial ++ natLe 1 target ++ natLe 2 count

/-- A token holds: this part's serial number, a fused unrevoked slot, a count above the last one used, and a signature (R371). -/
def tokenOk (s : State) (serial target count slot : Nat) (block : List Byte) : Bool :=
  serial = rd64 s Fld.HUB_SERIAL_LO_SERIAL Fld.HUB_SERIAL_HI_SERIAL && decide (count > s.sec.lastCount) && keySlotOk s slot &&
    signatureOk (rd s Fld.SEC_KEYSLOT_LMS) slot block (tokenBytes serial target count)

/-- UNLOCK_TOKEN (R371): SEALED to FIELD-DEBUG, with every tenant key zeroised. -/
def execUnlockToken (serial : BitVec 64) (target : BitVec 3) (count : BitVec 16) (slot : Fin 4) (block : List Byte) (s : State) : Out :=
  let s := quiet s
  let used := rd s Fld.SEC_LCS_UNLOCKS
  .next (if lifeCycle s = 2 ∧ target = 3 ∧ used < 64 ∧ tokenOk s serial.toNat target.toNat count.toNat slot.val block = true then
      let s := wr (zeroKeys s) Fld.SEC_LCS_UNLOCKS (used + 1)
      { s with sec := { s.sec with fieldDebug := true, lastCount := count.toNat } }
    else secFail s none)

/-- RETURN_TOKEN (R371): SEALED to RETURN, with every key zeroised. -/
def execReturnToken (serial : BitVec 64) (target : BitVec 3) (count : BitVec 16) (slot : Fin 4) (block : List Byte) (s : State) : Out :=
  let s := quiet s
  .next (if lifeCycle s = 2 ∧ target = 4 ∧ tokenOk s serial.toNat target.toNat count.toNat slot.val block = true then
      let s := zeroLinks (zeroKeys s)
      { s with sec := { s.sec with lcs := 4, lastCount := count.toNat, sessions := [] } }
    else secFail s none)

/-- DEFUNCT_COMMAND (R370). -/
def execDefunctCommand (s : State) : Out :=
  let s := quiet s
  .next (if lifeCycle s = 2 ∨ lifeCycle s = 4 then
      { s with sec := { s.sec with lcs := 5, udsDestroyed := true, secrets := false, certificate := false } }
    else s)

/-! The rollback floor (R372) -/

def floorOf (s : State) : Nat := rd64 s Fld.SEC_FLOOR_LO_GEN Fld.SEC_FLOOR_HI_GEN

/-- A write of SEC_FLOOR_SET_HI. -/
def raiseFloor (s : State) (who : Requester) (hi : Nat) : State :=
  let v := hi % 2 ^ 32 * 2 ^ 32 + rd s Fld.SEC_FLOOR_SET_LO_GEN
  if mayImage who && decide (floorOf s < v) && decide (v ≤ imgGen s) && decide (s.sec.floorRows < 32) then
    wr64 { s with sec := { s.sec with floorRows := s.sec.floorRows + 1 } } Fld.SEC_FLOOR_LO_GEN Fld.SEC_FLOOR_HI_GEN v
  else s

/-! Tenant keys (R375) -/

/-- A sequence of the tenant is PREEMPTED or being swapped. -/
def keyInUse (s : State) (t : Nat) : Bool :=
  (tenantSeqs s t).any (fun n => let d := (readDesc s n).1; d.live && (d.state = 4 || swapping s n)) ||
  s.kvm.swapIn.any (fun j => (readDesc s j.seq).1.tenant = t)

def putKey (s : State) (t : Nat) (k : Option (BitVec 512)) : State :=
  { s with sec := { s.sec with keys := KMap.set (fun _ => none) s.sec.keys t k } }

/-- SEC_TKEY_CTRL.OP: 1 GENERATE, 2 DESTROY. -/
def keyOp (s : State) (who : Requester) (op : Nat) : State :=
  let t := rd s Fld.SEC_TKEY_SEL_TENANT
  if !mayImage who then s
  else if op = 1 then
    if keyInUse s t || !mayServe s then flag s Fld.SEC_TKEY_STATUS_ERR
    else putKey { s with sec := { s.sec with drbg := s.sec.drbg + 1 } } t (some (Config.drbgKey s.sec.drbg))
  else if op = 2 then putKey s t none
  else s

/-! Alarms (R376 to R379) -/

/-- The level of a source: MESH, VGLITCH, CGLITCH, TEMP, AUTH. -/
def alarmLevel (s : State) (src : Nat) : Nat := bitsOf (rd s Fld.SEC_ALARM_LVL_LEVELS) (2 * src) 2

def alarmField (src : Nat) : Field :=
  if src = 0 then Fld.SEC_ALARM_MESH
  else if src = 1 then Fld.SEC_ALARM_VGLITCH
  else if src = 2 then Fld.SEC_ALARM_CGLITCH
  else if src = 3 then Fld.SEC_ALARM_TEMP
  else Fld.SEC_ALARM_AUTH

/-- Eight authentication failures within 60 s (R376). -/
def authStorm (s : State) : Bool :=
  decide ((s.sec.authFails.filter (fun x => decide (s.ns < x.1 + 60000000000))).length ≥ 8)

/-- Sixteen failed tags on one port within 1 s (R315). -/
def tagStorm (s : State) : Bool :=
  (List.range 18).any (fun p => decide (((fport s p).authFails.filter (fun x => decide (s.ns < x + 1000000000))).length ≥ 16))

/-- A diode not marked failed reads below −10 °C or above 125 °C. -/
def diodeOut (s : State) (i : Nat) : Bool :=
  let t := signedOf 8 (rd s Fld.THM_DIE_DIODE i)
  rd s Fld.THM_DIE_STATE i ≠ 2 && (decide (t < -10) || decide (t > 125))

/-- Whether the state bears a source out; the mesh and the glitch monitors report for themselves. -/
def alarmTrue (s : State) (src die : Nat) : Bool :=
  if src = 3 then diodeOut s die else if src = 4 then authStorm s || tagStorm s else true

/-- Tenants bound to a constellation with a leaf on a compute die. -/
def dieTenant (s : State) (d t : Nat) : Bool :=
  s.img.binds.any (fun b => b.1 = t && (physLeaves s.img b.2).any (fun c => dieOfCluster c = d))

/-- The affected tenants at level 2 (Table 14.5); dies are numbered as in THM_DIE. -/
def affected (s : State) (src die t : Nat) : Bool :=
  if src = 0 then true
  else if src < 4 then (if die < 2 then dieTenant s die t else true)
  else
    match (s.sec.authFails.getLast?).bind (·.2) with
    | some x => if authStorm s then x = t else true
    | none => true

/-- Level 2: the affected tenants' keys and sessions go, their sequences end at the next commit, and their swaps fail (R378). -/
def alarmTwo (s : State) (aff : Nat → Bool) : State :=
  let named (n : Nat) : Bool := let d := (readDesc s n).1; d.live && aff d.tenant
  let seqs := ((List.range 1024).filter aff).flatMap (fun t => (tenantSeqs s t).filter named)
  let s := { s with
    alarmN := true
    sec := { s.sec with
      keys := s.sec.keys.filter (fun e => !aff e.1)
      sessions := s.sec.sessions.filter (fun x => !x.tenant.any aff)
      ending := seqs.foldl KSet.add s.sec.ending } }
  let s := match s.kvm.swapOut with
    | some j => if aff (readDesc s j.seq).1.tenant then endSwap s 3 else s
    | none => s
  s.kvm.swapIn.foldl (fun s j => let d := (readDesc s j.seq).1; if aff d.tenant then swapInFails s j d else s) s

/-- Level 3: every key and secret goes, every port is DOWN, and the device is in eclipse until power-on (R377, R379). -/
def alarmThree (s : State) : State :=
  let s := zeroLinks (zeroKeys s)
  let s := { s with
    alarmN := true
    sec := { s.sec with sessions := [], secrets := false, alarmLatched := true }
    saf := { s.saf with alarm := true } }
  stopLoad (flag s Fld.SAF_STATUS_DEVICE) 0x13

/-- A source is raised (R377). -/
def raiseAlarm (s : State) (src die : Nat) : State :=
  if !alarmTrue s src die then s
  else
    let l := alarmLevel s src
    let aff := affected s src die
    let s := flag s (alarmField src)
    let s := wr s Fld.SEC_ALARM_LEVEL (Nat.max l (rd s Fld.SEC_ALARM_LEVEL))
    let s := if src = 4 then { s with sec := { s.sec with authFails := [] } } else s
    if l = 2 then alarmTwo s aff else if l ≥ 3 then alarmThree s else s

/-- ALARM_RAISE: the source, and the die it concerns as THM_DIE numbers it. -/
def execAlarmRaise (src : Fin 5) (die : Fin 15) (s : State) : Out := .next (raiseAlarm (quiet s) src.val die.val)

/-- Sources that are written to 1 clear; with none left, LEVEL reads 0 and ALARM_N of level 2 is released (R377, R454). -/
def alarmCleared (s : State) : State :=
  if (List.range 5).any (fun i => rd s (alarmField i) = 1) then s
  else { wr s Fld.SEC_ALARM_LEVEL 0 with alarmN := s.sec.alarmLatched }

/-! SPDM (R373, R374; message numbers, log 30) -/

/-- An error answer. -/
def spdmError (s : State) : State := emit s (.message 0x7F [])

/-- The part answers SPDM: not in level-3 eclipse (R379), and with an identity (Table 14.3). -/
def spdmUp (s : State) : Bool := !s.saf.alarm && lifeCycle s ≠ 0 && lifeCycle s ≠ 5

/-- The chain that ends in the Alias certificate is there. -/
def chainUp (s : State) : Bool := spdmUp s && s.sec.secrets && s.sec.certificate && (lifeCycle s = 2 || lifeCycle s = 3)

def answerIf (s : State) (ok : Bool) (code : Nat) (body : List Byte) : State :=
  if ok then emit s (.message code body) else spdmError s

/-- GET_VERSION (R374): SPDM 1.3. -/
def execGetVersion (s : State) : Out := let s := quiet s; .next (answerIf s (spdmUp s) 0x04 [0x13#8])

/-- The requests the responder supports. -/
def spdmRequests : List Byte := [0x84#8, 0xE1#8, 0xE3#8, 0x81#8, 0x82#8, 0x83#8, 0xE0#8, 0xE4#8, 0xE5#8, 0xE9#8, 0xE8#8, 0xEC#8]

/-- GET_CAPABILITIES (R374). -/
def execGetCapabilities (s : State) : Out := let s := quiet s; .next (answerIf s (spdmUp s) 0x61 spdmRequests)

/-- NEGOTIATE_ALGORITHMS (R374): bits 0 to 3 offer ECDSA P-384, SHA-384, secp384r1 and AES-256-GCM. -/
def execNegotiateAlgorithms (offer : BitVec 4) (s : State) : Out :=
  let s := quiet s
  .next (if spdmUp s then
      emit { s with sec := { s.sec with negotiated := offer.toNat } } (.message 0x63 (natLe 1 offer.toNat))
    else spdmError s)

/-- Slot 0's chain. -/
def chainOf (s : State) : List Byte := Config.certificateChain s.ckr.startedAt

/-- GET_DIGESTS (R374). -/
def execGetDigests (s : State) : Out :=
  let s := quiet s
  .next (answerIf s (chainUp s) 0x01 (natLe 48 (Config.sha384 (chainOf s)).toNat))

/-- GET_CERTIFICATE (R374): a portion of slot 0's chain. -/
def execGetCertificate (slot : BitVec 4) (off len : BitVec 16) (s : State) : Out :=
  let s := quiet s
  .next (answerIf s (chainUp s && slot = 0) 0x02 (slice (chainOf s) off.toNat len.toNat))

/-- A verification that fails is an authentication failure. -/
def spdmFail (s : State) (tenant : Option Nat) : State := spdmError (secFail s tenant)

/-- CHALLENGE (R374): `ok` tells whether the exchange verifies. -/
def execChallenge (nonce : BitVec 256) (ok : Bool) (s : State) : Out :=
  let s := quiet s
  .next (if !chainUp s then spdmError s
    else if !ok then spdmFail s none
    else emit s (.message 0x03 (Config.aliasSign s.ckr.startedAt (natLe 32 nonce.toNat))))

/-- A measurement block (Table 14.4). -/
def measurementBlock (s : State) (i : Nat) : List Byte :=
  if i = 1 ∨ i = 2 then natLe 48 (Config.measurement i).toNat
  else if i = 3 then
    natLe 48 (match s.img.firmware.bind (fun p => hubLook s (localAddr s 0 p.offset) p.length) with
      | some (b, _) => Config.sha384 b
      | none => Config.measurement 3).toNat
  else if i = 4 then (List.range 12).flatMap (fun w => natLe 4 (rd s Fld.IMG_DIGEST_WORD w))
  else if i = 5 then natLe 1 (lifeCycle s)
  else if i = 6 then natLe 48 (Config.fuseMeasurement (s.regs.read Reg.SEC_KEYSLOT).toNat (floorOf s)).toNat
  else natLe 8 (imgGen s)

/-- GET_MEASUREMENTS (R374): one block, every block (255), or their number (0). -/
def execGetMeasurements (index : BitVec 8) (s : State) : Out :=
  let s := quiet s
  let i := index.toNat
  .next (if i = 0 then answerIf s (spdmUp s) 0x60 [7#8]
    else if i = 255 then answerIf s (spdmUp s) 0x60 ((List.range 7).flatMap (fun k => measurementBlock s (k + 1)))
    else answerIf s (spdmUp s && i < 8) 0x60 (measurementBlock s i))

/-- KEY_EXCHANGE (R374): a session begins. -/
def execKeyExchange (ok : Bool) (s : State) : Out :=
  let s := quiet s
  let id := s.sec.nextSession
  .next (if !chainUp s then spdmError s
    else if !ok then spdmFail s none
    else
      let s := { s with sec := { s.sec with nextSession := id + 1, sessions := s.sec.sessions ++ [⟨id, false, none, 0, none⟩] } }
      emit s (.message 0x64 (natLe 4 id ++ Config.exchangeData id)))

def sessionOf (s : State) (id : Nat) : Option Session := s.sec.sessions.find? (fun x => x.id = id)
def putSession (s : State) (x : Session) : State :=
  { s with sec := { s.sec with sessions := s.sec.sessions.map (fun y => if y.id = x.id then x else y) } }
def dropSession (s : State) (id : Nat) : State :=
  { s with sec := { s.sec with sessions := s.sec.sessions.filter (fun y => y.id ≠ id) } }

/-- FINISH (R374): the session is established, with the hash of the requester's chain under mutual authentication. -/
def execFinish (id : BitVec 32) (owner : Option (BitVec 384)) (ok : Bool) (s : State) : Out :=
  let s := quiet s
  .next (match sessionOf s id.toNat with
    | none => spdmError s
    | some x =>
      if !spdmUp s || x.live then spdmError s
      else if !ok then spdmFail (dropSession s x.id) x.tenant
      else emit (putSession s { x with live := true, owner := owner }) (.message 0x65 []))

/-- A message inside an established session. -/
def inSession (s : State) (id : Nat) (f : Session → State) : State :=
  match sessionOf s id with
  | some x => if spdmUp s && x.live then f x else spdmError s
  | none => spdmError s

/-- KEY_UPDATE (R374). -/
def execKeyUpdate (id : BitVec 32) (s : State) : Out :=
  let s := quiet s
  .next (inSession s id.toNat (fun x => emit (putSession s { x with keyGen := x.keyGen + 1 }) (.message 0x69 [])))

/-- HEARTBEAT (R374). -/
def execSpdmHeartbeat (id : BitVec 32) (s : State) : Out :=
  let s := quiet s
  .next (inSession s id.toNat (fun _ => emit s (.message 0x68 [])))

/-- END_SESSION (R374). -/
def execEndSession (id : BitVec 32) (s : State) : Out :=
  let s := quiet s
  .next (inSession s id.toNat (fun x => emit (dropSession s x.id) (.message 0x6C [])))

/-- A rejected import (R374, R375). -/
def importFails (s : State) (t : Nat) : State := spdmFail (flag s Fld.SEC_TKEY_STATUS_ERR) (some t)

/-- IMPORT (R375): a key for a tenant, inside a session whose requester presented the tenant's owner chain. -/
def execImportKey (id : BitVec 32) (t : Fin 1024) (key : BitVec 512) (s : State) : Out :=
  let s := quiet s
  .next (match sessionOf s id.toNat with
    | none => importFails s t.val
    | some x =>
      if !spdmUp s || !x.live || x.owner ≠ some (Config.ownerHash t.val) || !mayServe s || keyInUse s t.val then importFails s t.val
      else emit (putKey (putSession s { x with tenant := some t.val }) t.val (some key)) (.message 0x7E []))

end Sys2Proof.Machine
end

