-- ==== Sys2Proof/Machine/Pwr.lean ====
section
/-! DEFINITION. Power states: requests, refusers, entries, wakes and STANDBY (15 R382 to R392). Domain kinds are those of a trace
record: 0 cluster, 1 stack, 2 fabric port, 3 part. -/

namespace Sys2Proof.Machine

/-! Requests (R382, R383) -/

/-- A request completes. -/
def completeReq (s : State) (state result refuser : Nat) : State :=
  wr (wr (wr s Fld.PWR_REQ_STATUS_STATE state) Fld.PWR_REQ_STATUS_RESULT result) Fld.PWR_REQ_STATUS_REFUSER refuser

/-- The clusters a request names. -/
def reqClusters (s : State) (kind index : Nat) : List Nat :=
  if kind = 0 then physLeaves s.img index else if kind = 1 then (physOf s.img index).toList else []

/-- The domains a request names. -/
def reqDomains (s : State) (state kind index : Nat) : List (Nat × Nat) :=
  if state = 5 then [(3, 0)]
  else if kind < 2 then (reqClusters s kind index).map (fun c => (0, c))
  else [(kind - 1, index)]

/-- The state fits the kind, and the index names something. -/
def reqFormed (s : State) (state kind index : Nat) : Bool :=
  state < 6 &&
  (state = 5 ||
    ((if kind = 0 then (conRec s.img index).isSome
      else if kind = 1 then decide (index < 144) && (physOf s.img index).isSome
      else if kind = 2 then decide (index < 12)
      else decide (index < 18)) &&
     (state = 0 || (if state < 3 then decide (kind < 2) else decide (kind = state - 1)))))

/-- A requester bound to the tenant of every cluster named. -/
def boundClusters (s : State) (who : Requester) (cs : List Nat) : Bool :=
  cs ≠ [] && cs.all (fun c => (physTenant s.img c).any (boundTo s who))

/-- Table 15.1, last column. -/
def mayPower (s : State) (who : Requester) (state kind index : Nat) : Bool :=
  match who with
  | .supervisor => true
  | .mgmt _ => true
  | _ => decide (state ≠ 5) && decide (kind < 2) && boundClusters s who (reqClusters s kind index)

/-- A write of PWR_REQ. -/
def pwrReq (s : State) (who : Requester) (state : Nat) (save : Bool) (kind index : Nat) : State :=
  if s.pwr.queue.length ≥ 16 ∨ mayPower s who state kind index = false ∨ reqFormed s state kind index = false then completeReq s state 3 0
  else { s with pwr := { s.pwr with queue := s.pwr.queue ++ [⟨who, state, save, kind, index⟩] } }

/-! Refusers (Table 15.3) -/

/-- An image load in prepare that involves a domain. -/
def loadInvolves (s : State) (kind index : Nat) : Bool :=
  s.load.running && imgState s = 2 &&
  (if s.load.scope = 0 then true
   else if s.load.scope = 1 then kind = 3 || (kind = 0 && (physLeaves s.img s.load.target).contains index)
   else if s.load.scope = 2 then kind = 3 || (kind = 1 && index = s.load.target)
   else kind = 3)

/-- A self-test running on a domain. -/
def testOn (s : State) (kind index : Nat) : Bool := s.bst.tests.any (fun t => match t.kind with
  | .cluster c => kind = 3 || (kind = 0 && c = index)
  | .unit n _ => kind = 3 || (kind = 1 && n = index)
  | .directed _ _ => true)

def loopEnabled (s : State) (l : Nat) : Bool := rd s Fld.SEQ_LCTRL_EN l = 1

/-- The busy-domain refuser. -/
def busyDomain (s : State) (kind index : Nat) : Bool :=
  loadInvolves s kind index || testOn s kind index ||
  (if kind = 0 then
    let x := cl s index
    !x.queue.isEmpty || x.running.isSome || !x.runs.isEmpty || (loopsOn s.img index).any (loopEnabled s)
   else if kind = 1 then
    let k := stk s index
    !k.waiting.isEmpty || !k.queue.isEmpty || k.rids.any (fun e => e.2.isSome)
   else if kind = 2 then !(fport s index).replay.isEmpty || s.fab.requests.any (fun r => r.port = some index)
   else s.img.loops.any (fun r => loopEnabled s r.slot) || [0, 1].any (linkUp s))

/-- The safety refuser. -/
def unsafeDomain (s : State) (kind index : Nat) : Bool :=
  deviceEclipse s || dieEclipse s 0 || dieEclipse s 1 || s.saf.recovering.isSome || s.saf.lostAt.any (fun e => e.2.isSome) ||
    (kind = 0 && s.saf.clusters.contains index)

/-- The tenant-hold refuser. -/
def tenantHold (s : State) (r : PwrReq) : Bool :=
  (match r.who with
    | .mgmt _ => true
    | _ => false) &&
  (r.state = 1 || r.state = 2) && r.kind = 0 && bitsOf (KMap.get (fun _ => 0#32) s.pwr.share r.index).toNat 12 1 = 1

/-- The first refuser of an entry, 0 for none; `flushed` tells that the trace FIFOs emptied in time. -/
def refuser (s : State) (r : PwrReq) (doms : List (Nat × Nat)) (flushed : Bool) : Nat :=
  if s.pwr.histLeft ≠ 0 ∨ s.pwr.limitPending = true then 1
  else if doms.any (fun d => busyDomain s d.1 d.2) then 2
  else if (r.state = 3 || r.state = 5) && (List.range 12).any (fun n => rd s Fld.STK_STATUS_WHOLD n = 1) then 3
  else if doms.any (fun d => unsafeDomain s d.1 d.2) then 4
  else if tenantHold s r then 5
  else if !flushed && doms.any (fun d => d.1 = 0 || d.1 = 3) then 6
  else 0

def refuseField (code : Nat) : Field :=
  if code = 1 then Fld.PWR_REFUSE_ARB_COUNT
  else if code = 2 then Fld.PWR_REFUSE_BUSY_COUNT
  else if code = 3 then Fld.PWR_REFUSE_THERM_COUNT
  else if code = 4 then Fld.PWR_REFUSE_SAFE_COUNT
  else if code = 5 then Fld.PWR_REFUSE_HOLD_COUNT
  else Fld.PWR_REFUSE_TRACE_COUNT

/-- A refused or aborted request is counted and recorded (R390); its trace record names its first domain. -/
def recordRefusal (s : State) (r : PwrReq) (doms : List (Nat × Nat)) (code : Nat) (aborted : Bool) : State :=
  let d := doms.headD (0, 0)
  let s := inc s (refuseField code)
  let s := wr (wr (wr (wr s Fld.PWR_REFUSE_LAST_REFUSER code) Fld.PWR_REFUSE_LAST_STATE r.state) Fld.PWR_REFUSE_LAST_KIND r.kind)
    Fld.PWR_REFUSE_LAST_INDEX r.index
  let s := wr s Fld.PWR_REFUSE_LAST_ABORTED (if aborted then 1 else 0)
  let s := flag (storeTrace s (traceRec s.mer 3 d.1 d.2 r.state code 0)) Fld.PWR_EVENT_REFUSED
  completeReq s r.state (if aborted then 2 else 1) code

/-! A request being applied -/

def setPwrRun (s : State) (r : Option PwrRun) : State :=
  wr { s with pwr := { s.pwr with run := r } } Fld.PWR_STATUS_BUSY (if r.isSome then 1 else 0)

def cluPwr (s : State) (c : Nat) : Nat := rd s Fld.CLU_PWR_STATE c
def setCluPwr (s : State) (c st : Nat) : State := wr s Fld.CLU_PWR_STATE st c

/-- The entry is aborted before its point of no return: the domains are left as they were (R385). -/
def abortRun (s : State) (r : PwrRun) : State :=
  let s := r.doms.foldl (fun s d => if d.1 = 0 then setCluPwr s d.2 (KMap.get (fun _ => 0) r.was d.2) else s) s
  let s := { s with pwr := { s.pwr with toGate := [] } }
  recordRefusal (setPwrRun s none) r.req r.doms 2 true

/-- An entry none of whose domains has passed its point of no return, and one of which has become busy. -/
def abortIfBusy (s : State) : State :=
  match s.pwr.run with
  | none => s
  | some r =>
    if r.req.state ≠ 0 ∧ r.past = [] ∧ r.doms.any (fun d => busyDomain s d.1 d.2) = true then abortRun s r else s

/-- Domains that the entry has still to change: a cluster already in the state, or in NIGHT when DUSK is asked, stays as it is. -/
def needsEntry (s : State) (state : Nat) (d : Nat × Nat) : Bool :=
  if d.1 = 0 then cluPwr s d.2 < state
  else if d.1 = 1 then decide (d.2 ∉ s.pwr.rest)
  else if d.1 = 2 then decide (d.2 ∉ s.pwr.sleep)
  else !s.pwr.standby

/-- Domains that a wake has to wake. -/
def needsWake (s : State) (d : Nat × Nat) : Bool :=
  if d.1 = 0 then cluPwr s d.2 = 1 || cluPwr s d.2 = 2
  else if d.1 = 1 then decide (d.2 ∈ s.pwr.rest)
  else if d.1 = 2 then decide (d.2 ∈ s.pwr.sleep)
  else false

/-- The save area of a member (R384). -/
def saveAt (base member : Nat) : Nat := base + member * contextBytes

def reqAddr (s : State) : Nat := rd64 s Fld.PWR_REQ_ADDR_LO_ADDR Fld.PWR_REQ_ADDR_HI_ADDR

/-- The save area is hashed space of this part, held by the clusters' tenant where they have one. -/
def saveFits (s : State) (cs : List Nat) : Bool :=
  let a := reqAddr s
  let n := cs.length * contextBytes
  spaceOf (BitVec.ofNat 64 a) = 0 && isLocal s (BitVec.ofNat 64 a) && decide (a % 2 ^ 41 + n ≤ hashSize s.img.hash) &&
    (match (cs.head?).bind (physTenant s.img) with
      | some t => addrAllowed s t a n
      | none => true)

/-- A wake begins: what sleeps in NIGHT waits for a window, the rest starts. -/
def startWake (s : State) (r : PwrReq) (doms : List (Nat × Nat)) : State :=
  let was := doms.foldl (fun m d => if d.1 = 0 then KMap.set (fun _ => 0) m d.2 (cluPwr s d.2) else m) []
  let s := setPwrRun s (some ⟨r, reqAddr s, doms, [], was⟩)
  doms.foldl (fun s d =>
    if d.1 = 0 then
      if cluPwr s d.2 = 2 then { setCluPwr s d.2 4 with pwr := { s.pwr with toWake := KSet.add s.pwr.toWake d.2 } }
      else { setCluPwr s d.2 4 with pwr := { s.pwr with waking := KSet.add s.pwr.waking (1000 + d.2) } }
    else { s with pwr := { s.pwr with waking := KSet.add s.pwr.waking (if d.1 = 1 then d.2 else 12 + d.2) } }) s

/-- An entry begins. -/
def startEntry (s : State) (r : PwrReq) (doms : List (Nat × Nat)) : State :=
  let was := doms.foldl (fun m d => if d.1 = 0 then KMap.set (fun _ => 0) m d.2 (cluPwr s d.2) else m) []
  let s := setPwrRun s (some ⟨r, reqAddr s, doms, [], was⟩)
  let s := doms.foldl (fun s d => if d.1 = 0 then setCluPwr s d.2 3 else s) s
  let cs := (doms.filter (fun d => d.1 = 0)).map (·.2)
  if r.state = 2 then
    if r.save then progress s Fld.SEQ_CTX_POS_LO_POS Fld.SEQ_CTX_POS_HI_POS Fld.SEQ_CTX_PCT_PCT 0 0 (Nat.max 1 cs.length)
    else { s with pwr := { s.pwr with toGate := cs.foldl KSet.add s.pwr.toGate } }
  else s

/-- The next request is taken (R383). -/
def applyReq (s : State) (flushed : Bool) : State :=
  match s.pwr.run, s.pwr.queue with
  | none, r :: rest =>
    let s := { s with pwr := { s.pwr with queue := rest } }
    if !reqFormed s r.state r.kind r.index || (r.save && (r.state = 0 || r.state = 2) && !saveFits s (reqClusters s r.kind r.index)) then
      completeReq s r.state 3 0
    else
      let all := reqDomains s r.state r.kind r.index
      if r.state = 0 then
        let doms := all.filter (needsWake s)
        if doms = [] then completeReq s 0 0 0 else startWake s r doms
      else
        let doms := all.filter (needsEntry s r.state)
        if doms = [] then completeReq s r.state 0 0
        else
          let code := refuser s r all flushed
          if code ≠ 0 then recordRefusal s r all code false else startEntry s r doms
  | _, _ => s

/-- PWR_REQ_APPLY (R383, R389); while a request is being applied, an entry that has become busy is aborted (R385). -/
def execPwrReqApply (flushed : Bool) (s : State) : Out :=
  let s := quiet s
  .next (if s.pwr.run.isSome then abortIfBusy s else applyReq s flushed)

/-! Steps of an entry -/

/-- A leaf's place among the members of the constellation or the one cluster of a request. -/
def memberIndex (s : State) (r : PwrReq) (c : Nat) : Nat := (reqClusters s r.kind r.index).findIdx (fun x => x = c)

/-- NIGHT_SAVE_DONE (R384): a leaf's context is in memory, and its gating may start. -/
def execNightSaveDone (c : Fin 152) (s : State) : Out :=
  let s := abortIfBusy (quiet s)
  .next (match s.pwr.run with
    | none => s
    | some r =>
      if r.req.state ≠ 2 ∨ r.req.save = false ∨ (0, c.val) ∉ r.doms ∨ c.val ∈ s.pwr.toGate ∨ rd s Fld.CLU_PWR_SAVED c.val = 1 then s
      else
        let who : Requester := match physTenant s.img c.val with
          | some t => kvmFor t
          | none => .kvm none
        let s := saveSpad s who c.val (saveAt r.addr (memberIndex s r.req c.val))
        let x := cl s c.val
        let s := { s with
          seq := { s.seq with contexts := KMap.set (fun _ => none) s.seq.contexts (2 ^ 20 + c.val) (some x) }
          pwr := { s.pwr with toGate := KSet.add s.pwr.toGate c.val } }
        let s := flag s Fld.CLU_PWR_SAVED c.val
        let n := (r.doms.filter (fun d => rd s Fld.CLU_PWR_SAVED d.2 = 1)).length
        progress s Fld.SEQ_CTX_POS_LO_POS Fld.SEQ_CTX_POS_HI_POS Fld.SEQ_CTX_PCT_PCT (n * 2 ^ 22) n (Nat.max 1 r.doms.length))

/-- At most eight of a die's clusters, in ascending physical number. -/
def windowBatch (l : List Nat) : List Nat := [0, 1].flatMap (fun d => (l.filter (fun c => dieOfCluster c = d)).take 8)

/-- WAKE_WINDOW (R387): clusters start to wake or to gate at a window boundary. -/
def execWakeWindow (s : State) : Out :=
  let s := abortIfBusy (quiet s)
  let wake := windowBatch s.pwr.toWake
  let gate := windowBatch s.pwr.toGate
  let p := s.pwr
  .next { s with pwr := { p with
    toWake := p.toWake.filter (fun c => !wake.contains c)
    toGate := p.toGate.filter (fun c => !gate.contains c)
    waking := wake.foldl (fun m c => KSet.add m (1000 + c)) p.waking
    run := p.run.map (fun r => { r with past := r.past ++ gate.map (fun c => (0, c, s.mer)) }) } }

/-- A domain has reached its state; with the last one the request is done. -/
def domainDone (s : State) (r : PwrRun) (kind index : Nat) : State :=
  let rest := r.doms.filter (fun d => d ≠ (kind, index))
  if rest = [] then completeReq (setPwrRun s none) r.req.state 0 0
  else setPwrRun s (some { r with doms := rest, past := r.past ++ [(kind, index, s.mer)] })

/-- Offsets of a stack's registers, and of a fabric port's. -/
def inStkBlock (n off : Nat) : Bool :=
  decide (Reg.STK_INFO + Fld.STK_EVENT_WHOLD_ON.s1 * n ≤ off) && decide (off < Reg.STK_INFO + Fld.STK_EVENT_WHOLD_ON.s1 * (n + 1))
def inPortBlock (p off : Nat) : Bool := decide (Reg.FAB_PORT_CTRL + 64 * p ≤ off) && decide (off < Reg.FAB_PORT_CTRL + 64 * p + 64)

/-- A cluster's clocks stop, or its power goes; its trace comes first (R392). -/
def clusterDown (s : State) (r : PwrRun) (c time : Nat) : State :=
  let s := flushTrace s c
  let s := storeTrace s (traceRec time 1 0 c r.req.state 0 0)
  let saved := rd s Fld.CLU_PWR_SAVED c
  let s := if r.req.state = 1 then { s with regs := s.regs.resetWhere 7 (inCluBlock c) } else resetCluster s c 5
  wr (setCluPwr s c r.req.state) Fld.CLU_PWR_SAVED saved c

/-- What the part loses when only the always-on domain stays powered (R388, Table 16.2). -/
def enterStandby (s : State) : State :=
  let s := flushAll s
  let s := zfillStop s
  let s := if s.ras.scrub.isSome then endScrub s 3 3 else s
  let s := if s.kvm.tinv.isSome then flag (wr s Fld.HUB_TINV_STATUS_BUSY 0) Fld.HUB_TINV_STATUS_DONE else s
  let s := s.mem.accepted.foldl (fun s e => e.2.foldl (fun s _ => performOldest s e.1 .clean) s) s
  let s := flushSlices s
  let active := rd s Fld.CKR_REF_STATUS_ACTIVE
  let hold := rd s Fld.CKR_REF_STATUS_HOLDOVER
  let s := { s with
    regs := s.regs.resetWhere 3 (fun _ => true)
    shadow := []
    mem := { s.mem with sets := [], spad := [], spadPoison := [], reductions := [], retries := [], waiting := [], snoop := [] }
    clu := []
    kvm := { s.kvm with queue := [], held := [], runs := [], walk := [], leafCache := [], done := [], staged := [], tinv := none }
    seq := { s.seq with conRuns := [], conDone := [], contexts := s.seq.contexts.filter (fun e => e.1 < 2 ^ 20) }
    fab := { Fab.reset with
      nextTag := s.fab.nextTag
      no10m := s.fab.no10m
      merHops := s.fab.merHops
      merSlew := s.fab.merSlew
      pps := s.fab.pps
      ppsLost := s.fab.ppsLost }
    irq := { s.irq with pulsed := [], inService := [], active := [], msixEnable := [], msixFnMask := [], msixUnmasked := [], pba := [] }
    hpt := []
    held := []
    bst := { s.bst with tests := [], nextCluster := [], nextUnit := [], refused := [], inPlace := [] }
    ckr := { s.ckr with
      trackA := { RefTrack.reset with absent := s.ckr.trackA.absent }
      trackB := { RefTrack.reset with absent := s.ckr.trackB.absent } }
    pwr := { s.pwr with
      standby := true
      rest := (List.range 12).foldl KSet.add []
      sleep := (List.range 18).foldl KSet.add []
      waking := []
      toWake := []
      toGate := []
      conDraw := []
      conLevel := []
      conHist := []
      reserve := []
      est := []
      histLeft := 16 } }
  storeTrace (wr (wr s Fld.CKR_REF_STATUS_ACTIVE active) Fld.CKR_REF_STATUS_HOLDOVER hold) (traceRec s.mer 1 3 0 5 0 0)

/-- DOMAIN_ENTRY_DONE (R387, R391). -/
def entryDone (s : State) (kind index : Nat) : State :=
  let s := abortIfBusy s
  match s.pwr.run with
  | none => s
  | some r =>
    if r.req.state = 0 ∨ (kind, index) ∉ r.doms then s
    else if kind = 0 then
      let gated := r.past.find? (fun x => x.1 = 0 ∧ x.2.1 = index)
      if r.req.state = 2 ∧ gated.isNone then s
      else domainDone (clusterDown s r index ((gated.map (·.2.2)).getD s.mer)) r 0 index
    else if kind = 1 then
      let s := { s with pwr := { s.pwr with rest := KSet.add s.pwr.rest index }, regs := s.regs.resetWhere 7 (inStkBlock index) }
      domainDone (storeTrace s (traceRec s.mer 1 1 index 3 0 0)) r 1 index
    else if kind = 2 then
      let s := { s with pwr := { s.pwr with sleep := KSet.add s.pwr.sleep index }, regs := s.regs.resetWhere 7 (inPortBlock index) }
      domainDone (storeTrace s (traceRec s.mer 1 2 index 4 0 0)) r 2 index
    else domainDone (enterStandby s) r 3 0

def execDomainEntryDone (kind : Fin 4) (index : BitVec 8) (s : State) : Out := .next (entryDone (quiet s) kind.val index.toNat)

/-! Wakes -/

/-- A constellation whose clusters have left NIGHT or a reset has no history of its own (R397). -/
def loseHistory (s : State) (c : Nat) : State :=
  let cons := (logicalOf s.img c).elim [] (consOf s.img)
  { s with pwr := { s.pwr with conHist := cons.foldl (fun m k => KMap.set (fun _ => 0) m k 16) s.pwr.conHist } }

/-- A cluster is on: restored from its save where that is asked, else as after a cluster reset, and reset where a reset has woken it. -/
def clusterUp (s : State) (c : Nat) : State :=
  let night := s.pwr.resetOnWake.contains c || s.pwr.run.any (fun r => KMap.get (fun _ => 0) r.was c = 2)
  let restore := match s.pwr.run with
    | some r => r.req.save && r.req.state = 0 && r.doms.contains (0, c) && !s.pwr.resetOnWake.contains c
    | none => false
  let s' := wr (setCluPwr s c 0) Fld.CLU_PWR_SAVED 0 c
  let s' := match KMap.get (fun _ => none) s.seq.contexts (2 ^ 20 + c), s.pwr.run with
    | some x, some r =>
      if restore then
        let who : Requester := match physTenant s.img c with
          | some t => kvmFor t
          | none => .kvm none
        let t := setCl (loadSpad s' who c (saveAt r.addr (memberIndex s r.req c))) c x
        progress t Fld.SEQ_CTX_POS_LO_POS Fld.SEQ_CTX_POS_HI_POS Fld.SEQ_CTX_PCT_PCT (2 ^ 22) 1 1
      else s'
    | _, _ => s'
  let s' := { s' with seq := { s'.seq with contexts := KMap.set (fun _ => none) s'.seq.contexts (2 ^ 20 + c) none } }
  let s' := if s.pwr.resetOnWake.contains c then
      { resetCluster s' c 6 with pwr := { s'.pwr with resetOnWake := KSet.del s'.pwr.resetOnWake c } }
    else s'
  let s' := if night then loseHistory s' c else s'
  storeTrace s' (traceRec s.mer 2 0 c (if night then 2 else 1) 0 0)

/-- The part is ready again after STANDBY (Table 15.4). -/
def partUp (s : State) : State :=
  let s := { s with pwr := { s.pwr with standby := false, rest := [], sleep := [], waking := [] } }
  let s := flag (wr s Fld.PWR_STATUS_NOHIST 1) Fld.PWR_EVENT_WAKE
  let s := (List.range 18).foldl (fun s p =>
    if rd s Fld.FAB_PORT_CTRL_EN p = 1 ∧ rd s Fld.FAB_DEVID_VALID = 1 then setPortState s p 1 else s) s
  irqUpdate (releaseWaiting (storeTrace s (traceRec s.mer 2 3 0 5 0 0)))

/-- DOMAIN_WAKE_DONE (R387, R391). -/
def wakeDone (s : State) (kind index : Nat) : State :=
  let key := if kind = 0 then 1000 + index else if kind = 1 then index else if kind = 2 then 12 + index else 999
  if key ∉ s.pwr.waking then s
  else
    let run := s.pwr.run
    let s := { s with pwr := { s.pwr with waking := KSet.del s.pwr.waking key } }
    let s := if kind = 0 then clusterUp s index
      else if kind = 1 then
        releaseWaiting (storeTrace { s with pwr := { s.pwr with rest := KSet.del s.pwr.rest index } } (traceRec s.mer 2 1 index 3 0 0))
      else if kind = 2 then
        let s := { s with pwr := { s.pwr with sleep := KSet.del s.pwr.sleep index } }
        -- Lanes are on, and the link retrains with its session and sequence numbers (R314).
        let s := if rd s Fld.FAB_PORT_CTRL_EN index = 1 then
            inc (setPortState s index 4) Fld.FAB_PORT_RETRAIN_COUNT index
          else s
        storeTrace s (traceRec s.mer 2 2 index 4 0 0)
      else partUp s
    match run with
    | some r => if r.req.state = 0 ∧ (kind, index) ∈ r.doms then domainDone s r kind index else s
    | none => s

def execDomainWakeDone (kind : Fin 4) (index : BitVec 8) (s : State) : Out := .next (wakeDone (quiet s) kind.val index.toNat)

/-- PWR_WAKE_AT has been reached. -/
def wakeAt (s : State) : Bool :=
  let at_ := rd64 s Fld.PWR_WAKE_AT_LO_COUNT Fld.PWR_WAKE_AT_HI_COUNT
  at_ ≠ 0 && decide (at_ ≤ s.mer)

/-- STANDBY_WAKE (R388): a wake request over I3C, or the meridian count. -/
def execStandbyWake (i3c : Bool) (s : State) : Out :=
  let s := quiet s
  .next (if s.pwr.standby && (i3c || wakeAt s) then { s with pwr := { s.pwr with waking := KSet.add s.pwr.waking 999 } } else s)

/-- Something is held at a stack in REST. -/
def restHolds (s : State) (n : Nat) : Bool :=
  s.mem.waiting.any (fun w => w.addr / 2 ^ 58 = 0 && (lineNo s (w.addr % 2 ^ 41)).any (fun l => stackOfLine l = n)) ||
  !(stk s n).waiting.isEmpty || !(stk s n).queue.isEmpty || s.mem.accepted.any (fun e => e.1 / 64 = n && !e.2.isEmpty)

/-- STACK_DEMAND_WAKE (R386). -/
def execStackDemandWake (stack : Fin 12) (s : State) : Out :=
  let s := quiet s
  .next (if decide (stack.val ∈ s.pwr.rest) && !s.pwr.standby && restHolds s stack.val then
      { s with pwr := { s.pwr with waking := KSet.add s.pwr.waking stack.val } }
    else s)

end Sys2Proof.Machine
end

