-- ==== Sys2Proof/Machine/Thm.lean ====
section
/-! DEFINITION. Voltage requests, the power arbiter, temperature sensing and throttling (15 R393 to R405). -/

namespace Sys2Proof.Machine

/-! Voltage requests (R393, R394) -/

def setAvs (s : State) (r : Nat) (a : Avs) : State :=
  { s with pwr := { s.pwr with avs := KMap.set Avs.reset s.pwr.avs r a } }

/-- Bit r of a four-bit field. -/
def railBit (s : State) (f : Field) (r : Nat) (on : Bool) : State :=
  let w := rd s f
  wr s f (if on then w ||| 2 ^ r else w - bitsOf w r 1 * 2 ^ r)

/-- A setpoint is written over AVSBus, in mV. -/
def avsWrite (s : State) (r mv : Nat) : State := emit s (.message (0x1000 + r) (natLe 2 mv))

/-- A setpoint within ±5 % of nominal, at most 25 mV away in steps of 5 mV. -/
def setpointOk (r old mv : Nat) : Bool :=
  let n := nominalMv r
  decide (95 * n ≤ 100 * mv) && decide (100 * mv ≤ 105 * n) && decide (mv ≤ old + 25) && decide (old ≤ mv + 25) &&
    decide (mv ≠ old) && ((mv : Int) - (old : Int)) % 5 = 0

/-- AVS_REQUEST (R393). -/
def execAvsRequest (rail : Fin 4) (mv : BitVec 12) (s : State) : Out :=
  let s := quiet s
  let r := rail.val
  let a := avsOf s r
  let early := a.lastAt.any (fun t => decide (s.ns < t + 1000000))
  .next (if a.pending || a.suspended || early || !setpointOk r a.inForce mv.toNat then s
    else
      let s := setAvs s r { a with asked := mv.toNat, pending := true, writes := 1, lastAt := some s.ns }
      avsWrite (railBit s Fld.PWR_AVS_STATUS_PEND r true) r mv.toNat)

/-- AVS_POLL (R394): the rail reads back a voltage in mV. -/
def execAvsPoll (rail : Fin 4) (mv : BitVec 12) (s : State) : Out :=
  let s := quiet s
  let r := rail.val
  let a := avsOf s r
  .next (if a.pending && decide (99 * a.asked ≤ 100 * mv.toNat) && decide (100 * mv.toNat ≤ 101 * a.asked) then
      railBit (setAvs s r { a with inForce := a.asked, pending := false, writes := 0 }) Fld.PWR_AVS_STATUS_PEND r false
    else s)

/-- AVS_RETRY (R394): 2 ms have passed without an acknowledgement. -/
def execAvsRetry (rail : Fin 4) (s : State) : Out :=
  let s := quiet s
  let r := rail.val
  let a := avsOf s r
  .next (if !a.pending then s
    else if a.writes < 3 then avsWrite (setAvs s r { a with writes := a.writes + 1 }) r a.asked
    else
      let s := avsWrite (setAvs s r { a with pending := false, writes := 0, asked := a.inForce, suspended := true }) r a.inForce
      let s := railBit (railBit s Fld.PWR_AVS_STATUS_PEND r false) Fld.PWR_AVS_STATUS_SUSP r true
      inc (flag s Fld.PWR_EVENT_AVS_FAIL) Fld.PWR_AVS_FAILS_COUNT)

/-- AVS_SUSPEND_END (R394). -/
def execAvsSuspendEnd (rail : Fin 4) (s : State) : Out :=
  let s := quiet s
  let a := avsOf s rail.val
  .next (if a.suspended then railBit (setAvs s rail.val { a with suspended := false }) Fld.PWR_AVS_STATUS_SUSP rail.val false else s)

/-! Floors and applied levels (R404, Table 15.8) -/

/-- Domain of a lit stack. -/
def stackDomain (n : Nat) : Nat := 2 + slotOfStack n

def sensorFailed (s : State) (i : Nat) : Bool := rd s Fld.THM_DIE_STATE i = 2

/-- The floor of a throttled domain. -/
def domFloor (s : State) (d : Nat) : Nat :=
  let own := if d < 2 then sensorFailed s d else sensorFailed s (3 + stackOfSlot (d - 2))
  Nat.max (if own then 8 else 0) (if sensorFailed s 2 then 4 else 0)

/-- LEVEL and FLOOR of a domain follow its three levels; a stack takes its level from its next group on (R144). -/
def applyLevel (s : State) (d : Nat) : State :=
  let fl := domFloor s d
  let l := Nat.max (Nat.max (rd s Fld.PWR_DOM_ARB d) (rd s Fld.PWR_DOM_THERM d)) fl
  let s := wr (wr s Fld.PWR_DOM_FLOOR (if fl = 0 then 0 else 1) d) Fld.PWR_DOM_LEVEL l d
  if d < 2 then s else modStk s (stackOfSlot (d - 2)) (fun k => { k with throttleNext := l })

def applyLevels (s : State) : State := (List.range 10).foldl applyLevel s

/-! The arbiter (R395 to R398) -/

/-- Default static shares (Table 15.7). -/
def defaultShares : List Nat := [620, 620, 48, 48, 48, 48, 48, 48, 48, 48, 96, 150, 110]

/-- The static shares in force (R397, R399). -/
def staticShare (s : State) (d : Nat) : Nat := (if s.img.shares = [] then defaultShares else s.img.shares).getD d 0

/-- The rail whose telemetry corrects a domain's estimate: VDD_A, VDD_B, VDD_HUB, VDD_SER, VDDQ_STK. -/
def railOf (d : Nat) : Nat := if d < 2 then d else if d < 11 then 4 else if d = 11 then 3 else 2

def scaleOf (s : State) (r : Nat) : Rat :=
  ((KMap.get (fun _ => 1) s.pwr.scaleNum r : Nat) : Rat) / ((KMap.get (fun _ => 1) s.pwr.scaleDen r : Nat) : Rat)

/-- Estimate of a domain in watts, from its activity's energy in mW. -/
def estimate (s : State) (raw : List Nat) (d : Nat) : Rat := (raw.getD d 0 : Rat) / 1000 * scaleOf s (railOf d)

/-- Watts of a register field. -/
def watts (x : Rat) : Nat := Nat.min 4095 (Int.toNat (Rat.floor (x)))

/-- The least level at which a demand fits a grant. -/
def leastLevel (demand grant : Rat) : Option Nat := (List.range 16).find? (fun l => decide (demand * (16 - l : Rat) / 16 ≤ grant))

/-- arbitrate() of R396: grants of the domains in `open_`. -/
def arbitrate (demand share : Nat → Rat) : Nat → Rat → List Nat → List (Nat × Rat) → List (Nat × Rat)
  | 0, _, _, g => g
  | n + 1, b, open_, g =>
    if open_ = [] then g
    else
      let w := (open_.map share).foldl (· + ·) 0
      let low := open_.filter (fun d => decide (demand d ≤ b * share d / w))
      if low = [] then g ++ open_.map (fun d => (d, b * share d / w))
      else arbitrate demand share n (b - (low.map demand).foldl (· + ·) 0) (open_.filter (fun d => !low.contains d))
        (g ++ low.map (fun d => (d, demand d)))

def grantOf (g : List (Nat × Rat)) (d : Nat) : Rat := ((g.find? (fun x => x.1 = d)).map (·.2)).getD 0

/-- The limit the arbiter divides. -/
def limitInForce (s : State) : Nat := if sensorFailed s 2 then Nat.min s.pwr.limit 1600 else s.pwr.limit

/-- A domain's demand: its estimate scaled by the level it held; without history, its fused maximum power (R397). -/
def demandOf (s : State) (est : Nat → Rat) (d : Nat) : Rat :=
  if s.pwr.histLeft ≠ 0 then (Config.fusedMaxPower d : Rat)
  else est d * 16 / (16 - (rd s Fld.PWR_DOM_LEVEL d : Rat))

/-- The reserve of a measured domain: the highest of its last four estimates, plus 5 %. -/
def reserveOf (l : List Nat) : Rat := ((l.foldl Nat.max 0 : Nat) : Rat) / 1000 * 105 / 100

/-- Grant and arbiter level of one domain. -/
def setGrant (s : State) (d : Nat) (demand grant : Rat) : State :=
  let s := wr s Fld.PWR_DOM_GRANT (watts grant) d
  match leastLevel demand grant with
  | some l => wr s Fld.PWR_DOM_ARB l d
  | none => flag (wr s Fld.PWR_DOM_ARB 15 d) Fld.PWR_EVENT_OVER

/-- One constellation's draw and level (R397, R398); its draw is given in mW. -/
def conWindow (s : State) (k mw : Nat) : State :=
  let word := (KMap.get (fun _ => 0#32) s.pwr.share k).toNat
  let hist := KMap.get (fun _ => 0) s.pwr.conHist k
  let cap := (s.img.caps.find? (fun e => e.1 = k)).map (·.2)
  let share := if hist ≠ 0 then cap.getD (bitsOf word 0 12) else bitsOf word 0 12
  let old := KMap.get (fun _ => 0) s.pwr.conLevel k
  let demand : Rat := (mw : Rat) / 1000 * 16 / (16 - (old : Rat))
  let level := if share = 0 then 0 else (leastLevel demand (share : Rat)).getD 15
  { s with pwr := { s.pwr with
    conDraw := KMap.set (fun _ => 0) s.pwr.conDraw k (mw / 1000)
    conLevel := KMap.set (fun _ => 0) s.pwr.conLevel k level
    conHist := KMap.set (fun _ => 0) s.pwr.conHist k (hist - 1) } }

/-- One window (R395 to R398): energies of the thirteen domains and of the constellations in the window that ends, in mW. -/
def window (s : State) (raw : List Nat) (cons : List (Nat × Nat)) : State :=
  let s := if s.pwr.limitPending then { s with pwr := { s.pwr with limit := rd s Fld.PWR_LIMIT_WATTS, limitPending := false } } else s
  let est := estimate s raw
  let mw (d : Nat) : Nat := Int.toNat (Rat.floor (est d * 1000))
  let s := { s with pwr := { s.pwr with
    est := (List.range 13).foldl (fun m d => KMap.set (fun _ => 0) m d (mw d)) s.pwr.est
    reserve := [10, 11, 12].foldl (fun m d => KMap.set (fun _ => []) m d ((mw d :: KMap.get (fun _ => []) m d).take 4)) s.pwr.reserve } }
  let res (d : Nat) : Rat := reserveOf (KMap.get (fun _ => []) s.pwr.reserve d)
  let demand := demandOf s est
  let share (d : Nat) : Rat := (staticShare s d : Rat)
  let grants := if s.pwr.histLeft ≠ 0 then (List.range 10).map (fun d => (d, share d))
    else arbitrate demand share 11 ((limitInForce s : Rat) - res 10 - res 11 - res 12) (List.range 10) []
  let s := (List.range 10).foldl (fun s d => setGrant s d (demand d) (grantOf grants d)) s
  let s := [10, 11, 12].foldl (fun s d => wr s Fld.PWR_DOM_GRANT (watts (res d)) d) s
  let s := wr s Fld.PWR_STATUS_DRAW (watts (((List.range 13).map est).foldl (· + ·) 0))
  let left := s.pwr.histLeft - 1
  let s := wr { s with pwr := { s.pwr with histLeft := left } } Fld.PWR_STATUS_NOHIST (if left = 0 then 0 else 1)
  applyLevels (cons.foldl (fun s e => conWindow s e.1 e.2) s)

/-- ARBITRATION_WINDOW (R396). -/
def execArbitrationWindow (raw : List Nat) (cons : List (Nat × Nat)) (s : State) : Out :=
  let s := quiet s
  .next (if s.pwr.standby then s else window s raw cons)

/-- Power of the domains of a rail in the last window, in mW. -/
def railEst (s : State) (r : Nat) : Nat :=
  (((List.range 13).filter (fun d => railOf d = r)).map (fun d => KMap.get (fun _ => 0) s.pwr.est d)).foldl (· + ·) 0

/-- A rail's coefficient set is scaled by telemetry over estimate, both in mW. -/
def correct (s : State) (r tele : Nat) : State :=
  let e := railEst s r
  if e = 0 then s
  else
    let n := KMap.get (fun _ => 1) s.pwr.scaleNum r * tele
    let d := KMap.get (fun _ => 1) s.pwr.scaleDen r * e
    let g := Nat.gcd n d
    { s with pwr := { s.pwr with
      scaleNum := KMap.set (fun _ => 1) s.pwr.scaleNum r (n / g)
      scaleDen := KMap.set (fun _ => 1) s.pwr.scaleDen r (d / g) } }

/-- COEFF_CORRECTION (R395): telemetry of VDD_A, VDD_B, VDD_HUB, VDD_SER and VDDQ_STK. -/
def execCoeffCorrection (tele : List Nat) (s : State) : Out :=
  .next (tele.zipIdx.foldl (fun s e => if e.2 < 5 then correct s e.2 e.1 else s) (quiet s))

/-- A write of PWR_LIMIT (R405). -/
def writeLimit (s : State) (who : Requester) (w : Nat) : State :=
  if !mayImage who then s
  else { wr s Fld.PWR_LIMIT_WATTS (Nat.max 1200 (Nat.min 2400 w)) with pwr := { s.pwr with limitPending := true } }

/-! Temperature (R400 to R403) -/

/-- The limit of a die, in °C (R400). -/
def dieLimit (i : Nat) : Int := if 3 ≤ i && isLit (i - 3) then 95 else 105

/-- THM_DIE.RATE that a governing estimate sets. -/
def sampleRate (i : Nat) (t : Int) : Nat := if t ≥ dieLimit i - 3 then 2 else if t ≥ dieLimit i - 10 then 1 else 0

def sensorOf (s : State) (i : Nat) : Sensor := KMap.get (fun _ => Sensor.reset) s.pwr.sensors i

/-- Governing estimate of a die in °C. -/
def governOf (s : State) (i : Nat) : Int := KMap.get (fun _ => 0) s.pwr.governs i / 10

/-- The comparison of R401: the sensor's marks after a sample. -/
def compareSensor (s : State) (i : Nat) (diff : Int) : State :=
  let x := sensorOf s i
  let apart := if diff > 3 then some (x.apart.getD s.ns) else none
  let close := if diff > 3 then none else some (x.close.getD s.ns)
  let st := rd s Fld.THM_DIE_STATE i
  let s := { s with pwr := { s.pwr with
    sensors := KMap.set (fun _ => Sensor.reset) s.pwr.sensors i ⟨apart, close, decide (diff > 8)⟩ } }
  if st = 2 then s
  else if diff > 8 ∧ x.wide = true then flag (wr s Fld.THM_DIE_STATE 2 i) Fld.THM_EVENT_FAILED
  else if st = 0 ∧ apart.any (fun t => decide (t + 10000000000 ≤ s.ns)) = true then flag (wr s Fld.THM_DIE_STATE 1 i) Fld.THM_EVENT_SUSPECT
  else if st = 1 ∧ close.any (fun t => decide (t + 60000000000 ≤ s.ns)) = true then wr s Fld.THM_DIE_STATE 0 i
  else s

/-- The temperature that governs a throttled domain (Table 15.9). -/
def domTemp (s : State) (d : Nat) : Int :=
  if d < 2 then max (governOf s d) (governOf s 2)
  else
    let n := stackOfSlot (d - 2)
    (List.range 16).foldl (fun a k => max a (KMap.get (fun _ => 0) s.pwr.readout (n * 16 + k))) (max (governOf s (3 + n)) (governOf s 2))

/-- A thermal level's step at a sample of its temperature (R403). -/
def nextTherm (l : Nat) (t : Int) : Nat :=
  if t ≥ 105 then 15 else if t ≥ 100 then Nat.min 15 (l + 1) else if t ≤ 97 then l - 1 else l

def thermStep (s : State) (d : Nat) : State :=
  let l := rd s Fld.PWR_DOM_THERM d
  let n := nextTherm l (domTemp s d)
  let s := wr s Fld.PWR_DOM_THERM n d
  applyLevel (if l = 0 ∧ n > 0 then flag s Fld.THM_EVENT_THROTTLE else s) d

/-- Domains whose temperature a die's sample is part of. -/
def sampledDomains (i : Nat) : List Nat :=
  if i < 2 then [i] else if i = 2 then List.range 10 else if isLit (i - 3) then [stackDomain (i - 3)] else []

/-- One sample of a die: diode and ring oscillator in °C. -/
def sample (s : State) (i : Nat) (diode ring : Int) : State :=
  let s := compareSensor s i ((diode - ring).natAbs : Int)
  let st := rd s Fld.THM_DIE_STATE i
  let t := if st = 2 then ring else if st = 1 then max diode ring else diode
  let byte (x : Int) : Nat := (x % 256).toNat
  let s := wr (wr (wr (wr s Fld.THM_DIE_TEMP (byte t) i) Fld.THM_DIE_DIODE (byte diode) i) Fld.THM_DIE_RING (byte ring) i)
    Fld.THM_DIE_RATE (sampleRate i t) i
  let s := { s with pwr := { s.pwr with governs := KMap.set (fun _ => 0) s.pwr.governs i (10 * t) } }
  let s := if i < 3 ∧ t ≥ 105 then flag s Fld.THM_EVENT_LIMIT else s
  applyLevels ((sampledDomains i).foldl thermStep s)

/-- TEMP_SAMPLE (R400, R401, R403): two's-complement °C. -/
def execTempSample (die : Fin 15) (diode ring : BitVec 8) (s : State) : Out :=
  .next (sample (quiet s) die.val diode.toInt ring.toInt)

end Sys2Proof.Machine
end

