-- ==== Sys2Proof/Machine/Clk.lean ====
section
/-! DEFINITION. Reference clocks, time inputs, crossing FIFOs, resets and the boot sequence (16 R407 to R424, 12 R329, 18 R454, R455). -/

namespace Sys2Proof.Machine

/-! Time inputs (R329, R338, R455) -/

/-- An edge of MER_PPS that is accepted: the first one, the first after edges were missed, or one 999 ms to 1,001 ms after the last. -/
def ppsAccepted (s : State) : Bool :=
  s.fab.ppsLost || (match s.fab.pps with
    | none => true
    | some t => decide (t + 999000000 ≤ s.ns) && decide (s.ns ≤ t + 1001000000))

/-- MER_PPS_EDGE (R329). -/
def execMerPpsEdge (s : State) : Out :=
  let s := quiet s
  .next (if merSrc s = 1 ∧ ppsAccepted s = true then
      let n := rd64 s Fld.MER_SET_LO_COUNT Fld.MER_SET_HI_COUNT
      let s := flag (wr64 s Fld.MER_SET_LO_COUNT Fld.MER_SET_HI_COUNT ((n + 1000000000) % 2 ^ 64)) Fld.MER_STATUS_STEPPED
      { s with mer := n, fab := { s.fab with pps := some s.ns, ppsLost := false } }
    else s)

/-- PPS_LOST (R338). -/
def execPpsLost (s : State) : Out :=
  let s := quiet s
  .next (if merSrc s = 1 then { flag s Fld.MER_STATUS_PPS_LOST with fab := { s.fab with ppsLost := true } } else s)

/-- MER_10M_ABSENT (R455): the input stops, or returns. -/
def execMer10mAbsent (absent : Bool) (s : State) : Out :=
  let s := quiet s
  .next { s with fab := { s.fab with no10m := absent } }

/-! Reference clocks (R407 to R410) -/

/-- The meridian is trusted (R408). -/
def merTrusted (s : State) : Bool :=
  (merSrc s = 0 && rd s Fld.MER_STATUS_LOCKED = 1) || (merSrc s = 1 && !s.fab.ppsLost)

/-- A_STATE and B_STATE: absence overrides every other state. -/
def refState (t : RefTrack) : Nat := if t.absent then 3 else t.state

def setTracks (s : State) (a b : RefTrack) : State :=
  wr (wr { s with ckr := { s.ckr with trackA := a, trackB := b } } Fld.CKR_REF_STATUS_A_STATE (refState a))
    Fld.CKR_REF_STATUS_B_STATE (refState b)

/-- A deviation as CKR_REF_PPM holds it: 16 bits, signed, saturating. -/
def ppmWord (x : Int) : Nat := (clampInt (-32768) 32767 x % 65536).toNat

/-- One reference at the end of a window, by its deviation in ppm. While the meridian is not trusted nothing becomes off; an off
reference leaves that state only by becoming good. -/
def refWindow (trusted : Bool) (dev : Int) (t : RefTrack) : RefTrack :=
  let n := dev.natAbs
  let warn := if n > 200 then t.warn + 1 else 0
  let off := if trusted ∧ n > 500 then t.off + 1 else 0
  let good := if n ≤ 200 then t.good + 1 else 0
  let st := if off ≥ 3 then 2 else if warn ≥ 3 ∧ t.state = 0 then 1 else if good ≥ 100 then 0 else t.state
  { t with warn := warn, off := off, good := good, state := st }

/-- A reference has become warn; absence overrides that state. -/
def becameWarn (old new : RefTrack) : Bool := new.state = 1 && old.state ≠ 1 && !new.absent

/-- The end of a window, with the edges of REFCLK_A and REFCLK_B counted in it. -/
def windowEnd (s : State) (a b : Nat) : State :=
  if s.pwr.standby then s
  else
    let trusted := merTrusted s
    let da : Int := if trusted then (a : Int) - 1000000 else (a : Int) - b
    let db : Int := if trusted then (b : Int) - 1000000 else -da
    let ta := refWindow trusted da s.ckr.trackA
    let tb := refWindow trusted db s.ckr.trackB
    let warn := becameWarn s.ckr.trackA ta || becameWarn s.ckr.trackB tb
    let s := setTracks s ta tb
    let s := wr (wr s Fld.CKR_REF_PPM_A (ppmWord da)) Fld.CKR_REF_PPM_B (ppmWord db)
    if warn then flag s Fld.CKR_EVENT_WARN else s

/-- REF_WINDOW_END (R408). -/
def execRefWindowEnd (a b : BitVec 32) (s : State) : Out := .next (windowEnd (quiet s) a.toNat b.toNat)

/-- REF_ABSENT (R407): a reference's edges stop, or return. -/
def execRefAbsent (ref : Fin 2) (absent : Bool) (s : State) : Out :=
  let s := quiet s
  .next (if ref.val = 0 then setTracks s { s.ckr.trackA with absent := absent } s.ckr.trackB
    else setTracks s s.ckr.trackA { s.ckr.trackB with absent := absent })

def setActive (s : State) (src : Nat) (event : Field) : State := flag (wr s Fld.CKR_REF_STATUS_ACTIVE src) event

/-- Holdover begins, or ends on a source. -/
def holdOn (s : State) : State := flag (setActive s 2 Fld.CKR_REF_STATUS_HOLDOVER) Fld.CKR_EVENT_HOLD_ON
def holdOff (s : State) (src : Nat) : State := setActive (wr s Fld.CKR_REF_STATUS_HOLDOVER 0) src Fld.CKR_EVENT_HOLD_OFF

/-- The change at a meridian slot boundary (R409). -/
def refSwitch (s : State) : State :=
  let a := refState s.ckr.trackA
  let b := refState s.ckr.trackB
  let act := rd s Fld.CKR_REF_STATUS_ACTIVE
  let held := rd s Fld.CKR_REF_STATUS_HOLDOVER = 1
  let best := if a = 0 then 0 else 1
  let neither := decide (a ≠ 0) && decide (b ≠ 0)
  if s.pwr.standby then s
  else if rd s Fld.CKR_REF_CTRL_AUTO = 1 then
    if held then (if neither then s else holdOff s best)
    else if neither then holdOn s
    else if act = 2 then setActive s best Fld.CKR_EVENT_SWITCH
    else
      let mine := if act = 0 then a else b
      let other := if act = 0 then b else a
      if mine ≥ 2 ∧ other = 0 then setActive s (1 - act) Fld.CKR_EVENT_SWITCH else s
  else
    let sel := rd s Fld.CKR_REF_CTRL_SEL
    let gone := (sel = 0 && a = 3) || (sel = 1 && b = 3)
    if held then (if gone then s else holdOff s sel)
    else if gone then holdOn s
    else if act = sel then s
    else setActive s sel Fld.CKR_EVENT_SWITCH

/-- REF_SWITCH. -/
def execRefSwitch (s : State) : Out := .next (refSwitch (quiet s))

/-! Crossing FIFOs (R413) -/

/-- One discarded entry: what the requester that survives the reset receives. -/
def dropEntry (s : State) (e : FifoEntry) : State :=
  let s := inc s Fld.CKR_FIFO_DROP_COUNT
  match e with
  | .mmioRead who off _ => reply (recordXstat s Fld.CKR_XSTAT_ACCESS_TIMEOUT who off.toNat) who .timeout
  | .windowRead who => let r := free 512 s; reply r.2 who (.data (lineBytes r.1) true)
  | .write => s

/-- FIFO_RESYNC. -/
def execFifoResync (entries : List FifoEntry) (s : State) : Out :=
  let s := quiet s
  .next (if entries.isEmpty then s else flag (entries.foldl dropEntry s) Fld.CKR_EVENT_FIFO_DROP)

/-! Whole-part resets (R414, R420, R454) -/

/-- The part after a power-on (rank 1) or device (rank 2) reset: Table 16.2. -/
def rebuildPart (s : State) (rank : Nat) : State :=
  let dev := decide (rank = 2)
  let t : State := { State.reset with
    pending := s.pending
    out := s.out
    fresh := s.fresh
    ns := s.ns
    mer := if dev then s.mer else 0
    regs := s.regs.resetWhere rank (fun _ => true)
    fab := if dev then { Fab.reset with
        merOffsets := s.fab.merOffsets
        merGood := s.fab.merGood
        merHops := s.fab.merHops
        merSlew := s.fab.merSlew
        no10m := s.fab.no10m
        pps := s.fab.pps
        ppsLost := s.fab.ppsLost }
      else { Fab.reset with no10m := s.fab.no10m }
    ras := { Ras.reset with
      spareRows := s.ras.spareRows
      exhausted := s.ras.exhausted
      retiredClusters := s.ras.retiredClusters
      retiredUnits := s.ras.retiredUnits }
    saf := { Saf.reset with
      alarm := dev && s.saf.alarm
      heartbeat := [(0, s.ns), (1, s.ns)].filter (fun e => e.2 ≠ 0) }
    bst := { Bst.reset with bootAt := s.ns }
    sec := { s.sec with
      keys := []
      sessions := []
      negotiated := 0
      authFails := []
      ending := []
      fieldDebug := false
      udsLocked := dev && s.sec.udsLocked
      secrets := dev && s.sec.secrets
      alarmLatched := dev && s.sec.alarmLatched }
    pwr := { Pwr.reset with trace := if dev then s.pwr.trace else [] }
    ckr := { Ckr.reset with
      trackA := { RefTrack.reset with absent := s.ckr.trackA.absent }
      trackB := { RefTrack.reset with absent := s.ckr.trackB.absent }
      params := s.ckr.params
      repaired := s.ckr.repaired
      bootSrc := s.ckr.bootSrc
      startedAt := s.ns
      flashed := s.ckr.flashed }
    alarmN := dev && s.alarmN }
  let t := putRows (putSpares (setTracks t t.ckr.trackA t.ckr.trackB))
  let t := wr t Fld.CKR_BOOT_PHASE 1
  if t.saf.alarm then flag t Fld.SAF_STATUS_DEVICE else t

/-- PORST (R454): how long PORST_N was low, in ns; whether a pulse of 1 µs to 10 µs resets; and BOOTSRC at the rise (R452). -/
def execPorst (low : BitVec 32) (taken : Bool) (bootSrc : BitVec 2) (s : State) : Out :=
  let s := quiet s
  .next (if low.toNat ≥ 10000 ∨ (low.toNat ≥ 1000 ∧ taken = true) then
      let t := rebuildPart s 1
      { t with ckr := { t.ckr with bootSrc := bootSrc.toNat % 3 } }
    else s)

def isMgmt : Requester → Bool
  | .mgmt _ => true
  | _ => false

def resetRefused (s : State) : State := flag s Fld.CKR_RST_STATUS_REFUSED

/-- CKR_RST KIND 1 (R414, R419). -/
def deviceReset (s : State) (who : Requester) : State :=
  if !isMgmt who then resetRefused s
  else if s.ckr.booting && rd s Fld.CKR_BOOT_FAIL = 0 && rd s Fld.CKR_BOOT_PHASE ≠ 0 then s
  else flag (rebuildPart s 2) Fld.CKR_RST_CAUSE_DEVICE

/-! Cluster and partition resets (R415, R416, R419) -/

/-- A cluster leaves an entry that has not reached its point of no return. -/
def leaveEntry (s : State) (r : PwrRun) (c : Nat) : State :=
  if r.past.isEmpty then abortRun s r
  else
    let s := recordRefusal s r.req [(0, c)] 2 true
    let s := setCluPwr { s with pwr := { s.pwr with toGate := s.pwr.toGate.filter (fun x => x ≠ c) } } c
      (KMap.get (fun _ => 0) r.was c)
    domainDone s r 0 c

/-- An entry under way at a cluster is aborted, or completes where it can no longer be. -/
def settleEntry (s : State) (c : Nat) : State :=
  match s.pwr.run with
  | none => s
  | some r =>
    if r.req.state ≠ 0 ∧ (0, c) ∈ r.doms then
      if r.past.any (fun x => x.1 = 0 && x.2.1 = c) then domainDone (clusterDown s r c s.mer) r 0 c else leaveEntry s r c
    else s

/-- A reset reaches a cluster: one in DUSK or NIGHT is first woken, its NIGHT save discarded. -/
def resetLeaf (s : State) (c rank : Nat) : State :=
  let s := settleEntry s c
  let st := cluPwr s c
  if st = 0 ∨ st = 3 then loseHistory (resetCluster s c rank) c
  else
    let s := { wr s Fld.CLU_PWR_SAVED 0 c with
      seq := { s.seq with contexts := KMap.set (fun _ => none) s.seq.contexts (2 ^ 20 + c) none }
      pwr := { s.pwr with resetOnWake := KSet.add s.pwr.resetOnWake c } }
    if st = 1 then { setCluPwr s c 4 with pwr := { s.pwr with waking := KSet.add s.pwr.waking (1000 + c) } }
    else if st = 2 then { setCluPwr s c 4 with pwr := { s.pwr with toWake := KSet.add s.pwr.toWake c } }
    else s

/-- A request is accepted. -/
def acceptReset (s : State) (kind : Nat) : State := wr s Fld.CKR_RST_STATUS_LAST kind

/-- CKR_RST KIND 3, from Castor and Pollux only. -/
def clusterReset (s : State) (who : Requester) (c : Nat) : State :=
  if who ≠ .supervisor ∨ deviceEclipse s = true then resetRefused s
  else if c ≥ 152 ∨ c ∈ s.pwr.resetOnWake then s
  else resetLeaf (acceptReset s 3) c 6

/-- Offsets of a constellation's CON block. -/
def inConBlock (k off : Nat) : Bool := off / 65536 = 0x400 + k

/-- Who may reset a constellation (Table 16.1). -/
def mayPartition (s : State) (who : Requester) (k : Nat) : Bool := mayImage who || (conTenant s.img k).any (boundTo s who)

/-- CKR_RST KIND 2: steps of the loops on a reset leaf are discarded without counting, then each leaf and the CON block are reset. -/
def partitionReset (s : State) (who : Requester) (k : Nat) : State :=
  if !mayPartition s who k || deviceEclipse s then resetRefused s
  else if (conRec s.img k).isNone then s
  else
    let cs := physLeaves s.img k
    let loops := (cs.flatMap (loopsWith s)).dedup
    let s := loops.foldl (discardWith false) (acceptReset s 2)
    let s := cs.foldl (fun s c => resetLeaf s c 4) s
    { s with
      regs := s.regs.resetWhere 4 (inConBlock k)
      shadow := s.shadow.filter (fun e => !inConBlock k e.1)
      seq := { s.seq with
        conRuns := s.seq.conRuns.filter (fun r => r.con ≠ k)
        conDone := KSet.del s.seq.conDone k } }

/-! Port resets (R418) -/

/-- A port reset that has not trained its link again. -/
def portResetting (s : State) (p : Nat) : Bool := s.ckr.portResets.contains p && (portState s p = 1 || portState s p = 2)

/-- CKR_RST KIND 4: the session and the replay buffer go, requests go to another port or end, and the port trains again. -/
def portReset (s : State) (who : Requester) (p : Nat) : State :=
  if !mayImage who || deviceEclipse s then resetRefused s
  else if p ≥ 18 ∨ portResetting s p = true then s
  else
    let s := acceptReset s 4
    let up := rd s Fld.FAB_PORT_CTRL_EN p = 1 ∧ rd s Fld.FAB_DEVID_VALID = 1
    let s := { s with pwr := { s.pwr with
      sleep := KSet.del s.pwr.sleep p
      waking := KSet.del s.pwr.waking (12 + p) } }
    let s := loseLink { s with regs := s.regs.resetWhere 4 (inPortBlock p) } p (if up then 1 else 0)
    let s := setFport s p Port.reset
    { s with ckr := { s.ckr with portResets := KSet.add s.ckr.portResets p } }

/-- CKR_RST_STATUS.BUSY. -/
def resetBusy (s : State) : Bool :=
  !s.pwr.resetOnWake.isEmpty || (List.range 18).any (portResetting s) ||
    (s.ckr.booting && rd s Fld.CKR_RST_CAUSE_DEVICE = 1)

/-- A write of CKR_RST. -/
def ckrRst (s : State) (who : Requester) (w : Nat) : State :=
  let k := bitsOf w 0 3
  let i := bitsOf w 3 10
  if k = 1 then deviceReset s who
  else if k = 2 then partitionReset s who i
  else if k = 3 then clusterReset s who i
  else if k = 4 then portReset s who i
  else s

/-! Boot (R421 to R424) -/

/-- Boot stops in a hold. -/
def bootFail (s : State) (code : Nat) : State := { wr s Fld.CKR_BOOT_FAIL code with faultN := true }

def nextPhase (s : State) (n : Nat) : State := wr s Fld.CKR_BOOT_PHASE n

/-- The reference the always-on domain starts on. -/
def pickRef (s : State) : State :=
  if !s.ckr.trackA.absent then wr s Fld.CKR_REF_STATUS_ACTIVE 0
  else if !s.ckr.trackB.absent then wr s Fld.CKR_REF_STATUS_ACTIVE 1
  else flag (wr s Fld.CKR_REF_STATUS_ACTIVE 2) Fld.CKR_REF_STATUS_HOLDOVER

/-- First-stage firmware that the ROM accepts (R372). -/
def firmwareOk (s : State) (f : Firmware) : Bool :=
  keySlotOk s f.slot.val &&
    signatureOk (rd s Fld.SEC_KEYSLOT_LMS) f.slot.val f.block (natLe 8 f.gen.toNat ++ natLe 8 f.params.toNat ++ f.body) &&
    decide (floorOf s ≤ f.gen.toNat)

/-- What boot flash delivers, where it can be read: the firmware last written by a PLDM update (R441), else what it held before. -/
def flashFirmware (s : State) (r : BootReport) : Option Firmware := r.flash.map (fun f => s.ckr.flashed.getD f)

/-- The sources in the order the ROM tries them, each with its SEC_BOOT.FW_SRC. -/
def firmwareSources (s : State) (r : BootReport) : List (Nat × Option Firmware) :=
  let b := s.ckr.bootSrc
  if b = 0 then [(0, flashFirmware s r), (1 + r.hostPort.val, r.host)] else [(b, r.host), (0, flashFirmware s r)]

/-- Phase 2: firmware is verified and layer 0 forms the identity (R372, R373). The UDS is read once between power-ons. -/
def bootFirmware (s : State) (r : BootReport) : State :=
  match (firmwareSources s r).findSome? (fun x => match x.2 with
      | some f => if firmwareOk s f then some (x.1, f) else none
      | none => none) with
  | none => bootFail s 1
  | some (src, f) =>
    let s := wr (wr (flag s Fld.SEC_BOOT_FW_OK) Fld.SEC_BOOT_FW_SRC src) Fld.SEC_BOOT_SLOT f.slot.val
    let s := wr64 s Fld.CKR_TRAIN_PARAM_LO_OFFSET Fld.CKR_TRAIN_PARAM_HI_OFFSET f.params.toNat
    { s with sec := { s.sec with
      udsLocked := true
      secrets := if s.sec.udsLocked then s.sec.secrets else !s.sec.udsDestroyed } }

/-- Stored parameters that R423 lets be used. -/
def storedFit (s : State) (r : BootReport) : Bool :=
  match s.ckr.params with
  | none => false
  | some p =>
    p.crcOk && p.serial = rd64 s Fld.HUB_SERIAL_LO_SERIAL Fld.HUB_SERIAL_HI_SERIAL && p.stackSerials = r.stackSerials &&
      (p.diodes.zip r.diodes).all (fun d => decide ((d.1 - d.2).natAbs ≤ 20)) && p.diodes.length = r.diodes.length &&
      !s.ckr.repaired && rd s Fld.CKR_TRAIN_CTRL_FULL = 0

/-- Phase 6: the stacks are trained. -/
def bootTrain (s : State) (r : BootReport) : State :=
  let stored := storedFit s r
  if !stored && !r.trained then bootFail s 4
  else
    let s := wr s Fld.CKR_TRAIN_CTRL_STORED (if stored then 1 else 0)
    let s := progress s Fld.CKR_TRAIN_POS_LO_POS Fld.CKR_TRAIN_POS_HI_POS Fld.CKR_TRAIN_PCT_PCT 768 768 768
    { s with ckr := { s.ckr with stackSerials := r.stackSerials } }

/-- A unit that fails at power-on is retired (R368). -/
def bootBadUnit (s : State) (u : PairRef) : State :=
  let k := u.stack.val * 1024 + pairRefUnit u
  domainFails (flag { s with ras := { s.ras with retiredUnits := KSet.add s.ras.retiredUnits k }
                             saf := { s.saf with units := KSet.add s.saf.units k } } Fld.RAS_EVENT_RETIRED)
    (.unit u.stack.val (pairRefUnit u))

/-- A cluster that fails at power-on is retired, and stays in eclipse (R368). -/
def bootBadCluster (s : State) (c : Fin 152) : State :=
  domainFails (flag { s with ras := { s.ras with retiredClusters := KSet.add s.ras.retiredClusters c.val }
                             saf := { s.saf with clusters := KSet.add s.saf.clusters c.val } } Fld.RAS_EVENT_RETIRED) (.cluster c.val)

/-- Phase 9: the full image is loaded (R50). -/
def bootLoad (s : State) (r : BootReport) : State :=
  let s := wr { s with load := { Load.idle with running := true, srcKind := 1 } } Fld.IMG_STATUS_STATE 1
  imgRelease (imgSwitch (verifyBytes s r.image))

/-- The part is serving-ready: sixteen arbiter windows have passed, and supervisor firmware runs (R397, R422). -/
def becomeReady (s : State) : State :=
  let s := wr { s with
    ckr := { s.ckr with booting := false }
    pwr := { s.pwr with histLeft := 0, conHist := [] } } Fld.PWR_STATUS_NOHIST 0
  flag (flag s Fld.CKR_BOOT_READY) Fld.CKR_EVENT_READY

/-- The phase in progress ends. -/
def bootPhaseEnd (s : State) (r : BootReport) : State :=
  if !s.ckr.booting || rd s Fld.CKR_BOOT_FAIL ≠ 0 then s
  else
    let go (n : Nat) (t : State) : State := if rd t Fld.CKR_BOOT_FAIL ≠ 0 then t else nextPhase t n
    match Nat.max 1 (rd s Fld.CKR_BOOT_PHASE) with
    | 1 => go 2 (pickRef s)
    | 2 => go 3 (bootFirmware s r)
    | 3 => if !r.conditions then bootFail s 3 else if !r.groupsOk then bootFail s 2 else nextPhase s 4
    | 4 => nextPhase s 5
    | 5 => nextPhase { s with saf := { s.saf with
        heartbeat := KMap.set (fun _ => 0) (KMap.set (fun _ => 0) s.saf.heartbeat 0 s.ns) 1 s.ns } } 6
    | 6 => go 7 (bootTrain s r)
    | 7 =>
      if !r.conditions then bootFail s 3 else if !r.groupsOk then bootFail s 2 else nextPhase (r.badUnits.foldl bootBadUnit s) 8
    | 8 =>
      if !r.conditions then bootFail s 3
      else
        let s := putSpares (r.badClusters.foldl bootBadCluster s)
        let s := { s with
          mem := { s.mem with written := [], fills := [], dram := [], poison := [] }
          bst := { s.bst with bootAt := s.ns } }
        if [0, 1].any (fun d => decide ((s.ras.retiredClusters.filter (fun c => dieOfCluster c = d)).length > 4)) then bootFail s 5
        else nextPhase s 9
    | _ =>
      let s := bootLoad s r
      if imgState s = 5 then becomeReady s else bootFail s 6

/-- BOOT_PHASE_END (R421). -/
def execBootPhaseEnd (report : BootReport) (s : State) : Out := .next (bootPhaseEnd (quiet s) report)

/-- A write of 1 to CKR_TRAIN_CTRL.SAVE (R423). -/
def trainSave (s : State) (who : Requester) : State :=
  if !mayImage who then s
  else
    let diodes := (List.range 12).map (fun n => signedOf 8 (rd s Fld.THM_DIE_DIODE (3 + n)))
    { s with ckr := { s.ckr with
      params := some ⟨true, rd64 s Fld.HUB_SERIAL_LO_SERIAL Fld.HUB_SERIAL_HI_SERIAL, s.ckr.stackSerials, diodes⟩
      repaired := false } }

end Sys2Proof.Machine
end

