-- ==== Sys2Proof/Machine/Mmio.lean ====
section
/-! DEFINITION. MMIO accesses (00 R2 to R6, 01 R22 to R25, R29 to R31, 16 R411 and R412, 17 R430 and R437): which register an offset
names for a requester, what a read returns, and the reads themselves. -/

namespace Sys2Proof.Machine

/-! Which register an offset names -/

/-- The logical number of an alias block (R24). -/
def aliasNo (off : Nat) : Option Nat :=
  if 0x3000000 ≤ off ∧ off < 0x3000000 + 144 * 65536 then some ((off - 0x3000000) / 65536) else none

/-- The CLU block of a cluster that holds no logical number, has been retired or is in eclipse answers only Castor and Pollux (R23, R360). -/
def cluAnswers (s : State) (who : Requester) (c : Nat) : Bool :=
  decide (who = .supervisor) ||
    ((logicalOf s.img c).isSome && !s.ras.retiredClusters.contains c && !clusterEclipse s c)

/-- A CON block exists for a constellation of the image; one that a load defines appears at the end of the load (R25). -/
def conExists (s : State) (k : Nat) : Bool :=
  (conRec s.img k).isSome && !(s.load.running && s.load.appear.contains k)

/-- A register of a CON block: CON_INFO, or the layout of a cluster's launch and status registers below 0x8000 (R42, R45). -/
def isConReg (x : Nat) : Bool := decide (x = 0x8000) || (decide (x < 0x8000) && isReg (0x2000000 + x))

/-- The trace store (Table 15.10). -/
def inTrace (off : Nat) : Bool := decide (0x580000 ≤ off) && decide (off < 0x600000)

/-- Claim and complete registers of vectors, seen only by the function that has the vector (Table 17.5). -/
def vectorNo (off : Nat) : Option Nat :=
  if 0x408000 ≤ off ∧ off < 0x408000 + 8 * 2048 then some ((off - 0x408000) / 8) else none

def hasVector (s : State) (who : Requester) (v : Nat) : Bool :=
  match who with
  | .hostPf p => decide (v < fnVectors s.img p.val 0)
  | .hostVf p f => decide (v < fnVectors s.img p.val f.val)
  | _ => false

/-- The register an offset names for a requester, with an alias block resolved; none where no register is defined (R2, R22 to R25). -/
def resolve (s : State) (who : Requester) (off : Nat) : Option Nat :=
  if off % 4 ≠ 0 ∨ off ≥ 0x8000000 then none
  else
    match aliasNo off with
    | some l => (physOf s.img l).bind (fun c =>
        let o := 0x2000000 + c * 65536 + off % 65536
        if isReg o then some o else none)
    | none =>
      let ok :=
        if 0x4000000 ≤ off then conExists s ((off - 0x4000000) / 65536) && isConReg (off % 65536)
        else if 0x2000000 ≤ off then isReg off && cluAnswers s who ((off - 0x2000000) / 65536)
        else if inTrace off then true
        else
          match vectorNo off with
          | some v => hasVector s who v
          | none => isReg off
      if ok then some off else none

/-- Accesses through an alias block are held while its logical number moves: a fail-over under R354, or a rotation under R366 from the
pre-emption request on (R24). -/
def moving (s : State) (l : Nat) : Bool :=
  s.ras.moves.any (fun m => m.1 = l) ||
    (physOf s.img l).any (fun c => s.ras.condemned.contains c ||
      (preempting s c && s.seq.saving.isEmpty && nextCluster s (dieOfCluster c) = some c && !rotationOff s))

/-! Domains that do not answer -/

/-- Registers of the always-on domain (R17). -/
def alwaysOn (off : Nat) : Bool :=
  decide (off / 0x100000 = 7) || inTrace off ||
    [Reg.HUB_MMIO_ERR_ADDR, Reg.HUB_MMIO_ERR_CNT, Reg.PWR_WAKE_AT_LO, Reg.PWR_WAKE_AT_HI, Reg.PWR_TRACE_WR_LO, Reg.PWR_TRACE_WR_HI,
      Reg.PWR_TRACE_LOST, Reg.SEC_LCS, Reg.SEC_ALARM, Reg.SEC_ALARM_LVL, Reg.CKR_RST_CAUSE, Reg.CKR_TRAIN_CTRL, Reg.CKR_TRAIN_PARAM_LO,
      Reg.CKR_TRAIN_PARAM_HI].contains off

/-- The register lies in a domain whose clock is stopped or whose power is removed: the CLU block of a cluster in DUSK or NIGHT, but for
CLU_PWR; in STANDBY everything outside the always-on domain (R17, R18, R412). -/
def stoppedAt (s : State) (off : Nat) : Bool :=
  if s.pwr.standby then !alwaysOn off
  else decide (0x2000000 ≤ off) && decide (off < 0x3000000) && decide (off % 65536 ≠ 0xF000) && clusterOff s ((off - 0x2000000) / 65536)

/-- A boot that has stopped holds the part in reset; only the management endpoint is reached (R424). -/
def bootHeld (s : State) (who : Requester) : Bool := rd s Fld.CKR_BOOT_FAIL ≠ 0 && !isMgmt who

/-! Values -/

/-- The word of several fields: value, first bit, width. -/
def wordOf (fs : List (Nat × Nat × Nat)) : BitVec 32 :=
  BitVec.ofNat 32 ((fs.map (fun f => f.1 % 2 ^ f.2.2 * 2 ^ f.2.1)).foldl (· + ·) 0)

def bitOf (b : Bool) : Nat := if b then 1 else 0

/-- CLU_LSTAT (Table 7.7). -/
def cluLstat (s : State) (c : Nat) : BitVec 32 :=
  let x := cl s c
  wordOf [(cluFree x, 0, 5), (bitOf x.running.isSome, 5, 1), (bitOf (cluDone x), 6, 1), (rd s Fld.CLU_LSTAT_ERR c, 7, 1),
    (rd s Fld.CLU_LSTAT_REFUSED c, 8, 1)]

/-- Packing of a streaming tile, as CLU_ARR_STATUS shows it. -/
def packShown (t : Tile) : Nat := if t.triple then 3 else t.pack

/-- CLU_ARR_STATUS (Table 6.8). -/
def arrStatus (s : State) (c : Nat) : BitVec 32 :=
  let x := cl s c
  let busy := x.runs.filter (fun r => !r.tile.thin && r.phase ≠ .drained)
  let banks := (busy.flatMap (fun r => r.tile.banks)).dedup
  let stream := x.runs.find? (fun r => !r.tile.thin && r.phase = .streaming)
  wordOf [((banks.map (2 ^ ·)).foldl (· + ·) 0, 0, 4), (bitOf stream.isSome, 4, 1), (level s c, 5, 5),
    (stream.elim 0 (fun r => packShown r.tile), 10, 2), (rd s Fld.CLU_ARR_STATUS_PREEMPT c, 12, 1),
    (bitOf (x.runs.any (fun r => r.tile.thin && (r.phase = .streaming || r.phase = .tail))), 13, 1)]

/-- CON_LSTAT (Tables 2.5 and 7.7). -/
def conLstat (s : State) (k : Nat) : BitVec 32 :=
  wordOf [(conFree s k, 0, 5), (bitOf (conBusy s k), 5, 1), (bitOf (conIsDone s k), 6, 1), (bitOf (conErr s k).isSome, 7, 1),
    (rd s (conField Fld.CLU_LSTAT_REFUSED) k, 8, 1), ((conErr s k).getD 0, 16, 8)]

/-- CON_INFO (Table 2.6). -/
def conInfo (s : State) (k : Nat) : BitVec 32 :=
  let t := conTenant s.img k
  wordOf [((leaves s.img k).length, 0, 8), (levelOf s.img k, 8, 3), (bitOf t.isSome, 11, 1), (t.getD 0, 12, 10),
    ((parentOf s.img k).getD k, 22, 10)]

/-- A register of a CON block, but for CON_PC: the fault registers are those of the lowest member with ERR (R43). -/
def conValue (s : State) (k x : Nat) : BitVec 32 :=
  if x = 0x8000 then conInfo s k
  else if x = 8 then conLstat s k
  else if x = 0x10 ∨ x = 0x18 ∨ x = 0x1C then
    ((conErr s k).bind (fun i => (physLeaves s.img k)[i]?)).elim 0#32 (fun c => s.regs.read (0x2000000 + c * 65536 + x))
  else 0#32

/-- CHANGING of STK_MODE (R145, R146). -/
def modeChanging (s : State) (n : Nat) : Bool :=
  let k := stk s n
  k.leaving ≠ 0 || k.entering ≠ 0 || k.clearing ≠ 0

/-- STK_DIESTATE (Table 5.13). -/
def dieState (s : State) (n : Nat) : BitVec 32 :=
  wordOf ((List.range 16).map (fun d => (if !procDie s.img n d then 0 else if dieHalved s n d then 2 else 1, 2 * d, 2)))

/-- IRQ_SRC_CFG of the selected source (Table 17.6). -/
def srcCfgWord (s : State) : BitVec 32 :=
  let n := rd s Fld.IRQ_SRC_SEL_SOURCE
  let c := srcCfg s n
  wordOf [(c.prio, 0, 4), (bitOf (isPending s n), 4, 1), (bitOf (inService s n).isSome, 5, 1), (bitOf (isSource n && !isEdge n), 6, 1),
    (c.target, 7, 2), (c.function, 9, 8), (c.vector, 17, 11)]

/-- IRQ_PENDw. -/
def pendWord (s : State) (w : Nat) : BitVec 32 :=
  wordOf ((List.range 32).map (fun b => (bitOf (isPending s (32 * w + b)), b, 1)))

/-- Frames held by a tenant, and whether they exceed its quota (Table 11.14). -/
def tenantHeld (s : State) (t : Nat) : Nat := KMap.get (fun _ => 0) s.kvm.frames t
def tenantOver (s : State) (t : Nat) : Bool := decide (rd s Fld.SEQ_TPQUOTA_FRAMES t < tenantHeld s t)

/-- PWR_STATES: stacks in REST and ports in SLEEP (Table 15.11). -/
def powerStates (s : State) : BitVec 32 :=
  let mask (l : KSet) (n : Nat) : Nat := ((l.filter (· < n)).map (2 ^ ·)).foldl (· + ·) 0
  wordOf [(mask s.pwr.rest 12, 0, 12), (mask s.pwr.sleep 18, 12, 18)]

/-- A 32-bit piece of the trace store. -/
def traceWord (s : State) (off : Nat) : BitVec 32 :=
  let r := KMap.get (fun _ => 0#128) s.pwr.trace ((off - 0x580000) / 16)
  BitVec.ofNat 32 (r.toNat / 2 ^ (8 * (off % 16)))

/-- The constellation PWR_CON_SEL selects. -/
def conSel (s : State) : Nat := rd s Fld.PWR_CON_SEL_CON

/-- PWR_CON_STAT of the selected constellation (Table 15.11). -/
def conStat (s : State) : BitVec 32 :=
  let k := conSel s
  wordOf [(KMap.get (fun _ => 0) s.pwr.conDraw k, 0, 12), (KMap.get (fun _ => 0) s.pwr.conLevel k, 12, 4),
    (bitOf (KMap.get (fun _ => 0) s.pwr.conHist k ≠ 0), 16, 1)]

/-- A register with fields replaced by computed values. -/
def withFields (v : BitVec 32) (fs : List (Field × Nat)) : BitVec 32 := fs.foldl (fun v f => putBits v f.1.lo f.1.width f.2) v

/-- Registers of the HUB, IMG, SEQ and KVM blocks that report other state. -/
def lowValue (s : State) (off : Nat) (v : BitVec 32) : BitVec 32 :=
  if off = Reg.HUB_HASH_INFO then BitVec.ofNat 32 s.img.hash.chans.length
  else if off = Reg.KVM_ATT_FREE then BitVec.ofNat 32 (4096 - s.kvm.queue.length)
  else if off = Reg.KVM_FREE_PAGES then BitVec.ofNat 32 (freePages s)
  else if off = Reg.KVM_FREE_PAIRS then BitVec.ofNat 32 (freePairs s)
  else if off = Reg.KVM_ZEROING then BitVec.ofNat 32 (zeroingCount s)
  else if off = Reg.KVM_SWAP_STATUS then withFields v [(Fld.KVM_SWAP_STATUS_QUEUED, s.kvm.swaps.length)]
  else
    match Fld.HUB_LMAP_PHYS.at? off with
    | some (l, _) => BitVec.ofNat 32 ((physOf s.img l).getD 0)
    | none =>
      match Fld.SEQ_LSTAT_STATE.at? off with
      | some (l, _) => withFields v [(Fld.SEQ_LSTAT_STATE, loopState s l), (Fld.SEQ_LSTAT_INFLIGHT, loopInflight s l)]
      | none =>
        match Fld.SEQ_TTOK_OVER.at? off with
        | some (t, _) => withFields v [(Fld.SEQ_TTOK_OVER, bitOf (tenantOver s t))]
        | none =>
          match Fld.SEQ_THELD_FRAMES.at? off with
          | some (t, _) => BitVec.ofNat 32 (tenantHeld s t)
          | none => v

/-- Registers of the hub's other blocks that report other state. -/
def highValue (s : State) (off : Nat) (v : BitVec 32) : BitVec 32 :=
  if off = Reg.IRQ_SRC_CFG then srcCfgWord s
  else if Reg.IRQ_PEND ≤ off ∧ off < Reg.IRQ_PEND + 512 then pendWord s ((off - Reg.IRQ_PEND) / 4)
  else if off = Reg.PWR_STATUS then withFields v [(Fld.PWR_STATUS_QUEUED, s.pwr.queue.length)]
  else if off = Reg.PWR_STATES then powerStates s
  else if off = Reg.PWR_CON_SHARE then KMap.get (fun _ => 0#32) s.pwr.share (conSel s)
  else if off = Reg.PWR_CON_STAT then conStat s
  else if inTrace off then traceWord s off
  else if off = Reg.MER_COUNT_LO then BitVec.ofNat 32 s.mer
  else if off = Reg.MER_COUNT_HI then BitVec.ofNat 32 (s.mer / 2 ^ 32)
  else if off = Reg.BST_AGE then BitVec.ofNat 32 (testAge s)
  else if off = Reg.SEC_LCS then withFields v [(Fld.SEC_LCS_STATE, lifeCycle s)]
  else if off = Reg.SEC_TKEY_STATUS then
    withFields v [(Fld.SEC_TKEY_STATUS_PRESENT, bitOf (KMap.get (fun _ => none) s.sec.keys (rd s Fld.SEC_TKEY_SEL_TENANT)).isSome)]
  else if off = Reg.CKR_REF_STATUS then withFields v [(Fld.CKR_REF_STATUS_MER_TRUSTED, bitOf (merTrusted s))]
  else if off = Reg.CKR_RST_STATUS then withFields v [(Fld.CKR_RST_STATUS_BUSY, bitOf (resetBusy s))]
  else if off = Reg.FAB_COLL_FREE then BitVec.ofNat 32 (256 - s.fab.collQueue.length)
  else v

/-- Registers of a stack's block. -/
def stkValue (s : State) (off : Nat) (v : BitVec 32) : BitVec 32 :=
  let n := (off - 0x1000000) / 65536
  let x := off % 65536
  if x = 0 then withFields v [(Fld.STK_INFO_RIDS, ((stk s n).rids.filter (fun e => e.2.isSome)).length)]
  else if x = 4 then wordOf [(pmask s.img n, 0, 16), (bitOf (modeChanging s n), 16, 1)]
  else if x = 8 then dieState s n
  else if 0x100 ≤ x then wordOf [(freeEntries (stk s n) ((x - 0x100) / 4), 0, 8), (freeLines (stk s n) ((x - 0x100) / 4), 8, 9)]
  else v

/-- Registers of a cluster's block. -/
def cluValue (s : State) (off : Nat) (v : BitVec 32) : BitVec 32 :=
  let c := (off - 0x2000000) / 65536
  let x := off % 65536
  if x = 8 then cluLstat s c
  else if x = 0x28 then BitVec.ofNat 32 (cl s c).pc
  else if x = 0x2C then BitVec.ofNat 32 ((cl s c).pc / 2 ^ 32)
  else if x = 0x9004 then arrStatus s c
  else v

/-- The current value of the register at a resolved offset: its stored word with write-only fields read as 0, and the fields that report
other state (Table 0.2 and the register tables). -/
def regValue (s : State) (off : Nat) : BitVec 32 :=
  let v := s.regs.swRead off
  if off < 0x400000 then lowValue s off v
  else if off < 0x1000000 then highValue s off v
  else if off < 0x2000000 then stkValue s off v
  else if off < 0x4000000 then cluValue s off v
  else conValue s ((off - 0x4000000) / 65536) (off % 65536)

/-! Reads -/

/-- The low halves of the 64-bit pairs that follow the snapshot rule (R4 and the sentences "64-bit pairs are read under R4"). -/
def snapshotPairs : List Field :=
  [Fld.HUB_ZFILL_POS_LO_POS, Fld.IMG_LOAD_POS_LO_POS, Fld.IMG_GEN_LO_GEN, Fld.SEQ_DESC_BASE_LO_ADDR, Fld.SEQ_EMPTY_LO_COUNT,
    Fld.SEQ_CTX_POS_LO_POS, Fld.SEQ_SUBQ_LO_ADDR, Fld.SEQ_STEP_LO_STEP, Fld.SEQ_DETOK_LO_ADDR, Fld.SEQ_WSTART_LO_COUNT,
    Fld.SEQ_WSTOP_LO_COUNT, Fld.KVM_SWAP_POS_LO_POS, Fld.KVM_EVICTED_LO_COUNT, Fld.PWR_REQ_ADDR_LO_ADDR, Fld.PWR_WAKE_AT_LO_COUNT,
    Fld.PWR_TRACE_WR_LO_COUNT, Fld.MER_COUNT_LO_COUNT, Fld.MER_SET_LO_COUNT] ++
  [Fld.RAS_ERR_ADDR_LO_ADDR, Fld.RAS_CE_LO_COUNT, Fld.RAS_UE_LO_COUNT, Fld.RAS_RETREC_LO_OFFSET, Fld.RAS_RGN_BASE_LO_V,
    Fld.RAS_RGN_LEN_LO_V, Fld.RAS_RGN_SRC_LO_V, Fld.RAS_SCRUB_BASE_LO_V, Fld.RAS_SCRUB_LEN_LO_V, Fld.RAS_SCRUB_POS_LO_POS,
    Fld.RAS_SCRUB_FIRST_LO_V, Fld.RAS_SCRUB_LAST_LO_V, Fld.SAF_CKPT_LO_COUNT, Fld.BST_POS_LO_POS, Fld.BST_DIR_SEED_LO_SEED,
    Fld.BST_DIR_SIG_LO_SIG, Fld.SEC_FLOOR_LO_GEN, Fld.CKR_TRAIN_POS_LO_POS, Fld.CKR_TRAIN_PARAM_LO_OFFSET] ++
  [Fld.FAB_BUDDY_LOG_LO_ADDR, Fld.FAB_SHADOW_BASE_LO_ADDR, Fld.FAB_PORT_FLITS_LO_COUNT, Fld.HPT_OERR_LO_OFFSET, Fld.STK_ACT_LO_COUNT,
    Fld.STK_TPAW_WAIT_LO_COUNT, Fld.CLU_ARR_STEPS_LO_COUNT, Fld.CLU_ARR_BUBBLES_LO_COUNT, Fld.CLU_ARR_DUMMY_LO_COUNT,
    Fld.CLU_ARR_FREEZES_LO_COUNT]

/-- The low half of a pair under R4 stands at an offset. -/
def isPairLo (off : Nat) : Bool := snapshotPairs.any (fun f => (f.at? off).isSome)

/-- A register of a CLU, CON, per-loop SEQ, tenant SEQ or KVM_TCFG that belongs to a tenant other than a virtual function's own reads 0
(R437). -/
def foreign (s : State) (who : Requester) (off : Nat) : Bool :=
  match who with
  | .hostVf _ _ =>
    let owner : Option Nat :=
      if 0x4000000 ≤ off then conTenant s.img ((off - 0x4000000) / 65536)
      else if 0x2000000 ≤ off then physTenant s.img ((off - 0x2000000) / 65536)
      else if 0x201000 ≤ off ∧ off < 0x209000 then (loopRec s.img ((off - 0x201000) / 128)).map (·.tenant)
      else if 0x209000 ≤ off ∧ off < 0x300000 then some ((off - 0x209000) / 32)
      else if 0x301000 ≤ off ∧ off < 0x302000 then some ((off - 0x301000) / 4)
      else none
    owner.any (fun t => !boundTo s who t)
  | _ => false

/-- A claim register's context and whether the reader owns it (R430). -/
def claimAt (s : State) (who : Requester) (off : Nat) : Option (Option Context) :=
  if off = Reg.IRQ_CLAIM_SUP then some (if ownsSupervisor who then some .supervisor else none)
  else if off = Reg.IRQ_CLAIM_MGT then some (if ownsManagement who then some .management else none)
  else
    match vectorNo off with
    | some v => if off % 8 = 0 ∧ hasVector s who v then some (vectorContext who v) else none
    | none => none

/-- One half of a read: the value of a defined register and what reading it changes (R4, R5, R430, R437). -/
def readReg (s : State) (who : Requester) (off : Nat) : State × BitVec 32 :=
  if foreign s who off then (s, 0#32)
  else
    match claimAt s who off with
    | some none => (s, 0xFFF#32)
    | some (some x) =>
      let r := claim s x
      (r.1, BitVec.ofNat 32 r.2)
    | none =>
      if 0x4000000 ≤ off ∧ (off % 65536 = 0x28 ∨ off % 65536 = 0x2C) then
        -- CON_PC: Table 2.5 forms no PC of a constellation of several leaves.
        match physLeaves s.img ((off - 0x4000000) / 65536) with
        | [c] => (s, cluValue s (0x2000000 + c * 65536 + off % 65536) 0#32)
        | _ =>
          let f := free 32 s
          (f.2, f.1)
      else if isPairLo off then
        ({ s with shadow := KMap.set (fun _ => 0#32) s.shadow off (regValue s (off + 4)) }, regValue s off)
      else if decide (off % 8 = 4) && isPairLo (off - 4) then (s, KMap.get (fun _ => 0#32) s.shadow (off - 4))
      else ({ s with regs := s.regs.afterRead off }, regValue s off)

/-- A read of 32 bits at an offset as it stands, an undefined or misaligned one counted by the caller. -/
def readHalf (s : State) (who : Requester) (off : Nat) : State × BitVec 32 :=
  match resolve s who off with
  | some o => readReg s who o
  | none => (s, 0#32)

/-- The offset that an access to an offset and, when wide, its upper half is recorded with as offending (R2, R3). -/
def offendingAt (s : State) (who : Requester) (off : Nat) (wide : Bool) : Option Nat :=
  if wide then
    if off % 8 ≠ 0 then some off
    else if (resolve s who off).isNone then some off
    else if (resolve s who (off + 4)).isNone then some (off + 4)
    else none
  else if (resolve s who off).isNone then some off
  else none

def noteOffending (s : State) (who : Requester) (off : Nat) (wide : Bool) : State :=
  match offendingAt s who off wide with
  | some o => recordOffending s who o
  | none => s

/-- Some half of an access lies in a domain that does not answer (R412). -/
def accessStopped (s : State) (who : Requester) (off : Nat) (wide : Bool) : Bool :=
  (if off % 4 ≠ 0 ∨ (wide = true ∧ off % 8 ≠ 0) then [] else if wide then [off, off + 4] else [off]).any
    (fun o => (resolve s who o).any (stoppedAt s))

/-- The access waits for its alias block's move (R24). -/
def aliasHeld (s : State) (off : Nat) : Bool := (aliasNo off).any (moving s)

/-- What an access that does not end otherwise meets first: the hold of an alias block, a boot that stopped, a stopped domain. -/
def mmioGate (s : State) (who : Requester) (off : Nat) (write wide : Bool) (value : BitVec 64) : Option State :=
  if bootHeld s who then some (reply s who .timeout)
  else if aliasHeld s off then some (reply { s with held := s.held ++ [⟨who, off, write, wide, value⟩] } who .held)
  else if accessStopped s who off wide then some (reply (recordXstat s Fld.CKR_XSTAT_ACCESS_TIMEOUT who off) who .timeout)
  else none

/-- A read of 32 or 64 bits. HUB_HASH_RESULT waits for a lookup in progress (R97). -/
def mmioRead (s : State) (who : Requester) (off : Nat) (wide : Bool) : State :=
  match mmioGate s who off false wide 0#64 with
  | some t => t
  | none =>
    if off = Reg.HUB_HASH_RESULT ∧ s.probe.isSome then
      reply { s with probeHeld := s.probeHeld ++ [(who, wide)] } who .held
    else
      let t := noteOffending s who off wide
      if wide then
        if off % 8 ≠ 0 then reply t who (.value 0)
        else if isPairLo ((resolve s who off).getD 1) && !foreign s who ((resolve s who off).getD 1) then
          -- Both halves from one instant; the shadow is loaded (R4).
          let o := (resolve s who off).getD 1
          let r := readReg t who o
          reply r.1 who (.value (BitVec.ofNat 64 (r.2.toNat + 2 ^ 32 * (regValue t (o + 4)).toNat)))
        else
          let a := readHalf t who off
          let b := readHalf a.1 who (off + 4)
          reply b.1 who (.value (BitVec.ofNat 64 (a.2.toNat + 2 ^ 32 * b.2.toNat)))
      else
        let a := readHalf t who off
        reply a.1 who (.value (BitVec.ofNat 64 a.2.toNat))

end Sys2Proof.Machine
end

