-- ==== Sys2Proof/Machine/MmioWrite.lean ====
section
/-! DEFINITION. MMIO writes (00 R2, R3, R5, R6, 17 R442 and the register chapters): which requesters a register takes writes from, and
what a write does. -/

namespace Sys2Proof.Machine

/-- What the outside supplies with a write (log 1): a descriptor that lies in another part or a host, or none where it cannot be read;
and, for a directed test, whether the rails' voltages are in range and the PLLs locked (R365). -/
structure WriteEnv where
  remote : Option (BitVec 512)
  volts : Bool
  locked : Bool
  deriving DecidableEq, Repr

def WriteEnv.plain : WriteEnv := ⟨none, true, true⟩

/-- Fields whose clearing also clears another: VALID and OVERRUN of the error records. -/
def validFields : List (Field × Field) :=
  [(Fld.HUB_MMIO_ERR_ADDR_VALID, Fld.HUB_MMIO_ERR_ADDR_OVERRUN), (Fld.SEQ_LERR_VALID, Fld.SEQ_LERR_OVERRUN),
    (Fld.KVM_ERR_VALID, Fld.KVM_ERR_OVERRUN), (Fld.RAS_ERR_VALID, Fld.RAS_ERR_OVERRUN), (Fld.FAB_ERR_VALID, Fld.FAB_ERR_OVERRUN),
    (Fld.STK_CMD_ERR_VALID, Fld.STK_CMD_ERR_OVERRUN), (Fld.CLU_FAULT_VALID, Fld.CLU_FAULT_OVERRUN),
    (Fld.CLU_ARR_ERR_VALID, Fld.CLU_ARR_ERR_OVERRUN)]

/-- A write of 1 to VALID clears OVERRUN too (Tables 1.14, 5.15, 6.8, 7.7, 10.6, 11.14, 12.11, 13.7). -/
def clearOverrun (m : Regs) (off : Nat) (v : BitVec 32) : Regs :=
  match validFields.find? (fun e => (e.1.at? off).isSome) with
  | some e => if getBits v e.1.lo 1 = 1 then m.write off (putBits (m.read off) e.2.lo 1 0) else m
  | none => m

/-- A write by the codes of Table 0.2 alone. -/
def plainWrite (s : State) (off : Nat) (v : BitVec 32) : State :=
  irqForget { s with regs := clearOverrun (s.regs.swWrite off v) off v }

/-- A plain write that only some requesters may make; from any other it has no effect. -/
def writeIf (s : State) (may : Bool) (off : Nat) (v : BitVec 32) : State := if may then plainWrite s off v else s

/-- A rate in GB/s: 0 or above 1,000 stores 1,000. -/
def clampRate (r : Nat) : Nat := if r = 0 ∨ r > 1000 then 1000 else r

def bit (v : BitVec 32) (i : Nat) : Bool := v.getLsbD i

/-- A write-only field that keeps the last value written (R186, Table 14.9). -/
def keepWo (s : State) (off : Nat) (v : BitVec 32) : State := { s with regs := s.regs.write off v }

/-! The blocks -/

/-- The HUB block (R31, R97, R103, R238). -/
def writeHub (s : State) (who : Requester) (off : Nat) (v : BitVec 32) : State :=
  if off = Reg.HUB_ZFILL_CTRL then zfillCtrl s who (bit v 0) (bit v 1)
  else if off = Reg.HUB_TINV_CTRL then
    if mayImage who then
      let s := plainWrite s off v
      if bit v 0 then tinvStart s (getBits v 1 2) else s
    else s
  else if off = Reg.HUB_HASH_PROBE_HI then probeStart (plainWrite s off v)
  else plainWrite s off v

/-- The IMG block (R57, R60). -/
def writeImg (s : State) (who : Requester) (off : Nat) (v : BitVec 32) : State :=
  if off = Reg.IMG_CTRL then imgCtrl s who (bit v 0) (bit v 1) (getBits v 2 2)
  else if off = Reg.IMG_MIGRATE then wr s Fld.IMG_MIGRATE_RATE (clampRate (getBits v 0 10))
  else plainWrite s off v

/-- The SEQ block (11 "Sequencer registers", R278). SEQ_DESC_BASE keeps its value while a loop is enabled. -/
def writeSeq (s : State) (who : Requester) (off : Nat) (v : BitVec 32) : State :=
  if off = Reg.SEQ_DESC_BASE_LO ∨ off = Reg.SEQ_DESC_BASE_HI then writeIf s (mayImage who && !anyLoopOn s) off v
  else if 0x209000 ≤ off then writeIf s (mayImage who) off v
  else if 0x201000 ≤ off then
    let l := (off - 0x201000) / 128
    let x := (off - 0x201000) % 128
    if x = 0x14 then subqTail s who l v.toNat
    else if x = 0x34 then (if bit v 0 then armWindow s who l else s)
    else
      let s := writeIf s (mayLoop s who l) off v
      if x = 0 ∧ bit v 2 = true then restartLoop s who l else s
  else plainWrite s off v

/-- The KVM block (R249, R263, R264, R266). KVM_ATT takes 64-bit writes alone. -/
def writeKvm (s : State) (who : Requester) (off : Nat) (v : BitVec 32) : State :=
  if off = Reg.KVM_ATT_LO ∨ off = Reg.KVM_ATT_HI then s
  else if 0x301000 ≤ off ∨ off = Reg.KVM_SWAPTAB_LO ∨ off = Reg.KVM_SWAPTAB_HI ∨ off = Reg.KVM_HKVTAB_LO ∨ off = Reg.KVM_HKVTAB_HI then
    writeIf s (mayImage who) off v
  else plainWrite s off v

/-- The IRQ block (R430, R432, R443). -/
def writeIrq (s : State) (who : Requester) (off : Nat) (v : BitVec 32) : State :=
  if off = Reg.IRQ_CTRL then (if mayImage who then writeGdis s (getBits v 0 1) else s)
  else if off = Reg.IRQ_SWSET then swset s who (getBits v 0 12)
  else if off = Reg.IRQ_SRC_CFG then
    let n := rd s Fld.IRQ_SRC_SEL_SOURCE
    if mayImage who && isSource n then irqUpdate (setCfg s n { srcCfg s n with prio := getBits v 0 4 }) else s
  else if off = Reg.IRQ_CPL_SUP then complete s .supervisor (getBits v 0 12)
  else if off = Reg.IRQ_CPL_MGT then complete s .management (getBits v 0 12)
  else
    match vectorNo off with
    | some n =>
      match vectorContext who n with
      | some x => if off % 8 = 4 then complete s x (getBits v 0 12) else s
      | none => s
    | none => plainWrite s off v

/-- A write of PWR_CON_SHARE: by the requesters that may write IMG_CTRL, or HOLD alone by one bound to the constellation's tenant. -/
def writeConShare (s : State) (who : Requester) (v : BitVec 32) : State :=
  let k := conSel s
  let old := KMap.get (fun _ => 0#32) s.pwr.share k
  if mayImage who then
    { s with pwr := { s.pwr with share := KMap.set (fun _ => 0#32) s.pwr.share k (wordOf [(v.toNat, 0, 13)]) } }
  else if (conTenant s.img k).any (boundTo s who) then
    { s with pwr := { s.pwr with share := KMap.set (fun _ => 0#32) s.pwr.share k (wordOf [(getBits old 0 12, 0, 12), (getBits v 12 1, 12, 1)]) } }
  else s

/-- The PWR block (15 "PWR and THM registers"). -/
def writePwr (s : State) (who : Requester) (off : Nat) (v : BitVec 32) : State :=
  if off = Reg.PWR_LIMIT then writeLimit s who (getBits v 0 12)
  else if off = Reg.PWR_REQ then pwrReq s who (getBits v 0 3) (bit v 3) (getBits v 4 2) (getBits v 6 10)
  else if off = Reg.PWR_CON_SHARE then writeConShare s who v
  else if off = Reg.PWR_CON_SEL ∨ off = Reg.PWR_WAKE_AT_LO ∨ off = Reg.PWR_WAKE_AT_HI then writeIf s (mayImage who) off v
  else if inTrace off then s
  else plainWrite s off v

/-- The MER block (R329, R338): SRC 3 stores 2, and the time input starts to be watched when it is selected. -/
def writeMer (s : State) (_who : Requester) (off : Nat) (v : BitVec 32) : State :=
  if off = Reg.MER_CTRL then
    let src := if getBits v 0 2 = 3 then 2 else getBits v 0 2
    let s := wr s Fld.MER_CTRL_SRC src
    if src = 1 then { s with fab := { s.fab with pps := none, ppsLost := false } } else s
  else plainWrite s off v

/-- The RAS block (R350, R362). -/
def writeRas (s : State) (who : Requester) (off : Nat) (v : BitVec 32) : State :=
  if off = Reg.RAS_RGN_SEL then regionSelect s who (getBits v 0 6)
  else if off = Reg.RAS_RGN_CTRL then
    let s := writeIf s (mayImage who) off v
    if bit v 2 then regionCommit s who (getBits v 0 2) else s
  else if off = Reg.RAS_SCRUB_CTRL then
    let s := if mayImage who then wr s Fld.RAS_SCRUB_CTRL_RATE (clampRate (getBits v 2 10)) else s
    scrubCtrl s who (bit v 0) (bit v 1)
  else writeIf s (mayImage who) off v

/-- The BST block (14 "BST and SEC registers"). -/
def writeBst (s : State) (who : Requester) (off : Nat) (v : BitVec 32) (env : WriteEnv) : State :=
  if off = Reg.BST_DIR_CTRL then dirStart s who v.toNat env.volts env.locked
  else if off = Reg.BST_DIR_SEED_LO ∨ off = Reg.BST_DIR_SEED_HI then
    if !mayImage who then s else if mayDirect s then plainWrite s off v else flag s Fld.BST_EVENT_DENIED
  else if off = Reg.BST_CTRL then writeIf s (mayImage who) off v
  else plainWrite s off v

/-- The levels SEC_ALARM_LVL stores: a source's level is never below the fused minimum of Table 14.5. -/
def alarmLevels (v : Nat) : Nat :=
  ([3, 2, 2, 1, 1].zipIdx.map (fun e => Nat.max e.1 (v / 4 ^ e.2 % 4) * 4 ^ e.2)).foldl (· + ·) 0

/-- The SEC block (R372, R375, R376, R381). -/
def writeSec (s : State) (who : Requester) (off : Nat) (v : BitVec 32) : State :=
  if !mayImage who then s
  else if off = Reg.SEC_FLOOR_SET_LO then keepWo s off v
  else if off = Reg.SEC_FLOOR_SET_HI then raiseFloor s who v.toNat
  else if off = Reg.SEC_TKEY_CTRL then keyOp s who (getBits v 0 2)
  else if off = Reg.SEC_ALARM then alarmCleared (plainWrite s off v)
  else if off = Reg.SEC_ALARM_LVL then wr s Fld.SEC_ALARM_LVL_LEVELS (alarmLevels (getBits v 0 10))
  else plainWrite s off v

/-- The CKR block (R409, R414, R423, R425). -/
def writeCkr (s : State) (who : Requester) (off : Nat) (v : BitVec 32) : State :=
  if off = Reg.CKR_RST then ckrRst s who v.toNat
  else if off = Reg.CKR_REF_CTRL then
    if mayImage who then
      wr (wr s Fld.CKR_REF_CTRL_AUTO (getBits v 0 1)) Fld.CKR_REF_CTRL_SEL (if getBits v 1 2 = 3 then 0 else getBits v 1 2)
    else s
  else if off = Reg.CKR_TRAIN_CTRL then
    let s := writeIf s (mayImage who) off v
    if bit v 2 then trainSave s who else s
  else if off = Reg.CKR_TRAIN_PARAM_LO ∨ off = Reg.CKR_TRAIN_PARAM_HI then writeIf s (mayImage who) off v
  else plainWrite s off v

/-- The HPT block (17 "IRQ and HPT registers"): HPT_HDM has no effect while the host's decoder is committed (R440). -/
def writeHpt (s : State) (who : Requester) (off : Nat) (v : BitVec 32) : State :=
  let p := (off - 0xD00000) / 4096
  let x := off % 4096
  writeIf s (mayImage who && !(decide (0x18 ≤ x) && decide (x ≤ 0x20) && (hport s p).committed)) off v

/-- The FAB block (12 "Fabric and meridian registers"). FAB_COLL takes 64-bit writes alone. -/
def writeFab (s : State) (who : Requester) (off : Nat) (v : BitVec 32) : State :=
  if off = Reg.FAB_DEVID then writeDevid s who (getBits v 0 17)
  else if off = Reg.FAB_CTRL then
    if mayImage who then wr s Fld.FAB_CTRL_TIMEOUT (Nat.max 10 (getBits v 0 16)) else s
  else if off = Reg.FAB_COLL_LO ∨ off = Reg.FAB_COLL_HI then s
  else if off = Reg.FAB_BUDDY then writeBuddy s who (getBits v 0 17) (getBits v 17 1) (bit v 18)
  else if Reg.FAB_BUDDY_LOG_LO ≤ off ∧ off ≤ Reg.FAB_SHADOW_SIZE then writeIf s (mayImage who) off v
  else
    match Fld.FAB_PORT_CTRL_EN.at? off with
    | some (p, _) => writePortCtrl s who p (getBits v 0 1) (bit v 1) (bit v 2)
    | none => plainWrite s off v

/-- A cluster's block (R174, R184, R186). A write of the high half of CLU_LAUNCH enters the address formed with the last low half. -/
def writeClu (s : State) (who : Requester) (off : Nat) (v : BitVec 32) (env : WriteEnv) : State :=
  let c := (off - 0x2000000) / 65536
  let x := off % 65536
  if x = 0 then keepWo s off v
  else if x = 4 then launchWrite s who (.cluster c) (BitVec.ofNat 64 (v.toNat * 2 ^ 32 + (s.regs.read (off - 4)).toNat)) env.remote
  else if x = 0x20 then (if bit v 0 then icinv s c else s)
  else plainWrite s off v

/-- A constellation's block (R42, R43, R186): ERR and ICINV act on every leaf. -/
def writeCon (s : State) (who : Requester) (off : Nat) (v : BitVec 32) (env : WriteEnv) : State :=
  let k := (off - 0x4000000) / 65536
  let x := off % 65536
  if x = 0 then keepWo s off v
  else if x = 4 then launchWrite s who (.con k) (BitVec.ofNat 64 (v.toNat * 2 ^ 32 + (s.regs.read (off - 4)).toNat)) env.remote
  else if x = 8 then
    let s := if bit v 8 then wr s (conField Fld.CLU_LSTAT_REFUSED) 0 k else s
    if bit v 7 then (physLeaves s.img k).foldl (fun s c => wr s Fld.CLU_LSTAT_ERR 0 c) s else s
  else if x = 0x20 then (if bit v 0 then (physLeaves s.img k).foldl icinv s else s)
  else s

/-- A write to the register at a resolved offset. -/
def writeReg (s : State) (who : Requester) (off : Nat) (v : BitVec 32) (env : WriteEnv) : State :=
  if off < 0x1000000 then
    match off / 0x100000 with
    | 0 => writeHub s who off v
    | 1 => writeImg s who off v
    | 2 => writeSeq s who off v
    | 3 => writeKvm s who off v
    | 4 => writeIrq s who off v
    | 5 => writePwr s who off v
    | 7 => writeMer s who off v
    | 8 => writeRas s who off v
    | 9 => writeIf s (mayImage who) off v
    | 10 => writeBst s who off v env
    | 11 => writeSec s who off v
    | 12 => writeCkr s who off v
    | 13 => writeHpt s who off v
    | 14 => writeFab s who off v
    | _ => plainWrite s off v
  else if off < 0x2000000 then plainWrite s off v
  else if off < 0x4000000 then writeClu s who off v env
  else writeCon s who off v env

/-- One half of a write; an undefined one has no effect. -/
def writeHalf (s : State) (who : Requester) (off : Nat) (v : BitVec 32) (env : WriteEnv) : State :=
  match resolve s who off with
  | some o => writeReg s who o v env
  | none => s

/-- MMIO writes to hub control blocks are held in device eclipse; a reset request ends the state and is not (R358). -/
def eclipseHeld (s : State) (off : Nat) : Bool := deviceEclipse s && decide (off < 0x1000000) && decide (off ≠ Reg.CKR_RST)

/-- A write of the management port that is refused: outside a secured session in SEALED and FIELD-DEBUG, where it counts as an
authentication failure (R374, R442), or under an alarm of level 3 (R379). -/
def mgmtRefused (s : State) (who : Requester) : Option State :=
  match who with
  | .mgmt secured =>
    if s.saf.alarm then some s
    else if !secured && (lifeCycle s = 2 || lifeCycle s = 3) then some (secFail s none)
    else none
  | _ => none

/-- The halves of an aligned write reach their registers, that of the lower offset first (R3). Two locations take 64-bit writes alone. -/
def writeHalves (s : State) (who : Requester) (off : Nat) (wide : Bool) (value : BitVec 64) (env : WriteEnv) : State :=
  if wide then
    if off % 8 ≠ 0 then s
    else if off = Reg.KVM_ATT_LO then attEnter s who value.toNat
    else if off = Reg.FAB_COLL_LO then collEnter s who value.toNat
    else writeHalf (writeHalf s who off (value.setWidth 32) env) who (off + 4) (BitVec.ofNat 32 (value.toNat / 2 ^ 32)) env
  else writeHalf s who off (value.setWidth 32) env

/-- A write of 32 or 64 bits. -/
def mmioWrite (s : State) (who : Requester) (off : Nat) (wide : Bool) (value : BitVec 64) (env : WriteEnv) : State :=
  match mmioGate s who off true wide value with
  | some t => t
  | none =>
    match mgmtRefused s who with
    | some t => t
    | none =>
      if eclipseHeld s off then
        reply { s with saf := { s.saf with heldMmio := s.saf.heldMmio ++ [⟨who, off, true, wide, value⟩] } } who .held
      else reply (writeHalves (noteOffending s who off wide) who off wide value env) who .done

/-- A held access proceeds (R24, R358). -/
def proceed (s : State) (h : HeldMmio) (env : WriteEnv) : State :=
  if h.write then mmioWrite s h.who h.off h.wide h.value env else mmioRead s h.who h.off h.wide

end Sys2Proof.Machine
end

