-- ==== Sys2Proof/Machine/MmioCmd.lean ====
section
/-! DEFINITION. The commands that are one MMIO access: the reads and writes of 00 and 01, and the register writes that have a row of their
own. -/

namespace Sys2Proof.Machine

/-- A command that is one write. -/
def writeCmd (s : State) (who : Requester) (off : Nat) (wide : Bool) (value : Nat) : Out :=
  .next (mmioWrite (quiet s) who off wide (BitVec.ofNat 64 value) .plain)

/-! Accesses (00 R2 to R6, 01 R24, 16 R411, R412) -/

/-- MMIO_OFFENDING_ACCESS (R2, R3): an access of 4 or 8 bytes meets the checks of R2 and R3, one of another size is offending. -/
def execMmioOffendingAccess (who : Requester) (off : BitVec 41) (size : Nat) (write : Bool) (value : BitVec 64) (s : State) : Out :=
  let s := quiet s
  .next (
    if size = 4 ∨ size = 8 then
      if write then mmioWrite s who off.toNat (size = 8) value .plain else mmioRead s who off.toNat (size = 8)
    else if bootHeld s who then reply s who .timeout
    else reply (recordOffending s who off.toNat) who (if write then .done else .value 0))

/-- READ_LO_SNAPSHOT (R4). -/
def execReadLoSnapshot (who : Requester) (off : BitVec 41) (wide : Bool) (s : State) : Out :=
  .next (mmioRead (quiet s) who off.toNat wide)

/-- A 32-bit read of a register outside the hub domain whose eight attempts all disagree (R411). Counters and positions never do. -/
def mayDisagree (s : State) (who : Requester) (off : Nat) : Bool :=
  (resolve s who off).any (fun o => decide (0x1000000 ≤ o) && decide (o < 0x4000000) && !isPairLo o && !isPairLo (o - 4) && !foreign s who o)

/-- READ_CLEAR (R5); `unstable` says that the samples of R411 disagree to the last: the last sample is not stated (log 9). -/
def execReadClear (who : Requester) (off : BitVec 41) (wide : Bool) (unstable : Bool) (s : State) : Out :=
  let s := quiet s
  .next (
    if unstable && !wide && mayDisagree s who off.toNat && (mmioGate s who off.toNat false false 0#64).isNone then
      let f := free 32 (recordXstat s Fld.CKR_XSTAT_CDC_UNSTABLE who off.toNat)
      reply f.2 who (.value (f.1.setWidth 64))
    else mmioRead s who off.toNat wide)

/-- REGISTER_WRITE (R5, R6). -/
def execRegisterWrite (who : Requester) (off : BitVec 41) (wide : Bool) (value : BitVec 64) (s : State) : Out :=
  .next (mmioWrite (quiet s) who off.toNat wide value .plain)

/-- ALIAS_ACCESS_RELEASE (R24): accesses held at an alias block proceed, in the order they came. -/
def execAliasAccessRelease (l : Fin 144) (remote : Option (BitVec 512)) (s : State) : Out :=
  let s := quiet s
  .next (
    if moving s l.val then s
    else
      let mine := s.held.filter (fun h => aliasNo h.off = some l.val)
      mine.foldl (fun s h => proceed s h ⟨remote, true, true⟩) { s with held := s.held.filter (fun h => aliasNo h.off ≠ some l.val) })

/-- ACCESS_TIMEOUT (R412): an access into a domain that does not answer. -/
def execAccessTimeout (who : Requester) (off : BitVec 41) (wide write : Bool) (s : State) : Out :=
  let s := quiet s
  .next (
    if accessStopped s who off.toNat wide then
      if write then mmioWrite s who off.toNat wide 0#64 .plain else mmioRead s who off.toNat wide
    else s)

/-! The HUB and IMG blocks -/

/-- IMG_START (R57). -/
def execImgStart (who : Requester) (srcKind : BitVec 2) (s : State) : Out := writeCmd s who Reg.IMG_CTRL false (1 + 4 * srcKind.toNat)

/-- IMG_ABORT (R57). -/
def execImgAbort (who : Requester) (srcKind : BitVec 2) (s : State) : Out := writeCmd s who Reg.IMG_CTRL false (2 + 4 * srcKind.toNat)

/-- HASH_PROBE (R97): both halves in one access. -/
def execHashProbe (who : Requester) (offset : BitVec 41) (s : State) : Out := writeCmd s who Reg.HUB_HASH_PROBE_LO true offset.toNat

/-- ZFILL_START (R103). -/
def execZfillStart (who : Requester) (s : State) : Out := writeCmd s who Reg.HUB_ZFILL_CTRL false 1

/-- ZFILL_ABORT (R103). -/
def execZfillAbort (who : Requester) (s : State) : Out := writeCmd s who Reg.HUB_ZFILL_CTRL false 2

/-- TINV_START (R238). -/
def execTinvStart (who : Requester) (kind : BitVec 2) (s : State) : Out := writeCmd s who Reg.HUB_TINV_CTRL false (1 + 2 * kind.toNat)

/-! Clusters (07) -/

/-- CLU_LAUNCH_WRITE (R184): a 64-bit write to the launch register of a cluster's, an alias or a constellation's block. -/
def execCluLaunchWrite (who : Requester) (block : BitVec 11) (addr : GAddr) (remote : Option (BitVec 512)) (s : State) : Out :=
  let s := quiet s
  .next (if 0x200 ≤ block.toNat then mmioWrite s who (block.toNat * 65536) true addr ⟨remote, true, true⟩ else s)

/-- CLU_ICINV_WRITE (R182). -/
def execCluIcinvWrite (who : Requester) (block : BitVec 11) (s : State) : Out :=
  let s := quiet s
  .next (if 0x200 ≤ block.toNat then mmioWrite s who (block.toNat * 65536 + 0x20) false 1#64 .plain else s)

/-! The KV manager and the sequencer -/

/-- KVM_ATT_WRITE (R249). -/
def execKvmAttWrite (who : Requester) (addr : GAddr) (s : State) : Out := .next (mmioWrite (quiet s) who Reg.KVM_ATT_LO true addr .plain)

/-- SUBQ_DOORBELL (R280). -/
def execSubqDoorbell (who : Requester) (l : Fin 256) (tail : BitVec 32) (s : State) : Out :=
  writeCmd s who (Reg.SEQ_SUBQ_TAIL + 128 * l.val) false tail.toNat

/-- LOOP_RESTART (R293): RESTART is written with the enables as they stand. -/
def execLoopRestart (who : Requester) (l : Fin 256) (s : State) : Out :=
  writeCmd s who (Reg.SEQ_LCTRL + 128 * l.val) false (rd s Fld.SEQ_LCTRL_EN l.val + 2 * rd s Fld.SEQ_LCTRL_CIRQ l.val + 4)

/-- WINDOW_ARM (R307). -/
def execWindowArm (who : Requester) (l : Fin 256) (s : State) : Out := writeCmd s who (Reg.SEQ_WINCTRL + 128 * l.val) false 1

/-! The fabric (12) -/

/-- FAB_DEVID_WRITE (R336). -/
def execFabDevidWrite (who : Requester) (dev : BitVec 17) (s : State) : Out := writeCmd s who Reg.FAB_DEVID false dev.toNat

/-- PORT_ENABLE_WRITE (R337). -/
def execPortEnableWrite (who : Requester) (p : Fin 18) (en : Bool) (s : State) : Out :=
  writeCmd s who (Reg.FAB_PORT_CTRL + 64 * p.val) false (bitOf en)

/-- PORT_RETRAIN_WRITE (R337), with EN as it stands. -/
def execPortRetrainWrite (who : Requester) (p : Fin 18) (s : State) : Out :=
  writeCmd s who (Reg.FAB_PORT_CTRL + 64 * p.val) false (rd s Fld.FAB_PORT_CTRL_EN p.val + 4)

/-- REKEY (R315), with EN as it stands. -/
def execRekey (who : Requester) (p : Fin 18) (s : State) : Out :=
  writeCmd s who (Reg.FAB_PORT_CTRL + 64 * p.val) false (rd s Fld.FAB_PORT_CTRL_EN p.val + 2)

/-- FAB_COLL_WRITE (R326). -/
def execFabCollWrite (who : Requester) (addr : GAddr) (s : State) : Out := .next (mmioWrite (quiet s) who Reg.FAB_COLL_LO true addr .plain)

/-- BUDDY_ENABLE (R334). -/
def execBuddyEnable (who : Requester) (dev : BitVec 17) (s : State) : Out := writeCmd s who Reg.FAB_BUDDY false (dev.toNat + 2 ^ 17)

/-! Reliability, self-test and security (13, 14) -/

/-- SCRUB_START (R350), with the rate as it stands. -/
def execScrubStart (who : Requester) (s : State) : Out := writeCmd s who Reg.RAS_SCRUB_CTRL false (rd s Fld.RAS_SCRUB_CTRL_RATE * 4 + 1)

/-- SCRUB_ABORT (R350). -/
def execScrubAbort (who : Requester) (s : State) : Out := writeCmd s who Reg.RAS_SCRUB_CTRL false (rd s Fld.RAS_SCRUB_CTRL_RATE * 4 + 2)

/-- REGION_SELECT (R362). -/
def execRegionSelect (who : Requester) (i : Fin 64) (s : State) : Out := writeCmd s who Reg.RAS_RGN_SEL false i.val

/-- REGION_COMMIT (R362). -/
def execRegionCommit (who : Requester) (kind : BitVec 2) (s : State) : Out := writeCmd s who Reg.RAS_RGN_CTRL false (kind.toNat + 4)

/-- RECOVERY_RELEASE (R358): the device leaves eclipse, and the writes it held proceed. -/
def execRecoveryRelease (s : State) : Out :=
  let s := releaseDevice (quiet s)
  .next (
    if deviceEclipse s then s
    else s.saf.heldMmio.foldl (fun s h => proceed s h .plain) { s with saf := { s.saf with heldMmio := [] } })

/-- BST_DIR_START (R380). -/
def execBstDirStart (who : Requester) (value : BitVec 32) (volts locked : Bool) (s : State) : Out :=
  .next (mmioWrite (quiet s) who Reg.BST_DIR_CTRL false (value.setWidth 64) ⟨none, volts, locked⟩)

/-- FLOOR_RAISE (R372). -/
def execFloorRaise (who : Requester) (hi : BitVec 32) (s : State) : Out := writeCmd s who Reg.SEC_FLOOR_SET_HI false hi.toNat

/-- GENERATE (R375). -/
def execGenerate (who : Requester) (s : State) : Out := writeCmd s who Reg.SEC_TKEY_CTRL false 1

/-- DESTROY (R375). -/
def execDestroy (who : Requester) (s : State) : Out := writeCmd s who Reg.SEC_TKEY_CTRL false 2

/-! Power, clocks and resets (15, 16) -/

/-- PWR_REQ (R383): the request's word. -/
def pwrReqWord (state : Nat) (save : Bool) (kind : BitVec 2) (index : BitVec 10) : Nat :=
  state + 8 * bitOf save + 16 * kind.toNat + 64 * index.toNat

/-- PWR_REQ_WAKE (R383). -/
def execPwrReqWake (who : Requester) (save : Bool) (kind : BitVec 2) (index : BitVec 10) (s : State) : Out :=
  writeCmd s who Reg.PWR_REQ false (pwrReqWord 0 save kind index)

/-- PWR_REQ_DUSK (R383). -/
def execPwrReqDusk (who : Requester) (save : Bool) (kind : BitVec 2) (index : BitVec 10) (s : State) : Out :=
  writeCmd s who Reg.PWR_REQ false (pwrReqWord 1 save kind index)

/-- PWR_REQ_NIGHT (R384). -/
def execPwrReqNight (who : Requester) (save : Bool) (kind : BitVec 2) (index : BitVec 10) (s : State) : Out :=
  writeCmd s who Reg.PWR_REQ false (pwrReqWord 2 save kind index)

/-- PWR_REQ_REST (R383). -/
def execPwrReqRest (who : Requester) (save : Bool) (kind : BitVec 2) (index : BitVec 10) (s : State) : Out :=
  writeCmd s who Reg.PWR_REQ false (pwrReqWord 3 save kind index)

/-- PWR_REQ_SLEEP (R383). -/
def execPwrReqSleep (who : Requester) (save : Bool) (kind : BitVec 2) (index : BitVec 10) (s : State) : Out :=
  writeCmd s who Reg.PWR_REQ false (pwrReqWord 4 save kind index)

/-- PWR_REQ_STANDBY (R388). -/
def execPwrReqStandby (who : Requester) (save : Bool) (kind : BitVec 2) (index : BitVec 10) (s : State) : Out :=
  writeCmd s who Reg.PWR_REQ false (pwrReqWord 5 save kind index)

/-- PWR_LIMIT_WRITE (R405). -/
def execPwrLimitWrite (who : Requester) (w : BitVec 12) (s : State) : Out := writeCmd s who Reg.PWR_LIMIT false w.toNat

/-- TRAIN_SAVE (R423), with FULL as it stands. -/
def execTrainSave (who : Requester) (s : State) : Out :=
  writeCmd s who Reg.CKR_TRAIN_CTRL false (rd s Fld.CKR_TRAIN_CTRL_FULL * 2 ^ Fld.CKR_TRAIN_CTRL_FULL.lo + 4)

/-- DEVICE_RESET (R414). -/
def execDeviceReset (who : Requester) (s : State) : Out := writeCmd s who Reg.CKR_RST false 1

/-- PARTITION_RESET (R416). -/
def execPartitionReset (who : Requester) (k : BitVec 10) (s : State) : Out := writeCmd s who Reg.CKR_RST false (2 + 8 * k.toNat)

/-- CLUSTER_RESET (R415). -/
def execClusterReset (who : Requester) (c : BitVec 10) (s : State) : Out := writeCmd s who Reg.CKR_RST false (3 + 8 * c.toNat)

/-- PORT_RESET (R418). -/
def execPortReset (who : Requester) (p : BitVec 10) (s : State) : Out := writeCmd s who Reg.CKR_RST false (4 + 8 * p.toNat)

/-! Management (17 R442) -/

/-- MCTP_READ_32 (R442). -/
def execMctpRead32 (secured : Bool) (off : BitVec 32) (s : State) : Out := .next (mmioRead (quiet s) (.mgmt secured) off.toNat false)

/-- MCTP_WRITE_32 (R442). -/
def execMctpWrite32 (secured : Bool) (off : BitVec 32) (value : BitVec 32) (s : State) : Out :=
  .next (mmioWrite (quiet s) (.mgmt secured) off.toNat false (value.setWidth 64) .plain)

/-- MCTP_READ_64 (R442). -/
def execMctpRead64 (secured : Bool) (off : BitVec 32) (s : State) : Out := .next (mmioRead (quiet s) (.mgmt secured) off.toNat true)

/-- MCTP_WRITE_64 (R442). -/
def execMctpWrite64 (secured : Bool) (off : BitVec 32) (value : BitVec 64) (s : State) : Out :=
  .next (mmioWrite (quiet s) (.mgmt secured) off.toNat true value .plain)

end Sys2Proof.Machine
end

