-- ==== Sys2Proof/Machine/Hpt.lean ====
section
/-! DEFINITION. The commands of the interrupt controller, the host ports and the management port (17): sources, claims and completes, MSI-X
masks, resets of host functions, inbound and outbound accesses, CXL, and PLDM. -/

namespace Sys2Proof.Machine

/-! Interrupts (R427 to R432) -/

/-- IRQ_SOURCE_EVENT (R427, R431): pending bits follow their sources, and contexts that gained a claimable source are delivered. -/
def execIrqSourceEvent (s : State) : Out := .next (irqUpdate (irqForget (quiet s)))

/-- The claim register of a context; its complete register lies 4 above (Table 17.5). -/
def claimReg : ClaimReg → Nat
  | .supervisor => Reg.IRQ_CLAIM_SUP
  | .management => Reg.IRQ_CLAIM_MGT
  | .vector v => 0x408000 + 8 * v.val

/-- IRQ_CLAIM (R430). -/
def execIrqClaim (who : Requester) (reg : ClaimReg) (s : State) : Out := .next (mmioRead (quiet s) who (claimReg reg) false)

/-- IRQ_COMPLETE (R430). -/
def execIrqComplete (who : Requester) (reg : ClaimReg) (source : BitVec 12) (s : State) : Out :=
  writeCmd s who (claimReg reg + 4) false source.toNat

/-- IRQ_SWSET (R443). -/
def execIrqSwset (who : Requester) (source : BitVec 12) (s : State) : Out := writeCmd s who Reg.IRQ_SWSET false source.toNat

/-- GDIS_CLEAR (R432). -/
def execGdisClear (who : Requester) (s : State) : Out := writeCmd s who Reg.IRQ_CTRL false 0

/-- A function of a port exists: the physical function, or a virtual one of the image (R436). -/
def fnExists (s : State) (p f : Nat) : Bool := decide (f = 0) || (vfTenant s.img p f).isSome

def setMember (l : KSet) (x : Nat) (on : Bool) : KSet := if on then KSet.add l x else KSet.del l x

/-- Held messages of a function that no mask holds any more are sent, if their context still has a claimable source (R431). -/
def releaseHeld (s : State) (p f : Nat) : State :=
  (s.irq.pba.filter (fun k => k / 2048 = fnKey p f)).foldl (fun s k =>
    let v := k % 2048
    if fnKey p f ∈ s.irq.msixFnMask ∨ ¬ k ∈ s.irq.msixUnmasked ∨ gdis s = true then s
    else if (claimableAt s (.vector p f v)).isEmpty then { s with irq := { s.irq with pba := KSet.del s.irq.pba k } }
    else sendMsix s p f v) s

/-- The function's contexts are delivered afresh once the host enables MSI-X (R433). -/
def enableMsix (s : State) (p f : Nat) (on : Bool) : State :=
  let was := decide (fnKey p f ∈ s.irq.msixEnable)
  let s := { s with irq := { s.irq with msixEnable := setMember s.irq.msixEnable (fnKey p f) on } }
  if on && !was then
    irqUpdate { s with irq := { s.irq with active := s.irq.active.filter (fun c => match c with
      | .vector q g _ => !(q = p && g = f)
      | _ => true) } }
  else s

/-- MSIX_UNMASK (R431): the host writes a vector's Mask, the Function Mask or MSI-X Enable. -/
def execMsixUnmask (p : Fin 2) (f : Fin 256) (b : MsixBit) (value : Bool) (s : State) : Out :=
  let s := quiet s
  .next (
    if !fnExists s p.val f.val then s
    else
      match b with
      | .vector v =>
        if v.toNat < fnVectors s.img p.val f.val then
          releaseHeld { s with irq := { s.irq with
            msixUnmasked := setMember s.irq.msixUnmasked (vecKey p.val f.val v.toNat) (!value) } } p.val f.val
        else s
      | .functionMask =>
        releaseHeld { s with irq := { s.irq with msixFnMask := setMember s.irq.msixFnMask (fnKey p.val f.val) value } } p.val f.val
      | .enable => enableMsix s p.val f.val value)

/-! Links and resets of host functions (R417, R433, R439) -/

/-- What waits in a port's outbound queue leaves, and posted stores complete with it (R417). -/
def drainPort (s : State) (p : Nat) : State :=
  let before := (hport s p).outbound
  let s := hostDrain s p
  let gone := before.take (before.length - (hport s p).outbound.length)
  dueCommits (gone.foldl (fun s r => if nonPosted r || r.msix.isSome then s else deliver s r.origin .done) s)

/-- The state of a link as HPT_LINK shows it. -/
def setLink (s : State) (p rate width cxl : Nat) : State :=
  wr (wr (wr s Fld.HPT_LINK_RATE rate p) Fld.HPT_LINK_WIDTH width p) Fld.HPT_LINK_CXL cxl p

/-- CXL mode: FLAGS.CXL and a rate of 64 or 32 GT/s (R440). -/
def mayCxl (s : State) (p rate : Nat) : Bool := (s.img.funcs[p]?).any (fun f => f.cxl) && decide (2 ≤ rate)

/-- HOST_LINK_UP (R417): a link that was down, in reset or in L2/L3 Ready trains to a rate and width, and its queue drains. -/
def execHostLinkUp (p : Fin 2) (rate : BitVec 2) (width : BitVec 5) (cxl : Bool) (s : State) : Out :=
  let s := quiet s
  .next (
    if linkUp s p.val || rate.toNat = 0 || !([4, 8, 16].contains width.toNat) || s.pwr.standby then s
    else
      let s := setLink s p.val rate.toNat width.toNat (bitOf (cxl && mayCxl s p.val rate.toNat))
      drainPort (setHport s p.val { hport s p.val with l23 := false }) p.val)

/-- A requester of a port, or of one of its functions. -/
def ofFunction (p : Nat) (f : Option Nat) : Requester → Bool
  | .hostPf q => q.val = p && (f.isNone || f = some 0)
  | .hostVf q g => q.val = p && (f.isNone || f = some g.val)
  | _ => false

/-- Outstanding inbound requests of a port or function are lost (R439). -/
def loseInbound (s : State) (p : Nat) (f : Option Nat) : State :=
  { s with
    mem := { s.mem with
      waiting := s.mem.waiting.filter (fun w => !ofFunction p f w.who)
      retries := s.mem.retries.filter (fun w => !ofFunction p f w.who) }
    held := s.held.filter (fun h => !ofFunction p f h.who)
    probeHeld := s.probeHeld.filter (fun h => !ofFunction p f h.1)
    saf := { s.saf with heldMmio := s.saf.heldMmio.filter (fun h => !ofFunction p f h.who) } }

/-- HOST_PORT_RESET (R439): fundamental reset, hot reset or link down. The link goes down in each, and the host's copies go with it. -/
def execHostPortReset (p : Fin 2) (kind : HostReset) (s : State) : Out :=
  let s := quiet s
  .next (
    let up := rd s Fld.HPT_LINK_RATE p.val ≠ 0
    let s := irqPortReset (loseInbound s p.val none) p.val none
    let s := setLink s p.val 0 0 0
    let s := if up || decide (kind = .linkDown) then flag s Fld.HPT_EVENT_LINK_DOWN p.val else s
    let s := setHport s p.val { hport s p.val with
      l23 := false
      committed := false
      configured := []
      cxlWait := [] }
    releaseWaiting (flag { s with mem := { s.mem with snoop := s.mem.snoop.filter (fun x => x.port ≠ p.val) } } Fld.HPT_EVENT_RESET p.val))

/-- FLR (R439). -/
def execFlr (p : Fin 2) (f : Fin 256) (s : State) : Out :=
  let s := quiet s
  .next (
    if !fnExists s p.val f.val then s
    else
      let s := irqPortReset (loseInbound s p.val (some f.val)) p.val (some f.val)
      let s := setHport s p.val { hport s p.val with configured := KSet.del (hport s p.val).configured f.val }
      flag s Fld.HPT_EVENT_FLR p.val)

/-- PME_TURN_OFF (R435, R389): the link enters L2/L3 Ready. -/
def execPmeTurnOff (p : Fin 2) (s : State) : Out :=
  let s := quiet s
  .next (if linkUp s p.val then setHport s p.val { hport s p.val with l23 := true } else s)

/-! Inbound accesses (R437) -/

/-- The hashed or window address that an offset of a function's BAR2 names; none where no space lies there (Table 17.3). -/
def barAddr (s : State) (p f off : Nat) : Option GAddr :=
  if f = 0 then some (gaddr (if off < 2 ^ 41 then 0 else 2) (localDevice s) (off % 2 ^ 41))
  else if off < 2 ^ 36 then
    let a := rd64 s Fld.HPT_VFAP_LO_OFFSET Fld.HPT_VFAP_HI_OFFSET p (f - 1) + off
    if a < 2 ^ 41 then some (gaddr 0 (localDevice s) a) else none
  else none

/-- The requester of a function. -/
def fnRequester (p : Fin 2) (f : Fin 256) : Requester := if f.val = 0 then .hostPf p else .hostVf p f

/-- A TLP carries a read or a write; no other kind is among the options of Table 17.2. -/
def tlpKind : AccessKind → Bool
  | .lineRead => true
  | .lineWrite _ _ => true
  | .partialStore _ _ => true
  | _ => false

/-- INBOUND_MEM_ACCESS (R437): one line of a host TLP, or the bytes of a line it stores; a read is answered with its line. -/
def execInboundMemAccess (p : Fin 2) (f : Fin 256) (off : BitVec 42) (kind : AccessKind) (ecc : Ecc) (s : State) : Out :=
  let s := quiet s
  let who := fnRequester p f
  .next (
    if bootHeld s who || !linkUp s p.val || !accessFits off.toNat kind then s
    else if !tlpKind kind || !fnExists s p.val f.val then reply s who .unsupported
    else
      match barAddr s p.val f.val off.toNat with
      | some a => accessFor s (.hub who) who a kind ecc
      | none => reply s who .unsupported)

/-! Outbound accesses (R438) -/

/-- HOST_WINDOW_ACCESS (R438): an access to space 0x04 by a requester of the hub. -/
def execHostWindowAccess (who : Requester) (off : BitVec 41) (kind : AccessKind) (s : State) : Out :=
  let s := quiet s
  .next (accessFor s (.hub who) who (gaddr 4 (localDevice s) off.toNat) kind .clean)

/-- The open request of a port that carries a tag. -/
def openRequest (s : State) (p tag : Nat) : Option HostReq := (hport s p).open_.find? (fun r => r.tag = tag)

def closeRequest (s : State) (p tag : Nat) : State :=
  setHport s p { hport s p with open_ := (hport s p).open_.filter (fun r => r.tag ≠ tag) }

/-- HOST_READ_COMPLETION (R438): the host answers an open request; a read's data is the size of its access. -/
def execHostReadCompletion (p : Fin 2) (tag : BitVec 10) (data : List Byte) (poison : Bool) (s : State) : Out :=
  let s := quiet s
  .next (
    match openRequest s p.val tag.toNat with
    | none => s
    | some r =>
      if !linkUp s p.val || (!isWrite r.kind && data.length ≠ readSize r.kind) then s
      else
        let s := deliver (closeRequest s p.val tag.toNat) r.origin (if isWrite r.kind then .done else .data data poison)
        drainPort s p.val)

/-- HOST_READ_TIMEOUT (R438): a read completes with poison; its data is not stated (log 9). -/
def execHostReadTimeout (p : Fin 2) (tag : BitVec 10) (s : State) : Out :=
  let s := quiet s
  .next (
    match openRequest s p.val tag.toNat with
    | none => s
    | some r =>
      if isWrite r.kind then s
      else
        let f := free 512 (closeRequest s p.val tag.toNat)
        drainPort (deliver f.2 r.origin (.data ((lineBytes f.1).take (readSize r.kind)) true)) p.val)

/-! CXL (R440) -/

/-- CXL_SNOOP (R440): the part holds no host line. -/
def execCxlSnoop (p : Fin 2) (addr : BitVec 64) (s : State) : Out :=
  let s := quiet s
  .next (
    if linkUp s p.val && rd s Fld.HPT_LINK_CXL p.val = 1 then emit s (.message (0x3000 + p.val) (natLe 8 addr.toNat)) else s)

/-- The hashed range that a port's HDM-DB decoder exposes holds an offset. -/
def hdmExposes (s : State) (p off : Nat) : Bool :=
  let base := rd64 s Fld.HPT_HDM_BASE_LO_OFFSET Fld.HPT_HDM_BASE_HI_OFFSET p
  (s.img.funcs[p]?).any (fun f => f.hdm) && decide (base ≤ off) && decide (off < base + rd s Fld.HPT_HDM_SIZE_UNITS p * 2 ^ 28)

def isCxlMem (p : Nat) : Origin → Bool
  | .cxlMem q _ keep => decide (q = p) && keep
  | _ => false

/-- Lines that a port's snoop filter holds, or has promised to requests that wait. -/
def snoopLoad (s : State) (p : Nat) : Nat :=
  (s.mem.snoop.filter (fun x => x.port = p)).length + (s.mem.waiting.filter (fun w => isCxlMem p w.origin)).length

/-- A CXL.mem request reaches the home slice; the port's own copy does not hold it back. -/
def cxlServe (s : State) (p : Fin 2) (off : Nat) (kind : AccessKind) (keep : Bool) (ecc : Ecc) : State :=
  let s := { s with mem := { s.mem with snoop := s.mem.snoop.filter (fun x => !(x.port = p.val && x.line = off / 64)) } }
  accessFor s (.cxlMem p.val (off / 64) keep) (.hostPf p) (gaddr 0 (localDevice s) off) kind ecc

/-- The line a port's filter took in first. -/
def oldestSnoop (s : State) (p : Nat) : Option Snoop := s.mem.snoop.find? (fun x => x.port = p)

/-- A request that needs an entry of a full filter waits, and the oldest line is back-invalidated. -/
def cxlRequest (s : State) (p : Fin 2) (off : Nat) (kind : AccessKind) (keep : Bool) (ecc : Ecc) : State :=
  if keep && !s.mem.snoop.any (fun x => x.port = p.val && x.line = off / 64) && decide (262144 ≤ snoopLoad s p.val) then
    let s := setHport s p.val { hport s p.val with cxlWait := (hport s p.val).cxlWait ++ [(off, kind, keep)] }
    let s := if (hport s p.val).cxlWait.length = 1 then
        (oldestSnoop s p.val).elim s (fun x => emit s (.backInvalidate p.val x.line)) else s
    reply s (.hostPf p) .held
  else cxlServe s p off kind keep ecc

/-- CXL_MEM_ACCESS (R440): the host reads or writes a line of the exposed range. `keep` says that it holds a copy afterwards. -/
def execCxlMemAccess (p : Fin 2) (off : BitVec 41) (store : Option (BitVec 512)) (poison keep : Bool) (ecc : Ecc) (s : State) : Out :=
  let s := quiet s
  .next (
    if bootHeld s (.hostPf p) || !linkUp s p.val || rd s Fld.HPT_LINK_CXL p.val = 0 then s
    else if !hdmExposes s p.val off.toNat then reply s (.hostPf p) .unsupported
    else
      let s := setHport s p.val { hport s p.val with committed := true }
      cxlRequest s p (off.toNat / 64 * 64) (match store with
        | some d => .lineWrite d poison
        | none => .lineRead) keep ecc)

/-- Requests that waited for room in the filter proceed while there is room. -/
def cxlRetry : Nat → State → Fin 2 → State
  | 0, s, _ => s
  | n + 1, s, p =>
    match (hport s p.val).cxlWait with
    | [] => s
    | (off, kind, keep) :: rest =>
      if 262144 ≤ snoopLoad s p.val then (oldestSnoop s p.val).elim s (fun x => emit s (.backInvalidate p.val x.line))
      else cxlRetry n (cxlServe (setHport s p.val { hport s p.val with cxlWait := rest }) p off kind keep .clean) p

/-- BACK_INVALIDATE (R440): the host gives a line back, with its data where it had changed it; what waited proceeds. -/
def execBackInvalidate (p : Fin 2) (line : BitVec 35) (dirty : Option (BitVec 512)) (s : State) : Out :=
  let s := quiet s
  .next (
    if s.mem.snoop.any (fun x => x.port = p.val && x.line = line.toNat) then
      let s := { s with mem := { s.mem with snoop := s.mem.snoop.filter (fun x => !(x.port = p.val && x.line = line.toNat)) } }
      let s := match dirty with
        | some d => writeLine s (.hostPf p) (line.toNat * 64) d false
        | none => s
      cxlRetry ((hport s p.val).cxlWait.length + 1) (releaseWaiting s) p
    else s)

/-! PLDM (R441, R431) -/

/-- A load from boot flash applies a component; its end reports IMG_ERR.CODE. While another load runs it is refused (R50). -/
def pldmLoad (s : State) (component : Nat) (offset : BitVec 64) (bytes : BitVec 29) : State :=
  if s.load.running then flag s Fld.IMG_STATUS_REF_BUSY
  else
    let s := wr (wr64 s Fld.IMG_SRC_LO_ADDR Fld.IMG_SRC_HI_ADDR offset.toNat) Fld.IMG_LEN_BYTES bytes.toNat
    let s := imgCtrl s (.mgmt true) true false 1
    { s with load := { s.load with pldm := if s.load.running then some component else none } }

/-- PLDM_FIRMWARE_UPDATE (R441). At level 3 only monitoring continues (R379). -/
def execPldmFirmwareUpdate (component : PldmComponent) (s : State) : Out :=
  let s := quiet s
  .next (
    if s.saf.alarm then s
    else
      match component with
      | .firmware f => emit { s with ckr := { s.ckr with flashed := some f } } (.message 0x2001 (natLe 1 0))
      | .supervisor offset bytes => pldmLoad s 2 offset bytes
      | .image offset bytes => pldmLoad s 3 offset bytes)

/-- SET_EVENT_RECEIVER (R431). -/
def execSetEventReceiver (receiver : BitVec 8) (s : State) : Out :=
  let s := quiet s
  .next { s with irq := { s.irq with eventReceiver := some receiver.toNat } }

end Sys2Proof.Machine
end

