-- ==== Sys2Proof/Machine/Wide.lean ====
section
/-! DEFINITION. The cluster core (07): fetch, issue conditions, faults and effects of a wide word, and the completion of loads and DMA. -/

namespace Sys2Proof.Machine

/-! Registers (R178, R179) -/

/-- A scalar register as a word reads it (Table 7.4). -/
def sreg (s : State) (x : Cluster) (n : Nat) : Nat :=
  match n with
  | 0 => 0
  | 56 => x.running.elim 0 (·.index)
  | 57 => x.running.elim 0 (·.count)
  | 58 => x.running.elim 0 (·.tenant)
  | 59 => (x.running.bind (·.step)).elim 0 (·.2)
  | 60 => s.mer % 2 ^ 32
  | 61 => x.merShadow.toNat
  | 62 => 0
  | 63 => 0
  | n => (KMap.get (fun _ => 0#64) x.sregs n).toNat

def vreg (x : Cluster) (n : Nat) : Nat := (KMap.get (fun _ => 0#2048) x.vregs n).toNat

/-- p0 reads all ones. -/
def preg (x : Cluster) (n : Nat) : Nat := if n = 0 then 2 ^ 64 - 1 else (KMap.get (fun _ => 0#64) x.pregs n).toNat

def Reg3.poisoned (x : Cluster) : Reg3 → Bool
  | .s n => x.spoison.contains n
  | .v n => x.vpoison.contains n
  | .p n => x.ppoison.contains n

def markSet (l : KSet) (n : Nat) (p : Bool) : KSet := if p then KSet.add l n else KSet.del l n

/-- A write to s0 is discarded. -/
def setS (x : Cluster) (n v : Nat) (p : Bool) : Cluster :=
  if n = 0 then x
  else { x with sregs := KMap.set (fun _ => 0#64) x.sregs n (BitVec.ofNat 64 v), spoison := markSet x.spoison n p }

def setV (x : Cluster) (n v : Nat) (p : Bool) : Cluster :=
  { x with vregs := KMap.set (fun _ => 0#2048) x.vregs n (BitVec.ofNat 2048 v), vpoison := markSet x.vpoison n p }

/-- A write to p0 is discarded. -/
def setP (x : Cluster) (n v : Nat) (p : Bool) : Cluster :=
  if n = 0 then x
  else { x with pregs := KMap.set (fun _ => 0#64) x.pregs n (BitVec.ofNat 64 v), ppoison := markSet x.ppoison n p }

/-- The register a load writes. -/
def RegRef.reg : RegRef → Reg3
  | .s n => .s n
  | .v n => .v n
  | .vPiece n _ => .v n
  | .p n => .p n

/-- A write of a register is pending from an earlier word (R177). -/
def pendingWrite (x : Cluster) (r : Reg3) : Bool := r.holds && x.loads.any (fun l => l.dst.reg = r)

/-- sA + IMM. -/
def addrOf (base : Nat) (imm : Int) : Nat := (((base : Int) + imm) % 2 ^ 64).toNat

/-! Faults (R203 to R205) -/

/-- CLU_FAULT and CLU_FAULT_PC record a fault, or it is an overrun. -/
def recordFault (s : State) (c : Nat) (f : WordFault) (deferred : Bool) (pc : Nat) : State :=
  if rd s Fld.CLU_FAULT_VALID c = 1 then flag s Fld.CLU_FAULT_OVERRUN c
  else
    let s := wr (wr (wr s Fld.CLU_FAULT_CAUSE f.cause c) Fld.CLU_FAULT_SLOT f.slot c) Fld.CLU_FAULT_DETAIL f.detail c
    let s := flag (wr s Fld.CLU_FAULT_DEFERRED (bitOf deferred) c) Fld.CLU_FAULT_VALID c
    wr64 s Fld.CLU_FAULT_PC_LO_PC Fld.CLU_FAULT_PC_HI_PC pc c

/-- The running launch ends (R185): its drains may still run. -/
def endCore (s : State) (c : Nat) (failed : Bool) : State :=
  match (cl s c).running with
  | none => s
  | some l =>
    let s := launchTrace s c 0x11 0 l
    modCl s c (fun x => { x with
      running := none
      lastHalt := !failed
      ending := x.ending ++ [⟨x.launchNo, l, failed⟩] })

/-- The core stops at a fault; further faults are overruns. -/
def coreFault (s : State) (c : Nat) (fs : List (WordFault × Bool × Nat)) : State :=
  let s := fs.foldl (fun s f => recordFault s c f.1 f.2.1 f.2.2) s
  let s := match (cl s c).running, fs with
    | some l, f :: _ => launchTrace s c 0x12 f.1.cause l
    | _, _ => s
  endCore (flag s Fld.CLU_LSTAT_ERR c) c true

/-! Fetch (R181, R182) -/

inductive Fetched where
  | word (w : Nat)
  | fault (f : WordFault) (deferred : Bool)
  | waits

/-- A fetch address: 64-byte aligned, in this part's hashed space. -/
def fetchable (s : State) (pc : Nat) : Bool :=
  let a := BitVec.ofNat 64 pc
  decide (pc % 64 = 0) && isLocal s a && decide (spaceOf a = 0) && hashedValid s (offOf a)

def fetchAllowed (s : State) (c : Fin 152) (pc : Nat) : Bool :=
  (tenantOf s (.cluster c)).all (fun t => hashedAllowed s t (offOf (BitVec.ofNat 64 pc)))

def fetchHeld (s : State) (pc : Nat) : Bool :=
  lineHeld s (offOf (BitVec.ofNat 64 pc)) || holdBlocks s (offOf (BitVec.ofNat 64 pc)) .lineRead

def cacheWay (x : Cluster) (pc : Nat) : Option (BitVec 512) :=
  ((KMap.get (fun _ => []) x.icache (pc / 64 % 256)).find? (fun e => e.1 = pc)).map (·.2)

/-- A word enters its set; a full set loses the word that entered first (log 17). -/
def cachePut (x : Cluster) (pc : Nat) (w : BitVec 512) : Cluster :=
  let ways := KMap.get (fun _ => []) x.icache (pc / 64 % 256)
  let ways := if ways.length ≥ 4 then ways.tail else ways
  { x with icache := KMap.set (fun _ => []) x.icache (pc / 64 % 256) (ways ++ [(pc, w)]) }

/-- A following word is prefetched where it can be read without a fault. -/
def prefetchWord (s : State) (c : Fin 152) (pc : Nat) : State :=
  if (cacheWay (cl s c.val) pc).isSome || !fetchable s pc || !fetchAllowed s c pc || fetchHeld s pc then s
  else
    let r := obtainLine s (offOf (BitVec.ofNat 64 pc)) .clean
    if r.2.2 then r.1 else modCl r.1 c.val (fun x => cachePut x pc r.2.1)

/-- The word at pc, from the instruction cache or through the home slice; a miss prefetches the two words after it. -/
def fetch (s : State) (c : Fin 152) (pc : Nat) (ecc : Ecc) : State × Fetched :=
  if !fetchable s pc then (s, .fault ⟨0x09, 7, 1⟩ false)
  else
    match cacheWay (cl s c.val) pc with
    | some w => (s, .word w.toNat)
    | none =>
      if !fetchAllowed s c pc then (s, .fault ⟨0x05, 7, 0⟩ true)
      else if fetchHeld s pc then (s, .waits)
      else
        let r := obtainLine s (offOf (BitVec.ofNat 64 pc)) ecc
        if r.2.2 then (r.1, .fault ⟨0x09, 7, 2⟩ false)
        else
          let s := modCl r.1 c.val (fun x => cachePut x pc r.2.1)
          (prefetchWord (prefetchWord s c (pc + 64)) c (pc + 128), .word r.2.1.toNat)

/-! Addresses (R90, R193, R195) -/

/-- The fault of a global address in a word, by its alignment, its space and its offset: DETAIL of Table 7.17. -/
def addrFault (s : State) (a align : Nat) (spaces : List Nat) : Option Nat :=
  let g := BitVec.ofNat 64 a
  if a % align ≠ 0 then some 2
  else if !spaces.contains (spaceOf g) then some 1
  else if !isLocal s g then none
  else if spaceOf g = 0 then (if hashedValid s (offOf g) then none else some 3)
  else if spaceOf g = 2 then (if (windowOf s (offOf g)).isSome then none else some 3)
  else none

/-- A local scratchpad offset of a descriptor of n bytes. -/
def localFault (a align n : Nat) : Option Nat := if a % align ≠ 0 then some 2 else if a + n > 2 ^ 22 then some 3 else none

def addrFaultAt (slot : Nat) (d : Option Nat) : List WordFault := (d.map (fun d => (⟨0x04, slot, d⟩ : WordFault))).toList

/-! Queues (R187 to R189) -/

/-- The binding of a handle; a handle not bound since the launch started has its default (Table 7.8). -/
def coreHandle (x : Cluster) (h : Nat) : Handle := KMap.get handleReset x.handles h

/-- A handle whose kind the operation does not accept. -/
def queueFault (x : Cluster) (slot h : Nat) (kinds : List Nat) : List WordFault :=
  if kinds.contains (coreHandle x h).kind then [] else [⟨0x06, slot, (coreHandle x h).kind⟩]

/-- Stack and channel of a channel number of Table 4.4. -/
def chanStack (t : Nat) : Nat := stackOfSlot (t / 64)

/-- Status entries that tiles issued and not yet reported will take. -/
def drainOwed (x : Cluster) : Nat :=
  ((x.tiles.map (fun t => t.subs.length)) ++ (x.runs.map (fun r => r.tile.subs.length - r.reported))).foldl (· + ·) 0

/-- Entries a cluster may use now: FREE and LINES of Table 7.9. -/
def queueRoom (s : State) (c : Fin 152) (h : Handle) : Nat × Nat :=
  let x := cl s c.val
  match h.kind with
  | 1 => (64 - queueLines x 0, 8 - queueDescs x 0)
  | 2 => (64 - queueLines x 1, 8 - queueDescs x 1)
  | 3 => (64 - queueLines x 2, 8 - queueDescs x 2)
  | 4 => (64 - (x.drainQ.length + drainOwed x), 0)
  | 5 => (256 - x.dma.length, 0)
  | 6 =>
    let k := stk s (chanStack h.target)
    let mine := k.waiting.filter (fun e => e.chan = h.target % 64 && decide (e.issuer = .cluster c))
    (freeEntries k (h.target % 64) - mine.length, freeLines k (h.target % 64) - (mine.map cmdPlen).foldl (· + ·) 0)
  | 7 => ((launchTarget s.img h.target).elim 0 (fun t =>
      ((targetLeaves s.img t).map (fun c => cluFree (cl s c))).foldl Nat.min 16), 0)
  | _ => (0, 0)

/-- Launches through a handle that have not ended. -/
def launchesVia (s : State) (c h : Nat) : Nat :=
  let mine (l : Launch) : Bool := decide (l.via = some (c, h)) && l.con.isNone
  (s.clu.map (fun e => ((e.2.queue ++ e.2.running.toList ++ e.2.ending.map (·.launch)).filter mine).length)).foldl (· + ·) 0 +
    (s.seq.conRuns.filter (fun r => decide (r.via = some (c, h)))).length + ((cl s c).heldLaunches.filter (fun l => l.h = h)).length

/-- PEND of Table 7.9: entries issued through a handle and not completed. -/
def queuePend (s : State) (c h : Nat) : Nat :=
  let x := cl s c
  ((List.range 4).map (fun f => ((feeder x f).descs.filter (fun d => d.h = h)).length)).foldl (· + ·) 0 +
    ((x.tiles.filter (fun t => t.h = h)).map (fun t => t.subs.length)).foldl (· + ·) 0 +
    ((x.runs.filter (fun r => r.tile.h = h)).map (fun r => r.tile.subs.length - r.reported)).foldl (· + ·) 0 +
    (x.dma.filter (fun d => d.h = h)).length + (x.scmds.filter (fun e => e.2.2 = h)).length + launchesVia s c h

/-- The result of QSTAT (Table 7.9). -/
def qstat (s : State) (c : Fin 152) (h : Nat) : Nat :=
  let b := coreHandle (cl s c.val) h
  let r := queueRoom s c b
  r.1 % 2 ^ 16 + r.2 % 2 ^ 9 * 2 ^ 16 + queuePend s c.val h % 2 ^ 16 * 2 ^ 32 + b.kind * 2 ^ 48

/-! What a word meets before it issues -/

/-- The operands of a word as they stand at its issue. -/
structure Operands where
  s : Nat → Nat
  v : Nat → Nat
  p : Nat → Nat

def operandsOf (s : State) (c : Nat) : Operands := let x := cl s c; ⟨sreg s x, vreg x, preg x⟩

/-- Faults and waits of the M slot (R152, R187, R190, R191, R192, R173). -/
def matrixFaults (s : State) (c : Fin 152) (o : Operands) : MatrixInstr → List WordFault
  | .tile f =>
    let x := cl s c.val
    let q := (if f.thin then queueFault x 3 f.qa [3] else queueFault x 3 f.qa [1] ++ queueFault x 3 f.qb [2]) ++ queueFault x 3 f.qd [4]
    if q ≠ [] then q
    else
      match localFault (o.s f.desc) 64 (32 + 32 * packCount f.pack) with
      | some d => [⟨0x04, 3, d⟩]
      | none => ((tileFault s c.val f (o.s f.desc)).map (fun e => (⟨e.1, 3, e.2⟩ : WordFault))).toList
  | _ => []

def matrixWaits (s : State) (c : Fin 152) : MatrixInstr → Bool
  | .tile f =>
    let x := cl s c.val
    decide ((queueRoom s c (coreHandle x f.qd)).1 < packCount f.pack) || decide (x.tiles.length ≥ 8)
  | .tsync => !atBoundary (cl s c.val)
  | .mnop => false

/-- A load's address fault: R2 takes the place of R90 in space 0x03. -/
def loadFault (s : State) (a align : Nat) : List WordFault := addrFaultAt 4 (addrFault s a align [0, 2, 3, 4])
def storeFault (s : State) (a align : Nat) : List WordFault := addrFaultAt 5 (addrFault s a align [0, 2, 3, 4])

/-- The fault of a placed address of a command (R94, R120). -/
def placedFault (s : State) (a : Nat) (low : Nat) : Option Nat :=
  let g := BitVec.ofNat 64 a
  if spaceOf g ≠ 1 ∨ isLocal s g = false then some 1
  else if offOf g % low ≠ 0 then some 2
  else if offOf g ≥ 2 ^ 40 ∨ offOf g / 2 ^ 37 ≥ 8 ∨ procDie s.img (chanStack (offOf g / 2 ^ 31)) (offOf g / 2 ^ 33 % 16) = false then some 3
  else none

/-- The command at a local offset, addressed to a placed address. -/
def commandAt (s : State) (c : Fin 152) (off placed : Nat) : StkCmd :=
  let b := localBytes s c.val off 64
  let n := fieldOf b 1 1 % 32
  let x := placed % 2 ^ 40
  let line (i : Nat) : BitVec 512 := lineOf (localBytes s c.val (off + 64 * i) 64)
  ⟨.cluster c, x / 2 ^ 31 % 64, x / 2 ^ 30 % 2, x / 2 ^ 27 % 8, line 0, (List.range n).map (fun i => line (i + 1)),
    spadPoisoned s.mem c.val off (64 * (n + 1)), none, false⟩

/-- A DMA descriptor: source, destination, length, completion address. -/
def dmaAt (s : State) (c off : Nat) : Nat × Nat × Nat × Nat :=
  let b := localBytes s c off 32
  (fieldOf b 0 8, fieldOf b 8 8, fieldOf b 16 8, fieldOf b 24 8)

/-- A completion count: an 8-byte aligned hashed address (R463). -/
def countFault (s : State) (a : Nat) : Option Nat := addrFault s a 8 [0]

def dmaFaults (s : State) (c off : Nat) : Option Nat :=
  let d := dmaAt s c off
  let g (a : Nat) : Nat := spaceOf (BitVec.ofNat 64 a)
  if d.1 % 64 ≠ 0 ∨ d.2.1 % 64 ≠ 0 ∨ d.2.2.1 % 64 ≠ 0 then some 2
  else if !([0, 2, 4].contains (g d.1)) || !([0, 2, 4].contains (g d.2.1)) then some 1
  else if d.2.2.2 = 0 then none
  else countFault s d.2.2.2

def loadFaults (s : State) (c : Fin 152) (o : Operands) : LoadInstr → List WordFault
  | .lnop => []
  | .feed h a =>
    let x := cl s c.val
    let q := queueFault x 4 h [1, 2, 3]
    if q ≠ [] then q
    else
      match localFault (o.s a) 64 64 with
      | some d => [⟨0x04, 4, d⟩]
      | none => ((feedFault s (localBytes s c.val (o.s a) 64) (coreHandle x h).kind).map (fun e => (⟨e.1, 4, e.2⟩ : WordFault))).toList
  | .lds _ a n imm => loadFault s (addrOf (o.s a) imm) n
  | .ldv _ a imm => loadFault s (addrOf (o.s a) imm) 256
  | .mld _ _ a imm => loadFault s (addrOf (o.s a) imm) 32
  | .scmd h a b =>
    let x := cl s c.val
    let q := queueFault x 4 h [6]
    if q ≠ [] then q
    else if o.s b / 2 ^ 31 % 2 ^ 9 ≠ (coreHandle x h).target then [⟨0x06, 4, 6⟩]
    else
      match placedFault s (o.s b) (2 ^ 27) with
      | some d => [⟨0x04, 4, d⟩]
      | none =>
        match localFault (o.s a) 64 64 with
        | some d => [⟨0x04, 4, d⟩]
        | none => addrFaultAt 4 (localFault (o.s a) 64 (64 * (1 + fieldOf (localBytes s c.val (o.s a) 64) 1 1 % 32)))
  | .dma h a =>
    let q := queueFault (cl s c.val) 4 h [5]
    if q ≠ [] then q
    else
      match localFault (o.s a) 1 32 with
      | some d => [⟨0x04, 4, d⟩]
      | none => addrFaultAt 4 (dmaFaults s c.val (o.s a))

/-- Requests of a cluster open at other parts; at most 256 (R322). -/
def remoteOpen (s : State) (c : Nat) : Nat := (s.fab.requests.filter (fun r => ofCluster c r.origin)).length

def remoteFull (s : State) (c a n : Nat) : Bool := !isLocal s (BitVec.ofNat 64 a) && decide (remoteOpen s c + n > 256)

/-- A register read that the hub holds: an alias block that moves (R24), or a hash lookup in progress (R97). -/
def mmioHeld (s : State) (a : Nat) : Bool :=
  let g := BitVec.ofNat 64 a
  isLocal s g && decide (spaceOf g = 3) && (aliasHeld s (offOf g) || (decide (offOf g = Reg.HUB_HASH_RESULT) && s.probe.isSome))

/-- Meteor requests outstanding, at most 64 (R108). -/
def meteorOpen (x : Cluster) : Nat := (x.loads.filter (fun l => match l.dst with
  | .vPiece _ _ => true
  | _ => false)).length

def loadWaits (s : State) (c : Fin 152) (o : Operands) : LoadInstr → Bool
  | .lnop => false
  | .feed h _ => decide ((queueRoom s c (coreHandle (cl s c.val) h)).2 = 0)
  | .lds _ a _ imm => let x := addrOf (o.s a) imm; remoteFull s c.val x 1 || mmioHeld s x
  | .ldv _ a imm => remoteFull s c.val (addrOf (o.s a) imm) 4
  | .mld _ _ a imm => remoteFull s c.val (addrOf (o.s a) imm) 1 || decide (meteorOpen (cl s c.val) ≥ 64)
  | .scmd h a _ =>
    let r := queueRoom s c (coreHandle (cl s c.val) h)
    decide (r.1 = 0) || decide (r.2 < fieldOf (localBytes s c.val (o.s a) 64) 1 1 % 32)
  | .dma h _ => decide ((queueRoom s c (coreHandle (cl s c.val) h)).1 = 0)

def storeFaults (s : State) (o : Operands) : StoreInstr → List WordFault
  | .dnop => []
  | .sts a _ n imm => storeFault s (addrOf (o.s a) imm) n
  | .stv a _ imm => storeFault s (addrOf (o.s a) imm) 256
  | .mst a _ _ imm => storeFault s (addrOf (o.s a) imm) 32
  | .amo _ wide a _ _ _ => addrFaultAt 5 (addrFault s (o.s a) (atomicSize wide) [0, 2])
  | .red a _ _ _ _ c d =>
    if o.s c &&& (2 ^ 12 - 1 + (2 ^ 12 - 1) * 2 ^ 16) ≠ o.s c then [illegal 5]
    else addrFaultAt 5 ((addrFault s (o.s a) 64 [0, 2]).or (if d = 0 then none else countFault s (o.s d)))
  | .rcan a => addrFaultAt 5 (addrFault s (o.s a) 64 [0, 2])

def storeWaits (s : State) (c : Nat) (o : Operands) : StoreInstr → Bool
  | .dnop => false
  | .sts a _ _ imm => remoteFull s c (addrOf (o.s a) imm) 1
  | .stv a _ imm => remoteFull s c (addrOf (o.s a) imm) 4
  | .mst a _ _ imm => remoteFull s c (addrOf (o.s a) imm) 1
  | .amo _ _ a _ _ _ => remoteFull s c (o.s a) 1
  | .red a _ _ _ _ _ _ => remoteFull s c (o.s a) 1
  | .rcan _ => false

/-- QBIND's target: a placed address of a processor-mode channel, or a launch queue's block. -/
def targetFault (s : State) (kind a : Nat) : Option Nat :=
  let g := BitVec.ofNat 64 a
  if kind = 6 then placedFault s a 1
  else if kind = 7 then
    if spaceOf g ≠ 3 ∨ isLocal s g = false then some 1 else if (launchTarget s.img (offOf g)).isNone then some 3 else none
  else none

def queueFaults (s : State) (c : Fin 152) (o : Operands) : QueueInstr → List WordFault
  | .qwait h _ _ => queueFault (cl s c.val) 6 h [1, 2, 3, 4, 5, 6, 7]
  | .qstat _ h => queueFault (cl s c.val) 6 h [1, 2, 3, 4, 5, 6, 7]
  | .qbind _ kind a => addrFaultAt 6 (targetFault s kind (o.s a))
  | .dpop _ h => queueFault (cl s c.val) 6 h [4]
  | .launch h _ => queueFault (cl s c.val) 6 h [7]
  | _ => []

def ownOrigin (c : Nat) : Origin → Bool
  | .cluster d _ _ _ => d = c
  | _ => false

/-- Loads, stores, atomics and meteor accesses of a cluster that have not completed (Table 9.1). -/
def accessesOpen (s : State) (c : Nat) : Bool :=
  !(cl s c).loads.isEmpty || s.mem.waiting.any (fun w => ownOrigin c w.origin) || s.mem.retries.any (fun w => ownOrigin c w.origin) ||
    s.fab.requests.any (fun r => ownOrigin c r.origin) || s.hpt.any (fun e => (e.2.outbound ++ e.2.open_).any (fun r => ownOrigin c r.origin))

/-- Accesses that a fence waits for (R198, R225). -/
def fenceWaits (s : State) (c scope : Nat) : Bool :=
  let x := cl s c
  (bitsOf scope 0 1 = 1 && accessesOpen s c) || (bitsOf scope 1 1 = 1 && !x.scmds.isEmpty) || (bitsOf scope 2 1 = 1 && !x.dma.isEmpty) ||
    (bitsOf scope 3 1 = 1 && (!x.tiles.isEmpty || !x.runs.isEmpty))

def queueWaits (s : State) (c : Fin 152) (o : Operands) : QueueInstr → Bool
  | .qwait h n lines =>
    let b := coreHandle (cl s c.val) h
    let r := queueRoom s c b
    decide (r.1 < n) || (b.kind = 6 && decide (r.2 < lines))
  | .dpop _ _ => (cl s c.val).drainQ.isEmpty
  | .fence scope => fenceWaits s c.val scope
  | .launch h _ =>
    let b := coreHandle (cl s c.val) h
    (launchTarget s.img b.target).isSome && decide ((queueRoom s c b).1 = 0)
  | .merwait a => decide (s.mer < o.s a)
  | _ => false

/-- The class of a register as DETAIL of POISON. -/
def Reg3.cls : Reg3 → Nat
  | .s _ => 1
  | .v _ => 2
  | .p _ => 3

/-- Control uses of poisoned registers (R180). -/
def poisonFaults (x : Cluster) (w : WideWord) : List WordFault :=
  (w.controls.filter (fun e => e.2.poisoned x)).map (fun e => ⟨0x08, e.1, e.2.cls⟩)

/-- Faults that a word finds in its operands, slot by slot. -/
def wordFaults (s : State) (c : Fin 152) (o : Operands) (w : WideWord) : List WordFault :=
  w.m.elim [] (matrixFaults s c o) ++ w.l.elim [] (loadFaults s c o) ++ w.d.elim [] (storeFaults s o) ++ w.q.elim [] (queueFaults s c o)

/-- Queue conditions of a word that do not hold yet. -/
def wordWaits (s : State) (c : Fin 152) (o : Operands) (w : WideWord) : Bool :=
  w.m.elim false (matrixWaits s c) || w.l.elim false (loadWaits s c o) || w.d.elim false (storeWaits s c.val o) ||
    w.q.elim false (queueWaits s c o)

/-- A word that waits for a register (R177). -/
def interlocked (x : Cluster) (w : WideWord) : Bool :=
  w.slotReads.any (pendingWrite x) || w.slotWrites.any (fun e => pendingWrite x e.2)

/-! Effects -/

/-- The S slot: the register it writes, its value, and whether the register is a predicate. -/
def scalarResult (o : Operands) : ScalarInstr → Bool × Nat × Nat
  | .alu op d a b => (false, d, (scalarOp op (o.s a) (o.s b)).getD 0)
  | .movi d imm => (false, d, imm)
  | .addi d a imm => (false, d, (o.s a + imm) % 2 ^ 64)
  | .vext d v l => (false, d, lane 32 (o.v v) l)
  | .pset p a => (true, p, o.s a)
  | .pget d p => (false, d, o.p p)

def applyScalar (x x0 : Cluster) (o : Operands) (i : ScalarInstr) : Cluster :=
  let r := scalarResult o i
  let bad := i.reads.any (fun g => g.poisoned x0)
  if r.1 then setP x r.2.1 r.2.2 bad else setS x r.2.1 r.2.2 bad

/-- The V slot's poison: that of its sources, and of the destination where lanes keep their values. -/
def vectorPoison (x0 : Cluster) (i : VecOp) (mask : Nat) : Bool :=
  (i.sources.map Reg3.v ++ i.scalars.map Reg3.s ++ [Reg3.p i.p] ++
    (if fullWrite i mask then [] else if i.isCompare then [Reg3.p i.pd] else [Reg3.v i.d])).any (fun g => g.poisoned x0)

/-- The V slot (R199); a reduction over no lane takes a free value (log 9). -/
def applyVector (s : State) (c : Nat) (x0 : Cluster) (o : Operands) (i : VecOp) : State :=
  let m := o.p i.p
  let mask := if i.neg then (2 ^ 64 - 1) ^^^ m else m
  let f := free 64 s
  let s := if i.isReduce then f.2 else s
  let r := vectorOp i ⟨o.v, o.s, mask, o.p i.pd, f.1.toNat⟩
  let bad := vectorPoison x0 i mask
  modCl s c (fun x => if i.isCompare then setP x i.pd r bad else setV x i.d r bad)

/-- A TILE enters the tile section (R192). -/
def applyMatrix (s : State) (c pc : Nat) (o : Operands) : MatrixInstr → State
  | .tile f => modCl s c (fun x => { x with tiles := x.tiles ++ [readTile s c f (o.s f.desc) pc x.launchNo] })
  | _ => s

/-- Bytes of the answer to a register read. -/
def mmioAnswer (s : State) (n : Nat) : List Byte :=
  match s.out.getLast? with
  | some ⟨_, .value v⟩ => natLe n v.toNat
  | some ⟨_, .timeout⟩ => List.replicate n 0xFF#8
  | _ => List.replicate n 0#8

/-- A load enters with its parts still to come. -/
def enterLoad (s : State) (c : Nat) (dst : RegRef) (a bytes pc : Nat) (bad : Bool) : State × Nat :=
  let id := (cl s c).nextId
  (modCl s c (fun x => { x with nextId := id + 1, loads := x.loads ++ [⟨id, dst, a, bytes, [], pc, bad⟩] }), id)

/-- The parts of a load are asked for: address and kind of each. -/
def askParts (s : State) (c : Fin 152) (id pc slot : Nat) (parts : List (Nat × AccessKind)) (ecc : Ecc) : State :=
  parts.zipIdx.foldl (fun s e =>
    accessFor s (.cluster c.val (some (id, e.2)) pc slot) (.cluster c) (BitVec.ofNat 64 e.1.1) e.1.2 ecc) s

/-- A load from space 0x03: registers take 4 and 8 bytes; any other size is offending and reads zeros (R2). -/
def loadRegister (s : State) (c : Fin 152) (id a bytes : Nat) : State :=
  let off := offOf (BitVec.ofNat 64 a)
  let t := if bytes = 4 ∨ bytes = 8 then mmioRead s (.cluster c) off (bytes = 8) else recordOffending s (.cluster c) off
  let b := if bytes = 4 ∨ bytes = 8 then mmioAnswer t bytes else List.replicate bytes 0#8
  modCl t c.val (fun x => fillPart x id 0 b false)

/-- A load of n bytes at a global address: a line that holds them, four lines, or a meteor burst. -/
def startLoad (s : State) (c : Fin 152) (dst : RegRef) (a bytes pc : Nat) (ecc : Ecc) : State :=
  let r := enterLoad s c.val dst a bytes pc false
  let g := BitVec.ofNat 64 a
  if isLocal s g && spaceOf g = 3 then loadRegister r.1 c r.2 a bytes
  else
    let parts := if bytes = 256 then (List.range 4).map (fun i => (a + 64 * i, AccessKind.lineRead))
      else if bytes = 32 then [(a, .meteorRead)] else [(a / 64 * 64, .lineRead)]
    askParts r.1 c r.2 pc 4 parts ecc

def applyLoad (s : State) (c : Fin 152) (pc : Nat) (x0 : Cluster) (o : Operands) (ecc : Ecc) : LoadInstr → State
  | .lnop => s
  | .feed h a =>
    let d := readFeed (localBytes s c.val (o.s a) 64) h pc
    let k := (coreHandle x0 h).kind
    let f := feederOf k + (if k = 3 && d.side then 1 else 0)
    modCl s c.val (fun x => let y := feeder x f; setFeeder x f { y with descs := y.descs ++ [d] })
  | .lds d a n imm => startLoad s c (.s d) (addrOf (o.s a) imm) n pc ecc
  | .ldv d a imm => startLoad s c (.v d) (addrOf (o.s a) imm) 256 pc ecc
  | .mld d piece a imm => startLoad s c (.vPiece d piece) (addrOf (o.s a) imm) 32 pc ecc
  | .scmd h a b =>
    let k := commandAt s c (o.s a) (offOf (BitVec.ofNat 64 (o.s b)))
    let t := (coreHandle x0 h).target
    modCl (modStk s (chanStack t) (fun y => { y with waiting := y.waiting ++ [k] })) c.val
      (fun x => { x with scmds := x.scmds ++ [(cmdTag k, t, h)] })
  | .dma h a =>
    let d := dmaAt s c.val (o.s a)
    modCl s c.val (fun x => { x with
      nextId := x.nextId + 1
      dma := x.dma ++ [⟨x.nextId, d.1, d.2.1, d.2.2.1, d.2.2.2, h, pc, false, false⟩] })

/-- A store of bytes to a register (R2). -/
def storeRegister (s : State) (c : Fin 152) (a : Nat) (bs : List Byte) (remote : Option (BitVec 512)) : State :=
  let off := offOf (BitVec.ofNat 64 a)
  if bs.length = 4 ∨ bs.length = 8 then
    mmioWrite s (.cluster c) off (bs.length = 8) (BitVec.ofNat 64 (leNat bs)) ⟨remote, true, true⟩
  else recordOffending s (.cluster c) off

/-- Stores of a word: each line or burst is one access. -/
def storeParts (s : State) (c : Fin 152) (pc : Nat) (parts : List (Nat × AccessKind)) (ecc : Ecc) : State :=
  parts.foldl (fun s e => accessFor s (.cluster c.val none pc 5) (.cluster c) (BitVec.ofNat 64 e.1) e.2 ecc) s

def redFormat (n : Nat) : RedFormat := if n = 0 then .fp32 else if n = 1 then .int32 else if n = 2 then .int64 else .raw

def applyStore (s : State) (c : Fin 152) (pc : Nat) (x0 : Cluster) (o : Operands) (ecc : Ecc) (remote : Option (BitVec 512)) :
    StoreInstr → State
  | .dnop => s
  | .sts a b n imm =>
    let x := addrOf (o.s a) imm
    let g := BitVec.ofNat 64 x
    let bs := natLe n (o.s b)
    if isLocal s g && spaceOf g = 3 then storeRegister s c x bs remote
    else storeParts s c pc [(x, .partialStore bs ((Reg3.s b).poisoned x0))] ecc
  | .stv a v imm =>
    let x := addrOf (o.s a) imm
    let g := BitVec.ofNat 64 x
    if isLocal s g && spaceOf g = 3 then recordOffending s (.cluster c) (offOf g)
    else storeParts s c pc ((List.range 4).map (fun i =>
      (x + 64 * i, .lineWrite (BitVec.ofNat 512 (lane 512 (o.v v) i)) ((Reg3.v v).poisoned x0)))) ecc
  | .mst a v piece imm =>
    let x := addrOf (o.s a) imm
    let g := BitVec.ofNat 64 x
    if isLocal s g && spaceOf g = 3 then recordOffending s (.cluster c) (offOf g)
    else storeParts s c pc [(x, .meteorWrite (BitVec.ofNat 256 (lane 256 (o.v v) piece)) ((Reg3.v v).poisoned x0))] ecc
  | .amo op wide a b k d =>
    let bad := (Reg3.s b).poisoned x0 || (decide (op = .cas) && (Reg3.s k).poisoned x0)
    let r := enterLoad s c.val (.s d) (o.s a) (atomicSize wide) pc bad
    askParts r.1 c r.2 pc 5 [(o.s a, .atomic op wide (BitVec.ofNat 64 (o.s b)) (BitVec.ofNat 64 (o.s k)) bad)] ecc
  | .red a v q fmt accum k d =>
    let bad := (Reg3.v v).poisoned x0 || (Reg3.s k).poisoned x0
    storeParts s c pc [(o.s a, .contribute ⟨redFormat fmt, BitVec.ofNat 16 (o.s k % 2 ^ 12), BitVec.ofNat 16 (o.s k / 2 ^ 16 % 2 ^ 12 + 1),
      accum, if d = 0 then none else some (BitVec.ofNat 64 (o.s d)), BitVec.ofNat 512 (lane 512 (o.v v) q), bad⟩)] ecc
  | .rcan a => storeParts s c pc [(o.s a, .reduceCancel)] ecc

/-- The address of the word after this one. -/
def nextPc (o : Operands) (pc : Nat) : QueueInstr → Nat
  | .br imm => addrOf pc (64 * imm)
  | .brz a imm => if o.s a = 0 then addrOf pc (64 * imm) else (pc + 64) % 2 ^ 64
  | .brnz a imm => if o.s a ≠ 0 then addrOf pc (64 * imm) else (pc + 64) % 2 ^ 64
  | .brany p imm => if o.p p ≠ 0 then addrOf pc (64 * imm) else (pc + 64) % 2 ^ 64
  | .brall p imm => if o.p p = 2 ^ 64 - 1 then addrOf pc (64 * imm) else (pc + 64) % 2 ^ 64
  | .call _ imm => addrOf pc (64 * imm)
  | .jr a => o.s a
  | _ => (pc + 64) % 2 ^ 64

/-- Registers and bindings that the Q slot writes. -/
def applyQueueRegs (s : State) (c : Fin 152) (pc : Nat) (o : Operands) (i : QueueInstr) (x : Cluster) : Cluster :=
  match i with
  | .qstat d h => setS x d (qstat s c h) false
  | .qbind h kind a =>
    let g := BitVec.ofNat 64 (o.s a)
    let t := if kind = 6 then offOf g / 2 ^ 31 else if kind = 7 then offOf g else 0
    { x with handles := KMap.set handleReset x.handles h ⟨kind, t⟩ }
  | .dpop d _ => setS { x with drainQ := x.drainQ.tail } d (x.drainQ.headD 0#64).toNat false
  | .call d _ => setS x d ((pc + 64) % 2 ^ 64) false
  | .icinv => { x with icache := [] }
  | _ => x

/-- A LAUNCH leaves for its queue; `late` says that it has not reached the queue yet (R206). -/
def applyLaunch (s : State) (c : Fin 152) (pc : Nat) (x0 : Cluster) (o : Operands) (late : Bool) (remote : Option (BitVec 512)) (h a : Nat) :
    State :=
  let t := (coreHandle x0 h).target
  let g := BitVec.ofNat 64 (o.s a)
  let held (s : State) : State := modCl s c.val (fun x => { x with heldLaunches := x.heldLaunches ++ [⟨t, g, h, pc⟩] })
  if late || !x0.heldLaunches.isEmpty then held s
  else
    let r := launchFrom s c t g h pc remote
    if r.2 then r.1 else held r.1

/-- The word reads s60 (R179). -/
def readsMer (w : WideWord) : Bool := w.slotReads.contains (.s 60)

/-- A word issues: every slot reads its sources as they stand (R177). -/
def issue (s : State) (c : Fin 152) (w : WideWord) (ecc : Ecc) (late : Bool) (remote : Option (BitVec 512)) : State :=
  let x0 := cl s c.val
  let o := operandsOf s c.val
  let pc := x0.pc
  let s0 := s
  let s := modCl s c.val (fun x =>
    let x := { x with
      pc := w.q.elim ((pc + 64) % 2 ^ 64) (nextPc o pc)
      merShadow := if readsMer w then BitVec.ofNat 32 (s.mer / 2 ^ 32) else x.merShadow }
    w.s.elim x (applyScalar x x0 o))
  let s := w.v.elim s (applyVector s c.val x0 o)
  let s := w.q.elim s (fun i => modCl s c.val (applyQueueRegs s0 c pc o i))
  let s := w.m.elim s (applyMatrix s c.val pc o)
  let s := w.l.elim s (applyLoad s c pc x0 o ecc)
  let s := w.d.elim s (applyStore s c pc x0 o ecc remote)
  match w.q with
  | some (.launch h a) => applyLaunch s c pc x0 o late remote h a
  | some .halt => endCore s c.val false
  | _ => s

/-- The core may issue: a launch runs, and nothing stops it (R173, R185, R360, R384). -/
def coreRuns (s : State) (c : Nat) : Bool :=
  let x := cl s c
  x.running.isSome && !x.stopped && !preempting s c && !clusterEclipse s c && !clusterOff s c

def Deferred.fault (d : Deferred) : WordFault × Bool × Nat := (⟨d.cause, d.slot, d.detail⟩, true, d.pc)

/-- The word at the pc meets its faults and waits, or issues. `s` is the state before its fetch, `t` the one after. -/
def meetWord (s t : State) (c : Fin 152) (bits : Nat) (ecc : Ecc) (late : Bool) (remote : Option (BitVec 512)) : State :=
  let x := cl t c.val
  let r := readWord bits
  let precise (f : WordFault) : WordFault × Bool × Nat := (f, false, x.pc)
  if r.2 ≠ [] then coreFault t c.val (r.2.map precise)
  else if interlocked x r.1 then s
  else
    let o := operandsOf t c.val
    let bad := poisonFaults x r.1
    let fs := if bad ≠ [] then bad else wordFaults t c o r.1
    if fs = [] ∧ wordWaits t c o r.1 = true then s
    else if x.deferred ≠ [] then
      coreFault (modCl t c.val (fun x => { x with deferred := [] })) c.val (x.deferred.map Deferred.fault ++ fs.map precise)
    else if fs ≠ [] then coreFault t c.val (fs.map precise)
    else issue t c r.1 ecc late remote

/-- WORD_ISSUE (R176 to R207). The error checks of its fetch and of its data accesses are operands, and so are whether a LAUNCH is still on
its way to its queue and a launch descriptor that lies at another part or a host. -/
def execWordIssue (c : Fin 152) (fetchEcc dataEcc : Ecc) (late : Bool) (remote : Option (BitVec 512)) (s : State) : Out :=
  let s := quiet s
  .next (
    if !coreRuns s c.val then s
    else
      let x := cl s c.val
      let r := fetch s c x.pc fetchEcc
      match r.2 with
      | .waits => s
      | .fault f deferred => coreFault r.1 c.val [(f, deferred, x.pc)]
      | .word w => meetWord s r.1 c w dataEcc late remote)

/-! Completion of loads (R225) -/

/-- Parts that a load of a number of bytes has. -/
def partCount (l : PendLoad) : Nat := if l.bytes = 256 then 4 else 1

def loadDone (l : PendLoad) : Bool := (List.range (partCount l)).all (fun i => (KMap.get (fun _ => none) l.parts i).isSome)

/-- The bytes of a load whose parts are all there, taken out of their lines. -/
def loadBytes (l : PendLoad) : List Byte × Bool :=
  let ps := (List.range (partCount l)).filterMap (fun i => KMap.get (fun _ => none) l.parts i)
  let b := ps.flatMap (·.1)
  ((if b.length > l.bytes then (b.drop (l.addr % 64)).take l.bytes else b), ps.any (·.2) || l.poison)

/-- A load's register is written; a piece of a vector register leaves the rest, and its poison, as they are. -/
def writeLoaded (x : Cluster) (dst : RegRef) (b : List Byte) (p : Bool) : Cluster :=
  match dst with
  | .s n => setS x n (leNat b) p
  | .v n => setV x n (leNat b) p
  | .vPiece n i =>
    setV x n (setLanes 256 8 (vreg x n) (2 ^ i) (fun _ => leNat b)) (p || x.vpoison.contains n)
  | .p n => setP x n (leNat b) p

/-- LOAD_COMPLETE (R225): the data of a load or atomic whose parts have come reaches its register. -/
def execLoadComplete (c : Fin 152) (index : Nat) (s : State) : Out :=
  let s := quiet s
  .next (
    match (cl s c.val).loads[index]? with
    | none => s
    | some l =>
      if loadDone l then
        let b := loadBytes l
        modCl s c.val (fun x => writeLoaded { x with loads := x.loads.filter (fun k => k.id ≠ l.id) } l.dst b.1 b.2)
      else s)

/-! DMA (R194) -/

def dmaOrigin (c id : Nat) : Origin → Bool
  | .dma d k _ => decide (d = c) && decide (k = id)
  | _ => false

/-- Accesses of a DMA under way. -/
def dmaOpen (s : State) (c id : Nat) : Bool :=
  s.mem.waiting.any (fun w => dmaOrigin c id w.origin) || s.fab.requests.any (fun r => dmaOrigin c id r.origin) ||
    s.hpt.any (fun e => (e.2.outbound ++ e.2.open_).any (fun r => dmaOrigin c id r.origin))

/-- Every line of a DMA is read, and written as it arrives. -/
def moveDma (s : State) (c : Fin 152) (d : Dma) (ecc : Ecc) : State :=
  let s := modCl s c.val (fun x => { x with dma := x.dma.map (fun e => if e.id = d.id then { e with moved := true } else e) })
  (List.range (d.len / 64)).foldl (fun s k =>
    accessFor s (.dma c.val d.id (some k)) (.cluster c) (BitVec.ofNat 64 (d.src + 64 * k)) .lineRead ecc) s

/-- A DMA whose accesses have all completed leaves the queue and is counted; one that failed is not (log 24). -/
def finishDma (s : State) (c : Fin 152) (id : Nat) : State :=
  match (cl s c.val).dma.find? (fun d => d.id = id) with
  | none => s
  | some d =>
    if dmaOpen s c.val id then s
    else
      let s := modCl s c.val (fun x => { x with dma := x.dma.filter (fun e => e.id ≠ id) })
      if d.cpl = 0 ∨ d.failed = true then s else bump s (.cluster c) (BitVec.ofNat 64 d.cpl) 1

/-- DMA_COMPLETE (R194): a DMA moves its lines, and completes once its last write has. -/
def execDmaComplete (c : Fin 152) (index : Nat) (ecc : Ecc) (s : State) : Out :=
  let s := quiet s
  .next (
    match (cl s c.val).dma[index]? with
    | none => s
    | some d => finishDma (if d.moved then s else moveDma s c d ecc) c d.id)

end Sys2Proof.Machine
end

