-- ==== Sys2Proof/Machine/Dispatch.lean ====
section
/-! DEFINITION. The meaning of every command: one arm per constructor, each one call of its meaning. -/

namespace Sys2Proof.Machine

def exec (i : Instr) (s : State) : Host.Outcome State Fault Refusal :=
  match i with
  | .mmioOffendingAccess who off size write value => Sys2Proof.Machine.execMmioOffendingAccess who off size write value s
  | .readLoSnapshot who off wide => Sys2Proof.Machine.execReadLoSnapshot who off wide s
  | .readClear who off wide unstable => Sys2Proof.Machine.execReadClear who off wide unstable s
  | .registerWrite who off wide value => Sys2Proof.Machine.execRegisterWrite who off wide value s
  | .aliasAccessRelease l remote => Sys2Proof.Machine.execAliasAccessRelease l remote s
  | .imgStart who srcKind => Sys2Proof.Machine.execImgStart who srcKind s
  | .imgAbort who srcKind => Sys2Proof.Machine.execImgAbort who srcKind s
  | .imgVerifyEnd fetched => Sys2Proof.Machine.execImgVerifyEnd fetched s
  | .imgGranuleMove g ecc => Sys2Proof.Machine.execImgGranuleMove g ecc s
  | .imgGranuleMoveBack g => Sys2Proof.Machine.execImgGranuleMoveBack g s
  | .heldGranuleAccess => Sys2Proof.Machine.execHeldGranuleAccess s
  | .imgSwitch => Sys2Proof.Machine.execImgSwitch s
  | .imgReleaseEnd => Sys2Proof.Machine.execImgReleaseEnd s
  | .hashProbe who offset => Sys2Proof.Machine.execHashProbe who offset s
  | .hashLookupDone => Sys2Proof.Machine.execHashLookupDone s
  | .zfillStart who => Sys2Proof.Machine.execZfillStart who s
  | .zfillAbort who => Sys2Proof.Machine.execZfillAbort who s
  | .zfillGranuleClear stack => Sys2Proof.Machine.execZfillGranuleClear stack s
  | .lineRead who addr ecc => Sys2Proof.Machine.execLineRead who addr ecc s
  | .lineWrite who addr data poison => Sys2Proof.Machine.execLineWrite who addr data poison s
  | .backgroundFillLine channel granule line => Sys2Proof.Machine.execBackgroundFillLine channel granule line s
  | .partialStore who addr data poison ecc => Sys2Proof.Machine.execPartialStore who addr data poison ecc s
  | .meteorRead who addr ecc => Sys2Proof.Machine.execMeteorRead who addr ecc s
  | .meteorWrite who addr data poison => Sys2Proof.Machine.execMeteorWrite who addr data poison s
  | .meteorRmw channel ecc => Sys2Proof.Machine.execMeteorRmw channel ecc s
  | .windowAccess who addr kind ecc => Sys2Proof.Machine.execWindowAccess who addr kind ecc s
  | .atomicOp who addr op wide operand compare ecc => Sys2Proof.Machine.execAtomicOp who addr op wide operand compare ecc s
  | .redContribution who addr c => Sys2Proof.Machine.execRedContribution who addr c s
  | .redRetryResend => Sys2Proof.Machine.execRedRetryResend s
  | .reduceCancel who addr => Sys2Proof.Machine.execReduceCancel who addr s
  | .stkCmdForward stack channel => Sys2Proof.Machine.execStkCmdForward stack channel s
  | .stkNop u => Sys2Proof.Machine.execStkNop u s
  | .rowInit u => Sys2Proof.Machine.execRowInit u s
  | .rowCopy u bad => Sys2Proof.Machine.execRowCopy u bad s
  | .rowAnd u badA badB => Sys2Proof.Machine.execRowAnd u badA badB s
  | .rowOr u badA badB => Sys2Proof.Machine.execRowOr u badA badB s
  | .rowXor u badA badB => Sys2Proof.Machine.execRowXor u badA badB s
  | .rowNot u bad => Sys2Proof.Machine.execRowNot u bad s
  | .rowRead u bad => Sys2Proof.Machine.execRowRead u bad s
  | .rowWrite u => Sys2Proof.Machine.execRowWrite u s
  | .kvAppend u bad => Sys2Proof.Machine.execKvAppend u bad s
  | .qload u => Sys2Proof.Machine.execQload u s
  | .attend u bad fault => Sys2Proof.Machine.execAttend u bad fault s
  | .heldFlushRetry u => Sys2Proof.Machine.execHeldFlushRetry u s
  | .rsetup u => Sys2Proof.Machine.execRsetup u s
  | .rcancel u => Sys2Proof.Machine.execRcancel u s
  | .reducerBlockAccept u fault => Sys2Proof.Machine.execReducerBlockAccept u fault s
  | .noRidDiscard u => Sys2Proof.Machine.execNoRidDiscard u s
  | .bankRefresh stack bank => Sys2Proof.Machine.execBankRefresh stack bank s
  | .dieTempRead stack temps => Sys2Proof.Machine.execDieTempRead stack temps s
  | .throttleGroupStart stack => Sys2Proof.Machine.execThrottleGroupStart stack s
  | .processorModeEntry stack die => Sys2Proof.Machine.execProcessorModeEntry stack die s
  | .processorModeExit stack die => Sys2Proof.Machine.execProcessorModeExit stack die s
  | .dieMapClearDone stack die => Sys2Proof.Machine.execDieMapClearDone stack die s
  | .arrayStep c thin => Sys2Proof.Machine.execArrayStep c thin s
  | .tileAdmit c thin => Sys2Proof.Machine.execTileAdmit c thin s
  | .preloadEnd c thin => Sys2Proof.Machine.execPreloadEnd c thin s
  | .tileLastProduct c thin bank => Sys2Proof.Machine.execTileLastProduct c thin bank s
  | .drainStart c => Sys2Proof.Machine.execDrainStart c s
  | .drainReadEnd c => Sys2Proof.Machine.execDrainReadEnd c s
  | .statusWordDeliver c fails => Sys2Proof.Machine.execStatusWordDeliver c fails s
  | .operandHalfArrive c stream line hi ecc => Sys2Proof.Machine.execOperandHalfArrive c stream line hi ecc s
  | .halfLineTimeout c stream line => Sys2Proof.Machine.execHalfLineTimeout c stream line s
  | .activityLevelStep c => Sys2Proof.Machine.execActivityLevelStep c s
  | .freezeModeApply c => Sys2Proof.Machine.execFreezeModeApply c s
  | .preemptRequest c => Sys2Proof.Machine.execPreemptRequest c s
  | .tileBoundary c => Sys2Proof.Machine.execTileBoundary c s
  | .wordIssue c fetchEcc dataEcc late remote => Sys2Proof.Machine.execWordIssue c fetchEcc dataEcc late remote s
  | .dmaComplete c index ecc => Sys2Proof.Machine.execDmaComplete c index ecc s
  | .loadComplete c index => Sys2Proof.Machine.execLoadComplete c index s
  | .launchQueueEnter c remote => Sys2Proof.Machine.execLaunchQueueEnter c remote s
  | .cluLaunchWrite who block addr remote => Sys2Proof.Machine.execCluLaunchWrite who block addr remote s
  | .launchStart c => Sys2Proof.Machine.execLaunchStart c s
  | .launchEnd c => Sys2Proof.Machine.execLaunchEnd c s
  | .cluIcinvWrite who block => Sys2Proof.Machine.execCluIcinvWrite who block s
  | .tinvStart who kind => Sys2Proof.Machine.execTinvStart who kind s
  | .tinvDone => Sys2Proof.Machine.execTinvDone s
  | .kvmAttWrite who addr => Sys2Proof.Machine.execKvmAttWrite who addr s
  | .kvmRequestAccept remote => Sys2Proof.Machine.execKvmRequestAccept remote s
  | .kvmDispatch stack remote => Sys2Proof.Machine.execKvmDispatch stack remote s
  | .kvmRequestComplete remote => Sys2Proof.Machine.execKvmRequestComplete remote s
  | .frameZeroed pair frame => Sys2Proof.Machine.execFrameZeroed pair frame s
  | .swapOutStart => Sys2Proof.Machine.execSwapOutStart s
  | .swapPageOut bad => Sys2Proof.Machine.execSwapPageOut bad s
  | .swapInPage rows => Sys2Proof.Machine.execSwapInPage rows s
  | .subqDoorbell who l tail => Sys2Proof.Machine.execSubqDoorbell who l tail s
  | .submissionRead l supply => Sys2Proof.Machine.execSubmissionRead l supply s
  | .stepAdmit l heads => Sys2Proof.Machine.execStepAdmit l heads s
  | .stepLaunch l => Sys2Proof.Machine.execStepLaunch l s
  | .sample l lasts => Sys2Proof.Machine.execSample l lasts s
  | .commitCheck l => Sys2Proof.Machine.execCommitCheck l s
  | .commitPoint l => Sys2Proof.Machine.execCommitPoint l s
  | .shadowRoomWait head => Sys2Proof.Machine.execShadowRoomWait head s
  | .replayLaunch l => Sys2Proof.Machine.execReplayLaunch l s
  | .loopRestart who l => Sys2Proof.Machine.execLoopRestart who l s
  | .loopSwitch l heads => Sys2Proof.Machine.execLoopSwitch l heads s
  | .contextSave => Sys2Proof.Machine.execContextSave s
  | .contextRestore l => Sys2Proof.Machine.execContextRestore l s
  | .loopPreempt l => Sys2Proof.Machine.execLoopPreempt l s
  | .windowArm who l => Sys2Proof.Machine.execWindowArm who l s
  | .windowOpen l => Sys2Proof.Machine.execWindowOpen l s
  | .windowDone l => Sys2Proof.Machine.execWindowDone l s
  | .emptyWindowPeriod w => Sys2Proof.Machine.execEmptyWindowPeriod w s
  | .quotaStepBoundary t => Sys2Proof.Machine.execQuotaStepBoundary t s
  | .tokshareBoundary t => Sys2Proof.Machine.execTokshareBoundary t s
  | .fabDevidWrite who dev => Sys2Proof.Machine.execFabDevidWrite who dev s
  | .portEnableWrite who p en => Sys2Proof.Machine.execPortEnableWrite who p en s
  | .portTrain p lo hi slow => Sys2Proof.Machine.execPortTrain p lo hi slow s
  | .portTrainRetry p => Sys2Proof.Machine.execPortTrainRetry p s
  | .linkSessionEstablish p => Sys2Proof.Machine.execLinkSessionEstablish p s
  | .flitReceive p flit => Sys2Proof.Machine.execFlitReceive p flit s
  | .ackTimeout p => Sys2Proof.Machine.execAckTimeout p s
  | .portRetrainWrite who p => Sys2Proof.Machine.execPortRetrainWrite who p s
  | .portRetrainEnd p lo hi slow => Sys2Proof.Machine.execPortRetrainEnd p lo hi slow s
  | .rekey who p => Sys2Proof.Machine.execRekey who p s
  | .rdBurst packet ecc => Sys2Proof.Machine.execRdBurst packet ecc s
  | .rdLine packet ecc => Sys2Proof.Machine.execRdLine packet ecc s
  | .wrBurst packet => Sys2Proof.Machine.execWrBurst packet s
  | .wrLine packet => Sys2Proof.Machine.execWrLine packet s
  | .atomicPacket packet ecc => Sys2Proof.Machine.execAtomicPacket packet ecc s
  | .redPacket packet => Sys2Proof.Machine.execRedPacket packet s
  | .bulkRd packet => Sys2Proof.Machine.execBulkRd packet s
  | .bulkWr packet => Sys2Proof.Machine.execBulkWr packet s
  | .collPull packet => Sys2Proof.Machine.execCollPull packet s
  | .collPush packet => Sys2Proof.Machine.execCollPush packet s
  | .data packet => Sys2Proof.Machine.execData packet s
  | .ack packet => Sys2Proof.Machine.execAck packet s
  | .err packet => Sys2Proof.Machine.execErr packet s
  | .mer packet => Sys2Proof.Machine.execMer packet s
  | .requestTimeout dst tag => Sys2Proof.Machine.execRequestTimeout dst tag s
  | .heldRequestRelease => Sys2Proof.Machine.execHeldRequestRelease s
  | .answerRecordExpiry src tag => Sys2Proof.Machine.execAnswerRecordExpiry src tag s
  | .fabCollWrite who addr => Sys2Proof.Machine.execFabCollWrite who addr s
  | .collectiveAccept => Sys2Proof.Machine.execCollectiveAccept s
  | .collectiveComplete cid => Sys2Proof.Machine.execCollectiveComplete cid s
  | .buddyEnable who dev => Sys2Proof.Machine.execBuddyEnable who dev s
  | .buddyLogApply work => Sys2Proof.Machine.execBuddyLogApply work s
  | .merExchange t1 t2 t3 t4 => Sys2Proof.Machine.execMerExchange t1 t2 t3 t4 s
  | .merPpsEdge => Sys2Proof.Machine.execMerPpsEdge s
  | .ppsLost => Sys2Proof.Machine.execPpsLost s
  | .rasReread bad source => Sys2Proof.Machine.execRasReread bad source s
  | .pageRepair lost => Sys2Proof.Machine.execPageRepair lost s
  | .rowTest fails => Sys2Proof.Machine.execRowTest fails s
  | .patrolRead row addr ecc => Sys2Proof.Machine.execPatrolRead row addr ecc s
  | .scrubStart who => Sys2Proof.Machine.execScrubStart who s
  | .scrubAbort who => Sys2Proof.Machine.execScrubAbort who s
  | .scrubRead ecc => Sys2Proof.Machine.execScrubRead ecc s
  | .regionSelect who index => Sys2Proof.Machine.execRegionSelect who index s
  | .regionCommit who kind => Sys2Proof.Machine.execRegionCommit who kind s
  | .clusterRetire c => Sys2Proof.Machine.execClusterRetire c s
  | .failoverCopyDone l bad => Sys2Proof.Machine.execFailoverCopyDone l bad s
  | .unitRetire u => Sys2Proof.Machine.execUnitRetire u s
  | .checkpoint stores => Sys2Proof.Machine.execCheckpoint stores s
  | .lockstepMismatch pc hub => Sys2Proof.Machine.execLockstepMismatch pc hub s
  | .recoveryRelease => Sys2Proof.Machine.execRecoveryRelease s
  | .hubHeartbeat die => Sys2Proof.Machine.execHubHeartbeat die s
  | .heartbeatLoss die => Sys2Proof.Machine.execHeartbeatLoss die s
  | .dieRecoveryEnd die sources => Sys2Proof.Machine.execDieRecoveryEnd die sources s
  | .dieLinkLostTimeout die => Sys2Proof.Machine.execDieLinkLostTimeout die s
  | .faultInjection c u flagged => Sys2Proof.Machine.execFaultInjection c u flagged s
  | .rotationSlot die volts locked => Sys2Proof.Machine.execRotationSlot die volts locked s
  | .clusterTestEnd c ok => Sys2Proof.Machine.execClusterTestEnd c ok s
  | .unitTestSlot stack volts locked => Sys2Proof.Machine.execUnitTestSlot stack volts locked s
  | .unitTestEnd u ok => Sys2Proof.Machine.execUnitTestEnd u ok s
  | .testRefusalRetry volts locked => Sys2Proof.Machine.execTestRefusalRetry volts locked s
  | .bstHoldExpiry => Sys2Proof.Machine.execBstHoldExpiry s
  | .bstDirStart who value volts locked => Sys2Proof.Machine.execBstDirStart who value volts locked s
  | .behindCheck => Sys2Proof.Machine.execBehindCheck s
  | .testerProvisioning => Sys2Proof.Machine.execTesterProvisioning s
  | .sealingCommand => Sys2Proof.Machine.execSealingCommand s
  | .unlockToken serial target count slot block => Sys2Proof.Machine.execUnlockToken serial target count slot block s
  | .returnToken serial target count slot block => Sys2Proof.Machine.execReturnToken serial target count slot block s
  | .defunctCommand => Sys2Proof.Machine.execDefunctCommand s
  | .floorRaise who hi => Sys2Proof.Machine.execFloorRaise who hi s
  | .generate who => Sys2Proof.Machine.execGenerate who s
  | .destroy who => Sys2Proof.Machine.execDestroy who s
  | .importKey id t key => Sys2Proof.Machine.execImportKey id t key s
  | .alarmRaise src die => Sys2Proof.Machine.execAlarmRaise src die s
  | .getVersion => Sys2Proof.Machine.execGetVersion s
  | .getCapabilities => Sys2Proof.Machine.execGetCapabilities s
  | .negotiateAlgorithms offer => Sys2Proof.Machine.execNegotiateAlgorithms offer s
  | .getDigests => Sys2Proof.Machine.execGetDigests s
  | .getCertificate slot off len => Sys2Proof.Machine.execGetCertificate slot off len s
  | .challenge nonce ok => Sys2Proof.Machine.execChallenge nonce ok s
  | .getMeasurements index => Sys2Proof.Machine.execGetMeasurements index s
  | .keyExchange ok => Sys2Proof.Machine.execKeyExchange ok s
  | .finish id owner ok => Sys2Proof.Machine.execFinish id owner ok s
  | .keyUpdate id => Sys2Proof.Machine.execKeyUpdate id s
  | .spdmHeartbeat id => Sys2Proof.Machine.execSpdmHeartbeat id s
  | .endSession id => Sys2Proof.Machine.execEndSession id s
  | .pwrReqWake who save kind index => Sys2Proof.Machine.execPwrReqWake who save kind index s
  | .pwrReqDusk who save kind index => Sys2Proof.Machine.execPwrReqDusk who save kind index s
  | .pwrReqNight who save kind index => Sys2Proof.Machine.execPwrReqNight who save kind index s
  | .pwrReqRest who save kind index => Sys2Proof.Machine.execPwrReqRest who save kind index s
  | .pwrReqSleep who save kind index => Sys2Proof.Machine.execPwrReqSleep who save kind index s
  | .pwrReqStandby who save kind index => Sys2Proof.Machine.execPwrReqStandby who save kind index s
  | .pwrReqApply flushed => Sys2Proof.Machine.execPwrReqApply flushed s
  | .nightSaveDone c => Sys2Proof.Machine.execNightSaveDone c s
  | .wakeWindow => Sys2Proof.Machine.execWakeWindow s
  | .domainEntryDone kind index => Sys2Proof.Machine.execDomainEntryDone kind index s
  | .domainWakeDone kind index => Sys2Proof.Machine.execDomainWakeDone kind index s
  | .standbyWake i3c => Sys2Proof.Machine.execStandbyWake i3c s
  | .stackDemandWake stack => Sys2Proof.Machine.execStackDemandWake stack s
  | .pwrLimitWrite who w => Sys2Proof.Machine.execPwrLimitWrite who w s
  | .arbitrationWindow raw cons => Sys2Proof.Machine.execArbitrationWindow raw cons s
  | .coeffCorrection tele => Sys2Proof.Machine.execCoeffCorrection tele s
  | .avsRequest rail mv => Sys2Proof.Machine.execAvsRequest rail mv s
  | .avsPoll rail mv => Sys2Proof.Machine.execAvsPoll rail mv s
  | .avsRetry rail => Sys2Proof.Machine.execAvsRetry rail s
  | .avsSuspendEnd rail => Sys2Proof.Machine.execAvsSuspendEnd rail s
  | .tempSample die diode ring => Sys2Proof.Machine.execTempSample die diode ring s
  | .refWindowEnd a b => Sys2Proof.Machine.execRefWindowEnd a b s
  | .refAbsent ref absent => Sys2Proof.Machine.execRefAbsent ref absent s
  | .refSwitch => Sys2Proof.Machine.execRefSwitch s
  | .accessTimeout who off wide write => Sys2Proof.Machine.execAccessTimeout who off wide write s
  | .fifoResync entries => Sys2Proof.Machine.execFifoResync entries s
  | .porst low taken bootSrc => Sys2Proof.Machine.execPorst low taken bootSrc s
  | .deviceReset who => Sys2Proof.Machine.execDeviceReset who s
  | .partitionReset who k => Sys2Proof.Machine.execPartitionReset who k s
  | .clusterReset who c => Sys2Proof.Machine.execClusterReset who c s
  | .portReset who p => Sys2Proof.Machine.execPortReset who p s
  | .hostPortReset p kind => Sys2Proof.Machine.execHostPortReset p kind s
  | .flr p f => Sys2Proof.Machine.execFlr p f s
  | .bootPhaseEnd report => Sys2Proof.Machine.execBootPhaseEnd report s
  | .trainSave who => Sys2Proof.Machine.execTrainSave who s
  | .irqSourceEvent => Sys2Proof.Machine.execIrqSourceEvent s
  | .irqClaim who reg => Sys2Proof.Machine.execIrqClaim who reg s
  | .irqComplete who reg source => Sys2Proof.Machine.execIrqComplete who reg source s
  | .irqSwset who source => Sys2Proof.Machine.execIrqSwset who source s
  | .gdisClear who => Sys2Proof.Machine.execGdisClear who s
  | .msixUnmask p f b value => Sys2Proof.Machine.execMsixUnmask p f b value s
  | .inboundMemAccess p f off kind ecc => Sys2Proof.Machine.execInboundMemAccess p f off kind ecc s
  | .hostWindowAccess who off kind => Sys2Proof.Machine.execHostWindowAccess who off kind s
  | .hostReadTimeout p tag => Sys2Proof.Machine.execHostReadTimeout p tag s
  | .cxlSnoop p addr => Sys2Proof.Machine.execCxlSnoop p addr s
  | .backInvalidate p line dirty => Sys2Proof.Machine.execBackInvalidate p line dirty s
  | .mctpRead32 secured off => Sys2Proof.Machine.execMctpRead32 secured off s
  | .mctpWrite32 secured off value => Sys2Proof.Machine.execMctpWrite32 secured off value s
  | .mctpRead64 secured off => Sys2Proof.Machine.execMctpRead64 secured off s
  | .mctpWrite64 secured off value => Sys2Proof.Machine.execMctpWrite64 secured off value s
  | .pldmFirmwareUpdate component => Sys2Proof.Machine.execPldmFirmwareUpdate component s
  | .setEventReceiver receiver => Sys2Proof.Machine.execSetEventReceiver receiver s
  | .clusterCheckerMismatch c => Sys2Proof.Machine.execClusterCheckerMismatch c s
  | .hostLinkUp p rate width cxl => Sys2Proof.Machine.execHostLinkUp p rate width cxl s
  | .cxlMemAccess p off store poison keep ecc => Sys2Proof.Machine.execCxlMemAccess p off store poison keep ecc s
  | .pmeTurnOff p => Sys2Proof.Machine.execPmeTurnOff p s
  | .hostReadCompletion p tag data poison => Sys2Proof.Machine.execHostReadCompletion p tag data poison s
  | .mer10mAbsent absent => Sys2Proof.Machine.execMer10mAbsent absent s

end Sys2Proof.Machine
end

