-- ==== Sys2Proof/Machine/Tick.lean ====
section
/-! DEFINITION. What the clock does on its own: 5 ns pass when no command waits (log 3). -/

namespace Sys2Proof.Machine

/-- Nanoseconds of one idle step: 4 bank cycles of 800 MHz and 9 core cycles of 1.8 GHz (R1). -/
def tickLength : Nat := 5

/-- 5 ns pass: the meridian count advances (R330, R456), and records reach the trace store (R392). -/
def tick (s : State) : State :=
  let s := quiet s
  flushAll (merAdvance { s with ns := s.ns + tickLength } tickLength)

end Sys2Proof.Machine
end

