-- ==== Sys2Proof/Safety.lean ====
section
/-! DEFINITION. What claims are stated in: the canonical form of the memories, and when a register of the hub takes a write. -/

namespace Sys2Proof.Machine

/-- The canonical form of the byte memories: DRAM and the scratchpads list each byte once, addresses rising, and no zero byte (log 7). -/
def Memory.wf (m : Memory) : Bool := KMap.wf (fun _ => 0#8) m.dram && KMap.wf (fun _ => 0#8) m.spad

/-- The background-fill queues are in their canonical form, and each granule queued is queued once, in its channel, and is in the
written map (R100). -/
def Memory.fillsOk (m : Memory) : Bool :=
  KMap.wf (fun _ => []) m.fills &&
  m.fills.all (fun e => decide (e.2.map (·.unit)).Nodup &&
    e.2.all (fun f => decide (f.unit / 2 ^ 19 = e.1) && decide (f.unit ∈ m.written)))

/-- What every step keeps of the memories. -/
def Memory.formOk (m : Memory) : Bool := m.wf && m.fillsOk

/-- An access to a hashed address of this part meets no error (R89, R90, R239) and nothing holds it back (R53, R143, R346, R386, R440). -/
def hashedOpen (s : State) (who : Requester) (a : GAddr) (kind : AccessKind) : Bool :=
  isLocal s a && decide (spaceOf a = 0) && accessFits (offOf a) kind && hashedValid s (offOf a) &&
  !(tenantOf s who).any (fun t => !hashedAllowed s t (offOf a)) && !lineHeld s (offOf a) && !holdBlocks s (offOf a) kind

/-- The slice holds the line, or its set has an invalid way: no line has to leave for it (R112). -/
def wayReady (s : State) (off : Nat) : Bool :=
  let x := cacheSet s.mem (setKey (homeDie s off) off)
  (findWay x (off / 64)).isSome || x.ways.any (fun w => w.isNone)

/-- A window access of a cluster that meets no error: the physical cluster, and the offset in its scratchpad (R42, R91, R239). -/
def scratchOpen (s : State) (who : Requester) (a : GAddr) (kind : AccessKind) (c x : Nat) : Bool :=
  isLocal s a && decide (spaceOf a = 2) && accessFits (offOf a) kind && decide (windowOf s (offOf a) = some (c, x)) &&
  !(tenantOf s who).any (fun t => !windowAllowed s t c) && !clusterOff s c

/-- No indexed reduction is open on the line of an address in a space (R114). -/
def lineFree (s : State) (space off : Nat) : Bool := !s.mem.reductions.any (fun r => r.addr = localAddr s space (off / 64 * 64))

/-- No indexed reduction is open on the scratchpad line of a window address (R114). -/
def padFree (s : State) (a : GAddr) : Bool :=
  match windowOf s (offOf a) with
  | some (c, x) => lineFree s 2 ((logicalOf s.img c).getD 0 * 2 ^ 22 + x)
  | none => true

/-- A completion count can be raised at an address: a hashed word of this part that nothing holds back, with no open reduction, no second
copy and no poison, and no line has to leave the slice for it (R114, R345, R463). -/
def countReady (s : State) (who : Requester) (n : Nat) : Bool :=
  let g := BitVec.ofNat 64 n
  hashedOpen s who g (.atomic .add true 1 0 false) && lineFree s 0 (offOf g) && (mirrorOf s (offOf g / 64 * 64)).isNone &&
  wayReady s (offOf g) && !(peekLine s (offOf g / 64 * 64)).2

/-- What a byte of hashed space reads after a count at `n` has been raised by `k`. -/
def countByte (s : State) (n k i : Nat) : Byte :=
  let o := offOf (BitVec.ofNat 64 n)
  if o ≤ i ∧ i < o + 8 then
    (natLe 8 ((fieldOf (lineBytes (peekLine s (o / 64 * 64)).1) (o % 64) 8 + k) % 2 ^ 64)).getD (i - o) 0#8
  else peekByte s i

/-- Both lines of a sequence descriptor can be written (R278). -/
def descOpen (s : State) (n : Nat) : Bool :=
  let a := descAddr s n
  decide (a % 64 = 0) && decide (a + 64 < 2 ^ 64) && [a, a + 64].all (fun x =>
    let g := BitVec.ofNat 64 x
    hashedOpen s .sequencer g (.lineWrite 0#512 false) && lineFree s 0 (offOf g) && (mirrorOf s (offOf g)).isNone)

/-- The form in which a requester receives an error of an access: a host port gives Unsupported Request (R90, R239). -/
def errorTo (who : Requester) (a : Answer) : List Reply := [⟨some who, if isHost who then .unsupported else a⟩]

/-- The command at the head of a bank pair runs: nothing holds it back, nothing ends it before it acts, and no bank it touches is under
refresh (R105, R124, R125, R143). -/
def headRuns (s : State) (u : PairRef) (c : StkCmd) (touched : StkCmd → List Touch) : Bool :=
  decide (headCmd s u.stack.val (pairRefUnit u) = some c) && mayStart s u.stack.val c && decide (entryStatus s u.stack.val c = 0) &&
  !bankBusy s u.stack.val c (touched c)

/-- A command's channel, pseudo-channel and pair are ones that a stack has (R93). -/
def siteOk (c : StkCmd) : Bool := decide (c.chan < 64) && decide (c.pc < 2) && decide (c.pair < 8)

/-- The cluster's core issues the word at its pc, which the instruction cache holds: the word is legal, waits for nothing, and neither it nor
an earlier access has a fault to report (R177, R180, R181, R203, R205). -/
def wordReady (s : State) (c : Fin 152) (w : WideWord) : Bool :=
  let x := cl s c.val
  coreRuns s c.val && fetchable s x.pc &&
  (match cacheWay x x.pc with
    | some b => decide (readWord b.toNat = (w, []))
    | none => false) &&
  !interlocked x w && decide (poisonFaults x w = []) && decide (wordFaults s c (operandsOf s c.val) w = []) &&
  !wordWaits s c (operandsOf s c.val) w && x.deferred.isEmpty

/-- A write at an offset reaches its registers: no boot has stopped, no move or stopped domain is in the way, the device is not in eclipse,
the management port has its rights, and the registers exist (R2, R24, R358, R374, R379, R412, R424). -/
def regOpen (s : State) (who : Requester) (off : Nat) (wide : Bool) : Bool :=
  (mmioGate s who off true wide 0#64).isNone && (mgmtRefused s who).isNone && !eclipseHeld s off && (offendingAt s who off wide).isNone

/-- A write of a hub register by this requester reaches its register: no boot has stopped (R424), the part is not in STANDBY (R412), the
device is not in eclipse (R358), and the management port has its rights (R374, R379). -/
def hubOpen (s : State) (who : Requester) : Bool :=
  !bootHeld s who && !s.pwr.standby && !deviceEclipse s && (mgmtRefused s who).isNone

/-- An uncorrected fault has been counted, and RAS_ERR records it unless it holds an earlier one (R344, R362). -/
def faultLogged (s t : State) (kind source addr : Nat) : Prop :=
  rd t Fld.RAS_EVENT_UE = 1 ∧ rd64 t Fld.RAS_UE_LO_COUNT Fld.RAS_UE_HI_COUNT = (rd64 s Fld.RAS_UE_LO_COUNT Fld.RAS_UE_HI_COUNT + 1) % 2 ^ 64 ∧
  (rd s Fld.RAS_ERR_VALID = 1 → rd t Fld.RAS_ERR_OVERRUN = 1 ∧ rd t Fld.RAS_ERR_KIND = rd s Fld.RAS_ERR_KIND ∧
    rd t Fld.RAS_ERR_SOURCE = rd s Fld.RAS_ERR_SOURCE) ∧
  (rd s Fld.RAS_ERR_VALID = 0 → rd t Fld.RAS_ERR_VALID = 1 ∧ rd t Fld.RAS_ERR_KIND = kind ∧ rd t Fld.RAS_ERR_SOURCE = source ∧
    rd64 t Fld.RAS_ERR_ADDR_LO_ADDR Fld.RAS_ERR_ADDR_HI_ADDR = addr)

end Sys2Proof.Machine
end

