-- ==== Sys2Proof/Certificates/Slice0/Obligations.lean ====
section
/-! DEFINITION. The statements: what the commands of each family do, where they complete, and what every step keeps. -/

open Sys2Proof Sys2Proof.Machine

/-- For every command c and state s, a step of s with c at the front of its queue is the execution of c on s with the queue's
rest. A step on an empty queue is the model's clock tick (log 3): it answers a next state in which 5 ns have passed, the queue is
empty, and no memory, cluster, stack or register other than the trace store's count has changed. -/
def Obligations.QueueFrontRuns : Prop :=
  (∀ (c : Instr) (s : State), step { s with pending := c :: s.pending } = exec c s) ∧
  (∀ s : State, s.pending = [] → ∃ t, step s = .next t ∧ t.ns = s.ns + 5 ∧
    t = { s with out := [], ns := t.ns, mer := t.mer, fab := t.fab, regs := t.regs, pwr := t.pwr } ∧
    ∀ off, off ≠ Reg.PWR_TRACE_WR_LO → off ≠ Reg.PWR_TRACE_WR_HI → t.regs.read off = s.regs.read off)

/-- While no boot has stopped, an access of a size other than 4 or 8 bytes, and a misaligned 32-bit read outside the alias blocks,
reads 0 and has no effect but its record: HUB_MMIO_ERR_ADDR holds its offset and requester with VALID, OVERRUN if VALID was set,
and HUB_MMIO_ERR_CNT counts one more, saturating. An access outside the alias blocks into a domain that does not answer ends with
the timeout's result, no effect on what it addressed, and its offset and requester in CKR_XSTAT with ACCESS_TIMEOUT. -/
def Obligations.OffendingAccesses : Prop :=
  (∀ (s : State) who (off : BitVec 41) (size : Nat) (write : Bool) value, bootHeld s who = false →
    (size ≠ 4 ∧ size ≠ 8 ∨ size = 4 ∧ off.toNat % 4 ≠ 0 ∧ write = false ∧ aliasNo off.toNat = none) → ∃ t,
    exec (.mmioOffendingAccess who off size write value) s = .next t ∧
    t = { s with out := [⟨some who, if write then .done else .value 0⟩], regs := t.regs } ∧
    rd t Fld.HUB_MMIO_ERR_ADDR_VALID = 1 ∧ rd t Fld.HUB_MMIO_ERR_ADDR_OFFSET = off.toNat % 2 ^ 27 ∧
    rd t Fld.HUB_MMIO_ERR_ADDR_SRC = srcCode who ∧
    (rd s Fld.HUB_MMIO_ERR_ADDR_VALID = 1 → rd t Fld.HUB_MMIO_ERR_ADDR_OVERRUN = 1) ∧
    (rd s Fld.HUB_MMIO_ERR_ADDR_VALID ≠ 1 → rd t Fld.HUB_MMIO_ERR_ADDR_OVERRUN = rd s Fld.HUB_MMIO_ERR_ADDR_OVERRUN) ∧
    rd t Fld.HUB_MMIO_ERR_CNT_COUNT = Nat.min (rd s Fld.HUB_MMIO_ERR_CNT_COUNT + 1) (2 ^ 32 - 1) ∧
    ∀ off', off' ≠ Reg.HUB_MMIO_ERR_ADDR → off' ≠ Reg.HUB_MMIO_ERR_CNT → t.regs.read off' = s.regs.read off') ∧
  (∀ (s : State) who (off : BitVec 41) (wide write : Bool), bootHeld s who = false → aliasNo off.toNat = none →
    accessStopped s who off.toNat wide = true → ∃ t, exec (.accessTimeout who off wide write) s = .next t ∧
    t = { s with out := [⟨some who, .timeout⟩], regs := t.regs } ∧
    rd t Fld.CKR_XSTAT_ACCESS_TIMEOUT = 1 ∧ rd t Fld.CKR_XSTAT_OFFSET = off.toNat % 2 ^ 27 ∧ rd t Fld.CKR_XSTAT_SRC = srcCode who ∧
    rd t Fld.CKR_EVENT_XSTAT = 1 ∧
    ∀ off', off' ≠ Reg.CKR_XSTAT → off' ≠ Reg.CKR_EVENT → t.regs.read off' = s.regs.read off')

/-- Reading the low half of a pair under R4 copies the high half into the shadow, and a read of the high half returns the shadow.
Reading HUB_MMIO_ERR_CNT returns its count and clears it. A write takes the bits of an RW field (HUB_ZFILL_BASE_LO), clears the
W1C bits of THM_EVENT that are written 1 and leaves the others, and leaves the RO fields of HUB_ID. A MCTP access does what the
same access by the management port does; outside a secured session a SEALED part counts a write as an authentication failure and
leaves every register else alone. (Each access is one that no boot, STANDBY or eclipse holds back.) -/
def Obligations.RegisterAccessCodes : Prop :=
  (∀ (s : State) who, bootHeld s who = false → s.pwr.standby = false →
    exec (.readLoSnapshot who (BitVec.ofNat 41 Reg.MER_SET_LO) false) s = .next { s with
      out := [⟨some who, .value (BitVec.ofNat 64 (rd s Fld.MER_SET_LO_COUNT))⟩]
      shadow := KMap.set (fun _ => 0#32) s.shadow Reg.MER_SET_LO (s.regs.read Reg.MER_SET_HI) } ∧
    exec (.readClear who (BitVec.ofNat 41 Reg.MER_SET_HI) false false) s = .next { s with
      out := [⟨some who, .value ((KMap.get (fun _ => 0#32) s.shadow Reg.MER_SET_LO).setWidth 64)⟩] } ∧
    (∃ t, exec (.readClear who (BitVec.ofNat 41 Reg.HUB_MMIO_ERR_CNT) false false) s = .next t ∧
      t = { s with out := [⟨some who, .value (BitVec.ofNat 64 (rd s Fld.HUB_MMIO_ERR_CNT_COUNT))⟩], regs := t.regs } ∧
      rd t Fld.HUB_MMIO_ERR_CNT_COUNT = 0 ∧ ∀ off, off ≠ Reg.HUB_MMIO_ERR_CNT → t.regs.read off = s.regs.read off)) ∧
  (∀ (s : State) who (v : BitVec 32), hubOpen s who = true →
    (∃ t, exec (.registerWrite who (BitVec.ofNat 41 Reg.HUB_ZFILL_BASE_LO) false (v.setWidth 64)) s = .next t ∧
      t = { s with out := [⟨some who, .done⟩], regs := t.regs, irq := { s.irq with active := t.irq.active } } ∧
      rd t Fld.HUB_ZFILL_BASE_LO_OFFSET = v.toNat ∧ ∀ off, off ≠ Reg.HUB_ZFILL_BASE_LO → t.regs.read off = s.regs.read off) ∧
    (∃ t, exec (.registerWrite who (BitVec.ofNat 41 Reg.THM_EVENT) false (v.setWidth 64)) s = .next t ∧
      t = { s with out := [⟨some who, .done⟩], regs := t.regs, irq := { s.irq with active := t.irq.active } } ∧
      (∀ f ∈ [Fld.THM_EVENT_SUSPECT, Fld.THM_EVENT_FAILED, Fld.THM_EVENT_THROTTLE, Fld.THM_EVENT_READOUT, Fld.THM_EVENT_LIMIT],
        rd t f = if v.getLsbD f.lo then 0 else rd s f) ∧ ∀ off, off ≠ Reg.THM_EVENT → t.regs.read off = s.regs.read off) ∧
    (∃ t, exec (.registerWrite who (BitVec.ofNat 41 Reg.HUB_ID) false (v.setWidth 64)) s = .next t ∧
      t = { s with out := [⟨some who, .done⟩], regs := t.regs, irq := { s.irq with active := t.irq.active } } ∧
      ∀ off, t.regs.read off = s.regs.read off)) ∧
  (∀ (s : State) (secured : Bool) (off : BitVec 32) (v : BitVec 32) (w : BitVec 64),
    (∃ t, exec (.mctpRead32 secured off) s = .next t ∧ exec (.readClear (.mgmt secured) (off.setWidth 41) false false) s = .next t) ∧
    (∃ t, exec (.mctpRead64 secured off) s = .next t ∧ exec (.readClear (.mgmt secured) (off.setWidth 41) true false) s = .next t) ∧
    (∃ t, exec (.mctpWrite32 secured off v) s = .next t ∧
      exec (.registerWrite (.mgmt secured) (off.setWidth 41) false (v.setWidth 64)) s = .next t) ∧
    (∃ t, exec (.mctpWrite64 secured off w) s = .next t ∧ exec (.registerWrite (.mgmt secured) (off.setWidth 41) true w) s = .next t)) ∧
  (∀ (s : State) (off : BitVec 32) (v : BitVec 32) (w : BitVec 64), off.toNat < 0x1000000 → s.pwr.standby = false → s.saf.alarm = false →
    lifeCycle s = 2 → ∀ c ∈ [Instr.mctpWrite32 false off v, .mctpWrite64 false off w], exec c s = .next { s with
      out := []
      regs := s.regs.incSat Fld.SEC_AUTHFAIL_COUNT
      sec := { s.sec with authFails := s.sec.authFails ++ [(s.ns, none)] } })

/-- While logical cluster l moves, ALIAS_ACCESS_RELEASE changes nothing; once it does not, the accesses held at its alias block
leave the hold, and a single one is performed as a new access. FIFO_RESYNC counts each discarded entry: one write is not performed
and changes nothing else, one MMIO read ends with the timeout's result and its record, one window read is answered with poison. -/
def Obligations.HeldAndDroppedAccesses : Prop :=
  (∀ (s : State) (l : Fin 144) remote,
    (moving s l.val = true → exec (.aliasAccessRelease l remote) s = .next { s with out := [] }) ∧
    (moving s l.val = false → s.held.filter (fun h => aliasNo h.off = some l.val) = [] →
      exec (.aliasAccessRelease l remote) s = .next { s with out := [], held := s.held.filter (fun h => aliasNo h.off ≠ some l.val) }) ∧
    (∀ h : HeldMmio, moving s l.val = false → s.held.filter (fun h => aliasNo h.off = some l.val) = [h] →
      exec (.aliasAccessRelease l remote) s = .next
        (let u : State := { s with out := [], held := s.held.filter (fun h => aliasNo h.off ≠ some l.val) }
         if h.write then mmioWrite u h.who h.off h.wide h.value ⟨remote, true, true⟩ else mmioRead u h.who h.off h.wide))) ∧
  (∀ s : State, ∃ t, exec (.fifoResync [.write]) s = .next t ∧ t = { s with out := [], regs := t.regs } ∧
    rd t Fld.CKR_FIFO_DROP_COUNT = Nat.min (rd s Fld.CKR_FIFO_DROP_COUNT + 1) (2 ^ 32 - 1) ∧ rd t Fld.CKR_EVENT_FIFO_DROP = 1) ∧
  (∀ (s : State) who (off : BitVec 27) (wide : Bool), ∃ t, exec (.fifoResync [.mmioRead who off wide]) s = .next t ∧
    t = { s with out := [⟨some who, .timeout⟩], regs := t.regs } ∧
    rd t Fld.CKR_FIFO_DROP_COUNT = Nat.min (rd s Fld.CKR_FIFO_DROP_COUNT + 1) (2 ^ 32 - 1) ∧ rd t Fld.CKR_EVENT_FIFO_DROP = 1 ∧
    rd t Fld.CKR_XSTAT_ACCESS_TIMEOUT = 1 ∧ rd t Fld.CKR_XSTAT_OFFSET = off.toNat ∧ rd t Fld.CKR_XSTAT_SRC = srcCode who) ∧
  (∀ (s : State) who, ∃ t bytes, exec (.fifoResync [.windowRead who]) s = .next t ∧
    t = { s with out := [⟨some who, .data bytes true⟩], regs := t.regs, fresh := s.fresh + 1 } ∧ bytes.length = 64 ∧
    rd t Fld.CKR_FIFO_DROP_COUNT = Nat.min (rd s Fld.CKR_FIFO_DROP_COUNT + 1) (2 ^ 32 - 1) ∧ rd t Fld.CKR_EVENT_FIFO_DROP = 1)

/-- A requester with no right to IMG_CTRL only sets REF_DENIED. START while a load runs sets REF_BUSY; else it puts the load in
verify at position 0, or ends it at once for a reserved source kind. ABORT before the switch ends a load that has moved nothing as
ABORTED with its code and END, every loop free to run again, and makes one that has moved granules move them back first. An image
that cannot be fetched ends the load with the fetch error; one that can is refused or taken into prepare (just when R37 finds no
failure and no step runs under a full load), the structure in force unchanged. RELEASE ends the load as done with the whole
progress. -/
def Obligations.ImageLoadStartAndEnd : Prop :=
  (∀ (s : State) who (kind : BitVec 2), hubOpen s who = true →
    (mayImage who = false → ∀ c ∈ [Instr.imgStart who kind, .imgAbort who kind],
      exec c s = .next { s with out := [⟨some who, .done⟩], regs := s.regs.setF Fld.IMG_STATUS_REF_DENIED 1 }) ∧
    (mayImage who = true → s.load.running = true → exec (.imgStart who kind) s = .next { s with
      out := [⟨some who, .done⟩]
      regs := (s.regs.setF Fld.IMG_CTRL_SRC_KIND kind.toNat).setF Fld.IMG_STATUS_REF_BUSY 1 }) ∧
    (mayImage who = true → s.load.running = false → kind.toNat < 2 → ∃ t, exec (.imgStart who kind) s = .next t ∧
      t = { s with out := [⟨some who, .done⟩], regs := t.regs, load := { Load.idle with running := true, srcKind := kind.toNat } } ∧
      rd t Fld.IMG_STATUS_STATE = 1 ∧ rd t Fld.IMG_LOAD_PCT_PCT = 0 ∧ rd64 t Fld.IMG_LOAD_POS_LO_POS Fld.IMG_LOAD_POS_HI_POS = 0 ∧
      ∀ off, off ∉ [Reg.IMG_CTRL, Reg.IMG_STATUS, Reg.IMG_LOAD_POS_LO, Reg.IMG_LOAD_POS_HI, Reg.IMG_LOAD_PCT] →
        t.regs.read off = s.regs.read off) ∧
    (mayImage who = true → s.load.running = false → 2 ≤ kind.toNat → ∃ t, exec (.imgStart who kind) s = .next t ∧
      rd t Fld.IMG_STATUS_STATE = 6 ∧ rd t Fld.IMG_ERR_CODE = 3 ∧ rd t Fld.IMG_STATUS_END = 1 ∧ t.load = .idle ∧ t.img = s.img ∧ t.mem = s.mem) ∧
    (mayImage who = true → s.load.running = true → imgState s ≤ 2 → s.load.backing = none → s.load.moved = [] → s.load.hold = none → ∃ t,
      exec (.imgAbort who kind) s = .next t ∧
      t = { s with out := t.out, regs := t.regs, stk := t.stk, load := .idle, seq := t.seq } ∧
      rd t Fld.IMG_STATUS_STATE = 6 ∧ rd t Fld.IMG_ERR_CODE = 0x14 ∧ rd t Fld.IMG_STATUS_END = 1 ∧
      t.seq = { s.seq with loops := s.seq.loops.map (fun e => (e.1, { e.2 with barred := false })) }) ∧
    (mayImage who = true → s.load.running = true → imgState s ≤ 2 → s.load.backing = none → s.load.moved ≠ [] → exec (.imgAbort who kind) s =
      .next { s with
        out := [⟨some who, .done⟩]
        regs := s.regs.setF Fld.IMG_CTRL_SRC_KIND kind.toNat
        load := { s.load with backing := some 0x14 } })) ∧
  (∀ (s : State) fetched, s.load.running = true → imgState s = 1 → imgSource (quiet s) fetched = none → ∃ t,
    exec (.imgVerifyEnd fetched) s = .next t ∧ t = { s with out := t.out, regs := t.regs, load := .idle, seq := t.seq } ∧
    rd t Fld.IMG_STATUS_STATE = 6 ∧ rd t Fld.IMG_ERR_CODE = 3 ∧ rd t Fld.IMG_STATUS_END = 1) ∧
  (∀ (s : State) fetched b, s.load.running = true → imgState s = 1 → imgSource (quiet s) fetched = some b → ∃ t,
    exec (.imgVerifyEnd fetched) s = .next t ∧
    (verifyFailure s b ≠ none ∨ (imgHeader b).scope = 0 ∧ s.seq.loops.any (fun e => !e.2.steps.isEmpty) →
      t = { s with out := t.out, regs := t.regs, load := .idle, seq := t.seq, sec := t.sec } ∧
      rd t Fld.IMG_STATUS_STATE = 6 ∧ rd t Fld.IMG_STATUS_END = 1) ∧
    (verifyFailure s b = none ∧ (imgHeader b).scope ≠ 2 ∧ ¬((imgHeader b).scope = 0 ∧ s.seq.loops.any (fun e => !e.2.steps.isEmpty)) →
      t = { s with out := [], regs := t.regs, load := t.load, seq := t.seq } ∧ rd t Fld.IMG_STATUS_STATE = 2 ∧
      rd t Fld.IMG_STATUS_SCOPE = (imgHeader b).scope ∧ t.load.running = true ∧ t.load.bytes = b ∧ t.load.next = nextImage s b)) ∧
  (∀ s : State, s.load.running = true → 3 ≤ imgState s → s.load.scope ≠ 2 → ∃ t, exec .imgReleaseEnd s = .next t ∧
    t = { s with out := t.out, regs := t.regs, load := .idle, seq := t.seq } ∧
    rd t Fld.IMG_STATUS_STATE = 5 ∧ rd t Fld.IMG_ERR_CODE = 0 ∧ rd t Fld.IMG_STATUS_END = 1 ∧ rd t Fld.IMG_LOAD_PCT_PCT = 1000 ∧
    t.seq = { s.seq with loops := s.seq.loops.map (fun e => (e.1, { e.2 with barred := false })) })

/-- While prepare is not over, the switch changes nothing; a full load whose map names a cluster claimed by a retirement fails at
it. Else the structure in force becomes that of the image laid over the old one (of a stack-scope load all but the mode mask, the
dies that enter clearing their maps first), with the image's generation in IMG_GEN. A granule moves only while a stack-scope load
prepares: one that need not move, or has moved, changes nothing; the one in the holding buffer is written to its place under the
new hash, or going back under the old one, and the load that goes back ends with its code when none is left. Accesses held for a
granule are performed once nothing holds them. -/
def Obligations.ImageSwitchAndGranuleMoves : Prop :=
  (∀ s : State, switchReady (quiet s) = false → exec .imgSwitch s = .next { s with out := [] }) ∧
  (∀ s : State, switchReady (quiet s) = true → s.load.scope = 0 → (∃ c ∈ s.load.claimed, c ∈ s.load.next.lmap) → ∃ t, exec .imgSwitch s = .next t ∧
    t = { s with out := t.out, regs := t.regs, load := .idle, seq := t.seq } ∧ rd t Fld.IMG_STATUS_STATE = 6 ∧ rd t Fld.IMG_ERR_CODE = 0x11) ∧
  (∀ s : State, switchReady (quiet s) = true → (imgHeader s.load.bytes).scope = s.load.scope →
    (s.load.scope = 0 → ∀ c ∈ s.load.claimed, c ∉ s.load.next.lmap) → (s.load.scope = 1 → liveRemoved (quiet s) = none) → ∃ t,
    exec .imgSwitch s = .next t ∧
    (s.load.scope ≠ 2 → t.img = nextImage s s.load.bytes) ∧
    (s.load.scope = 2 → t.img = { nextImage s s.load.bytes with
      pmask := KMap.set (fun _ => 0) (nextImage s s.load.bytes).pmask (imgHeader s.load.bytes).target (pmask s.img (imgHeader s.load.bytes).target) }) ∧
    rd64 t Fld.IMG_GEN_LO_GEN Fld.IMG_GEN_HI_GEN = (imgHeader s.load.bytes).gen ∧
    rd t Fld.IMG_STATUS_STATE = (if s.load.scope = 3 then 3 else 4) ∧ t.load.moved = [] ∧ t.load.units = []) ∧
  (∀ (s : State) (g : BitVec 33) ecc, migrating s = false ∨ s.load.backing ≠ none ∨
    (s.load.hold = none ∧ (mustMove (quiet s) g.toNat = false ∨ g.toNat ∈ s.load.moved)) →
    exec (.imgGranuleMove g ecc) s = .next { s with out := [] }) ∧
  (∀ (s : State) (g : BitVec 33) ecc, migrating s = true → s.load.backing = none → s.load.hold = none → mustMove (quiet s) g.toNat = true →
    g.toNat ∉ s.load.moved → granuleBlocked (quiet s) g.toNat = false →
    (hashKey s.load.next.hash (g.toNat * 256)).any (takesGranule (quiet s)) = true → ∃ t, exec (.imgGranuleMove g ecc) s = .next t ∧
    (g.toNat ∈ t.load.moved ∨ ∃ h, t.load.hold = some h ∧ h.g = g.toNat)) ∧
  (∀ (s : State) (g : BitVec 33) ecc h key, migrating s = true → s.load.backing = none → s.load.hold = some h → h.g = g.toNat →
    Memory.formOk s.mem = true →
    hashKey s.load.next.hash (g.toNat * 256) = some key → unhash s.img.hash key = none → takesGranule (quiet s) key = true → ∃ t,
    exec (.imgGranuleMove g ecc) s = .next t ∧
    t = { s with out := [], regs := t.regs, fresh := s.fresh + 1, mem := t.mem, load := { s.load with moved := KSet.add s.load.moved g.toNat, hold := none } } ∧
    ∀ i < 4, lineView t.mem (key / 64 + i) = (lineOf ((h.bytes.drop (64 * i)).take 64), h.poison.getD i false)) ∧
  (∀ (s : State) (g : BitVec 33), s.load.backing = none → exec (.imgGranuleMoveBack g) s = .next { s with out := [] }) ∧
  (∀ (s : State) (g : BitVec 33) h key code, s.load.backing = some code → s.load.moved = [] → s.load.hold = some h → h.g = g.toNat → code < 256 →
    Memory.formOk s.mem = true →
    hashKey s.img.hash (g.toNat * 256) = some key → unhash s.load.next.hash key = none → takesGranule (quiet s) key = true → ∃ t,
    exec (.imgGranuleMoveBack g) s = .next t ∧ t = { s with out := t.out, regs := t.regs, mem := t.mem, load := .idle, stk := t.stk, seq := t.seq } ∧
    rd t Fld.IMG_STATUS_STATE = 6 ∧ rd t Fld.IMG_ERR_CODE = code ∧
    ∀ i < 4, lineView t.mem (key / 64 + i) = (lineOf ((h.bytes.drop (64 * i)).take 64), h.poison.getD i false)) ∧
  (∀ s : State, nextFree (quiet s) = none → exec .heldGranuleAccess s = .next { s with out := [] }) ∧
  (∀ (s : State) (w : Waiting) who, s.mem.waiting = [w] → w.kind = .lineRead → w.origin = .hub who → lineBlocked s w.addr = false →
    holdBlocks (quiet s) w.addr w.kind = false → ∃ t, exec .heldGranuleAccess s = .next t ∧ t.mem.waiting = [] ∧
    t.out = [⟨some who, .data (lineBytes (peekLine s (w.addr / 64 * 64)).1) (peekLine s (w.addr / 64 * 64)).2⟩])

/-- For every memory command (line read and write, partial store, meteor read and write, window access, atomic, reduction
contribution and cancel) at an address of this part: a space that does not exist, an address that does not suit the access, an
offset beyond the hashed space or outside every window, and a line of another tenant each answer their error (Unsupported Request
at a host), with no other effect. A store, meteor write or atomic to a line with an open reduction is answered as busy, with no
other effect. An access to a line that is held waits, and nothing else of the memory changes. -/
def Obligations.MemoryAccessErrors : Prop :=
  (∀ (s : State) who (a : GAddr) (d : BitVec 512) (bs : List Byte) (h : BitVec 256) op wide x y (q : Contribution) kind p ecc, isLocal s a = true →
    ∀ r ∈ [(Instr.lineRead who a ecc, AccessKind.lineRead), (.lineWrite who a d p, .lineWrite d p), (.partialStore who a bs p ecc, .partialStore bs p),
      (.meteorRead who a ecc, .meteorRead), (.meteorWrite who a h p, .meteorWrite h p), (.atomicOp who a op wide x y ecc, .atomic op wide x y false),
      (.redContribution who a q, .contribute q), (.reduceCancel who a, .reduceCancel), (.windowAccess who a kind ecc, kind)],
    (spaceOf a ≠ 0 → spaceOf a ≠ 2 → spaceOf a ≠ 4 → exec r.1 s = .next { s with out := errorTo who (.addressError 1) }) ∧
    (spaceOf a = 0 → accessFits (offOf a) r.2 = false → exec r.1 s = .next { s with out := errorTo who (.addressError 2) }) ∧
    (spaceOf a = 0 → accessFits (offOf a) r.2 = true → hashSize s.img.hash ≤ offOf a →
      exec r.1 s = .next { s with out := errorTo who (.addressError 3) }) ∧
    (spaceOf a = 0 → accessFits (offOf a) r.2 = true → offOf a < hashSize s.img.hash → (∃ t, tenantOf s who = some t ∧ unitTenant s (offOf a) ≠ some t) →
      exec r.1 s = .next { s with out := errorTo who .tenantError }) ∧
    (spaceOf a = 0 → accessFits (offOf a) r.2 = true → offOf a < hashSize s.img.hash → tenantOf s who = none →
      (lineHeld s (offOf a) = true ∨ holdBlocks s (offOf a) r.2 = true) → ∃ t, exec r.1 s = .next t ∧
      t = { s with out := t.out, mem := { s.mem with waiting := s.mem.waiting ++ [⟨.hub who, who, offOf a, r.2⟩] } } ∧ ⟨some who, .held⟩ ∈ t.out) ∧
    (spaceOf a = 2 → windowOf s (offOf a) = none → exec r.1 s = .next { s with out := errorTo who (.addressError 3) })) ∧
  (∀ (s : State) who (a : GAddr) (d : BitVec 512) (bs : List Byte) (h : BitVec 256) op wide x y p ecc,
    ∀ r ∈ [(Instr.lineWrite who a d p, AccessKind.lineWrite d p), (.partialStore who a bs p ecc, .partialStore bs p),
      (.meteorWrite who a h p, .meteorWrite h p), (.atomicOp who a op wide x y ecc, .atomic op wide x y false)],
    hashedOpen s who a r.2 = true → lineFree s 0 (offOf a) = false → exec r.1 s = .next { s with out := [⟨some who, .reduceBusy⟩] })

/-- An access that meets no error and is not held completes. LINE_READ and METEOR_READ answer the 64 or 32 bytes as the machine
reads them, with their poison; a check that fails uncorrectably poisons the line, whose data is then not stated. LINE_WRITE,
PARTIAL_STORE and METEOR_WRITE store their bytes and answer done; ATOMIC_OP answers the old value and stores the new one of Table
4.11, or nothing where the line is poisoned. Every other byte of hashed space (of a line so poisoned, every byte outside it) reads
as before, and nothing but memory, the error records and the migration's list of written units changes. The byte frame is stated
for memory in its form (an invariant), for a line the slice holds or has an invalid way for, and for lines outside mirrored
regions; of a mirrored line, both copies that the slices hold take the data. -/
def Obligations.HashedReadsAndStores : Prop :=
  (∀ (s : State) who (a : GAddr) ecc, s.mem.formOk = true →
    (let die := homeDie s (offOf a)
     let kept := (cached s.mem die (offOf a)).isSome = true ∨ (lineNo s (offOf a)).any (fun n => s.mem.written.contains (unitOfLine n)) = true
     let reads (t : State) (b : List Byte) (p : Bool) : Prop :=
       t = { s with out := [⟨some who, .data b p⟩], regs := t.regs, mem := t.mem, ras := t.ras } ∧
       (ecc = .clean → p = (peekLine s (offOf a)).2) ∧ (ecc = .uncorrectable → kept → p = true) ∧
       (∀ o, ecc ≠ .uncorrectable ∨ o / 64 ≠ offOf a / 64 → peekByte t o = peekByte s o)
     (hashedOpen s who a .lineRead = true → wayReady s (offOf a) = true → ∃ t b p, exec (.lineRead who a ecc) s = .next t ∧ reads t b p ∧
       (ecc ≠ .uncorrectable → b = lineBytes (peekLine s (offOf a)).1)) ∧
     (hashedOpen s who a .meteorRead = true → lineNo s (offOf a) ≠ none → ∃ t b p, exec (.meteorRead who a ecc) s = .next t ∧ reads t b p ∧
       (ecc ≠ .uncorrectable → b = ((lineBytes (peekLine s (offOf a)).1).drop (offOf a % 64)).take 32)))) ∧
  (∀ (s : State) who (a : GAddr), s.mem.formOk = true → lineFree s 0 (offOf a) = true → mirrorOf s (offOf a / 64 * 64) = none →
    (∀ d p, hashedOpen s who a (.lineWrite d p) = true → wayReady s (offOf a) = true → ∃ t, exec (.lineWrite who a d p) s = .next t ∧
      t = { s with out := [⟨some who, .done⟩], mem := t.mem, load := t.load } ∧ peekLine t (offOf a) = (d, p) ∧
      ∀ o, o / 64 ≠ offOf a / 64 → peekByte t o = peekByte s o) ∧
    (∀ bs p ecc, hashedOpen s who a (.partialStore bs p) = true → wayReady s (offOf a) = true → ∃ t, exec (.partialStore who a bs p ecc) s = .next t ∧
      t = { s with out := [⟨some who, .done⟩], regs := t.regs, mem := t.mem, load := t.load, ras := t.ras } ∧
      (ecc = .clean → (peekLine t (offOf a)).2 = ((peekLine s (offOf a)).2 || p)) ∧
      (∀ o, offOf a ≤ o → o < offOf a + bs.length → peekByte t o = bs.getD (o - offOf a) 0#8) ∧
      ∀ o, (o < offOf a ∨ offOf a + bs.length ≤ o) → (ecc ≠ .uncorrectable ∨ o / 64 ≠ offOf a / 64) → peekByte t o = peekByte s o) ∧
    (∀ op wide x y ecc, hashedOpen s who a (.atomic op wide x y false) = true → wayReady s (offOf a) = true →
      (peekLine s (offOf a / 64 * 64)).2 = false → ecc = .clean → ∃ t, exec (.atomicOp who a op wide x y ecc) s = .next t ∧
      (let old := fieldOf (lineBytes (peekLine s (offOf a / 64 * 64)).1) (offOf a % 64) (atomicSize wide)
       t = { s with out := [⟨some who, .data (natLe (atomicSize wide) old) false⟩], mem := t.mem, load := t.load } ∧
       ∀ o, peekByte t o = if offOf a ≤ o ∧ o < offOf a + atomicSize wide then
         (natLe (atomicSize wide) (atomicNew op wide old x.toNat y.toNat)).getD (o - offOf a) 0#8 else peekByte s o))) ∧
  (∀ (s : State) who (a : GAddr) d p, s.mem.formOk = true → lineFree s 0 (offOf a) = true → mirrorOf s (offOf a) = none →
    hashedOpen s who a (.meteorWrite d p) = true → lineNo s (offOf a) ≠ none → ∃ t, exec (.meteorWrite who a d p) s = .next t ∧
    t = { s with out := [⟨some who, .done⟩], mem := t.mem, load := t.load } ∧
    ∀ o, peekByte t o = if offOf a ≤ o ∧ o < offOf a + 32 then (natLe 32 d.toNat).getD (o - offOf a) 0#8 else peekByte s o) ∧
  (∀ (s : State) who (a : GAddr) d p o, lineFree s 0 (offOf a) = true → mirrorOf s (offOf a / 64 * 64) = some o → o / 64 ≠ offOf a / 64 →
    (cached s.mem (homeDie s (offOf a)) (offOf a)).isSome = true → (cached s.mem (homeDie s o) o).isSome = true →
    hashedOpen s who a (.lineWrite d p) = true → ∃ t, exec (.lineWrite who a d p) s = .next t ∧
    t = { s with out := [⟨some who, .done⟩], mem := t.mem, load := t.load } ∧ peekLine t (offOf a) = (d, p) ∧ peekLine t o = (d, p)) ∧
  (∀ (s : State) who (a : GAddr) op wide x y, hashedOpen s who a (.atomic op wide x y false) = true → lineFree s 0 (offOf a) = true →
    (cached s.mem (homeDie s (offOf a)) (offOf a)).isSome = true → (peekLine s (offOf a / 64 * 64)).2 = true → ∃ t,
    exec (.atomicOp who a op wide x y .clean) s = .next t ∧ t = { s with out := t.out, regs := t.regs, mem := t.mem } ∧
    t.out = [⟨some who, .data (natLe (atomicSize wide) (fieldOf (lineBytes (peekLine s (offOf a / 64 * 64)).1) (offOf a % 64) (atomicSize wide))) true⟩] ∧
    ∀ o, peekByte t o = peekByte s o)

/-- A window access that meets no error reaches the scratchpad of the cluster its address names. Reads answer the bytes with their
poison (clean reads of the checker); stores write their bytes and answer done; an atomic answers the old value and stores the new
one of Table 4.11. No byte of any scratchpad outside the bytes stored changes, nor anything else. An access to a cluster in DUSK
or NIGHT stores nothing and times out, a read returning all ones. -/
def Obligations.WindowAccesses : Prop :=
  (∀ (s : State) who (a : GAddr) c x,
    (scratchOpen s who a .lineRead c x = true → spadPoisoned s.mem c x 64 = false → exec (.windowAccess who a .lineRead .clean) s = .next { s with
      out := [⟨some who, .data (spadBytes s.mem c x 64) false⟩] }) ∧
    (scratchOpen s who a .meteorRead c x = true → spadPoisoned s.mem c x 32 = false → exec (.windowAccess who a .meteorRead .clean) s = .next { s with
      out := [⟨some who, .data (spadBytes s.mem c x 32) false⟩] }) ∧
    (scratchOpen s who a .lineRead c x = true → spadPoisoned s.mem c x 64 = true → ∃ t, exec (.windowAccess who a .lineRead .clean) s = .next t ∧
      t = { s with out := [⟨some who, .data (spadBytes s.mem c x 64) true⟩], regs := t.regs }) ∧
    (∀ d p, scratchOpen s who a (.lineWrite d p) c x = true → padFree s a = true → ∃ t,
      exec (.windowAccess who a (.lineWrite d p) .clean) s = .next t ∧
      t = { s with out := [⟨some who, .done⟩], mem := { s.mem with spad := t.mem.spad, spadPoison := t.mem.spadPoison } } ∧
      spadPoisoned t.mem c x 64 = p ∧ ∀ k, KMap.get (fun _ => 0#8) t.mem.spad k =
        if c * 2 ^ 22 + x ≤ k ∧ k < c * 2 ^ 22 + x + 64 then (lineBytes d).getD (k - (c * 2 ^ 22 + x)) 0#8 else KMap.get (fun _ => 0#8) s.mem.spad k) ∧
    (∀ bs p, scratchOpen s who a (.partialStore bs p) c x = true → padFree s a = true → ∃ t,
      exec (.windowAccess who a (.partialStore bs p) .clean) s = .next t ∧
      t = { s with out := [⟨some who, .done⟩], mem := { s.mem with spad := t.mem.spad, spadPoison := t.mem.spadPoison } } ∧
      ∀ k, KMap.get (fun _ => 0#8) t.mem.spad k =
        if c * 2 ^ 22 + x ≤ k ∧ k < c * 2 ^ 22 + x + bs.length then bs.getD (k - (c * 2 ^ 22 + x)) 0#8 else KMap.get (fun _ => 0#8) s.mem.spad k) ∧
    (∀ d p, scratchOpen s who a (.meteorWrite d p) c x = true → padFree s a = true → ∃ t,
      exec (.windowAccess who a (.meteorWrite d p) .clean) s = .next t ∧
      t = { s with out := [⟨some who, .done⟩], mem := { s.mem with spad := t.mem.spad, spadPoison := t.mem.spadPoison } } ∧
      ∀ k, KMap.get (fun _ => 0#8) t.mem.spad k =
        if c * 2 ^ 22 + x ≤ k ∧ k < c * 2 ^ 22 + x + 32 then (natLe 32 d.toNat).getD (k - (c * 2 ^ 22 + x)) 0#8
        else KMap.get (fun _ => 0#8) s.mem.spad k) ∧
    (∀ op wide y z, scratchOpen s who a (.atomic op wide y z false) c x = true → padFree s a = true →
      spadPoisoned s.mem c x (atomicSize wide) = false → ∃ t, exec (.windowAccess who a (.atomic op wide y z false) .clean) s = .next t ∧
      (let old := leNat (spadBytes s.mem c x (atomicSize wide))
       t = { s with
         out := [⟨some who, .data (natLe (atomicSize wide) old) false⟩]
         mem := { s.mem with spad := t.mem.spad, spadPoison := t.mem.spadPoison } } ∧
       ∀ k, KMap.get (fun _ => 0#8) t.mem.spad k = if c * 2 ^ 22 + x ≤ k ∧ k < c * 2 ^ 22 + x + atomicSize wide then
         (natLe (atomicSize wide) (atomicNew op wide old y.toNat z.toNat)).getD (k - (c * 2 ^ 22 + x)) 0#8
         else KMap.get (fun _ => 0#8) s.mem.spad k))) ∧
  (∀ (s : State) who (a : GAddr) kind ecc c x, isLocal s a = true → spaceOf a = 2 → windowOf s (offOf a) = some (c, x) →
    accessFits (offOf a) kind = true → tenantOf s who = none → clusterOff s c = true →
    exec (.windowAccess who a kind ecc) s = .next { s with out := [⟨some who,
      match kind with
      | .lineRead => .data (List.replicate 64 0xFF#8) false
      | .meteorRead => .data (List.replicate 32 0xFF#8) false
      | .atomic _ wide _ _ _ => .data (List.replicate (if wide then 8 else 4) 0xFF#8) false
      | _ => .timeout⟩] })

/-- A contribution of index 0 of several to a line with no open reduction opens one holding it; one of a later index parks. A
contribution alone in its reduction writes its data to the line at once. Against an open reduction, a different count, format,
mode or completion address, an index beyond the count, and an index already contributed each answer their error and change
nothing. With 256 open reductions in the slice a first contribution is answered RETRY and kept to be resent; RED_RETRY_RESEND
offers the oldest again as a new contribution, and with none kept changes nothing. REDUCE_CANCEL drops the line's reduction and
nothing else. -/
def Obligations.IndexedReductions : Prop :=
  (∀ (s : State) who (a : GAddr) (q : Contribution), hashedOpen s who a (.contribute q) = true → lineFree s 0 (offOf a) = true →
    (let slice := homeDie s (offOf a) * 16 + sliceOf (offOf a)
     let open_ : OpenReduction := ⟨slice, localAddr s 0 (offOf a), q.format, q.count.toNat, q.accum, q.completion, 0, [], []⟩
     (q.index = 0 → 2 ≤ q.count.toNat → slicesUsed s slice < 256 → exec (.redContribution who a q) s = .next { s with
       out := [⟨some who, .done⟩]
       mem := { s.mem with reductions := s.mem.reductions ++ [{ open_ with next := 1, stack := [⟨1, q.data, q.poison⟩] }] } }) ∧
     (0 < q.index.toNat → q.index.toNat < q.count.toNat → slicesUsed s slice < 256 → parkedUsed s slice < 64 →
       exec (.redContribution who a q) s = .next { s with
         out := [⟨some who, .done⟩]
         mem := { s.mem with reductions := s.mem.reductions ++ [{ open_ with parked := [(q.index.toNat, ⟨1, q.data, q.poison⟩)] }] } }) ∧
     (q.index = 0 → q.count = 1 → q.accum = false → q.completion = none → slicesUsed s slice < 256 → wayReady s (offOf a) = true →
       mirrorOf s (offOf a) = none → ∃ t, exec (.redContribution who a q) s = .next t ∧
       t = { s with out := [⟨some who, .done⟩], mem := t.mem, load := t.load } ∧ peekLine t (offOf a) = (q.data, q.poison) ∧
       (s.mem.formOk = true → ∀ o, o / 64 ≠ offOf a / 64 → peekByte t o = peekByte s o)) ∧
     (q.count.toNat ≤ q.index.toNat → exec (.redContribution who a q) s = .next { s with out := [⟨some who, .reduceIndex⟩] }) ∧
     (q.index.toNat < q.count.toNat → 256 ≤ slicesUsed s slice → exec (.redContribution who a q) s = .next { s with
       out := [⟨some who, .retry⟩]
       mem := { s.mem with retries := s.mem.retries ++ [⟨.hub who, who, a.toNat, .contribute q⟩] } }))) ∧
  (∀ (s : State) who (a : GAddr) (q : Contribution) r, hashedOpen s who a (.contribute q) = true →
    s.mem.reductions.find? (fun r => r.addr = localAddr s 0 (offOf a)) = some r →
    (r.count ≠ q.count.toNat ∨ r.format ≠ q.format ∨ r.accum ≠ q.accum ∨ r.completion ≠ q.completion →
      exec (.redContribution who a q) s = .next { s with out := [⟨some who, .reduceMismatch⟩] }) ∧
    (r.count = q.count.toNat → r.format = q.format → r.accum = q.accum → r.completion = q.completion →
      (r.count ≤ q.index.toNat → exec (.redContribution who a q) s = .next { s with out := [⟨some who, .reduceIndex⟩] }) ∧
      (q.index.toNat < r.count → q.index.toNat < r.next →
        exec (.redContribution who a q) s = .next { s with out := [⟨some who, .reduceDup⟩] }))) ∧
  (∀ s : State, s.mem.retries = [] → exec .redRetryResend s = .next { s with out := [] }) ∧
  (∀ (s : State) w rest who q, s.mem.retries = w :: rest → w.origin = .hub who → w.who = who → w.kind = .contribute q → ∃ t,
    exec .redRetryResend s = .next t ∧
    exec (.redContribution who (BitVec.ofNat 64 w.addr) q) { s with mem := { s.mem with retries := rest } } = .next t) ∧
  (∀ (s : State) who (a : GAddr), hashedOpen s who a .reduceCancel = true → exec (.reduceCancel who a) s = .next { s with
    out := [⟨some who, .done⟩]
    mem := { s.mem with reductions := s.mem.reductions.filter (fun r => r.addr ≠ localAddr s 0 (offOf a)) } })

/-- HASH_PROBE starts a lookup of its offset; its end writes HUB_HASH_RESULT with the location's fields and answers the readers
held. ZFILL_START is refused with ERR 3 while a fill runs, ends at once with ERR 1 on a range that is not whole granules of every
channel, with ERR 2 beyond the hashed space, and as done when it is empty; else the fill runs. ABORT ends a running fill with ERR
4. A granule cleared leaves the written map, so that its lines read 0, and no other unit does; the last one ends the fill. A
background-fill line changes nothing that a read returns. METEOR_RMW performs the oldest accepted write of the channel: its line
then reads with the bytes merged in. -/
def Obligations.ProbeAndZeroFill : Prop :=
  (∀ (s : State) who (off : BitVec 41), hubOpen s who = true → ∃ t, exec (.hashProbe who off) s = .next t ∧
    t = { s with out := [⟨some who, .done⟩], regs := t.regs, probe := some off.toNat, irq := { s.irq with active := t.irq.active } } ∧
    rd64 t Fld.HUB_HASH_PROBE_LO_OFFSET Fld.HUB_HASH_PROBE_HI_OFFSET = off.toNat) ∧
  (∀ (s : State) off, s.probe = some off → ∃ t, exec .hashLookupDone s = .next t ∧
    t = { s with out := t.out, regs := t.regs, probe := none, probeHeld := [] } ∧ t.out.length = s.probeHeld.length ∧
    (∀ key, hashKey s.img.hash off = some key → key < 2 ^ 41 → rd t Fld.HUB_HASH_RESULT_VALID = 1 ∧ rd t Fld.HUB_HASH_RESULT_STACK = key / 2 ^ 37 % 16 ∧
      rd t Fld.HUB_HASH_RESULT_CHANNEL = key / 2 ^ 31 % 64 ∧ rd t Fld.HUB_HASH_RESULT_PC = key / 2 ^ 8 % 2 ∧
      rd t Fld.HUB_HASH_RESULT_ROW = key / 2 ^ 15 % 2 ^ 16) ∧
    (hashKey s.img.hash off = none → rd t Fld.HUB_HASH_RESULT_VALID = 0)) ∧
  (∀ (s : State) who, hubOpen s who = true → mayImage who = true →
    (s.mem.zfill.isSome = true → exec (.zfillStart who) s = .next { s with out := [⟨some who, .done⟩], regs := s.regs.setF Fld.HUB_ZFILL_STATUS_ERR 3 }) ∧
    (s.mem.zfill = none → ∃ t, exec (.zfillStart who) s = .next t ∧
      t = { s with out := [⟨some who, .done⟩], regs := t.regs, mem := { s.mem with zfill := t.mem.zfill } } ∧
      (let u := s.img.hash.chans.length * 4096
       let beyond := hashSize s.img.hash < zfillBase s + zfillLen s
       (zfillBase s % u ≠ 0 ∨ zfillLen s % u ≠ 0 → rd t Fld.HUB_ZFILL_STATUS_STATE = 3 ∧ rd t Fld.HUB_ZFILL_STATUS_ERR = 1 ∧
         rd t Fld.HUB_ZFILL_STATUS_END = 1 ∧ t.mem.zfill = none) ∧
       (zfillBase s % u = 0 → zfillLen s % u = 0 → beyond → rd t Fld.HUB_ZFILL_STATUS_STATE = 3 ∧ rd t Fld.HUB_ZFILL_STATUS_ERR = 2 ∧
         t.mem.zfill = none) ∧
       (zfillBase s % u = 0 → zfillLen s = 0 → ¬beyond → rd t Fld.HUB_ZFILL_STATUS_STATE = 2 ∧ rd t Fld.HUB_ZFILL_STATUS_ERR = 0 ∧
         rd t Fld.HUB_ZFILL_PCT_PCT = 1000 ∧ t.mem.zfill = none) ∧
       (zfillBase s % u = 0 → zfillLen s % u = 0 → 0 < zfillLen s → ¬beyond → rd t Fld.HUB_ZFILL_STATUS_STATE = 1 ∧
         rd t Fld.HUB_ZFILL_STATUS_ERR = 0 ∧ rd t Fld.HUB_ZFILL_PCT_PCT = 0 ∧
         t.mem.zfill = some ⟨zfillBase s / u, zfillLen s / u, []⟩))) ∧
    (s.mem.zfill.isSome = true → ∃ t, exec (.zfillAbort who) s = .next t ∧
      t = { s with out := [⟨some who, .done⟩], regs := t.regs, mem := { s.mem with zfill := none } } ∧ rd t Fld.HUB_ZFILL_STATUS_STATE = 3 ∧
      rd t Fld.HUB_ZFILL_STATUS_ERR = 4 ∧ rd t Fld.HUB_ZFILL_STATUS_END = 1) ∧
    (s.mem.zfill = none → exec (.zfillAbort who) s = .next { s with out := [⟨some who, .done⟩] })) ∧
  (∀ (s : State) who, hubOpen s who = true → mayImage who = false → ∀ c ∈ [Instr.zfillStart who, .zfillAbort who],
    exec c s = .next { s with out := [⟨some who, .done⟩] }) ∧
  (∀ (s : State) (n : Fin 12) z, s.mem.zfill = some z →
    (let ch := stackChans s n.val
     let i := KMap.get (fun _ => 0) z.cursor n.val
     let u := ch.getD (i % ch.length) 0 * 2 ^ 19 + (z.base + i / ch.length)
     let pos := rd64 s Fld.HUB_ZFILL_POS_LO_POS Fld.HUB_ZFILL_POS_HI_POS + 1
     (z.blocks * ch.length ≤ i → exec (.zfillGranuleClear n) s = .next { s with out := [] }) ∧
     (i < z.blocks * ch.length → ∃ t, exec (.zfillGranuleClear n) s = .next t ∧ t = { s with out := [], regs := t.regs, mem := t.mem } ∧
       t.mem.dram = s.mem.dram ∧ (∀ n, n / 64 = u → lineView t.mem n = (0, false)) ∧ (∀ v, v ≠ u → (v ∈ t.mem.written ↔ v ∈ s.mem.written)) ∧
       (pos = z.blocks * s.img.hash.chans.length → rd t Fld.HUB_ZFILL_STATUS_STATE = 2 ∧ rd t Fld.HUB_ZFILL_STATUS_ERR = 0 ∧ t.mem.zfill = none) ∧
       (pos ≠ z.blocks * s.img.hash.chans.length → t.mem.zfill = some { z with cursor := KMap.set (fun _ => 0) z.cursor n.val (i + 1) })))) ∧
  (∀ (s : State) (ch : Fin 768) (g : BitVec 19) (l : Fin 64), s.mem.formOk = true → ∃ t, exec (.backgroundFillLine ch g l) s = .next t ∧
    t = { s with out := [], mem := t.mem } ∧ (∀ n, lineView t.mem n = lineView s.mem n) ∧
    ∀ f ∈ fillsOf t.mem ch.val, f.unit = ch.val * 2 ^ 19 + g.toNat → bitsOf f.written l.val 1 = 1) ∧
  (∀ (s : State) (ch : Fin 768) ecc, s.mem.waiting = [] →
    (acceptedOf s.mem ch.val = [] → exec (.meteorRmw ch ecc) s = .next { s with out := [] }) ∧
    (∀ w rest, acceptedOf s.mem ch.val = w :: rest → s.mem.formOk = true → stackClosed s (stackOfLine w.line) = false → ecc = .clean →
      ∃ t, exec (.meteorRmw ch ecc) s = .next t ∧ t = { s with out := [], mem := t.mem } ∧
      (lineView t.mem w.line).1 = mergeBytes (lineView s.mem w.line).1 w.low w.bytes ∧
      (∀ n, n ≠ w.line → lineView t.mem n = lineView s.mem n) ∧ acceptedOf t.mem ch.val = rest))

/-- STK_CMD_FORWARD moves the command of the issuer whose turn it is to the channel's queue, unless its entries or payload lines
are full; one that fails the tenant check ends there with status 13. Each command of the stack's opcodes does nothing while
another command heads its bank pair, or something holds it back; one that fails its opcode, its fields or its die's mode leaves
the queue with that status in STK_CMD_ERR (where that was clear), and no memory changes. STK_NOP leaves the queue with no effect;
with a completion asked for, the 32 bytes of its record are stored at CPL_ADDR (here in a scratchpad window). -/
def Obligations.StackCommandQueue : Prop :=
  (∀ (s : State) (n : Fin 12) (ch : Fin 64),
    (nextIssuer (stk s n.val) ch.val = none → exec (.stkCmdForward n ch) s = .next { s with out := [] }) ∧
    (∀ i c rest, nextIssuer (stk s n.val) ch.val = some i →
      takeFirst (fun c : StkCmd => c.chan = ch.val ∧ issuerNo c.issuer = i) (stk s n.val).waiting = some (c, rest) →
      (freeEntries (stk s n.val) ch.val = 0 ∨ freeLines (stk s n.val) ch.val < cmdPlen c → exec (.stkCmdForward n ch) s = .next { s with out := [] }) ∧
      (0 < freeEntries (stk s n.val) ch.val → cmdPlen c ≤ freeLines (stk s n.val) ch.val →
        (fieldStatus s c ≠ 0 ∨ tenantFails s n.val c = false → ∃ t, exec (.stkCmdForward n ch) s = .next t ∧ t = { s with out := [], stk := t.stk } ∧
          (stk t n.val).waiting = rest ∧ (stk t n.val).queue = (stk s n.val).queue ++ [c] ∧ (stk t n.val).units = (stk s n.val).units ∧
          ∀ m, m ≠ n.val → stk t m = stk s m) ∧
        (fieldStatus s c = 0 → tenantFails s n.val c = true → cmdCpl c = false → rd s Fld.STK_CMD_ERR_VALID n.val = 0 → ∃ t,
          exec (.stkCmdForward n ch) s = .next t ∧ t = { s with out := [], regs := t.regs, stk := t.stk, clu := t.clu, kvm := t.kvm } ∧
          (stk t n.val).waiting = rest ∧ rd t Fld.STK_CMD_ERR_STATUS n.val = 13 ∧ rd t Fld.STK_EVENT_CMD_ERR n.val = 1)))) ∧
  (∀ (s : State) (u : PairRef) b (m : BitVec 32) (p : Option (Fin 66)),
    ∀ r ∈ [(Instr.stkNop u, fun op => op = 0 || !stkOpcodes.contains op), (.rowInit u, fun op => decide (op = 1)), (.rowCopy u b, fun op => decide (op = 2)),
      (.rowAnd u b b, fun op => decide (op = 3)), (.rowOr u b b, fun op => decide (op = 4)), (.rowXor u b b, fun op => decide (op = 5)),
      (.rowNot u b, fun op => decide (op = 6)), (.rowRead u m, fun op => decide (op = 8)), (.rowWrite u, fun op => decide (op = 9)),
      (.kvAppend u p, fun op => decide (op = 0x10)), (.qload u, fun op => decide (op = 0x11)), (.attend u p b, fun op => decide (op = 0x12)),
      (.rsetup u, fun op => decide (op = 0x18)), (.rcancel u, fun op => decide (op = 0x19))],
    (headCmd s u.stack.val (pairRefUnit u) = none → exec r.1 s = .next { s with out := [] }) ∧
    (∀ c, headCmd s u.stack.val (pairRefUnit u) = some c →
      (r.2 (cmdOp c) = false ∨ mayStart s u.stack.val c = false → exec r.1 s = .next { s with out := [] }) ∧
      (r.2 (cmdOp c) = true → mayStart s u.stack.val c = true → entryStatus s u.stack.val c ≠ 0 → cmdCpl c = false → ∃ t, exec r.1 s = .next t ∧
        t = { s with out := [], regs := t.regs, stk := t.stk, clu := t.clu, kvm := t.kvm } ∧
        (stk t u.stack.val).queue = dropFirst (stk s u.stack.val).queue c ∧ rd t Fld.STK_EVENT_CMD_ERR u.stack.val = 1 ∧
        (rd s Fld.STK_CMD_ERR_VALID u.stack.val = 0 → rd t Fld.STK_CMD_ERR_STATUS u.stack.val = entryStatus s u.stack.val c ∧
          rd t Fld.STK_CMD_ERR_VALID u.stack.val = 1 ∧ rd t Fld.STK_CMD_ERR_TAG_TAG u.stack.val = cmdTag c)))) ∧
  (∀ (s : State) (u : PairRef) c, headRuns s u c (fun _ => []) = true → cmdOp c = 0 →
    (cmdCpl c = false → ∃ t, exec (.stkNop u) s = .next t ∧ t = { s with out := [], stk := t.stk, clu := t.clu, kvm := t.kvm } ∧
      (stk t u.stack.val).queue = dropFirst (stk s u.stack.val).queue c) ∧
    (∀ l x, cmdCpl c = true → cplAddrOk s c = true → cplAllowed s c = true →
      scratchOpen s c.issuer (cmdCplAddr c) (.meteorWrite (completionRecord c (.plain 0)) c.poison) l x = true → padFree s (cmdCplAddr c) = true →
      ∃ t, exec (.stkNop u) s = .next t ∧ (stk t u.stack.val).queue = dropFirst (stk s u.stack.val).queue c ∧
      t = { s with out := [], stk := t.stk, clu := t.clu, kvm := t.kvm, mem := { s.mem with spad := t.mem.spad, spadPoison := t.mem.spadPoison } } ∧
      spadBytes t.mem l x 32 = natLe 32 (completionRecord c (.plain 0)).toNat))

/-- A row command that runs clean leaves the queue with row C holding its result: ROW_INIT the pattern, ROW_COPY row A, ROW_AND,
ROW_OR and ROW_XOR the operation of rows A and B, ROW_NOT the complement of A, ROW_WRITE the payload. Every other row of the
machine reads as before, and nothing else of memory changes. A source row reported uncorrectable leaves every row as it was, and
is recorded. ROW_READ leaves row A in the row buffer, and at DEST (here in a scratchpad window) its 1,024 bytes. -/
def Obligations.RowCommands : Prop :=
  (∀ (s : State) (u : PairRef) c, headRuns s u c rowTouches = true → siteOk c = true → cmdCpl c = false → c.poison = false →
    (let row (i : Nat) : List Byte := cmdReadRow s u.stack.val c (cmdRow c i)
     ∀ r ∈ [(Instr.rowInit u, 1, patternRow c), (.rowCopy u false, 2, row 0), (.rowAnd u false false, 3, List.zipWith (· &&& ·) (row 0) (row 1)),
       (.rowOr u false false, 4, List.zipWith (· ||| ·) (row 0) (row 1)), (.rowXor u false false, 5, List.zipWith (· ^^^ ·) (row 0) (row 1)),
       (.rowNot u false, 6, (row 0).map (~~~ ·)), (.rowWrite u, 9, cmdPayload c)],
     cmdOp c = r.2.1 → r.2.2.length = 1024 → ∃ t, exec r.1 s = .next t ∧
     t = { s with
       out := []
       regs := t.regs
       stk := t.stk
       clu := t.clu
       kvm := t.kvm
       mem := { s.mem with dram := t.mem.dram, written := t.mem.written, poison := t.mem.poison } } ∧
     (stk t u.stack.val).queue = dropFirst (stk s u.stack.val).queue c ∧
     cmdReadRow t u.stack.val c (cmdRow c 2) = r.2.2 ∧
     ∀ n chan pc bank k, n < 12 → chan < 64 → pc < 2 → bank < 16 → k < 65536 →
       (n, chan, pc, bank, k) ≠ (u.stack.val, c.chan, c.pc, 2 * c.pair + (cmdRow c 2).1, (cmdRow c 2).2) →
       readRow t n chan pc bank k = readRow s n chan pc bank k)) ∧
  (∀ (s : State) (u : PairRef) c, headRuns s u c rowTouches = true → cmdCpl c = false →
    (let a : Nat × Nat := cmdRow c 0
     rowWritten s u.stack.val c.chan c.pc (2 * c.pair + a.1) a.2 = true →
     ∀ r ∈ [(Instr.rowCopy u true, 2), (.rowAnd u true false, 3), (.rowOr u true false, 4), (.rowXor u true false, 5), (.rowNot u true, 6)],
     cmdOp c = r.2 → ∃ t, exec r.1 s = .next t ∧ t = { s with out := [], regs := t.regs, stk := t.stk, clu := t.clu, kvm := t.kvm, ras := t.ras } ∧
     rd t Fld.RAS_EVENT_UE = 1 ∧ (stk t u.stack.val).queue = dropFirst (stk s u.stack.val).queue c)) ∧
  (∀ (s : State) (u : PairRef) c, headRuns s u c rowTouches = true → cmdOp c = 8 → ∃ t, exec (.rowRead u 0) s = .next t ∧
    (stk t u.stack.val).queue = dropFirst (stk s u.stack.val).queue c ∧
    (bankUnit (stk t u.stack.val) (cmdUnit c)).rowBuffer = cmdReadRow s u.stack.val c (cmdRow c 0) ∧
    (∀ l x, cmdCpl c = false → c.poison = false → x % 64 = 0 → x + 1024 ≤ 2 ^ 22 →
      (∀ i < 16, ∀ d p, scratchOpen s c.issuer (BitVec.ofNat 64 (hf c 24 8 + 64 * i)) (.lineWrite d p) l (x + 64 * i) = true ∧
        padFree s (BitVec.ofNat 64 (hf c 24 8 + 64 * i)) = true) →
      spadBytes t.mem l x 1024 = cmdReadRow s u.stack.val c (cmdRow c 0) ∧
      t = { s with
        out := []
        regs := t.regs
        stk := t.stk
        clu := t.clu
        kvm := t.kvm
        mem := { s.mem with spad := t.mem.spad, spadPoison := t.mem.spadPoison } }))

/-- KV_APPEND that runs clean makes the named slot of the page read as the token of its payload, every other slot of the page and
every row it does not name as before. QLOAD fills the query slot it names with its operands and vector, no other; a format or
result attribute that does not fit ends it with status 3. ATTEND without a check holds one block at its unit with a partial of
each loaded query slot over its visible page slots, offered where it carries END, and writes no memory; with a check that fails it
sets CHECKSUM. HELD_FLUSH_RETRY offers the refused entries again; one whose RID is still closed stays held, with the cycle of its
first refusal. -/
def Obligations.AttentionCommands : Prop :=
  (∀ (s : State) (u : PairRef) c g, headRuns s u c appendTouches = true → cmdOp c = 0x10 → siteOk c = true → cmdGeom c = some g →
    c.payload.length = cmdPlen c → c.poison = false → cmdCpl c = false → ∃ t, exec (.kvAppend u none) s = .next t ∧
    t = { s with
      out := []
      regs := t.regs
      stk := t.stk
      clu := t.clu
      kvm := t.kvm
      mem := { s.mem with dram := t.mem.dram, written := t.mem.written, poison := t.mem.poison } } ∧
    slotToken g (fun r => cmdReadRow t u.stack.val c (cmdPageRow c r)) (hf c 19 1) = payloadToken g (cmdPayload c) ∧
    (∀ j < 64, j ≠ hf c 19 1 → slotToken g (fun r => cmdReadRow t u.stack.val c (cmdPageRow c r)) j =
      slotToken g (fun r => cmdReadRow s u.stack.val c (cmdPageRow c r)) j) ∧
    ∀ n chan pc bank k, n < 12 → chan < 64 → pc < 2 → bank < 16 → k < 65536 →
      ¬(n = u.stack.val ∧ chan = c.chan ∧ pc = c.pc ∧
        (bank, k) ∈ (appendRows g (hf c 19 1)).map (fun r => (2 * c.pair + (cmdPageRow c r).1, (cmdPageRow c r).2))) →
      readRow t n chan pc bank k = readRow s n chan pc bank k) ∧
  (∀ (s : State) (u : PairRef) c g, headRuns s u c (fun _ => []) = true → cmdOp c = 0x11 → cmdGeom c = some g → cmdCpl c = false →
    (hf c 20 4 = g.qfmt → resultWordOk (hf c 36 4) = true → resultWordOk (hf c 40 4) = true →
      (∀ h ∈ unitHeld s u.stack.val (cmdUnit c), ∀ p ∈ h.block.recs, p.slot ≠ hf c 16 1) → ∃ t, exec (.qload u) s = .next t ∧
      t = { s with out := [], stk := t.stk, clu := t.clu, kvm := t.kvm } ∧
      qslotOf t u.stack.val (cmdUnit c) (hf c 16 1) = some ⟨hf c 17 1, hf c 20 4, hf c 24 4, hf c 28 4, hf c 32 2, hf c 36 4, hf c 40 4,
        slice (cmdPayload c) 0 g.qBytes, c.poison⟩ ∧
      ∀ v k, (v, k) ≠ (cmdUnit c, hf c 16 1) → qslotOf t u.stack.val v k = qslotOf s u.stack.val v k) ∧
    (hf c 20 4 ≠ g.qfmt ∨ resultWordOk (hf c 36 4) = false ∨ resultWordOk (hf c 40 4) = false → ∃ t, exec (.qload u) s = .next t ∧
      t = { s with out := [], regs := t.regs, stk := t.stk, clu := t.clu, kvm := t.kvm } ∧ rd t Fld.STK_EVENT_CMD_ERR u.stack.val = 1 ∧
      (rd s Fld.STK_CMD_ERR_VALID u.stack.val = 0 → rd t Fld.STK_CMD_ERR_STATUS u.stack.val = 3))) ∧
  (∀ (s : State) (u : PairRef) c g, headRuns s u c (attendTouches s u.stack.val) = true → cmdOp c = 0x12 → cmdGeom c = some g →
    attendStatus s u.stack.val c g = 0 → unitHeld s u.stack.val (cmdUnit c) = [] → c.poison = false → cmdCpl c = false →
    (cmdCheck c = false → ∃ t, exec (.attend u none false) s = .next t ∧
      t = { s with out := [], regs := t.regs, stk := t.stk, clu := t.clu, kvm := t.kvm } ∧
      unitHeld t u.stack.val (cmdUnit c) = [⟨⟨hf c 26 2, hf c 28 2, 1, (namedSlots s u.stack.val c).filterMap (fun q => q.2.map (fun x =>
        (pagePartial g q.1 x ((visibleSlots c q.1 x).map
          (slotToken g (fun r => cmdReadRow s u.stack.val c (cmdPageRow c r))))).1)), cmdTag c, cmdUnit c⟩, cmdEnd c, false, none⟩]) ∧
    (cmdCheck c = true → attendRows s u.stack.val c g ≠ [] →
      sumWords g (fun r => cmdReadRow s u.stack.val c (cmdPageRow c r)) ≠ pageWords g (fun r => cmdReadRow s u.stack.val c (cmdPageRow c r)) → ∃ t,
      exec (.attend u none false) s = .next t ∧ t = { s with out := [], regs := t.regs, stk := t.stk, clu := t.clu, kvm := t.kvm } ∧
      rd t Fld.STK_EVENT_CHECKSUM u.stack.val = 1 ∧ ∀ h ∈ unitHeld t u.stack.val (cmdUnit c), ∀ p ∈ h.block.recs, p.poison = true)) ∧
  (∀ (s : State) (u : PairRef),
    ((unitHeld s u.stack.val (pairRefUnit u)).filter (fun h => h.refused) = [] → exec (.heldFlushRetry u) s = .next { s with out := [] }) ∧
    (∀ h, unitHeld s u.stack.val (pairRefUnit u) = [h] → h.refused = true → redOf (stk s u.stack.val) h.block.rid = none → ∃ t,
      exec (.heldFlushRetry u) s = .next t ∧ t = { s with out := [], stk := t.stk } ∧ unitHeld t u.stack.val (pairRefUnit u) =
        [{ h with refused := true, offered := false, since := some (h.since.getD (bankCycle s)) }]))

/-- RSETUP opens its RID with its operands and keeps its entry; on an open RID it ends with status 8. RCANCEL discards an open
reduction and, by the model's choice (log 21), gives up the entry of its RSETUP. REDUCER_BLOCK_ACCEPT offers the unit's first
offered entry, and nothing without one: a closed RID refuses it; a failed reduction takes it; one beyond the count or before the
next index fails the reduction with status 9 or 10; the next in order is merged; the last one closes the RID with its records
written at DEST (here in a scratchpad window). NO_RID_DISCARD drops an entry refused for 65,536 bank cycles with status 11, and
else does nothing. -/
def Obligations.StackReducer : Prop :=
  (∀ (s : State) (u : PairRef) c, headRuns s u c (fun _ => []) = true →
    (cmdOp c = 0x18 → redOf (stk s u.stack.val) (hf c 26 2) = none → ∃ t, exec (.rsetup u) s = .next t ∧ t = { s with out := [], stk := t.stk } ∧
      redOf (stk t u.stack.val) (hf c 26 2) = some ⟨{ c with started := true }, hf c 32 4, hf c 29 1, (cmdGeom c).elim 0 (·.d), hf c 40 8, 0, [], [], none⟩ ∧
      (∀ k, k ≠ hf c 26 2 → redOf (stk t u.stack.val) k = redOf (stk s u.stack.val) k) ∧
      (stk t u.stack.val).queue = replaceFirst (fun x => decide (x = c)) (fun _ => { c with started := true }) (stk s u.stack.val).queue) ∧
    (cmdOp c = 0x18 → (redOf (stk s u.stack.val) (hf c 26 2)).isSome = true → cmdCpl c = false → ∃ t, exec (.rsetup u) s = .next t ∧
      t = { s with out := [], regs := t.regs, stk := t.stk, clu := t.clu, kvm := t.kvm } ∧ (stk t u.stack.val).rids = (stk s u.stack.val).rids ∧
      (stk t u.stack.val).queue = dropFirst (stk s u.stack.val).queue c ∧
      (rd s Fld.STK_CMD_ERR_VALID u.stack.val = 0 → rd t Fld.STK_CMD_ERR_STATUS u.stack.val = 8)) ∧
    (cmdOp c = 0x19 → cmdCpl c = false → ∃ t, exec (.rcancel u) s = .next t ∧ t = { s with out := [], stk := t.stk, clu := t.clu, kvm := t.kvm } ∧
      redOf (stk t u.stack.val) (hf c 26 2) = none ∧ (∀ k, k ≠ hf c 26 2 → redOf (stk t u.stack.val) k = redOf (stk s u.stack.val) k) ∧
      (∀ r, redOf (stk s u.stack.val) (hf c 26 2) = some r → r.failed = none →
        (stk t u.stack.val).queue = dropFirst (dropFirst (stk s u.stack.val).queue r.cmd) c))) ∧
  (∀ (s : State) (u : PairRef) f, (unitHeld s u.stack.val (pairRefUnit u)).find? (fun h => h.offered) = none →
    exec (.reducerBlockAccept u f) s = .next { s with out := [] }) ∧
  (∀ (s : State) (u : PairRef) h, (unitHeld s u.stack.val (pairRefUnit u)).find? (fun h => h.offered) = some h →
    (redOf (stk s u.stack.val) h.block.rid = none → ∃ t, exec (.reducerBlockAccept u false) s = .next t ∧ t = { s with out := [], stk := t.stk } ∧
      unitHeld t u.stack.val (pairRefUnit u) = replaceFirst (fun x => decide (x = h))
        (fun x => { x with refused := true, offered := false, since := some (x.since.getD (bankCycle s)) }) (unitHeld s u.stack.val (pairRefUnit u))) ∧
    (∀ r, redOf (stk s u.stack.val) h.block.rid = some r → ∃ t, exec (.reducerBlockAccept u false) s = .next t ∧
      (r.failed.isSome = true → t = { s with out := [], stk := t.stk } ∧ redOf (stk t u.stack.val) h.block.rid = some r) ∧
      (r.failed = none → r.count < h.block.start + h.block.size → (redOf (stk t u.stack.val) h.block.rid).bind (·.failed) = some 9 ∧
        rd t Fld.STK_EVENT_CMD_ERR u.stack.val = 1) ∧
      (r.failed = none → h.block.start + h.block.size ≤ r.count → h.block.start < r.next →
        (redOf (stk t u.stack.val) h.block.rid).bind (·.failed) = some 10 ∧ rd t Fld.STK_EVENT_CMD_ERR u.stack.val = 1) ∧
      (r.failed = none → h.block.start = r.next → r.parked = [] → h.block.recs.map (·.slot) = maskBits r.qmask → (∀ p ∈ h.block.recs, p.o.length = r.dim) →
        (h.block.start + h.block.size < r.count → t = { s with out := [], stk := t.stk } ∧ redOf (stk t u.stack.val) h.block.rid =
          some { r with next := h.block.start + h.block.size, stack := mergeBlockTop 32 (h.block :: r.stack) }) ∧
        (h.block.start + h.block.size = r.count → r.stack = [] → redOf (stk t u.stack.val) h.block.rid = none ∧
          ∀ p l x, h.block.recs = [p] → cmdCpl r.cmd = false → (∀ i < recBytes r.dim / 64, ∀ d q,
              scratchOpen s r.cmd.issuer (BitVec.ofNat 64 (r.dest + 64 * i)) (.lineWrite d q) l (x + 64 * i) = true ∧
              padFree s (BitVec.ofNat 64 (r.dest + 64 * i)) = true) → spadBytes t.mem l x (recBytes r.dim) = recordBytes p)) ∧
      (r.failed = none → r.count < h.block.start + h.block.size ∨ (h.block.start = r.next ∧ r.parked = []) ∨ h.block.start < r.next →
        unitHeld t u.stack.val (pairRefUnit u) = dropFirst (unitHeld s u.stack.val (pairRefUnit u)) h))) ∧
  (∀ (s : State) (u : PairRef),
    (let due (h : Held) : Bool :=
       (redOf (stk s u.stack.val) h.block.rid).isNone && (h.since.elim false (fun t => decide (t + 65536 ≤ bankCycle s)))
     ((unitHeld s u.stack.val (pairRefUnit u)).find? due = none → exec (.noRidDiscard u) s = .next { s with out := [] }) ∧
     (∀ h, (unitHeld s u.stack.val (pairRefUnit u)).find? due = some h → ∃ t, exec (.noRidDiscard u) s = .next t ∧
       t = { s with out := [], regs := t.regs, stk := t.stk } ∧
       unitHeld t u.stack.val (pairRefUnit u) = dropFirst (unitHeld s u.stack.val (pairRefUnit u)) h ∧ rd t Fld.STK_EVENT_CMD_ERR u.stack.val = 1 ∧
       (rd s Fld.STK_CMD_ERR_VALID u.stack.val = 0 → rd t Fld.STK_CMD_ERR_STATUS u.stack.val = 11))))

/-- BANK_REFRESH takes the bank of every channel out of service for 108 bank cycles and closes its row. DIE_TEMP_READ takes the 16
readings that THM does not replace, puts dies above 95 C on the halved allowance and takes those at or below 92 C off it, and
starts write hold above 105 C. THROTTLE_GROUP_START puts the level decided in force. A die that is to enter, with no write queued,
enters processor mode with its units reset and its map to be cleared; one that is to leave, with its queues empty and no block
held, leaves it the same way; else nothing changes. DIE_MAP_CLEAR_DONE leaves no unit of the die written and no pair of it
assigned. -/
def Obligations.StackDies : Prop :=
  (∀ (s : State) (n : Fin 12) (b : Fin 32), ∃ t, exec (.bankRefresh n b) s = .next t ∧ t = { s with out := [], stk := t.stk } ∧
    (∀ ch < 64, KMap.get (fun _ => 0) (stk t n.val).refreshing (ch * 32 + b.val) = bankCycle s + 108 ∧
      KMap.get (fun _ => 0) (stk t n.val).openRow (ch * 32 + b.val) = 0) ∧
    (stk t n.val).queue = (stk s n.val).queue ∧ (stk t n.val).units = (stk s n.val).units ∧ ∀ m, m ≠ n.val → stk t m = stk s m) ∧
  (∀ (s : State) (n : Fin 12) temps, (∀ d < 16, replaced s n.val (reading (temps.getD d 0)) = false) → s.mem.waiting = [] → ∃ t,
    exec (.dieTempRead n temps) s = .next t ∧ t = { s with out := [], regs := t.regs, stk := t.stk, pwr := { s.pwr with readout := t.pwr.readout } } ∧
    (∀ d < 16, readoutOf t n.val d = reading (temps.getD d 0) ∧ bitsOf (stk t n.val).hot d 1 =
      if 95 < reading (temps.getD d 0) then 1 else if reading (temps.getD d 0) ≤ 92 then 0 else bitsOf (stk s n.val).hot d 1) ∧
    (∀ d < 16, 105 < reading (temps.getD d 0) → rd t Fld.STK_STATUS_WHOLD n.val = 1 ∧
      (rd s Fld.STK_STATUS_WHOLD n.val = 0 → rd t Fld.STK_EVENT_WHOLD_ON n.val = 1)) ∧
    ((∀ d < 16, reading (temps.getD d 0) ≤ 102) → rd t Fld.STK_STATUS_WHOLD n.val = 0 ∧
      (rd s Fld.STK_STATUS_WHOLD n.val = 1 → rd t Fld.STK_EVENT_WHOLD_OFF n.val = 1))) ∧
  (∀ (s : State) (n : Fin 12), exec (.throttleGroupStart n) s =
    .next { s with out := [], regs := s.regs.setF Fld.STK_STATUS_THROT (stk s n.val).throttleNext n.val }) ∧
  (∀ (s : State) (n : Fin 12) (d : Fin 16),
    (bitsOf (stk s n.val).entering d.val 1 = 0 ∨ bitsOf (stk s n.val).clearing d.val 1 = 1 ∨ procDie s.img n.val d.val = true ∨
      (∃ i < 4, acceptedOf s.mem (n.val * 64 + d.val * 4 + i) ≠ []) → exec (.processorModeEntry n d) s = .next { s with out := [] }) ∧
    (bitsOf (stk s n.val).entering d.val 1 = 1 → bitsOf (stk s n.val).clearing d.val 1 = 0 → procDie s.img n.val d.val = false →
      (∀ i < 4, acceptedOf s.mem (n.val * 64 + d.val * 4 + i) = []) → ∃ t, exec (.processorModeEntry n d) s = .next t ∧
      t = { s with out := [], regs := t.regs, stk := t.stk, img := { s.img with pmask := t.img.pmask } } ∧ procDie t.img n.val d.val = true ∧
      (∀ m e, e < 16 → (m, e) ≠ (n.val, d.val) → procDie t.img m e = procDie s.img m e) ∧ bitsOf (stk t n.val).clearing d.val 1 = 1 ∧
      ∀ v, dieOfChan (v / 16) = d.val → bankUnit (stk t n.val) v = .reset) ∧
    (bitsOf (stk s n.val).leaving d.val 1 = 0 ∨ procDie s.img n.val d.val = false ∨ (∃ c ∈ (stk s n.val).queue, dieOfChan c.chan = d.val) →
      exec (.processorModeExit n d) s = .next { s with out := [] }) ∧
    (bitsOf (stk s n.val).leaving d.val 1 = 1 → procDie s.img n.val d.val = true → (∀ c ∈ (stk s n.val).queue, dieOfChan c.chan ≠ d.val) →
      (∀ e ∈ (stk s n.val).units, dieOfChan (e.1 / 16) = d.val → e.2.held = []) → ∃ t, exec (.processorModeExit n d) s = .next t ∧
      t = { s with out := [], stk := t.stk, img := { s.img with pmask := t.img.pmask } } ∧ procDie t.img n.val d.val = false ∧
      (∀ m e, e < 16 → (m, e) ≠ (n.val, d.val) → procDie t.img m e = procDie s.img m e) ∧ bitsOf (stk t n.val).clearing d.val 1 = 1) ∧
    (bitsOf (stk s n.val).clearing d.val 1 = 0 → exec (.dieMapClearDone n d) s = .next { s with out := [] }) ∧
    (bitsOf (stk s n.val).clearing d.val 1 = 1 → ∃ t, exec (.dieMapClearDone n d) s = .next t ∧
      t = { s with out := [], stk := t.stk, mem := { s.mem with written := t.mem.written, fills := t.mem.fills }, kvm := { s.kvm with pairs := t.kvm.pairs } } ∧
      bitsOf (stk t n.val).clearing d.val 1 = 0 ∧ bitsOf (stk t n.val).entering d.val 1 = 0 ∧
      (∀ v, (n.val * 64 + d.val * 4) * 2 ^ 19 ≤ v → v < (n.val * 64 + d.val * 4 + 4) * 2 ^ 19 → v ∉ t.mem.written) ∧
      ∀ p, unitStack p = n.val → dieOfChan (p % 1024 / 16) = d.val → pairOf t p = none))

/-- A slot of a streaming tile whose vectors are whole and fit takes one reduction step: every cell of every sub-problem that
takes part adds the product of its row's and column's element, cells of the others stay, the feeders advance, and CLU_ARR_STEPS
counts it; vectors that do not fit drop the tile with a deferred TILE fault. A slot without its vectors counts a freeze or a
bubble and enters nothing. An idle thin path changes nothing. TILE_ADMIT begins the oldest tile that may be admitted; PRELOAD_END
readies a CONT tile's cells from CSRC; TILE_LAST_PRODUCT completes a tile. Nothing but the cluster and its counters changes. -/
def Obligations.ArraySteps : Prop :=
  (∀ (s : State) (c : Fin 152) (thin : Bool) r, (cl s c.val).runs.find? (isStreaming thin) = some r →
    (stepWhole s c.val r = true → (thin = true ∨ level s c.val = 16) → ∃ t, exec (.arrayStep c thin) s = .next t ∧
      t = { s with out := [], regs := t.regs, clu := t.clu } ∧ (∀ d, d ≠ c.val → cl t d = cl s d) ∧
      (let subs := activeSubs r.tile r.step
       let fa := feeder (cl s c.val) (streamA thin)
       let fb := feeder (cl s c.val) (streamB thin)
       match tileMisfit (cl s c.val) r.tile ((subs.map (fun i => (i, r.step))).zipIdx) with
       | none => rd64 t Fld.CLU_ARR_STEPS_LO_COUNT Fld.CLU_ARR_STEPS_HI_COUNT c.val =
           (rd64 s Fld.CLU_ARR_STEPS_LO_COUNT Fld.CLU_ARR_STEPS_HI_COUNT c.val + 1) % 2 ^ 64 ∧
         ∃ r', (cl t c.val).runs = replaceFirst (isStreaming thin) (fun _ => r') (cl s c.val).runs ∧ r'.tile = r.tile ∧ r'.step = r.step + 1 ∧
         r'.phase = (if r.step + 1 = r.tile.steps then .tail else .streaming) ∧
         (∀ i e y x, (i, e) ∈ subs.zipIdx → y < r.tile.rows → x < r.tile.cols → KMap.get (blankCell r.tile) r'.cells (cellKey i y x) =
           addTo (attrAnchor (subAt r.tile i).rword) (KMap.get (blankCell r.tile) r.cells (cellKey i y x))
             ((takeVector s c.val fa e).1.getD y .zero).v ((takeVector s c.val fb e).1.getD x .zero).v) ∧
         (∀ k, k / 65536 ∉ subs → KMap.get (blankCell r.tile) r'.cells k = KMap.get (blankCell r.tile) r.cells k)
       | some i => (cl t c.val).deferred = (cl s c.val).deferred ++ [⟨3, 3, i, r.tile.pc⟩] ∧
         (cl t c.val).runs = (((takeFirst (isStreaming thin) (cl s c.val).runs).map (·.2)).getD (cl s c.val).runs))) ∧
    (stepWhole s c.val r = false → frozen s c.val = true → ∃ t, exec (.arrayStep c thin) s = .next t ∧
      t = { s with out := [], regs := t.regs, clu := t.clu } ∧
      rd64 t Fld.CLU_ARR_FREEZES_LO_COUNT Fld.CLU_ARR_FREEZES_HI_COUNT c.val =
        (rd64 s Fld.CLU_ARR_FREEZES_LO_COUNT Fld.CLU_ARR_FREEZES_HI_COUNT c.val + 1) % 2 ^ 64 ∧
      (cl t c.val).runs.map (fun r => (r.step, r.cells)) = (cl s c.val).runs.map (fun r => (r.step, r.cells)) ∧
      (cl t c.val).feeders = (cl s c.val).feeders) ∧
    (stepWhole s c.val r = false → frozen s c.val = false → thin = false → ∃ t, exec (.arrayStep c thin) s = .next t ∧
      t = { s with out := [], regs := t.regs, clu := t.clu } ∧
      rd64 t Fld.CLU_ARR_BUBBLES_LO_COUNT Fld.CLU_ARR_BUBBLES_HI_COUNT c.val =
        (rd64 s Fld.CLU_ARR_BUBBLES_LO_COUNT Fld.CLU_ARR_BUBBLES_HI_COUNT c.val + 1) % 2 ^ 64 ∧
      (cl t c.val).runs.map (fun r => (r.step, r.cells)) = (cl s c.val).runs.map (fun r => (r.step, r.cells)) ∧
      (cl t c.val).feeders = (cl s c.val).feeders)) ∧
  (∀ (s : State) (c : Fin 152), (cl s c.val).runs.find? (isStreaming true) = none → exec (.arrayStep c true) s = .next { s with out := [] }) ∧
  (∀ (s : State) (c : Fin 152) (thin : Bool),
    ((admissible s c.val thin = false ∨ (thin = false ∧ level s c.val ≠ 16)) → exec (.tileAdmit c thin) s = .next { s with out := [] }) ∧
    (∀ w, admissible s c.val thin = true → (thin = true ∨ level s c.val = 16) → oldest (cl s c.val) thin = some w →
      tileMisfit (cl s c.val) w (tileTakes w).zipIdx = none → ∃ t, exec (.tileAdmit c thin) s = .next t ∧
      t = { s with out := [], clu := t.clu } ∧ (∀ d, d ≠ c.val → cl t d = cl s d) ∧
      (cl t c.val).tiles = (((takeFirst (fun (y : Tile) => decide (y.thin = thin)) (cl s c.val).tiles).map (·.2)).getD (cl s c.val).tiles) ∧
      ∃ r, r ∈ (cl t c.val).runs ∧ r.phase = .streaming ∧ (w.cont = false → (cl s c.val).runs.all (fun r => r.phase ≠ .ready) = true →
        r = TileRun.new w .streaming)) ∧
    (∀ w, oldest (cl s c.val) thin = some w → w.cont = true → bankHeld (cl s c.val) w = false → preloaded (cl s c.val) w = false →
      preempting s c.val = false → (cl s c.val).runs.all (fun r => r.phase ≠ .draining) = true → ∃ t r, exec (.preloadEnd c thin) s = .next t ∧
      t = { s with out := [], clu := t.clu, fresh := t.fresh } ∧ (∀ d, d ≠ c.val → cl t d = cl s d) ∧
      (cl t c.val).runs = (cl s c.val).runs ++ [r] ∧ r.tile = w ∧ r.phase = .ready ∧ ∀ i y x v, i < w.subs.length → y < w.rows → x < w.cols →
        layoutElem s c.val w.layout (subAt w i).csrc (if (subAt w i).cls = .exact then 256 else 32) y x = some (v, false) →
        KMap.get (blankCell w) r.cells (cellKey i y x) = preloadCell (subAt w i) v) ∧
    (oldest (cl s c.val) thin = none → exec (.preloadEnd c thin) s = .next { s with out := [] }) ∧
    (∀ b : Fin 4,
      (takeFirst (fun (r : TileRun) => r.tile.thin = thin && r.phase = .tail && r.tile.bank = b.val) (cl s c.val).runs = none →
        exec (.tileLastProduct c thin b) s = .next { s with out := [] }) ∧
      (∀ r rest, takeFirst (fun (r : TileRun) => r.tile.thin = thin && r.phase = .tail && r.tile.bank = b.val) (cl s c.val).runs = some (r, rest) →
        exec (.tileLastProduct c thin b) s = .next (setCl { s with out := [] } c.val { cl s c.val with
          runs := rest ++ [{ r with phase := .complete, time4 := r.time4 + 4 * r.tile.tail }] }))))

/-- DRAIN_START drains the first completed tile while the port is free, writing only the cluster's own scratchpad, and keeps its
results; DRAIN_READ_END frees the bank. STATUS_WORD_DELIVER puts the word of the next sub-problem in the drain queue, and the last
one retires the tile: with no test failed its CHECK is 0 or 1, after a recompute 2 with RECOMP set and counted, after a second
failure 3 with TILE_FAIL set. ACTIVITY_LEVEL_STEP raises the level while a step could enter and lowers it else. FREEZE_MODE_APPLY
takes FREEZE when no tile streams, waits for its last product or drains. PREEMPT_REQUEST stops the core's issue; TILE_BOUNDARY is
reached when no tile streams or waits for its last product. -/
def Obligations.ArrayDrainsAndControl : Prop :=
  (∀ (s : State) (c : Fin 152),
    (((cl s c.val).runs.any (fun r => r.phase = .draining) = true ∨ (cl s c.val).runs.find? (fun r => r.phase = .complete) = none) →
      exec (.drainStart c) s = .next { s with out := [] }) ∧
    (∀ r, (cl s c.val).runs.all (fun r => r.phase ≠ .draining) = true → (cl s c.val).runs.find? (fun r => r.phase = .complete) = some r → ∃ t,
      exec (.drainStart c) s = .next t ∧
      t = { s with
        out := []
        mem := { s.mem with spad := t.mem.spad, spadPoison := t.mem.spadPoison }
        clu := t.clu
        fresh := t.fresh } ∧ (∀ d, d ≠ c.val → cl t d = cl s d) ∧
      (cl t c.val).runs = replaceFirst (fun r => r.phase = .complete)
        (fun r => { r with phase := .draining, results := (drainTile (quiet s) c.val r).2 }) (cl s c.val).runs ∧
      (r.tile.drain ≠ 1 → t.fresh = s.fresh) ∧
      ∀ k, k / 2 ^ 22 ≠ c.val → KMap.get (fun _ => 0#8) t.mem.spad k = KMap.get (fun _ => 0#8) s.mem.spad k) ∧
    exec (.drainReadEnd c) s = .next (setCl { s with out := [] } c.val { cl s c.val with
      runs := replaceFirst (fun r => r.phase = .draining) (fun r => { r with phase := .drained }) (cl s c.val).runs })) ∧
  (∀ (s : State) (c : Fin 152) (f : Fin 3),
    ((cl s c.val).runs.find? (fun r => r.phase = .drained) = none → exec (.statusWordDeliver c f) s = .next { s with out := [] }) ∧
    (∀ r, (cl s c.val).runs.find? (fun r => r.phase = .drained) = some r →
      (let res := r.results.getD r.reported ⟨0#8, false, false⟩
       let w := statusWord r.tile.tag res.flags (if res.exact then 0 else 1) res.poison (r.lost.contains r.reported)
         (if r.tile.thin then 0 else r.reported) (r.time4 / 4)
       (r.reported + 1 < r.tile.subs.length → exec (.statusWordDeliver c 0) s = .next (setCl { s with out := [] } c.val { cl s c.val with
         drainQ := (cl s c.val).drainQ ++ [w]
         runs := replaceFirst (fun r => r.phase = .drained) (fun r' => { r' with reported := r.reported + 1 }) (cl s c.val).runs })) ∧
       (r.tile.subs.length ≤ r.reported + 1 → exec (.statusWordDeliver c 0) s = .next (setCl { s with out := [] } c.val { cl s c.val with
         drainQ := (cl s c.val).drainQ ++ [w]
         runs := ((takeFirst (fun (r : TileRun) => decide (r.phase = .drained)) (cl s c.val).runs).map (·.2)).getD (cl s c.val).runs }))) ∧
      (∃ t w, exec (.statusWordDeliver c 1) s = .next t ∧ (cl t c.val).drainQ = (cl s c.val).drainQ ++ [w] ∧ bitsOf w.toNat 24 2 = 2 ∧
        rd t Fld.CLU_ARR_EVENT_RECOMP c.val = 1 ∧
        rd t Fld.CLU_ARR_RECOMP_COUNT c.val = Nat.min (rd s Fld.CLU_ARR_RECOMP_COUNT c.val + 1) (2 ^ 32 - 1)) ∧
      (∃ t w, exec (.statusWordDeliver c 2) s = .next t ∧ (cl t c.val).drainQ = (cl s c.val).drainQ ++ [w] ∧ bitsOf w.toNat 24 2 = 3 ∧
        rd t Fld.CLU_ARR_EVENT_TILE_FAIL c.val = 1 ∧ rd t Fld.RAS_EVENT_UE = 1))) ∧
  (∀ (s : State) (c : Fin 152),
    (stepReady s c.val = true → level s c.val < 16 → ∃ t, exec (.activityLevelStep c) s = .next t ∧
      t = { s with out := [], regs := t.regs, clu := t.clu } ∧ level t c.val = level s c.val + 1) ∧
    (stepReady s c.val = false → 0 < level s c.val → ∃ t, exec (.activityLevelStep c) s = .next t ∧
      t = { s with out := [], regs := t.regs, clu := t.clu } ∧ level t c.val = level s c.val - 1) ∧
    ((stepReady s c.val = true ∧ level s c.val = 16) ∨ (stepReady s c.val = false ∧ level s c.val = 0) →
      exec (.activityLevelStep c) s = .next { s with out := [] }) ∧
    ((cl s c.val).runs.any (fun r => r.phase = .streaming || r.phase = .tail || r.phase = .draining) = true →
      exec (.freezeModeApply c) s = .next { s with out := [] }) ∧
    ((cl s c.val).runs.any (fun r => r.phase = .streaming || r.phase = .tail || r.phase = .draining) = false → exec (.freezeModeApply c) s =
      .next { s with out := [], regs := s.regs.setF Fld.CLU_ARR_MODE_FREEZE_ACT (rd s Fld.CLU_ARR_MODE_FREEZE c.val) c.val }) ∧
    exec (.preemptRequest c) s = .next (setCl { s with out := [], regs := s.regs.setF Fld.CLU_ARR_STATUS_PREEMPT 1 c.val } c.val
      { cl s c.val with stopped := true }) ∧
    (preempting s c.val = true → atBoundary (cl s c.val) = true → exec (.tileBoundary c) s =
      .next (setCl { s with out := [] } c.val { cl s c.val with boundary := true })) ∧
    (preempting s c.val = false ∨ atBoundary (cl s c.val) = false → exec (.tileBoundary c) s = .next { s with out := [] }))

/-- A first half of a line that the stream needs, with room in its queue, enters a skid slot holding the line as the machine reads
it; a half of a line the stream does not need, or with no room, changes nothing. The half that completes the line next in turn
releases it to the edge with its data and poison. HALF_LINE_TIMEOUT does nothing where no half line stands; else it marks the line
lost and poisoned and sets HALF_LOST. -/
def Obligations.OperandLines : Prop :=
  (∀ (s : State) (c : Fin 152) (f : Fin 4) (line : BitVec 58) (hi : Bool) ecc,
    ((feeder (cl s c.val) f.val).skid.find? (fun k => k.line = line.toNat) = none →
      ((KMap.get (fun _ => none) (feeder (cl s c.val) f.val).lines line.toNat).isSome = true ∨
        wantsLine s c.val (feeder (cl s c.val) f.val) line.toNat = false ∨ 64 ≤ queueLines (cl s c.val) f.val) →
      exec (.operandHalfArrive c f line hi ecc) s = .next { s with out := [] }) ∧
    ((feeder (cl s c.val) f.val).skid = [] → KMap.get (fun _ => none) (feeder (cl s c.val) f.val).lines line.toNat = none →
      wantsLine s c.val (feeder (cl s c.val) f.val) line.toNat = true → queueLines (cl s c.val) f.val < 64 →
      hashedOpen s (.cluster c) (BitVec.ofNat 64 (line.toNat * 64)) .lineRead = true → ecc = .clean → ∃ t,
      exec (.operandHalfArrive c f line hi ecc) s = .next t ∧ t = { s with out := [], regs := t.regs, mem := t.mem, clu := t.clu } ∧
      (feeder (cl t c.val) f.val).skid = [⟨line.toNat, (peekLine s (offOf (BitVec.ofNat 64 (line.toNat * 64)))).1,
        (peekLine s (offOf (BitVec.ofNat 64 (line.toNat * 64)))).2, !hi, hi, false⟩] ∧ (∀ d, d ≠ c.val → cl t d = cl s d)) ∧
    (∀ k, (feeder (cl s c.val) f.val).skid = [k] → k.line = line.toNat → k.lost = false → k.lo = hi → k.hi = !hi →
      nextLine s c.val (feeder (cl s c.val) f.val) = some line.toNat → ∃ t, exec (.operandHalfArrive c f line hi ecc) s = .next t ∧
      t = { s with out := [], clu := t.clu } ∧ (feeder (cl t c.val) f.val).skid = [] ∧
      KMap.get (fun _ => none) (feeder (cl t c.val) f.val).lines line.toNat = some (k.data, k.poison))) ∧
  (∀ (s : State) (c : Fin 152) (f : Fin 4) (line : BitVec 58),
    ((feeder (cl s c.val) f.val).skid.find? (fun k => k.line = line.toNat ∧ k.lo ≠ k.hi) = none →
      exec (.halfLineTimeout c f line) s = .next { s with out := [] }) ∧
    (∀ k, (feeder (cl s c.val) f.val).skid.find? (fun k => k.line = line.toNat ∧ k.lo ≠ k.hi) = some k → ∃ t,
      exec (.halfLineTimeout c f line) s = .next t ∧ t = { s with out := [], regs := t.regs, clu := t.clu, fresh := t.fresh } ∧
      rd t Fld.CLU_ARR_EVENT_HALF_LOST c.val = 1 ∧
      ∀ j ∈ (feeder (cl t c.val) f.val).skid, j.line = line.toNat → j.lost = true ∧ j.poison = true))

/-- Through a CLU, alias or CON block that answers: before READY, from a requester without the right, with an unreadable
descriptor, or with a full queue, CLU_LAUNCH_WRITE sets REFUSED of the target and no queue changes; else the launch enters the
cluster's queue, or in one step those of every leaf of the constellation, each with its member index, and no other cluster
changes. CLU_ICINV_WRITE empties the instruction cache of the cluster, or of every leaf, and changes nothing else.
LAUNCH_QUEUE_ENTER lets the oldest held LAUNCH of a core enter as soon as the queue has room. -/
def Obligations.LaunchWrites : Prop :=
  (∀ (s : State) who (block : BitVec 11) (addr : GAddr) remote c, regOpen s who (block.toNat * 65536) true = true → 0x200 ≤ block.toNat →
    launchTarget s.img (block.toNat * 65536) = some (.cluster c) → ∃ t, exec (.cluLaunchWrite who block addr remote) s = .next t ∧
    t = { s with out := [⟨some who, .done⟩], regs := t.regs, mem := t.mem, clu := t.clu } ∧ (isLocal s addr = false → t.mem = s.mem) ∧
    (let l := (fetchLaunch (quiet s) who addr remote).2
     (isReady s = false ∨ mayLaunch s who (.cluster c) = false ∨ l = none ∨ queueFull s c = true → t.clu = s.clu ∧ rd t Fld.CLU_LSTAT_REFUSED c = 1) ∧
     (∀ d, isReady s = true → mayLaunch s who (.cluster c) = true → l = some d → queueFull s c = false →
       rd t Fld.CLU_LSTAT_REFUSED c = rd s Fld.CLU_LSTAT_REFUSED c ∧
       (cl t c) = { cl s c with queue := (cl s c).queue ++ [{ d with tenant := (physTenant s.img c).getD 0xFFFF }] } ∧
       ∀ e, e ≠ c → cl t e = cl s e))) ∧
  (∀ (s : State) who (block : BitVec 11) (addr : GAddr) remote k, regOpen s who (block.toNat * 65536) true = true → 0x200 ≤ block.toNat →
    launchTarget s.img (block.toNat * 65536) = some (.con k) → ∃ t, exec (.cluLaunchWrite who block addr remote) s = .next t ∧
    t = { s with out := [⟨some who, .done⟩], regs := t.regs, mem := t.mem, clu := t.clu, seq := t.seq } ∧
    (isLocal s addr = false → t.mem = s.mem) ∧
    (let l := (fetchLaunch (quiet s) who addr remote).2
     let ls := physLeaves s.img k
     (isReady s = false ∨ mayLaunch s who (.con k) = false ∨ l = none ∨ (∃ c ∈ ls, clusterOff s c = true ∨ queueFull s c = true) →
       t.clu = s.clu ∧ t.seq = s.seq ∧ rd t (conField Fld.CLU_LSTAT_REFUSED) k = 1) ∧
     (∀ d, isReady s = true → mayLaunch s who (.con k) = true → l = some d → (∀ c ∈ ls, clusterOff s c = false ∧ queueFull s c = false) → ls.Nodup →
       (∀ e ∈ ls.zipIdx, cl t e.1 = { cl s e.1 with queue := (cl s e.1).queue ++
         [{ d with con := some (k, s.seq.nextRun), index := e.2, count := ls.length, tenant := (conTenant s.img k).getD 0xFFFF }] }) ∧
       (∀ e, e ∉ ls → cl t e = cl s e) ∧
       t.seq = { s.seq with
         nextRun := s.seq.nextRun + 1
         conRuns := s.seq.conRuns ++ [⟨s.seq.nextRun, k, ls.length, ls.length, d.cpl, false, none⟩]
         conDone := KSet.del s.seq.conDone k }))) ∧
  (∀ (s : State) who (block : BitVec 11), regOpen s who (block.toNat * 65536 + 0x20) false = true → 0x200 ≤ block.toNat →
    (∀ c, launchTarget s.img (block.toNat * 65536) = some (.cluster c) → exec (.cluIcinvWrite who block) s =
      .next (setCl { s with out := [⟨some who, .done⟩] } c { cl s c with icache := [] })) ∧
    (∀ k, launchTarget s.img (block.toNat * 65536) = some (.con k) → ∃ t, exec (.cluIcinvWrite who block) s = .next t ∧
      t = { s with out := [⟨some who, .done⟩], clu := t.clu } ∧ (∀ c ∈ physLeaves s.img k, cl t c = { cl s c with icache := [] }) ∧
      ∀ c, c ∉ physLeaves s.img k → cl t c = cl s c)) ∧
  (∀ (s : State) (c : Fin 152) remote,
    ((cl s c.val).heldLaunches = [] → exec (.launchQueueEnter c remote) s = .next { s with out := [] }) ∧
    (∀ h rest d, (cl s c.val).heldLaunches = h :: rest → launchTarget s.img h.target = some (.cluster d) → isLocal s h.addr = false → ∃ t,
      exec (.launchQueueEnter c remote) s = .next t ∧ t = { s with out := [], regs := t.regs, clu := t.clu } ∧
      (let l := (fetchLaunch (quiet s) (.cluster c) h.addr remote).2
       (isReady s = false ∨ mayLaunch s (.cluster c) (.cluster d) = false ∨ l = none → rd t Fld.CLU_LSTAT_REFUSED d = 1 ∧
         cl t c.val = { cl s c.val with heldLaunches := rest, deferred := (cl s c.val).deferred ++ [⟨0x06, 6, 7, h.pc⟩] } ∧
         ∀ e, e ≠ c.val → cl t e = cl s e) ∧
       (∀ x, isReady s = true → mayLaunch s (.cluster c) (.cluster d) = true → l = some x →
         (queueFull s d = true → t.clu = s.clu ∧ t.regs = s.regs) ∧
         (queueFull s d = false → t.regs = s.regs ∧ (cl t c.val).heldLaunches = rest ∧
           (cl t d).queue = (cl s d).queue ++ [{ x with via := some (c.val, h.h), tenant := (physTenant s.img d).getD 0xFFFF }] ∧
           ∀ e, e ≠ c.val → e ≠ d → cl t e = cl s e)))))

/-- LAUNCH_START changes nothing unless a launch waits and the cluster may start (no launch runs, ERR is 0, it is neither stopped,
pre-empted, in eclipse nor off). The oldest launch then leaves the queue and runs: the pc is its entry, s1 its argument, s2 its
LTAG, every other register 0 without poison, no queue is bound, and the cluster makes one trace record. LAUNCH_END takes the first
ended launch of which no tile is left: its completion count is raised by one with a 64-bit add, or its leaf's share of the
constellation's launch ends, the last one ending the whole. -/
def Obligations.LaunchStartAndEnd : Prop :=
  (∀ (s : State) (c : Fin 152),
    ((cl s c.val).queue = [] ∨ launchReady s c.val = false → exec (.launchStart c) s = .next { s with out := [] }) ∧
    (∀ l rest, (cl s c.val).queue = l :: rest → launchReady s c.val = true → ∃ t, exec (.launchStart c) s = .next t ∧
      t = { s with out := [], regs := t.regs, clu := t.clu, pwr := { s.pwr with fifo := t.pwr.fifo } } ∧
      (let x := cl s c.val
       let y := cl t c.val
       y = { x with
         pc := l.entry
         running := some l
         launchNo := x.launchNo + 1
         queue := rest
         lastHalt := false
         sregs := y.sregs
         vregs := []
         pregs := []
         spoison := []
         vpoison := []
         ppoison := []
         handles := []
         loads := []
         icache := if l.icinv = true then [] else x.icache } ∧
       (∀ n, KMap.get (fun _ => 0#64) y.sregs n = if n = 1 then BitVec.ofNat 64 l.arg else if n = 2 then BitVec.ofNat 64 l.ltag else 0#64) ∧
       (∀ d, d ≠ c.val → cl t d = cl s d) ∧
       ((KMap.get (fun _ => []) s.pwr.fifo c.val).length < 64 → t.regs = s.regs ∧ KMap.get (fun _ => []) t.pwr.fifo c.val =
         KMap.get (fun _ => []) s.pwr.fifo c.val ++ [traceRec s.mer 0x10 0 c.val 0 0 l.ltag])))) ∧
  (∀ (s : State) (c : Fin 152),
    ((∀ e ∈ (cl s c.val).ending, tilesLeft (cl s c.val) e.no = true) → exec (.launchEnd c) s = .next { s with out := [] }) ∧
    (∀ a b e, (cl s c.val).ending = a ++ e :: b → (∀ f ∈ a, tilesLeft (cl s c.val) f.no = true) → tilesLeft (cl s c.val) e.no = false →
      (e.launch.con = none → e.launch.cpl = none →
        exec (.launchEnd c) s = .next (setCl { s with out := [] } c.val { cl s c.val with ending := a ++ b })) ∧
      (∀ n, e.launch.con = none → e.launch.cpl = some n → s.mem.formOk = true → countReady s (.cluster c) n = true → ∃ t,
        exec (.launchEnd c) s = .next t ∧ t = { s with out := [], mem := t.mem, load := t.load, clu := t.clu } ∧
        cl t c.val = { cl s c.val with ending := a ++ b } ∧ (∀ d, d ≠ c.val → cl t d = cl s d) ∧ ∀ i, peekByte t i = countByte s n 1 i) ∧
      (∀ k id r, e.launch.con = some (k, id) → s.seq.conRuns.find? (fun r => decide (r.id = id)) = some r →
        (1 < r.remaining → ∃ t, exec (.launchEnd c) s = .next t ∧ t = { s with out := [], clu := t.clu, seq := { s.seq with conRuns := t.seq.conRuns } } ∧
          cl t c.val = { cl s c.val with ending := a ++ b } ∧
          t.seq.conRuns.find? (fun r => decide (r.id = id)) = some { r with remaining := r.remaining - 1, failed := r.failed || e.failed }) ∧
        (r.remaining ≤ 1 → r.cpl = none → ∃ t, exec (.launchEnd c) s = .next t ∧ t = { s with out := [], clu := t.clu, seq := t.seq } ∧
          cl t c.val = { cl s c.val with ending := a ++ b } ∧ t.seq.conRuns = s.seq.conRuns.filter (fun r => decide (r.id ≠ id)) ∧
          ((r.failed || e.failed) = true → t.seq.conDone = s.seq.conDone) ∧
          ((r.failed || e.failed) = false → t.seq.conDone = KSet.add s.seq.conDone r.con)))))

/-- LOAD_COMPLETE writes a load whose parts have all come to its register, with their poison, and drops it; otherwise it changes
nothing. DMA_COMPLETE copies every byte between scratchpads and removes the descriptor, changing no other byte of a scratchpad; a
descriptor that was moved leaves once no access of it is open. TINV_START sets BUSY and clears DONE, or, while busy or with a key
out of range, sets IGNORED; TINV_DONE, once nothing translates through an old entry, drops the cached lines of the sequence,
tenant, host function or all, and sets DONE with BUSY clear. -/
def Obligations.CompletionsAndInvalidation : Prop :=
  (∀ (s : State) (c : Fin 152) index,
    ((cl s c.val).loads[index]? = none → exec (.loadComplete c index) s = .next { s with out := [] }) ∧
    (∀ l, (cl s c.val).loads[index]? = some l →
      (loadDone l = false → exec (.loadComplete c index) s = .next { s with out := [] }) ∧
      (loadDone l = true → ∃ t, exec (.loadComplete c index) s = .next t ∧ t = { s with out := [], clu := t.clu } ∧
        (∀ d, d ≠ c.val → cl t d = cl s d) ∧
        (let x := cl s c.val
         let y := cl t c.val
         let v := leNat (loadBytes l).1
         let bad := (loadBytes l).2
         y.loads = x.loads.filter (fun k => decide (k.id ≠ l.id)) ∧
         y = { x with loads := y.loads, sregs := y.sregs, vregs := y.vregs, pregs := y.pregs, spoison := y.spoison, vpoison := y.vpoison, ppoison := y.ppoison } ∧
         (∀ n, KMap.get (fun _ => 0#64) y.sregs n =
           if l.dst = .s n ∧ n ≠ 0 then BitVec.ofNat 64 v else KMap.get (fun _ => 0#64) x.sregs n) ∧
         (∀ n, KMap.get (fun _ => 0#64) y.pregs n =
           if l.dst = .p n ∧ n ≠ 0 then BitVec.ofNat 64 v else KMap.get (fun _ => 0#64) x.pregs n) ∧
         (∀ n, l.dst = .v n → KMap.get (fun _ => 0#2048) y.vregs n = BitVec.ofNat 2048 v) ∧
         (∀ n, (∀ i, l.dst ≠ .v n ∧ l.dst ≠ .vPiece n i) → KMap.get (fun _ => 0#2048) y.vregs n = KMap.get (fun _ => 0#2048) x.vregs n) ∧
         (∀ n, l.dst = .s n → n ≠ 0 → (n ∈ y.spoison ↔ bad = true)) ∧ (∀ n, l.dst = .v n → (n ∈ y.vpoison ↔ bad = true)) ∧
         (∀ n, l.dst = .p n → n ≠ 0 → (n ∈ y.ppoison ↔ bad = true)))))) ∧
  (∀ (s : State) (c : Fin 152) index ecc,
    ((cl s c.val).dma[index]? = none → exec (.dmaComplete c index ecc) s = .next { s with out := [] }) ∧
    (∀ d, (cl s c.val).dma[index]? = some d → ((cl s c.val).dma.map (·.id)).Nodup →
      (d.moved = true → dmaOpen s c.val d.id = true → exec (.dmaComplete c index ecc) s = .next { s with out := [] }) ∧
      (d.moved = true → dmaOpen s c.val d.id = false → d.cpl = 0 ∨ d.failed = true → exec (.dmaComplete c index ecc) s =
        .next (setCl { s with out := [] } c.val { cl s c.val with dma := (cl s c.val).dma.filter (fun e => decide (e.id ≠ d.id)) })) ∧
      (∀ i x j y, d.moved = false → dmaOpen s c.val d.id = false → d.cpl = 0 → d.len % 64 = 0 → ecc = .clean →
        (∀ k < d.len / 64, scratchOpen s (.cluster c) (BitVec.ofNat 64 (d.src + 64 * k)) .lineRead i (x + 64 * k) = true ∧
          spadPoisoned s.mem i (x + 64 * k) 64 = false) →
        (∀ k < d.len / 64, scratchOpen s (.cluster c) (BitVec.ofNat 64 (d.dst + 64 * k)) (.lineWrite 0 false) j (y + 64 * k) = true ∧
          padFree s (BitVec.ofNat 64 (d.dst + 64 * k)) = true) →
        (i * 2 ^ 22 + x + d.len ≤ j * 2 ^ 22 + y ∨ j * 2 ^ 22 + y + d.len ≤ i * 2 ^ 22 + x) → ∃ t,
        exec (.dmaComplete c index ecc) s = .next t ∧
        t = { s with out := [], clu := t.clu, mem := { s.mem with spad := t.mem.spad, spadPoison := t.mem.spadPoison } } ∧
        cl t c.val = { cl s c.val with dma := (cl t c.val).dma } ∧ (cl t c.val).dma.map (·.id) = ((cl s c.val).dma.map (·.id)).filter (fun e => decide (e ≠ d.id)) ∧
        ∀ n, KMap.get (fun _ => 0#8) t.mem.spad n = if j * 2 ^ 22 + y ≤ n ∧ n < j * 2 ^ 22 + y + d.len then
          KMap.get (fun _ => 0#8) s.mem.spad (i * 2 ^ 22 + x + (n - (j * 2 ^ 22 + y))) else KMap.get (fun _ => 0#8) s.mem.spad n))) ∧
  (∀ (s : State) who (kind : BitVec 2), hubOpen s who = true →
    (mayImage who = false → exec (.tinvStart who kind) s = .next { s with out := [⟨some who, .done⟩] }) ∧
    (mayImage who = true → ∃ t, exec (.tinvStart who kind) s = .next t ∧
      (let key := rd64 s Fld.HUB_TINV_KEY_LO_KEY Fld.HUB_TINV_KEY_HI_KEY
       t = { s with out := [⟨some who, .done⟩], regs := t.regs, irq := { s.irq with active := t.irq.active }, kvm := { s.kvm with tinv := t.kvm.tinv } } ∧
       (rd s Fld.HUB_TINV_STATUS_BUSY = 1 ∨ tinvKey kind.toNat key = false → rd t Fld.HUB_TINV_STATUS_IGNORED = 1 ∧ t.kvm.tinv = s.kvm.tinv) ∧
       (rd s Fld.HUB_TINV_STATUS_BUSY ≠ 1 → tinvKey kind.toNat key = true → t.kvm.tinv = some (kind.toNat, key) ∧
         rd t Fld.HUB_TINV_STATUS_BUSY = 1 ∧ rd t Fld.HUB_TINV_STATUS_DONE = 0)))) ∧
  (∀ s : State,
    (s.kvm.tinv = none → exec .tinvDone s = .next { s with out := [] }) ∧
    (∀ kind key, s.kvm.tinv = some (kind, key) →
      (tinvPending s kind key = true → exec .tinvDone s = .next { s with out := [] }) ∧
      (tinvPending s kind key = false → ∃ t, exec .tinvDone s = .next t ∧
        t = { s with
          out := []
          regs := t.regs
          hpt := t.hpt
          kvm := { s.kvm with tinv := none, walk := s.kvm.walk.filter (fun x => !tinvHits kind key x), leafCache := t.kvm.leafCache } } ∧
        (∀ e ∈ t.kvm.leafCache, ∀ x ∈ e.2, tinvHits kind key x = false) ∧
        (∀ p < 2, hport t p = if kind = 3 ∨ kind = 2 ∧ p = key then { hport s p with cache := [] } else hport s p) ∧
        rd t Fld.HUB_TINV_STATUS_BUSY = 0 ∧ rd t Fld.HUB_TINV_STATUS_DONE = 1)))

/-- WORD_ISSUE changes nothing while the core does not run, or while the cached word waits for a register, a queue or a fence. A
pc that is not an aligned hashed address, an undefined word, or a fault of an operand ends the launch with ERR: where CLU_FAULT
was clear it holds the first fault's cause, slot and detail, precise, with the pc; deferred faults are reported before the word's
own. A word that misses is read through the home slice and enters the cache, and one with no slot enabled advances the pc by 64. -/
def Obligations.WordFaultsAndWaits : Prop :=
  (∀ (s : State) (c : Fin 152) fe de late remote,
    (let x := cl s c.val
     let run := exec (.wordIssue c fe de late remote) s
     let stops (t : State) (l : Launch) : Prop :=
       t = { s with out := [], regs := t.regs, clu := t.clu, pwr := t.pwr } ∧ rd t Fld.CLU_LSTAT_ERR c.val = 1 ∧ (cl t c.val).running = none ∧
       (cl t c.val).lastHalt = false ∧ (cl t c.val).ending = x.ending ++ [⟨x.launchNo, l, true⟩] ∧ ∀ d, d ≠ c.val → cl t d = cl s d
     let records (t : State) (f : WordFault) (deferred pc : Nat) : Prop :=
       rd t Fld.CLU_FAULT_VALID c.val = 1 ∧ rd t Fld.CLU_FAULT_CAUSE c.val = f.cause ∧ rd t Fld.CLU_FAULT_SLOT c.val = f.slot ∧
       rd t Fld.CLU_FAULT_DETAIL c.val = f.detail ∧ rd t Fld.CLU_FAULT_DEFERRED c.val = deferred ∧
       rd64 t Fld.CLU_FAULT_PC_LO_PC Fld.CLU_FAULT_PC_HI_PC c.val = pc
     (coreRuns s c.val = false → run = .next { s with out := [] }) ∧
     (∀ l, coreRuns s c.val = true → x.running = some l →
       (fetchable s x.pc = false → ∃ t, run = .next t ∧ stops t l ∧
         (rd s Fld.CLU_FAULT_VALID c.val = 0 → x.pc < 2 ^ 64 → records t ⟨9, 7, 1⟩ 0 x.pc) ∧
         (rd s Fld.CLU_FAULT_VALID c.val = 1 → rd t Fld.CLU_FAULT_OVERRUN c.val = 1 ∧ rd t Fld.CLU_FAULT_CAUSE c.val = rd s Fld.CLU_FAULT_CAUSE c.val)) ∧
       (∀ b, fetchable s x.pc = true → cacheWay x x.pc = some b →
         (∀ f fs, (readWord b.toNat).2 = f :: fs → ∃ t, run = .next t ∧ stops t l ∧
           (rd s Fld.CLU_FAULT_VALID c.val = 0 → x.pc < 2 ^ 64 → records t f 0 x.pc ∧ (fs ≠ [] → rd t Fld.CLU_FAULT_OVERRUN c.val = 1))) ∧
         (∀ w, readWord b.toNat = (w, []) →
           (interlocked x w = true → run = .next { s with out := [] }) ∧
           (interlocked x w = false → poisonFaults x w = [] → wordFaults s c (operandsOf s c.val) w = [] →
             wordWaits s c (operandsOf s c.val) w = true → run = .next { s with out := [] }) ∧
           (∀ f fs, interlocked x w = false → x.deferred = [] → (if poisonFaults x w ≠ [] then poisonFaults x w else
               wordFaults s c (operandsOf s c.val) w) = f :: fs → ∃ t, run = .next t ∧ stops t l ∧
             (rd s Fld.CLU_FAULT_VALID c.val = 0 → x.pc < 2 ^ 64 → f.cause < 256 → f.slot < 8 → f.detail < 256 → records t f 0 x.pc)) ∧
           (∀ d ds, interlocked x w = false → x.deferred = d :: ds → wordWaits s c (operandsOf s c.val) w = false → ∃ t, run = .next t ∧
             stops t l ∧ (cl t c.val).deferred = [] ∧ (rd s Fld.CLU_FAULT_VALID c.val = 0 → d.pc < 2 ^ 64 → d.cause < 256 → d.slot < 8 →
               d.detail < 256 → records t ⟨d.cause, d.slot, d.detail⟩ 1 d.pc)))) ∧
       (fetchable s x.pc = true → cacheWay x x.pc = none → fetchAllowed s c x.pc = true → fetchHeld s x.pc = true →
         run = .next { s with out := [] }) ∧
       (fetchable s x.pc = true → cacheWay x x.pc = none → fetchAllowed s c x.pc = true → fetchHeld s x.pc = false → fe = .clean →
         x.deferred = [] → (peekLine s (offOf (BitVec.ofNat 64 x.pc))).2 = false →
         readWord (peekLine s (offOf (BitVec.ofNat 64 x.pc))).1.toNat = (⟨none, none, none, none, none, none⟩, []) → ∃ t, run = .next t ∧
         t = { s with out := [], regs := t.regs, mem := t.mem, clu := t.clu } ∧ (cl t c.val).pc = (x.pc + 64) % 2 ^ 64 ∧
         cacheWay (cl t c.val) x.pc = some (peekLine s (offOf (BitVec.ofNat 64 x.pc))).1))))

/-- A word that issues with one slot enabled does what that slot's operation says and, but for a branch, advances the pc by 64. S
and V write their result, with the poison of what they read, to their register and no other (s0 and p0 discard it); Q moves the pc
where a branch, call or jump says, and HALT ends the launch; M puts a tile in the tile section; L enters a load from a scratchpad
with its line, or a feed descriptor, command or copy in its queue; D stores its bytes in a scratchpad, no other byte changing, or
enters an atomic with the old value. Nothing else of the machine changes. -/
def Obligations.WordEffects : Prop :=
  (∀ (s : State) (c : Fin 152) de late remote,
    (let x := cl s c.val
     let o := operandsOf s c.val
     let run := exec (.wordIssue c .clean de late remote) s
     let after (w : WideWord) : Cluster := { x with
       pc := w.q.elim ((x.pc + 64) % 2 ^ 64) (nextPc o x.pc)
       merShadow := if readsMer w then BitVec.ofNat 32 (s.mer / 2 ^ 32) else x.merShadow }
     (∀ i, wordReady s c ⟨some i, none, none, none, none, none⟩ = true →
       (let w : WideWord := ⟨some i, none, none, none, none, none⟩
        let r := scalarResult o i
        let bad := i.reads.any (fun g => g.poisoned x)
        run = .next (setCl { s with out := [] } c.val
          (if r.2.1 = 0 then after w
           else if r.1 then { after w with
             pregs := KMap.set (fun _ => 0#64) x.pregs r.2.1 (BitVec.ofNat 64 r.2.2)
             ppoison := if bad then KSet.add x.ppoison r.2.1 else KSet.del x.ppoison r.2.1 }
           else { after w with
             sregs := KMap.set (fun _ => 0#64) x.sregs r.2.1 (BitVec.ofNat 64 r.2.2)
             spoison := if bad then KSet.add x.spoison r.2.1 else KSet.del x.spoison r.2.1 })))) ∧
     (∀ i, wordReady s c ⟨none, some i, none, none, none, none⟩ = true → i.isReduce = false → i.isCompare = false →
       (let w : WideWord := ⟨none, some i, none, none, none, none⟩
        let mask := if i.neg then (2 ^ 64 - 1) ^^^ o.p i.p else o.p i.p
        ∃ u, run = .next (setCl { s with out := [] } c.val { after w with
          vregs := KMap.set (fun _ => 0#2048) x.vregs i.d (BitVec.ofNat 2048 (vectorOp i ⟨o.v, o.s, mask, o.p i.pd, u⟩))
          vpoison := if vectorPoison x i mask then KSet.add x.vpoison i.d else KSet.del x.vpoison i.d }))) ∧
     (∀ i, wordReady s c ⟨none, none, none, none, none, some i⟩ = true →
       (let w : WideWord := ⟨none, none, none, none, none, some i⟩
        (∀ imm, i = .br imm → run = .next (setCl { s with out := [] } c.val { x with pc := addrOf x.pc (64 * imm) })) ∧
        (∀ a imm, i = .brz a imm → ∃ t, run = .next t ∧ t = { s with out := [], clu := t.clu } ∧
          (cl t c.val).pc = if o.s a = 0 then addrOf x.pc (64 * imm) else (x.pc + 64) % 2 ^ 64) ∧
        (∀ a imm, i = .brnz a imm → ∃ t, run = .next t ∧ t = { s with out := [], clu := t.clu } ∧
          (cl t c.val).pc = if o.s a = 0 then (x.pc + 64) % 2 ^ 64 else addrOf x.pc (64 * imm)) ∧
        (∀ d imm, i = .call d imm → d ≠ 0 → ∃ t, run = .next t ∧ t = { s with out := [], clu := t.clu } ∧
          (cl t c.val).pc = addrOf x.pc (64 * imm) ∧ KMap.get (fun _ => 0#64) (cl t c.val).sregs d = BitVec.ofNat 64 (x.pc + 64)) ∧
        (∀ a, i = .jr a → ∃ t, run = .next t ∧ t = { s with out := [], clu := t.clu } ∧ (cl t c.val).pc = o.s a) ∧
        (∀ h kind a, i = .qbind h kind a → ∃ t, run = .next t ∧ t = { s with out := [], clu := t.clu } ∧ (coreHandle (cl t c.val) h).kind = kind) ∧
        (∀ d h, i = .dpop d h → d ≠ 0 → ∃ t, run = .next t ∧ t = { s with out := [], clu := t.clu } ∧ (cl t c.val).drainQ = x.drainQ.tail ∧
          KMap.get (fun _ => 0#64) (cl t c.val).sregs d = x.drainQ.headD 0#64) ∧
        (i = .icinv → run = .next (setCl { s with out := [] } c.val { after w with icache := [] })) ∧
        (∀ f, i = .fence f ∨ i = .qnop ∨ i = .merwait f → run = .next (setCl { s with out := [] } c.val (after w))) ∧
        (∀ l, i = .halt → x.running = some l → ∃ t, run = .next t ∧ t = { s with out := [], regs := t.regs, clu := t.clu, pwr := t.pwr } ∧
          (cl t c.val).running = none ∧ (cl t c.val).lastHalt = true ∧ (cl t c.val).ending = x.ending ++ [⟨x.launchNo, l, false⟩]))) ∧
     (∀ f, wordReady s c ⟨none, none, some (.tile f), none, none, none⟩ = true → run = .next (setCl { s with out := [] } c.val
       { after ⟨none, none, some (.tile f), none, none, none⟩ with
         tiles := x.tiles ++ [readTile s c.val f (o.s f.desc) x.pc x.launchNo] })) ∧
     (∀ d a n imm k y, wordReady s c ⟨none, none, none, some (.lds d a n imm), none, none⟩ = true → de = .clean → n ≤ 8 →
       (let g := BitVec.ofNat 64 (addrOf (o.s a) imm / 64 * 64)
        scratchOpen s (.cluster c) g .lineRead k y = true → spadPoisoned s.mem k y 64 = false →
        run = .next (setCl { s with out := [] } c.val { after ⟨none, none, none, some (.lds d a n imm), none, none⟩ with
          nextId := x.nextId + 1
          loads := x.loads.map (fun l => if l.id = x.nextId then { l with parts := KMap.set (fun _ => none) l.parts 0 (some (spadBytes s.mem k y 64, false)) } else l) ++
            [⟨x.nextId, .s d, addrOf (o.s a) imm, n, [(0, some (spadBytes s.mem k y 64, false))], x.pc, false⟩] }))) ∧
     (∀ h a, wordReady s c ⟨none, none, none, some (.dma h a), none, none⟩ = true → run = .next (setCl { s with out := [] } c.val
       { after ⟨none, none, none, some (.dma h a), none, none⟩ with
         nextId := x.nextId + 1
         dma := x.dma ++ [⟨x.nextId, (dmaAt s c.val (o.s a)).1, (dmaAt s c.val (o.s a)).2.1, (dmaAt s c.val (o.s a)).2.2.1,
           (dmaAt s c.val (o.s a)).2.2.2, h, x.pc, false, false⟩] })) ∧
     (∀ h a b, wordReady s c ⟨none, none, none, some (.scmd h a b), none, none⟩ = true → ∃ t, run = .next t ∧
       t = { s with out := [], stk := t.stk, clu := t.clu } ∧ (stk t (chanStack (coreHandle x h).target)).waiting =
         (stk s (chanStack (coreHandle x h).target)).waiting ++ [commandAt s c (o.s a) (offOf (BitVec.ofNat 64 (o.s b)))]) ∧
     (∀ a b n imm k y, wordReady s c ⟨none, none, none, none, some (.sts a b n imm), none⟩ = true →
       (let g := BitVec.ofNat 64 (addrOf (o.s a) imm)
        scratchOpen s (.cluster c) g (.partialStore (natLe n (o.s b)) ((Reg3.s b).poisoned x)) k y = true → padFree s g = true → ∃ t, run = .next t ∧
        t = { s with out := [], clu := t.clu, mem := { s.mem with spad := t.mem.spad, spadPoison := t.mem.spadPoison } } ∧
        (cl t c.val).pc = (x.pc + 64) % 2 ^ 64 ∧ ∀ i, KMap.get (fun _ => 0#8) t.mem.spad i =
          if k * 2 ^ 22 + y ≤ i ∧ i < k * 2 ^ 22 + y + n then (natLe n (o.s b)).getD (i - (k * 2 ^ 22 + y)) 0#8
          else KMap.get (fun _ => 0#8) s.mem.spad i)) ∧
     (∀ op wide a b k' d k y, wordReady s c ⟨none, none, none, none, some (.amo op wide a b k' d), none⟩ = true → de = .clean →
       (Reg3.s b).poisoned x = false → (Reg3.s k').poisoned x = false → (∀ l ∈ x.loads, l.id ≠ x.nextId) →
       (let g := BitVec.ofNat 64 (o.s a)
        let old := leNat (spadBytes s.mem k y (atomicSize wide))
        scratchOpen s (.cluster c) g (.atomic op wide (BitVec.ofNat 64 (o.s b)) (BitVec.ofNat 64 (o.s k')) false) k y = true → padFree s g = true →
        spadPoisoned s.mem k y (atomicSize wide) = false → ∃ t, run = .next t ∧
        t = { s with out := [], clu := t.clu, mem := { s.mem with spad := t.mem.spad, spadPoison := t.mem.spadPoison } } ∧
        (cl t c.val).loads = x.loads ++ [⟨x.nextId, .s d, o.s a, atomicSize wide, [(0, some (natLe (atomicSize wide) old, false))], x.pc, false⟩] ∧
        spadBytes t.mem k y (atomicSize wide) = natLe (atomicSize wide) (atomicNew op wide old (o.s b % 2 ^ 64) (o.s k' % 2 ^ 64))))))

/-- KVM_ATT_WRITE enters a request, or holds it while 4,096 wait. KVM_REQUEST_ACCEPT takes the oldest request that R286 does not
hold (with none it changes nothing): refused, it sets ERR, records its code and sequence where VALID was clear, and leaves the
queue; accepted, it becomes a run with its fields and tokens once its pages are there. KVM_DISPATCH sends a ready item of a run to
the stack's command queue and changes no other stack. KVM_REQUEST_COMPLETE removes a run with nothing left to do and raises its
completion count by one. -/
def Obligations.AttentionRequests : Prop :=
  (∀ (s : State) who (a : GAddr), hubOpen s who = true → exec (.kvmAttWrite who a) s = .next { s with
    out := [⟨some who, .done⟩]
    kvm := { s.kvm with
      queue := if 4096 ≤ s.kvm.queue.length then s.kvm.queue else s.kvm.queue ++ [⟨who, a.toNat, stepTag s who⟩]
      held := if 4096 ≤ s.kvm.queue.length then s.kvm.held ++ [⟨who, a.toNat, stepTag s who⟩] else s.kvm.held } }) ∧
  (∀ (s : State) remote,
    (nextAtt s = none → exec (.kvmRequestAccept remote) s = .next { s with out := [] }) ∧
    (∀ e rest b p, nextAtt s = some (e, rest) → readFrom (quiet s) e.who e.addr 64 remote = some (b, p) →
      (let r := parseAtt b
       let d := (readDesc (quiet s) r.seq).1
       let code := if e.addr % 64 ≠ 0 then 6 else attRefusal (quiet s) e r d
       (code ≠ 0 → cplValid s r.cpl = false ∨ s.mem.formOk = true ∧ countReady s e.who r.cpl = true → ∃ t,
         exec (.kvmRequestAccept remote) s = .next t ∧
         t = { s with out := [], regs := t.regs, mem := t.mem, load := t.load, seq := t.seq, kvm := t.kvm } ∧
         rd t Fld.KVM_EVENT_ERR = 1 ∧ (rd s Fld.KVM_ERR_VALID = 0 → code < 8 → r.seq < 2 ^ 18 →
           rd t Fld.KVM_ERR_VALID = 1 ∧ rd t Fld.KVM_ERR_CODE = code ∧ rd t Fld.KVM_ERR_SEQ_SEQ = r.seq) ∧
         (rd s Fld.KVM_ERR_VALID = 1 → rd t Fld.KVM_ERR_OVERRUN = 1 ∧ rd t Fld.KVM_ERR_CODE = rd s Fld.KVM_ERR_CODE) ∧
         t.kvm = { s.kvm with queue := rest ++ s.kvm.held.take (4096 - rest.length), held := s.kvm.held.drop (4096 - rest.length) } ∧
         (cplValid s r.cpl = true → ∀ i, peekByte t i = countByte s r.cpl (2 ^ 32) i)) ∧
       (∀ qs u v, code = 0 → readQueries (quiet s) (kvmFor d.tenant) r.qaddr (64 * (1 + (geomRec d.geom).qloadLines))
           (remote.drop (remoteUsed s e.addr 64)) r.qn 0 = some qs →
         needAll ((e.tag.map (·.1)).getD 256) ((e.tag.map (·.2)).getD 0) r.seq d (neededPages (quiet s) d r.layer r.head r.napp) (quiet s) = (u, true) →
         prepareAll r.seq d (neededPages (quiet s) d r.layer r.head r.napp) u = some v → ∃ t run, exec (.kvmRequestAccept remote) s = .next t ∧
         t = { v with kvm := t.kvm } ∧ t.kvm = { v.kvm with
           nextId := v.kvm.nextId + 1
           runs := v.kvm.runs ++ [run]
           trees := t.kvm.trees
           walk := t.kvm.walk
           leafCache := t.kvm.leafCache
           queue := rest ++ v.kvm.held.take (4096 - rest.length)
           held := v.kvm.held.drop (4096 - rest.length) } ∧
         (run.id, run.tag, run.seq, run.layer, run.head, run.qn, run.mode) = (v.kvm.nextId, e.tag, r.seq, r.layer, r.head, r.qn, r.mode) ∧
         (run.queries, run.dest, run.cpl, run.tenant, run.geom, run.lc, run.v) = (qs, r.dest, some r.cpl, d.tenant, d.geom, d.lc, d.lc + r.napp) ∧
         run.todo = (if d.hkv = true then [] else requestTodo v d r)))) ∧
  (∀ (s : State) (n : Fin 12) remote,
    (let z := absorb (quiet s)
     ((∀ r ∈ z.kvm.runs, ∀ x, runHeadItem r n.val = some x → itemReady z r x.1 = false) → exec (.kvmDispatch n remote) s = .next z) ∧
     (∀ r x rest, (runOrder z).find? (fun r => (runHeadItem r n.val).any (fun y => itemReady z r y.1)) = some r → runHeadItem r n.val = some (x, rest) →
       ∃ r', r' = { r with slots := r'.slots } ∧ (r.slots ≠ [] → r'.slots = r.slots) ∧
       (∀ c, itemCmd z r' remote x = some c → ∃ t, exec (.kvmDispatch n remote) s = .next t ∧ t = { z with stk := t.stk, kvm := { z.kvm with runs := t.kvm.runs } } ∧
         stk t n.val = { stk s n.val with waiting := (stk s n.val).waiting ++ [c] } ∧ ∀ m, m ≠ n.val → stk t m = stk s m) ∧
       (itemCmd z r' remote x = none → ∃ t, exec (.kvmDispatch n remote) s = .next t ∧ t = { z with kvm := { z.kvm with runs := t.kvm.runs } })))) ∧
  (∀ (s : State) remote,
    (let z := absorb (quiet s)
     (z.kvm.runs.find? (fun r => decide (r.todo = [] ∧ r.open_ = 0)) = none → exec (.kvmRequestComplete remote) s = .next z) ∧
     (∀ r, z.kvm.runs.find? (fun r => decide (r.todo = [] ∧ r.open_ = 0)) = some r → r.hkv = false → r.score = false →
       (∀ n, r.cpl = some n → r.poison = false → s.mem.formOk = true → countReady s (kvmFor r.tenant) n = true → ∃ t,
         exec (.kvmRequestComplete remote) s = .next t ∧ t = { z with
           mem := t.mem
           load := t.load
           seq := t.seq
           kvm := { z.kvm with runs := z.kvm.runs.filter (fun x => decide (x.id ≠ r.id)) } } ∧
         (r.bad = false → t.seq = s.seq) ∧ ∀ i, peekByte t i = countByte s n 1 i) ∧
       (∀ l k, r.cpl = none → r.tag = some (l, k) → ∃ t, exec (.kvmRequestComplete remote) s = .next t ∧
         t = { z with seq := { s.seq with loops := t.seq.loops }, kvm := { z.kvm with runs := z.kvm.runs.filter (fun x => decide (x.id ≠ r.id)) } } ∧
         (loopOf t l).steps = (loopOf s l).steps.map (fun y =>
           if y.num = k then { y with fixups := y.fixups - 1, failed := y.failed || r.bad } else y))))))

/-- FRAME_ZEROED changes nothing for a frame that does not wait for it or is still named; else every row of the frame reads zero,
no other row changes, and the frame is free. SWAP_OUT_START takes the oldest waiting swap-out when none runs, pre-empting its
sequence in its descriptor. SWAP_PAGE_OUT passes over a shared page, ends with state 2 after the last page, and with state 3 where
the tenant has no key or no room; else the page takes room in the region. SWAP_IN_PAGE places a page that reads, decrypts and
checks, frees its room in the region, and a page that does not read or does not check ends the swap-in with its event. -/
def Obligations.KvMaintenance : Prop :=
  (∀ (s : State) (u : Fin 8192) (f : Fin 65536),
    (pairOf s u.val = none → exec (.frameZeroed u f) s = .next { s with out := [] }) ∧
    (∀ p, pairOf s u.val = some p →
      (let g := geomRec p.geom
       let base := f.val * g.frameRows
       (p.zeroing.contains f.val = false ∨ frameInUse s u.val base = true ∨ stackClosed s (unitStack u.val) = true →
         exec (.frameZeroed u f) s = .next { s with out := [] }) ∧
       (p.zeroing.contains f.val = true → frameInUse s u.val base = false → stackClosed s (unitStack u.val) = false → base + g.frameRows ≤ 65536 → ∃ t,
         exec (.frameZeroed u f) s = .next t ∧
         t = { s with
           out := []
           kvm := { s.kvm with pairs := t.kvm.pairs }
           mem := { s.mem with dram := t.mem.dram, written := t.mem.written, poison := t.mem.poison } } ∧
         pairOf t u.val = (if p.refs = [] ∧ KSet.del p.zeroing f.val = [] then none else some { p with zeroing := KSet.del p.zeroing f.val }) ∧
         (∀ r < g.rows, frameRow t u.val base r = List.replicate 1024 0#8) ∧
         ∀ n chan pc bank k, n < 12 → chan < 64 → pc < 2 → bank < 16 → k < 65536 →
           (∀ r < g.rows, (n, chan, pc, bank, k) ≠
             (unitStack u.val, u.val % 1024 / 16, u.val / 8 % 2, 2 * (u.val % 8) + (pageRowAt base r).1, (pageRowAt base r).2)) →
           readRow t n chan pc bank k = readRow s n chan pc bank k)))) ∧
  (∀ s : State,
    (s.kvm.swapOut ≠ none ∨ s.kvm.swaps = [] → exec .swapOutStart s = .next { s with out := [] }) ∧
    (∀ j rest, s.kvm.swapOut = none → s.kvm.swaps = j :: rest → descOpen s j.seq = true → j.seq < 2 ^ 18 → ∃ t, exec .swapOutStart s = .next t ∧
      (let d := (readDesc (quiet s) j.seq).1
       t = { s with out := [], regs := t.regs, mem := t.mem, load := t.load, kvm := { s.kvm with swapOut := some j, swaps := rest } } ∧
       peekLine t (offOf (BitVec.ofNat 64 (descAddr s j.seq))) =
         (lineOf (descLow { d with state := 4, swapGen := (d.swapGen + 1) % 2 ^ 32 }), false) ∧
       rd t Fld.KVM_SWAP_STATUS_STATE = 1 ∧ rd t Fld.KVM_SWAP_STATUS_SEQ = j.seq))) ∧
  (∀ (s : State) (bad : Bool),
    (s.kvm.swapOut = none → exec (.swapPageOut bad) s = .next { s with out := [] }) ∧
    (∀ j, s.kvm.swapOut = some j → j.pages = [] → ∃ t, exec (.swapPageOut bad) s = .next t ∧
      t = { s with out := [], regs := t.regs, kvm := { s.kvm with swapOut := none } } ∧
      rd t Fld.KVM_SWAP_STATUS_STATE = 2 ∧ rd t Fld.KVM_EVENT_SWAP_END = 1) ∧
    (∀ j p rest, s.kvm.swapOut = some j → j.pages = p :: rest →
      (let d := (readDesc (quiet s) j.seq).1
       let e := (leafEntry (quiet s) d p).1
       let rows := (geomRec d.geom).rows
       let room := firstFit (usedOf s.kvm.swapUsed d.tenant) (swapRegion (quiet s) d.tenant).2.1 rows
       let key := KMap.get (fun _ => none) s.sec.keys d.tenant
       let left (t : State) : Prop := (rest ≠ [] → t.kvm.swapOut = some { j with pages := rest }) ∧
         (rest = [] → t.kvm.swapOut = none ∧ rd t Fld.KVM_SWAP_STATUS_STATE = 2 ∧ rd t Fld.KVM_EVENT_SWAP_END = 1)
       ((eShared e = true ∨ eState e ≠ 1 ∧ eState e ≠ 5) → ∃ t, exec (.swapPageOut bad) s = .next t ∧
         t = { s with out := [], regs := t.regs, kvm := { s.kvm with swapOut := t.kvm.swapOut } } ∧ left t) ∧
       (eShared e = false → eState e = 1 ∨ eState e = 5 →
         (key = none ∨ room = none → ∃ t, exec (.swapPageOut bad) s = .next t ∧
           t = { s with out := [], regs := t.regs, kvm := { s.kvm with swapOut := none } } ∧
           rd t Fld.KVM_SWAP_STATUS_STATE = 3 ∧ rd t Fld.KVM_EVENT_SWAP_END = 1) ∧
         (∀ o, key ≠ none → room = some o → ∃ t, exec (.swapPageOut bad) s = .next t ∧
           t.kvm.swapUsed = s.kvm.swapUsed ++ [(d.tenant, o, rows)] ∧ left t ∧
           (t.clu, t.stk, t.img, t.irq, t.seq, t.sec, t.pwr, t.saf, t.ns) = (s.clu, s.stk, s.img, s.irq, s.seq, s.sec, s.pwr, s.saf, s.ns)))))) ∧
  (∀ (s : State) rows,
    (s.kvm.swapIn = [] → exec (.swapInPage rows) s = .next { s with out := [] }) ∧
    (∀ j others, s.kvm.swapIn = j :: others →
      (let d := (readDesc (quiet s) j.seq).1
       let failed (t : State) : Prop := rd t Fld.KVM_EVENT_SWAPIN_FAIL = 1 ∧
         t.kvm.swapIn = s.kvm.swapIn.filter (fun x => decide (x.seq ≠ j.seq)) ∧
         (loopOf t d.loop).notices = (loopOf s d.loop).notices ++ [⟨j.seq, 5, 0, 0x609, []⟩]
       (j.pages = [] → descOpen s j.seq = true → ∃ t, exec (.swapInPage rows) s = .next t ∧
         t = { s with out := [], mem := t.mem, load := t.load, kvm := { s.kvm with swapIn := others } } ∧
         peekLine t (offOf (BitVec.ofNat 64 (descAddr s j.seq))) = (lineOf (descLow { d with state := resumeState d }), false)) ∧
       (∀ p rest, j.pages = p :: rest →
         (eState (leafEntry (quiet s) d p).1 ≠ 4 → rest ≠ [] → exec (.swapInPage rows) s =
           .next { s with out := [], kvm := { s.kvm with swapIn := { j with pages := rest } :: others } }) ∧
         (eState (leafEntry (quiet s) d p).1 = 4 → rows = none ∨ KMap.get (fun _ => none) s.sec.keys d.tenant = none → ∃ t,
           exec (.swapInPage rows) s = .next t ∧ failed t) ∧
         (∀ b key u x, eState (leafEntry (quiet s) d p).1 = 4 → rows = some b → KMap.get (fun _ => none) s.sec.keys d.tenant = some key →
           placeNew (quiet s) j.seq d p = some (u, x) → rest ≠ [] → ∃ t, exec (.swapInPage rows) s = .next t ∧
           if b.length = 1024 * (geomRec d.geom).rows ∧ checksumOk (geomRec d.geom) ((List.range (geomRec d.geom).rows).map (fun r =>
             Config.xtsDecrypt key (swapTweak j.seq d p r) (slice b (1024 * r) 1024))) = true
           then t.kvm.swapIn = { j with pages := rest } :: others ∧ t.kvm.pairs = u.kvm.pairs ∧
             t.kvm.swapUsed = s.kvm.swapUsed.filter (fun y => !decide (y.1 = d.tenant ∧ y.2.1 = eSwap (leafEntry (quiet s) d p).1)) ∧
             (t.clu, t.stk, t.img, t.irq, t.seq, t.sec, t.pwr, t.saf, t.ns) = (s.clu, s.stk, s.img, s.irq, s.seq, s.sec, s.pwr, s.saf, s.ns)
           else failed t)))))

/-- SUBQ_DOORBELL and LOOP_RESTART act for a requester of the loop alone. SUBMISSION_READ reads nothing while the ring has no
legal size, is empty, or the loop is barred; an entry with an undefined kind is recorded in SEQ_LERR, a TURN of an IDLE sequence
makes its descriptor PREFILL with the prompt, a CANCEL marks the descriptor, a RELEASE of a sequence held by a step is kept for
its commit, and each moves HEAD by one. WINDOW_ARM refuses a window that is too short (status 4) or past (5) and otherwise arms
it; WINDOW_OPEN and WINDOW_DONE follow the meridian count. EMPTY_WINDOW_PERIOD counts an empty window of the template,
TOKSHARE_BOUNDARY starts a tenant's share anew. -/
def Obligations.SubmissionsAndWindows : Prop :=
  (∀ (s : State) who (l : Fin 256), hubOpen s who = true →
    (∀ tail : BitVec 32, ∃ t, exec (.subqDoorbell who l tail) s = .next t ∧
      t = { s with out := [⟨some who, .done⟩], regs := if mayLoop s who l.val then s.regs.setF Fld.SEQ_SUBQ_TAIL_INDEX tail.toNat l.val else s.regs }) ∧
    (∃ t, exec (.loopRestart who l) s = .next t ∧
      t = { s with out := [⟨some who, .done⟩], regs := t.regs, irq := { s.irq with active := t.irq.active }, seq := { s.seq with loops := t.seq.loops } } ∧
      rd t Fld.SEQ_LCTRL_EN l.val = rd s Fld.SEQ_LCTRL_EN l.val ∧
      loopOf t l.val = (if mayLoop s who l.val then { loopOf s l.val with stopped := false } else loopOf s l.val) ∧
      ∀ k, k ≠ l.val → loopOf t k = loopOf s k) ∧
    ((loopRec s.img l.val).isNone = true ∨ mayLoop s who l.val = false →
      exec (.windowArm who l) s = .next { s with out := [⟨some who, .done⟩] }) ∧
    ((loopRec s.img l.val).isNone = false → mayLoop s who l.val = true → ∃ t, exec (.windowArm who l) s = .next t ∧
      t = { s with out := [⟨some who, .done⟩], regs := t.regs, seq := { s.seq with loops := t.seq.loops } } ∧
      (let a := rd64 s Fld.SEQ_WSTART_LO_COUNT Fld.SEQ_WSTART_HI_COUNT l.val
       let b := rd64 s Fld.SEQ_WSTOP_LO_COUNT Fld.SEQ_WSTOP_HI_COUNT l.val
       let f := Nat.max a s.mer
       let short := b ≤ a ∨ b - a < 256
       let past := b ≤ s.mer ∨ b ≤ (f + 255) / 256 * 256
       (short → (loopOf t l.val).oneShot = none ∧ rd t Fld.SEQ_WINCTRL_STATUS l.val = 4 ∧ rd t Fld.SEQ_WINCTRL_ARM l.val = 0) ∧
       (¬short → past → (loopOf t l.val).oneShot = none ∧ rd t Fld.SEQ_WINCTRL_STATUS l.val = 5 ∧ rd t Fld.SEQ_WINCTRL_ARM l.val = 0) ∧
       (¬short → ¬past → (loopOf t l.val).oneShot = some ⟨f, b⟩ ∧ rd t Fld.SEQ_WINCTRL_ARM l.val = 1 ∧
         rd t Fld.SEQ_WINCTRL_STATUS l.val = if f ≤ s.mer then 2 else 1)))) ∧
  (∀ (s : State) (l : Fin 256) supply,
    (let size := rd s Fld.SEQ_SUBQ_SIZE_ENTRIES l.val
     let head := rd s Fld.SEQ_SUBQ_HEAD_INDEX l.val
     let run := exec (.submissionRead l supply) s
     (loopRec s.img l.val = none ∨ isPow2 size = false ∨ size < 16 ∨ 2 ^ 20 < size ∨ (loopOf s l.val).barred = true ∨
       rd s Fld.SEQ_SUBQ_TAIL_INDEX l.val = head → run = .next { s with out := [] }) ∧
     (∀ r b bad, loopRec s.img l.val = some r → isPow2 size = true → 16 ≤ size → size ≤ 2 ^ 20 → (loopOf s l.val).barred = false →
       rd s Fld.SEQ_SUBQ_TAIL_INDEX l.val = (head + 1) % 2 ^ 32 → readFrom (quiet s) (kvmFor r.tenant)
         (rd64 s Fld.SEQ_SUBQ_LO_ADDR Fld.SEQ_SUBQ_HI_ADDR l.val + 32 * (head % size)) 32 [] = some (b, bad) →
       (let n := fieldOf b 4 4
        let d := (readDesc (quiet s) n).1
        let mine := (tenantSeqs s r.tenant).contains n
        let plain := fieldOf b 1 1 = 0 ∧ fieldOf b 2 2 = 0 ∧ fieldOf b 24 8 = 0
        let bare := plain ∧ fieldOf b 8 8 = 0 ∧ fieldOf b 16 4 = 0 ∧ fieldOf b 20 4 = 0
        let desc (t : State) (x : SeqDesc) : Prop := peekLine t (offOf (BitVec.ofNat 64 (descAddr s n))) = (lineOf (descLow x), false)
        ((fieldOf b 0 1 = 0 ∨ 5 < fieldOf b 0 1 ∨ mine = false) → mine = false ∨ d.tenant ≠ r.tenant → ∃ t, run = .next t ∧
          t = { s with out := [], regs := t.regs } ∧ rd t Fld.SEQ_SUBQ_HEAD_INDEX l.val = (head + 1) % 2 ^ 32 ∧
          (rd s Fld.SEQ_LERR_VALID l.val = 0 → rd t Fld.SEQ_LERR_VALID l.val = 1 ∧ rd t Fld.SEQ_LERR_SEQ l.val = n % 2 ^ 18) ∧
          (rd s Fld.SEQ_LERR_VALID l.val = 1 → rd t Fld.SEQ_LERR_OVERRUN l.val = 1)) ∧
        (fieldOf b 0 1 = 2 → bad = false → plain → mine = true → d.state = 3 → fieldOf b 16 4 ≤ d.lmax → 0 < fieldOf b 20 4 → fieldOf b 20 4 ≤ d.lmax →
          descOpen s n = true → ∃ t, run = .next t ∧ rd t Fld.SEQ_SUBQ_HEAD_INDEX l.val = (head + 1) % 2 ^ 32 ∧
          t = { s with out := [], regs := t.regs, mem := t.mem, load := t.load, seq := { s.seq with loops := t.seq.loops } } ∧
          n ∈ (loopOf t d.loop).prefill ∧
          desc t { d.setFlag 3 false with state := 1, prompt := fieldOf b 8 8, pleft := fieldOf b 16 4, gleft := fieldOf b 20 4 }) ∧
        (fieldOf b 0 1 = 3 → bad = false → bare → mine = true → d.live = true → d.state ≠ 3 → descOpen s n = true → ∃ t, run = .next t ∧
          t = { s with out := [], regs := t.regs, mem := t.mem, load := t.load } ∧ rd t Fld.SEQ_SUBQ_HEAD_INDEX l.val = (head + 1) % 2 ^ 32 ∧
          desc t (d.setFlag 4 true)) ∧
        (fieldOf b 0 1 = 4 → bad = false → bare → mine = true → d.live = true → inAnyStep s n = true → ∃ t, run = .next t ∧
          t = { s with out := [], regs := t.regs, seq := { s.seq with loops := t.seq.loops } } ∧
          rd t Fld.SEQ_SUBQ_HEAD_INDEX l.val = (head + 1) % 2 ^ 32 ∧ n ∈ (loopOf t d.loop).releases))))) ∧
  (∀ (s : State) (l : Fin 256),
    (let w := (loopOf s l.val).oneShot
     (∀ x, w = some x → x.from_ ≤ s.mer → s.mer < x.stop → exec (.windowOpen l) s = .next (wr { s with out := [] } Fld.SEQ_WINCTRL_STATUS 2 l.val)) ∧
     ((∀ x, w = some x → s.mer < x.from_ ∨ x.stop ≤ s.mer) → exec (.windowOpen l) s = .next { s with out := [] }) ∧
     (∀ x, w = some x → x.stop ≤ s.mer → ∃ t, exec (.windowDone l) s = .next t ∧
       t = { s with out := [], regs := t.regs, seq := { s.seq with loops := t.seq.loops } } ∧ (loopOf t l.val) = { loopOf s l.val with oneShot := none } ∧
       rd t Fld.SEQ_WINCTRL_STATUS l.val = 3 ∧ rd t Fld.SEQ_WINCTRL_ARM l.val = 0) ∧
     ((∀ x, w = some x → s.mer < x.stop) → exec (.windowDone l) s = .next { s with out := [] }))) ∧
  (∀ (s : State) (w : BitVec 12), ∃ t, exec (.emptyWindowPeriod w) s = .next t ∧ t = { s with out := [], regs := t.regs } ∧
    (∀ x, s.img.template.windows[w.toNat]? = some x → x.stop ≤ x.start → rd64 t Fld.SEQ_EMPTY_LO_COUNT Fld.SEQ_EMPTY_HI_COUNT =
      (rd64 s Fld.SEQ_EMPTY_LO_COUNT Fld.SEQ_EMPTY_HI_COUNT + 1) % 2 ^ 64) ∧
    ((∀ x, s.img.template.windows[w.toNat]? = some x → x.start < x.stop) → t.regs = s.regs)) ∧
  (∀ (s : State) (n : Fin 1024), exec (.tokshareBoundary n) s = .next { s with
    out := []
    seq := { s.seq with
      tokUsed := KMap.set (fun _ => 0) s.seq.tokUsed n.val 0
      tokShare := KMap.set (fun _ => 0) s.seq.tokShare n.val (rd s Fld.SEQ_TTOK_TOKSHARE n.val) } })

/-- Each command of a step changes nothing while its conditions do not hold. STEP_ADMIT appends one step with the loop's next
number and its batch. STEP_LAUNCH and REPLAY_LAUNCH enter the program, with the step's buffer and number, in the queue of every
leaf. SAMPLE takes the result of every entry and moves the step on. COMMIT_CHECK posts the fix-ups of a step that passes, and
discards one that fails, counting the replay, or stops the loop at its limit. COMMIT_POINT takes the step off its loop, its staged
results gone, and SEQ_STEP takes its number at once or when the writes it waits for are done. SHADOW_ROOM_WAIT without room in
time ends shadowing. -/
def Obligations.ServingSteps : Prop :=
  (∀ (s : State) (l : Fin 256) heads,
    (loopRec s.img l.val = none → exec (.stepAdmit l heads) s = .next { s with out := [] }) ∧
    (∀ r, loopRec s.img l.val = some r →
      (mayAdmit s r = false ∨ windowOpen s l.val = false ∨ clustersTaken s l.val = true → exec (.stepAdmit l heads) s = .next { s with out := [] }) ∧
      (mayAdmit s r = true → windowOpen s l.val = true → clustersTaken s l.val = false → (loopOf s l.val).ran < r.runMax →
        (let z := startSwapIns (retryParked (quiet s) r ((loopOf s l.val).lastStep + 1)) r
         let b := batchOf z r heads
         (b.entries = [] → ∃ t, exec (.stepAdmit l heads) s = .next t ∧ t = { z with regs := t.regs }) ∧
         (b.entries ≠ [] → filled z r b = true → ∃ t y, exec (.stepAdmit l heads) s = .next t ∧
           (loopOf t l.val).steps.getLast? = some y ∧ (loopOf t l.val).steps.length = (loopOf z l.val).steps.length + 1 ∧
           (y.num, y.phase, y.entries, y.tokens, y.launch) = ((loopOf z l.val).lastStep + 1, StepPhase.admission, b.entries, b.tokens, none) ∧
           (loopOf t l.val).lastStep = (loopOf z l.val).lastStep + 1 ∧ (loopOf t l.val).holds = true ∧ (t.img, t.clu, t.stk, t.ns) = (s.img, s.clu, s.stk, s.ns)))))) ∧
  (∀ (s : State) (l : Fin 256),
    (let ls := loopLeaves s.img l.val
     let launched (t : State) (r : LoopRec) (x : Step) : Prop :=
       t = { s with out := [], clu := t.clu, seq := t.seq } ∧
       (loopOf t l.val).steps = (loopOf s l.val).steps.map (fun y => if y.num = x.num then { y with phase := .run, launch := some s.seq.nextRun } else y) ∧
       (∀ e ∈ ls.zipIdx, cl t e.1 = { cl s e.1 with queue := (cl s e.1).queue ++ [⟨r.entry, bufferOf r x.num, x.num % 2 ^ 32, false,
         some (bufferOf r x.num + 24), some (r.con, s.seq.nextRun), e.2, ls.length, (conTenant s.img r.con).getD 0xFFFF, some (l.val, x.num), none⟩] }) ∧
       ∀ c, c ∉ ls → cl t c = cl s c
     let clear := ls.Nodup ∧ (∀ c ∈ ls, deadLaunch s c = false)
     let room := (loopOf s l.val).saved = false ∧ ∀ c ∈ ls, queueFull s c = false ∧ clusterOff s c = false
     (loopRec s.img l.val = none ∨ (∀ x ∈ (loopOf s l.val).steps, x.phase ≠ .admission) → exec (.stepLaunch l) s = .next { s with out := [] }) ∧
     (∀ r x, loopRec s.img l.val = some r → (loopOf s l.val).steps.find? (fun y => decide (y.phase = .admission)) = some x → clear →
       ((loopOf s l.val).holds = false ∨ ¬room → exec (.stepLaunch l) s = .next { s with out := [] }) ∧
       ((loopOf s l.val).holds = true → room → ∃ t, exec (.stepLaunch l) s = .next t ∧ launched t r x)) ∧
     (loopRec s.img l.val = none ∨ (∀ x ∈ (loopOf s l.val).steps, x.phase ≠ .discard) → exec (.replayLaunch l) s = .next { s with out := [] }) ∧
     (∀ r x, loopRec s.img l.val = some r → (loopOf s l.val).steps.find? (fun y => decide (y.phase = .discard)) = some x →
       (recovering s l.val = true ∨ requestsOpen s l.val x.num = true ∨ (loopOf s l.val).stopped = true →
         exec (.replayLaunch l) s = .next { s with out := [] }) ∧
       (recovering s l.val = false → requestsOpen s l.val x.num = false → (loopOf s l.val).stopped = false → clear → room →
         (loopOf s l.val).holds = true ∨ clustersTaken s l.val = false → ∃ t, exec (.replayLaunch l) s = .next t ∧ launched t r x ∧
         (loopOf t l.val).holds = true)))) ∧
  (∀ (s : State) (l : Fin 256) lasts,
    (loopRec s.img l.val = none ∨ (∀ x ∈ (loopOf s l.val).steps, x.phase ≠ .run) → exec (.sample l lasts) s = .next { s with out := [] }) ∧
    (∀ r x, loopRec s.img l.val = some r → (loopOf s l.val).steps.find? (fun y => decide (y.phase = .run)) = some x →
      (x.launch.isSome = true → exec (.sample l lasts) s = .next { s with out := [] }) ∧
      (x.launch = none → ∃ t, exec (.sample l lasts) s = .next t ∧ t = { s with out := [], seq := { s.seq with loops := t.seq.loops } } ∧
        (let os := (x.entries.filter (fun e => e.kind ≠ 1 && !x.left.contains e.seq)).map (fun e =>
           sampleEntry (quiet s) r x.num e ((lasts.find? (fun y => decide (y.1 = e.seq))).map (·.2.toNat)))
         (loopOf t l.val).steps = (loopOf s l.val).steps.map (fun y => if y.num = x.num then { y with
           phase := if (loopOf s l.val).steps.head?.any (fun u => decide (u.num = x.num)) then .commit else .sample
           failed := y.failed || os.any Option.isNone
           outcomes := os.filterMap (fun o => o) } else y))))) ∧
  (∀ (s : State) (l : Fin 256) x later, (loopOf s l.val).steps = x :: later →
    (let max := ((loopRec s.img l.val).map (·.replayMax)).getD 1
     let discarded (t : State) : Prop := later = [] →
       rd t Fld.SEQ_REPLAYS_COUNT l.val = Nat.min (rd s Fld.SEQ_REPLAYS_COUNT l.val + 1) (2 ^ 32 - 1) ∧ (loopOf t l.val).lastStep = x.num ∧
       (x.runs + 1 < max → (loopOf t l.val).steps = [{ x with phase := .discard, runs := x.runs + 1, failed := false, outcomes := [], fixups := 0, launch := none }]) ∧
       (max ≤ x.runs + 1 → (loopOf t l.val).steps = [] ∧ (loopOf t l.val).stopped = true ∧ rd t Fld.SEQ_LSTAT_STOPPED l.val = 1)
     (x.phase ≠ .commit ∨ commitBarred s = true ∨ requestsOpen s l.val x.num = true → exec (.commitCheck l) s = .next { s with out := [] }) ∧
     (x.phase = .commit → commitBarred s = false → requestsOpen s l.val x.num = false →
       (checksFail (quiet s) x = true → ∃ t, exec (.commitCheck l) s = .next t ∧ discarded t) ∧
       (checksFail (quiet s) x = false → (later.map (·.num)).contains x.num = false → ∃ t n, exec (.commitCheck l) s = .next t ∧
         t = { s with
           out := []
           seq := { s.seq with loops := t.seq.loops }
           kvm := { s.kvm with nextId := s.kvm.nextId + n, runs := t.kvm.runs } } ∧
         t.kvm.runs.length = s.kvm.runs.length + n ∧ t.kvm.runs.take s.kvm.runs.length = s.kvm.runs ∧
         (loopOf t l.val).steps = { x with phase := .fixup, fixups := n } :: later)) ∧
     (x.phase ≠ .fixup ∨ x.fixups ≠ 0 ∨ commitBarred s = true ∨ (loopOf s l.val).due.isSome = true →
       exec (.commitPoint l) s = .next { s with out := [] }) ∧
     (x.phase = .fixup → x.fixups = 0 → commitBarred s = false → (loopOf s l.val).due = none →
       (x.failed = true → ∃ t, exec (.commitPoint l) s = .next t ∧ discarded t) ∧
       (x.failed = false → x.num < 2 ^ 64 → ∃ t, exec (.commitPoint l) s = .next t ∧
         (loopOf t l.val).steps.map (·.num) = later.map (·.num) ∧ (∀ y ∈ t.kvm.staged, y.tag ≠ some (l.val, x.num)) ∧
         (∀ y ∈ t.kvm.trees, y.tag ≠ some (l.val, x.num)) ∧
         ((loopOf t l.val).due = some x.num ∨
           (loopOf t l.val).due = none ∧ rd64 t Fld.SEQ_STEP_LO_STEP Fld.SEQ_STEP_HI_STEP l.val = x.num) ∧
         (t.img, t.clu, t.stk, t.ns) = (s.img, s.clu, s.stk, s.ns))))) ∧
  (∀ (s : State) (l : Fin 256), (loopOf s l.val).steps = [] →
    exec (.commitCheck l) s = .next { s with out := [] } ∧ exec (.commitPoint l) s = .next { s with out := [] }) ∧
  (∀ (s : State) head,
    (s.fab.shadowPending = [] → exec (.shadowRoomWait head) s = .next { s with out := [] }) ∧
    (s.fab.shadowPending ≠ [] → s.fab.shadowing = true → head = none → ∃ t, exec (.shadowRoomWait head) s = .next t ∧
      t.fab.shadowing = false ∧ t.fab.shadowPending = [] ∧ rd t Fld.FAB_BUDDY_LOST = 1 ∧ rd t Fld.FAB_EVENT_SHADOW_LOST = 1) ∧
    (∀ h : BitVec 64, head = some h → s.fab.shadowPending ≠ [] → (∀ e ∈ s.seq.loops, e.2.due = none) →
      exec (.shadowRoomWait head) s = .next (shadowPump { s with out := [], fab := { s.fab with shadowHead := h.toNat } })))

/-- LOOP_SWITCH passes the clusters from a holder that yields to the next loop, and queues the save of every leaf; CONTEXT_SAVE
keeps one leaf's context and resets the cluster, CONTEXT_RESTORE puts the kept contexts back on the leaves of a loop that holds
its clusters again. LOOP_PREEMPT asks the running leaves of holders without PREEMPT to stop. QUOTA_STEP_BOUNDARY changes nothing
for a tenant within its quota; over it, it evicts a page where eviction is on, or pre-empts a sequence. Where their conditions do
not hold, they change nothing. -/
def Obligations.SharedClustersAndQuotas : Prop :=
  (∀ (s : State) (l : Fin 256) heads,
    (loopRec s.img l.val = none ∨ nextLoop (quiet s) l.val heads = none → exec (.loopSwitch l heads) s = .next { s with out := [] }) ∧
    (∀ r k, loopRec s.img l.val = some r → nextLoop (quiet s) l.val heads = some k →
      ((loopOf s l.val).holds = false ∨ mayHandOver s l.val = false ∨ yields (quiet s) r heads k = false →
        exec (.loopSwitch l heads) s = .next { s with out := [] }) ∧
      ((loopOf s l.val).holds = true → mayHandOver s l.val = true → yields (quiet s) r heads k = true → ∃ t, exec (.loopSwitch l heads) s = .next t ∧
        (let n := (loopLeaves s.img l.val).length
         t = { s with
           out := []
           regs := t.regs
           seq := { s.seq with
             loops := t.seq.loops
             saving := s.seq.saving ++ (List.range n).map (fun i => (l.val, i))
             saveTotal := n * 2 ^ 22 } } ∧
         loopOf t l.val = { loopOf s l.val with holds := false, ran := 0, saved := true } ∧
         loopOf t k = { loopOf s k with holds := true, ran := 0 } ∧ ∀ j, j ≠ l.val → j ≠ k → loopOf t j = loopOf s j)))) ∧
  (∀ s : State,
    (s.seq.saving = [] → exec .contextSave s = .next { s with out := [] }) ∧
    (∀ l leaf rest r c, s.seq.saving = (l, leaf) :: rest → loopRec s.img l = some r → (loopLeaves s.img l)[leaf]? = some c → ∃ t,
      exec .contextSave s = .next t ∧ t.seq.saving = rest ∧
      t.seq.contexts = KMap.set (fun _ => none) s.seq.contexts (l * 256 + leaf) (some (cl s c)) ∧
      cl t c = { Cluster.reset with launchNo := (cl s c).launchNo, nextId := (cl s c).nextId } ∧ (∀ d, d ≠ c → cl t d = cl s d) ∧
      rd t Fld.CLU_ARR_STATUS_PREEMPT c = 0 ∧ (t.img, t.stk, t.kvm, t.sec, t.pwr, t.saf, t.ns) = (s.img, s.stk, s.kvm, s.sec, s.pwr, s.saf, s.ns))) ∧
  (∀ (s : State) (l : Fin 256),
    (loopRec s.img l.val = none ∨ (loopOf s l.val).saved = false ∨ s.seq.saving ≠ [] ∨ clustersTaken s l.val = true →
      exec (.contextRestore l) s = .next { s with out := [] }) ∧
    (∀ r, loopRec s.img l.val = some r → (loopOf s l.val).saved = true → s.seq.saving = [] → clustersTaken s l.val = false →
      (loopLeaves s.img l.val).Nodup → ∃ t, exec (.contextRestore l) s = .next t ∧
      t = { s with
        out := []
        mem := { s.mem with spad := t.mem.spad, spadPoison := t.mem.spadPoison }
        clu := t.clu
        seq := { s.seq with loops := t.seq.loops, contexts := t.seq.contexts } } ∧
      loopOf t l.val = { loopOf s l.val with saved := false, holds := true } ∧
      (∀ e ∈ (loopLeaves s.img l.val).zipIdx, ∀ y, KMap.get (fun _ => none) s.seq.contexts (l.val * 256 + e.2) = some y →
        cl t e.1 = { y with stopped := false, boundary := false } ∧ KMap.get (fun _ => none) t.seq.contexts (l.val * 256 + e.2) = none) ∧
      ∀ c, c ∉ loopLeaves s.img l.val → cl t c = cl s c)) ∧
  (∀ (s : State) (l : Fin 256),
    ((∀ r, loopRec s.img l.val = some r → r.preempt = false ∨ windowOpen s l.val = false) → exec (.loopPreempt l) s = .next { s with out := [] }) ∧
    (∀ r, loopRec s.img l.val = some r → r.preempt = true → windowOpen s l.val = true → ∃ t, exec (.loopPreempt l) s = .next t ∧
      t = { s with out := [], regs := t.regs, clu := t.clu } ∧
      (∀ k ∈ sharers s.img l.val, (loopOf s k).holds = true → running s k = true → (∃ q, loopRec s.img k = some q ∧ q.preempt = false) →
        ∀ c ∈ loopLeaves s.img k, (cl s c).running.isSome = true → rd t Fld.CLU_ARR_STATUS_PREEMPT c = 1 ∧ cl t c = { cl s c with stopped := true }) ∧
      ∀ c, (∀ k ∈ sharers s.img l.val, (loopOf s k).holds = true → c ∉ loopLeaves s.img k) → cl t c = cl s c)) ∧
  (∀ (s : State) (n : Fin 1024),
    (tenantFrames s n.val ≤ quotaOf s n.val → exec (.quotaStepBoundary n) s = .next { s with out := [] }) ∧
    (∀ m p e, tenantFrames s n.val = quotaOf s n.val + 1 → rd s Fld.KVM_TCFG_EVICT n.val = 1 → tenantVictim (quiet s) n.val = some (m, p, e) →
      frameRefs s (eUnit e) (eBase e) = 1 → ∃ t, exec (.quotaStepBoundary n) s = .next t ∧ tenantFrames t n.val = quotaOf s n.val ∧
      rd64 t Fld.KVM_EVICTED_LO_COUNT Fld.KVM_EVICTED_HI_COUNT = (rd64 s Fld.KVM_EVICTED_LO_COUNT Fld.KVM_EVICTED_HI_COUNT + 1) % 2 ^ 64 ∧
      (t.img, t.clu, t.stk, t.seq, t.ns) = (s.img, s.clu, s.stk, s.seq, s.ns)) ∧
    (quotaOf s n.val < tenantFrames s n.val → rd s Fld.KVM_TCFG_EVICT n.val = 0 → s.kvm.swapOut = none → s.kvm.swaps = [] →
      (quotaVictim (quiet s) n.val = none → exec (.quotaStepBoundary n) s = .next { s with out := [] }) ∧
      (∀ m, quotaVictim (quiet s) n.val = some m → ∃ t, exec (.quotaStepBoundary n) s = .next t ∧ rd t Fld.KVM_EVENT_PREEMPT = 1 ∧
        rd t Fld.KVM_PREEMPTS_COUNT = Nat.min (rd s Fld.KVM_PREEMPTS_COUNT + 1) (2 ^ 32 - 1))))

/-- A write of FAB_DEVID takes only while every port is DISABLED. Enabling a port that the image uses puts it in TRAINING,
PORT_TRAIN in SECURING with its width, the session in UP with a fresh key and counts of 0; disabling one drops its link. A flit
with a bad check is refused with a NAK and counted, the eighth in a row retraining the link; one out of turn is ignored; one whose
tag fails is counted; one that is good advances the receive sequence and the flit count. A retrain ends UP with every
unacknowledged flit sent again, or DOWN when no lanes train or it is the third within 1 s. Elsewhere the commands change nothing. -/
def Obligations.LinkStates : Prop :=
  (∀ (s : State) who, hubOpen s who = true →
    (∀ dev : BitVec 17,
      (mayImage who = false ∨ (∃ p < 18, portState s p ≠ 0) → exec (.fabDevidWrite who dev) s = .next { s with out := [⟨some who, .done⟩] }) ∧
      (mayImage who = true → (∀ p < 18, portState s p = 0) → ∃ t, exec (.fabDevidWrite who dev) s = .next t ∧
        t = { s with out := [⟨some who, .done⟩], regs := t.regs } ∧ rd t Fld.FAB_DEVID_DEVICE = dev.toNat ∧ rd t Fld.FAB_DEVID_VALID = 1 ∧
        ∀ p < 18, portState t p = if rd s Fld.FAB_PORT_CTRL_EN p = 1 then 1 else 0)) ∧
    (∀ p : Fin 18, mayImage who = false → ∀ c ∈ [Instr.portEnableWrite who p true, .portEnableWrite who p false, .portRetrainWrite who p, .rekey who p],
      exec c s = .next { s with out := [⟨some who, .done⟩] }) ∧
    (∀ p : Fin 18, mayImage who = true →
      (bitsOf (s.img.roles.getD p.val 0) 0 1 = 0 → exec (.portEnableWrite who p true) s = .next { s with out := [⟨some who, .done⟩] }) ∧
      (bitsOf (s.img.roles.getD p.val 0) 0 1 = 1 → ∃ t, exec (.portEnableWrite who p true) s = .next t ∧
        t = { s with out := [⟨some who, .done⟩], regs := t.regs } ∧ rd t Fld.FAB_PORT_CTRL_EN p.val = 1 ∧
        portState t p.val = if rd s Fld.FAB_PORT_CTRL_EN p.val = 0 ∧ rd s Fld.FAB_DEVID_VALID = 1 then 1 else portState s p.val) ∧
      (∃ t, exec (.portEnableWrite who p false) s = .next t ∧ t = { s with out := t.out, regs := t.regs, fresh := t.fresh, fab := t.fab } ∧
        rd t Fld.FAB_PORT_CTRL_EN p.val = 0 ∧ portState t p.val = 0 ∧ (portState s p.val ≠ 0 →
          fport t p.val = { Port.reset with retrains := (fport s p.val).retrains, authFails := (fport s p.val).authFails })) ∧
      (rd s Fld.FAB_PORT_CTRL_EN p.val = 1 →
        (∃ t, exec (.portRetrainWrite who p) s = .next t ∧ t = { s with out := [⟨some who, .done⟩], regs := t.regs } ∧
          portState t p.val = (if portState s p.val = 3 then 4 else portState s p.val) ∧
          (portState s p.val = 3 → rd t Fld.FAB_PORT_RETRAIN_COUNT p.val = Nat.min (rd s Fld.FAB_PORT_RETRAIN_COUNT p.val + 1) (2 ^ 32 - 1))) ∧
        (portState s p.val = 3 → ∃ t, exec (.rekey who p) s = .next t ∧
          t = { s with out := [⟨some who, .done⟩], regs := t.regs, fresh := s.fresh + 1, fab := { s.fab with ports := t.fab.ports } } ∧
          fport t p.val = { fport s p.val with key := some s.fresh, sent := 0, received := 0 } ∧ portState t p.val = 3)))) ∧
  (∀ (s : State) (p : Fin 18) (lo hi slow : Bool),
    (portState s p.val ≠ 1 ∨ (lo = false ∧ hi = false) → exec (.portTrain p lo hi slow) s = .next { s with out := [] }) ∧
    (portState s p.val = 1 → lo = true ∨ hi = true → ∃ t, exec (.portTrain p lo hi slow) s = .next t ∧ t = { s with out := [], regs := t.regs } ∧
      portState t p.val = 2 ∧ rd t Fld.FAB_PORT_STAT_WIDTH p.val =
        (if lo = true ∧ hi = true ∧ bitsOf (s.img.roles.getD p.val 0) 1 1 = 0 then 3 else if lo = true then 1 else 2) ∧
      rd t Fld.FAB_PORT_STAT_SLOW p.val = if slow = true ∨ bitsOf (s.img.roles.getD p.val 0) 2 1 = 1 then 1 else 0) ∧
    (portState s p.val ≠ 1 → portState s p.val ≠ 2 → exec (.portTrainRetry p) s = .next { s with out := [] }) ∧
    (portState s p.val = 1 ∨ portState s p.val = 2 → ∃ t, exec (.portTrainRetry p) s = .next t ∧
      t = { s with out := t.out, regs := t.regs, fresh := t.fresh, fab := t.fab } ∧ portState t p.val = 1) ∧
    (portState s p.val ≠ 2 → exec (.linkSessionEstablish p) s = .next { s with out := [] }) ∧
    (portState s p.val = 2 → s.fab.out = [] → (∀ r ∈ s.fab.requests, r.port.isSome = true) → ∃ t, exec (.linkSessionEstablish p) s = .next t ∧
      t = { s with out := [], regs := t.regs, fresh := s.fresh + 1, fab := { s.fab with ports := t.fab.ports } } ∧ portState t p.val = 3 ∧
      fport t p.val = { fport s p.val with key := some s.fresh, sent := 0, received := 0 }) ∧
    ((fport s p.val).replay = [] ∨ portState s p.val ≠ 3 → exec (.ackTimeout p) s = .next { s with out := [] }) ∧
    ((fport s p.val).replay ≠ [] → portState s p.val = 3 → ∃ t, exec (.ackTimeout p) s = .next t ∧ t = { s with out := [], regs := t.regs } ∧
      portState t p.val = 4 ∧ rd t Fld.FAB_PORT_RETRAIN_COUNT p.val = Nat.min (rd s Fld.FAB_PORT_RETRAIN_COUNT p.val + 1) (2 ^ 32 - 1)) ∧
    (portState s p.val ≠ 4 → exec (.portRetrainEnd p lo hi slow) s = .next { s with out := [] }) ∧
    (portState s p.val = 4 →
      (let late := ((fport s p.val).retrains ++ [s.ns]).filter (fun x => decide (s.ns < x + 1000000000))
       (lo = false ∧ hi = false ∨ 3 ≤ late.length → ∃ t, exec (.portRetrainEnd p lo hi slow) s = .next t ∧
         t = { s with out := t.out, regs := t.regs, fresh := t.fresh, fab := t.fab } ∧ portState t p.val = 5 ∧ rd t Fld.FAB_EVENT_PORT_DOWN = 1) ∧
       (lo = true ∨ hi = true → late.length < 3 → s.fab.out = [] → (∀ r ∈ s.fab.requests, r.port.isSome = true) → ∃ t,
         exec (.portRetrainEnd p lo hi slow) s = .next t ∧
         t = { s with
           out := (fport s p.val).replay.map (fun f => ⟨none, .flit p.val f⟩)
           regs := t.regs
           fab := { s.fab with ports := t.fab.ports } } ∧
         portState t p.val = (if (fport s p.val).key.isSome then 3 else 2) ∧
         fport t p.val = { fport s p.val with retrains := late, rejects := 0, discarding := false })))) ∧
  (∀ (s : State) (p : Fin 18) (b : List Byte),
    (let x := fport s p.val
     let f := readFlit b
     let bad := crc32c (b.take 248) ≠ fieldOf b 248 4 ∨ b.length ≠ 256
     let due := f.seq = (x.rxSeq + 1) % 65536
     let run := exec (.flitReceive p b) s
     let up := portState s p.val = 2 ∨ portState s p.val = 3
     (¬up → run = .next { s with out := [] }) ∧
     (up → bad → x.discarding = false ∨ due → ∃ t, run = .next t ∧
       t = { s with out := [⟨none, .nak p.val x.rxSeq⟩], regs := t.regs, fab := { s.fab with ports := t.fab.ports } } ∧
       fport t p.val = { x with rejects := x.rejects + 1, discarding := true } ∧
       rd t Fld.FAB_PORT_CRC_COUNT p.val = Nat.min (rd s Fld.FAB_PORT_CRC_COUNT p.val + 1) (2 ^ 32 - 1) ∧
       portState t p.val = if 8 ≤ x.rejects + 1 ∧ portState s p.val = 3 then 4 else portState s p.val) ∧
     (up → ¬bad → ¬due → run = .next { s with out := [] }) ∧
     (∀ n, up → ¬bad → due → x.key = some n → Config.gcmTag (rxKey n) (rxNonce n x.received) (b.take 8 ++ f.payload) ≠ f.tag → ∃ t, run = .next t ∧
       t = { s with out := [⟨none, .nak p.val x.rxSeq⟩], regs := t.regs, fab := { s.fab with ports := t.fab.ports } } ∧
       rd t Fld.FAB_EVENT_AUTH = 1 ∧ rd t Fld.FAB_PORT_AUTH_COUNT p.val = Nat.min (rd s Fld.FAB_PORT_AUTH_COUNT p.val + 1) (2 ^ 32 - 1) ∧
       (fport t p.val).rxSeq = x.rxSeq ∧ (fport t p.val).rejects = x.rejects + 1) ∧
     (up → ¬bad → due → x.key = none → f.nak = false → s.fab.out = [] → ∃ t, run = .next t ∧
       t = { s with out := [], regs := t.regs, fab := { s.fab with ports := t.fab.ports } } ∧
       rd64 t Fld.FAB_PORT_FLITS_LO_COUNT Fld.FAB_PORT_FLITS_HI_COUNT p.val =
         (rd64 s Fld.FAB_PORT_FLITS_LO_COUNT Fld.FAB_PORT_FLITS_HI_COUNT p.val + 1) % 2 ^ 64 ∧
       fport t p.val = { ackTo x f.ack with
         rxSeq := f.seq
         rejects := 0
         discarding := false
         received := x.received + 1
         credits := (fport t p.val).credits
         freed := (fport t p.val).freed } ∧
       (f.credits ≠ 0 → KMap.get creditReset (fport t p.val).credits f.cvc = KMap.get creditReset x.credits f.cvc + f.credits))))

/-- A request to this part at a hashed address that meets no error is served as an access of its requester: RD_BURST, RD_LINE and
BULK_RD answer the bytes in a DATA packet, WR_BURST, WR_LINE and BULK_WR store theirs, changing no other byte, and are
acknowledged, ATOMIC answers the old value, RED enters its contribution. A write into the shadow range from another device than
its writer is answered TENANT, a request to a space that does not exist UNMAPPED, and neither has another effect but its record.
An ATOMIC or RED whose answer is kept gets that answer again and is not performed. -/
def Obligations.PacketsServed : Prop :=
  (∀ (s : State) (p : Packet), p.dst.toNat = localDevice s → s.mem.formOk = true →
    (let at_ (opc : Nat) : Packet := { p with opc := opc }
     let who := packetWho p
     let a := packetAddr s p 0
     let memOnly (u : State) : Prop := u = { s with out := [], regs := u.regs, mem := u.mem, load := u.load, ras := u.ras }
     let fresh := ∀ k ∈ s.fab.kept, ¬(k.src = p.src.toNat ∧ k.tag = p.tag.toNat)
     let free := lineFree s 0 (offOf a) = true ∧ mirrorOf s (offOf a / 64 * 64) = none ∧ mirrorOf s (offOf a) = none
     (hashedOpen s who a .meteorRead = true → lineNo s (offOf a) ≠ none → ∃ u, memOnly u ∧ (∀ o, peekByte u o = peekByte s o) ∧
       exec (.rdBurst p .clean) s = .next (sendResponse u (at_ 1) (response u (at_ 1) 0x10 0
         (((lineBytes (peekLine s (offOf a)).1).drop (offOf a % 64)).take 32) (peekLine s (offOf a)).2))) ∧
     (hashedOpen s who a .lineRead = true → wayReady s (offOf a) = true → ∃ u, memOnly u ∧ (∀ o, peekByte u o = peekByte s o) ∧
       exec (.rdLine p .clean) s = .next (sendResponse u (at_ 2) (response u (at_ 2) 0x10 0 (lineBytes (peekLine s (offOf a)).1) (peekLine s (offOf a)).2))) ∧
     (shadowRefuses s p = false → free → p.body.length = 32 → p.offset.toNat % 32 = 0 →
       hashedOpen s who a (.meteorWrite (BitVec.ofNat 256 (leNat p.body)) p.poison) = true → lineNo s (offOf a) ≠ none → ∃ u, memOnly u ∧
       exec (.wrBurst p) s = .next (sendResponse u (at_ 3) (response u (at_ 3) 0x11 0 [] false)) ∧
       ∀ o, peekByte u o = if offOf a ≤ o ∧ o < offOf a + 32 then p.body.getD (o - offOf a) 0#8 else peekByte s o) ∧
     (shadowRefuses s p = false → free → p.body.length ≠ 32 → hashedOpen s who a (.partialStore p.body p.poison) = true →
       wayReady s (offOf a) = true → ∃ u, memOnly u ∧
       exec (.wrBurst p) s = .next (sendResponse u (at_ 3) (response u (at_ 3) 0x11 0 [] false)) ∧
       ∀ o, peekByte u o = if offOf a ≤ o ∧ o < offOf a + p.body.length then p.body.getD (o - offOf a) 0#8 else peekByte s o) ∧
     (shadowRefuses s p = false → free → hashedOpen s who a (.lineWrite (lineOf (p.body.take 64)) p.poison) = true → wayReady s (offOf a) = true → ∃ u,
       memOnly u ∧ exec (.wrLine p) s = .next (sendResponse u (at_ 4) (response u (at_ 4) 0x11 0 [] false)) ∧
       peekLine u (offOf a) = (lineOf (p.body.take 64), p.poison) ∧ ∀ o, o / 64 ≠ offOf a / 64 → peekByte u o = peekByte s o) ∧
     (∀ op, fresh → free → amoOp (p.arg.toNat % 16) = some op → p.poison = false → (peekLine s (offOf a / 64 * 64)).2 = false →
       (let wide := decide (bitsOf p.arg.toNat 4 1 = 1)
        let x := BitVec.ofNat 64 (fieldOf p.body 0 8)
        let y := BitVec.ofNat 64 (fieldOf p.body 8 8)
        let n := atomicSize wide
        let old := fieldOf (lineBytes (peekLine s (offOf a / 64 * 64)).1) (offOf a % 64) n
        hashedOpen s who a (.atomic op wide x y false) = true → wayReady s (offOf a) = true → ∃ u, memOnly u ∧
        exec (.atomicPacket p .clean) s =
          .next (sendResponse u (at_ 5) (response u (at_ 5) 0x10 0 (natLe n old ++ List.replicate (16 - n) 0#8) false)) ∧
        ∀ o, peekByte u o = if offOf a ≤ o ∧ o < offOf a + n then (natLe n (atomicNew op wide old x.toNat y.toNat)).getD (o - offOf a) 0#8
          else peekByte s o)) ∧
     (fresh → free →
       (let w := fieldOf p.body 0 4
        let cpl := fieldOf p.body 8 8
        let c : Contribution := ⟨redFormatOf p.arg.toNat, BitVec.ofNat 16 (bitsOf w 0 12), BitVec.ofNat 16 (bitsOf w 16 12 + 1),
          decide (bitsOf p.arg.toNat 2 1 = 1), if cpl = 0 then none else some (BitVec.ofNat 64 cpl), lineOf ((p.body.drop 16).take 64), p.poison⟩
        let slice := homeDie s (offOf a) * 16 + sliceOf (offOf a)
        hashedOpen s who a (.contribute c) = true → bitsOf w 0 12 = 0 → 1 ≤ bitsOf w 16 12 → slicesUsed s slice < 256 → ∃ u,
        u = { s with out := [], mem := { s.mem with reductions := s.mem.reductions ++
          [⟨slice, localAddr s 0 (offOf a), c.format, c.count.toNat, c.accum, c.completion, 1, [⟨1, c.data, c.poison⟩], []⟩] } } ∧
        exec (.redPacket p) s = .next (sendResponse u (at_ 6) (response u (at_ 6) 0x11 0 [] false)))) ∧
     (1 ≤ p.arg.toNat → p.arg.toNat ≤ 8 → p.offset.toNat % (32 * p.arg.toNat) = 0 → p.offset.toNat + 32 * p.arg.toNat ≤ 2 ^ 41 →
       ((∀ i < p.arg.toNat, hashedOpen s who (packetAddr s p (32 * i)) .meteorRead = true ∧ lineNo s (p.offset.toNat + 32 * i) ≠ none) → ∃ u poison, memOnly u ∧
         (∀ o, peekByte u o = peekByte s o) ∧ exec (.bulkRd p) s = .next (sendResponse u (at_ 7) (response u (at_ 7) 0x10 0
           ((List.range (32 * p.arg.toNat)).map (fun i => peekByte s (p.offset.toNat + i))) poison))) ∧
       (shadowRefuses s p = false → p.body.length = 32 * p.arg.toNat → (∀ i < p.arg.toNat,
           (hashedOpen s who (packetAddr s p (32 * i)) (.meteorWrite 0 false) = true ∧ lineNo s (p.offset.toNat + 32 * i) ≠ none) ∧
           lineFree s 0 (p.offset.toNat + 32 * i) = true ∧ mirrorOf s (p.offset.toNat + 32 * i) = none ∧
           ∀ n, lineNo s (p.offset.toNat + 32 * i) = some n → (acceptedOf s.mem (chanOfLine n)).length ≤ 24) → ∃ u, memOnly u ∧
         exec (.bulkWr p) s = .next (sendResponse u (at_ 8) (response u (at_ 8) 0x11 0 [] false)) ∧
         ∀ o, peekByte u o = if p.offset.toNat ≤ o ∧ o < p.offset.toNat + 32 * p.arg.toNat then p.body.getD (o - p.offset.toNat) 0#8
           else peekByte s o)))) ∧
  (∀ (s : State) (p : Packet), p.dst.toNat = localDevice s →
    (shadowRefuses s p = true → ∀ r ∈ [(Instr.wrBurst p, 3), (.wrLine p, 4), (.bulkWr p, 8)],
      exec r.1 s = .next (let q : Packet := { p with opc := r.2 }
        let u := fabRecord (quiet s) 4 1 p.src.toNat
        sendResponse u q (response (quiet s) q 0x12 4 [] false))) ∧
    (p.space.toNat ≠ 0 → p.space.toNat ≠ 2 → p.space.toNat ≠ 4 → ∀ r ∈ [(Instr.rdBurst p .clean, 1), (.rdLine p .clean, 2)],
      exec r.1 s = .next (let q : Packet := { p with opc := r.2 }
        let u := fabRecord (quiet s) 2 1 p.src.toNat
        sendResponse u q (response (quiet s) q 0x12 2 [] false))) ∧
    (∀ k, s.fab.kept.find? (fun k => decide (k.src = p.src.toNat) && decide (k.tag = p.tag.toNat)) = some k →
      ∀ c ∈ [Instr.atomicPacket p .clean, .redPacket p], exec c s = .next (match routePort s p.src.toNat p.offset.toNat with
        | some port => sendPacket (quiet s) port k.answer
        | none => quiet s)))

/-- A packet of this part to another leaves on the port its route gives, a request staying open, and with no port is recorded
UNMAPPED; a request for another part is answered ERR, a response for another part ignored. DATA, ACK and ERR end the open request
they answer and hand its requester data, completion or failure; without such a request they are ignored. A request that times out
fails with code 6. A held request leaves when its device's older ones are answered; a kept answer is dropped when its record
expires. -/
def Obligations.PacketsSentAndAnswered : Prop :=
  (∀ (s : State) (p : Packet) ecc,
    ∀ r ∈ [(Instr.rdBurst p ecc, 0x01), (.rdLine p ecc, 0x02), (.wrBurst p, 0x03), (.wrLine p, 0x04), (.atomicPacket p ecc, 0x05), (.redPacket p, 0x06),
      (.bulkRd p, 0x07), (.bulkWr p, 0x08), (.collPull p, 0x09), (.collPush p, 0x0A), (.data p, 0x10), (.ack p, 0x11), (.err p, 0x12), (.mer p, 0x20)],
    p.dst.toNat ≠ localDevice s →
    (let q : Packet := { p with opc := r.2 }
     (p.src.toNat = localDevice s → routePort s p.dst.toNat p.offset.toNat = none →
       exec r.1 s = .next (fabRecord (quiet s) 1 0 p.dst.toNat)) ∧
     (∀ port, p.src.toNat = localDevice s → routePort s p.dst.toNat p.offset.toNat = some port →
       exec r.1 s = .next (sendPacket { s with out := [], fab := { s.fab with
         requests := if r.2 < 0x10 then s.fab.requests ++ [⟨q, .nobody, some port⟩] else s.fab.requests } } port q)) ∧
     (p.src.toNat ≠ localDevice s → r.2 < 0x10 →
       (let u := fabRecord (quiet s) 1 1 p.src.toNat
        exec r.1 s = .next (sendResponse u q (response (quiet s) q 0x12 1 [] false)))) ∧
     (p.src.toNat ≠ localDevice s → 0x10 ≤ r.2 → exec r.1 s = .next { s with out := [] }))) ∧
  (∀ (s : State) (p : Packet), p.dst.toNat = localDevice s →
    (answered s p = none → ∀ c ∈ [Instr.data p, .ack p, .err p], exec c s = .next { s with out := [] }) ∧
    (∀ r rest who, answered s p = some (r, rest) → r.origin = .hub who → isHost who = false →
      (let ended : State := { s with out := [], fab := { s.fab with requests := rest } }
       exec (.data p) s = .next (releaseRequests (reply ended who (.data (answerBytes r { p with opc := 0x10 }) p.poison))) ∧
       exec (.ack p) s = .next (releaseRequests (reply ended who .done)) ∧
       exec (.err p) s = .next (releaseRequests (reply (fabRecord ended p.arg.toNat 0 r.packet.dst.toNat) who (.fabError p.arg.toNat))))) ∧
    (∀ r rest c id part pc slot, answered s p = some (r, rest) → r.origin = .cluster c (some (id, part)) pc slot →
      exec (.data p) s = .next (releaseRequests (modCl { s with out := [], fab := { s.fab with requests := rest } } c
        (fun x => fillPart x id part (answerBytes r { p with opc := 0x10 }) p.poison)))) ∧
    (∀ r rest c pc slot, answered s p = some (r, rest) → r.origin = .cluster c none pc slot →
      exec (.ack p) s = .next (releaseRequests { s with out := [], fab := { s.fab with requests := rest } }) ∧
      (p.arg = 4 → exec (.err p) s = .next (releaseRequests (modCl (fabRecord { s with out := [], fab := { s.fab with requests := rest } } 4 0
        r.packet.dst.toNat) c (fun x => addDeferred x 0x05 slot 0 pc)))))) ∧
  (∀ (s : State) (dst : BitVec 17) (tag : BitVec 16),
    ((∀ r ∈ s.fab.requests, ¬(r.packet.dst = dst ∧ r.packet.tag = tag)) → exec (.requestTimeout dst tag) s = .next { s with out := [] }) ∧
    (∀ a r b who, s.fab.requests = a ++ r :: b → (∀ x ∈ a, ¬(x.packet.dst = dst ∧ x.packet.tag = tag)) → r.packet.dst = dst → r.packet.tag = tag →
      r.origin = .hub who → isHost who = false → exec (.requestTimeout dst tag) s =
        .next (releaseRequests (reply (fabRecord { s with out := [], fab := { s.fab with requests := a ++ b } } 6 0 dst.toNat) who (.fabError 6)))) ∧
    (exec (.answerRecordExpiry dst tag) s = .next { s with
      out := []
      fab := { s.fab with kept := s.fab.kept.filter (fun k => !(decide (k.src = dst.toNat) && decide (k.tag = tag.toNat))) } })) ∧
  (∀ s : State,
    ((∀ r ∈ s.fab.requests, r.port.isSome = true) → exec .heldRequestRelease s = .next { s with out := [] }) ∧
    (∀ r port, s.fab.requests = [r] → r.port = none → routePort s r.packet.dst.toNat r.packet.offset.toNat = some port →
      exec .heldRequestRelease s =
        .next (sendPacket { s with out := [], fab := { s.fab with requests := [{ r with port := some port }] } } port r.packet)))

/-- A write of FAB_COLL by a requester that may enter it queues the descriptor, or holds it while 256 wait; accepted, a bad one is
recorded with code 3 and one that cannot be read with code 4, and a broadcast to a rank that is not its root starts and waits for
its lines. A pull is answered with the lines asked for, a push stores its line and is acknowledged, and both wait while the CID is
unknown here. COLLECTIVE_COMPLETE counts once every wanted line has come and none still waits at its point of order. BUDDY_ENABLE
starts an empty log; BUDDY_LOG_APPLY enters one attention request for each append record and moves HEAD past the records applied. -/
def Obligations.CollectivesAndBuddy : Prop :=
  (∀ (s : State) who (a : GAddr), hubOpen s who = true →
    (mayAttend s who = false → exec (.fabCollWrite who a) s = .next { s with out := [⟨some who, .done⟩] }) ∧
    (mayAttend s who = true → exec (.fabCollWrite who a) s = .next { s with
      out := [⟨some who, .done⟩]
      fab := { s.fab with
        collQueue := if 256 ≤ s.fab.collQueue.length then s.fab.collQueue else s.fab.collQueue ++ [(who, a.toNat)]
        collHeld := if 256 ≤ s.fab.collQueue.length then s.fab.collHeld ++ [(who, a.toNat)] else s.fab.collHeld } })) ∧
  (∀ s : State,
    (s.fab.collQueue = [] → exec .collectiveAccept s = .next { s with out := [] }) ∧
    (∀ who a rest, s.fab.collQueue = (who, a) :: rest →
      (let read := (engineBytes (quiet s) who a 64).2
       (read = none → ∃ t, exec .collectiveAccept s = .next t ∧ rd t Fld.FAB_EVENT_ERR = 1 ∧
         t.fab = { s.fab with collQueue := rest ++ s.fab.collHeld.take 1, collHeld := s.fab.collHeld.drop 1 } ∧
         (rd s Fld.FAB_ERR_VALID = 0 → rd t Fld.FAB_ERR_VALID = 1 ∧ rd t Fld.FAB_ERR_CODE = 4)) ∧
       (∀ b c, read = some (b, false) → readColl who b = (c, true) → c.op = 4 → c.rank ≠ c.root →
         (∀ w ∈ s.fab.collWaiting, fieldOf w.packet.body 0 4 ≠ c.cid) → ∃ t, exec .collectiveAccept s = .next t ∧
         t = { s with out := [], regs := t.regs, mem := t.mem, fab := { s.fab with
           collQueue := rest ++ s.fab.collHeld.take 1
           collHeld := s.fab.collHeld.drop 1
           colls := s.fab.colls.filter (fun x => decide (x.cid ≠ c.cid)) ++ [c] } }) ∧
       (∀ b c, read = some (b, false) → readColl who b = (c, false) → s.mem.formOk = true → spaceOf (BitVec.ofNat 64 a) = 2 →
         countReady s who c.cpl = true → ∃ t, exec .collectiveAccept s = .next t ∧
         t = { s with out := [], regs := t.regs, mem := t.mem, load := t.load, fab := { s.fab with
           collQueue := rest ++ s.fab.collHeld.take 1
           collHeld := s.fab.collHeld.drop 1 } } ∧
         (rd s Fld.FAB_ERR_VALID = 0 → rd t Fld.FAB_ERR_VALID = 1 ∧ rd t Fld.FAB_ERR_CODE = 3) ∧
         ∀ i, peekByte t i = countByte s c.cpl (2 ^ 32) i)))) ∧
  (∀ (s : State) (p : Packet), p.dst.toNat = localDevice s →
    (let cid := fieldOf p.body 0 4
     let line := fieldOf p.body 4 4
     (collOf s cid = none → ∀ r ∈ [(Instr.collPull p, 9), (.collPush p, 10)],
       exec r.1 s = .next { s with out := [], fab := { s.fab with collWaiting := s.fab.collWaiting ++ [⟨{ p with opc := r.2 }⟩] } }) ∧
     (∀ c, collOf s cid = some c →
       (c.failed = true → ∀ x ∈ [Instr.collPull p, .collPush p], exec x s = .next { s with out := [] }) ∧
       (∀ ds : List (BitVec 512 × Bool), c.failed = false → 1 ≤ fieldOf p.body 8 4 → fieldOf p.body 8 4 ≤ 4 →
         (List.range (fieldOf p.body 8 4)).map (fun j => collRead (quiet s) c (c.src + 64 * (line + j))) = ds.map some →
         exec (.collPull p) s = .next (let q : Packet := { p with opc := 9 }
           sendResponse (quiet s) q (response s q 0x10 0 (ds.flatMap (fun d => lineBytes d.1)) (ds.any (·.2))))) ∧
       (let a := BitVec.ofNat 64 (localAddr s 0 (c.dst + 64 * line))
        let d := lineOf ((p.body.drop 16).take 64)
        c.failed = false → p.arg.toNat / 2 = 1 → s.mem.formOk = true → hashedOpen s c.who a (.lineWrite d p.poison) = true →
        lineFree s 0 (offOf a) = true → mirrorOf s (offOf a) = none → wayReady s (offOf a) = true → ∃ u,
        u = { s with out := [], mem := u.mem, load := u.load, fab := { s.fab with colls := u.fab.colls } } ∧
        exec (.collPush p) s = .next (let q : Packet := { p with opc := 10 }
          sendResponse u q (response u q 0x11 0 [] false)) ∧
        peekLine u (offOf a) = (d, p.poison) ∧ (∀ o, o / 64 ≠ offOf a / 64 → peekByte u o = peekByte s o) ∧
        collOf u cid = some { c with got := KSet.add c.got line })))) ∧
  (∀ (s : State) (cid : BitVec 32),
    (collOf s cid.toNat = none → exec (.collectiveComplete cid) s = .next { s with out := [] }) ∧
    (∀ c, collOf s cid.toNat = some c →
      (c.started = false ∨ c.failed = true ∨ (∃ l ∈ c.wanted, c.got.contains l = false) ∨ collWaits s c = true → exec (.collectiveComplete cid) s = .next { s with out := [] }) ∧
      (c.started = true → c.failed = false → (∀ l ∈ c.wanted, c.got.contains l = true) → collWaits s c = false → s.mem.formOk = true → countReady s c.who c.cpl = true → ∃ t,
        exec (.collectiveComplete cid) s = .next t ∧ t = { s with out := [], mem := t.mem, load := t.load, fab := { s.fab with colls := t.fab.colls } } ∧
        collOf t cid.toNat = some { c with started := false } ∧ ∀ i, peekByte t i = countByte s c.cpl 1 i))) ∧
  (∀ (s : State) who (dev : BitVec 17), hubOpen s who = true →
    (mayImage who = false → exec (.buddyEnable who dev) s = .next { s with out := [⟨some who, .done⟩] }) ∧
    (mayImage who = true → ∃ t, exec (.buddyEnable who dev) s = .next t ∧
      t = { s with out := [⟨some who, .done⟩], regs := t.regs, fab := if rd s Fld.FAB_BUDDY_EN = 0 then
        { s.fab with shadowTail := 0, shadowHead := 0, shadowPending := [], shadowSeqs := [], shadowing := true } else s.fab } ∧
      rd t Fld.FAB_BUDDY_EN = 1 ∧ rd t Fld.FAB_BUDDY_DEVICE = dev.toNat)) ∧
  (∀ (s : State) (work : BitVec 41),
    (let base := localAddr s 0 (shadowBase s)
     let head := fieldOf (hubRead (quiet s) (base + 64) 8).1 0 8
     let size := 2 ^ rd s Fld.FAB_SHADOW_SIZE_LOG2
     let rs := upToCommit (shadowRecords (quiet s) size (fieldOf (hubRead (quiet s) base 8).1 0 8) (size / 64 + 1) head)
     ∃ t, exec (.buddyLogApply work) s = .next t ∧
     (t.kvm.queue ++ t.kvm.held).length = (s.kvm.queue ++ s.kvm.held).length + (rs.filter (fun r => decide (fieldOf r.2 0 1 = 2))).length ∧
     (let a := BitVec.ofNat 64 (base + 64)
      let b := natLe 8 (head + (rs.map (fun r => 64 + 64 * fieldOf r.2 2 2)).foldl (· + ·) 0)
      (∀ r ∈ rs, fieldOf r.2 0 1 ≠ 1 ∧ fieldOf r.2 0 1 ≠ 2) → s.mem.formOk = true → hashedOpen s .supervisor a (.partialStore b false) = true →
      lineFree s 0 (offOf a) = true → mirrorOf s (offOf a / 64 * 64) = none → wayReady s (offOf a) = true → (base + 64) % 64 = 0 →
      t = { s with out := [], mem := t.mem, load := t.load } ∧
      ∀ o, peekByte t o = if offOf a ≤ o ∧ o < offOf a + 8 then b.getD (o - offOf a) 0#8 else peekByte s o)))

/-- A MER packet from the parent brings its hops; any other at this part is answered with the part's own hops and its count. An
exchange does nothing unless MER_CTRL.SRC is 0; then its offset is kept until 16 are together. Their average goes to MER_OFFSET,
and LOCKED is set after 16 good averages and, by the model's choice (log 28), cleared by one off by more than 100 ns; with a loop
enabled or the count locked the count is slewed by the average, FAR above 1 ms, and otherwise it steps by it at once. With SRC 1
an accepted edge of MER_PPS loads the count from MER_SET, which moves on by one second; PPS_LOST sets its flag. MER_10M_ABSENT
only notes the input. -/
def Obligations.MeridianInputs : Prop :=
  (∀ (s : State) (p : Packet), p.dst.toNat = localDevice s →
    (merSrc s = 0 → p.src.toNat = rd s Fld.MER_PARENT_DEVICE →
      exec (.mer p) s = .next { s with out := [], fab := { s.fab with merHops := p.arg.toNat } }) ∧
    (merSrc s ≠ 0 ∨ p.src.toNat ≠ rd s Fld.MER_PARENT_DEVICE →
      exec (.mer p) s = .next (match routePort s p.src.toNat p.offset.toNat with
        | some port => sendPacket (quiet s) port (response s { p with opc := 0x20 } 0x20 (if merSrc s = 0 then s.fab.merHops + 1 else 0)
            (p.body.take 8 ++ natLe 8 s.mer ++ natLe 8 s.mer ++ natLe 8 0) false)
        | none => quiet s))) ∧
  (∀ (s : State) (t1 t2 t3 t4 : BitVec 64),
    (merSrc s ≠ 0 → exec (.merExchange t1 t2 t3 t4) s = .next { s with out := [] }) ∧
    (merSrc s = 0 → ∃ t, exec (.merExchange t1 t2 t3 t4) s = .next t ∧
      (let off : Int := (((t2.toNat : Int) - t1.toNat) - ((t4.toNat : Int) - t3.toNat)) / 2
       let recent := (off :: s.fab.merOffsets).take 16
       (recent.length < 16 → t = { s with out := [], fab := { s.fab with merOffsets := recent } }) ∧
       (recent.length = 16 →
         let avg := recent.foldl (· + ·) 0 / 16
         let good := if avg.natAbs ≤ 100 then s.fab.merGood + 1 else 0
         t = { s with out := [], regs := t.regs, mer := t.mer, fab := { s.fab with merOffsets := [], merGood := good, merSlew := t.fab.merSlew } } ∧
         rd t Fld.MER_OFFSET_NS = offsetWord avg ∧
         (16 ≤ good → rd t Fld.MER_STATUS_LOCKED = 1) ∧ (100 < avg.natAbs → rd t Fld.MER_STATUS_LOCKED = 0) ∧
         (good < 16 → avg.natAbs ≤ 100 → rd t Fld.MER_STATUS_LOCKED = rd s Fld.MER_STATUS_LOCKED) ∧
         (anyLoopOn s = true ∨ rd t Fld.MER_STATUS_LOCKED = 1 → t.mer = s.mer ∧ t.fab.merSlew = avg ∧
           (1000000 < avg.natAbs → rd t Fld.MER_STATUS_FAR = 1)) ∧
         (anyLoopOn s = false → rd t Fld.MER_STATUS_LOCKED = 0 → (t.mer : Int) = max 0 ((s.mer : Int) + avg) ∧ t.fab.merSlew = 0 ∧
           rd t Fld.MER_STATUS_STEPPED = 1))))) ∧
  (∀ s : State,
    (merSrc s = 1 → ppsAccepted s = true → ∃ t, exec .merPpsEdge s = .next t ∧
      (let n := rd64 s Fld.MER_SET_LO_COUNT Fld.MER_SET_HI_COUNT
       t = { s with out := [], regs := t.regs, mer := n, fab := { s.fab with pps := some s.ns, ppsLost := false } } ∧
       rd64 t Fld.MER_SET_LO_COUNT Fld.MER_SET_HI_COUNT = (n + 1000000000) % 2 ^ 64 ∧ rd t Fld.MER_STATUS_STEPPED = 1)) ∧
    (merSrc s ≠ 1 ∨ ppsAccepted s = false → exec .merPpsEdge s = .next { s with out := [] }) ∧
    (merSrc s = 1 → ∃ t, exec .ppsLost s = .next t ∧ t = { s with out := [], regs := t.regs, fab := { s.fab with ppsLost := true } } ∧
      rd t Fld.MER_STATUS_PPS_LOST = 1) ∧
    (merSrc s ≠ 1 → exec .ppsLost s = .next { s with out := [] })) ∧
  (∀ (s : State) (b : Bool), exec (.mer10mAbsent b) s = .next { s with out := [], fab := { s.fab with no10m := b } })

/-- With no line suspect RAS_REREAD does nothing; a good reread settles the oldest line. A second failure marks the line poisoned:
with no copy anywhere the data is lost and its row goes to testing, a mirrored line takes the other copy's data, and a line of a
reloadable region whose source lies at a host waits for it. PAGE_REPAIR of a row in no frame only sends the row to testing; a page
that its checksum words cannot rebuild is lost; one that they can is rebuilt and moved within its stack. ROW_TEST passes a row or
gives it one of its bank's spares; with none left it stays in service, recorded as exhausted. A patrol read of a written line or
row counts a corrected read, or logs and keeps as suspect one that is uncorrectable; any other changes nothing. -/
def Obligations.RereadsRepairsAndRowTests : Prop :=
  (∀ (s : State) bad given, (∀ x ∈ s.ras.suspects, isLineSuspect x = false) → exec (.rasReread bad given) s = .next { s with out := [] }) ∧
  (∀ (s : State) n off rest given, takeFirst isLineSuspect s.ras.suspects = some (.line n off, rest) → s.mem.waiting = [] →
    (let good : Memory := { s.mem with restoring := KSet.del s.mem.restoring n }
     let tested : Ras := { s.ras with suspects := rest, rowTests := addNew s.ras.rowTests (rowOfLine n) }
     exec (.rasReread false given) s = .next { s with out := [], ras := { s.ras with suspects := rest }, mem := good } ∧
     (regionOf s off = none → otherCopy s off = none → s.kvm.poolUsed = [] → exec (.rasReread true given) s = .next { s with
       out := [], regs := s.regs.setF Fld.RAS_EVENT_LOST 1, ras := tested, mem := { good with poison := KSet.add s.mem.poison n } }) ∧
     (∀ o, mirrorOf s off = some o → off % 64 = 0 → wayReady s off = true → lineNo s o ≠ some n → (peekLine s o).2 = false →
       ∃ t, exec (.rasReread true given) s = .next t ∧ t = { s with out := [], regs := t.regs, ras := tested, mem := t.mem } ∧
         rd t Fld.RAS_EVENT_REFETCH = 1 ∧ peekLine t off = ((peekLine s o).1, false)) ∧
     (∀ r, regionOf s off = some r → r.kind = 1 → spaceOf (BitVec.ofNat 64 (r.src + (off - r.base % 2 ^ 41) / 4096 * 4096)) = 4 →
       exec (.rasReread true none) s = .next { s with
         out := [], mem := { s.mem with poison := KSet.add s.mem.poison n, restoring := KSet.add s.mem.restoring n } }))) ∧
  (∀ (s : State) lost, (∀ x ∈ s.ras.suspects, isLineSuspect x = true) → exec (.pageRepair lost) s = .next { s with out := [] }) ∧
  (∀ (s : State) lost n rest, takeFirst (fun x => !isLineSuspect x) s.ras.suspects = some (.row n, rest) →
    (frameOfRow s (rowAt n) = none → exec (.pageRepair lost) s = .next { s with
      out := [], ras := { s.ras with suspects := rest, rowTests := addNew s.ras.rowTests n } }) ∧
    (∀ p f base tenant, frameOfRow s (rowAt n) = some (p, f, base) → 0 < (geomRec p.geom).frameRows →
      frameTenant s (frameKey (rowAt n).placed base) = some tenant →
      (let g := geomRec p.geom
       let u := (rowAt n).placed
       let rows := (List.range g.rows).map (frameRow (quiet s) u base)
       (repairable g lost = false → frameOwners (quiet s) tenant u base = [] → ∃ t, exec (.pageRepair lost) s = .next t ∧
         t = { s with out := [], regs := s.regs.setF Fld.RAS_EVENT_LOST 1, ras := t.ras } ∧ n ∈ t.ras.rowTests ∧ .row n ∉ t.ras.suspects ∧
         ∀ x ∈ t.ras.suspects, x ∈ s.ras.suspects) ∧
       (repairable g lost = true → (moveFrameIn (quiet s) u f [unitStack u]).isSome = true →
         ∀ v, moveFrameIn ((rebuild g rows lost).zipIdx.foldl (fun z x => setFrameRow z u base x.2 x.1) (quiet s)) u f [unitStack u] = some v →
         ∃ t, exec (.pageRepair lost) s = .next t ∧ rd t Fld.RAS_EVENT_REPAIR = 1 ∧ .row n ∉ t.ras.suspects ∧
           (.row n ∈ v.ras.suspects → n ∈ t.ras.rowTests) ∧ t.mem = v.mem ∧ t.kvm = v.kvm)))) ∧
  (∀ s : State, s.ras.rowTests = [] → ∀ fails, exec (.rowTest fails) s = .next { s with out := [] }) ∧
  (∀ (s : State) n rest, s.ras.rowTests = n :: rest →
    exec (.rowTest false) s = .next { s with out := [], ras := { s.ras with rowTests := rest } } ∧
    (rowProc s (rowAt n) = false ∨ frameOfRow s (rowAt n) = none →
      (sparesOf s (bankOfRow n) = 0 → exec (.rowTest true) s = .next { s with
        out := [], ras := { s.ras with rowTests := rest, exhausted := KSet.add s.ras.exhausted n } }) ∧
      (∀ k, sparesOf s (bankOfRow n) = k + 1 → ∃ t, exec (.rowTest true) s = .next t ∧
        t = { s with
          out := []
          regs := t.regs
          ras := { s.ras with rowTests := rest, spareRows := t.ras.spareRows }
          ckr := { s.ckr with repaired := true } } ∧
        rd t Fld.RAS_EVENT_RETIRED = 1 ∧ sparesOf t (bankOfRow n) = k ∧ (∀ b, b ≠ bankOfRow n → sparesOf t b = sparesOf s b) ∧
        rd t Fld.RAS_ROWS_MINLEFT = (t.ras.spareRows.map (·.2)).foldl Nat.min 4 ∧
        rd t Fld.RAS_SCRUB_RETIRED_COUNT = if n ∈ s.ras.scrubRows then Nat.min (rd s Fld.RAS_SCRUB_RETIRED_COUNT + 1) (2 ^ 32 - 1)
          else rd s Fld.RAS_SCRUB_RETIRED_COUNT))) ∧
  (∀ (s : State) (a : BitVec 41) ecc,
    (lineNo s a.toNat = none ∨ (∃ n, lineNo s a.toNat = some n ∧ unitOfLine n ∉ s.mem.written) →
      exec (.patrolRead false a ecc) s = .next { s with out := [] }) ∧
    (∀ n, lineNo s a.toNat = some n → unitOfLine n ∈ s.mem.written → (lineView (settle s.mem n) n).2 = false →
      (let read : Memory := settle s.mem n
       exec (.patrolRead false a .clean) s = .next { s with out := [], mem := read } ∧
       (∃ t, exec (.patrolRead false a .corrected) s = .next t ∧ t = { s with
         out := []
         regs := t.regs
         ras := { s.ras with corrected := t.ras.corrected, rowTests := t.ras.rowTests }
         mem := read } ∧
         rd t Fld.RAS_EVENT_CE = 1 ∧
         rd64 t Fld.RAS_CE_LO_COUNT Fld.RAS_CE_HI_COUNT = (rd64 s Fld.RAS_CE_LO_COUNT Fld.RAS_CE_HI_COUNT + 1) % 2 ^ 64 ∧
         (let recent := (KMap.get (fun _ => []) s.ras.corrected (rowOfLine n)).filter (fun x => decide (s.ns < x + dayNs))
          (3 ≤ recent.length → t.ras.rowTests = addNew s.ras.rowTests (rowOfLine n)) ∧
          (recent.length < 3 → t.ras.rowTests = s.ras.rowTests ∧
            KMap.get (fun _ => []) t.ras.corrected (rowOfLine n) = recent ++ [s.ns]))) ∧
       (∃ t, exec (.patrolRead false a .uncorrectable) s = .next t ∧
         t = { s with
           out := []
           regs := t.regs
           ras := { s.ras with suspects := addNew s.ras.suspects (.line n (a.toNat / 64 * 64)) }
           mem := read } ∧ (stackOfLine n < 64 → faultLogged s t 0 (0xC0 + stackOfLine n) (localAddr s 0 (a.toNat / 64 * 64)))))) ∧
    (rowProc s (rowAt a.toNat) = false ∨ rowIsWritten s (rowAt a.toNat) = false → exec (.patrolRead true a ecc) s = .next { s with out := [] }) ∧
    (rowProc s (rowAt a.toNat) = true → rowIsWritten s (rowAt a.toNat) = true → exec (.patrolRead true a .clean) s = .next { s with out := [] } ∧
      ∃ t, exec (.patrolRead true a .uncorrectable) s = .next t ∧
        t = { s with out := [], regs := t.regs, ras := { s.ras with suspects := addNew s.ras.suspects (.row a.toNat) } } ∧
        ((rowAt a.toNat).stack < 64 → faultLogged s t 1 (0xC0 + (rowAt a.toNat).stack) (localAddr s 1 (rowAt a.toNat).offset))))

/-- SCRUB_START by a requester that may write IMG_CTRL starts a scrub of a legal range with its counts at 0, ends at once in
ABORTED with ERR 1 on any other range, and while one runs sets ERR 2 and leaves it running. SCRUB_ABORT ends a running scrub in
ABORTED with ERR 3. SCRUB_READ reads the next written line of the range: an uncorrectable one is counted with its address, and
after the last one the scrub is DONE. REGION_SELECT loads the staging registers from the entry; REGION_COMMIT applies a legal
staged entry to that entry alone and sets ERR, changing no entry, for any other. From any other requester each does nothing. -/
def Obligations.ScrubsAndRegions : Prop :=
  (∀ (s : State) who, hubOpen s who = true → mayImage who = false → ∀ (i : Fin 64) (kind : BitVec 2),
    ∀ c ∈ [Instr.scrubStart who, .scrubAbort who, .regionSelect who i, .regionCommit who kind],
      exec c s = .next { s with out := [⟨some who, .done⟩] }) ∧
  (∀ (s : State) who, hubOpen s who = true → mayImage who = true →
    (∃ t, exec (.scrubStart who) s = .next t ∧ t = { s with out := [⟨some who, .done⟩], regs := t.regs, ras := t.ras } ∧
      (s.ras.scrub.isSome = true → t.ras = s.ras ∧ rd t Fld.RAS_SCRUB_STATUS_ERR = 2 ∧
        rd t Fld.RAS_SCRUB_STATUS_STATE = rd s Fld.RAS_SCRUB_STATUS_STATE) ∧
      (s.ras.scrub = none → scrubRange s = false → t.ras = s.ras ∧ rd t Fld.RAS_SCRUB_STATUS_STATE = 3 ∧ rd t Fld.RAS_SCRUB_STATUS_ERR = 1 ∧
        rd t Fld.RAS_EVENT_SCRUB_END = 1) ∧
      (s.ras.scrub = none → scrubRange s = true → t.ras = { s.ras with scrub := some 0, scrubRows := [] } ∧
        rd t Fld.RAS_SCRUB_STATUS_STATE = 1 ∧ rd t Fld.RAS_SCRUB_STATUS_ERR = 0 ∧ rd t Fld.RAS_SCRUB_CE_COUNT = 0 ∧
        rd t Fld.RAS_SCRUB_UE_COUNT = 0 ∧ rd t Fld.RAS_SCRUB_RETIRED_COUNT = 0 ∧ rd t Fld.RAS_SCRUB_PCT_PCT = 0)) ∧
    (∃ t, exec (.scrubAbort who) s = .next t ∧
      t = { s with out := [⟨some who, .done⟩], regs := t.regs, ras := { s.ras with scrub := none } } ∧
      (s.ras.scrub.isSome = true → rd t Fld.RAS_SCRUB_STATUS_STATE = 3 ∧ rd t Fld.RAS_SCRUB_STATUS_ERR = 3 ∧
        rd t Fld.RAS_EVENT_SCRUB_END = 1) ∧
      (s.ras.scrub = none → rd t Fld.RAS_SCRUB_STATUS_STATE = rd s Fld.RAS_SCRUB_STATUS_STATE)) ∧
    (∀ i : Fin 64, ∃ t, exec (.regionSelect who i) s = .next t ∧ t = { s with out := [⟨some who, .done⟩], regs := t.regs } ∧
      (let r := regionAt s i.val
       rd t Fld.RAS_RGN_SEL_INDEX = i.val ∧ rd64 t Fld.RAS_RGN_BASE_LO_V Fld.RAS_RGN_BASE_HI_V = r.base % 2 ^ 64 ∧
       rd64 t Fld.RAS_RGN_LEN_LO_V Fld.RAS_RGN_LEN_HI_V = r.len % 2 ^ 64 ∧
       rd64 t Fld.RAS_RGN_SRC_LO_V Fld.RAS_RGN_SRC_HI_V = r.src % 2 ^ 64)) ∧
    (∀ kind : BitVec 2, ∃ t, exec (.regionCommit who kind) s = .next t ∧
      t = { s with
        out := [⟨some who, .done⟩]
        regs := t.regs
        irq := { s.irq with active := t.irq.active }
        mem := { s.mem with regions := t.mem.regions } } ∧
      (let i := rd s Fld.RAS_RGN_SEL_INDEX
       let r : Region := ⟨kind.toNat, rd64 s Fld.RAS_RGN_BASE_LO_V Fld.RAS_RGN_BASE_HI_V, rd64 s Fld.RAS_RGN_LEN_LO_V Fld.RAS_RGN_LEN_HI_V,
         rd64 s Fld.RAS_RGN_SRC_LO_V Fld.RAS_RGN_SRC_HI_V⟩
       rd t Fld.RAS_RGN_CTRL_KIND = kind.toNat ∧ (∀ j, j ≠ i → regionAt t j = regionAt s j) ∧
       (regionOk s i r = true → regionAt t i = (if kind = 0 then Region.none else r) ∧
         rd t Fld.RAS_RGN_CTRL_ERR = rd s Fld.RAS_RGN_CTRL_ERR) ∧
       (regionOk s i r = false → regionAt t i = regionAt s i ∧ rd t Fld.RAS_RGN_CTRL_ERR = 1)))) ∧
  (∀ (s : State) ecc,
    (s.ras.scrub = none → exec (.scrubRead ecc) s = .next { s with out := [] }) ∧
    (∀ pos, s.ras.scrub = some pos →
      (let total := scrubLen s / 64
       let done (t : State) : Prop := t.ras.scrub = none ∧ rd t Fld.RAS_SCRUB_STATUS_STATE = 2 ∧ rd t Fld.RAS_SCRUB_STATUS_ERR = 0 ∧
         rd t Fld.RAS_EVENT_SCRUB_END = 1
       ((∀ i < total - pos, scrubWritten s (pos + i) = false) → ∃ t, exec (.scrubRead ecc) s = .next t ∧
         t = { s with out := [], regs := t.regs, ras := { s.ras with scrub := none } } ∧ done t) ∧
       (∀ i < total - pos, scrubWritten s (pos + i) = true → (∀ j < i, scrubWritten s (pos + j) = false) →
         spaceOf (BitVec.ofNat 64 (scrubBase s)) = 0 → ∃ t, exec (.scrubRead .uncorrectable) s = .next t ∧
         t = { s with out := [], regs := t.regs, ras := t.ras, mem := t.mem } ∧
         rd t Fld.RAS_SCRUB_UE_COUNT = Nat.min (rd s Fld.RAS_SCRUB_UE_COUNT + 1) (2 ^ 32 - 1) ∧
         rd64 t Fld.RAS_SCRUB_LAST_LO_V Fld.RAS_SCRUB_LAST_HI_V = (scrubBase s + 64 * (pos + i)) % 2 ^ 64 ∧
         (rd s Fld.RAS_SCRUB_UE_COUNT = 0 →
           rd64 t Fld.RAS_SCRUB_FIRST_LO_V Fld.RAS_SCRUB_FIRST_HI_V = (scrubBase s + 64 * (pos + i)) % 2 ^ 64) ∧
         (∃ n, lineNo s (offOf (BitVec.ofNat 64 (scrubBase s)) + 64 * (pos + i)) = some n ∧
           .line n ((offOf (BitVec.ofNat 64 (scrubBase s)) + 64 * (pos + i)) / 64 * 64) ∈ t.ras.suspects) ∧
         (pos + i + 1 = total → done t) ∧ (pos + i + 1 < total → t.ras.scrub = some (pos + i + 1))))))

/-- For a cluster whose loops have no step under way: a checker mismatch logs an uncorrected fault, puts the cluster in eclipse
with its core state lost and its launch queue kept, and a second one within 1 s condemns it; retirement of a condemned cluster
takes one of its die's spares from RAS_SPARES, and its logical number goes to the lowest free spare of the die, or with none
RAS_EVENT.SPARE_OUT is set. Retirement of one not condemned does nothing. The failover copy gives the new cluster every scratchpad
byte of the old one and changes no other scratchpad. A condemned unit with no frame in use is retired. A fault injected that a
checker flags changes nothing; one that it misses condemns its block. -/
def Obligations.ClusterAndUnitRetirement : Prop :=
  (∀ (s : State) (c : Fin 152), loopsWith s c.val = [] → ∃ t, exec (.clusterCheckerMismatch c) s = .next t ∧
    (let x := cl s c.val
     let lost : List Ending := x.running.elim [] (fun l => if l.step.isNone then [⟨x.launchNo, l, true⟩] else [])
     t = { s with
       out := []
       regs := t.regs
       clu := t.clu
       saf := { s.saf with clusters := KSet.add s.saf.clusters c.val }
       ras := { s.ras with
         mismatchAt := KMap.set (fun _ => none) s.ras.mismatchAt c.val (some s.ns)
         condemned := if within (KMap.get (fun _ => none) s.ras.mismatchAt c.val) s.ns then KSet.add s.ras.condemned c.val
           else s.ras.condemned } } ∧
     faultLogged s t 6 c.val 0 ∧ (∀ d, d ≠ c.val → cl t d = cl s d) ∧
     cl t c.val = { Cluster.reset with queue := x.queue, launchNo := x.launchNo, nextId := x.nextId, ending := x.ending ++ lost } ∧
     (x.running.any (fun l => l.step.isNone) = true → rd t Fld.CLU_LSTAT_ERR c.val = 1))) ∧
  (∀ (s : State) (c : Fin 152), c.val ∉ s.ras.condemned → exec (.clusterRetire c) s = .next { s with out := [] }) ∧
  (∀ (s : State) (c : Fin 152), c.val ∈ s.ras.condemned → loopsWith s c.val = [] → s.load.running = false →
    (∀ r ∈ s.img.loops, r.slot < 256) → ∃ t, exec (.clusterRetire c) s = .next t ∧
    (t.out, t.ns, t.mer, t.mem, t.stk, t.kvm, t.fab, t.sec, t.pwr, t.irq, t.load) =
      ([], s.ns, s.mer, s.mem, s.stk, s.kvm, s.fab, s.sec, s.pwr, s.irq, s.load) ∧
    t.saf = { s.saf with clusters := KSet.add s.saf.clusters c.val } ∧ rd t Fld.RAS_EVENT_RETIRED = 1 ∧
    t.ras.retiredClusters = KSet.add s.ras.retiredClusters c.val ∧ t.ras.condemned = KSet.del s.ras.condemned c.val ∧
    rd t Fld.RAS_SPARES_DIE_A = sparesLeft t 0 ∧ rd t Fld.RAS_SPARES_DIE_B = sparesLeft t 1 ∧
    (∀ l n, logicalOf s.img c.val = some l → (List.range 152).find? (freeSpare s (dieOfCluster c.val)) = some n →
      t.img = { s.img with lmap := s.img.lmap.set l n } ∧ t.ras.moves = s.ras.moves ++ [(l, c.val, n)] ∧ t.seq = s.seq) ∧
    (∀ l, logicalOf s.img c.val = some l → (∀ n < 152, freeSpare s (dieOfCluster c.val) n = false) →
      rd t Fld.RAS_EVENT_SPARE_OUT = 1 ∧ t.img = s.img ∧ t.ras.moves = s.ras.moves ∧
      ∀ k ∈ loopsOn s.img c.val, (loopOf t k).stopped = true ∧ rd t Fld.SEQ_LSTAT_STOPPED k = 1)) ∧
  (∀ (s : State) (l : Fin 144) bad, (∀ m ∈ s.ras.moves, m.1 ≠ l.val) → exec (.failoverCopyDone l bad) s = .next { s with out := [] }) ∧
  (∀ (s : State) (l : Fin 144) a b rest, takeFirst (fun m => decide (m.1 = l.val)) s.ras.moves = some ((l.val, a, b), rest) → a ≠ b →
    Memory.wf s.mem = true → ∃ t, exec (.failoverCopyDone l []) s = .next t ∧
    t = { s with
      out := []
      ras := { s.ras with moves := rest }
      mem := { s.mem with spad := t.mem.spad, spadPoison := t.mem.spadPoison } } ∧
    ∀ c x, x < 2 ^ 22 → KMap.get (fun _ => 0#8) t.mem.spad (c * 2 ^ 22 + x) =
      KMap.get (fun _ => 0#8) s.mem.spad ((if c = b then a else c) * 2 ^ 22 + x)) ∧
  (∀ (s : State) (u : PairRef),
    (let key := u.stack.val * 1024 + pairRefUnit u
     (key ∉ s.ras.condemnedUnits → exec (.unitRetire u) s = .next { s with out := [] }) ∧
     (key ∈ s.ras.condemnedUnits → usedFrames s (placedUnit u.stack.val (pairRefUnit u)) = [] → exec (.unitRetire u) s = .next { s with
       out := []
       regs := s.regs.setF Fld.RAS_EVENT_RETIRED 1
       saf := { s.saf with units := KSet.add s.saf.units key }
       ras := { s.ras with
         condemnedUnits := KSet.del s.ras.condemnedUnits key
         retiredUnits := KSet.add s.ras.retiredUnits key } }))) ∧
  (∀ s : State, ∀ (c : Option (Fin 152)) (u : Option PairRef),
    exec (.faultInjection c u true) s = .next { s with out := [] } ∧
    exec (.faultInjection c u false) s = .next { s with
      out := []
      regs := s.regs.setF Fld.SAF_EVENT_CHECKER 1
      ras := { s.ras with
        condemned := c.elim s.ras.condemned (fun x => KSet.add s.ras.condemned x.val)
        condemnedUnits := u.elim s.ras.condemnedUnits (fun x => KSet.add s.ras.condemnedUnits (x.stack.val * 1024 + pairRefUnit x)) } })

/-- A checkpoint records the meridian count and holds up to 4,096 stores made from then on. A mismatch with no load and no commit
under way puts the device in eclipse, drops the held stores and starts a recovery; a second within 1 s at the same address makes
the fault permanent and asserts FAULT_N. RECOVERY_RELEASE ends the eclipse and counts the recovery with its time, unless the fault
is permanent or an alarm holds the device. A heartbeat is noted; a die without one for 100 µs enters eclipse with its stacks at
REST; DIE_RECOVERY_END resets every cluster of the die, wakes its stacks and releases it, and after 10 ms without the link the
device enters eclipse with FAULT_N asserted. -/
def Obligations.DeviceAndDieEclipse : Prop :=
  (∀ (s : State) stores, s.saf.stores = [] → exec (.checkpoint stores) s = .next { s with
    out := []
    regs := s.regs.set64 Fld.SAF_CKPT_LO_COUNT Fld.SAF_CKPT_HI_COUNT s.mer
    saf := { s.saf with stores := stores.take 4096, checkpoint := s.saf.checkpoint + 1 } }) ∧
  (∀ (s : State) i tenant stores, s.saf.stores = [.unit i tenant] → ∃ t, exec (.checkpoint stores) s = .next t ∧
    t.saf.stores = stores.take 4096 ∧ KMap.get (fun _ => none) t.mem.bounds.units i = tenant ∧
    ∀ j, j ≠ i → KMap.get (fun _ => none) t.mem.bounds.units j = KMap.get (fun _ => none) s.mem.bounds.units j) ∧
  (∀ (s : State) (pc : BitVec 64) hub, s.load.running = false →
    (∀ e ∈ s.seq.loops, e.2.steps.head?.any (fun x => x.phase = .commit || x.phase = .fixup) = false) → ∃ t,
    exec (.lockstepMismatch pc hub) s = .next t ∧
    (let perm := s.saf.lastMismatch.any (fun x => decide (x.2 = pc.toNat) && within (some x.1) s.ns)
     t = { s with
       out := []
       regs := t.regs
       faultN := s.faultN || perm
       saf := { s.saf with
         stores := []
         recovering := some (s.saf.recovering.getD s.ns)
         lastMismatch := some (s.ns, pc.toNat) } } ∧
     rd t Fld.SAF_STATUS_DEVICE = 1 ∧ faultLogged s t 8 0xF0 0 ∧ (perm = true → rd t Fld.SAF_STATUS_PERM = 1) ∧
     (hub = true → rd t Fld.SAF_EVENT_HUBCMP = 1) ∧ (hub = false → rd t Fld.SAF_EVENT_MISMATCH = 1))) ∧
  (∀ s : State, s.saf.heldMmio = [] →
    (s.saf.recovering = none ∨ rd s Fld.SAF_STATUS_PERM = 1 ∨ s.saf.alarm = true → exec .recoveryRelease s = .next { s with out := [] }) ∧
    (∀ start, s.saf.recovering = some start → rd s Fld.SAF_STATUS_PERM = 0 → s.saf.alarm = false → ∃ t, exec .recoveryRelease s = .next t ∧
      t = { s with
        out := []
        regs := t.regs
        saf := { s.saf with recovering := none }
        pwr := { s.pwr with histLeft := 16 } } ∧
      deviceEclipse t = false ∧ rd t Fld.SAF_EVENT_RECOVERED = 1 ∧
      rd t Fld.SAF_RECOV_COUNT = Nat.min (rd s Fld.SAF_RECOV_COUNT + 1) (2 ^ 32 - 1) ∧
      rd t Fld.SAF_LAST_US = Nat.min 4095 ((s.ns - start) / 1000))) ∧
  (∀ (s : State) (d : Fin 2),
    (let beat := KMap.get (fun _ => 0) s.saf.heartbeat d.val
     let lost := KMap.get (fun _ => none) s.saf.lostAt d.val
     exec (.hubHeartbeat d) s = .next { s with
       out := [], saf := { s.saf with heartbeat := KMap.set (fun _ => 0) s.saf.heartbeat d.val s.ns } } ∧
     (s.ns < beat + 100000 ∨ dieEclipse s d.val = true → exec (.heartbeatLoss d) s = .next { s with out := [] }) ∧
     (beat + 100000 ≤ s.ns → dieEclipse s d.val = false → s.load.running = false → (∀ e ∈ s.seq.loops, e.2.steps = []) → ∃ t,
       exec (.heartbeatLoss d) s = .next t ∧
       t = { s with
         out := []
         regs := t.regs
         pwr := { s.pwr with rest := t.pwr.rest }
         saf := { s.saf with lostAt := KMap.set (fun _ => none) s.saf.lostAt d.val (some s.ns) } } ∧
       dieEclipse t d.val = true ∧ rd t Fld.SAF_EVENT_DIE_LOST = 1 ∧
       ∀ n, n ∈ t.pwr.rest ↔ n ∈ s.pwr.rest ∨ (6 * d.val ≤ n ∧ n < 6 * d.val + 6)) ∧
     (lost = none → ∀ sources, exec (.dieRecoveryEnd d sources) s = .next { s with out := [] } ∧
       exec (.dieLinkLostTimeout d) s = .next { s with out := [] }) ∧
     (∀ start, lost = some start → s.mem.regions = [] → ∀ sources, ∃ t, exec (.dieRecoveryEnd d sources) s = .next t ∧
       t = { s with
         out := []
         regs := t.regs
         shadow := t.shadow
         clu := t.clu
         mem := { s.mem with spad := t.mem.spad, spadPoison := t.mem.spadPoison, waiting := t.mem.waiting, retries := t.mem.retries }
         fab := { s.fab with requests := t.fab.requests }
         hpt := t.hpt
         pwr := { s.pwr with rest := t.pwr.rest }
         saf := { s.saf with lostAt := t.saf.lostAt, heartbeat := KMap.set (fun _ => 0) s.saf.heartbeat d.val s.ns } } ∧
       (∀ c < 152, cl t c = if dieOfCluster c = d.val then Cluster.reset else cl s c) ∧
       (∀ c < 152, ∀ x < 2 ^ 22, KMap.get (fun _ => 0#8) t.mem.spad (c * 2 ^ 22 + x) =
         if dieOfCluster c = d.val then 0#8 else KMap.get (fun _ => 0#8) s.mem.spad (c * 2 ^ 22 + x)) ∧
       dieEclipse t d.val = false ∧ KMap.get (fun _ => none) t.saf.lostAt d.val = none ∧
       rd t Fld.SAF_RECOV_COUNT = Nat.min (rd s Fld.SAF_RECOV_COUNT + 1) (2 ^ 32 - 1) ∧
       rd t Fld.SAF_LAST_US = Nat.min 4095 ((s.ns - start) / 1000) ∧
       ∀ n, n ∈ t.pwr.rest ↔ n ∈ s.pwr.rest ∧ ¬(6 * d.val ≤ n ∧ n < 6 * d.val + 6)) ∧
     (∀ start, lost = some start → (s.ns < start + 10000000 → exec (.dieLinkLostTimeout d) s = .next { s with out := [] }) ∧
       (start + 10000000 ≤ s.ns → exec (.dieLinkLostTimeout d) s = .next { s with
         out := [], regs := s.regs.setF Fld.SAF_STATUS_DEVICE 1, faultN := true }))))

/-- With rotation off or a cluster of the die under test a slot does nothing. A slot whose conditions fail records the refusal
with its code and keeps the test for a retry. Otherwise a cluster that is in no constellation and idle enters eclipse under test;
one in a constellation at rest first hands its context, scratchpad and logical number to an idle spare of its die, and one not at
rest is asked to stop. A passed test resets the cluster, keeps its launch queue and takes it out of eclipse, and is noted with its
time; a first failure is tested again, a second one condemns the cluster and counts a failure. A retry takes the oldest refused
test. BST_HOLD_EXPIRY clears HOLD; BEHIND_CHECK reports a domain untested for more than 720 s. -/
def Obligations.RotationOfClusters : Prop :=
  (∀ (s : State) (d : Fin 2) volts locked,
    (rotationOff s = true ∨ testsCluster s d.val = true ∨ nextCluster s d.val = none →
      exec (.rotationSlot d volts locked) s = .next { s with out := [] }) ∧
    (∀ c, rotationOff s = false → testsCluster s d.val = false → nextCluster s d.val = some c →
      (let code := testRefusal s (some d.val) d.val volts locked
       let begun (t u : State) (cons : List Nat) : Prop :=
         t = { u with
           regs := t.regs
           saf := { u.saf with clusters := KSet.add u.saf.clusters c }
           bst := { u.bst with
             nextCluster := KMap.set (fun _ => 0) u.bst.nextCluster d.val ((c % 76 + 1) % 76)
             tests := u.bst.tests ++ [⟨.cluster c, false, cons, []⟩] } } ∧
         rd t Fld.BST_STATUS_PHASE = 2 ∧ rd t (clusterField d.val) = c
       (code ≠ 0 → ∃ t, exec (.rotationSlot d volts locked) s = .next t ∧
         t = { s with out := [], regs := t.regs, bst := { s.bst with refused := addNew s.bst.refused (.cluster c) } } ∧
         rd t Fld.BST_STATUS_REFUSE = code ∧ rd t Fld.BST_EVENT_REFUSED = 1 ∧ rd t Fld.BST_LAST_KIND = 0 ∧ rd t Fld.BST_LAST_INDEX = c ∧
         rd t Fld.BST_LAST_RESULT = 3) ∧
       (code = 0 → logicalOf s.img c = none → isIdle s c = true → ∃ t, exec (.rotationSlot d volts locked) s = .next t ∧ begun t (quiet s) []) ∧
       (code = 0 → logicalOf s.img c = none → isIdle s c = false → exec (.rotationSlot d volts locked) s = .next { s with out := [] }) ∧
       (∀ l n, code = 0 → logicalOf s.img c = some l → consOf s.img l ≠ [] → (List.range 152).find? (fun n =>
           freeSpare s d.val n && decide (rd s Fld.CLU_PWR_STATE n = 0) && isIdle s n) = some n →
         (atRest s c = false → ∃ t, exec (.rotationSlot d volts locked) s = .next t ∧ t = { s with out := [], regs := t.regs, clu := t.clu } ∧
           rd t Fld.CLU_ARR_STATUS_PREEMPT c = 1 ∧ cl t c = { cl s c with stopped := true } ∧ ∀ e, e ≠ c → cl t e = cl s e) ∧
         (atRest s c = true → Memory.wf s.mem = true → ∃ t, exec (.rotationSlot d volts locked) s = .next t ∧
           t.img = { s.img with lmap := s.img.lmap.set l n } ∧ c ∈ t.saf.clusters ∧
           t.bst.tests = s.bst.tests ++ [⟨.cluster c, false, consOf s.img l, []⟩] ∧ rd t Fld.BST_STATUS_PHASE = 2 ∧
           (cl t n).sregs = (cl s c).sregs ∧ (cl t n).vregs = (cl s c).vregs ∧ (cl t n).pc = (cl s c).pc ∧ (cl t c).running = none ∧
           (t.stk, t.kvm, t.fab, t.irq, t.sec, t.ras, t.pwr, t.load) = (s.stk, s.kvm, s.fab, s.irq, s.sec, s.ras, s.pwr, s.load) ∧
           ∀ x < 2 ^ 22, KMap.get (fun _ => 0#8) t.mem.spad (n * 2 ^ 22 + x) = KMap.get (fun _ => 0#8) s.mem.spad (c * 2 ^ 22 + x))) ∧
       (∀ l, code = 0 → logicalOf s.img c = some l → consOf s.img l ≠ [] → (∀ n < 152,
           (freeSpare s d.val n && decide (rd s Fld.CLU_PWR_STATE n = 0) && isIdle s n) = false) → ∃ t,
         exec (.rotationSlot d volts locked) s = .next t ∧ (∀ k ∈ loopsOn s.img c, k ∈ t.bst.inPlace) ∧
         (loopsOn s.img c ≠ [] → rd t Fld.BST_STATUS_INPLACE = 1) ∧
         (loopsWith s c = [] ∧ isIdle s c = true → c ∈ t.saf.clusters ∧ t.bst.tests = s.bst.tests ++ [⟨.cluster c, false, consOf s.img l, []⟩]) ∧
         (loopsWith s c ≠ [] ∨ isIdle s c = false → t.saf = s.saf ∧ t.bst.tests = s.bst.tests))))) ∧
  (∀ (s : State) (c : Fin 152) ok,
    ((∀ x ∈ s.bst.tests, isTest (.cluster c.val) x = false) → exec (.clusterTestEnd c ok) s = .next { s with out := [] }) ∧
    (∀ x rest, takeFirst (isTest (.cluster c.val)) s.bst.tests = some (x, rest) →
      (x.second = false → ∃ t, exec (.clusterTestEnd c false) s = .next t ∧
        t = { s with out := [], regs := t.regs, bst := { s.bst with tests := { x with second := true } :: rest } }) ∧
      (∃ t, exec (.clusterTestEnd c true) s = .next t ∧
        t.saf = { s.saf with clusters := KSet.del s.saf.clusters c.val } ∧ t.bst.tests = rest ∧
        KMap.get (fun _ => 0) t.bst.testedAt c.val = s.ns ∧
        cl t c.val = { Cluster.reset with queue := (cl s c.val).queue, launchNo := (cl s c.val).launchNo, nextId := (cl s c.val).nextId } ∧
        (∀ e, e ≠ c.val → cl t e = cl s e) ∧ rd t Fld.BST_LAST_KIND = 0 ∧ rd t Fld.BST_LAST_INDEX = c.val ∧
        rd t Fld.BST_LAST_RESULT = (if x.second then 1 else 0) ∧ (x.second = true → rd t Fld.BST_EVENT_RETEST = 1) ∧
        rd t Fld.BST_STATUS_PHASE = (if rest = [] then 0 else 2) ∧ (t.stk, t.kvm, t.img, t.irq, t.sec, t.ras) = (s.stk, s.kvm, s.img, s.irq, s.sec, s.ras)) ∧
      (x.second = true → (∀ e ∈ s.seq.loops, e.2.steps = []) → ∃ t, exec (.clusterTestEnd c false) s = .next t ∧
        t = { s with
          out := []
          regs := t.regs
          ras := { s.ras with condemned := KSet.add s.ras.condemned c.val }
          bst := { s.bst with tests := rest, inPlace := t.bst.inPlace } } ∧
        rd t Fld.BST_LAST_RESULT = 2 ∧ rd t Fld.BST_LAST_INDEX = c.val ∧ rd t Fld.BST_EVENT_FAIL = 1 ∧
        rd t Fld.BST_FAILS_COUNT = Nat.min (rd s Fld.BST_FAILS_COUNT + 1) (2 ^ 32 - 1)))) ∧
  (∀ (s : State) volts locked,
    (s.bst.refused = [] ∨ rotationOff s = true → exec (.testRefusalRetry volts locked) s = .next { s with out := [] }) ∧
    (∀ c rest, rotationOff s = false → s.bst.refused = .cluster c :: rest → testsCluster s (dieOfCluster c) = false → mayTest s c = true →
      c < 152 → (let code := testRefusal s (some (dieOfCluster c)) (dieOfCluster c) volts locked
       (code ≠ 0 → ∃ t, exec (.testRefusalRetry volts locked) s = .next t ∧
         t = { s with out := [], regs := t.regs, bst := { s.bst with refused := addNew rest (.cluster c) } } ∧
         rd t Fld.BST_STATUS_REFUSE = code ∧ rd t Fld.BST_EVENT_REFUSED = 1 ∧ rd t Fld.BST_LAST_RESULT = 3) ∧
       (code = 0 → logicalOf s.img c = none → isIdle s c = true → ∃ t, exec (.testRefusalRetry volts locked) s = .next t ∧
         c ∈ t.saf.clusters ∧ t.bst.tests = s.bst.tests ++ [⟨.cluster c, false, [], []⟩] ∧ t.bst.refused = rest)))) ∧
  (∀ s : State, exec .bstHoldExpiry s = .next { s with out := [], regs := s.regs.setF Fld.BST_CTRL_HOLD 0 } ∧
    (s.ns ≤ oldestTest s + 720000000000 → exec .behindCheck s = .next { s with out := [] }) ∧
    (oldestTest s + 720000000000 < s.ns → exec .behindCheck s = .next { s with out := [], regs := s.regs.setF Fld.BST_EVENT_BEHIND 1 }))

/-- A unit slot of a stack that is dark, at REST, already under test or without rotation does nothing; a slot whose conditions
fail records the refusal; otherwise the stack's next unit is under test with its query slots saved. The test ends once the unit
holds no entry: a pass re-initialises the unit with its query slots restored and is noted with its time, a first failure is tested
again, a second one condemns the unit. A write of BST_DIR_CTRL from a requester that may write IMG_CTRL sets BST_EVENT.DENIED
outside MANUFACTURE and RETURN; there it stores its fields, and with START runs the test when its conditions hold, leaving the
signature, RESULT 0 and the block under test re-initialised. -/
def Obligations.UnitAndDirectedTests : Prop :=
  (∀ (s : State) (n : Fin 12) volts locked,
    (rotationOff s = true ∨ isLit n.val = false ∨ n.val ∈ s.pwr.rest ∨ testsUnit s n.val = true ∨ nextTestUnit s n.val = none →
      exec (.unitTestSlot n volts locked) s = .next { s with out := [] }) ∧
    (∀ u, rotationOff s = false → isLit n.val = true → n.val ∉ s.pwr.rest → testsUnit s n.val = false → nextTestUnit s n.val = some u →
      (let code := testRefusal s none (3 + n.val) volts locked
       (code ≠ 0 → ∃ t, exec (.unitTestSlot n volts locked) s = .next t ∧
         t = { s with out := [], regs := t.regs, bst := { s.bst with refused := addNew s.bst.refused (.unit n.val u) } } ∧
         rd t Fld.BST_STATUS_REFUSE = code ∧ rd t Fld.BST_EVENT_REFUSED = 1 ∧ rd t Fld.BST_LAST_KIND = 1 ∧
         rd t Fld.BST_LAST_INDEX = placedUnit n.val u % 8192 ∧ rd t Fld.BST_LAST_RESULT = 3) ∧
       (code = 0 → unitHeld s n.val u = [] → ∃ t, exec (.unitTestSlot n volts locked) s = .next t ∧
         t = { s with
           out := []
           regs := t.regs
           bst := { s.bst with
             nextUnit := KMap.set (fun _ => 0) s.bst.nextUnit n.val ((u + 1) % 1024)
             tests := s.bst.tests ++ [⟨.unit n.val u, false, [], (bankUnit (stk s n.val) u).slots⟩] } } ∧
         rd t Fld.BST_STATUS_PHASE = 2)))) ∧
  (∀ (s : State) (u : PairRef) ok,
    (let n := u.stack.val
     let k := pairRefUnit u
     ((∀ x ∈ s.bst.tests, isTest (.unit n k) x = false) ∨ unitHeld s n k ≠ [] → exec (.unitTestEnd u ok) s = .next { s with out := [] }) ∧
     (∀ x rest, takeFirst (isTest (.unit n k)) s.bst.tests = some (x, rest) → unitHeld s n k = [] →
       (x.second = false → ∃ t, exec (.unitTestEnd u false) s = .next t ∧
         t = { s with out := [], regs := t.regs, bst := { s.bst with tests := { x with second := true } :: rest } }) ∧
       (∃ t, exec (.unitTestEnd u true) s = .next t ∧
         t = { s with
           out := []
           regs := t.regs
           stk := t.stk
           saf := { s.saf with units := KSet.del s.saf.units (n * 1024 + k) }
           bst := { s.bst with tests := rest, testedAt := KMap.set (fun _ => 0) s.bst.testedAt (unitKey n k) s.ns } } ∧
         bankUnit (stk t n) k = { BankUnit.reset with slots := x.slots } ∧ (∀ m, m ≠ n → stk t m = stk s m) ∧
         (∀ j, j ≠ k → bankUnit (stk t n) j = bankUnit (stk s n) j) ∧ rd t Fld.BST_LAST_RESULT = (if x.second then 1 else 0)) ∧
       (x.second = true → ∃ t, exec (.unitTestEnd u false) s = .next t ∧
         t = { s with
           out := []
           regs := t.regs
           stk := t.stk
           ras := { s.ras with condemnedUnits := KSet.add s.ras.condemnedUnits (n * 1024 + k) }
           bst := { s.bst with tests := rest } } ∧
         rd t Fld.BST_LAST_RESULT = 2 ∧ rd t Fld.BST_EVENT_FAIL = 1 ∧
         rd t Fld.BST_FAILS_COUNT = Nat.min (rd s Fld.BST_FAILS_COUNT + 1) (2 ^ 32 - 1))))) ∧
  (∀ (s : State) who (w : BitVec 32) volts locked, hubOpen s who = true →
    (mayImage who = false → exec (.bstDirStart who w volts locked) s = .next { s with out := [⟨some who, .done⟩] }) ∧
    (mayImage who = true → mayDirect s = false → exec (.bstDirStart who w volts locked) s = .next { s with
      out := [⟨some who, .done⟩], regs := s.regs.setF Fld.BST_EVENT_DENIED 1 }) ∧
    (mayImage who = true → mayDirect s = true → ∃ t, exec (.bstDirStart who w volts locked) s = .next t ∧
      (let kind := w.toNat / 2 % 4
       let index := w.toNat / 8 % 2 ^ 13
       let count := w.toNat / 2 ^ 16
       rd t Fld.BST_DIR_CTRL_KIND = kind ∧ rd t Fld.BST_DIR_CTRL_INDEX = index ∧ rd t Fld.BST_DIR_CTRL_COUNT = count ∧
       (w.toNat % 2 = 0 → t = { s with out := [⟨some who, .done⟩], regs := t.regs }) ∧
       (w.toNat % 2 = 1 → kind = 0 → index < 152 →
         (let code := testRefusal s (some (dieOfCluster index)) (dieOfCluster index) volts locked
          (code ≠ 0 → t = { s with out := [⟨some who, .done⟩], regs := t.regs, bst := { s.bst with refused := addNew s.bst.refused (.directed 0 index) } } ∧
            rd t Fld.BST_STATUS_REFUSE = code ∧ rd t Fld.BST_LAST_RESULT = 3) ∧
          (code = 0 → cl t index = Cluster.reset ∧ (∀ c, c ≠ index → cl t c = cl s c) ∧ rd t Fld.BST_LAST_KIND = 0 ∧
            rd t Fld.BST_LAST_INDEX = index ∧ rd t Fld.BST_LAST_RESULT = 0 ∧
            rd64 t Fld.BST_DIR_SIG_LO_SIG Fld.BST_DIR_SIG_HI_SIG = (Config.testSignature (4 * index + 2 ^ 15 * count)
              (BitVec.ofNat 64 (rd64 s Fld.BST_DIR_SEED_LO_SEED Fld.BST_DIR_SEED_HI_SEED))).toNat))) ∧
       (w.toNat % 2 = 1 → kind = 1 → testRefusal s none (3 + unitStack index) volts locked = 0 →
         t = { s with out := [⟨some who, .done⟩], regs := t.regs, stk := t.stk } ∧
         bankUnit (stk t (unitStack index)) (index % 1024) = BankUnit.reset ∧ rd t Fld.BST_LAST_KIND = 1 ∧
         rd t Fld.BST_LAST_INDEX = index ∧ rd t Fld.BST_LAST_RESULT = 0))))

/-- TESTER_PROVISIONING takes BLANK to MANUFACTURE, SEALING_COMMAND MANUFACTURE to SEALED (and in every other state changes
nothing), DEFUNCT_COMMAND SEALED or RETURN to DEFUNCT with the UDS destroyed. In SEALED a good UNLOCK_TOKEN with an unlock fuse
left zeroises every tenant key, uses one fuse, holds the token's count and puts FIELD-DEBUG in force; a good RETURN_TOKEN zeroises
every tenant key, every session and every link key and moves to RETURN; any other token of the two leaves the life cycle and
counts one authentication failure. Nothing else changes, but for the links' own state under a return token. -/
def Obligations.SecurityLifeCycle : Prop :=
  (∀ s : State, s.sec.lcs = 0 →
    exec .testerProvisioning s = .next { s with out := [], sec := { s.sec with lcs := 1, udsDestroyed := false } }) ∧
  (∀ s : State, s.sec.lcs = 1 → exec .sealingCommand s = .next { s with out := [], sec := { s.sec with lcs := 2, certificate := true } }) ∧
  (∀ s : State, s.sec.lcs ≠ 1 → exec .sealingCommand s = .next { s with out := [] }) ∧
  (∀ s : State, lifeCycle s = 2 ∨ lifeCycle s = 4 →
    exec .defunctCommand s =
      .next { s with out := [], sec := { s.sec with lcs := 5, udsDestroyed := true, secrets := false, certificate := false } }) ∧
  (∀ (s : State) serial target count slot block, lifeCycle s = 2 → ∃ t,
    exec (.unlockToken serial target count slot block) s = .next t ∧
    (target = 3 ∧ rd s Fld.SEC_LCS_UNLOCKS < 64 ∧ tokenOk s serial.toNat 3 count.toNat slot.val block = true →
      t = { s with
        out := []
        regs := s.regs.setF Fld.SEC_LCS_UNLOCKS (rd s Fld.SEC_LCS_UNLOCKS + 1)
        sec := { s.sec with keys := [], fieldDebug := true, lastCount := count.toNat } } ∧
      lifeCycle t = 3 ∧ rd t Fld.SEC_LCS_UNLOCKS = rd s Fld.SEC_LCS_UNLOCKS + 1) ∧
    (target ≠ 3 ∨ 64 ≤ rd s Fld.SEC_LCS_UNLOCKS ∨ tokenOk s serial.toNat target.toNat count.toNat slot.val block = false →
      t = { s with
        out := []
        regs := s.regs.incSat Fld.SEC_AUTHFAIL_COUNT
        sec := { s.sec with authFails := s.sec.authFails ++ [(s.ns, none)] } })) ∧
  (∀ (s : State) serial target count slot block, lifeCycle s = 2 → ∃ t,
    exec (.returnToken serial target count slot block) s = .next t ∧
    (target = 4 ∧ tokenOk s serial.toNat 4 count.toNat slot.val block = true →
      t = { s with
        out := t.out
        regs := t.regs
        fresh := t.fresh
        fab := t.fab
        sec := { s.sec with keys := [], lcs := 4, lastCount := count.toNat, sessions := [] } } ∧
      lifeCycle t = 4 ∧ ∀ p < 18, (fport t p).key = none) ∧
    (target ≠ 4 ∨ tokenOk s serial.toNat target.toNat count.toNat slot.val block = false →
      t = { s with
        out := []
        regs := s.regs.incSat Fld.SEC_AUTHFAIL_COUNT
        sec := { s.sec with authFails := s.sec.authFails ++ [(s.ns, none)] } }))

/-- GENERATE installs the generator's next key for the selected tenant when the part may serve and no sequence of the tenant is
PREEMPTED or being swapped, and otherwise only sets SEC_TKEY_STATUS.ERR; DESTROY leaves the selected tenant with no key; both
change no other tenant's key. IMPORT inside a live session whose requester presented the tenant's owner chain installs the key
under the same condition, and otherwise sets ERR and counts one authentication failure. FLOOR_RAISE to a value above the floor and
no higher than IMG_GEN, with a fuse row left, sets the floor and uses one row; with no row left it has no effect. An alarm of
level 1 only logs its source and level; one of level 2 zeroises the affected tenants' keys and sessions and asserts ALARM_N; one
of level 3 zeroises every tenant and link key, every session and the secrets, and puts the device in eclipse with ALARM_N
asserted. -/
def Obligations.TenantKeyCommands : Prop :=
  (∀ (s : State) who, hubOpen s who = true → mayImage who = true → ∃ t, exec (.generate who) s = .next t ∧
    (keyInUse (quiet s) (rd s Fld.SEC_TKEY_SEL_TENANT) = false ∧ mayServe s = true →
      t = { s with
        out := [⟨some who, .done⟩]
        sec := { s.sec with
          drbg := s.sec.drbg + 1
          keys := KMap.set (fun _ => none) s.sec.keys (rd s Fld.SEC_TKEY_SEL_TENANT) (some (Config.drbgKey s.sec.drbg)) } }) ∧
    (keyInUse (quiet s) (rd s Fld.SEC_TKEY_SEL_TENANT) = true ∨ mayServe s = false →
      t = { s with out := [⟨some who, .done⟩], regs := s.regs.setF Fld.SEC_TKEY_STATUS_ERR 1 })) ∧
  (∀ (s : State) who, hubOpen s who = true → mayImage who = true → ∃ t, exec (.destroy who) s = .next t ∧
    t = { s with out := [⟨some who, .done⟩], sec := { s.sec with keys := t.sec.keys } } ∧
    ∀ n, KMap.get (fun _ => none) t.sec.keys n =
      if n = rd s Fld.SEC_TKEY_SEL_TENANT then none else KMap.get (fun _ => none) s.sec.keys n) ∧
  (∀ (s : State) (id : BitVec 32) (n : Fin 1024) key x, sessionOf s id.toNat = some x → spdmUp s = true → x.live = true →
    x.owner = some (Config.ownerHash n.val) → ∃ t, exec (.importKey id n key) s = .next t ∧
    (mayServe s = true ∧ keyInUse (quiet s) n.val = false →
      t = { s with out := t.out, sec := { s.sec with sessions := t.sec.sessions, keys := KMap.set (fun _ => none) s.sec.keys n.val (some key) } }) ∧
    (mayServe s = false ∨ keyInUse (quiet s) n.val = true →
      t = { s with out := t.out, regs := t.regs, sec := { s.sec with authFails := s.sec.authFails ++ [(s.ns, some n.val)] } } ∧
      rd t Fld.SEC_TKEY_STATUS_ERR = 1)) ∧
  (∀ (s : State) who (hi : BitVec 32), hubOpen s who = true → mayImage who = true → floorOf s < hi.toNat * 2 ^ 32 + rd s Fld.SEC_FLOOR_SET_LO_GEN →
    hi.toNat * 2 ^ 32 + rd s Fld.SEC_FLOOR_SET_LO_GEN ≤ imgGen s → ∃ t, exec (.floorRaise who hi) s = .next t ∧
    (s.sec.floorRows < 32 →
      t = { s with out := t.out, regs := t.regs, sec := { s.sec with floorRows := s.sec.floorRows + 1 } } ∧
      floorOf t = hi.toNat * 2 ^ 32 + rd s Fld.SEC_FLOOR_SET_LO_GEN)) ∧
  (∀ (s : State) (src : Fin 5) (die : Fin 15), alarmTrue s src.val die.val = true → ∃ t, exec (.alarmRaise src die) s = .next t ∧
    (alarmLevel s src.val = 1 → t = { s with out := [], regs := t.regs, sec := { s.sec with authFails := t.sec.authFails } } ∧
      rd t (alarmField src.val) = 1) ∧
    (alarmLevel s src.val = 2 ∧ s.kvm.swapOut = none ∧ s.kvm.swapIn = [] → t.alarmN = true ∧ rd t (alarmField src.val) = 1 ∧
      t.sec.keys = s.sec.keys.filter (fun e => !affected s src.val die.val e.1) ∧
      t.sec.sessions = s.sec.sessions.filter (fun x => !x.tenant.any (affected s src.val die.val)) ∧ t.saf = s.saf ∧ t.mem = s.mem) ∧
    (alarmLevel s src.val = 3 → t.alarmN = true ∧ t.saf.alarm = true ∧ rd t Fld.SAF_STATUS_DEVICE = 1 ∧
      t.sec.keys = [] ∧ t.sec.sessions = [] ∧ t.sec.secrets = false ∧ (∀ p < 18, (fport t p).key = none) ∧ t.mem = s.mem))

/-- While the part answers SPDM, GET_VERSION, GET_CAPABILITIES and NEGOTIATE_ALGORITHMS are answered, the last holding the
algorithms selected. With an Alias chain, GET_DIGESTS answers the SHA-384 of slot 0's chain, GET_CERTIFICATE the portion asked
for, and CHALLENGE a signature of the nonce under the Alias key; a challenge that does not verify is an authentication failure.
GET_MEASUREMENTS answers the number of blocks for index 0, one block for an index of Table 14.4, and every block in order for
index 255. While the part does not answer SPDM, each is answered with an error and nothing else happens. The message numbers are
the model's choice (log 30). -/
def Obligations.SpdmIdentityAnswers : Prop :=
  (∀ s : State, spdmUp s = true →
    exec .getVersion s = .next { s with out := [⟨none, .message 0x04 [0x13#8]⟩] } ∧
    exec .getCapabilities s = .next { s with out := [⟨none, .message 0x61 spdmRequests⟩] } ∧
    (∀ offer : BitVec 4, exec (.negotiateAlgorithms offer) s =
      .next { s with out := [⟨none, .message 0x63 (natLe 1 offer.toNat)⟩], sec := { s.sec with negotiated := offer.toNat } }) ∧
    exec (.getMeasurements 0) s = .next { s with out := [⟨none, .message 0x60 [7#8]⟩] } ∧
    exec (.getMeasurements 255) s =
      .next { s with out := [⟨none, .message 0x60 ([1, 2, 3, 4, 5, 6, 7].flatMap (measurementBlock (quiet s)))⟩] } ∧
    (∀ index : BitVec 8, 1 ≤ index.toNat → index.toNat ≤ 7 →
      exec (.getMeasurements index) s = .next { s with out := [⟨none, .message 0x60 (measurementBlock (quiet s) index.toNat)⟩] })) ∧
  (∀ s : State, chainUp s = true →
    exec .getDigests s =
      .next { s with out := [⟨none, .message 0x01 (natLe 48 (Config.sha384 (Config.certificateChain s.ckr.startedAt)).toNat)⟩] } ∧
    (∀ off len : BitVec 16, exec (.getCertificate 0 off len) s =
      .next { s with out := [⟨none, .message 0x02 (((Config.certificateChain s.ckr.startedAt).drop off.toNat).take len.toNat)⟩] }) ∧
    (∀ nonce : BitVec 256, exec (.challenge nonce true) s =
      .next { s with out := [⟨none, .message 0x03 (Config.aliasSign s.ckr.startedAt (natLe 32 nonce.toNat))⟩] }) ∧
    (∀ nonce : BitVec 256, exec (.challenge nonce false) s = .next { s with
      out := [⟨none, .message 0x7F []⟩]
      regs := s.regs.incSat Fld.SEC_AUTHFAIL_COUNT
      sec := { s.sec with authFails := s.sec.authFails ++ [(s.ns, none)] } })) ∧
  (∀ s : State, spdmUp s = false → ∀ (offer slot : BitVec 4) (off len : BitVec 16) (nonce : BitVec 256) (ok : Bool) (index : BitVec 8),
    ∀ c ∈ [Instr.getVersion, .getCapabilities, .negotiateAlgorithms offer, .getDigests, .getCertificate slot off len, .challenge nonce ok,
      .getMeasurements index], exec c s = .next { s with out := [⟨none, .message 0x7F []⟩] })

/-- With an Alias chain and an exchange that verifies, KEY_EXCHANGE adds one session, not yet live, under a number not used
before. FINISH of a session that is not live makes it live, holding the hash of the requester's chain; one that does not verify
drops the session and is an authentication failure. In a live session KEY_UPDATE raises the generation of its keys, HEARTBEAT is
answered and changes nothing, and END_SESSION takes the session away. No other session changes, and nothing else does. The message
numbers are the model's choice (log 30). -/
def Obligations.SpdmSessions : Prop :=
  (∀ s : State, chainUp s = true →
    exec (.keyExchange true) s = .next { s with
      out := [⟨none, .message 0x64 (natLe 4 s.sec.nextSession ++ Config.exchangeData s.sec.nextSession)⟩]
      sec := { s.sec with
        nextSession := s.sec.nextSession + 1
        sessions := s.sec.sessions ++ [⟨s.sec.nextSession, false, none, 0, none⟩] } }) ∧
  (∀ (s : State) (id : BitVec 32) (x : Session), spdmUp s = true → sessionOf s id.toNat = some x →
    (x.live = false → ∀ owner,
      exec (.finish id owner true) s = .next { s with
        out := [⟨none, .message 0x65 []⟩]
        sec := { s.sec with sessions := s.sec.sessions.map (fun y => if y.id = x.id then { x with live := true, owner := owner } else y) } } ∧
      exec (.finish id owner false) s = .next { s with
        out := [⟨none, .message 0x7F []⟩]
        regs := s.regs.incSat Fld.SEC_AUTHFAIL_COUNT
        sec := { s.sec with
          sessions := s.sec.sessions.filter (fun y => y.id ≠ x.id)
          authFails := s.sec.authFails ++ [(s.ns, x.tenant)] } }) ∧
    (x.live = true →
      exec (.keyUpdate id) s = .next { s with
        out := [⟨none, .message 0x69 []⟩]
        sec := { s.sec with sessions := s.sec.sessions.map (fun y => if y.id = x.id then { x with keyGen := x.keyGen + 1 } else y) } } ∧
      exec (.spdmHeartbeat id) s = .next { s with out := [⟨none, .message 0x68 []⟩] } ∧
      exec (.endSession id) s = .next { s with
        out := [⟨none, .message 0x6C []⟩]
        sec := { s.sec with sessions := s.sec.sessions.filter (fun y => y.id ≠ x.id) } }))

/-- A write of PWR_REQ with any of the six states is queued, with its requester, when the queue of 16 has room, the requester may
power what it names and the request is well formed; otherwise it completes MALFORMED and nothing else changes. PWR_REQ_APPLY with
nothing queued does nothing. It takes the next request: one no longer well formed, or whose save area does not fit, completes
MALFORMED; one whose domains need nothing completes DONE; an entry with a refuser completes REFUSED, counted and recorded; any
other begins, and PWR_STATUS.BUSY is set. While an entry runs whose domains have not passed their point of no return, one that has
become busy is aborted; else nothing changes. -/
def Obligations.PowerRequests : Prop :=
  (∀ (s : State) who, hubOpen s who = true → ∀ (save : Bool) (kind : BitVec 2) (index : BitVec 10),
    ∀ e ∈ [(0, Instr.pwrReqWake who save kind index), (1, Instr.pwrReqDusk who save kind index), (2, Instr.pwrReqNight who save kind index),
      (3, Instr.pwrReqRest who save kind index), (4, Instr.pwrReqSleep who save kind index), (5, Instr.pwrReqStandby who save kind index)],
      (let good := s.pwr.queue.length < 16 ∧ mayPower s who e.1 kind.toNat index.toNat = true ∧ reqFormed s e.1 kind.toNat index.toNat = true
       (good → exec e.2 s = .next { s with
         out := [⟨some who, .done⟩]
         pwr := { s.pwr with queue := s.pwr.queue ++ [⟨who, e.1, save, kind.toNat, index.toNat⟩] } }) ∧
       (¬good → ∃ t, exec e.2 s = .next t ∧ t = { s with out := [⟨some who, .done⟩], regs := t.regs } ∧
         rd t Fld.PWR_REQ_STATUS_STATE = e.1 ∧ rd t Fld.PWR_REQ_STATUS_RESULT = 3 ∧ rd t Fld.PWR_REQ_STATUS_REFUSER = 0))) ∧
  (∀ (s : State) flushed, s.pwr.run = none →
    (let shows (t : State) (state result refuser : Nat) : Prop := rd t Fld.PWR_REQ_STATUS_STATE = state ∧
       rd t Fld.PWR_REQ_STATUS_RESULT = result ∧ rd t Fld.PWR_REQ_STATUS_REFUSER = refuser
     (s.pwr.queue = [] → exec (.pwrReqApply flushed) s = .next { s with out := [] }) ∧
     (∀ r rest, s.pwr.queue = r :: rest → r.state < 6 →
       (let all := reqDomains s r.state r.kind r.index
        let bad := reqFormed s r.state r.kind r.index = false ∨
          (r.save = true ∧ (r.state = 0 ∨ r.state = 2) ∧ saveFits s (reqClusters s r.kind r.index) = false)
        let doms := if r.state = 0 then all.filter (needsWake s) else all.filter (needsEntry s r.state)
        let code := refuser s r all flushed
        (bad → ∃ t, exec (.pwrReqApply flushed) s = .next t ∧ t = { s with out := [], regs := t.regs, pwr := { s.pwr with queue := rest } } ∧
          shows t r.state 3 0) ∧
        (¬bad → doms = [] → ∃ t, exec (.pwrReqApply flushed) s = .next t ∧
          t = { s with out := [], regs := t.regs, pwr := { s.pwr with queue := rest } } ∧ shows t r.state 0 0) ∧
        (¬bad → doms ≠ [] → r.state ≠ 0 → code ≠ 0 → ∃ t, exec (.pwrReqApply flushed) s = .next t ∧
          t = { s with out := [], regs := t.regs, pwr := { s.pwr with queue := rest, trace := t.pwr.trace } } ∧ shows t r.state 1 code ∧
          rd t (refuseField code) = Nat.min (rd s (refuseField code) + 1) (2 ^ 32 - 1) ∧ rd t Fld.PWR_EVENT_REFUSED = 1 ∧
          rd t Fld.PWR_REFUSE_LAST_REFUSER = code ∧ rd t Fld.PWR_REFUSE_LAST_STATE = r.state ∧ rd t Fld.PWR_REFUSE_LAST_ABORTED = 0) ∧
        (¬bad → doms ≠ [] → r.state ≠ 0 → code = 0 → ∃ t was, exec (.pwrReqApply flushed) s = .next t ∧
          t = { s with out := [], regs := t.regs, pwr := { s.pwr with queue := rest, toGate := t.pwr.toGate, run := some ⟨r, reqAddr s, doms, [], was⟩ } } ∧
          rd t Fld.PWR_STATUS_BUSY = 1 ∧ ∀ c, (0, c) ∈ doms → rd t Fld.CLU_PWR_STATE c = 3) ∧
        (¬bad → doms ≠ [] → r.state = 0 → ∃ t was, exec (.pwrReqApply flushed) s = .next t ∧
          t = { s with out := [], regs := t.regs, pwr := { s.pwr with
            queue := rest, waking := t.pwr.waking, toWake := t.pwr.toWake, run := some ⟨r, reqAddr s, doms, [], was⟩ } } ∧
          rd t Fld.PWR_STATUS_BUSY = 1 ∧ ∀ c, (0, c) ∈ doms → rd t Fld.CLU_PWR_STATE c = 4)))) ) ∧
  (∀ (s : State) flushed r, s.pwr.run = some r → r.req.state < 6 →
    (r.req.state = 0 ∨ r.past ≠ [] ∨ (∀ d ∈ r.doms, busyDomain s d.1 d.2 = false) →
      exec (.pwrReqApply flushed) s = .next { s with out := [] }) ∧
    (∀ d, r.req.state ≠ 0 → r.past = [] → d ∈ r.doms → busyDomain s d.1 d.2 = true → ∃ t, exec (.pwrReqApply flushed) s = .next t ∧
      t = { s with out := [], regs := t.regs, pwr := { s.pwr with run := none, toGate := [], trace := t.pwr.trace } } ∧
      rd t Fld.PWR_STATUS_BUSY = 0 ∧ rd t Fld.PWR_REQ_STATUS_RESULT = 2 ∧ rd t Fld.PWR_REQ_STATUS_REFUSER = 2 ∧
      rd t Fld.PWR_REFUSE_LAST_ABORTED = 1 ∧ rd t Fld.PWR_EVENT_REFUSED = 1 ∧
      rd t Fld.PWR_REFUSE_BUSY_COUNT = Nat.min (rd s Fld.PWR_REFUSE_BUSY_COUNT + 1) (2 ^ 32 - 1)))

/-- With the last domain of an entry that no work aborts, DOMAIN_ENTRY_DONE completes the request DONE: a cluster in DUSK keeps
its core, one gated into NIGHT loses it and its scratchpad, a stack is at REST, a port at SLEEP, and in STANDBY the part holds its
always-on state alone. NIGHT_SAVE_DONE of a leaf to be saved marks it saved and ready for gating. WAKE_WINDOW starts at most eight
wakes and eight gatings of a die. DOMAIN_WAKE_DONE of a domain that wakes turns it on; of any other nothing happens. STANDBY_WAKE
starts the part's wake on an I3C request or at PWR_WAKE_AT, and STACK_DEMAND_WAKE a stack's where something is held at it;
otherwise they do nothing. -/
def Obligations.PowerEntriesAndWakes : Prop :=
  (∀ (s : State) r (kind : Fin 4) (index : BitVec 8), s.pwr.run = some r → r.doms = [(kind.val, index.toNat)] →
    r.past ≠ [] ∨ busyDomain s kind.val index.toNat = false → r.req.state < 6 → ∀ i, i = index.toNat →
    (let run := exec (.domainEntryDone kind index) s
     let done (t : State) : Prop := rd t Fld.PWR_STATUS_BUSY = 0 ∧ rd t Fld.PWR_REQ_STATUS_STATE = r.req.state ∧
       rd t Fld.PWR_REQ_STATUS_RESULT = 0 ∧ rd t Fld.PWR_REQ_STATUS_REFUSER = 0 ∧ t.pwr.run = none
     (r.req.state = 0 → run = .next { s with out := [] }) ∧
     (kind = 0 → r.req.state = 1 → ∃ t, run = .next t ∧ done t ∧ rd t Fld.CLU_PWR_STATE i = 1 ∧
       t = { s with out := [], regs := t.regs, pwr := { s.pwr with run := none, fifo := t.pwr.fifo, trace := t.pwr.trace } }) ∧
     (∀ mer, kind = 0 → r.req.state = 2 → (0, i, mer) ∈ r.past → ∃ t, run = .next t ∧ done t ∧ rd t Fld.CLU_PWR_STATE i = 2 ∧
       cl t i = Cluster.reset ∧ (∀ d, d ≠ i → cl t d = cl s d) ∧ (∀ x < 2 ^ 22, KMap.get (fun _ => 0#8) t.mem.spad (i * 2 ^ 22 + x) = 0#8) ∧
       (t.stk, t.img, t.kvm, t.sec, t.ras, t.irq) = (s.stk, s.img, s.kvm, s.sec, s.ras, s.irq)) ∧
     (kind = 1 → i < 12 → r.req.state = 3 → ∃ t, run = .next t ∧ done t ∧ t = { s with
       out := [], regs := t.regs, pwr := { s.pwr with run := none, rest := KSet.add s.pwr.rest i, trace := t.pwr.trace } }) ∧
     (kind = 2 → i < 18 → r.req.state = 4 → ∃ t, run = .next t ∧ done t ∧ t = { s with
       out := [], regs := t.regs, pwr := { s.pwr with run := none, sleep := KSet.add s.pwr.sleep i, trace := t.pwr.trace } }) ∧
     (kind = 3 → i = 0 → r.req.state = 5 → ∃ t, run = .next t ∧ done t ∧ t.pwr.standby = true ∧ t.clu = [] ∧ t.mem.spad = [] ∧ t.hpt = []))) ∧
  (∀ s : State, s.pwr.run = none → (∀ kind index, exec (.domainEntryDone kind index) s = .next { s with out := [] }) ∧
    (∀ c, exec (.nightSaveDone c) s = .next { s with out := [] }) ∧
    ∃ t, exec .wakeWindow s = .next t ∧
      t = { s with out := [], pwr := { s.pwr with
        toWake := s.pwr.toWake.filter (fun c => !(windowBatch s.pwr.toWake).contains c)
        toGate := s.pwr.toGate.filter (fun c => !(windowBatch s.pwr.toGate).contains c)
        waking := t.pwr.waking } } ∧
      (∀ k, k ∈ t.pwr.waking ↔ k ∈ s.pwr.waking ∨ ∃ c ∈ windowBatch s.pwr.toWake, k = 1000 + c) ∧
      ∀ d, ((windowBatch s.pwr.toWake).filter (fun c => decide (dieOfCluster c = d))).length ≤ 8) ∧
  (∀ (s : State) (c : Fin 152) r, s.pwr.run = some r → r.req.state = 2 → r.req.save = true → (0, c.val) ∈ r.doms → c.val ∉ s.pwr.toGate →
    rd s Fld.CLU_PWR_SAVED c.val = 0 → r.past ≠ [] ∨ (∀ d ∈ r.doms, busyDomain s d.1 d.2 = false) → ∃ t, exec (.nightSaveDone c) s = .next t ∧
    c.val ∈ t.pwr.toGate ∧ rd t Fld.CLU_PWR_SAVED c.val = 1 ∧ (KMap.get (fun _ => none) t.seq.contexts (2 ^ 20 + c.val)).isSome = true) ∧
  (∀ (s : State) (kind : Fin 4) (index : BitVec 8), ∀ i, i = index.toNat →
    (let run := exec (.domainWakeDone kind index) s
     let key := if kind = 0 then 1000 + i else if kind = 1 then i else if kind = 2 then 12 + i else 999
     (key ∉ s.pwr.waking → run = .next { s with out := [] }) ∧
     (key ∈ s.pwr.waking → s.pwr.run = none → s.mem.waiting = [] →
       (kind = 0 → i < 152 → i ∉ s.pwr.resetOnWake → ∃ t, run = .next t ∧ rd t Fld.CLU_PWR_STATE i = 0 ∧ rd t Fld.CLU_PWR_SAVED i = 0 ∧
         t = { s with
           out := []
           regs := t.regs
           seq := { s.seq with contexts := t.seq.contexts }
           pwr := { s.pwr with waking := KSet.del s.pwr.waking key, trace := t.pwr.trace } }) ∧
       (kind = 0 → i < 152 → i ∈ s.pwr.resetOnWake → ∃ t, run = .next t ∧ rd t Fld.CLU_PWR_STATE i = 0 ∧ cl t i = Cluster.reset ∧
         (∀ d, d ≠ i → cl t d = cl s d) ∧ i ∉ t.pwr.resetOnWake) ∧
       (kind = 1 → i < 12 → ∃ t, run = .next t ∧ t = { s with
         out := []
         regs := t.regs
         pwr := { s.pwr with waking := KSet.del s.pwr.waking key, rest := KSet.del s.pwr.rest i, trace := t.pwr.trace } }) ∧
       (kind = 2 → i < 18 → ∃ t, run = .next t ∧ t = { s with
         out := []
         regs := t.regs
         pwr := { s.pwr with waking := KSet.del s.pwr.waking key, sleep := KSet.del s.pwr.sleep i, trace := t.pwr.trace } } ∧
         portState t i = if rd s Fld.FAB_PORT_CTRL_EN i = 1 then 4 else portState s i) ∧
       (kind = 3 → ∃ t, run = .next t ∧ t.pwr.standby = false ∧ t.pwr.rest = [] ∧ t.pwr.sleep = [] ∧ rd t Fld.PWR_EVENT_WAKE = 1 ∧
         rd t Fld.PWR_STATUS_NOHIST = 1 ∧ (t.clu, t.stk, t.img, t.kvm, t.sec, t.ras) = (s.clu, s.stk, s.img, s.kvm, s.sec, s.ras))))) ∧
  (∀ (s : State) i3c (n : Fin 12),
    (s.pwr.standby = true → i3c = true ∨ wakeAt s = true →
      exec (.standbyWake i3c) s = .next { s with out := [], pwr := { s.pwr with waking := KSet.add s.pwr.waking 999 } }) ∧
    (s.pwr.standby = false ∨ (i3c = false ∧ wakeAt s = false) → exec (.standbyWake i3c) s = .next { s with out := [] }) ∧
    (n.val ∈ s.pwr.rest → s.pwr.standby = false → restHolds s n.val = true →
      exec (.stackDemandWake n) s = .next { s with out := [], pwr := { s.pwr with waking := KSet.add s.pwr.waking n.val } }) ∧
    (n.val ∉ s.pwr.rest ∨ s.pwr.standby = true ∨ restHolds s n.val = false → exec (.stackDemandWake n) s = .next { s with out := [] }))

/-- An AVS request to a legal setpoint, at least 1 ms after the last one, on a rail neither waiting nor suspended, is written over
AVSBus and waits; any other does nothing. A poll within 1 % of the setpoint puts it in force. A retry writes it again up to three
times, then writes the old setpoint and suspends the rail, counted and reported; the suspension's end clears it. PWR_LIMIT_WRITE
stores the limit clamped to 1,200 to 2,400 W and it takes effect at the next window. A window outside STANDBY applies a pending
limit, counts down the windows without history, and while there is none grants every throttled domain its static share. The
correction leaves the coefficients of a rail whose estimate is 0. In STANDBY no window has an effect. -/
def Obligations.VoltagesAndPowerLimit : Prop :=
  (∀ (s : State) (rail : Fin 4) (mv : BitVec 12),
    (let a := avsOf s rail.val
     let early := a.lastAt.any (fun t => decide (s.ns < t + 1000000))
     let good := a.pending = false ∧ a.suspended = false ∧ early = false ∧ setpointOk rail.val a.inForce mv.toNat = true
     let within1 := 99 * a.asked ≤ 100 * mv.toNat ∧ 100 * mv.toNat ≤ 101 * a.asked
     let keeps (t : State) : Prop := t = { s with out := t.out, regs := t.regs, pwr := { s.pwr with avs := t.pwr.avs } } ∧
       ∀ r, r ≠ rail.val → avsOf t r = avsOf s r
     (¬good → exec (.avsRequest rail mv) s = .next { s with out := [] }) ∧
     (good → ∃ t, exec (.avsRequest rail mv) s = .next t ∧ keeps t ∧ t.out = [⟨none, .message (0x1000 + rail.val) (natLe 2 mv.toNat)⟩] ∧
       avsOf t rail.val = { a with asked := mv.toNat, pending := true, writes := 1, lastAt := some s.ns } ∧
       bitsOf (rd t Fld.PWR_AVS_STATUS_PEND) rail.val 1 = 1) ∧
     (a.pending = false ∨ ¬within1 → exec (.avsPoll rail mv) s = .next { s with out := [] }) ∧
     (a.pending = true → within1 → ∃ t, exec (.avsPoll rail mv) s = .next t ∧ keeps t ∧ t.out = [] ∧
       avsOf t rail.val = { a with inForce := a.asked, pending := false, writes := 0 } ∧
       bitsOf (rd t Fld.PWR_AVS_STATUS_PEND) rail.val 1 = 0) ∧
     (a.pending = false → exec (.avsRetry rail) s = .next { s with out := [] }) ∧
     (a.pending = true → a.writes < 3 → ∃ t, exec (.avsRetry rail) s = .next t ∧ keeps t ∧ t.regs = s.regs ∧
       t.out = [⟨none, .message (0x1000 + rail.val) (natLe 2 a.asked)⟩] ∧ avsOf t rail.val = { a with writes := a.writes + 1 }) ∧
     (a.pending = true → 3 ≤ a.writes → ∃ t, exec (.avsRetry rail) s = .next t ∧ keeps t ∧
       t.out = [⟨none, .message (0x1000 + rail.val) (natLe 2 a.inForce)⟩] ∧
       avsOf t rail.val = { a with pending := false, writes := 0, asked := a.inForce, suspended := true } ∧
       rd t Fld.PWR_EVENT_AVS_FAIL = 1 ∧ rd t Fld.PWR_AVS_FAILS_COUNT = Nat.min (rd s Fld.PWR_AVS_FAILS_COUNT + 1) (2 ^ 32 - 1) ∧
       bitsOf (rd t Fld.PWR_AVS_STATUS_SUSP) rail.val 1 = 1) ∧
     (a.suspended = false → exec (.avsSuspendEnd rail) s = .next { s with out := [] }) ∧
     (a.suspended = true → ∃ t, exec (.avsSuspendEnd rail) s = .next t ∧ keeps t ∧ t.out = [] ∧
       avsOf t rail.val = { a with suspended := false } ∧ bitsOf (rd t Fld.PWR_AVS_STATUS_SUSP) rail.val 1 = 0))) ∧
  (∀ (s : State) who (w : BitVec 12), hubOpen s who = true →
    (mayImage who = false → exec (.pwrLimitWrite who w) s = .next { s with out := [⟨some who, .done⟩] }) ∧
    (mayImage who = true → exec (.pwrLimitWrite who w) s = .next { s with
      out := [⟨some who, .done⟩]
      regs := s.regs.setF Fld.PWR_LIMIT_WATTS (Nat.max 1200 (Nat.min 2400 w.toNat))
      pwr := { s.pwr with limitPending := true } })) ∧
  (∀ (s : State) raw cons,
    (s.pwr.standby = true → exec (.arbitrationWindow raw cons) s = .next { s with out := [] }) ∧
    (s.pwr.standby = false → ∃ t, exec (.arbitrationWindow raw cons) s = .next t ∧
      t = { s with out := [], regs := t.regs, stk := t.stk, pwr := t.pwr } ∧ t.pwr.limitPending = false ∧
      t.pwr.limit = (if s.pwr.limitPending then rd s Fld.PWR_LIMIT_WATTS else s.pwr.limit) ∧ t.pwr.histLeft = s.pwr.histLeft - 1 ∧
      rd t Fld.PWR_STATUS_NOHIST = (if s.pwr.histLeft ≤ 1 then 0 else 1) ∧ t.pwr.queue = s.pwr.queue ∧ t.pwr.trace = s.pwr.trace ∧
      (s.pwr.histLeft ≠ 0 → ∀ d < 10, rd t Fld.PWR_DOM_GRANT d = Nat.min 4095 (staticShare s d)) ∧
      ∀ d < 10, rd t Fld.PWR_DOM_LEVEL d = Nat.max (Nat.max (rd t Fld.PWR_DOM_ARB d) (rd t Fld.PWR_DOM_THERM d)) (domFloor t d))) ∧
  (∀ (s : State) tele, ∃ t, exec (.coeffCorrection tele) s = .next t ∧
    t = { s with out := [], pwr := { s.pwr with scaleNum := t.pwr.scaleNum, scaleDen := t.pwr.scaleDen } } ∧
    (∀ r < 5, railEst s r = 0 ∨ tele.length ≤ r → scaleOf t r = scaleOf s r) ∧
    (∀ r < 5, ∀ w, railEst s r ≠ 0 → tele[r]? = some w → KMap.get (fun _ => 1) s.pwr.scaleDen r ≠ 0 →
      scaleOf t r = scaleOf s r * (w : Rat) / (railEst s r : Rat)))

/-- For any domains with non-negative demands and positive shares and a budget of at least 0, arbitrate() answers one grant for
each domain, the grants add up to no more than the budget, no grant exceeds its domain's demand, and if the demands add up to no
more than the budget every domain is granted its demand. -/
def Obligations.ArbiterGrants : Prop :=
  ∀ (demand share : Nat → Rat) (b : Rat) (doms : List Nat), doms.Nodup → 0 ≤ b → (∀ d ∈ doms, 0 ≤ demand d ∧ 0 < share d) →
    (let g := arbitrate demand share (doms.length + 1) b doms []
     (g.map (·.1)).Perm doms ∧ (g.map (·.2)).sum ≤ b ∧ (∀ x ∈ g, x.2 ≤ demand x.1) ∧
     ((doms.map demand).sum ≤ b → ∀ x ∈ g, x.2 = demand x.1))

/-- TEMP_SAMPLE shows the diode and ring readings and their sampling rate; the governing estimate is the diode's while the sensor
is good, the higher of the two while it is suspect and the ring oscillators' once it has failed. Two samples in a row more than 8
°C apart fail the sensor for good; readings more than 3 °C apart for 10 s make it suspect, and 60 s within 3 °C good again. A
compute or hub die at or above 105 °C sets THM_EVENT.LIMIT. The thermal level of a compute die's domain rises by one from 100 °C,
goes to 15 from 105 °C, falls by one up to 97 °C and else stays. Nothing but the sensor's state, the levels and the stacks' next
throttle level changes. -/
def Obligations.TemperatureSamples : Prop :=
  ∀ (s : State) (die : Fin 15) (diode ring : BitVec 8), ∃ t, exec (.tempSample die diode ring) s = .next t ∧
    (let i := die.val
     let diff := (diode.toInt - ring.toInt).natAbs
     let was := rd s Fld.THM_DIE_STATE i
     let x := sensorOf s i
     let now := rd t Fld.THM_DIE_STATE i
     let g : Int := if now = 2 then ring.toInt else if now = 1 then max diode.toInt ring.toInt else diode.toInt
     t = { s with
       out := []
       regs := t.regs
       stk := t.stk
       pwr := { s.pwr with sensors := t.pwr.sensors, governs := KMap.set (fun _ => 0) s.pwr.governs i (10 * g) } } ∧
     rd t Fld.THM_DIE_DIODE i = diode.toNat ∧ rd t Fld.THM_DIE_RING i = ring.toNat ∧ signedOf 8 (rd t Fld.THM_DIE_TEMP i) = g ∧
     rd t Fld.THM_DIE_RATE i = sampleRate i g ∧
     (was = 2 → now = 2) ∧
     (was ≠ 2 → 8 < diff → x.wide = true → now = 2 ∧ rd t Fld.THM_EVENT_FAILED = 1) ∧
     (was = 0 → diff ≤ 8 → 3 < diff → (x.apart = none ∨ ∃ b, x.apart = some b ∧ s.ns < b + 10000000000) → now = 0) ∧
     (∀ b, was = 0 → diff ≤ 8 → 3 < diff → x.apart = some b → b + 10000000000 ≤ s.ns → now = 1 ∧ rd t Fld.THM_EVENT_SUSPECT = 1) ∧
     (was = 0 → diff ≤ 3 → now = 0) ∧
     (∀ b, was = 1 → diff ≤ 3 → x.close = some b → now = if b + 60000000000 ≤ s.ns then 0 else 1) ∧
     (sensorOf t i).wide = decide (8 < diff) ∧
     (i < 3 → 105 ≤ g → rd t Fld.THM_EVENT_LIMIT = 1) ∧
     (i < 2 → (let l := rd s Fld.PWR_DOM_THERM i
       let h : Int := max g (governOf s 2)
       rd t Fld.PWR_DOM_THERM i = if 105 ≤ h then 15 else if 100 ≤ h then Nat.min 15 (l + 1) else if h ≤ 97 then l - 1 else l)))

/-- A well-formed request that PWR_REQ_APPLY refuses adds 1 to its refuser's counter (which saturates), is recorded in
PWR_REFUSE_LAST with ABORTED 0, writes a REFUSED record for the first of its domains at the trace's next place, and sets
PWR_EVENT.REFUSED. An entry before its point of no return that has become busy is aborted by any of the commands that look at it
(the request's own step, a NIGHT save, a window, the end of a domain's entry), and one whose cluster is reset by Castor and Pollux
is aborted too: each time the same is recorded under "busy domain" with ABORTED 1. -/
def Obligations.RefusalsAreRecorded : Prop :=
  ∀ (s : State) (r : PwrReq) (d : Nat × Nat), r.state < 6 → r.kind < 4 → r.index < 1024 →
    (let recorded (t : State) (code aborted : Nat) : Prop :=
       let n := rd64 s Fld.PWR_TRACE_WR_LO_COUNT Fld.PWR_TRACE_WR_HI_COUNT
       rd t (refuseField code) = Nat.min (rd s (refuseField code) + 1) (2 ^ 32 - 1) ∧ rd t Fld.PWR_REFUSE_LAST_REFUSER = code ∧
       rd t Fld.PWR_REFUSE_LAST_STATE = r.state ∧ rd t Fld.PWR_REFUSE_LAST_KIND = r.kind ∧ rd t Fld.PWR_REFUSE_LAST_INDEX = r.index ∧
       rd t Fld.PWR_REFUSE_LAST_ABORTED = aborted ∧ rd t Fld.PWR_EVENT_REFUSED = 1 ∧
       rd64 t Fld.PWR_TRACE_WR_LO_COUNT Fld.PWR_TRACE_WR_HI_COUNT = (n + 1) % 2 ^ 64 ∧
       KMap.get (fun _ => 0#128) t.pwr.trace (n % 32768) = traceRec s.mer 3 d.1 d.2 r.state code 0
     (∀ rest flushed, s.pwr.run = none → s.pwr.queue = r :: rest → reqFormed s r.state r.kind r.index = true →
       (r.save = false ∨ saveFits s (reqClusters s r.kind r.index) = true) → r.state ≠ 0 →
       (reqDomains s r.state r.kind r.index).head? = some d → (reqDomains s r.state r.kind r.index).filter (needsEntry s r.state) ≠ [] →
       refuser s r (reqDomains s r.state r.kind r.index) flushed ≠ 0 → ∃ t, exec (.pwrReqApply flushed) s = .next t ∧
       recorded t (refuser s r (reqDomains s r.state r.kind r.index) flushed) 0) ∧
     (∀ x, s.pwr.run = some x → x.req = r → x.past = [] → x.doms.head? = some d → r.state ≠ 0 →
       (x.doms.any (fun e => busyDomain s e.1 e.2) = true → ∀ (flushed : Bool) (c : Fin 152) (kind : Fin 4) (index : BitVec 8),
         ∀ e ∈ [Instr.pwrReqApply flushed, .nightSaveDone c, .wakeWindow, .domainEntryDone kind index], ∃ t, exec e s = .next t ∧ recorded t 2 1) ∧
       (∀ i : BitVec 10, hubOpen s .supervisor = true → i.toNat < 152 → i.toNat ∉ s.pwr.resetOnWake → (0, i.toNat) ∈ x.doms → ∃ t,
         exec (.clusterReset .supervisor i) s = .next t ∧ recorded t 2 1)))

/-- Outside STANDBY a window's end shows both deviations and judges each reference: its third window in a row above 500 ppm, while
the meridian is trusted, makes it off; the third above 200 ppm makes a good one warn, with an event unless it is absent; the
hundredth at or below 200 ppm makes it good; otherwise it keeps its state. REF_ABSENT shows a reference absent, or as it was
judged. At a switch with AUTO set: holdover begins when neither reference is good and ends on the better one when one is, and a
reference off or absent gives way to a good one; without AUTO the selected reference is taken unless it is absent. In every other
case, and in STANDBY, a switch changes nothing. -/
def Obligations.ReferenceClocks : Prop :=
  (∀ (s : State) (a b : BitVec 32), s.pwr.standby = true → exec (.refWindowEnd a b) s = .next { s with out := [] }) ∧
  (∀ (s : State) (a b : BitVec 32), s.pwr.standby = false → ∃ t, exec (.refWindowEnd a b) s = .next t ∧
    (let trusted := merTrusted s
     let da : Int := if trusted then (a.toNat : Int) - 1000000 else (a.toNat : Int) - b.toNat
     let db : Int := if trusted then (b.toNat : Int) - 1000000 else (b.toNat : Int) - a.toNat
     let judged (dev : Int) (x y : RefTrack) : Prop :=
       y.absent = x.absent ∧ y.warn = (if 200 < dev.natAbs then x.warn + 1 else 0) ∧
       y.off = (if trusted = true ∧ 500 < dev.natAbs then x.off + 1 else 0) ∧ y.good = (if dev.natAbs ≤ 200 then x.good + 1 else 0) ∧
       (trusted = true → 500 < dev.natAbs → 2 ≤ x.off → y.state = 2) ∧
       (¬(trusted = true ∧ 500 < dev.natAbs ∧ 2 ≤ x.off) → 200 < dev.natAbs → 2 ≤ x.warn → x.state = 0 → y.state = 1 ∧ (x.absent = false → rd t Fld.CKR_EVENT_WARN = 1)) ∧
       (dev.natAbs ≤ 200 → 99 ≤ x.good → y.state = 0) ∧
       (dev.natAbs ≤ 200 → x.good < 99 → y.state = x.state) ∧
       (200 < dev.natAbs → ¬(trusted = true ∧ 500 < dev.natAbs ∧ 2 ≤ x.off) → (x.warn < 2 ∨ x.state ≠ 0) → y.state = x.state)
     t = { s with out := [], regs := t.regs, ckr := { s.ckr with trackA := t.ckr.trackA, trackB := t.ckr.trackB } } ∧
     judged da s.ckr.trackA t.ckr.trackA ∧ judged db s.ckr.trackB t.ckr.trackB ∧
     rd t Fld.CKR_REF_PPM_A = ppmWord da ∧ rd t Fld.CKR_REF_PPM_B = ppmWord db ∧
     rd t Fld.CKR_REF_STATUS_A_STATE = refState t.ckr.trackA % 4 ∧ rd t Fld.CKR_REF_STATUS_B_STATE = refState t.ckr.trackB % 4)) ∧
  (∀ (s : State) absent,
    (∃ t, exec (.refAbsent 0 absent) s = .next t ∧
      t = { s with out := [], regs := t.regs, ckr := { s.ckr with trackA := { s.ckr.trackA with absent := absent } } } ∧
      rd t Fld.CKR_REF_STATUS_A_STATE = (if absent then 3 else s.ckr.trackA.state % 4)) ∧
    (∃ t, exec (.refAbsent 1 absent) s = .next t ∧
      t = { s with out := [], regs := t.regs, ckr := { s.ckr with trackB := { s.ckr.trackB with absent := absent } } } ∧
      rd t Fld.CKR_REF_STATUS_B_STATE = (if absent then 3 else s.ckr.trackB.state % 4))) ∧
  (∀ s : State, ∃ t, exec .refSwitch s = .next t ∧ t = { s with out := [], regs := t.regs } ∧
    (let a := refState s.ckr.trackA
     let b := refState s.ckr.trackB
     let act := rd s Fld.CKR_REF_STATUS_ACTIVE
     let held := rd s Fld.CKR_REF_STATUS_HOLDOVER
     let sel := rd s Fld.CKR_REF_CTRL_SEL
     let same := t.regs = s.regs
     let goes (src hold : Nat) : Prop := rd t Fld.CKR_REF_STATUS_ACTIVE = src ∧ rd t Fld.CKR_REF_STATUS_HOLDOVER = hold
     (s.pwr.standby = true → same) ∧
     (s.pwr.standby = false → rd s Fld.CKR_REF_CTRL_AUTO = 1 →
       (held = 1 → a ≠ 0 → b ≠ 0 → same) ∧
       (held = 1 → a = 0 → goes 0 0 ∧ rd t Fld.CKR_EVENT_HOLD_OFF = 1) ∧
       (held = 1 → a ≠ 0 → b = 0 → goes 1 0 ∧ rd t Fld.CKR_EVENT_HOLD_OFF = 1) ∧
       (held = 0 → a ≠ 0 → b ≠ 0 → goes 2 1 ∧ rd t Fld.CKR_EVENT_HOLD_ON = 1) ∧
       (held = 0 → act = 0 → 2 ≤ a → b = 0 → goes 1 0 ∧ rd t Fld.CKR_EVENT_SWITCH = 1) ∧
       (held = 0 → act = 1 → 2 ≤ b → a = 0 → goes 0 0 ∧ rd t Fld.CKR_EVENT_SWITCH = 1) ∧
       (held = 0 → act = 0 → a = 0 ∨ (a = 1 ∧ b = 0) → same) ∧
       (held = 0 → act = 1 → b = 0 ∨ (b = 1 ∧ a = 0) → same)) ∧
     (s.pwr.standby = false → rd s Fld.CKR_REF_CTRL_AUTO = 0 → sel < 2 →
       (let gone := (sel = 0 ∧ a = 3) ∨ (sel = 1 ∧ b = 3)
        (held = 1 → gone → same) ∧ (held = 1 → ¬gone → goes sel 0 ∧ rd t Fld.CKR_EVENT_HOLD_OFF = 1) ∧
        (held = 0 → gone → goes 2 1 ∧ rd t Fld.CKR_EVENT_HOLD_ON = 1) ∧ (held = 0 → ¬gone → act = sel → same) ∧
        (held = 0 → ¬gone → act ≠ sel → goes sel 0 ∧ rd t Fld.CKR_EVENT_SWITCH = 1)))))

/-- PORST low for 10 µs or more, or for 1 µs to 10 µs when the pulse is taken, starts a boot of a part with only its fuses, flash
and retirement records kept; a shorter one does nothing. DEVICE_RESET by the management port does so too but keeps the meridian
count, the trace and the certificates' secrets, unless a boot runs. CLUSTER_RESET by Castor and Pollux, PARTITION_RESET by a
requester of the constellation and PORT_RESET by one that may write IMG_CTRL return the cluster, the constellation's clusters or
the port to reset and nothing of the others; a cluster in DUSK is first woken. From any other requester each sets
CKR_RST_STATUS.REFUSED alone. -/
def Obligations.ResetCommands : Prop :=
  (∀ (s : State) (low : BitVec 32) taken (src : BitVec 2),
    (low.toNat < 1000 ∨ (low.toNat < 10000 ∧ taken = false) → exec (.porst low taken src) s = .next { s with out := [] }) ∧
    (10000 ≤ low.toNat ∨ (1000 ≤ low.toNat ∧ taken = true) → ∃ t, exec (.porst low taken src) s = .next t ∧
      (t.img, t.load, t.mem, t.stk, t.clu, t.kvm, t.seq, t.irq, t.hpt, t.mer, t.shadow) = (Image.none, Load.idle, State.reset.mem, [], [],
        State.reset.kvm, State.reset.seq, State.reset.irq, [], 0, []) ∧
      t.pending = s.pending ∧ t.out = [] ∧ t.ns = s.ns ∧ t.sec.lcs = s.sec.lcs ∧ t.sec.floorRows = s.sec.floorRows ∧ t.sec.keys = [] ∧ t.sec.sessions = [] ∧
      t.ras.retiredClusters = s.ras.retiredClusters ∧ t.ras.retiredUnits = s.ras.retiredUnits ∧ t.ras.spareRows = s.ras.spareRows ∧
      t.ckr.booting = true ∧ t.ckr.params = s.ckr.params ∧ t.ckr.bootSrc = src.toNat % 3 ∧ t.alarmN = false ∧
      rd t Fld.CKR_BOOT_PHASE = 1 ∧ rd t Fld.RAS_SPARES_DIE_A = sparesLeft t 0)) ∧
  (∀ (s : State) who, hubOpen s who = true →
    (isMgmt who = false → exec (.deviceReset who) s = .next { s with
      out := [⟨some who, .done⟩], regs := s.regs.setF Fld.CKR_RST_STATUS_REFUSED 1 }) ∧
    (isMgmt who = true → s.ckr.booting = true → rd s Fld.CKR_BOOT_FAIL = 0 → rd s Fld.CKR_BOOT_PHASE ≠ 0 →
      exec (.deviceReset who) s = .next { s with out := [⟨some who, .done⟩] }) ∧
    (isMgmt who = true → s.ckr.booting = false ∨ rd s Fld.CKR_BOOT_FAIL ≠ 0 → ∃ t, exec (.deviceReset who) s = .next t ∧
      (t.img, t.load, t.mem, t.stk, t.clu, t.kvm, t.seq, t.irq, t.hpt) = (Image.none, Load.idle, State.reset.mem, [], [], State.reset.kvm,
        State.reset.seq, State.reset.irq, []) ∧ t.out = [⟨some who, .done⟩] ∧ t.mer = s.mer ∧ t.pwr.trace = s.pwr.trace ∧ t.sec.keys = [] ∧
      t.sec.secrets = s.sec.secrets ∧ t.sec.lcs = s.sec.lcs ∧ t.ckr.booting = true ∧ rd t Fld.CKR_RST_CAUSE_DEVICE = 1 ∧
      rd t Fld.CKR_BOOT_PHASE = 1)) ∧
  (∀ (s : State) who (i : BitVec 10), hubOpen s who = true →
    (let refused : State := { s with out := [⟨some who, .done⟩], regs := s.regs.setF Fld.CKR_RST_STATUS_REFUSED 1 }
     (who ≠ .supervisor → exec (.clusterReset who i) s = .next refused) ∧
     (mayPartition s who i.toNat = false → exec (.partitionReset who i) s = .next refused) ∧
     (mayImage who = false → exec (.portReset who i) s = .next refused) ∧
     (who = .supervisor → 152 ≤ i.toNat ∨ i.toNat ∈ s.pwr.resetOnWake → exec (.clusterReset who i) s = .next { s with out := [⟨some who, .done⟩] }) ∧
     (who = .supervisor → i.toNat < 152 → i.toNat ∉ s.pwr.resetOnWake → s.pwr.run = none →
       (rd s Fld.CLU_PWR_STATE i.toNat = 0 → ∃ t, exec (.clusterReset who i) s = .next t ∧ rd t Fld.CKR_RST_STATUS_LAST = 3 ∧
         cl t i.toNat = Cluster.reset ∧ (∀ c, c ≠ i.toNat → cl t c = cl s c) ∧
         (∀ x < 2 ^ 22, KMap.get (fun _ => 0#8) t.mem.spad (i.toNat * 2 ^ 22 + x) = 0#8) ∧
         (t.stk, t.img, t.kvm, t.seq, t.irq, t.sec, t.ras, t.saf) = (s.stk, s.img, s.kvm, s.seq, s.irq, s.sec, s.ras, s.saf)) ∧
       (rd s Fld.CLU_PWR_STATE i.toNat = 1 → ∃ t, exec (.clusterReset who i) s = .next t ∧ rd t Fld.CLU_PWR_STATE i.toNat = 4 ∧
         t = { s with
           out := [⟨some who, .done⟩]
           regs := t.regs
           seq := { s.seq with contexts := t.seq.contexts }
           pwr := { s.pwr with
             resetOnWake := KSet.add s.pwr.resetOnWake i.toNat
             waking := KSet.add s.pwr.waking (1000 + i.toNat) } })) ∧
     (mayPartition s who i.toNat = true → conRec s.img i.toNat = none → exec (.partitionReset who i) s = .next { s with out := [⟨some who, .done⟩] }) ∧
     (mayPartition s who i.toNat = true → (conRec s.img i.toNat).isSome = true → s.pwr.run = none → (∀ e ∈ s.seq.loops, e.2.steps = []) →
       (∀ c ∈ physLeaves s.img i.toNat, rd s Fld.CLU_PWR_STATE c = 0) → ∃ t, exec (.partitionReset who i) s = .next t ∧
       rd t Fld.CKR_RST_STATUS_LAST = 2 ∧ (∀ c, cl t c = if c ∈ physLeaves s.img i.toNat then Cluster.reset else cl s c) ∧
       (t.stk, t.img, t.kvm, t.irq, t.sec, t.ras, t.saf) = (s.stk, s.img, s.kvm, s.irq, s.sec, s.ras, s.saf) ∧
       t.seq = { s.seq with conRuns := s.seq.conRuns.filter (fun r => r.con ≠ i.toNat), conDone := KSet.del s.seq.conDone i.toNat }) ∧
     (mayImage who = true → 18 ≤ i.toNat ∨ portResetting s i.toNat = true → exec (.portReset who i) s = .next { s with out := [⟨some who, .done⟩] }) ∧
     (mayImage who = true → i.toNat < 18 → portResetting s i.toNat = false → s.fab.out = [] → s.fab.requests = [] → ∃ t,
       exec (.portReset who i) s = .next t ∧
       t = { s with
         out := [⟨some who, .done⟩]
         regs := t.regs
         fab := { s.fab with ports := t.fab.ports }
         pwr := { s.pwr with sleep := KSet.del s.pwr.sleep i.toNat, waking := KSet.del s.pwr.waking (12 + i.toNat) }
         ckr := { s.ckr with portResets := KSet.add s.ckr.portResets i.toNat } } ∧
       rd t Fld.CKR_RST_STATUS_LAST = 4 ∧ fport t i.toNat = Port.reset ∧
       portState t i.toNat = if rd s Fld.FAB_PORT_CTRL_EN i.toNat = 1 ∧ rd s Fld.FAB_DEVID_VALID = 1 then 1 else 0)))

/-- With no boot under way, or one that has stopped, BOOT_PHASE_END does nothing. Phase 1 starts on reference A, else B, else in
holdover. Phase 2 needs firmware that the ROM accepts and else stops with 1; phases 3, 7 and 8 stop with 3 when the test
conditions do not hold, 3 and 7 with 2 when a group fails; phase 6 stops with 4 when neither stored parameters fit nor training
passes; phase 8 clears the DRAM, stops with 5 when a die has more than four clusters retired; phase 9 stops with 6 unless the
image loads, and else the part is READY. A stop asserts FAULT_N. TRAIN_SAVE by a requester that may write IMG_CTRL stores the
parameters with the serials and diode readings in force. -/
def Obligations.BootPhases : Prop :=
  (∀ (s : State) r, s.ckr.booting = false ∨ rd s Fld.CKR_BOOT_FAIL ≠ 0 → exec (.bootPhaseEnd r) s = .next { s with out := [] }) ∧
  (∀ (s : State) r, s.ckr.booting = true → rd s Fld.CKR_BOOT_FAIL = 0 → ∃ t, exec (.bootPhaseEnd r) s = .next t ∧
    (let phase := rd s Fld.CKR_BOOT_PHASE
     let stops (code : Nat) : Prop := rd t Fld.CKR_BOOT_FAIL = code ∧ t.faultN = true ∧ rd t Fld.CKR_BOOT_PHASE = phase
     let goes (n : Nat) : Prop := rd t Fld.CKR_BOOT_FAIL = 0 ∧ t.faultN = s.faultN ∧ rd t Fld.CKR_BOOT_PHASE = n
     let bad (d : Nat) : Nat := (t.ras.retiredClusters.filter (fun c => dieOfCluster c = d)).length
     (phase ≤ 1 → goes 2 ∧ t = { s with out := [], regs := t.regs } ∧ rd t Fld.CKR_REF_STATUS_ACTIVE =
       if s.ckr.trackA.absent = false then 0 else if s.ckr.trackB.absent = false then 1 else 2) ∧
     (phase = 2 → t = { s with out := [], regs := t.regs, faultN := t.faultN, sec := t.sec } ∧
       ((∀ x ∈ firmwareSources s r, ∀ f, x.2 = some f → firmwareOk s f = false) → stops 1) ∧
       ((∃ x ∈ firmwareSources s r, ∃ f, x.2 = some f ∧ firmwareOk s f = true) → goes 3 ∧ rd t Fld.SEC_BOOT_FW_OK = 1 ∧ t.sec.udsLocked = true)) ∧
     (phase = 3 → t = { s with out := [], regs := t.regs, faultN := t.faultN } ∧ (r.conditions = false → stops 3) ∧
       (r.conditions = true → r.groupsOk = false → stops 2) ∧ (r.conditions = true → r.groupsOk = true → goes 4)) ∧
     (phase = 4 → goes 5 ∧ t = { s with out := [], regs := t.regs }) ∧
     (phase = 5 → goes 6 ∧ t = { s with out := [], regs := t.regs, saf := { s.saf with heartbeat := t.saf.heartbeat } } ∧
       ∀ d < 2, KMap.get (fun _ => 0) t.saf.heartbeat d = s.ns) ∧
     (phase = 6 → t = { s with out := [], regs := t.regs, faultN := t.faultN, ckr := { s.ckr with stackSerials := t.ckr.stackSerials } } ∧
       (storedFit s r = false → r.trained = false → stops 4) ∧
       (storedFit s r = true ∨ r.trained = true → goes 7 ∧ t.ckr.stackSerials = r.stackSerials ∧
         rd t Fld.CKR_TRAIN_CTRL_STORED = if storedFit s r then 1 else 0)) ∧
     (phase = 7 → t = { s with
         out := []
         regs := t.regs
         faultN := t.faultN
         ras := { s.ras with retiredUnits := t.ras.retiredUnits }
         saf := { s.saf with units := t.saf.units } } ∧ (r.conditions = false → stops 3) ∧
       (r.conditions = true → r.groupsOk = false → stops 2) ∧
       (r.conditions = true → r.groupsOk = true → goes 8 ∧ ∀ k, k ∈ t.ras.retiredUnits ↔ k ∈ s.ras.retiredUnits ∨
         ∃ u ∈ r.badUnits, k = u.stack.val * 1024 + pairRefUnit u)) ∧
     (phase = 8 → (r.conditions = false → stops 3) ∧
       (r.conditions = true → (∀ c, c ∈ t.ras.retiredClusters ↔ c ∈ s.ras.retiredClusters ∨ ∃ b ∈ r.badClusters, c = b.val) ∧
         t.mem.dram = [] ∧ t.mem.written = [] ∧ t.mem.poison = [] ∧ t.bst.bootAt = s.ns ∧
         (bad 0 ≤ 4 ∧ bad 1 ≤ 4 → goes 9) ∧ (4 < bad 0 ∨ 4 < bad 1 → stops 5))) ∧
     (phase = 9 → (r.image = none → rd t Fld.CKR_BOOT_FAIL = 6 ∧ t.faultN = true ∧ rd t Fld.CKR_BOOT_READY = rd s Fld.CKR_BOOT_READY) ∧
       (imgState (bootLoad (quiet s) r) = 5 → rd t Fld.CKR_BOOT_READY = 1 ∧ rd t Fld.CKR_EVENT_READY = 1 ∧ t.ckr.booting = false ∧
         t.pwr.histLeft = 0 ∧ rd t Fld.PWR_STATUS_NOHIST = 0) ∧
       (imgState (bootLoad (quiet s) r) ≠ 5 → rd t Fld.CKR_BOOT_FAIL = 6 ∧ t.faultN = true)))) ∧
  (∀ (s : State) who, hubOpen s who = true →
    (mayImage who = false → exec (.trainSave who) s = .next { s with out := [⟨some who, .done⟩] }) ∧
    (mayImage who = true → ∃ t, exec (.trainSave who) s = .next t ∧
      t = { s with
        out := [⟨some who, .done⟩]
        regs := t.regs
        irq := { s.irq with active := t.irq.active }
        ckr := { s.ckr with
          repaired := false
          params := some ⟨true, rd64 s Fld.HUB_SERIAL_LO_SERIAL Fld.HUB_SERIAL_HI_SERIAL, s.ckr.stackSerials,
            (List.range 12).map (fun n => signedOf 8 (rd s Fld.THM_DIE_DIODE (3 + n)))⟩ } } ∧
      rd t Fld.CKR_TRAIN_CTRL_FULL = rd s Fld.CKR_TRAIN_CTRL_FULL))

/-- A TLP of a function that does not exist, or of no plain read or write kind, is answered Unsupported Request. A line read of
the physical function below 2^41 answers the line of hashed space, and a store of bytes changes those bytes alone, where nothing
holds the access. An access to the host window through an invalid table entry has no effect, is an address error and sets
HPT_EVENT.OUT_ERR with its offset; a posted store through a valid one completes as it leaves on the link; a read leaves under a
tag and is held until the host's completion, which answers it with its data, or until its time is out, which answers it with
poison. A completion or time-out of a tag that no request carries does nothing. -/
def Obligations.HostAccesses : Prop :=
  (∀ (s : State) (p : Fin 2) (f : Fin 256) (off : BitVec 42) kind ecc,
    (linkUp s p.val = false ∨ bootHeld s (fnRequester p f) = true → exec (.inboundMemAccess p f off kind ecc) s = .next { s with out := [] }) ∧
    (linkUp s p.val = true → bootHeld s (fnRequester p f) = false → accessFits off.toNat kind = true →
      tlpKind kind = false ∨ fnExists s p.val f.val = false ∨ barAddr s p.val f.val off.toNat = none →
      exec (.inboundMemAccess p f off kind ecc) s = .next { s with out := [⟨some (fnRequester p f), .unsupported⟩] })) ∧
  (∀ (s : State) (p : Fin 2) (off : BitVec 42), linkUp s p.val = true → bootHeld s (.hostPf p) = false → s.mem.formOk = true → off.toNat < 2 ^ 41 →
    (let a := gaddr 0 (localDevice s) off.toNat
     (hashedOpen s (.hostPf p) a .lineRead = true → wayReady s (offOf a) = true → (peekLine s (offOf a)).2 = false → ∃ t,
       exec (.inboundMemAccess p 0 off .lineRead .clean) s = .next t ∧
       t = { s with out := [⟨some (.hostPf p), .data (lineBytes (peekLine s (offOf a)).1) false⟩], regs := t.regs, mem := t.mem, ras := t.ras } ∧
       ∀ o, peekByte t o = peekByte s o) ∧
     (∀ bs, hashedOpen s (.hostPf p) a (.partialStore bs false) = true → lineFree s 0 (offOf a) = true →
       mirrorOf s (offOf a / 64 * 64) = none → wayReady s (offOf a) = true → ∃ t,
       exec (.inboundMemAccess p 0 off (.partialStore bs false) .clean) s = .next t ∧
       t = { s with out := [⟨some (.hostPf p), .done⟩], regs := t.regs, mem := t.mem, load := t.load, ras := t.ras } ∧
       ∀ o, peekByte t o = if offOf a ≤ o ∧ o < offOf a + bs.length then bs.getD (o - offOf a) 0#8 else peekByte s o))) ∧
  (∀ (s : State) who (off : BitVec 41) kind e, isHost who = false → tenantOf s who = none → accessFits off.toNat kind = true →
    kind = .lineRead ∨ (∃ d p, kind = .lineWrite d p) ∨ (∃ bs p, kind = .partialStore bs p) →
    (let p := off.toNat / 2 ^ 40
     let x := off.toNat % 2 ^ 40
     let h := hport s p
     let run := exec (.hostWindowAccess who off kind) s
     let host := entryBase e + x % 2 ^ 21
     let mine (o : Origin) : HostReq := ⟨nextHostTag h, o, who, x, host, entryFunction e, entryNoSnoop e, entryCxl e, kind, none⟩
     KMap.get (fun _ => none) h.cache (x / 2 ^ 21) = some e →
     (entryValid e = false → ∃ t, run = .next t ∧ t = { s with out := [⟨some who, .addressError 1⟩], regs := t.regs } ∧
       rd t Fld.HPT_EVENT_OUT_ERR p = 1 ∧ rd64 t Fld.HPT_OERR_LO_OFFSET Fld.HPT_OERR_HI_OFFSET p = x) ∧
     (entryValid e = true → entryCxl e = false → linkUp s p = true → h.outbound = [] → kind ≠ .lineRead → ∃ t, run = .next t ∧
       t = { s with
         out := [⟨none, .tlp p true false (entryNoSnoop e) (entryFunction e) 0 host (storeData kind).1 (storeData kind).2⟩, ⟨some who, .done⟩]
         hpt := t.hpt } ∧
       ∀ q, hport t q = hport s q) ∧
     (entryValid e = true → linkUp s p = true → h.outbound = [] → h.open_.length < 768 → kind = .lineRead → ∃ t, run = .next t ∧
       t = { s with
         out := [⟨none, .tlp p false (entryCxl e) (entryNoSnoop e) (entryFunction e) (nextHostTag h) host [] false⟩, ⟨some who, .held⟩]
         hpt := t.hpt } ∧
       hport t p = { h with open_ := h.open_ ++ [mine (.hub who)], nextTag := (nextHostTag h + 1) % 1024 } ∧
       ∀ q, q ≠ p → hport t q = hport s q) ∧
     (entryValid e = true → linkUp s p = false → ∃ t, run = .next t ∧ t = { s with out := [⟨some who, .held⟩], hpt := t.hpt } ∧
       hport t p = { h with outbound := h.outbound ++ [{ mine (.hub who) with tag := 0 }] } ∧ ∀ q, q ≠ p → hport t q = hport s q))) ∧
  (∀ (s : State) (p : Fin 2) (tag : BitVec 10) data poison,
    (openRequest s p.val tag.toNat = none → exec (.hostReadCompletion p tag data poison) s = .next { s with out := [] } ∧
      exec (.hostReadTimeout p tag) s = .next { s with out := [] }) ∧
    (∀ r who, openRequest s p.val tag.toNat = some r → r.kind = .lineRead → r.origin = .hub who → isHost who = false →
      (hport s p.val).outbound = [] → (∀ e ∈ s.seq.loops, e.2.due = none) →
      (let closed (t : State) : Prop := hport t p.val =
           { hport s p.val with open_ := (hport s p.val).open_.filter (fun x => decide (x.tag ≠ tag.toNat)) } ∧
         ∀ q, q ≠ p.val → hport t q = hport s q
       (linkUp s p.val = true → data.length = 64 → ∃ t, exec (.hostReadCompletion p tag data poison) s = .next t ∧
         t = { s with out := [⟨some who, .data data poison⟩], hpt := t.hpt } ∧ closed t) ∧
       (linkUp s p.val = false ∨ data.length ≠ 64 → exec (.hostReadCompletion p tag data poison) s = .next { s with out := [] }) ∧
       (∃ t b, exec (.hostReadTimeout p tag) s = .next t ∧ t = { s with out := [⟨some who, .data b true⟩], hpt := t.hpt, fresh := s.fresh + 1 } ∧
         b.length = 64 ∧ closed t))))

/-- A link that is down trains to a rate and width outside STANDBY; PME_TURN_OFF takes it to L2/L3 Ready. A host-port reset takes
the link down, clears what the host had set up on the port and sets RESET; an FLR clears one function's and sets FLR. With the
link up in CXL mode, a snoop is answered RspIHitI, a memory request outside the exposed range is unsupported, a read inside it
answers the line and is tracked when the host keeps a copy, and a back-invalidation gives a tracked line back with its data if
changed. A PLDM update is refused under a level-3 alarm, keeps new firmware for the next boot, or starts a load from boot flash
unless one runs. The message numbers are the model's choice (log 31). -/
def Obligations.HostPortsAndCxl : Prop :=
  (∀ (s : State) (p : Fin 2) (rate : BitVec 2) (width : BitVec 5) cxl,
    (linkUp s p.val = true ∨ rate = 0 ∨ (width ≠ 4 ∧ width ≠ 8 ∧ width ≠ 16) ∨ s.pwr.standby = true →
      exec (.hostLinkUp p rate width cxl) s = .next { s with out := [] }) ∧
    (linkUp s p.val = false → rate ≠ 0 → width = 4 ∨ width = 8 ∨ width = 16 → s.pwr.standby = false → (hport s p.val).outbound = [] →
      (∀ e ∈ s.seq.loops, e.2.due = none) → ∃ t, exec (.hostLinkUp p rate width cxl) s = .next t ∧
      t = { s with out := [], regs := t.regs, hpt := t.hpt } ∧ linkUp t p.val = true ∧ rd t Fld.HPT_LINK_RATE p.val = rate.toNat ∧
      rd t Fld.HPT_LINK_WIDTH p.val = width.toNat ∧
      rd t Fld.HPT_LINK_CXL p.val = if cxl = true ∧ mayCxl s p.val rate.toNat = true then 1 else 0) ∧
    (linkUp s p.val = false → exec (.pmeTurnOff p) s = .next { s with out := [] }) ∧
    (linkUp s p.val = true → ∃ t, exec (.pmeTurnOff p) s = .next t ∧ t = { s with out := [], hpt := t.hpt } ∧
      hport t p.val = { hport s p.val with l23 := true } ∧ linkUp t p.val = false)) ∧
  (∀ (s : State) (p : Fin 2) kind, s.mem.waiting = [] → ∃ t, exec (.hostPortReset p kind) s = .next t ∧
    t = { s with
      out := []
      regs := t.regs
      hpt := t.hpt
      irq := t.irq
      mem := { s.mem with retries := t.mem.retries, snoop := s.mem.snoop.filter (fun x => decide (x.port ≠ p.val)) }
      held := t.held
      probeHeld := t.probeHeld
      saf := { s.saf with heldMmio := t.saf.heldMmio } } ∧
    linkUp t p.val = false ∧ rd t Fld.HPT_EVENT_RESET p.val = 1 ∧
    (rd s Fld.HPT_LINK_RATE p.val ≠ 0 ∨ kind = .linkDown → rd t Fld.HPT_EVENT_LINK_DOWN p.val = 1) ∧
    hport t p.val = { hport s p.val with l23 := false, committed := false, configured := [], cxlWait := [] } ∧
    (∀ k, k ∈ t.irq.msixEnable ↔ k ∈ s.irq.msixEnable ∧ k / 256 ≠ p.val) ∧ (∀ h ∈ t.held, h ∈ s.held ∧ ofFunction p.val none h.who = false)) ∧
  (∀ (s : State) (p : Fin 2) (f : Fin 256),
    (fnExists s p.val f.val = false → exec (.flr p f) s = .next { s with out := [] }) ∧
    (fnExists s p.val f.val = true → ∃ t, exec (.flr p f) s = .next t ∧
      t = { s with
        out := []
        regs := t.regs
        hpt := t.hpt
        irq := t.irq
        mem := { s.mem with retries := t.mem.retries, waiting := t.mem.waiting }
        held := t.held
        probeHeld := t.probeHeld
        saf := { s.saf with heldMmio := t.saf.heldMmio } } ∧
      rd t Fld.HPT_EVENT_FLR p.val = 1 ∧ fnKey p.val f.val ∉ t.irq.msixEnable ∧ f.val ∉ (hport t p.val).configured ∧
      rd t Fld.HPT_LINK_RATE p.val = rd s Fld.HPT_LINK_RATE p.val)) ∧
  (∀ (s : State) (p : Fin 2) (a : BitVec 64),
    (linkUp s p.val = true → rd s Fld.HPT_LINK_CXL p.val = 1 →
      exec (.cxlSnoop p a) s = .next { s with out := [⟨none, .message (0x3000 + p.val) (natLe 8 a.toNat)⟩] }) ∧
    (linkUp s p.val = false ∨ rd s Fld.HPT_LINK_CXL p.val = 0 → exec (.cxlSnoop p a) s = .next { s with out := [] })) ∧
  (∀ (s : State) (p : Fin 2) (off : BitVec 41) store poison keep ecc,
    (linkUp s p.val = false ∨ rd s Fld.HPT_LINK_CXL p.val = 0 →
      exec (.cxlMemAccess p off store poison keep ecc) s = .next { s with out := [] }) ∧
    (linkUp s p.val = true → rd s Fld.HPT_LINK_CXL p.val ≠ 0 → bootHeld s (.hostPf p) = false → hdmExposes s p.val off.toNat = false →
      exec (.cxlMemAccess p off store poison keep ecc) s = .next { s with out := [⟨some (.hostPf p), .unsupported⟩] })) ∧
  (∀ (s : State) (p : Fin 2) (off : BitVec 41) keep, linkUp s p.val = true → rd s Fld.HPT_LINK_CXL p.val ≠ 0 → bootHeld s (.hostPf p) = false →
    hdmExposes s p.val off.toNat = true → s.mem.snoop = [] → s.mem.waiting = [] →
    (let x := off.toNat / 64 * 64
     let a := gaddr 0 (localDevice s) x
     hashedOpen s (.hostPf p) a .lineRead = true → wayReady s x = true → (peekLine s x).2 = false → s.mem.formOk = true → ∃ t,
     exec (.cxlMemAccess p off none false keep .clean) s = .next t ∧
     t = { s with
       out := [⟨some (.hostPf p), .data (lineBytes (peekLine s x).1) false⟩]
       regs := t.regs
       mem := t.mem
       ras := t.ras
       hpt := t.hpt } ∧
     (hport t p.val).committed = true ∧ t.mem.snoop = (if keep then [⟨p.val, x / 64⟩] else []) ∧ ∀ o, peekByte t o = peekByte s o)) ∧
  (∀ (s : State) (p : Fin 2) (line : BitVec 35),
    (⟨p.val, line.toNat⟩ ∉ s.mem.snoop → ∀ dirty, exec (.backInvalidate p line dirty) s = .next { s with out := [] }) ∧
    (⟨p.val, line.toNat⟩ ∈ s.mem.snoop → s.mem.waiting = [] → (hport s p.val).cxlWait = [] →
      (let rest := s.mem.snoop.filter (fun x => !(x.port = p.val && x.line = line.toNat))
       exec (.backInvalidate p line none) s = .next { s with out := [], mem := { s.mem with snoop := rest } } ∧
       (∀ d, wayReady s (line.toNat * 64) = true → mirrorOf s (line.toNat * 64) = none → ∃ t,
         exec (.backInvalidate p line (some d)) s = .next t ∧ t = { s with out := [], mem := t.mem, load := t.load } ∧ t.mem.snoop = rest ∧
         peekLine t (line.toNat * 64) = (d, false))))) ∧
  (∀ (s : State) (f : Firmware) (off : BitVec 64) (bytes : BitVec 29),
    (s.saf.alarm = true → ∀ c, exec (.pldmFirmwareUpdate c) s = .next { s with out := [] }) ∧
    (s.saf.alarm = false → exec (.pldmFirmwareUpdate (.firmware f)) s = .next { s with
      out := [⟨none, .message 0x2001 (natLe 1 0)⟩], ckr := { s.ckr with flashed := some f } }) ∧
    (∀ c n, s.saf.alarm = false → (c = .supervisor off bytes ∧ n = 2) ∨ (c = .image off bytes ∧ n = 3) →
      (s.load.running = true → exec (.pldmFirmwareUpdate c) s = .next { s with out := [], regs := s.regs.setF Fld.IMG_STATUS_REF_BUSY 1 }) ∧
      (s.load.running = false → ∃ t, exec (.pldmFirmwareUpdate c) s = .next t ∧
        t = { s with out := [], regs := t.regs, load := { Load.idle with running := true, srcKind := 1, pldm := some n } } ∧
        imgState t = 1 ∧ rd64 t Fld.IMG_SRC_LO_ADDR Fld.IMG_SRC_HI_ADDR = off.toNat ∧ rd t Fld.IMG_LEN_BYTES = bytes.toNat)))

/-- A read of a context's claim register by its owner, with a claimable source and GDIS 0, returns the claimable source with the
highest PRIO, ties to the lowest number, and moves it to in service there; with none it returns 0xFFF, adds 1 to IRQ_SPURIOUS and
changes nothing else. A read by any other requester returns 0xFFF and changes nothing. A complete at the context that claimed the
source ends its service and no other source's; a complete of a source that is not in service there is ignored and sets
IRQ_STATUS.BADCPL. (A read is made while no boot has stopped and outside STANDBY; a write while the hub takes writes.) -/
def Obligations.ClaimsAndCompletes : Prop :=
  ∀ (s : State) (who : Requester) (reg : ClaimReg) (c : Context), bootHeld s who = false → s.pwr.standby = false →
    ((reg = .supervisor ∧ who = .supervisor ∧ c = .supervisor) ∨ (reg = .management ∧ ownsManagement who = true ∧ c = .management) ∨
      (∃ v : Fin 2048, reg = .vector v ∧ hasVector s who v.val = true ∧ vectorContext who v.val = some c)) →
    (gdis s = false → claimableAt s c ≠ [] → ∃ t n, exec (.irqClaim who reg) s = .next t ∧
      t.out = [⟨some who, .value (BitVec.ofNat 64 (n % 2 ^ 32))⟩] ∧ n ∈ claimableAt s c ∧
      (∀ m ∈ claimableAt s c, (srcCfg s m).prio < (srcCfg s n).prio ∨ (srcCfg s m).prio = (srcCfg s n).prio ∧ n ≤ m) ∧
      inService t n = some c ∧ (∀ m, m ≠ n → inService t m = inService s m) ∧
      t = { s with out := t.out, irq := { s.irq with inService := t.irq.inService, pulsed := KSet.del s.irq.pulsed n, active := t.irq.active } }) ∧
    (gdis s = false → claimableAt s c = [] → exec (.irqClaim who reg) s = .next { s with
      out := [⟨some who, .value 0xFFF⟩], regs := s.regs.incSat Fld.IRQ_SPURIOUS_COUNT }) ∧
    (gdis s = true → exec (.irqClaim who reg) s = .next { s with out := [⟨some who, .value 0xFFF⟩] }) ∧
    (∀ other : Requester, bootHeld s other = false → (reg = .supervisor ∧ other ≠ .supervisor ∨ reg = .management ∧ ownsManagement other = false) →
      exec (.irqClaim other reg) s = .next { s with out := [⟨some other, .value 0xFFF⟩] }) ∧
    (∀ n : BitVec 12, hubOpen s who = true → ∃ t, exec (.irqComplete who reg n) s = .next t ∧
      (inService s n.toNat = some c →
        inService t n.toNat = none ∧ (∀ m, m ≠ n.toNat → inService t m = inService s m) ∧
        t = { s with out := t.out, irq := { s.irq with inService := t.irq.inService, active := t.irq.active, pba := t.irq.pba }, hpt := t.hpt }) ∧
      (inService s n.toNat ≠ some c → t = { s with out := [⟨some who, .done⟩], regs := s.regs.setF Fld.IRQ_STATUS_BADCPL 1 }))

/-- With GDIS 0, at IRQ_SOURCE_EVENT every context that has a claimable source is noted as delivered, and the management context,
if it had none before, is delivered by one PLDM event to the receiver; with GDIS 1 nothing is delivered. IRQ_SWSET by a permitted
requester pulses a source from 0x800 to 0xFFE and no other number. GDIS_CLEAR sets GDIS to 0 and delivers every context that has a
claimable source. MSIX_UNMASK writes the vector's mask; clearing it takes the vector's held message out of the PBA when the
function is enabled and not masked. SET_EVENT_RECEIVER names the receiver and changes nothing else. None of them touches memory or
another block. -/
def Obligations.InterruptEvents : Prop :=
  (∀ s : State, ∃ t, exec .irqSourceEvent s = .next t ∧
    t = { s with out := t.out, irq := { s.irq with active := t.irq.active, pba := t.irq.pba }, hpt := t.hpt } ∧
    (gdis s = false → t.irq.active = liveContexts s ∧
      (∀ r, s.irq.eventReceiver = some r → Context.management ∈ liveContexts s → Context.management ∉ s.irq.active →
        ⟨none, .pldmEvent r⟩ ∈ t.out)) ∧
    (gdis s = true → t.out = [] ∧ t.hpt = s.hpt ∧ t.irq.pba = s.irq.pba)) ∧
  (∀ (s : State) who (n : BitVec 12), hubOpen s who = true → ∃ t, exec (.irqSwset who n) s = .next t ∧
    t = { s with out := t.out, irq := { s.irq with pulsed := t.irq.pulsed, active := t.irq.active, pba := t.irq.pba }, hpt := t.hpt } ∧
    (mayImage who = true ∧ 0x800 ≤ n.toNat ∧ n.toNat < 0xFFF →
      ∀ m, m ∈ t.irq.pulsed ↔ m = n.toNat ∨ m ∈ s.irq.pulsed) ∧
    (mayImage who = false ∨ n.toNat < 0x800 ∨ n.toNat = 0xFFF → t = { s with out := [⟨some who, .done⟩] })) ∧
  (∀ (s : State) who, hubOpen s who = true → mayImage who = true → ∃ t, exec (.gdisClear who) s = .next t ∧
    t = { s with out := t.out, regs := s.regs.setF Fld.IRQ_CTRL_GDIS 0, irq := { s.irq with active := t.irq.active, pba := t.irq.pba }, hpt := t.hpt } ∧
    gdis t = false ∧ t.irq.active = liveContexts s ∧
    ∀ r, s.irq.eventReceiver = some r → Context.management ∈ liveContexts s → ⟨none, .pldmEvent r⟩ ∈ t.out) ∧
  (∀ (s : State) (p : Fin 2) (f : Fin 256) (v : BitVec 11) (value : Bool), fnExists s p.val f.val = true → v.toNat < fnVectors s.img p.val f.val →
    ∃ t, exec (.msixUnmask p f (.vector v) value) s = .next t ∧
    t = { s with out := t.out, irq := { s.irq with msixUnmasked := t.irq.msixUnmasked, pba := t.irq.pba }, hpt := t.hpt } ∧
    (value = false → vecKey p.val f.val v.toNat ∈ t.irq.msixUnmasked) ∧
    (value = true → vecKey p.val f.val v.toNat ∉ t.irq.msixUnmasked) ∧
    (value = false → gdis s = false → fnKey p.val f.val ∈ s.irq.msixEnable → fnKey p.val f.val ∉ s.irq.msixFnMask →
      vecKey p.val f.val v.toNat ∉ t.irq.pba)) ∧
  (∀ (s : State) (r : BitVec 8), exec (.setEventReceiver r) s = .next { s with out := [], irq := { s.irq with eventReceiver := some r.toNat } })

/-- For every state whose memories are in their form (DRAM and the scratchpads list each byte once, addresses rising and no zero
byte; every granule in a background-fill queue is queued once, in its own channel, and is in the written map), and every next
state that a step answers, the next state's memories are in that form, and its queue is the old one without its front command: no
command of any kind changes what waits behind it. On an empty queue the queue stays empty. -/
def Obligations.StepKeepsMemoryForm : Prop :=
  ∀ s t : State, s.mem.formOk = true → step s = .next t → t.mem.formOk = true ∧ t.pending = s.pending.tail

/-- At State.reset the memories are in the form that every step keeps, no granule is in the written map, every byte of the
scratchpads reads 0 (log 7) and no command waits. -/
def Obligations.MemoryFormAtReset : Prop :=
  State.reset.mem.formOk = true ∧ State.reset.mem.written = [] ∧ State.reset.pending = [] ∧
  ∀ k, KMap.get (fun _ => 0#8) State.reset.mem.spad k = 0#8

/-- At State.reset the part's identity and features read as the tables give them, the power limit is 2,000 W with no history, each
die has four spare clusters and every bank four spare rows, patrol and migration rates are their resets, no cluster is under test,
the fabric timeout is 1,000, automatic reference selection is on, every vector's claim reads 0xFFF with priority 1 for each
source, every port is DISABLED, no loop is enabled, every cluster and stack is at its reset state, and the part boots and is not
READY. -/
def Obligations.ResetValues : Prop :=
  let s := State.reset
  rd s Fld.HUB_ID_PART = 0x1536 ∧ rd s Fld.HUB_ID_FAMILY = 0x4C58 ∧ rd s Fld.HUB_FEAT0_CLUSTERS = 144 ∧ rd s Fld.HUB_FEAT0_ROWS = 128 ∧
  rd s Fld.HUB_FEAT0_COLS = 128 ∧ rd s Fld.HUB_FEAT2_LIT = 0x3CF ∧ rd s Fld.HUB_FEAT4_SPAD = 4096 ∧ rd s Fld.IMG_MIGRATE_RATE = 100 ∧
  rd s Fld.PWR_LIMIT_WATTS = 2000 ∧ rd s Fld.PWR_STATUS_NOHIST = 1 ∧ rd s Fld.RAS_SPARES_DIE_A = 4 ∧ rd s Fld.RAS_SPARES_DIE_B = 4 ∧
  rd s Fld.RAS_ROWS_MINLEFT = 4 ∧ rd s Fld.RAS_SCRUB_CTRL_RATE = 100 ∧ rd s Fld.BST_STATUS_CLU_A = 255 ∧ rd s Fld.BST_STATUS_CLU_B = 255 ∧
  rd s Fld.FAB_CTRL_TIMEOUT = 1000 ∧ rd s Fld.CKR_REF_CTRL_AUTO = 1 ∧ rd s Fld.MER_CTRL_SRC = 2 ∧ rd s Fld.CKR_BOOT_READY = 0 ∧
  rd s Fld.IRQ_CLAIM_SUP_SOURCE = 0xFFF ∧ rd s Fld.IRQ_CLAIM_MGT_SOURCE = 0xFFF ∧ (∀ n, (srcCfg s n).prio = 1) ∧
  (∀ p < 18, portState s p = 0 ∧ fport s p = Port.reset) ∧ (∀ l < 256, rd s Fld.SEQ_LCTRL_EN l = 0) ∧
  (∀ c, cl s c = Cluster.reset) ∧ (∀ n, stk s n = Stack.reset) ∧ (∀ b, sparesOf s b = 4) ∧ s.ckr.booting = true ∧ isReady s = false
end

