-- ==== Sys2Proof/Laws/Map.lean ====
section
/-! SUPPORT. The laws of sparse data: a read after a write of the same key gives the value written, a write leaves every other key alone,
and every operation keeps the canonical form. -/

namespace Sys2Proof.Machine

variable {α : Type}

theorem KMap.get_insert_same (d : Nat → α) (m : KMap α) (k : Nat) (v : α) : KMap.get d (KMap.insert m k v) k = v := by
  induction m with
  | nil => simp [KMap.insert, KMap.get]
  | cons p t ih =>
    obtain ⟨k', v'⟩ := p
    simp only [KMap.insert]
    split
    · simp [KMap.get]
    · split
      · simp [KMap.get]
      · simp [KMap.get, *]

theorem KMap.get_insert_other (d : Nat → α) (m : KMap α) {k j : Nat} (v : α) (h : j ≠ k) :
    KMap.get d (KMap.insert m k v) j = KMap.get d m j := by
  induction m with
  | nil => simp [KMap.insert, KMap.get, h]
  | cons p t ih =>
    obtain ⟨k', v'⟩ := p
    simp only [KMap.insert]
    split
    · simp [KMap.get, h]
    · split
      · next hk => subst hk; simp [KMap.get, h]
      · simp only [KMap.get, ih]

theorem KMap.get_filter_same (d : Nat → α) (m : KMap α) (k : Nat) : KMap.get d (m.filter (fun p => p.1 ≠ k)) k = d k := by
  induction m with
  | nil => rfl
  | cons p t ih =>
    obtain ⟨k', v'⟩ := p
    by_cases h : k' = k
    · subst h; simpa using ih
    · have h' : k ≠ k' := fun e => h e.symm
      rw [List.filter_cons_of_pos (by simpa using h)]
      simp only [KMap.get, h', if_false]
      exact ih

theorem KMap.get_filter_other (d : Nat → α) (m : KMap α) {k j : Nat} (h : j ≠ k) :
    KMap.get d (m.filter (fun p => p.1 ≠ k)) j = KMap.get d m j := by
  induction m with
  | nil => rfl
  | cons p t ih =>
    obtain ⟨k', v'⟩ := p
    by_cases hk : k' = k
    · subst hk
      rw [List.filter_cons_of_neg (by simp)]
      simp only [KMap.get, h, if_false]
      exact ih
    · rw [List.filter_cons_of_pos (by simpa using hk)]
      simp only [KMap.get, ih]

section Set

variable [DecidableEq α]

/-- A write either takes the key's entries out or puts an entry in. -/
theorem KMap.set_eq (d : Nat → α) (m : KMap α) (k : Nat) (v : α) :
    KMap.set d m k v = if v = d k then m.filter (fun p => p.1 ≠ k) else KMap.insert m k v := by
  cases m <;> rfl

/-- A read of the key written gives the value written. -/
@[simp] theorem KMap.get_set_same (d : Nat → α) (m : KMap α) (k : Nat) (v : α) : KMap.get d (KMap.set d m k v) k = v := by
  rw [KMap.set_eq]
  split
  · next h => rw [KMap.get_filter_same, h]
  · exact KMap.get_insert_same d m k v

/-- A write leaves every other key alone. -/
theorem KMap.get_set_other (d : Nat → α) (m : KMap α) {k j : Nat} (v : α) (h : j ≠ k) :
    KMap.get d (KMap.set d m k v) j = KMap.get d m j := by
  rw [KMap.set_eq]
  split
  · exact KMap.get_filter_other d m h
  · exact KMap.get_insert_other d m v h

/-- Both cases of a read after a write. -/
theorem KMap.get_set (d : Nat → α) (m : KMap α) (k j : Nat) (v : α) :
    KMap.get d (KMap.set d m k v) j = if j = k then v else KMap.get d m j := by
  split
  · next h => subst h; simp
  · next h => exact KMap.get_set_other d m v h

/-- A list of consecutive keys, written and read at one of them. -/
theorem KMap.get_setSeq (d : Nat → α) (vs : List α) : ∀ (m : KMap α) (k j : Nat),
    KMap.get d (KMap.setSeq d m k vs) j = if k ≤ j ∧ j < k + vs.length then vs.getD (j - k) (d j) else KMap.get d m j := by
  induction vs with
  | nil => intro m k j; simp [KMap.setSeq]
  | cons v vs ih =>
    intro m k j
    simp only [KMap.setSeq, ih, KMap.get_set, List.length_cons]
    by_cases hj : j = k
    · subst hj; simp
    · by_cases h1 : k + 1 ≤ j ∧ j < k + 1 + vs.length
      · have h2 : k ≤ j ∧ j < k + (vs.length + 1) := by omega
        have h3 : j - k = (j - (k + 1)) + 1 := by omega
        rw [if_pos h1, if_pos h2, h3]; simp
      · have h2 : ¬(k ≤ j ∧ j < k + (vs.length + 1)) := by omega
        rw [if_neg h1, if_neg h2, if_neg hj]

/-- Outside the keys written, a write of consecutive keys changes nothing. -/
theorem KMap.get_setSeq_other (d : Nat → α) (vs : List α) (m : KMap α) {k j : Nat} (h : j < k ∨ k + vs.length ≤ j) :
    KMap.get d (KMap.setSeq d m k vs) j = KMap.get d m j := by
  rw [KMap.get_setSeq, if_neg (by omega)]

omit [DecidableEq α] in
theorem KMap.length_getSeq (d : Nat → α) (m : KMap α) : ∀ (n k : Nat), (KMap.getSeq d m k n).length = n := by
  intro n
  induction n with
  | zero => intro k; rfl
  | succ n ih => intro k; simp [KMap.getSeq, ih]

/-- Consecutive keys read back as they were written. -/
theorem KMap.getSeq_setSeq (d : Nat → α) (vs : List α) : ∀ (m : KMap α) (k : Nat),
    KMap.getSeq d (KMap.setSeq d m k vs) k vs.length = vs := by
  have key : ∀ (n : Nat) (m : KMap α) (k i : Nat), i + n = vs.length →
      KMap.getSeq d (KMap.setSeq d m k vs) (k + i) n = vs.drop i := by
    intro n
    induction n with
    | zero => intro m k i h; simp [KMap.getSeq, List.drop_eq_nil_of_le (show vs.length ≤ i by omega)]
    | succ n ih =>
      intro m k i h
      have hi : i < vs.length := by omega
      rw [KMap.getSeq, KMap.get_setSeq, if_pos (by omega), show k + i + 1 = k + (i + 1) by omega, ih m k (i + 1) (by omega),
        show k + i - k = i by omega, List.drop_eq_getElem_cons hi]
      simp [hi]
  intro m k
  simpa using key vs.length m k 0 (by omega)

/-! The canonical form -/

theorem KMap.wf_cons (d : Nat → α) (k : Nat) (v : α) (t : KMap α) :
    KMap.wf d ((k, v) :: t) = true ↔ v ≠ d k ∧ (∀ p ∈ t, k < p.1) ∧ KMap.wf d t = true := by
  induction t generalizing k v with
  | nil => simp [KMap.wf]
  | cons p t ih =>
    obtain ⟨k', v'⟩ := p
    have e : KMap.wf d ((k, v) :: (k', v') :: t) = true ↔ (v ≠ d k ∧ k < k') ∧ KMap.wf d ((k', v') :: t) = true := by
      simp [KMap.wf, Bool.and_eq_true]
    rw [e]
    constructor
    · rintro ⟨⟨h1, h2⟩, h3⟩
      refine ⟨h1, ?_, h3⟩
      intro q hq
      rcases List.mem_cons.1 hq with rfl | hq
      · exact h2
      · exact Nat.lt_trans h2 (((ih k' v').1 h3).2.1 q hq)
    · rintro ⟨h1, h2, h3⟩
      exact ⟨⟨h1, h2 (k', v') (by simp)⟩, h3⟩

omit [DecidableEq α] in
theorem KMap.mem_insert {m : KMap α} {k : Nat} {v : α} {p : Nat × α} (h : p ∈ KMap.insert m k v) : p = (k, v) ∨ p ∈ m := by
  induction m with
  | nil => simpa [KMap.insert] using h
  | cons q t ih =>
    obtain ⟨k', v'⟩ := q
    simp only [KMap.insert] at h
    split at h
    · rcases List.mem_cons.1 h with h | h
      · exact .inl h
      · exact .inr h
    · split at h
      · rcases List.mem_cons.1 h with h | h
        · exact .inl h
        · exact .inr (List.mem_cons_of_mem _ h)
      · rcases List.mem_cons.1 h with h | h
        · exact .inr (h ▸ List.mem_cons_self)
        · rcases ih h with h | h
          · exact .inl h
          · exact .inr (List.mem_cons_of_mem _ h)

/-- A value that differs from the default, put in, keeps the canonical form. -/
theorem KMap.wf_insert (d : Nat → α) (m : KMap α) {k : Nat} {v : α} (hv : v ≠ d k) (h : KMap.wf d m = true) :
    KMap.wf d (KMap.insert m k v) = true := by
  induction m with
  | nil => simpa [KMap.insert, KMap.wf] using hv
  | cons p t ih =>
    obtain ⟨k', v'⟩ := p
    have h' := (KMap.wf_cons d k' v' t).1 h
    simp only [KMap.insert]
    split
    · next hk =>
      refine (KMap.wf_cons ..).2 ⟨hv, ?_, h⟩
      intro q hq
      rcases List.mem_cons.1 hq with rfl | hq
      · exact hk
      · exact Nat.lt_trans hk (h'.2.1 q hq)
    · split
      · next hk =>
        subst hk
        exact (KMap.wf_cons ..).2 ⟨hv, h'.2.1, h'.2.2⟩
      · next h1 h2 =>
        refine (KMap.wf_cons ..).2 ⟨h'.1, ?_, ih h'.2.2⟩
        intro q hq
        rcases KMap.mem_insert hq with rfl | hq
        · show k' < k
          omega
        · exact h'.2.1 q hq

/-- Entries taken out keep the canonical form. -/
theorem KMap.wf_filter (d : Nat → α) (q : Nat × α → Bool) (m : KMap α) (h : KMap.wf d m = true) :
    KMap.wf d (m.filter q) = true := by
  induction m with
  | nil => simp [KMap.wf]
  | cons p t ih =>
    obtain ⟨k, v⟩ := p
    have h' := (KMap.wf_cons d k v t).1 h
    by_cases hq : q (k, v) = true
    · rw [List.filter_cons_of_pos hq]
      exact (KMap.wf_cons ..).2 ⟨h'.1, fun p hp => h'.2.1 p (List.mem_of_mem_filter hp), ih h'.2.2⟩
    · rw [List.filter_cons_of_neg hq]
      exact ih h'.2.2

/-- A write keeps the canonical form. -/
theorem KMap.wf_set (d : Nat → α) (m : KMap α) (k : Nat) (v : α) (h : KMap.wf d m = true) : KMap.wf d (KMap.set d m k v) = true := by
  rw [KMap.set_eq]
  split
  · exact KMap.wf_filter d _ m h
  · next hv => exact KMap.wf_insert d m hv h

theorem KMap.wf_setSeq (d : Nat → α) (vs : List α) : ∀ (m : KMap α) (k : Nat), KMap.wf d m = true →
    KMap.wf d (KMap.setSeq d m k vs) = true := by
  induction vs with
  | nil => intro m k h; exact h
  | cons v vs ih => intro m k h; exact ih _ _ (KMap.wf_set d m k v h)

/-- In a canonical map a listed entry differs from what an unlisted key reads as. -/
theorem KMap.ne_default_of_mem (d : Nat → α) {m : KMap α} (h : KMap.wf d m = true) {p : Nat × α} (hp : p ∈ m) : p.2 ≠ d p.1 := by
  induction m with
  | nil => simp at hp
  | cons q t ih =>
    obtain ⟨k, v⟩ := q
    have h' := (KMap.wf_cons d k v t).1 h
    rcases List.mem_cons.1 hp with rfl | hp
    · exact h'.1
    · exact ih h'.2.2 hp

/-- Equal contents, equal data: two canonical maps that read alike at every key are the same list. -/
theorem KMap.ext_of_wf (d : Nat → α) : ∀ (m n : KMap α), KMap.wf d m = true → KMap.wf d n = true →
    (∀ k, KMap.get d m k = KMap.get d n k) → m = n := by
  have above : ∀ (t : KMap α) (k : Nat), (∀ p ∈ t, k < p.1) → KMap.get d t k = d k := by
    intro t
    induction t with
    | nil => intro k _; rfl
    | cons q t ih =>
      intro k hk
      have : k ≠ q.1 := Nat.ne_of_lt (hk q (by simp))
      simp only [KMap.get, this, if_false]
      exact ih k (fun p hp => hk p (List.mem_cons_of_mem _ hp))
  intro m
  induction m with
  | nil =>
    intro n _ hn hg
    cases n with
    | nil => rfl
    | cons q t =>
      obtain ⟨k, v⟩ := q
      have := hg k
      simp [KMap.get] at this
      exact absurd this.symm ((KMap.wf_cons d k v t).1 hn).1
  | cons p t ih =>
    obtain ⟨k, v⟩ := p
    intro n hm hn hg
    have hm' := (KMap.wf_cons d k v t).1 hm
    cases n with
    | nil =>
      have := hg k
      simp [KMap.get] at this
      exact absurd this hm'.1
    | cons q u =>
      obtain ⟨l, w⟩ := q
      have hn' := (KMap.wf_cons d l w u).1 hn
      have hkl : k = l := by
        rcases Nat.lt_trichotomy k l with h | h | h
        · have h1 := hg k
          have h2 : KMap.get d ((l, w) :: u) k = d k := above _ k (by
            intro p hp
            rcases List.mem_cons.1 hp with rfl | hp
            · exact h
            · exact Nat.lt_trans h (hn'.2.1 p hp))
          rw [h2] at h1
          simp [KMap.get] at h1
          exact absurd h1 hm'.1
        · exact h
        · have h1 := hg l
          have h2 : KMap.get d ((k, v) :: t) l = d l := above _ l (by
            intro p hp
            rcases List.mem_cons.1 hp with rfl | hp
            · exact h
            · exact Nat.lt_trans h (hm'.2.1 p hp))
          rw [h2] at h1
          simp [KMap.get] at h1
          exact absurd h1.symm hn'.1
      subst hkl
      have hvw : v = w := by simpa [KMap.get] using hg k
      subst hvw
      congr 1
      refine ih u hm'.2.2 hn'.2.2 (fun j => ?_)
      by_cases hj : j = k
      · subst hj; rw [above t j hm'.2.1, above u j hn'.2.1]
      · have := hg j
        simpa [KMap.get, hj] using this

end Set

end Sys2Proof.Machine
end

