-- ==== Sys2Proof/Laws/Memory.lean ====
section
/-! SUPPORT. Every operation over the byte memories keeps their canonical form and that of the fill queues, and reset has it. -/

namespace Sys2Proof.Machine

variable {α : Type} [DecidableEq α]

/-! Maps and sets of keys -/

omit [DecidableEq α] in
/-- A read answers the default or a listed entry. -/
theorem KMap.get_cases (d : Nat → α) (m : KMap α) (k : Nat) : KMap.get d m k = d k ∨ (k, KMap.get d m k) ∈ m := by
  induction m with
  | nil => exact .inl rfl
  | cons p t ih =>
    obtain ⟨k', v⟩ := p
    by_cases h : k = k'
    · subst h; exact .inr (by simp [KMap.get])
    · simp only [KMap.get, if_neg h]
      rcases ih with h' | h'
      · exact .inl h'
      · exact .inr (List.mem_cons_of_mem _ h')

/-- In a canonical map an entry is what a read of its key answers. -/
theorem KMap.get_of_mem (d : Nat → α) {m : KMap α} (h : KMap.wf d m = true) {k : Nat} {v : α} (hm : (k, v) ∈ m) :
    KMap.get d m k = v := by
  induction m with
  | nil => simp at hm
  | cons p t ih =>
    obtain ⟨k', v'⟩ := p
    have h' := (KMap.wf_cons d k' v' t).1 h
    rcases List.mem_cons.1 hm with e | hm
    · cases e; simp [KMap.get]
    · have : k' < k := h'.2.1 _ hm
      simp only [KMap.get, if_neg (show ¬k = k' by omega)]
      exact ih h'.2.2 hm

theorem KSet.mem_add (m : KSet) (k j : Nat) : j ∈ KSet.add m k ↔ j = k ∨ j ∈ m := by
  induction m with
  | nil => simp [KSet.add]
  | cons h t ih =>
    simp only [KSet.add]
    split
    · simp
    · split
      · next e => subst e; simp
      · simp only [List.mem_cons, ih]
        constructor
        · rintro (h | h | h)
          · exact .inr (.inl h)
          · exact .inl h
          · exact .inr (.inr h)
        · rintro (h | h | h)
          · exact .inr (.inl h)
          · exact .inl h
          · exact .inr (.inr h)

theorem KSet.mem_del (m : KSet) (k j : Nat) : j ∈ KSet.del m k ↔ j ∈ m ∧ j ≠ k := by simp [KSet.del]

/-! The fill queues -/

/-- The form of the fill queues, read channel by channel. -/
theorem Memory.fillsOk_iff (m : Memory) : m.fillsOk = true ↔
    KMap.wf (fun _ => []) m.fills = true ∧
    ∀ ch, ((fillsOf m ch).map (·.unit)).Nodup ∧ ∀ f ∈ fillsOf m ch, f.unit / 2 ^ 19 = ch ∧ f.unit ∈ m.written := by
  unfold Memory.fillsOk
  rw [Bool.and_eq_true]
  refine and_congr_right (fun hw => ?_)
  rw [List.all_eq_true]
  constructor
  · intro h ch
    rcases KMap.get_cases (fun _ => ([] : List Fill)) m.fills ch with e | e
    · simp [fillsOf, e]
    · have := h _ e
      simpa [fillsOf] using this
  · rintro h ⟨ch, q⟩ hm
    have e : fillsOf m ch = q := KMap.get_of_mem _ hw hm
    have := h ch
    rw [e] at this
    simpa using this

theorem Memory.formOk_iff (m : Memory) : m.formOk = true ↔
    KMap.wf (fun _ => 0#8) m.dram = true ∧ KMap.wf (fun _ => 0#8) m.spad = true ∧ m.fillsOk = true := by
  simp [Memory.formOk, Memory.wf, and_assoc]

/-- Reset lists nothing. -/
theorem Memory.formOk_reset : State.reset.mem.formOk = true := by decide

/-- A memory that differs elsewhere has the form too. -/
theorem Memory.formOk_congr {m n : Memory} (hd : n.dram = m.dram) (hs : n.spad = m.spad) (hf : n.fills = m.fills)
    (hw : n.written = m.written) (h : m.formOk = true) : n.formOk = true := by
  simpa [Memory.formOk, Memory.wf, Memory.fillsOk, hd, hs, hf, hw] using h

/-- The fill queues stay in form when one channel's queue and the written map change together. -/
theorem Memory.fillsOk_of (m n : Memory) (ch : Nat) (q : List Fill) (hf : n.fills = KMap.set (fun _ => []) m.fills ch q)
    (hq : (q.map (·.unit)).Nodup) (hu : ∀ f ∈ q, f.unit / 2 ^ 19 = ch ∧ f.unit ∈ n.written)
    (hw : ∀ u, u / 2 ^ 19 ≠ ch → u ∈ m.written → u ∈ n.written) (h : m.fillsOk = true) : n.fillsOk = true := by
  rw [Memory.fillsOk_iff] at h ⊢
  refine ⟨by rw [hf]; exact KMap.wf_set _ _ _ _ h.1, fun c => ?_⟩
  have e : fillsOf n c = if c = ch then q else fillsOf m c := by simp only [fillsOf, hf, KMap.get_set]
  rw [e]
  split
  · next hc => subst hc; exact ⟨hq, hu⟩
  · next hc =>
    refine ⟨(h.2 c).1, fun f hfm => ?_⟩
    have h1 := (h.2 c).2 f hfm
    exact ⟨h1.1, hw _ (by rw [h1.1]; exact hc) h1.2⟩

theorem nodup_map_filter {l : List Fill} (p : Fill → Bool) (h : (l.map (·.unit)).Nodup) : ((l.filter p).map (·.unit)).Nodup :=
  List.Nodup.sublist (List.Sublist.map _ List.filter_sublist) h

/-- A queue of the same channel that keeps some of its granules, whatever it says of their lines. -/
theorem Memory.fillsOk_keep (m n : Memory) (ch : Nat) (g : Fill → Fill) (p : Fill → Bool) (hg : ∀ f, (g f).unit = f.unit)
    (hf : n.fills = KMap.set (fun _ => []) m.fills ch (((fillsOf m ch).map g).filter p)) (hw : n.written = m.written)
    (h : m.fillsOk = true) : n.fillsOk = true := by
  have h0 := ((Memory.fillsOk_iff m).1 h).2 ch
  refine Memory.fillsOk_of m n ch _ hf (nodup_map_filter _ ?_) ?_ (fun u _ hu => by rw [hw]; exact hu) h
  · rw [List.map_map, show (fun f : Fill => f.unit) ∘ g = (fun f : Fill => f.unit) from funext hg]
    exact h0.1
  · intro f hfm
    obtain ⟨f0, h1, rfl⟩ := List.mem_map.1 (List.mem_of_mem_filter hfm)
    rw [hg, hw]
    exact h0.2 f0 h1

/-! Operations over the stacks -/

theorem storeLine_formOk (m : Memory) (n : Nat) (d : BitVec 512) (p : Bool) (h : m.formOk = true) :
    (storeLine m n d p).formOk = true := by
  rw [Memory.formOk_iff] at h ⊢
  exact ⟨KMap.wf_setSeq _ _ _ _ h.1, h.2.1, h.2.2⟩

theorem fillLine_formOk (m : Memory) (f : Fill) (i : Nat) (h : m.formOk = true) : (fillLine m f i).formOk = true := by
  unfold fillLine
  split
  · exact h
  · exact storeLine_formOk _ _ _ _ h

/-- A fold of steps that keep the form keeps it. -/
theorem foldl_formOk {β : Type} (f : Memory → β → Memory) (hf : ∀ m b, m.formOk = true → (f m b).formOk = true) :
    ∀ (l : List β) (m : Memory), m.formOk = true → (l.foldl f m).formOk = true := by
  intro l
  induction l with
  | nil => intro m h; exact h
  | cons b l ih => intro m h; exact ih _ (hf m b h)

theorem setFills_keep_formOk (m : Memory) (ch : Nat) (p : Fill → Bool) (h : m.formOk = true) :
    (setFills m ch ((fillsOf m ch).filter p)).formOk = true := by
  rw [Memory.formOk_iff] at h ⊢
  exact ⟨h.1, h.2.1, Memory.fillsOk_keep m _ ch id p (fun _ => rfl) (by simp [setFills]) rfl h.2.2⟩

theorem finishFill_formOk (m : Memory) (ch : Nat) (f : Fill) (h : m.formOk = true) : (finishFill m ch f).formOk = true :=
  setFills_keep_formOk _ _ _ (foldl_formOk _ (fun m i hm => fillLine_formOk m f i hm) _ _ h)

theorem makeRoom_formOk (m : Memory) (ch : Nat) (h : m.formOk = true) : (makeRoom m ch).formOk = true := by
  unfold makeRoom
  split
  · split
    · exact finishFill_formOk _ _ _ h
    · exact h
  · exact h

theorem foldl_storeLine_written {β : Type} (f : Memory → β → Memory) (hf : ∀ m b, (f m b).written = m.written) :
    ∀ (l : List β) (m : Memory), (l.foldl f m).written = m.written := by
  intro l
  induction l with
  | nil => intro m; rfl
  | cons b l ih => intro m; rw [List.foldl_cons, ih, hf]

theorem fillLine_written (m : Memory) (f : Fill) (i : Nat) : (fillLine m f i).written = m.written := by
  unfold fillLine; split <;> rfl

theorem makeRoom_written (m : Memory) (ch : Nat) : (makeRoom m ch).written = m.written := by
  unfold makeRoom
  split
  · split
    · exact foldl_storeLine_written _ (fun m i => fillLine_written m _ i) _ _
    · rfl
  · rfl

/-- A line written to the stack, with its first write queued (R100). -/
theorem putLine_formOk (m : Memory) (n : Nat) (d : BitVec 512) (p : Bool) (h : m.formOk = true) : (putLine m n d p).formOk = true := by
  simp only [putLine]
  split
  · refine storeLine_formOk _ _ _ _ ?_
    rw [Memory.formOk_iff] at h ⊢
    exact ⟨h.1, h.2.1, Memory.fillsOk_keep m _ (chanOfLine n) _ _ (fun f => by split <;> rfl) rfl rfl h.2.2⟩
  · next hu =>
    refine storeLine_formOk _ _ _ _ ?_
    have h1 := makeRoom_formOk m (chanOfLine n) h
    have hw := makeRoom_written m (chanOfLine n)
    rw [Memory.formOk_iff] at h1 ⊢
    refine ⟨h1.1, h1.2.1, ?_⟩
    have h0 := ((Memory.fillsOk_iff _).1 h1.2.2).2 (chanOfLine n)
    have hch : unitOfLine n / 2 ^ 19 = chanOfLine n := by simp only [unitOfLine, chanOfLine]; omega
    refine Memory.fillsOk_of (makeRoom m (chanOfLine n)) _ (chanOfLine n) _ rfl ?_ ?_ ?_ h1.2.2
    · have e : fillsOf { makeRoom m (chanOfLine n) with written := KSet.add (makeRoom m (chanOfLine n)).written (unitOfLine n) } (chanOfLine n) =
          fillsOf (makeRoom m (chanOfLine n)) (chanOfLine n) := rfl
      rw [e, List.map_append, List.nodup_append]
      refine ⟨h0.1, by simp, ?_⟩
      intro a ha b hb hab
      simp only [List.map_cons, List.map_nil, List.mem_singleton] at hb
      obtain ⟨f, hf, rfl⟩ := List.mem_map.1 ha
      have := (h0.2 f hf).2
      rw [hw, hab, hb] at this
      exact hu this
    · intro f hf
      rcases List.mem_append.1 hf with hf | hf
      · have := h0.2 f hf
        exact ⟨this.1, (KSet.mem_add _ _ _).2 (.inr this.2)⟩
      · simp only [List.mem_singleton] at hf
        subst hf
        exact ⟨hch, (KSet.mem_add _ _ _).2 (.inl rfl)⟩
    · intro u _ hu'
      exact (KSet.mem_add _ _ _).2 (.inr hu')

/-- A unit freed, its fill cancelled (R102). -/
theorem clearUnit_formOk (m : Memory) (u : Nat) (h : m.formOk = true) : (clearUnit m u).formOk = true := by
  rw [Memory.formOk_iff] at h ⊢
  refine ⟨h.1, h.2.1, ?_⟩
  have h0 := ((Memory.fillsOk_iff m).1 h.2.2).2 (u / 2 ^ 19)
  refine Memory.fillsOk_of m _ (u / 2 ^ 19) _ rfl (nodup_map_filter _ h0.1) ?_ ?_ h.2.2
  · intro f hf
    have h1 := List.mem_filter.1 hf
    have h2 := h0.2 f h1.1
    exact ⟨h2.1, (KSet.mem_del _ _ _).2 ⟨h2.2, by simpa using h1.2⟩⟩
  · intro v hv hv'
    refine (KSet.mem_del _ _ _).2 ⟨hv', ?_⟩
    rintro rfl
    exact hv rfl

theorem performWrite_formOk (m : Memory) (w : PendingWrite) (h : m.formOk = true) : (performWrite m w).formOk = true :=
  putLine_formOk _ _ _ _ h

theorem setAccepted_formOk (m : Memory) (ch : Nat) (q : List PendingWrite) (h : m.formOk = true) : (setAccepted m ch q).formOk = true :=
  Memory.formOk_congr rfl rfl rfl rfl h

theorem settle_formOk (m : Memory) (n : Nat) (h : m.formOk = true) : (settle m n).formOk = true :=
  foldl_formOk _ (fun m w hm => performWrite_formOk m w hm) _ _ (setAccepted_formOk _ _ _ h)

/-- A line of a queued granule filled (R100). -/
theorem fillOneLine_formOk (m : Memory) (ch u line : Nat) (h : m.formOk = true) : (fillOneLine m ch u line).formOk = true := by
  unfold fillOneLine
  split
  · exact h
  · next f _ =>
    have h1 := fillLine_formOk m f line h
    rw [Memory.formOk_iff] at h1 ⊢
    exact ⟨h1.1, h1.2.1, Memory.fillsOk_keep (fillLine m f line) _ ch _ _ (fun g => by split <;> rfl) rfl rfl h1.2.2⟩

/-- The 16 lines of a row (R93). -/
theorem storeRow_formOk (m : Memory) (n chan pc bank row : Nat) (bs : List Byte) (h : m.formOk = true) :
    (storeRow m n chan pc bank row bs).formOk = true :=
  foldl_formOk _ (fun m _ hm => storeLine_formOk m _ _ _ hm) _ _ h

theorem addWritten_formOk (m : Memory) (u : Nat) (h : m.formOk = true) : ({ m with written := KSet.add m.written u } : Memory).formOk = true := by
  rw [Memory.formOk_iff] at h ⊢
  refine ⟨h.1, h.2.1, ?_⟩
  have h0 := (Memory.fillsOk_iff m).1 h.2.2
  exact (Memory.fillsOk_iff _).2 ⟨h0.1, fun ch => ⟨(h0.2 ch).1, fun f hf => ⟨((h0.2 ch).2 f hf).1,
    (KSet.mem_add _ _ _).2 (.inr ((h0.2 ch).2 f hf).2)⟩⟩⟩

theorem writeRow_formOk (s : State) (n chan pc bank row : Nat) (bs : List Byte) (h : s.mem.formOk = true) :
    (writeRow s n chan pc bank row bs).mem.formOk = true := by
  refine storeRow_formOk _ _ _ _ _ _ _ ?_
  split
  · exact h
  · exact foldl_formOk _ (fun m _ hm => storeRow_formOk m _ _ _ _ _ _ hm) _ _ (addWritten_formOk _ _ h)

/-- The map and the fills of a die's channels (R145). -/
theorem clearDieMap_formOk (m : Memory) (n d : Nat) (h : m.formOk = true) : (clearDieMap m n d).formOk = true := by
  rw [Memory.formOk_iff] at h ⊢
  refine ⟨h.1, h.2.1, ?_⟩
  have h0 := (Memory.fillsOk_iff m).1 h.2.2
  unfold Memory.fillsOk
  rw [Bool.and_eq_true, List.all_eq_true]
  refine ⟨KMap.wf_filter _ _ _ h0.1, ?_⟩
  rintro ⟨ch, q⟩ hm
  have h1 := List.mem_filter.1 hm
  have e : fillsOf m ch = q := KMap.get_of_mem _ h0.1 h1.1
  have h2 := h0.2 ch
  rw [e] at h2
  simp only [Bool.and_eq_true, decide_eq_true_eq, List.all_eq_true]
  refine ⟨h2.1, fun f hf => ⟨(h2.2 f hf).1, List.mem_filter.2 ⟨(h2.2 f hf).2, ?_⟩⟩⟩
  have h3 := (h2.2 f hf).1
  have h4 := h1.2
  simp only [Bool.not_eq_true', Bool.and_eq_false_iff, decide_eq_false_iff_not] at h4 ⊢
  omega

/-! Operations over the scratchpads -/

theorem spadWrite_formOk (m : Memory) (c off : Nat) (bs : List Byte) (p : Bool) (h : m.formOk = true) :
    (spadWrite m c off bs p).formOk = true := by
  rw [Memory.formOk_iff] at h ⊢
  exact ⟨h.1, KMap.wf_setSeq _ _ _ _ h.2.1, h.2.2⟩

theorem clearSpad_formOk (m : Memory) (c : Nat) (h : m.formOk = true) : (clearSpad m c).formOk = true := by
  rw [Memory.formOk_iff] at h ⊢
  exact ⟨h.1, KMap.wf_filter _ _ _ h.2.1, h.2.2⟩

/-- Entries that differ from zero, put in one by one. -/
theorem KMap.wf_foldl_insert (f : Nat → Nat) : ∀ (l : List (Nat × Byte)) (r : KMap Byte), (∀ e ∈ l, e.2 ≠ 0#8) →
    KMap.wf (fun _ => 0#8) r = true → KMap.wf (fun _ => 0#8) (l.foldl (fun r e => KMap.insert r (f e.1) e.2) r) = true := by
  intro l
  induction l with
  | nil => intro r _ h; exact h
  | cons e l ih =>
    intro r hl h
    exact ih _ (fun x hx => hl x (List.mem_cons_of_mem _ hx)) (KMap.wf_insert _ _ (hl e (by simp)) h)

theorem moveSpad_formOk (m : Memory) (a b : Nat) (h : m.formOk = true) : (moveSpad m a b).formOk = true := by
  have h1 := clearSpad_formOk m b h
  rw [Memory.formOk_iff] at h1 ⊢
  refine ⟨h1.1, ?_, h1.2.2⟩
  exact KMap.wf_foldl_insert (fun k => b * 2 ^ 22 + k % 2 ^ 22) _ _
    (fun e he => KMap.ne_default_of_mem _ h1.2.1 (List.mem_of_mem_filter he)) h1.2.1

/-! Shared operations over a state -/

theorem writeBack_formOk (s : State) (l : CacheLine) (h : s.mem.formOk = true) : (writeBack s l).mem.formOk = true := by
  unfold writeBack
  split
  · exact h
  · split
    · exact setAccepted_formOk _ _ _ (settle_formOk _ _ h)
    · exact putLine_formOk _ _ _ _ (settle_formOk _ _ h)

theorem putSet_formOk (m : Memory) (k : Nat) (x : CacheSet) (h : m.formOk = true) : (putSet m k x).formOk = true :=
  Memory.formOk_congr rfl rfl rfl rfl h

theorem allocate_formOk (s : State) (die off : Nat) (d : BitVec 512) (p dirty : Bool) (h : s.mem.formOk = true) :
    (allocate s die off d p dirty).mem.formOk = true := by
  refine putSet_formOk _ _ _ ?_
  split
  · split
    · exact writeBack_formOk _ _ h
    · exact h
  · exact h

theorem dropLine_formOk (m : Memory) (die off : Nat) (h : m.formOk = true) : (dropLine m die off).formOk = true := by
  unfold dropLine
  dsimp only
  split
  · exact h
  · exact putSet_formOk _ _ _ h

theorem flushLine_formOk (s : State) (die off : Nat) (h : s.mem.formOk = true) : (flushLine s die off).mem.formOk = true := by
  unfold flushLine
  split
  · exact h
  · refine dropLine_formOk _ _ _ ?_
    split
    · exact writeBack_formOk _ _ h
    · exact h

end Sys2Proof.Machine
end

