-- ==== Sys2Proof/Laws/Regs.lean ====
section
/-! SUPPORT. The laws of the registers: a field reads as it was written, and a write leaves every other field and register alone. -/

namespace Sys2Proof.Machine

/-! Bit fields of a word -/

theorem div_mod_pow (n a b : Nat) : n / 2 ^ a % 2 ^ b = n % 2 ^ (a + b) / 2 ^ a := by
  rw [Nat.pow_add, Nat.mod_mul_right_div_self]

theorem putBits_toNat (x : BitVec 32) {lo w : Nat} (v : Nat) (h : lo + w ≤ 32) :
    (putBits x lo w v).toNat = x.toNat / 2 ^ (lo + w) * 2 ^ (lo + w) + (v % 2 ^ w) * 2 ^ lo + x.toNat % 2 ^ lo := by
  have hx := x.isLt
  have hw : v % 2 ^ w < 2 ^ w := Nat.mod_lt _ (Nat.two_pow_pos w)
  have hl : x.toNat % 2 ^ lo < 2 ^ lo := Nat.mod_lt _ (Nat.two_pow_pos lo)
  have h1 : (v % 2 ^ w) * 2 ^ lo + x.toNat % 2 ^ lo < 2 ^ (lo + w) := by
    have : (v % 2 ^ w + 1) * 2 ^ lo ≤ 2 ^ w * 2 ^ lo := Nat.mul_le_mul_right _ hw
    rw [Nat.add_comm lo w, Nat.pow_add]
    rw [Nat.add_mul] at this
    omega
  have h2 : (x.toNat / 2 ^ (lo + w) + 1) * 2 ^ (lo + w) ≤ 2 ^ (32 - (lo + w)) * 2 ^ (lo + w) := by
    apply Nat.mul_le_mul_right
    apply Nat.succ_le_of_lt
    rw [Nat.div_lt_iff_lt_mul (Nat.two_pow_pos _), ← Nat.pow_add, Nat.sub_add_cancel h]
    exact hx
  rw [← Nat.pow_add, Nat.sub_add_cancel h, Nat.add_mul] at h2
  unfold putBits
  rw [BitVec.toNat_ofNat]
  apply Nat.mod_eq_of_lt
  omega

/-- A field reads as it was written. -/
theorem getBits_putBits_same (x : BitVec 32) {lo w : Nat} (v : Nat) (h : lo + w ≤ 32) :
    getBits (putBits x lo w v) lo w = v % 2 ^ w := by
  have hl : x.toNat % 2 ^ lo < 2 ^ lo := Nat.mod_lt _ (Nat.two_pow_pos lo)
  unfold getBits
  rw [putBits_toNat x v h]
  have e : x.toNat / 2 ^ (lo + w) * 2 ^ (lo + w) + v % 2 ^ w * 2 ^ lo + x.toNat % 2 ^ lo =
      x.toNat % 2 ^ lo + 2 ^ lo * (x.toNat / 2 ^ (lo + w) * 2 ^ w + v % 2 ^ w) := by
    rw [Nat.pow_add]; ring
  rw [e, Nat.add_mul_div_left _ _ (Nat.two_pow_pos lo), Nat.div_eq_of_lt hl, Nat.zero_add, Nat.mul_comm, Nat.mul_add_mod,
    Nat.mod_mod]

/-- A write to a field leaves a field apart from it alone. -/
theorem getBits_putBits_other (x : BitVec 32) {lo w lo' w' : Nat} (v : Nat) (h : lo + w ≤ 32) (hd : lo' + w' ≤ lo ∨ lo + w ≤ lo') :
    getBits (putBits x lo w v) lo' w' = getBits x lo' w' := by
  have hl : x.toNat % 2 ^ lo < 2 ^ lo := Nat.mod_lt _ (Nat.two_pow_pos lo)
  have hw : v % 2 ^ w < 2 ^ w := Nat.mod_lt _ (Nat.two_pow_pos w)
  have h1 : (v % 2 ^ w) * 2 ^ lo + x.toNat % 2 ^ lo < 2 ^ (lo + w) := by
    have : (v % 2 ^ w + 1) * 2 ^ lo ≤ 2 ^ w * 2 ^ lo := Nat.mul_le_mul_right _ hw
    rw [Nat.add_comm lo w, Nat.pow_add]
    rw [Nat.add_mul] at this
    omega
  unfold getBits
  rw [putBits_toNat x v h]
  rcases hd with hd | hd
  · have e : x.toNat / 2 ^ (lo + w) * 2 ^ (lo + w) + v % 2 ^ w * 2 ^ lo + x.toNat % 2 ^ lo =
        x.toNat % 2 ^ lo + 2 ^ (lo' + w') * (2 ^ (lo - (lo' + w')) * (x.toNat / 2 ^ (lo + w) * 2 ^ w + v % 2 ^ w)) := by
      rw [← Nat.mul_assoc, ← Nat.pow_add, show lo' + w' + (lo - (lo' + w')) = lo by omega, Nat.pow_add]; ring
    rw [div_mod_pow, div_mod_pow, e, Nat.add_mul_mod_self_left]
    rw [Nat.mod_mod_of_dvd _ (Nat.pow_dvd_pow 2 hd)]
  · obtain ⟨k, rfl⟩ := Nat.exists_eq_add_of_le hd
    have e (n : Nat) : n / 2 ^ (lo + w + k) = n / 2 ^ (lo + w) / 2 ^ k := by rw [Nat.pow_add 2 (lo + w) k, Nat.div_div_eq_div_mul]
    have e2 : (x.toNat / 2 ^ (lo + w) * 2 ^ (lo + w) + v % 2 ^ w * 2 ^ lo + x.toNat % 2 ^ lo) / 2 ^ (lo + w) =
        x.toNat / 2 ^ (lo + w) := by
      rw [Nat.add_assoc, Nat.mul_comm, Nat.mul_add_div (Nat.two_pow_pos _), Nat.div_eq_of_lt h1, Nat.add_zero]
    rw [e, e, e2]

/-! The register file -/

/-- The field lies in a 32-bit word. -/
abbrev Field.inWord (f : Field) : Prop := f.lo + f.width ≤ 32

/-- Two fields share no bit of one register: they lie at different offsets, or apart in the word. -/
abbrev Field.apart (f g : Field) (i j k l : Nat) : Prop :=
  f.addr i j ≠ g.addr k l ∨ f.lo + f.width ≤ g.lo ∨ g.lo + g.width ≤ f.lo

theorem Regs.getF_setF_same (m : Regs) (f : Field) (v i j : Nat) (h : f.inWord) : (m.setF f v i j).getF f i j = v % 2 ^ f.width := by
  unfold Regs.getF Regs.setF Regs.read Regs.write
  rw [KMap.get_set_same, getBits_putBits_same _ _ h]

theorem Regs.getF_setF_other (m : Regs) (f g : Field) (v i j k l : Nat) (h : g.inWord) (hd : f.apart g i j k l) :
    (m.setF g v k l).getF f i j = m.getF f i j := by
  unfold Regs.getF Regs.setF Regs.read Regs.write
  rw [KMap.get_set]
  split
  · next e =>
    rcases hd with hd | hd | hd
    · exact absurd e hd
    · rw [e]; exact getBits_putBits_other _ _ h (.inl hd)
    · rw [e]; exact getBits_putBits_other _ _ h (.inr hd)
  · rfl

/-- A field reads as it was written. -/
theorem rd_wr_same (s : State) (f : Field) (v i j : Nat) (h : f.inWord) (hv : v < 2 ^ f.width) : rd (wr s f v i j) f i j = v := by
  unfold rd wr
  rw [Regs.getF_setF_same _ _ _ _ _ h, Nat.mod_eq_of_lt hv]

/-- A write leaves a field apart from it alone. -/
theorem rd_wr_other (s : State) (f g : Field) (v i j k l : Nat) (h : g.inWord) (hd : f.apart g i j k l) :
    rd (wr s g v k l) f i j = rd s f i j :=
  Regs.getF_setF_other s.regs f g v i j k l h hd

theorem rd_flag_same (s : State) (f : Field) (i j : Nat) (h : f.inWord) (hw : 0 < f.width) : rd (flag s f i j) f i j = 1 :=
  rd_wr_same s f 1 i j h (Nat.one_lt_two_pow (by omega))

theorem rd_flag_other (s : State) (f g : Field) (i j k l : Nat) (h : g.inWord) (hd : f.apart g i j k l) :
    rd (flag s g k l) f i j = rd s f i j :=
  rd_wr_other s f g 1 i j k l h hd

/-- A counter field counts one up and saturates. -/
theorem rd_inc_same (s : State) (f : Field) (i j : Nat) (h : f.inWord) :
    rd (inc s f i j) f i j = if rd s f i j + 1 ≥ 2 ^ f.width then 2 ^ f.width - 1 else rd s f i j + 1 := by
  unfold rd inc Regs.incSat
  simp only []
  rw [Regs.getF_setF_same _ _ _ _ _ h]
  apply Nat.mod_eq_of_lt
  have := Nat.two_pow_pos f.width
  split <;> omega

theorem rd_inc_other (s : State) (f g : Field) (i j k l : Nat) (h : g.inWord) (hd : f.apart g i j k l) :
    rd (inc s g k l) f i j = rd s f i j := by
  unfold rd inc Regs.incSat
  exact Regs.getF_setF_other s.regs f g _ i j k l h hd

/-- A 64-bit pair reads as it was written. -/
theorem rd64_wr64_same (s : State) (lo hi : Field) (v i j : Nat) (hl : lo.inWord) (hh : hi.inWord) (hw : lo.width = 32)
    (hv : v < 2 ^ (32 + hi.width)) (hd : lo.apart hi i j i j) : rd64 (wr64 s lo hi v i j) lo hi i j = v := by
  unfold rd64 wr64 Regs.get64 Regs.set64
  simp only []
  rw [Regs.getF_setF_other _ lo hi _ _ _ _ _ hh hd, Regs.getF_setF_same _ _ _ _ _ hl, Regs.getF_setF_same _ _ _ _ _ hh, hw]
  have : v / 2 ^ 32 < 2 ^ hi.width := by
    rw [Nat.div_lt_iff_lt_mul (by decide), ← Nat.pow_add, Nat.add_comm]
    exact hv
  rw [Nat.mod_eq_of_lt this]
  exact Nat.mod_add_div v (2 ^ 32)

theorem rd_wr64_other (s : State) (f lo hi : Field) (v i j k l : Nat) (hl : lo.inWord) (hh : hi.inWord)
    (hdl : f.apart lo i j k l) (hdh : f.apart hi i j k l) : rd (wr64 s lo hi v k l) f i j = rd s f i j := by
  unfold rd wr64 Regs.set64
  simp only []
  rw [Regs.getF_setF_other _ f hi _ _ _ _ _ hh hdh, Regs.getF_setF_other _ f lo _ _ _ _ _ hl hdl]

end Sys2Proof.Machine
end

