-- ==== Sys2Proof/Laws/State.lean ====
section
/-! SUPPORT. What each named update leaves in each field of the state: one lemma per field and update. -/

namespace Sys2Proof.Machine

/-! quiet -/

@[simp] theorem quiet_pending (s : State) : (quiet s).pending = s.pending := rfl
@[simp] theorem quiet_regs (s : State) : (quiet s).regs = s.regs := rfl
@[simp] theorem quiet_shadow (s : State) : (quiet s).shadow = s.shadow := rfl
@[simp] theorem quiet_out (s : State) : (quiet s).out = [] := rfl
@[simp] theorem quiet_fresh (s : State) : (quiet s).fresh = s.fresh := rfl
@[simp] theorem quiet_ns (s : State) : (quiet s).ns = s.ns := rfl
@[simp] theorem quiet_mer (s : State) : (quiet s).mer = s.mer := rfl
@[simp] theorem quiet_img (s : State) : (quiet s).img = s.img := rfl
@[simp] theorem quiet_load (s : State) : (quiet s).load = s.load := rfl
@[simp] theorem quiet_mem (s : State) : (quiet s).mem = s.mem := rfl
@[simp] theorem quiet_stk (s : State) : (quiet s).stk = s.stk := rfl
@[simp] theorem quiet_clu (s : State) : (quiet s).clu = s.clu := rfl
@[simp] theorem quiet_kvm (s : State) : (quiet s).kvm = s.kvm := rfl
@[simp] theorem quiet_seq (s : State) : (quiet s).seq = s.seq := rfl
@[simp] theorem quiet_fab (s : State) : (quiet s).fab = s.fab := rfl
@[simp] theorem quiet_ras (s : State) : (quiet s).ras = s.ras := rfl
@[simp] theorem quiet_saf (s : State) : (quiet s).saf = s.saf := rfl
@[simp] theorem quiet_bst (s : State) : (quiet s).bst = s.bst := rfl
@[simp] theorem quiet_sec (s : State) : (quiet s).sec = s.sec := rfl
@[simp] theorem quiet_pwr (s : State) : (quiet s).pwr = s.pwr := rfl
@[simp] theorem quiet_ckr (s : State) : (quiet s).ckr = s.ckr := rfl
@[simp] theorem quiet_irq (s : State) : (quiet s).irq = s.irq := rfl
@[simp] theorem quiet_hpt (s : State) : (quiet s).hpt = s.hpt := rfl
@[simp] theorem quiet_held (s : State) : (quiet s).held = s.held := rfl
@[simp] theorem quiet_probe (s : State) : (quiet s).probe = s.probe := rfl
@[simp] theorem quiet_probeHeld (s : State) : (quiet s).probeHeld = s.probeHeld := rfl
@[simp] theorem quiet_faultN (s : State) : (quiet s).faultN = s.faultN := rfl
@[simp] theorem quiet_alarmN (s : State) : (quiet s).alarmN = s.alarmN := rfl

/-! reply -/

@[simp] theorem reply_pending (s : State) (who : Requester) (a : Answer) : (reply s who a).pending = s.pending := rfl
@[simp] theorem reply_regs (s : State) (who : Requester) (a : Answer) : (reply s who a).regs = s.regs := rfl
@[simp] theorem reply_shadow (s : State) (who : Requester) (a : Answer) : (reply s who a).shadow = s.shadow := rfl
@[simp] theorem reply_out (s : State) (who : Requester) (a : Answer) : (reply s who a).out = s.out ++ [⟨some who, a⟩] := rfl
@[simp] theorem reply_fresh (s : State) (who : Requester) (a : Answer) : (reply s who a).fresh = s.fresh := rfl
@[simp] theorem reply_ns (s : State) (who : Requester) (a : Answer) : (reply s who a).ns = s.ns := rfl
@[simp] theorem reply_mer (s : State) (who : Requester) (a : Answer) : (reply s who a).mer = s.mer := rfl
@[simp] theorem reply_img (s : State) (who : Requester) (a : Answer) : (reply s who a).img = s.img := rfl
@[simp] theorem reply_load (s : State) (who : Requester) (a : Answer) : (reply s who a).load = s.load := rfl
@[simp] theorem reply_mem (s : State) (who : Requester) (a : Answer) : (reply s who a).mem = s.mem := rfl
@[simp] theorem reply_stk (s : State) (who : Requester) (a : Answer) : (reply s who a).stk = s.stk := rfl
@[simp] theorem reply_clu (s : State) (who : Requester) (a : Answer) : (reply s who a).clu = s.clu := rfl
@[simp] theorem reply_kvm (s : State) (who : Requester) (a : Answer) : (reply s who a).kvm = s.kvm := rfl
@[simp] theorem reply_seq (s : State) (who : Requester) (a : Answer) : (reply s who a).seq = s.seq := rfl
@[simp] theorem reply_fab (s : State) (who : Requester) (a : Answer) : (reply s who a).fab = s.fab := rfl
@[simp] theorem reply_ras (s : State) (who : Requester) (a : Answer) : (reply s who a).ras = s.ras := rfl
@[simp] theorem reply_saf (s : State) (who : Requester) (a : Answer) : (reply s who a).saf = s.saf := rfl
@[simp] theorem reply_bst (s : State) (who : Requester) (a : Answer) : (reply s who a).bst = s.bst := rfl
@[simp] theorem reply_sec (s : State) (who : Requester) (a : Answer) : (reply s who a).sec = s.sec := rfl
@[simp] theorem reply_pwr (s : State) (who : Requester) (a : Answer) : (reply s who a).pwr = s.pwr := rfl
@[simp] theorem reply_ckr (s : State) (who : Requester) (a : Answer) : (reply s who a).ckr = s.ckr := rfl
@[simp] theorem reply_irq (s : State) (who : Requester) (a : Answer) : (reply s who a).irq = s.irq := rfl
@[simp] theorem reply_hpt (s : State) (who : Requester) (a : Answer) : (reply s who a).hpt = s.hpt := rfl
@[simp] theorem reply_held (s : State) (who : Requester) (a : Answer) : (reply s who a).held = s.held := rfl
@[simp] theorem reply_probe (s : State) (who : Requester) (a : Answer) : (reply s who a).probe = s.probe := rfl
@[simp] theorem reply_probeHeld (s : State) (who : Requester) (a : Answer) : (reply s who a).probeHeld = s.probeHeld := rfl
@[simp] theorem reply_faultN (s : State) (who : Requester) (a : Answer) : (reply s who a).faultN = s.faultN := rfl
@[simp] theorem reply_alarmN (s : State) (who : Requester) (a : Answer) : (reply s who a).alarmN = s.alarmN := rfl

/-! emit -/

@[simp] theorem emit_pending (s : State) (a : Answer) : (emit s a).pending = s.pending := rfl
@[simp] theorem emit_regs (s : State) (a : Answer) : (emit s a).regs = s.regs := rfl
@[simp] theorem emit_shadow (s : State) (a : Answer) : (emit s a).shadow = s.shadow := rfl
@[simp] theorem emit_out (s : State) (a : Answer) : (emit s a).out = s.out ++ [⟨none, a⟩] := rfl
@[simp] theorem emit_fresh (s : State) (a : Answer) : (emit s a).fresh = s.fresh := rfl
@[simp] theorem emit_ns (s : State) (a : Answer) : (emit s a).ns = s.ns := rfl
@[simp] theorem emit_mer (s : State) (a : Answer) : (emit s a).mer = s.mer := rfl
@[simp] theorem emit_img (s : State) (a : Answer) : (emit s a).img = s.img := rfl
@[simp] theorem emit_load (s : State) (a : Answer) : (emit s a).load = s.load := rfl
@[simp] theorem emit_mem (s : State) (a : Answer) : (emit s a).mem = s.mem := rfl
@[simp] theorem emit_stk (s : State) (a : Answer) : (emit s a).stk = s.stk := rfl
@[simp] theorem emit_clu (s : State) (a : Answer) : (emit s a).clu = s.clu := rfl
@[simp] theorem emit_kvm (s : State) (a : Answer) : (emit s a).kvm = s.kvm := rfl
@[simp] theorem emit_seq (s : State) (a : Answer) : (emit s a).seq = s.seq := rfl
@[simp] theorem emit_fab (s : State) (a : Answer) : (emit s a).fab = s.fab := rfl
@[simp] theorem emit_ras (s : State) (a : Answer) : (emit s a).ras = s.ras := rfl
@[simp] theorem emit_saf (s : State) (a : Answer) : (emit s a).saf = s.saf := rfl
@[simp] theorem emit_bst (s : State) (a : Answer) : (emit s a).bst = s.bst := rfl
@[simp] theorem emit_sec (s : State) (a : Answer) : (emit s a).sec = s.sec := rfl
@[simp] theorem emit_pwr (s : State) (a : Answer) : (emit s a).pwr = s.pwr := rfl
@[simp] theorem emit_ckr (s : State) (a : Answer) : (emit s a).ckr = s.ckr := rfl
@[simp] theorem emit_irq (s : State) (a : Answer) : (emit s a).irq = s.irq := rfl
@[simp] theorem emit_hpt (s : State) (a : Answer) : (emit s a).hpt = s.hpt := rfl
@[simp] theorem emit_held (s : State) (a : Answer) : (emit s a).held = s.held := rfl
@[simp] theorem emit_probe (s : State) (a : Answer) : (emit s a).probe = s.probe := rfl
@[simp] theorem emit_probeHeld (s : State) (a : Answer) : (emit s a).probeHeld = s.probeHeld := rfl
@[simp] theorem emit_faultN (s : State) (a : Answer) : (emit s a).faultN = s.faultN := rfl
@[simp] theorem emit_alarmN (s : State) (a : Answer) : (emit s a).alarmN = s.alarmN := rfl

/-! free -/

@[simp] theorem free_pending (w : Nat) (s : State) : ((free w s).2).pending = s.pending := rfl
@[simp] theorem free_regs (w : Nat) (s : State) : ((free w s).2).regs = s.regs := rfl
@[simp] theorem free_shadow (w : Nat) (s : State) : ((free w s).2).shadow = s.shadow := rfl
@[simp] theorem free_out (w : Nat) (s : State) : ((free w s).2).out = s.out := rfl
@[simp] theorem free_fresh (w : Nat) (s : State) : ((free w s).2).fresh = s.fresh + 1 := rfl
@[simp] theorem free_ns (w : Nat) (s : State) : ((free w s).2).ns = s.ns := rfl
@[simp] theorem free_mer (w : Nat) (s : State) : ((free w s).2).mer = s.mer := rfl
@[simp] theorem free_img (w : Nat) (s : State) : ((free w s).2).img = s.img := rfl
@[simp] theorem free_load (w : Nat) (s : State) : ((free w s).2).load = s.load := rfl
@[simp] theorem free_mem (w : Nat) (s : State) : ((free w s).2).mem = s.mem := rfl
@[simp] theorem free_stk (w : Nat) (s : State) : ((free w s).2).stk = s.stk := rfl
@[simp] theorem free_clu (w : Nat) (s : State) : ((free w s).2).clu = s.clu := rfl
@[simp] theorem free_kvm (w : Nat) (s : State) : ((free w s).2).kvm = s.kvm := rfl
@[simp] theorem free_seq (w : Nat) (s : State) : ((free w s).2).seq = s.seq := rfl
@[simp] theorem free_fab (w : Nat) (s : State) : ((free w s).2).fab = s.fab := rfl
@[simp] theorem free_ras (w : Nat) (s : State) : ((free w s).2).ras = s.ras := rfl
@[simp] theorem free_saf (w : Nat) (s : State) : ((free w s).2).saf = s.saf := rfl
@[simp] theorem free_bst (w : Nat) (s : State) : ((free w s).2).bst = s.bst := rfl
@[simp] theorem free_sec (w : Nat) (s : State) : ((free w s).2).sec = s.sec := rfl
@[simp] theorem free_pwr (w : Nat) (s : State) : ((free w s).2).pwr = s.pwr := rfl
@[simp] theorem free_ckr (w : Nat) (s : State) : ((free w s).2).ckr = s.ckr := rfl
@[simp] theorem free_irq (w : Nat) (s : State) : ((free w s).2).irq = s.irq := rfl
@[simp] theorem free_hpt (w : Nat) (s : State) : ((free w s).2).hpt = s.hpt := rfl
@[simp] theorem free_held (w : Nat) (s : State) : ((free w s).2).held = s.held := rfl
@[simp] theorem free_probe (w : Nat) (s : State) : ((free w s).2).probe = s.probe := rfl
@[simp] theorem free_probeHeld (w : Nat) (s : State) : ((free w s).2).probeHeld = s.probeHeld := rfl
@[simp] theorem free_faultN (w : Nat) (s : State) : ((free w s).2).faultN = s.faultN := rfl
@[simp] theorem free_alarmN (w : Nat) (s : State) : ((free w s).2).alarmN = s.alarmN := rfl

/-! wr -/

@[simp] theorem wr_pending (s : State) (f : Field) (v i j : Nat) : (wr s f v i j).pending = s.pending := rfl
@[simp] theorem wr_regs (s : State) (f : Field) (v i j : Nat) : (wr s f v i j).regs = s.regs.setF f v i j := rfl
@[simp] theorem wr_shadow (s : State) (f : Field) (v i j : Nat) : (wr s f v i j).shadow = s.shadow := rfl
@[simp] theorem wr_out (s : State) (f : Field) (v i j : Nat) : (wr s f v i j).out = s.out := rfl
@[simp] theorem wr_fresh (s : State) (f : Field) (v i j : Nat) : (wr s f v i j).fresh = s.fresh := rfl
@[simp] theorem wr_ns (s : State) (f : Field) (v i j : Nat) : (wr s f v i j).ns = s.ns := rfl
@[simp] theorem wr_mer (s : State) (f : Field) (v i j : Nat) : (wr s f v i j).mer = s.mer := rfl
@[simp] theorem wr_img (s : State) (f : Field) (v i j : Nat) : (wr s f v i j).img = s.img := rfl
@[simp] theorem wr_load (s : State) (f : Field) (v i j : Nat) : (wr s f v i j).load = s.load := rfl
@[simp] theorem wr_mem (s : State) (f : Field) (v i j : Nat) : (wr s f v i j).mem = s.mem := rfl
@[simp] theorem wr_stk (s : State) (f : Field) (v i j : Nat) : (wr s f v i j).stk = s.stk := rfl
@[simp] theorem wr_clu (s : State) (f : Field) (v i j : Nat) : (wr s f v i j).clu = s.clu := rfl
@[simp] theorem wr_kvm (s : State) (f : Field) (v i j : Nat) : (wr s f v i j).kvm = s.kvm := rfl
@[simp] theorem wr_seq (s : State) (f : Field) (v i j : Nat) : (wr s f v i j).seq = s.seq := rfl
@[simp] theorem wr_fab (s : State) (f : Field) (v i j : Nat) : (wr s f v i j).fab = s.fab := rfl
@[simp] theorem wr_ras (s : State) (f : Field) (v i j : Nat) : (wr s f v i j).ras = s.ras := rfl
@[simp] theorem wr_saf (s : State) (f : Field) (v i j : Nat) : (wr s f v i j).saf = s.saf := rfl
@[simp] theorem wr_bst (s : State) (f : Field) (v i j : Nat) : (wr s f v i j).bst = s.bst := rfl
@[simp] theorem wr_sec (s : State) (f : Field) (v i j : Nat) : (wr s f v i j).sec = s.sec := rfl
@[simp] theorem wr_pwr (s : State) (f : Field) (v i j : Nat) : (wr s f v i j).pwr = s.pwr := rfl
@[simp] theorem wr_ckr (s : State) (f : Field) (v i j : Nat) : (wr s f v i j).ckr = s.ckr := rfl
@[simp] theorem wr_irq (s : State) (f : Field) (v i j : Nat) : (wr s f v i j).irq = s.irq := rfl
@[simp] theorem wr_hpt (s : State) (f : Field) (v i j : Nat) : (wr s f v i j).hpt = s.hpt := rfl
@[simp] theorem wr_held (s : State) (f : Field) (v i j : Nat) : (wr s f v i j).held = s.held := rfl
@[simp] theorem wr_probe (s : State) (f : Field) (v i j : Nat) : (wr s f v i j).probe = s.probe := rfl
@[simp] theorem wr_probeHeld (s : State) (f : Field) (v i j : Nat) : (wr s f v i j).probeHeld = s.probeHeld := rfl
@[simp] theorem wr_faultN (s : State) (f : Field) (v i j : Nat) : (wr s f v i j).faultN = s.faultN := rfl
@[simp] theorem wr_alarmN (s : State) (f : Field) (v i j : Nat) : (wr s f v i j).alarmN = s.alarmN := rfl

/-! flag -/

@[simp] theorem flag_pending (s : State) (f : Field) (i j : Nat) : (flag s f i j).pending = s.pending := rfl
@[simp] theorem flag_regs (s : State) (f : Field) (i j : Nat) : (flag s f i j).regs = s.regs.setF f 1 i j := rfl
@[simp] theorem flag_shadow (s : State) (f : Field) (i j : Nat) : (flag s f i j).shadow = s.shadow := rfl
@[simp] theorem flag_out (s : State) (f : Field) (i j : Nat) : (flag s f i j).out = s.out := rfl
@[simp] theorem flag_fresh (s : State) (f : Field) (i j : Nat) : (flag s f i j).fresh = s.fresh := rfl
@[simp] theorem flag_ns (s : State) (f : Field) (i j : Nat) : (flag s f i j).ns = s.ns := rfl
@[simp] theorem flag_mer (s : State) (f : Field) (i j : Nat) : (flag s f i j).mer = s.mer := rfl
@[simp] theorem flag_img (s : State) (f : Field) (i j : Nat) : (flag s f i j).img = s.img := rfl
@[simp] theorem flag_load (s : State) (f : Field) (i j : Nat) : (flag s f i j).load = s.load := rfl
@[simp] theorem flag_mem (s : State) (f : Field) (i j : Nat) : (flag s f i j).mem = s.mem := rfl
@[simp] theorem flag_stk (s : State) (f : Field) (i j : Nat) : (flag s f i j).stk = s.stk := rfl
@[simp] theorem flag_clu (s : State) (f : Field) (i j : Nat) : (flag s f i j).clu = s.clu := rfl
@[simp] theorem flag_kvm (s : State) (f : Field) (i j : Nat) : (flag s f i j).kvm = s.kvm := rfl
@[simp] theorem flag_seq (s : State) (f : Field) (i j : Nat) : (flag s f i j).seq = s.seq := rfl
@[simp] theorem flag_fab (s : State) (f : Field) (i j : Nat) : (flag s f i j).fab = s.fab := rfl
@[simp] theorem flag_ras (s : State) (f : Field) (i j : Nat) : (flag s f i j).ras = s.ras := rfl
@[simp] theorem flag_saf (s : State) (f : Field) (i j : Nat) : (flag s f i j).saf = s.saf := rfl
@[simp] theorem flag_bst (s : State) (f : Field) (i j : Nat) : (flag s f i j).bst = s.bst := rfl
@[simp] theorem flag_sec (s : State) (f : Field) (i j : Nat) : (flag s f i j).sec = s.sec := rfl
@[simp] theorem flag_pwr (s : State) (f : Field) (i j : Nat) : (flag s f i j).pwr = s.pwr := rfl
@[simp] theorem flag_ckr (s : State) (f : Field) (i j : Nat) : (flag s f i j).ckr = s.ckr := rfl
@[simp] theorem flag_irq (s : State) (f : Field) (i j : Nat) : (flag s f i j).irq = s.irq := rfl
@[simp] theorem flag_hpt (s : State) (f : Field) (i j : Nat) : (flag s f i j).hpt = s.hpt := rfl
@[simp] theorem flag_held (s : State) (f : Field) (i j : Nat) : (flag s f i j).held = s.held := rfl
@[simp] theorem flag_probe (s : State) (f : Field) (i j : Nat) : (flag s f i j).probe = s.probe := rfl
@[simp] theorem flag_probeHeld (s : State) (f : Field) (i j : Nat) : (flag s f i j).probeHeld = s.probeHeld := rfl
@[simp] theorem flag_faultN (s : State) (f : Field) (i j : Nat) : (flag s f i j).faultN = s.faultN := rfl
@[simp] theorem flag_alarmN (s : State) (f : Field) (i j : Nat) : (flag s f i j).alarmN = s.alarmN := rfl

/-! inc -/

@[simp] theorem inc_pending (s : State) (f : Field) (i j : Nat) : (inc s f i j).pending = s.pending := rfl
@[simp] theorem inc_regs (s : State) (f : Field) (i j : Nat) : (inc s f i j).regs = s.regs.incSat f i j := rfl
@[simp] theorem inc_shadow (s : State) (f : Field) (i j : Nat) : (inc s f i j).shadow = s.shadow := rfl
@[simp] theorem inc_out (s : State) (f : Field) (i j : Nat) : (inc s f i j).out = s.out := rfl
@[simp] theorem inc_fresh (s : State) (f : Field) (i j : Nat) : (inc s f i j).fresh = s.fresh := rfl
@[simp] theorem inc_ns (s : State) (f : Field) (i j : Nat) : (inc s f i j).ns = s.ns := rfl
@[simp] theorem inc_mer (s : State) (f : Field) (i j : Nat) : (inc s f i j).mer = s.mer := rfl
@[simp] theorem inc_img (s : State) (f : Field) (i j : Nat) : (inc s f i j).img = s.img := rfl
@[simp] theorem inc_load (s : State) (f : Field) (i j : Nat) : (inc s f i j).load = s.load := rfl
@[simp] theorem inc_mem (s : State) (f : Field) (i j : Nat) : (inc s f i j).mem = s.mem := rfl
@[simp] theorem inc_stk (s : State) (f : Field) (i j : Nat) : (inc s f i j).stk = s.stk := rfl
@[simp] theorem inc_clu (s : State) (f : Field) (i j : Nat) : (inc s f i j).clu = s.clu := rfl
@[simp] theorem inc_kvm (s : State) (f : Field) (i j : Nat) : (inc s f i j).kvm = s.kvm := rfl
@[simp] theorem inc_seq (s : State) (f : Field) (i j : Nat) : (inc s f i j).seq = s.seq := rfl
@[simp] theorem inc_fab (s : State) (f : Field) (i j : Nat) : (inc s f i j).fab = s.fab := rfl
@[simp] theorem inc_ras (s : State) (f : Field) (i j : Nat) : (inc s f i j).ras = s.ras := rfl
@[simp] theorem inc_saf (s : State) (f : Field) (i j : Nat) : (inc s f i j).saf = s.saf := rfl
@[simp] theorem inc_bst (s : State) (f : Field) (i j : Nat) : (inc s f i j).bst = s.bst := rfl
@[simp] theorem inc_sec (s : State) (f : Field) (i j : Nat) : (inc s f i j).sec = s.sec := rfl
@[simp] theorem inc_pwr (s : State) (f : Field) (i j : Nat) : (inc s f i j).pwr = s.pwr := rfl
@[simp] theorem inc_ckr (s : State) (f : Field) (i j : Nat) : (inc s f i j).ckr = s.ckr := rfl
@[simp] theorem inc_irq (s : State) (f : Field) (i j : Nat) : (inc s f i j).irq = s.irq := rfl
@[simp] theorem inc_hpt (s : State) (f : Field) (i j : Nat) : (inc s f i j).hpt = s.hpt := rfl
@[simp] theorem inc_held (s : State) (f : Field) (i j : Nat) : (inc s f i j).held = s.held := rfl
@[simp] theorem inc_probe (s : State) (f : Field) (i j : Nat) : (inc s f i j).probe = s.probe := rfl
@[simp] theorem inc_probeHeld (s : State) (f : Field) (i j : Nat) : (inc s f i j).probeHeld = s.probeHeld := rfl
@[simp] theorem inc_faultN (s : State) (f : Field) (i j : Nat) : (inc s f i j).faultN = s.faultN := rfl
@[simp] theorem inc_alarmN (s : State) (f : Field) (i j : Nat) : (inc s f i j).alarmN = s.alarmN := rfl

/-! wr64 -/

@[simp] theorem wr64_pending (s : State) (lo hi : Field) (v i j : Nat) : (wr64 s lo hi v i j).pending = s.pending := rfl
@[simp] theorem wr64_regs (s : State) (lo hi : Field) (v i j : Nat) : (wr64 s lo hi v i j).regs = s.regs.set64 lo hi v i j := rfl
@[simp] theorem wr64_shadow (s : State) (lo hi : Field) (v i j : Nat) : (wr64 s lo hi v i j).shadow = s.shadow := rfl
@[simp] theorem wr64_out (s : State) (lo hi : Field) (v i j : Nat) : (wr64 s lo hi v i j).out = s.out := rfl
@[simp] theorem wr64_fresh (s : State) (lo hi : Field) (v i j : Nat) : (wr64 s lo hi v i j).fresh = s.fresh := rfl
@[simp] theorem wr64_ns (s : State) (lo hi : Field) (v i j : Nat) : (wr64 s lo hi v i j).ns = s.ns := rfl
@[simp] theorem wr64_mer (s : State) (lo hi : Field) (v i j : Nat) : (wr64 s lo hi v i j).mer = s.mer := rfl
@[simp] theorem wr64_img (s : State) (lo hi : Field) (v i j : Nat) : (wr64 s lo hi v i j).img = s.img := rfl
@[simp] theorem wr64_load (s : State) (lo hi : Field) (v i j : Nat) : (wr64 s lo hi v i j).load = s.load := rfl
@[simp] theorem wr64_mem (s : State) (lo hi : Field) (v i j : Nat) : (wr64 s lo hi v i j).mem = s.mem := rfl
@[simp] theorem wr64_stk (s : State) (lo hi : Field) (v i j : Nat) : (wr64 s lo hi v i j).stk = s.stk := rfl
@[simp] theorem wr64_clu (s : State) (lo hi : Field) (v i j : Nat) : (wr64 s lo hi v i j).clu = s.clu := rfl
@[simp] theorem wr64_kvm (s : State) (lo hi : Field) (v i j : Nat) : (wr64 s lo hi v i j).kvm = s.kvm := rfl
@[simp] theorem wr64_seq (s : State) (lo hi : Field) (v i j : Nat) : (wr64 s lo hi v i j).seq = s.seq := rfl
@[simp] theorem wr64_fab (s : State) (lo hi : Field) (v i j : Nat) : (wr64 s lo hi v i j).fab = s.fab := rfl
@[simp] theorem wr64_ras (s : State) (lo hi : Field) (v i j : Nat) : (wr64 s lo hi v i j).ras = s.ras := rfl
@[simp] theorem wr64_saf (s : State) (lo hi : Field) (v i j : Nat) : (wr64 s lo hi v i j).saf = s.saf := rfl
@[simp] theorem wr64_bst (s : State) (lo hi : Field) (v i j : Nat) : (wr64 s lo hi v i j).bst = s.bst := rfl
@[simp] theorem wr64_sec (s : State) (lo hi : Field) (v i j : Nat) : (wr64 s lo hi v i j).sec = s.sec := rfl
@[simp] theorem wr64_pwr (s : State) (lo hi : Field) (v i j : Nat) : (wr64 s lo hi v i j).pwr = s.pwr := rfl
@[simp] theorem wr64_ckr (s : State) (lo hi : Field) (v i j : Nat) : (wr64 s lo hi v i j).ckr = s.ckr := rfl
@[simp] theorem wr64_irq (s : State) (lo hi : Field) (v i j : Nat) : (wr64 s lo hi v i j).irq = s.irq := rfl
@[simp] theorem wr64_hpt (s : State) (lo hi : Field) (v i j : Nat) : (wr64 s lo hi v i j).hpt = s.hpt := rfl
@[simp] theorem wr64_held (s : State) (lo hi : Field) (v i j : Nat) : (wr64 s lo hi v i j).held = s.held := rfl
@[simp] theorem wr64_probe (s : State) (lo hi : Field) (v i j : Nat) : (wr64 s lo hi v i j).probe = s.probe := rfl
@[simp] theorem wr64_probeHeld (s : State) (lo hi : Field) (v i j : Nat) : (wr64 s lo hi v i j).probeHeld = s.probeHeld := rfl
@[simp] theorem wr64_faultN (s : State) (lo hi : Field) (v i j : Nat) : (wr64 s lo hi v i j).faultN = s.faultN := rfl
@[simp] theorem wr64_alarmN (s : State) (lo hi : Field) (v i j : Nat) : (wr64 s lo hi v i j).alarmN = s.alarmN := rfl

/-! setCl -/

@[simp] theorem setCl_pending (s : State) (c : Nat) (x : Cluster) : (setCl s c x).pending = s.pending := rfl
@[simp] theorem setCl_regs (s : State) (c : Nat) (x : Cluster) : (setCl s c x).regs = s.regs := rfl
@[simp] theorem setCl_shadow (s : State) (c : Nat) (x : Cluster) : (setCl s c x).shadow = s.shadow := rfl
@[simp] theorem setCl_out (s : State) (c : Nat) (x : Cluster) : (setCl s c x).out = s.out := rfl
@[simp] theorem setCl_fresh (s : State) (c : Nat) (x : Cluster) : (setCl s c x).fresh = s.fresh := rfl
@[simp] theorem setCl_ns (s : State) (c : Nat) (x : Cluster) : (setCl s c x).ns = s.ns := rfl
@[simp] theorem setCl_mer (s : State) (c : Nat) (x : Cluster) : (setCl s c x).mer = s.mer := rfl
@[simp] theorem setCl_img (s : State) (c : Nat) (x : Cluster) : (setCl s c x).img = s.img := rfl
@[simp] theorem setCl_load (s : State) (c : Nat) (x : Cluster) : (setCl s c x).load = s.load := rfl
@[simp] theorem setCl_mem (s : State) (c : Nat) (x : Cluster) : (setCl s c x).mem = s.mem := rfl
@[simp] theorem setCl_stk (s : State) (c : Nat) (x : Cluster) : (setCl s c x).stk = s.stk := rfl
@[simp] theorem setCl_clu (s : State) (c : Nat) (x : Cluster) : (setCl s c x).clu = KMap.set (fun _ => Cluster.reset) s.clu c x := rfl
@[simp] theorem setCl_kvm (s : State) (c : Nat) (x : Cluster) : (setCl s c x).kvm = s.kvm := rfl
@[simp] theorem setCl_seq (s : State) (c : Nat) (x : Cluster) : (setCl s c x).seq = s.seq := rfl
@[simp] theorem setCl_fab (s : State) (c : Nat) (x : Cluster) : (setCl s c x).fab = s.fab := rfl
@[simp] theorem setCl_ras (s : State) (c : Nat) (x : Cluster) : (setCl s c x).ras = s.ras := rfl
@[simp] theorem setCl_saf (s : State) (c : Nat) (x : Cluster) : (setCl s c x).saf = s.saf := rfl
@[simp] theorem setCl_bst (s : State) (c : Nat) (x : Cluster) : (setCl s c x).bst = s.bst := rfl
@[simp] theorem setCl_sec (s : State) (c : Nat) (x : Cluster) : (setCl s c x).sec = s.sec := rfl
@[simp] theorem setCl_pwr (s : State) (c : Nat) (x : Cluster) : (setCl s c x).pwr = s.pwr := rfl
@[simp] theorem setCl_ckr (s : State) (c : Nat) (x : Cluster) : (setCl s c x).ckr = s.ckr := rfl
@[simp] theorem setCl_irq (s : State) (c : Nat) (x : Cluster) : (setCl s c x).irq = s.irq := rfl
@[simp] theorem setCl_hpt (s : State) (c : Nat) (x : Cluster) : (setCl s c x).hpt = s.hpt := rfl
@[simp] theorem setCl_held (s : State) (c : Nat) (x : Cluster) : (setCl s c x).held = s.held := rfl
@[simp] theorem setCl_probe (s : State) (c : Nat) (x : Cluster) : (setCl s c x).probe = s.probe := rfl
@[simp] theorem setCl_probeHeld (s : State) (c : Nat) (x : Cluster) : (setCl s c x).probeHeld = s.probeHeld := rfl
@[simp] theorem setCl_faultN (s : State) (c : Nat) (x : Cluster) : (setCl s c x).faultN = s.faultN := rfl
@[simp] theorem setCl_alarmN (s : State) (c : Nat) (x : Cluster) : (setCl s c x).alarmN = s.alarmN := rfl

/-! modCl -/

@[simp] theorem modCl_pending (s : State) (c : Nat) (f : Cluster → Cluster) : (modCl s c f).pending = s.pending := rfl
@[simp] theorem modCl_regs (s : State) (c : Nat) (f : Cluster → Cluster) : (modCl s c f).regs = s.regs := rfl
@[simp] theorem modCl_shadow (s : State) (c : Nat) (f : Cluster → Cluster) : (modCl s c f).shadow = s.shadow := rfl
@[simp] theorem modCl_out (s : State) (c : Nat) (f : Cluster → Cluster) : (modCl s c f).out = s.out := rfl
@[simp] theorem modCl_fresh (s : State) (c : Nat) (f : Cluster → Cluster) : (modCl s c f).fresh = s.fresh := rfl
@[simp] theorem modCl_ns (s : State) (c : Nat) (f : Cluster → Cluster) : (modCl s c f).ns = s.ns := rfl
@[simp] theorem modCl_mer (s : State) (c : Nat) (f : Cluster → Cluster) : (modCl s c f).mer = s.mer := rfl
@[simp] theorem modCl_img (s : State) (c : Nat) (f : Cluster → Cluster) : (modCl s c f).img = s.img := rfl
@[simp] theorem modCl_load (s : State) (c : Nat) (f : Cluster → Cluster) : (modCl s c f).load = s.load := rfl
@[simp] theorem modCl_mem (s : State) (c : Nat) (f : Cluster → Cluster) : (modCl s c f).mem = s.mem := rfl
@[simp] theorem modCl_stk (s : State) (c : Nat) (f : Cluster → Cluster) : (modCl s c f).stk = s.stk := rfl
@[simp] theorem modCl_clu (s : State) (c : Nat) (f : Cluster → Cluster) : (modCl s c f).clu = KMap.set (fun _ => Cluster.reset) s.clu c (f (cl s c)) := rfl
@[simp] theorem modCl_kvm (s : State) (c : Nat) (f : Cluster → Cluster) : (modCl s c f).kvm = s.kvm := rfl
@[simp] theorem modCl_seq (s : State) (c : Nat) (f : Cluster → Cluster) : (modCl s c f).seq = s.seq := rfl
@[simp] theorem modCl_fab (s : State) (c : Nat) (f : Cluster → Cluster) : (modCl s c f).fab = s.fab := rfl
@[simp] theorem modCl_ras (s : State) (c : Nat) (f : Cluster → Cluster) : (modCl s c f).ras = s.ras := rfl
@[simp] theorem modCl_saf (s : State) (c : Nat) (f : Cluster → Cluster) : (modCl s c f).saf = s.saf := rfl
@[simp] theorem modCl_bst (s : State) (c : Nat) (f : Cluster → Cluster) : (modCl s c f).bst = s.bst := rfl
@[simp] theorem modCl_sec (s : State) (c : Nat) (f : Cluster → Cluster) : (modCl s c f).sec = s.sec := rfl
@[simp] theorem modCl_pwr (s : State) (c : Nat) (f : Cluster → Cluster) : (modCl s c f).pwr = s.pwr := rfl
@[simp] theorem modCl_ckr (s : State) (c : Nat) (f : Cluster → Cluster) : (modCl s c f).ckr = s.ckr := rfl
@[simp] theorem modCl_irq (s : State) (c : Nat) (f : Cluster → Cluster) : (modCl s c f).irq = s.irq := rfl
@[simp] theorem modCl_hpt (s : State) (c : Nat) (f : Cluster → Cluster) : (modCl s c f).hpt = s.hpt := rfl
@[simp] theorem modCl_held (s : State) (c : Nat) (f : Cluster → Cluster) : (modCl s c f).held = s.held := rfl
@[simp] theorem modCl_probe (s : State) (c : Nat) (f : Cluster → Cluster) : (modCl s c f).probe = s.probe := rfl
@[simp] theorem modCl_probeHeld (s : State) (c : Nat) (f : Cluster → Cluster) : (modCl s c f).probeHeld = s.probeHeld := rfl
@[simp] theorem modCl_faultN (s : State) (c : Nat) (f : Cluster → Cluster) : (modCl s c f).faultN = s.faultN := rfl
@[simp] theorem modCl_alarmN (s : State) (c : Nat) (f : Cluster → Cluster) : (modCl s c f).alarmN = s.alarmN := rfl

/-! setStk -/

@[simp] theorem setStk_pending (s : State) (n : Nat) (x : Stack) : (setStk s n x).pending = s.pending := rfl
@[simp] theorem setStk_regs (s : State) (n : Nat) (x : Stack) : (setStk s n x).regs = s.regs := rfl
@[simp] theorem setStk_shadow (s : State) (n : Nat) (x : Stack) : (setStk s n x).shadow = s.shadow := rfl
@[simp] theorem setStk_out (s : State) (n : Nat) (x : Stack) : (setStk s n x).out = s.out := rfl
@[simp] theorem setStk_fresh (s : State) (n : Nat) (x : Stack) : (setStk s n x).fresh = s.fresh := rfl
@[simp] theorem setStk_ns (s : State) (n : Nat) (x : Stack) : (setStk s n x).ns = s.ns := rfl
@[simp] theorem setStk_mer (s : State) (n : Nat) (x : Stack) : (setStk s n x).mer = s.mer := rfl
@[simp] theorem setStk_img (s : State) (n : Nat) (x : Stack) : (setStk s n x).img = s.img := rfl
@[simp] theorem setStk_load (s : State) (n : Nat) (x : Stack) : (setStk s n x).load = s.load := rfl
@[simp] theorem setStk_mem (s : State) (n : Nat) (x : Stack) : (setStk s n x).mem = s.mem := rfl
@[simp] theorem setStk_stk (s : State) (n : Nat) (x : Stack) : (setStk s n x).stk = KMap.set (fun _ => Stack.reset) s.stk n x := rfl
@[simp] theorem setStk_clu (s : State) (n : Nat) (x : Stack) : (setStk s n x).clu = s.clu := rfl
@[simp] theorem setStk_kvm (s : State) (n : Nat) (x : Stack) : (setStk s n x).kvm = s.kvm := rfl
@[simp] theorem setStk_seq (s : State) (n : Nat) (x : Stack) : (setStk s n x).seq = s.seq := rfl
@[simp] theorem setStk_fab (s : State) (n : Nat) (x : Stack) : (setStk s n x).fab = s.fab := rfl
@[simp] theorem setStk_ras (s : State) (n : Nat) (x : Stack) : (setStk s n x).ras = s.ras := rfl
@[simp] theorem setStk_saf (s : State) (n : Nat) (x : Stack) : (setStk s n x).saf = s.saf := rfl
@[simp] theorem setStk_bst (s : State) (n : Nat) (x : Stack) : (setStk s n x).bst = s.bst := rfl
@[simp] theorem setStk_sec (s : State) (n : Nat) (x : Stack) : (setStk s n x).sec = s.sec := rfl
@[simp] theorem setStk_pwr (s : State) (n : Nat) (x : Stack) : (setStk s n x).pwr = s.pwr := rfl
@[simp] theorem setStk_ckr (s : State) (n : Nat) (x : Stack) : (setStk s n x).ckr = s.ckr := rfl
@[simp] theorem setStk_irq (s : State) (n : Nat) (x : Stack) : (setStk s n x).irq = s.irq := rfl
@[simp] theorem setStk_hpt (s : State) (n : Nat) (x : Stack) : (setStk s n x).hpt = s.hpt := rfl
@[simp] theorem setStk_held (s : State) (n : Nat) (x : Stack) : (setStk s n x).held = s.held := rfl
@[simp] theorem setStk_probe (s : State) (n : Nat) (x : Stack) : (setStk s n x).probe = s.probe := rfl
@[simp] theorem setStk_probeHeld (s : State) (n : Nat) (x : Stack) : (setStk s n x).probeHeld = s.probeHeld := rfl
@[simp] theorem setStk_faultN (s : State) (n : Nat) (x : Stack) : (setStk s n x).faultN = s.faultN := rfl
@[simp] theorem setStk_alarmN (s : State) (n : Nat) (x : Stack) : (setStk s n x).alarmN = s.alarmN := rfl

/-! setHport -/

@[simp] theorem setHport_pending (s : State) (p : Nat) (x : HostPort) : (setHport s p x).pending = s.pending := rfl
@[simp] theorem setHport_regs (s : State) (p : Nat) (x : HostPort) : (setHport s p x).regs = s.regs := rfl
@[simp] theorem setHport_shadow (s : State) (p : Nat) (x : HostPort) : (setHport s p x).shadow = s.shadow := rfl
@[simp] theorem setHport_out (s : State) (p : Nat) (x : HostPort) : (setHport s p x).out = s.out := rfl
@[simp] theorem setHport_fresh (s : State) (p : Nat) (x : HostPort) : (setHport s p x).fresh = s.fresh := rfl
@[simp] theorem setHport_ns (s : State) (p : Nat) (x : HostPort) : (setHport s p x).ns = s.ns := rfl
@[simp] theorem setHport_mer (s : State) (p : Nat) (x : HostPort) : (setHport s p x).mer = s.mer := rfl
@[simp] theorem setHport_img (s : State) (p : Nat) (x : HostPort) : (setHport s p x).img = s.img := rfl
@[simp] theorem setHport_load (s : State) (p : Nat) (x : HostPort) : (setHport s p x).load = s.load := rfl
@[simp] theorem setHport_mem (s : State) (p : Nat) (x : HostPort) : (setHport s p x).mem = s.mem := rfl
@[simp] theorem setHport_stk (s : State) (p : Nat) (x : HostPort) : (setHport s p x).stk = s.stk := rfl
@[simp] theorem setHport_clu (s : State) (p : Nat) (x : HostPort) : (setHport s p x).clu = s.clu := rfl
@[simp] theorem setHport_kvm (s : State) (p : Nat) (x : HostPort) : (setHport s p x).kvm = s.kvm := rfl
@[simp] theorem setHport_seq (s : State) (p : Nat) (x : HostPort) : (setHport s p x).seq = s.seq := rfl
@[simp] theorem setHport_fab (s : State) (p : Nat) (x : HostPort) : (setHport s p x).fab = s.fab := rfl
@[simp] theorem setHport_ras (s : State) (p : Nat) (x : HostPort) : (setHport s p x).ras = s.ras := rfl
@[simp] theorem setHport_saf (s : State) (p : Nat) (x : HostPort) : (setHport s p x).saf = s.saf := rfl
@[simp] theorem setHport_bst (s : State) (p : Nat) (x : HostPort) : (setHport s p x).bst = s.bst := rfl
@[simp] theorem setHport_sec (s : State) (p : Nat) (x : HostPort) : (setHport s p x).sec = s.sec := rfl
@[simp] theorem setHport_pwr (s : State) (p : Nat) (x : HostPort) : (setHport s p x).pwr = s.pwr := rfl
@[simp] theorem setHport_ckr (s : State) (p : Nat) (x : HostPort) : (setHport s p x).ckr = s.ckr := rfl
@[simp] theorem setHport_irq (s : State) (p : Nat) (x : HostPort) : (setHport s p x).irq = s.irq := rfl
@[simp] theorem setHport_hpt (s : State) (p : Nat) (x : HostPort) : (setHport s p x).hpt = KMap.set (fun _ => HostPort.reset) s.hpt p x := rfl
@[simp] theorem setHport_held (s : State) (p : Nat) (x : HostPort) : (setHport s p x).held = s.held := rfl
@[simp] theorem setHport_probe (s : State) (p : Nat) (x : HostPort) : (setHport s p x).probe = s.probe := rfl
@[simp] theorem setHport_probeHeld (s : State) (p : Nat) (x : HostPort) : (setHport s p x).probeHeld = s.probeHeld := rfl
@[simp] theorem setHport_faultN (s : State) (p : Nat) (x : HostPort) : (setHport s p x).faultN = s.faultN := rfl
@[simp] theorem setHport_alarmN (s : State) (p : Nat) (x : HostPort) : (setHport s p x).alarmN = s.alarmN := rfl

/-! setFport -/

@[simp] theorem setFport_pending (s : State) (p : Nat) (x : Port) : (setFport s p x).pending = s.pending := rfl
@[simp] theorem setFport_regs (s : State) (p : Nat) (x : Port) : (setFport s p x).regs = s.regs := rfl
@[simp] theorem setFport_shadow (s : State) (p : Nat) (x : Port) : (setFport s p x).shadow = s.shadow := rfl
@[simp] theorem setFport_out (s : State) (p : Nat) (x : Port) : (setFport s p x).out = s.out := rfl
@[simp] theorem setFport_fresh (s : State) (p : Nat) (x : Port) : (setFport s p x).fresh = s.fresh := rfl
@[simp] theorem setFport_ns (s : State) (p : Nat) (x : Port) : (setFport s p x).ns = s.ns := rfl
@[simp] theorem setFport_mer (s : State) (p : Nat) (x : Port) : (setFport s p x).mer = s.mer := rfl
@[simp] theorem setFport_img (s : State) (p : Nat) (x : Port) : (setFport s p x).img = s.img := rfl
@[simp] theorem setFport_load (s : State) (p : Nat) (x : Port) : (setFport s p x).load = s.load := rfl
@[simp] theorem setFport_mem (s : State) (p : Nat) (x : Port) : (setFport s p x).mem = s.mem := rfl
@[simp] theorem setFport_stk (s : State) (p : Nat) (x : Port) : (setFport s p x).stk = s.stk := rfl
@[simp] theorem setFport_clu (s : State) (p : Nat) (x : Port) : (setFport s p x).clu = s.clu := rfl
@[simp] theorem setFport_kvm (s : State) (p : Nat) (x : Port) : (setFport s p x).kvm = s.kvm := rfl
@[simp] theorem setFport_seq (s : State) (p : Nat) (x : Port) : (setFport s p x).seq = s.seq := rfl
@[simp] theorem setFport_fab (s : State) (p : Nat) (x : Port) : (setFport s p x).fab = { s.fab with ports := KMap.set (fun _ => Port.reset) s.fab.ports p x } := rfl
@[simp] theorem setFport_ras (s : State) (p : Nat) (x : Port) : (setFport s p x).ras = s.ras := rfl
@[simp] theorem setFport_saf (s : State) (p : Nat) (x : Port) : (setFport s p x).saf = s.saf := rfl
@[simp] theorem setFport_bst (s : State) (p : Nat) (x : Port) : (setFport s p x).bst = s.bst := rfl
@[simp] theorem setFport_sec (s : State) (p : Nat) (x : Port) : (setFport s p x).sec = s.sec := rfl
@[simp] theorem setFport_pwr (s : State) (p : Nat) (x : Port) : (setFport s p x).pwr = s.pwr := rfl
@[simp] theorem setFport_ckr (s : State) (p : Nat) (x : Port) : (setFport s p x).ckr = s.ckr := rfl
@[simp] theorem setFport_irq (s : State) (p : Nat) (x : Port) : (setFport s p x).irq = s.irq := rfl
@[simp] theorem setFport_hpt (s : State) (p : Nat) (x : Port) : (setFport s p x).hpt = s.hpt := rfl
@[simp] theorem setFport_held (s : State) (p : Nat) (x : Port) : (setFport s p x).held = s.held := rfl
@[simp] theorem setFport_probe (s : State) (p : Nat) (x : Port) : (setFport s p x).probe = s.probe := rfl
@[simp] theorem setFport_probeHeld (s : State) (p : Nat) (x : Port) : (setFport s p x).probeHeld = s.probeHeld := rfl
@[simp] theorem setFport_faultN (s : State) (p : Nat) (x : Port) : (setFport s p x).faultN = s.faultN := rfl
@[simp] theorem setFport_alarmN (s : State) (p : Nat) (x : Port) : (setFport s p x).alarmN = s.alarmN := rfl

/-! setLoop -/

@[simp] theorem setLoop_pending (s : State) (n : Nat) (x : Loop) : (setLoop s n x).pending = s.pending := rfl
@[simp] theorem setLoop_regs (s : State) (n : Nat) (x : Loop) : (setLoop s n x).regs = s.regs := rfl
@[simp] theorem setLoop_shadow (s : State) (n : Nat) (x : Loop) : (setLoop s n x).shadow = s.shadow := rfl
@[simp] theorem setLoop_out (s : State) (n : Nat) (x : Loop) : (setLoop s n x).out = s.out := rfl
@[simp] theorem setLoop_fresh (s : State) (n : Nat) (x : Loop) : (setLoop s n x).fresh = s.fresh := rfl
@[simp] theorem setLoop_ns (s : State) (n : Nat) (x : Loop) : (setLoop s n x).ns = s.ns := rfl
@[simp] theorem setLoop_mer (s : State) (n : Nat) (x : Loop) : (setLoop s n x).mer = s.mer := rfl
@[simp] theorem setLoop_img (s : State) (n : Nat) (x : Loop) : (setLoop s n x).img = s.img := rfl
@[simp] theorem setLoop_load (s : State) (n : Nat) (x : Loop) : (setLoop s n x).load = s.load := rfl
@[simp] theorem setLoop_mem (s : State) (n : Nat) (x : Loop) : (setLoop s n x).mem = s.mem := rfl
@[simp] theorem setLoop_stk (s : State) (n : Nat) (x : Loop) : (setLoop s n x).stk = s.stk := rfl
@[simp] theorem setLoop_clu (s : State) (n : Nat) (x : Loop) : (setLoop s n x).clu = s.clu := rfl
@[simp] theorem setLoop_kvm (s : State) (n : Nat) (x : Loop) : (setLoop s n x).kvm = s.kvm := rfl
@[simp] theorem setLoop_seq (s : State) (n : Nat) (x : Loop) : (setLoop s n x).seq = { s.seq with loops := KMap.set (fun _ => Loop.reset) s.seq.loops n x } := rfl
@[simp] theorem setLoop_fab (s : State) (n : Nat) (x : Loop) : (setLoop s n x).fab = s.fab := rfl
@[simp] theorem setLoop_ras (s : State) (n : Nat) (x : Loop) : (setLoop s n x).ras = s.ras := rfl
@[simp] theorem setLoop_saf (s : State) (n : Nat) (x : Loop) : (setLoop s n x).saf = s.saf := rfl
@[simp] theorem setLoop_bst (s : State) (n : Nat) (x : Loop) : (setLoop s n x).bst = s.bst := rfl
@[simp] theorem setLoop_sec (s : State) (n : Nat) (x : Loop) : (setLoop s n x).sec = s.sec := rfl
@[simp] theorem setLoop_pwr (s : State) (n : Nat) (x : Loop) : (setLoop s n x).pwr = s.pwr := rfl
@[simp] theorem setLoop_ckr (s : State) (n : Nat) (x : Loop) : (setLoop s n x).ckr = s.ckr := rfl
@[simp] theorem setLoop_irq (s : State) (n : Nat) (x : Loop) : (setLoop s n x).irq = s.irq := rfl
@[simp] theorem setLoop_hpt (s : State) (n : Nat) (x : Loop) : (setLoop s n x).hpt = s.hpt := rfl
@[simp] theorem setLoop_held (s : State) (n : Nat) (x : Loop) : (setLoop s n x).held = s.held := rfl
@[simp] theorem setLoop_probe (s : State) (n : Nat) (x : Loop) : (setLoop s n x).probe = s.probe := rfl
@[simp] theorem setLoop_probeHeld (s : State) (n : Nat) (x : Loop) : (setLoop s n x).probeHeld = s.probeHeld := rfl
@[simp] theorem setLoop_faultN (s : State) (n : Nat) (x : Loop) : (setLoop s n x).faultN = s.faultN := rfl
@[simp] theorem setLoop_alarmN (s : State) (n : Nat) (x : Loop) : (setLoop s n x).alarmN = s.alarmN := rfl

/-! Units read as they were written -/

@[simp] theorem cl_setCl_same (s : State) (c : Nat) (x : Cluster) : cl (setCl s c x) c = x := KMap.get_set_same _ _ _ _
theorem cl_setCl_other (s : State) {c k : Nat} (x : Cluster) (h : k ≠ c) : cl (setCl s c x) k = cl s k := KMap.get_set_other _ _ _ h
@[simp] theorem cl_modCl_same (s : State) (c : Nat) (f : Cluster → Cluster) : cl (modCl s c f) c = f (cl s c) := KMap.get_set_same _ _ _ _
theorem cl_modCl_other (s : State) {c k : Nat} (f : Cluster → Cluster) (h : k ≠ c) : cl (modCl s c f) k = cl s k :=
  KMap.get_set_other _ _ _ h
@[simp] theorem stk_setStk_same (s : State) (n : Nat) (x : Stack) : stk (setStk s n x) n = x := KMap.get_set_same _ _ _ _
theorem stk_setStk_other (s : State) {n k : Nat} (x : Stack) (h : k ≠ n) : stk (setStk s n x) k = stk s k := KMap.get_set_other _ _ _ h
@[simp] theorem hport_setHport_same (s : State) (p : Nat) (x : HostPort) : hport (setHport s p x) p = x := KMap.get_set_same _ _ _ _
theorem hport_setHport_other (s : State) {p k : Nat} (x : HostPort) (h : k ≠ p) : hport (setHport s p x) k = hport s k :=
  KMap.get_set_other _ _ _ h
@[simp] theorem fport_setFport_same (s : State) (p : Nat) (x : Port) : fport (setFport s p x) p = x := KMap.get_set_same _ _ _ _
theorem fport_setFport_other (s : State) {p k : Nat} (x : Port) (h : k ≠ p) : fport (setFport s p x) k = fport s k :=
  KMap.get_set_other _ _ _ h
@[simp] theorem loopOf_setLoop_same (s : State) (n : Nat) (x : Loop) : loopOf (setLoop s n x) n = x := KMap.get_set_same _ _ _ _
theorem loopOf_setLoop_other (s : State) {n k : Nat} (x : Loop) (h : k ≠ n) : loopOf (setLoop s n x) k = loopOf s k :=
  KMap.get_set_other _ _ _ h

/-! Reads through updates of other fields -/

@[simp] theorem rd_quiet (s : State) (f : Field) (i j : Nat) : rd (quiet s) f i j = rd s f i j := rfl
@[simp] theorem rd_reply (s : State) (who : Requester) (a : Answer) (f : Field) (i j : Nat) : rd (reply s who a) f i j = rd s f i j := rfl
@[simp] theorem rd_emit (s : State) (a : Answer) (f : Field) (i j : Nat) : rd (emit s a) f i j = rd s f i j := rfl
@[simp] theorem rd_setCl (s : State) (c : Nat) (x : Cluster) (f : Field) (i j : Nat) : rd (setCl s c x) f i j = rd s f i j := rfl
@[simp] theorem rd_modCl (s : State) (c : Nat) (g : Cluster → Cluster) (f : Field) (i j : Nat) : rd (modCl s c g) f i j = rd s f i j := rfl
@[simp] theorem rd_setStk (s : State) (n : Nat) (x : Stack) (f : Field) (i j : Nat) : rd (setStk s n x) f i j = rd s f i j := rfl
@[simp] theorem rd_setHport (s : State) (p : Nat) (x : HostPort) (f : Field) (i j : Nat) : rd (setHport s p x) f i j = rd s f i j := rfl
@[simp] theorem rd_setFport (s : State) (p : Nat) (x : Port) (f : Field) (i j : Nat) : rd (setFport s p x) f i j = rd s f i j := rfl
@[simp] theorem rd_setLoop (s : State) (n : Nat) (x : Loop) (f : Field) (i j : Nat) : rd (setLoop s n x) f i j = rd s f i j := rfl
@[simp] theorem cl_quiet (s : State) (c : Nat) : cl (quiet s) c = cl s c := rfl
@[simp] theorem cl_wr (s : State) (f : Field) (v i j c : Nat) : cl (wr s f v i j) c = cl s c := rfl
@[simp] theorem cl_flag (s : State) (f : Field) (i j c : Nat) : cl (flag s f i j) c = cl s c := rfl
@[simp] theorem stk_quiet (s : State) (n : Nat) : stk (quiet s) n = stk s n := rfl
@[simp] theorem stk_wr (s : State) (f : Field) (v i j n : Nat) : stk (wr s f v i j) n = stk s n := rfl
@[simp] theorem stk_flag (s : State) (f : Field) (i j n : Nat) : stk (flag s f i j) n = stk s n := rfl
@[simp] theorem stk_inc (s : State) (f : Field) (i j n : Nat) : stk (inc s f i j) n = stk s n := rfl
@[simp] theorem hport_quiet (s : State) (p : Nat) : hport (quiet s) p = hport s p := rfl
@[simp] theorem hport_wr (s : State) (f : Field) (v i j p : Nat) : hport (wr s f v i j) p = hport s p := rfl
@[simp] theorem hport_flag (s : State) (f : Field) (i j p : Nat) : hport (flag s f i j) p = hport s p := rfl
@[simp] theorem fport_quiet (s : State) (p : Nat) : fport (quiet s) p = fport s p := rfl
@[simp] theorem fport_wr (s : State) (f : Field) (v i j p : Nat) : fport (wr s f v i j) p = fport s p := rfl
@[simp] theorem fport_flag (s : State) (f : Field) (i j p : Nat) : fport (flag s f i j) p = fport s p := rfl
@[simp] theorem loopOf_quiet (s : State) (n : Nat) : loopOf (quiet s) n = loopOf s n := rfl
@[simp] theorem loopOf_wr (s : State) (f : Field) (v i j n : Nat) : loopOf (wr s f v i j) n = loopOf s n := rfl
@[simp] theorem loopOf_flag (s : State) (f : Field) (i j n : Nat) : loopOf (flag s f i j) n = loopOf s n := rfl

end Sys2Proof.Machine
end

