-- ==== Sys2Proof/Laws/Access.lean ====
section
/-! SUPPORT. What the shared operations of an access can change, and that each keeps the form of the memories: error records, reads and
writes of a line through its slice, scratchpad reads, contributions, and an access at its point of order. -/

namespace Sys2Proof.Machine

/-! Error records touch registers and the repair lists alone -/

theorem recordUe_frame (s : State) (k src a : Nat) : recordUe s k src a = { s with regs := (recordUe s k src a).regs } := by
  unfold recordUe; dsimp only; split <;> rfl

@[simp] theorem recordUe_mem (s : State) (k src a : Nat) : (recordUe s k src a).mem = s.mem := by rw [recordUe_frame]

theorem rowCorrected_frame (s : State) (row : Nat) : rowCorrected s row = { s with ras := (rowCorrected s row).ras } := by
  unfold rowCorrected; dsimp only; split <;> rfl

@[simp] theorem rowCorrected_mem (s : State) (row : Nat) : (rowCorrected s row).mem = s.mem := by rw [rowCorrected_frame]
@[simp] theorem recordCe_mem (s : State) : (recordCe s).mem = s.mem := rfl
@[simp] theorem countPoison_mem (s : State) : (countPoison s).mem = s.mem := rfl

/-! A line read -/

theorem fetchLine_mem (s : State) (off n : Nat) (ecc : Ecc) : (fetchLine s off n ecc).1.mem = settle s.mem n := by
  unfold fetchLine
  dsimp only
  split
  · cases ecc
    · dsimp only; split <;> rfl
    · simp
    · simp
  · rfl

/-- A line read from its stack changes registers, memory and the repair lists, and nothing else. -/
theorem fetchLine_frame (s : State) (off n : Nat) (ecc : Ecc) : (fetchLine s off n ecc).1 =
    { s with regs := (fetchLine s off n ecc).1.regs, mem := (fetchLine s off n ecc).1.mem, ras := (fetchLine s off n ecc).1.ras } := by
  unfold fetchLine
  dsimp only
  split
  · cases ecc
    · dsimp only; split <;> rfl
    · dsimp only; rw [rowCorrected_frame]; rfl
    · dsimp only; rw [recordUe_frame]
  · rfl

/-- A line takes a way of its set: memory alone changes. -/
theorem writeBack_frame (s : State) (l : CacheLine) : writeBack s l = { s with mem := (writeBack s l).mem } := by
  unfold writeBack
  split
  · rfl
  · dsimp only; split <;> rfl

theorem allocate_frame (s : State) (die off : Nat) (d : BitVec 512) (p dirty : Bool) :
    allocate s die off d p dirty = { s with mem := (allocate s die off d p dirty).mem } := by
  unfold allocate
  dsimp only
  split
  · split
    · rw [writeBack_frame]
    · rfl
  · rfl

theorem hitLine_frame (s : State) (die off : Nat) (l : CacheLine) (ecc : Ecc) : (hitLine s die off l ecc).1 =
    { s with regs := (hitLine s die off l ecc).1.regs, mem := (hitLine s die off l ecc).1.mem } := by
  unfold hitLine
  cases ecc
  · dsimp only; split <;> rfl
  · rfl
  · dsimp only; rw [recordUe_frame]

theorem hitLine_formOk (s : State) (die off : Nat) (l : CacheLine) (ecc : Ecc) (h : s.mem.formOk = true) :
    (hitLine s die off l ecc).1.mem.formOk = true := by
  have h' (d : BitVec 512) := putSet_formOk s.mem (setKey die off) ⟨(cacheSet s.mem (setKey die off)).ways.set
    ((findWay (cacheSet s.mem (setKey die off)) (off / 64)).getD 0) (some { l with data := d, poison := l.poison || ecc == .uncorrectable }),
    touch (cacheSet s.mem (setKey die off)).nodes ((findWay (cacheSet s.mem (setKey die off)) (off / 64)).getD 0)⟩ h
  unfold hitLine
  cases ecc
  · dsimp only; split <;> exact h' _
  · exact h' _
  · dsimp only; rw [recordUe_mem]; exact h' _

theorem fetchLine_formOk (s : State) (off n : Nat) (ecc : Ecc) (h : s.mem.formOk = true) : (fetchLine s off n ecc).1.mem.formOk = true := by
  rw [fetchLine_mem]; exact settle_formOk _ _ h

/-- A line read through its slice changes registers, memory and the repair lists, and nothing else. -/
theorem obtainLine_frame (s : State) (off : Nat) (ecc : Ecc) : (obtainLine s off ecc).1 =
    { s with regs := (obtainLine s off ecc).1.regs, mem := (obtainLine s off ecc).1.mem, ras := (obtainLine s off ecc).1.ras } := by
  unfold obtainLine
  dsimp only
  split
  · rw [hitLine_frame]
  · split
    · rfl
    · dsimp only; rw [allocate_frame, fetchLine_frame]

theorem obtainLine_formOk (s : State) (off : Nat) (ecc : Ecc) (h : s.mem.formOk = true) : (obtainLine s off ecc).1.mem.formOk = true := by
  unfold obtainLine
  dsimp only
  split
  · exact hitLine_formOk _ _ _ _ _ h
  · split
    · exact h
    · exact allocate_formOk _ _ _ _ _ _ (fetchLine_formOk _ _ _ _ h)

/-! A line written -/

theorem noteWrite_frame (s : State) (who : Requester) (off : Nat) : noteWrite s who off = { s with load := (noteWrite s who off).load } := by
  unfold noteWrite
  split
  · split <;> rfl
  · rfl

@[simp] theorem noteWrite_mem (s : State) (who : Requester) (off : Nat) : (noteWrite s who off).mem = s.mem := by rw [noteWrite_frame]

/-- A line written at its home, both copies of a mirrored one, changes memory and the loader's list of written units alone. -/
theorem writeLine_frame (s : State) (who : Requester) (off : Nat) (d : BitVec 512) (p : Bool) :
    writeLine s who off d p = { s with load := (writeLine s who off d p).load, mem := (writeLine s who off d p).mem } := by
  unfold writeLine writeLine1
  dsimp only
  split
  · rw [allocate_frame, noteWrite_frame, allocate_frame, noteWrite_frame]
  · rw [allocate_frame, noteWrite_frame]

theorem writeLine_formOk (s : State) (who : Requester) (off : Nat) (d : BitVec 512) (p : Bool) (h : s.mem.formOk = true) :
    (writeLine s who off d p).mem.formOk = true := by
  have h1 := allocate_formOk (noteWrite s who off) (homeDie (noteWrite s who off) off) off d p true (by rw [noteWrite_mem]; exact h)
  unfold writeLine writeLine1
  dsimp only
  split
  · refine allocate_formOk _ _ _ _ _ _ ?_
    rw [noteWrite_mem]; exact h1
  · exact h1

theorem meteorPut1_formOk (s : State) (off : Nat) (d : BitVec 256) (p : Bool) (h : s.mem.formOk = true) :
    (meteorPut1 s off d p).mem.formOk = true := by
  unfold meteorPut1
  dsimp only
  split
  · exact allocate_formOk _ _ _ _ _ _ h
  · split
    · exact h
    · exact setAccepted_formOk _ _ _ h

theorem meteorPut_formOk (s : State) (who : Requester) (off : Nat) (d : BitVec 256) (p : Bool) (h : s.mem.formOk = true) :
    (meteorPut s who off d p).mem.formOk = true := by
  have h1 := meteorPut1_formOk (noteWrite s who off) off d p (by rw [noteWrite_mem]; exact h)
  unfold meteorPut
  dsimp only
  split
  · refine meteorPut1_formOk _ _ _ _ ?_
    rw [noteWrite_mem]; exact h1
  · exact h1

/-! Scratchpads and contributions -/

theorem spadRead_mem (s : State) (c off n : Nat) (ecc : Ecc) : (spadRead s c off n ecc).1.mem = s.mem := by
  unfold spadRead
  cases ecc
  · dsimp only; split <;> rfl
  · rfl
  · dsimp only; rw [recordUe_mem]

theorem contributeAt_formOk (s : State) (slice addr : Nat) (c : Contribution) (h : s.mem.formOk = true) :
    (contributeAt s slice addr c).1.mem.formOk = true := by
  unfold contributeAt
  dsimp only
  repeat' split
  all_goals exact h

/-! An access at its point of order -/

theorem performHashed_formOk (s : State) (who : Requester) (off : Nat) (kind : AccessKind) (ecc : Ecc) (h : s.mem.formOk = true) :
    (performHashed s who off kind ecc).1.mem.formOk = true := by
  cases kind with
  | lineRead => exact obtainLine_formOk _ _ _ h
  | meteorRead =>
    unfold performHashed
    dsimp only
    split
    · exact hitLine_formOk _ _ _ _ _ h
    · split
      · exact h
      · exact fetchLine_formOk _ _ _ _ h
  | lineWrite d p =>
    unfold performHashed
    dsimp only
    split
    · exact h
    · exact writeLine_formOk _ _ _ _ _ h
  | partialStore bs p =>
    unfold performHashed
    dsimp only
    split
    · exact h
    · exact writeLine_formOk _ _ _ _ _ (obtainLine_formOk _ _ _ h)
  | meteorWrite d p =>
    unfold performHashed
    dsimp only
    split
    · exact h
    · exact meteorPut_formOk _ _ _ _ _ h
  | atomic op wide x y p =>
    unfold performHashed
    dsimp only
    split
    · exact h
    · dsimp only
      split
      · exact obtainLine_formOk _ _ _ h
      · exact writeLine_formOk _ _ _ _ _ (obtainLine_formOk _ _ _ h)
  | contribute c =>
    unfold performHashed
    dsimp only
    split
    · exact contributeAt_formOk _ _ _ _ h
    · split
      · exact writeLine_formOk _ _ _ _ _ (obtainLine_formOk _ _ _ (contributeAt_formOk _ _ _ _ h))
      · exact writeLine_formOk _ _ _ _ _ (contributeAt_formOk _ _ _ _ h)
  | reduceCancel => exact Memory.formOk_congr rfl rfl rfl rfl h

theorem performWindow_formOk (s : State) (off c x : Nat) (kind : AccessKind) (ecc : Ecc) (h : s.mem.formOk = true) :
    (performWindow s off c x kind ecc).1.mem.formOk = true := by
  have hr : ∀ c x n, (spadRead s c x n ecc).1.mem.formOk = true := fun c x n => by rw [spadRead_mem]; exact h
  cases kind with
  | lineRead => exact hr _ _ _
  | meteorRead => exact hr _ _ _
  | lineWrite d p =>
    unfold performWindow
    dsimp only
    split
    · exact h
    · exact spadWrite_formOk _ _ _ _ _ h
  | partialStore bs p =>
    unfold performWindow
    dsimp only
    split
    · exact h
    · exact spadWrite_formOk _ _ _ _ _ h
  | meteorWrite d p =>
    unfold performWindow
    dsimp only
    split
    · exact h
    · exact spadWrite_formOk _ _ _ _ _ h
  | atomic op wide a b p =>
    unfold performWindow
    dsimp only
    split
    · exact h
    · dsimp only
      split
      · exact hr _ _ _
      · exact spadWrite_formOk _ _ _ _ _ (hr _ _ _)
  | contribute q =>
    unfold performWindow
    dsimp only
    split
    · exact contributeAt_formOk _ _ _ _ h
    · split
      · refine spadWrite_formOk _ _ _ _ _ ?_
        rw [spadRead_mem]
        exact contributeAt_formOk _ _ _ _ h
      · exact spadWrite_formOk _ _ _ _ _ (contributeAt_formOk _ _ _ _ h)
  | reduceCancel => exact Memory.formOk_congr rfl rfl rfl rfl h

/-- A fold of steps over the state that keep a property keeps it. -/
theorem foldl_keeps {β : Type} {P : State → Prop} (f : State → β → State) (hf : ∀ s b, P s → P (f s b)) :
    ∀ (l : List β) (s : State), P s → P (l.foldl f s) := by
  intro l
  induction l with
  | nil => intro s h; exact h
  | cons b l ih => intro s h; exact ih _ (hf s b h)

@[simp] theorem backInvalidateAsk_mem (s : State) (off : Nat) : (backInvalidateAsk s off).mem = s.mem := by
  unfold backInvalidateAsk
  split
  · rfl
  · exact foldl_keeps (P := fun t => t.mem = s.mem) (fun s (x : Snoop) => emit s (.backInvalidate x.port x.line)) (fun _ _ ht => ht) _ _ rfl

theorem localAccess_formOk (s : State) (o : Origin) (who : Requester) (space off : Nat) (kind : AccessKind) (ecc : Ecc)
    (h : s.mem.formOk = true) : (localAccess s o who space off kind ecc).1.mem.formOk = true := by
  have hb : (backInvalidateAsk s off).mem.formOk = true := by rw [backInvalidateAsk_mem]; exact h
  unfold localAccess
  repeat' split
  all_goals first
    | with_reducible exact h
    | with_reducible exact performHashed_formOk _ _ _ _ _ h
    | with_reducible exact performWindow_formOk _ _ _ _ _ _ h
    | exact Memory.formOk_congr rfl rfl rfl rfl hb

end Sys2Proof.Machine
end

