-- ==== Sys2Proof/Laws/Links.lean ====
section
/-! SUPPORT. What the shared operations of the links can change, that a link that goes down loses its key (R320, R326), and that an access
by global address, with its delivery, keeps the form of the memories. -/

namespace Sys2Proof.Machine

/-! A link that holds no key gets none by sending -/

theorem rekeyDue_key (s : State) (p q : Nat) (h : (fport s p).key = none) : (fport (rekeyDue s q) p).key = none := by
  unfold rekeyDue
  split
  · next hc =>
    by_cases hpq : p = q
    · subst hpq; simp [h] at hc
    · unfold newKeys; rw [fport_setFport_other _ _ hpq]; exact h
  · exact h

theorem setFport_key (s : State) (p q : Nat) (x : Port) (hx : x.key = (fport s q).key) (h : (fport s p).key = none) :
    (fport (setFport s q x) p).key = none := by
  by_cases hpq : p = q
  · subst hpq; rw [fport_setFport_same, hx]; exact h
  · rw [fport_setFport_other _ _ hpq]; exact h

theorem sendFlit_key (s : State) (p q vc : Nat) (b) (h : (fport s p).key = none) : (fport (sendFlit s q vc b) p).key = none := by
  unfold sendFlit
  apply rekeyDue_key
  exact setFport_key _ _ _ _ rfl h

theorem pumpAux_key (p : Nat) : ∀ (l stuck) (s : State), (fport s p).key = none → (fport (pumpAux l stuck s) p).key = none := by
  intro l
  induction l with
  | nil => intro stuck s h; exact h
  | cons x t ih =>
    intro stuck s h
    obtain ⟨q, vc, b⟩ := x
    unfold pumpAux
    split
    · exact ih _ _ (sendFlit_key s p q vc b h)
    · exact ih _ _ h

theorem sendPacket_key (s : State) (p q : Nat) (x) (h : (fport s p).key = none) : (fport (sendPacket s q x) p).key = none :=
  pumpAux_key p _ _ _ h

theorem releaseRequests_key (s : State) (p : Nat) (h : (fport s p).key = none) : (fport (releaseRequests s) p).key = none := by
  unfold releaseRequests
  refine foldl_keeps (P := fun s => (fport s p).key = none) _ ?_ _ _ h
  intro s x h
  split
  · exact sendPacket_key _ _ _ _ h
  · exact h

theorem portDown_key_same (s : State) (p : Nat) : (fport (portDown s p) p).key = none := by
  unfold portDown loseLink reroute
  rw [fport_flag]
  apply releaseRequests_key
  show (fport (setFport _ p _) p).key = none
  rw [fport_setFport_same]; rfl

theorem portDown_key_other (s : State) (p q : Nat) (h : (fport s p).key = none) : (fport (portDown s q) p).key = none := by
  by_cases e : p = q
  · subst e; exact portDown_key_same s p
  · unfold portDown loseLink reroute
    rw [fport_flag]
    apply releaseRequests_key
    show (fport (setFport _ q _) p).key = none
    rw [fport_setFport_other _ _ e]; exact h

theorem zeroLinks_key (s : State) (p : Nat) (hp : p < 18) : (fport (zeroLinks s) p).key = none := by
  unfold zeroLinks
  have : List.range 18 = List.range p ++ p :: (List.range' (p + 1) (17 - p)) := by
    rw [show List.range 18 = List.range' 0 18 from List.range_eq_range' , List.range_eq_range', show p :: List.range' (p+1) (17-p) = List.range' (0 + p) (18 - p) by rw [show 18 - p = (17 - p) + 1 by omega, Nat.zero_add]; rfl, List.range'_append_1]
    congr 1; omega
  rw [this, List.foldl_append, List.foldl_cons]
  exact foldl_keeps (P := fun s => (fport s p).key = none) _ (fun s x h => portDown_key_other s p x h) _ _ (portDown_key_same _ p)

/-! Sending and losing links changes answers, registers, free values and the fabric, and nothing else -/

/-- Everything but what sending touches. -/
def apartFromLinks (s : State) : State := { s with out := [], regs := [], fresh := 0, fab := .reset }

theorem eq_of_apartFromLinks {s t : State} (h : apartFromLinks t = apartFromLinks s) :
    t = { s with out := t.out, regs := t.regs, fresh := t.fresh, fab := t.fab } := by
  cases s; cases t
  simp only [apartFromLinks, State.mk.injEq] at h ⊢
  simp [h]

theorem rekeyDue_frame (s : State) (p : Nat) : apartFromLinks (rekeyDue s p) = apartFromLinks s := by unfold rekeyDue; split <;> rfl

theorem sendFlit_frame (s : State) (p vc : Nat) (b : List Byte) : apartFromLinks (sendFlit s p vc b) = apartFromLinks s := by
  unfold sendFlit; exact rekeyDue_frame _ _

theorem pumpAux_frame : ∀ l stuck s, apartFromLinks (pumpAux l stuck s) = apartFromLinks s := by
  intro l
  induction l with
  | nil => intros; rfl
  | cons x t ih =>
    intro stuck s
    obtain ⟨p, vc, b⟩ := x
    unfold pumpAux
    split
    · rw [ih, sendFlit_frame]
    · rw [ih]; rfl

theorem sendPacket_frame (s : State) (p : Nat) (x : Packet) : apartFromLinks (sendPacket s p x) = apartFromLinks s := pumpAux_frame _ _ _

theorem releaseRequests_frame (s : State) : apartFromLinks (releaseRequests s) = apartFromLinks s := by
  unfold releaseRequests
  refine foldl_keeps (P := fun t => apartFromLinks t = apartFromLinks s) _ ?_ _ _ rfl
  intro t x h
  split
  · rw [sendPacket_frame]; exact h
  · exact h

theorem portDown_frame (s : State) (p : Nat) : apartFromLinks (portDown s p) = apartFromLinks s := by
  unfold portDown loseLink reroute
  show apartFromLinks (releaseRequests _) = _
  rw [releaseRequests_frame]; rfl

theorem zeroLinks_frame (s : State) : apartFromLinks (zeroLinks s) = apartFromLinks s :=
  foldl_keeps (P := fun t => apartFromLinks t = apartFromLinks s) portDown (fun t x h => (portDown_frame t x).trans h) _ _ rfl

@[simp] theorem sendPacket_mem (s : State) (p : Nat) (x : Packet) : (sendPacket s p x).mem = s.mem := by
  rw [eq_of_apartFromLinks (sendPacket_frame s p x)]

@[simp] theorem fabRecord_mem (s : State) (code side dev : Nat) : (fabRecord s code side dev).mem = s.mem := by
  unfold fabRecord; dsimp only; repeat' split
  all_goals rfl

/-- An access to another part sends a packet at most: memory is as it was. -/
@[simp] theorem fabRequest_mem (s : State) (o : Origin) (who : Requester) (opc dev sp off arg : Nat) (b : List Byte) (p : Bool) :
    (fabRequest s o who opc dev sp off arg b p).1.mem = s.mem := by
  unfold fabRequest
  dsimp only
  repeat' split
  all_goals simp

@[simp] theorem remoteAccess_mem (s : State) (o : Origin) (who : Requester) (a : GAddr) (kind : AccessKind) :
    (remoteAccess s o who a kind).1.mem = s.mem := by
  unfold remoteAccess
  dsimp only
  split
  · rfl
  · cases kind <;> simp

/-! Accesses by global address keep the form of the memories -/

theorem bump_formOk (s : State) (who : Requester) (a : GAddr) (n : Nat) (h : s.mem.formOk = true) : (bump s who a n).mem.formOk = true := by
  unfold bump
  split
  · exact localAccess_formOk _ _ _ _ _ _ _ h
  · rw [remoteAccess_mem]; exact h

theorem hostSend1_mem (s : State) (p : Nat) (r : HostReq) : (hostSend1 s p r).mem = s.mem := by
  unfold hostSend1
  split
  · rfl
  · dsimp only; split <;> rfl

theorem hostDrainAux_mem (p : Nat) : ∀ (n : Nat) (s : State), (hostDrainAux n s p).mem = s.mem := by
  intro n
  induction n with
  | zero => intro s; rfl
  | succ n ih =>
    intro s
    unfold hostDrainAux
    split
    · rfl
    · split
      · rfl
      · split
        · rfl
        · rw [ih, hostSend1_mem]; rfl

theorem hostPush_mem (s : State) (p : Nat) (r : HostReq) : (hostPush s p r).mem = s.mem := hostDrainAux_mem p _ _

theorem outEntry_formOk (s : State) (p i : Nat) (h : s.mem.formOk = true) : (outEntry s p i).1.mem.formOk = true := by
  unfold outEntry
  split
  · exact h
  · exact obtainLine_formOk _ _ _ h

theorem hostAccess_formOk (s : State) (o : Origin) (who : Requester) (off : Nat) (kind : AccessKind) (h : s.mem.formOk = true) :
    (hostAccess s o who off kind).1.mem.formOk = true := by
  have he := fun i => outEntry_formOk s (off / 2 ^ 40) i h
  unfold hostAccess outFail
  dsimp only
  generalize hr : outEntry s (off / 2 ^ 40) (off % 2 ^ 40 / 2 ^ 21) = r
  have hq : r.1.mem.formOk = true := by rw [← hr]; exact he _
  have hp : ∀ q, (hostPush r.1 (off / 2 ^ 40) q).mem.formOk = true := fun q => by rw [hostPush_mem]; exact hq
  split
  · exact h
  · exact h
  · exact h
  · split
    · exact h
    · split
      · exact hq
      · have hs : ∀ (b c : Bool) (q q' : HostReq), (if b = true then (wr64 (flag r.1 Fld.HPT_EVENT_OUT_ERR (off / 2 ^ 40))
            Fld.HPT_OERR_LO_OFFSET Fld.HPT_OERR_HI_OFFSET (off % 2 ^ 40) (off / 2 ^ 40), Answer.tenantError)
          else if c = true then (hostPush r.1 (off / 2 ^ 40) q, Answer.held)
          else (hostPush r.1 (off / 2 ^ 40) q', Answer.done)).1.mem.formOk = true := by
          intro b c q q'
          cases b <;> cases c
          · exact hp _
          · exact hp _
          · exact hq
          · exact hq
        split
        · exact hs _ _ _ _
        · exact hs _ _ _ _

theorem access_formOk (s : State) (o : Origin) (who : Requester) (a : GAddr) (kind : AccessKind) (ecc : Ecc) (h : s.mem.formOk = true) :
    (access s o who a kind ecc).1.mem.formOk = true := by
  have hl := localAccess_formOk s o who (spaceOf a) (offOf a) kind ecc h
  unfold access
  split
  · rw [remoteAccess_mem]; exact h
  · split
    · exact hostAccess_formOk _ _ _ _ _ h
    · dsimp only
      split
      · exact Memory.formOk_congr rfl rfl rfl rfl hl
      · split
        · exact bump_formOk _ _ _ _ hl
        · exact hl

theorem faultOf_mem (s : State) (a : Answer) : (faultOf s a).2.mem = s.mem := by
  unfold faultOf
  split
  all_goals (repeat' split)
  all_goals rfl

theorem clusterAnswer_mem (s : State) (c : Nat) (load : Option (Nat × Nat)) (pc slot : Nat) (a : Answer) :
    (clusterAnswer s c load pc slot a).mem = s.mem := by
  have hf := faultOf_mem s a
  unfold clusterAnswer
  split
  · split <;> rfl
  · split
    · next e => rw [e] at hf; exact hf
    · next e =>
      rw [e] at hf
      dsimp only
      split
      · exact hf
      · split
        · exact hf
        · exact hf

theorem hubAnswer_mem (s : State) (who : Requester) (a : Answer) : (hubAnswer s who a).mem = s.mem := by
  unfold hubAnswer
  split
  · split <;> simp
  · rfl

theorem sendResponse_mem (s : State) (p q : Packet) : (sendResponse s p q).mem = s.mem := by
  unfold sendResponse
  dsimp only
  repeat' split
  all_goals simp

theorem serveAnswer_mem (s : State) (p : Packet) (a : Answer) : (serveAnswer s p a).mem = s.mem := by
  unfold serveAnswer
  split
  all_goals first
    | rfl
    | simp [sendResponse_mem]

theorem answerTo_formOk (s : State) (o : Origin) (a : Answer) (h : s.mem.formOk = true) : (answerTo s o a).mem.formOk = true := by
  unfold answerTo
  split
  · rw [clusterAnswer_mem]; exact h
  · rw [hubAnswer_mem]; exact h
  · rw [serveAnswer_mem]; exact h
  · unfold dmaFault
    have hf := faultOf_mem s a
    split
    · next e => rw [e] at hf; rw [hf]; exact h
    · next e =>
      rw [e] at hf
      show Memory.formOk _ = true
      rw [modCl_mem, hf]; exact h
  · rw [hubAnswer_mem]
    split
    · exact Memory.formOk_congr rfl rfl rfl rfl h
    · exact Memory.formOk_congr rfl rfl rfl rfl h
    · exact h
  all_goals exact h

theorem deliver_formOk (s : State) (o : Origin) (a : Answer) (h : s.mem.formOk = true) : (deliver s o a).mem.formOk = true := by
  unfold deliver
  split
  · split
    · exact h
    · exact answerTo_formOk _ _ _ (access_formOk _ _ _ _ _ _ h)
  · exact answerTo_formOk _ _ _ h

/-- An access of any requester, with its delivery. -/
theorem accessFor_formOk (s : State) (o : Origin) (who : Requester) (a : GAddr) (kind : AccessKind) (ecc : Ecc) (h : s.mem.formOk = true) :
    (accessFor s o who a kind ecc).mem.formOk = true := deliver_formOk _ _ _ (access_formOk _ _ _ _ _ _ h)

theorem releaseAux_formOk : ∀ (n : Nat) (s : State), s.mem.formOk = true → (releaseAux n s).mem.formOk = true := by
  intro n
  induction n with
  | zero => intro s h; exact h
  | succ n ih =>
    intro s h
    unfold releaseAux
    split
    · exact h
    · next w rest _ =>
      have h1 : ({ s with mem := { s.mem with waiting := rest } } : State).mem.formOk = true := Memory.formOk_congr rfl rfl rfl rfl h
      have h2 := deliver_formOk _ w.origin (performHashed { s with mem := { s.mem with waiting := rest } } w.who w.addr w.kind .clean).2.1
        (performHashed_formOk _ w.who w.addr w.kind .clean h1)
      apply ih
      split
      · exact bump_formOk _ _ _ _ h2
      · exact h2

theorem releaseWaiting_formOk (s : State) (h : s.mem.formOk = true) : (releaseWaiting s).mem.formOk = true := releaseAux_formOk _ _ h

end Sys2Proof.Machine
end

