-- ==== Sys2Proof/Laws/Mmio.lean ====
section
/-! SUPPORT. What a write of a hub register does: it reaches its register, and the requester is told so. -/

namespace Sys2Proof.Machine

/-- A hub register outside the trace store and the vectors' claim pairs, by its offset. -/
abbrev hubReg (off : Nat) : Prop :=
  off % 4 = 0 ∧ off < 0x1000000 ∧ inTrace off = false ∧ vectorNo off = none ∧ isReg off = true

theorem resolve_hubReg (s : State) (who : Requester) {off : Nat} (h : hubReg off) : resolve s who off = some off := by
  obtain ⟨h1, h2, h3, h4, h5⟩ := h
  have ha : aliasNo off = none := if_neg (by omega)
  unfold resolve
  rw [if_neg (by omega), ha]
  have e1 : ¬(0x4000000 ≤ off) := by omega
  have e2 : ¬(0x2000000 ≤ off) := by omega
  simp only [e1, e2, if_false, h3, h4, h5, if_true, Bool.false_eq_true]

/-- A write of a hub register that nothing holds back. -/
theorem mmioWrite_hub (s : State) (who : Requester) {off : Nat} (v : BitVec 64) (env : WriteEnv) (ho : hubOpen s who = true)
    (h : hubReg off) : mmioWrite s who off false v env = reply (writeReg s who off (v.setWidth 32) env) who .done := by
  have hr (t : State) : resolve t who off = some off := resolve_hubReg t who h
  obtain ⟨h1, h2, h3, h4, h5⟩ := h
  have ha : aliasNo off = none := if_neg (by omega)
  simp only [hubOpen, Bool.and_eq_true, Bool.not_eq_true'] at ho
  obtain ⟨⟨⟨b1, b2⟩, b3⟩, b4⟩ := ho
  have hst : stoppedAt s off = false := by
    unfold stoppedAt
    have e : ¬(0x2000000 ≤ off) := by omega
    simp only [b2, e, decide_false, Bool.false_and, Bool.false_eq_true, if_false]
  have hg : mmioGate s who off true false v = none := by
    unfold mmioGate aliasHeld accessStopped
    simp [b1, ha, h1, hr, hst]
  have hm : mgmtRefused s who = none := by simpa using b4
  have he : eclipseHeld s off = false := by unfold eclipseHeld; simp [b3]
  have hn : noteOffending s who off false = s := by unfold noteOffending offendingAt; simp [hr]
  unfold mmioWrite
  rw [hg]
  simp only [hm, he, hn, writeHalves, writeHalf, hr, Bool.false_eq_true, if_false]

theorem mgmtRefused_quiet (s : State) (who : Requester) : (mgmtRefused (quiet s) who).isNone = (mgmtRefused s who).isNone := by
  cases who with
  | mgmt secured =>
    have e : lifeCycle (quiet s) = lifeCycle s := rfl
    simp only [mgmtRefused, quiet_saf, e]
    split
    · rfl
    · split <;> rfl
  | _ => rfl

theorem hubOpen_quiet (s : State) (who : Requester) : hubOpen (quiet s) who = hubOpen s who := by
  simp only [hubOpen, mgmtRefused_quiet]; rfl

/-- A command that writes a hub register. -/
theorem writeCmd_hub (s : State) (who : Requester) {off : Nat} (v : Nat) (ho : hubOpen s who = true) (h : hubReg off) :
    writeCmd s who off false v = .next (reply (writeReg (quiet s) who off (BitVec.ofNat 32 v) .plain) who .done) := by
  unfold writeCmd
  rw [mmioWrite_hub (quiet s) who _ _ ((hubOpen_quiet s who).trans ho) h]
  simp

end Sys2Proof.Machine
end

