-- ==== Sys2Proof/WellFormed.lean ====
section
/-! DEFINITION. When a command's operands are ones that the outside world can send: sizes, slot counts and list lengths that the operand
types leave free. The meanings answer other operands too, as the same rules say; a sender keeps to these. -/

namespace Sys2Proof

/-- A store of 1 to 63 bytes that lies in one line (04, Table 4.2). -/
def storeFits (off : Nat) (data : List Byte) : Bool :=
  decide (0 < data.length) && decide (data.length < 64) && decide (off % 64 + data.length ≤ 64)

/-- The data of an access fits its line; a contribution's index is below its count (R114). -/
def AccessKind.fits (off : Nat) : AccessKind → Bool
  | .partialStore data _ => storeFits off data
  | .contribute c => decide (c.index.toNat < c.count.toNat)
  | .lineRead | .lineWrite .. | .meteorRead | .meteorWrite .. | .atomic .. | .reduceCancel => true

/-- A packet of a kind, with the slots of that kind after its header (Table 12.4). -/
def Packet.fits (p : Packet) (opc slots : Nat) : Bool := decide (p.opc = opc) && decide (p.body.length = 16 * slots)

/-- A length of 1 to 8 units of 32 bytes in ARG, and that many units after `front` slots (Table 12.4). -/
def Packet.fitsBulk (p : Packet) (opc front : Nat) (carried : Bool) : Bool :=
  decide (1 ≤ p.arg.toNat) && decide (p.arg.toNat ≤ 8) && p.fits opc (front + (if carried then 2 * p.arg.toNat else 0))

/-- Whole slots of data, at most 256 bytes (Table 12.4). -/
def Packet.fitsData (p : Packet) : Bool :=
  decide (p.opc = 0x10) && decide (p.body.length % 16 = 0) && decide (p.body.length ≤ 256)

/-- A boot report has one serial and one diode reading for each stack (R423). -/
def BootReport.fits (r : BootReport) : Bool := decide (r.stackSerials.length = 12) && decide (r.diodes.length = 12)

/-- The command is one that the outside world can send. -/
def Instr.wellFormed : Instr → Bool
  | .mmioOffendingAccess _ _ size _ _ => decide (1 ≤ size) && decide (size ≤ 64)
  | .partialStore _ addr bytes _ _ => storeFits addr.toNat bytes
  | .windowAccess _ addr kind _ => kind.fits addr.toNat
  | .inboundMemAccess _ _ off kind _ => kind.fits off.toNat
  | .hostWindowAccess _ off kind => kind.fits off.toNat
  | .redContribution _ _ c => decide (c.index.toNat < c.count.toNat)
  | .dieTempRead _ temps => decide (temps.length = 16)
  | .imgVerifyEnd fetched => fetched.all (fun b => decide (b.length < 2 ^ 29))
  | .swapInPage rows => rows.all (fun b => decide (b.length % 1024 = 0))
  | .submissionRead _ supply => supply.all (fun e => decide (e.1.length = 64))
  | .flitReceive _ flit => decide (flit.length = 256)
  | .rdBurst packet _ => packet.fits 0x01 0
  | .rdLine packet _ => packet.fits 0x02 0
  | .wrBurst packet => packet.fits 0x03 2
  | .wrLine packet => packet.fits 0x04 4
  | .atomicPacket packet _ => packet.fits 0x05 1
  | .redPacket packet => packet.fits 0x06 5
  | .bulkRd packet => packet.fitsBulk 0x07 0 false
  | .bulkWr packet => packet.fitsBulk 0x08 0 true
  | .collPull packet => packet.fits 0x09 1
  | .collPush packet => packet.fitsBulk 0x0A 1 true
  | .data packet => packet.fitsData
  | .ack packet => packet.fits 0x11 0
  | .err packet => packet.fits 0x12 0
  | .mer packet => packet.fits 0x20 2
  | .rasReread _ source => source.all (fun b => decide (b.length = 4096))
  | .failoverCopyDone _ bad => bad.all (fun e => decide (e.2.length = 64))
  | .bootPhaseEnd report => report.fits
  | .hostReadCompletion _ _ bytes _ => decide (bytes.length ≤ 64)
  | .readLoSnapshot .. | .readClear .. | .registerWrite .. | .aliasAccessRelease .. | .imgStart .. | .imgAbort ..
    | .imgGranuleMove .. | .imgGranuleMoveBack .. | .heldGranuleAccess .. | .imgSwitch .. | .imgReleaseEnd .. | .hashProbe ..
    | .hashLookupDone .. | .zfillStart .. | .zfillAbort .. | .zfillGranuleClear .. | .lineRead .. | .lineWrite ..
    | .backgroundFillLine .. | .meteorRead .. | .meteorWrite .. | .meteorRmw .. | .atomicOp .. | .redRetryResend ..
    | .reduceCancel .. | .stkCmdForward .. | .stkNop .. | .rowInit .. | .rowCopy .. | .rowAnd .. | .rowOr .. | .rowXor ..
    | .rowNot .. | .rowRead .. | .rowWrite .. | .kvAppend .. | .qload .. | .attend .. | .heldFlushRetry .. | .rsetup ..
    | .rcancel .. | .reducerBlockAccept .. | .noRidDiscard .. | .bankRefresh .. | .throttleGroupStart ..
    | .processorModeEntry .. | .processorModeExit .. | .dieMapClearDone .. | .arrayStep .. | .tileAdmit .. | .preloadEnd ..
    | .tileLastProduct .. | .drainStart .. | .drainReadEnd .. | .statusWordDeliver .. | .operandHalfArrive ..
    | .halfLineTimeout .. | .activityLevelStep .. | .freezeModeApply .. | .preemptRequest .. | .tileBoundary .. | .wordIssue ..
    | .dmaComplete .. | .loadComplete .. | .launchQueueEnter .. | .cluLaunchWrite .. | .launchStart .. | .launchEnd ..
    | .cluIcinvWrite .. | .tinvStart .. | .tinvDone .. | .kvmAttWrite .. | .kvmRequestAccept .. | .kvmDispatch ..
    | .kvmRequestComplete .. | .frameZeroed .. | .swapOutStart .. | .swapPageOut .. | .subqDoorbell .. | .stepAdmit ..
    | .stepLaunch .. | .sample .. | .commitCheck .. | .commitPoint .. | .shadowRoomWait .. | .replayLaunch .. | .loopRestart ..
    | .loopSwitch .. | .contextSave .. | .contextRestore .. | .loopPreempt .. | .windowArm .. | .windowOpen .. | .windowDone ..
    | .emptyWindowPeriod .. | .quotaStepBoundary .. | .tokshareBoundary .. | .fabDevidWrite .. | .portEnableWrite ..
    | .portTrain .. | .portTrainRetry .. | .linkSessionEstablish .. | .ackTimeout .. | .portRetrainWrite ..
    | .portRetrainEnd .. | .rekey .. | .requestTimeout .. | .heldRequestRelease .. | .answerRecordExpiry .. | .fabCollWrite ..
    | .collectiveAccept .. | .collectiveComplete .. | .buddyEnable .. | .buddyLogApply .. | .merExchange .. | .merPpsEdge ..
    | .ppsLost .. | .pageRepair .. | .rowTest .. | .patrolRead .. | .scrubStart .. | .scrubAbort .. | .scrubRead ..
    | .regionSelect .. | .regionCommit .. | .clusterRetire .. | .unitRetire .. | .checkpoint .. | .lockstepMismatch ..
    | .recoveryRelease .. | .hubHeartbeat .. | .heartbeatLoss .. | .dieRecoveryEnd .. | .dieLinkLostTimeout ..
    | .faultInjection .. | .rotationSlot .. | .clusterTestEnd .. | .unitTestSlot .. | .unitTestEnd .. | .testRefusalRetry ..
    | .bstHoldExpiry .. | .bstDirStart .. | .behindCheck .. | .testerProvisioning .. | .sealingCommand .. | .unlockToken ..
    | .returnToken .. | .defunctCommand .. | .floorRaise .. | .generate .. | .destroy .. | .importKey .. | .alarmRaise ..
    | .getVersion .. | .getCapabilities .. | .negotiateAlgorithms .. | .getDigests .. | .getCertificate .. | .challenge ..
    | .getMeasurements .. | .keyExchange .. | .finish .. | .keyUpdate .. | .spdmHeartbeat .. | .endSession .. | .pwrReqWake ..
    | .pwrReqDusk .. | .pwrReqNight .. | .pwrReqRest .. | .pwrReqSleep .. | .pwrReqStandby .. | .pwrReqApply ..
    | .nightSaveDone .. | .wakeWindow .. | .domainEntryDone .. | .domainWakeDone .. | .standbyWake .. | .stackDemandWake ..
    | .pwrLimitWrite .. | .arbitrationWindow .. | .coeffCorrection .. | .avsRequest .. | .avsPoll .. | .avsRetry ..
    | .avsSuspendEnd .. | .tempSample .. | .refWindowEnd .. | .refAbsent .. | .refSwitch .. | .accessTimeout ..
    | .fifoResync .. | .porst .. | .deviceReset .. | .partitionReset .. | .clusterReset .. | .portReset .. | .hostPortReset ..
    | .flr .. | .trainSave .. | .irqSourceEvent .. | .irqClaim .. | .irqComplete .. | .irqSwset .. | .gdisClear ..
    | .msixUnmask .. | .hostReadTimeout .. | .cxlSnoop .. | .backInvalidate .. | .mctpRead32 .. | .mctpWrite32 ..
    | .mctpRead64 .. | .mctpWrite64 .. | .pldmFirmwareUpdate .. | .setEventReceiver .. | .clusterCheckerMismatch ..
    | .hostLinkUp .. | .cxlMemAccess .. | .pmeTurnOff .. | .mer10mAbsent .. => true

end Sys2Proof
end

