-- ==== Sys2Proof/Tests/Slice0.lean ====
section
/-! SUPPORT. Tests: for each obligation with hypotheses a state and operands that meet those of each of its clauses (test_w_<its name>),
operands that no sender may use, and the spec's worked examples. -/

namespace Sys2Proof.Tests

open Sys2Proof.Machine

set_option Elab.async false

/-! Witnesses: for each statement with hypotheses, a state and operands that meet those of each of its clauses. -/

/-- The state after reset, with a field written. -/
def put (f : Field) (v : Nat) (i : Nat := 0) (j : Nat := 0) (s : State := State.reset) : State := wr s f v i j

def hub : Requester := .supervisor

theorem test_w_QueueFrontRuns : State.reset.pending = [] := by decide

/-- CLU_PWR of a cluster in DUSK, and the first register of its block. -/
def dusk3 : State := put Fld.CLU_PWR_STATE 1 3

theorem test_w_OffendingAccesses :
    bootHeld State.reset hub = false ∧ (1 ≠ 4 ∧ 1 ≠ 8) ∧ ((4093 : BitVec 41).toNat % 4 ≠ 0 ∧ aliasNo (4093 : BitVec 41).toNat = none) ∧
    rd (put Fld.HUB_MMIO_ERR_ADDR_VALID 1) Fld.HUB_MMIO_ERR_ADDR_VALID = 1 ∧ rd State.reset Fld.HUB_MMIO_ERR_ADDR_VALID ≠ 1 ∧
    bootHeld dusk3 hub = false ∧ aliasNo 0x2030000 = none ∧ accessStopped dusk3 hub 0x2030000 false = true := by decide

theorem test_w_RegisterAccessCodes :
    bootHeld State.reset (.mgmt false) = false ∧ State.reset.pwr.standby = false ∧ hubOpen State.reset (.hostPf 0) = true ∧
    (0xFFFFFC : BitVec 32).toNat < 0x1000000 ∧ State.reset.saf.alarm = false ∧ lifeCycle State.reset = 2 := by decide

/-- Logical cluster 143 is moving; and accesses held at its alias block. -/
def heldAt143 : HeldMmio := ⟨hub, 0x38F0000, false, false, 0⟩

theorem test_w_HeldAndDroppedAccesses :
    moving { State.reset with ras := { Ras.reset with moves := [(143, 3, 4)] } } 143 = true ∧ moving State.reset 143 = false ∧
    State.reset.held.filter (fun h => aliasNo h.off = some 143) = [] ∧ aliasNo heldAt143.off = some 143 ∧
    ({ State.reset with held := [heldAt143] } : State).held.filter (fun h => aliasNo h.off = some 143) = [heldAt143] := by decide

/-! An image load -/

/-- A load runs in a state of IMG_STATUS, with its own fields. -/
def loading (st : Nat) (l : Load) (s : State := State.reset) : State := { put Fld.IMG_STATUS_STATE st 0 0 s with load := { l with running := true } }

theorem test_w_ImageLoadStartAndEnd :
    hubOpen State.reset hub = true ∧ mayImage hub = true ∧ hubOpen State.reset (.hostVf 1 255) = true ∧ mayImage (.hostVf 1 255) = false ∧
    (loading 2 .idle).load.running = true ∧ State.reset.load.running = false ∧ (1 : BitVec 2).toNat < 2 ∧ 2 ≤ (2 : BitVec 2).toNat ∧
    imgState (loading 2 .idle) ≤ 2 ∧ (loading 2 .idle).load.backing = none ∧ (loading 2 .idle).load.moved = [] ∧
    (loading 2 .idle).load.hold = none ∧ (loading 2 { Load.idle with moved := [5] }).load.moved ≠ [] ∧
    hubOpen (loading 2 .idle) hub = true ∧ imgState (loading 1 .idle) = 1 ∧ imgSource (quiet (loading 1 { Load.idle with srcKind := 1 })) none = none ∧
    imgSource (quiet (loading 1 { Load.idle with srcKind := 1 })) (some []) = some [] ∧
    3 ≤ imgState (loading 3 .idle) ∧ (loading 3 .idle).load.scope ≠ 2 := by decide

/-- A hash over channels, and a stack-scope load that brings another. -/
def hashed (l : List Nat) (table : List Nat := []) : Image := { Image.none with hash := ⟨l, table⟩ }
def migr (old new : List Nat) (l : Load) (table : List Nat := []) : State :=
  loading 2 { l with scope := 2, next := hashed new table } { State.reset with img := hashed old }
def gran (g : Nat) : Granule := ⟨g, List.replicate 256 7#8, [true, false, false, true]⟩
/-- An image whose header names a scope. -/
def scopeLoad (k : Nat) : State := loading 2 { Load.idle with scope := k, bytes := List.replicate 6 0#8 ++ [BitVec.ofNat 8 k] }
def waitsAt : Waiting := ⟨.hub hub, hub, 0x40, .lineRead⟩

theorem test_w_ImageSwitchAndGranuleMoves :
    switchReady (quiet State.reset) = false ∧
    switchReady (quiet (loading 2 { Load.idle with claimed := [5], next := { Image.none with lmap := [5] } })) = true ∧
    (∀ k ∈ [0, 1, 2, 3], switchReady (quiet (scopeLoad k)) = true ∧ (imgHeader (scopeLoad k).load.bytes).scope = (scopeLoad k).load.scope ∧
      (∀ c ∈ (scopeLoad k).load.claimed, c ∉ (scopeLoad k).load.next.lmap) ∧ liveRemoved (quiet (scopeLoad k)) = none) ∧
    migrating State.reset = false ∧ (migr [0, 64] [64, 0] { Load.idle with backing := some 1 }).load.backing ≠ none ∧
    (let s := migr [0, 64] [0, 64] { Load.idle with units := [0] } [64]
     migrating s = true ∧ s.load.hold = none ∧ mustMove (quiet s) 2 = false ∧ mustMove (quiet s) 0 = true ∧ 0 ∉ s.load.moved ∧
     granuleBlocked (quiet s) 0 = false ∧ (hashKey s.load.next.hash 0).any (takesGranule (quiet s)) = true) ∧
    (let s := migr [0] [0, 64] { Load.idle with hold := some (gran 1) }
     migrating s = true ∧ s.load.backing = none ∧ Memory.formOk s.mem = true ∧ hashKey s.load.next.hash 256 = some (64 * 2 ^ 31) ∧
     unhash s.img.hash (64 * 2 ^ 31) = none ∧ takesGranule (quiet s) (64 * 2 ^ 31) = true) ∧
    (let s := migr [0, 64] [0] { Load.idle with hold := some (gran 1), backing := some 255 }
     s.load.moved = [] ∧ hashKey s.img.hash 256 = some (64 * 2 ^ 31) ∧ unhash s.load.next.hash (64 * 2 ^ 31) = none ∧
     takesGranule (quiet s) (64 * 2 ^ 31) = true) ∧
    nextFree (quiet State.reset) = none ∧ lineBlocked { State.reset with mem := { Memory.reset with waiting := [waitsAt] } } 0x40 = false ∧
    holdBlocks (quiet { State.reset with mem := { Memory.reset with waiting := [waitsAt] } }) 0x40 .lineRead = false := by decide

/-! The memory system -/

/-- Two channels of hashed memory; logical cluster 0 on physical cluster 151. -/
def mem2 : State := { State.reset with img := { hashed [0, 64] with lmap := [151] } }
def at_ (x : Nat) : GAddr := BitVec.ofNat 64 x
def part1 : Contribution := ⟨.int32, 0, 2, false, none, 5, false⟩
/-- One access of each kind. -/
def kinds : List AccessKind :=
  [.lineRead, .lineWrite 1 true, .partialStore [1, 2] false, .meteorRead, .meteorWrite 1 false, .atomic .add true 1 0 false, .contribute part1,
    .reduceCancel]
/-- A state with another memory. -/
def mm (f : Memory → Memory) (s : State := mem2) : State := { s with mem := f s.mem }
/-- An open reduction on the last line of the hashed space, and one on the last line of the window. -/
def redAt (addr : Nat) : OpenReduction := ⟨0, addr, .int32, 2, false, none, 1, [⟨1, 5, false⟩], []⟩
def busy : State := mm (fun m => { m with reductions := [redAt (2 ^ 32 - 64), redAt (localAddr mem2 2 (2 ^ 22 - 64))] })

theorem test_w_MemoryAccessErrors :
    (kinds.all (fun k => isLocal mem2 (at_ (2 ^ 58)) && spaceOf (at_ (2 ^ 58)) == 1 && isLocal mem2 (at_ 63) && !accessFits 63 k &&
      accessFits (offOf (at_ (2 ^ 32))) k && decide (hashSize mem2.img.hash ≤ offOf (at_ (2 ^ 32))) && accessFits (2 ^ 32 - 64) k)) = true ∧
    2 ^ 32 - 64 < hashSize mem2.img.hash ∧ (tenantOf mem2 (.kvm (some 1023)) = some 1023 ∧ unitTenant mem2 (2 ^ 32 - 64) ≠ some 1023) ∧
    tenantOf mem2 hub = none ∧ lineHeld (mm (fun m => { m with restoring := [2 ^ 31] })) 256 = true ∧
    holdBlocks { mem2 with pwr := { mem2.pwr with rest := [0] } } 0 .lineRead = true ∧
    spaceOf (at_ (2 ^ 59 + 0x24000000)) = 2 ∧ windowOf mem2 (offOf (at_ (2 ^ 59 + 0x24000000))) = none ∧
    hashedOpen busy hub (at_ (2 ^ 32 - 64)) (.lineWrite 1 true) = true ∧ lineFree busy 0 (2 ^ 32 - 64) = false := by decide

/-- The last line of the hashed space in its slice, and with poison; and mirrored in the line before. -/
def dirty (p : Bool) : State := writeLine mem2 hub (2 ^ 32 - 64) 0x1122 p
def mirrored : State :=
  mm (fun m => { m with regions := [(0, ⟨2, 2 ^ 32 - 64, 64, 0⟩)] }) (writeLine (dirty false) hub 0 9 false)

theorem test_w_HashedReadsAndStores :
    (dirty false).mem.formOk = true ∧ wayReady (dirty false) (2 ^ 32 - 64) = true ∧ lineFree (dirty false) 0 (2 ^ 32 - 64) = true ∧
    mirrorOf (dirty false) (2 ^ 32 - 64) = none ∧ lineNo (dirty false) (2 ^ 32 - 32) ≠ none ∧
    (kinds.all (fun k => hashedOpen (dirty false) hub (at_ (2 ^ 32 - 64)) k)) = true ∧
    hashedOpen (dirty false) hub (at_ (2 ^ 32 - 1)) (.partialStore [7] true) = true ∧ (peekLine (dirty false) (2 ^ 32 - 64)).2 = false ∧
    lineFree mirrored 0 (2 ^ 32 - 64) = true ∧ mirrorOf mirrored (2 ^ 32 - 64) = some 0 ∧
    (cached mirrored.mem (homeDie mirrored (2 ^ 32 - 64)) (2 ^ 32 - 64)).isSome = true ∧
    (cached mirrored.mem (homeDie mirrored 0) 0).isSome = true ∧ hashedOpen mirrored hub (at_ (2 ^ 32 - 64)) (.lineWrite 3 true) = true ∧
    hashedOpen (dirty true) hub (at_ (2 ^ 32 - 8)) (.atomic .cas true 1 2 false) = true ∧
    (cached (dirty true).mem (homeDie (dirty true) (2 ^ 32 - 8)) (2 ^ 32 - 8)).isSome = true ∧
    (peekLine (dirty true) (2 ^ 32 - 64)).2 = true := by decide +kernel

/-- The last line of the first window. -/
def pad : GAddr := at_ (2 ^ 59 + 2 ^ 22 - 64)

theorem test_w_WindowAccesses :
    (kinds.all (fun k => scratchOpen mem2 hub pad k 151 (2 ^ 22 - 64))) = true ∧ padFree mem2 pad = true ∧
    spadPoisoned mem2.mem 151 (2 ^ 22 - 64) 64 = false ∧
    spadPoisoned (spadWrite mem2.mem 151 (2 ^ 22 - 64) [1] true) 151 (2 ^ 22 - 64) 64 = true ∧
    (kinds.all (fun k => accessFits (offOf pad) k)) = true ∧ clusterOff (put Fld.CLU_PWR_STATE 2 151) 151 = true ∧
    windowOf mem2 (offOf pad) = some (151, 2 ^ 22 - 64) := by decide

theorem test_w_IndexedReductions :
    hashedOpen mem2 hub (at_ (2 ^ 32 - 64)) (.contribute part1) = true ∧ lineFree mem2 0 (2 ^ 32 - 64) = true ∧
    part1.index = 0 ∧ 2 ≤ part1.count.toNat ∧ slicesUsed mem2 0 < 256 ∧ parkedUsed mem2 0 < 64 ∧ wayReady mem2 (2 ^ 32 - 64) = true ∧
    mirrorOf mem2 (2 ^ 32 - 64) = none ∧ mem2.mem.formOk = true ∧
    (let s := mm (fun m => { m with reductions := List.replicate 256 { redAt (2 ^ 32 - 128) with slice := homeDie mem2 (2 ^ 32 - 64) * 16 + sliceOf (2 ^ 32 - 64) } })
     256 ≤ slicesUsed s (homeDie s (2 ^ 32 - 64) * 16 + sliceOf (2 ^ 32 - 64)) ∧ hashedOpen s hub (at_ (2 ^ 32 - 64)) (.contribute part1) = true ∧
     lineFree s 0 (2 ^ 32 - 64) = true) ∧
    hashedOpen busy hub (at_ (2 ^ 32 - 64)) (.contribute part1) = true ∧
    busy.mem.reductions.find? (fun r => r.addr = localAddr busy 0 (2 ^ 32 - 64)) = some (redAt (2 ^ 32 - 64)) ∧
    (redAt 0).count = part1.count.toNat ∧ (redAt 0).format = part1.format ∧ (redAt 0).accum = part1.accum ∧
    (redAt 0).completion = part1.completion ∧ part1.index.toNat < (redAt 0).next ∧ State.reset.mem.retries = [] ∧
    (∃ w, (mm (fun m => { m with retries := [⟨.hub hub, hub, 2 ^ 32 - 64, .contribute part1⟩] })).mem.retries = w :: [] ∧ w.origin = .hub hub ∧
      w.who = hub ∧ w.kind = .contribute part1) ∧
    hashedOpen busy hub (at_ (2 ^ 32 - 64)) .reduceCancel = true := by
  refine ⟨?_, ?_, ?_, ?_, ?_, ?_, ?_, ?_, ?_, ?_, ?_, ?_, ?_, ?_, ?_, ?_, ?_, ?_, ⟨_, rfl, rfl, rfl, rfl⟩, ?_⟩ <;> decide +kernel

def zf (base len : Nat) : State :=
  wr64 (wr64 mem2 Fld.HUB_ZFILL_BASE_LO_OFFSET Fld.HUB_ZFILL_BASE_HI_OFFSET base) Fld.HUB_ZFILL_LEN_LO_BYTES Fld.HUB_ZFILL_LEN_HI_BYTES len
def runFill (i : Nat) : State := mm (fun m => { m with zfill := some ⟨0, 1, [(0, i)]⟩, written := [0] })

theorem test_w_ProbeAndZeroFill :
    hubOpen mem2 hub = true ∧ ({ mem2 with probe := some 0x80000123 } : State).probe = some 0x80000123 ∧
    (∃ key, hashKey mem2.img.hash 0x80000123 = some key ∧ key < 2 ^ 41) ∧ hashKey mem2.img.hash (2 ^ 32) = none ∧
    (mayImage hub = true ∧ (runFill 0).mem.zfill.isSome = true ∧ mem2.mem.zfill = none ∧ hubOpen (runFill 0) hub = true) ∧
    (zfillBase (zf 1 0) % 8192 ≠ 0 ∧ zfillLen (zf 0 1) % 8192 ≠ 0) ∧
    (zfillBase (zf (2 ^ 32) 8192) % 8192 = 0 ∧ zfillLen (zf (2 ^ 32) 8192) % 8192 = 0 ∧
      hashSize mem2.img.hash < zfillBase (zf (2 ^ 32) 8192) + zfillLen (zf (2 ^ 32) 8192)) ∧
    (zfillBase (zf (2 ^ 32) 0) = 2 ^ 32 ∧ zfillLen (zf (2 ^ 32) 0) = 0) ∧ (zfillBase (zf 0 (2 ^ 32)) = 0 ∧ zfillLen (zf 0 (2 ^ 32)) = 2 ^ 32) ∧
    mayImage (.cluster 0) = false ∧ hubOpen mem2 (.cluster 0) = true ∧
    1 * (stackChans (runFill 1) 0).length ≤ 1 ∧ 0 < 1 * (stackChans (runFill 0) 0).length ∧
    rd64 (runFill 0) Fld.HUB_ZFILL_POS_LO_POS Fld.HUB_ZFILL_POS_HI_POS + 1 ≠ 1 * (runFill 0).img.hash.chans.length ∧
    rd64 (wr64 (runFill 0) Fld.HUB_ZFILL_POS_LO_POS Fld.HUB_ZFILL_POS_HI_POS 1) Fld.HUB_ZFILL_POS_LO_POS Fld.HUB_ZFILL_POS_HI_POS + 1 =
      1 * (runFill 0).img.hash.chans.length ∧
    (putLine mem2.mem 5 1 false).formOk = true ∧ (fillsOf (putLine mem2.mem 5 1 false) 0).length = 1 ∧
    (let w : PendingWrite := ⟨5, 32, List.replicate 32 1#8, true⟩
     let s := mm (fun m => setAccepted m 767 [w])
     s.mem.waiting = [] ∧ acceptedOf s.mem 767 = [w] ∧ acceptedOf s.mem 0 = [] ∧ s.mem.formOk = true ∧
     stackClosed s (stackOfLine w.line) = false) := by
  refine ⟨?_, ?_, ⟨_, rfl, ?_⟩, ?_⟩ <;> decide +kernel

/-! The lit stacks -/

/-- A command of the supervisor at the last bank pair: opcode, payload lines, flags, and operands by byte offset. -/
def stkCmd (op plen flags : Nat) (l : List (Nat × Nat)) (payload : List (BitVec 512) := []) : StkCmd :=
  ⟨hub, 63, 1, 7, BitVec.ofNat 512 ((l.map (fun e => e.2 * 2 ^ (8 * e.1))).foldl (· + ·) (op + plen * 2 ^ 8 + flags * 2 ^ 24)), payload, false,
    none, false⟩
def lastPair : PairRef := ⟨9, 63, 1, 7⟩
/-- Stack 9, whose last die is in processor mode. -/
def atStack (k : Stack) : State := { mem2 with img := { mem2.img with pmask := [(9, 32768)] }, stk := [(9, k)] }
def queued (c : StkCmd) : State := atStack { Stack.reset with queue := [c] }
def waits (c : StkCmd) (q : List StkCmd := []) : State := atStack { Stack.reset with waiting := [c], queue := q }
def asCluster (c : StkCmd) : StkCmd := { c with issuer := .kvm (some 5) }
def nop : StkCmd := stkCmd 0 0 0 []

theorem test_w_StackCommandQueue :
    nextIssuer (stk mem2 0) 0 = none ∧ nextIssuer (stk (waits nop) 9) 63 = some 152 ∧
    takeFirst (fun c : StkCmd => c.chan = 63 ∧ issuerNo c.issuer = 152) (stk (waits nop) 9).waiting = some (nop, []) ∧
    freeEntries (stk (waits nop (List.replicate 128 nop)) 9) 63 = 0 ∧ 0 < freeEntries (stk (waits nop) 9) 63 ∧
    cmdPlen nop ≤ freeLines (stk (waits nop) 9) 63 ∧ fieldStatus (waits (stkCmd 0xFF 0 0 [])) (stkCmd 0xFF 0 0 []) ≠ 0 ∧
    fieldStatus (waits (asCluster nop)) (asCluster nop) = 0 ∧ tenantFails (waits (asCluster nop)) 9 (asCluster nop) = true ∧
    cmdCpl (asCluster nop) = false ∧ rd (waits nop) Fld.STK_CMD_ERR_VALID 9 = 0 ∧
    headCmd mem2 9 (pairRefUnit lastPair) = none ∧ headCmd (queued nop) 9 (pairRefUnit lastPair) = some nop ∧
    mayStart (queued nop) 9 nop = true ∧ mayStart { queued nop with pwr := { mem2.pwr with rest := [9] } } 9 nop = false ∧
    ((stkOpcodes ++ [7]).all (fun op => decide (headCmd (queued (stkCmd op 31 0 [])) 9 (pairRefUnit lastPair) = some (stkCmd op 31 0 [])) &&
      mayStart (queued (stkCmd op 31 0 [])) 9 (stkCmd op 31 0 []) && decide (cmdOp (stkCmd op 31 0 []) = op) &&
      decide (entryStatus (queued (stkCmd op 31 0 [])) 9 (stkCmd op 31 0 []) ≠ 0) && !cmdCpl (stkCmd op 31 0 []))) = true ∧
    headRuns (queued nop) lastPair nop (fun _ => []) = true ∧
    (let c := stkCmd 0 0 1 [(8, pad.toNat)]
     headRuns (queued c) lastPair c (fun _ => []) = true ∧ cmdCpl c = true ∧ cplAddrOk (queued c) c = true ∧ cplAllowed (queued c) c = true ∧
     scratchOpen (queued c) c.issuer (cmdCplAddr c) (.meteorWrite (completionRecord c (.plain 0)) c.poison) 151 (2 ^ 22 - 64) = true ∧
     padFree (queued c) (cmdCplAddr c) = true) := by decide +kernel

/-- A row command over rows 65535, 65534 and 0, A in the second bank. -/
def rowCmd (op : Nat) : StkCmd :=
  if op = 1 then stkCmd 1 0 0 [(24, 0xA5)]
  else if op = 9 then stkCmd 9 16 0 [(20, 65535), (22, 4)] (List.replicate 16 7)
  else if op = 2 ∨ op = 6 then stkCmd op 0 0 [(16, 65535), (22, 1)]
  else stkCmd op 0 0 [(16, 65535), (18, 65534), (22, 1)]
/-- The same with row A written. -/
def rowSrc (op : Nat) : State := writeRow (queued (rowCmd op)) 9 63 1 15 65535 (List.replicate 1024 3#8)
def readRowCmd : StkCmd := stkCmd 8 0 0 [(16, 65535), (24, 2 ^ 59 + 2 ^ 22 - 1024)]

theorem test_w_RowCommands :
    ([1, 2, 3, 4, 5, 6, 9].all (fun op => headRuns (queued (rowCmd op)) lastPair (rowCmd op) rowTouches && siteOk (rowCmd op) &&
      !cmdCpl (rowCmd op) && !(rowCmd op).poison && decide (cmdOp (rowCmd op) = op))) = true ∧
    ([2, 6].all (fun op => decide ((cmdReadRow (queued (rowCmd op)) 9 (rowCmd op) (cmdRow (rowCmd op) 0)).length = 1024))) = true ∧
    (patternRow (rowCmd 1)).length = 1024 ∧ (cmdPayload (rowCmd 9)).length = 1024 ∧
    (List.zipWith (· &&& ·) (cmdReadRow (queued (rowCmd 3)) 9 (rowCmd 3) (cmdRow (rowCmd 3) 0))
      (cmdReadRow (queued (rowCmd 3)) 9 (rowCmd 3) (cmdRow (rowCmd 3) 1))).length = 1024 ∧
    ([2, 3, 4, 5, 6].all (fun op => headRuns (rowSrc op) lastPair (rowCmd op) rowTouches && rowWritten (rowSrc op) 9 63 1 15 65535)) = true ∧
    headRuns (queued readRowCmd) lastPair readRowCmd rowTouches = true ∧ cmdOp readRowCmd = 8 ∧ cmdCpl readRowCmd = false ∧
    ((List.range 16).all (fun i => scratchOpen (queued readRowCmd) hub (BitVec.ofNat 64 (hf readRowCmd 24 8 + 64 * i)) .lineRead 151 (2 ^ 22 - 1024 + 64 * i) &&
      padFree (queued readRowCmd) (BitVec.ofNat 64 (hf readRowCmd 24 8 + 64 * i)))) = true := by decide +kernel

def kvAppendCmd : StkCmd := stkCmd 0x10 2 0 [(16, 65526), (18, 0), (19, 63)] [1, 2]
def qloadCmd : StkCmd := stkCmd 0x11 1 0 [(16, 7), (17, 0), (20, 3)] [5]
def attendCmd (flags : Nat) : StkCmd := stkCmd 0x12 0 flags [(18, 0), (19, 128), (24, 64), (26, 127), (60, 63)]
/-- Query slot 7 loaded, and one byte of the page's first row. -/
def attending (flags : Nat) : State :=
  mm (fun m => { m with written := [rowUnit 9 63 1 14 0], dram := [(rowLine 9 63 1 14 0 0 * 64, 1#8)] }) (atStack { Stack.reset with
    queue := [attendCmd flags]
    units := [(unitNo 63 1 7, { BankUnit.reset with slots := [(7, some ⟨0, 3, 0, 0, 0, 0, 0, [1], false⟩)] })] })
def heldBlock (start size : Nat) (recs : List Partial) : Held := ⟨⟨127, start, size, recs, 9, unitNo 63 1 7⟩, true, true, some 0⟩
def holds (h : List Held) (rids : KMap (Option Reduction)) : State :=
  atStack { Stack.reset with units := [(unitNo 63 1 7, { BankUnit.reset with held := h })], rids := rids }

theorem test_w_AttentionCommands :
    headRuns (queued kvAppendCmd) lastPair kvAppendCmd appendTouches = true ∧ cmdOp kvAppendCmd = 0x10 ∧ siteOk kvAppendCmd = true ∧
    cmdGeom kvAppendCmd = some ⟨3, 64, 8⟩ ∧ kvAppendCmd.payload.length = cmdPlen kvAppendCmd ∧
    headRuns (queued qloadCmd) lastPair qloadCmd (fun _ => []) = true ∧ cmdOp qloadCmd = 0x11 ∧ cmdGeom qloadCmd = some ⟨3, 64, 8⟩ ∧
    hf qloadCmd 20 4 = 3 ∧ resultWordOk (hf qloadCmd 36 4) = true ∧ resultWordOk (hf qloadCmd 40 4) = true ∧
    unitHeld (queued qloadCmd) 9 (cmdUnit qloadCmd) = [] ∧
    (let c := stkCmd 0x11 1 0 [(16, 7), (20, 4)] [5]
     headRuns (queued c) lastPair c (fun _ => []) = true ∧ cmdGeom c = some ⟨3, 64, 8⟩ ∧ hf c 20 4 ≠ 3) ∧
    ([0, 4, 8].all (fun f => headRuns (attending f) lastPair (attendCmd f) (attendTouches (attending f) 9) &&
      decide (attendStatus (attending f) 9 (attendCmd f) ⟨3, 64, 8⟩ = 0) && decide (unitHeld (attending f) 9 (cmdUnit (attendCmd f)) = []))) = true ∧
    cmdGeom (attendCmd 8) = some ⟨3, 64, 8⟩ ∧ cmdCheck (attendCmd 4) = false ∧ cmdCheck (attendCmd 8) = true ∧
    attendRows (attending 8) 9 (attendCmd 8) ⟨3, 64, 8⟩ ≠ [] ∧
    (let row (r : Nat) : List Byte := cmdReadRow (attending 8) 9 (attendCmd 8) (cmdPageRow (attendCmd 8) r)
     sumWords ⟨3, 64, 8⟩ row ≠ pageWords ⟨3, 64, 8⟩ row) ∧
    (unitHeld mem2 9 (pairRefUnit lastPair)).filter (fun h => h.refused) = [] ∧
    unitHeld (holds [heldBlock 0 1 []] []) 9 (pairRefUnit lastPair) = [heldBlock 0 1 []] ∧
    redOf (stk (holds [heldBlock 0 1 []] []) 9) 127 = none := by decide +kernel

def rsetupCmd : StkCmd := stkCmd 0x18 0 0 [(26, 127), (28, 0), (29, 128), (32, 65536), (40, pad.toNat)]
def rcancelCmd : StkCmd := stkCmd 0x19 0 0 [(26, 127)]
def red (count next : Nat) (failed : Option Nat) : Reduction :=
  ⟨{ rsetupCmd with started := true }, count, 128, 64, 2 ^ 59 + 2 ^ 22 - 320, next, [], [], failed⟩
def opened (c : StkCmd) (r : Reduction) : State := atStack { Stack.reset with queue := [r.cmd, c], rids := [(127, some r)] }
def oneRec : List Partial := [⟨7, 0, 0, List.replicate 64 0, 0, false⟩]
def withRed (start size : Nat) (r : Reduction) : State := holds [heldBlock start size oneRec] [(127, some r)]

theorem test_w_StackReducer :
    headRuns (queued rsetupCmd) lastPair rsetupCmd (fun _ => []) = true ∧ cmdOp rsetupCmd = 0x18 ∧ redOf (stk (queued rsetupCmd) 9) 127 = none ∧
    hf rsetupCmd 26 2 = 127 ∧ headRuns (opened rsetupCmd (red 1 0 none)) lastPair rsetupCmd (fun _ => []) = true ∧
    (redOf (stk (opened rsetupCmd (red 1 0 none)) 9) 127).isSome = true ∧ cmdOp rcancelCmd = 0x19 ∧ hf rcancelCmd 26 2 = 127 ∧
    headRuns (opened rcancelCmd (red 1 0 none)) lastPair rcancelCmd (fun _ => []) = true ∧
    (unitHeld mem2 9 (pairRefUnit lastPair)).find? (fun h => h.offered) = none ∧
    ([(0, 1), (0, 2), (1, 1), (2, 1)].all (fun b => decide ((unitHeld (holds [heldBlock b.1 b.2 oneRec] []) 9 (pairRefUnit lastPair)).find?
      (fun h => h.offered) = some (heldBlock b.1 b.2 oneRec)))) = true ∧
    redOf (stk (withRed 0 1 (red 1 0 (some 9))) 9) 127 = some (red 1 0 (some 9)) ∧ (red 1 0 (some 9)).failed.isSome = true ∧
    ((red 1 0 none).failed = none ∧ (red 1 0 none).count < 1 + 1 ∧ 0 + 1 ≤ (red 2 1 none).count ∧ 0 < (red 2 1 none).next) ∧
    (1 = (red 3 1 none).next ∧ (red 3 1 none).parked = [] ∧ oneRec.map (·.slot) = maskBits (red 3 1 none).qmask ∧
      (∀ p ∈ oneRec, p.o.length = (red 3 1 none).dim) ∧ 1 + 1 < (red 3 1 none).count ∧ (red 3 1 none).stack = []) ∧
    cmdCpl (red 1 0 none).cmd = false ∧
    ((List.range (recBytes 64 / 64)).all (fun i =>
      scratchOpen (withRed 0 1 (red 1 0 none)) hub (BitVec.ofNat 64 ((red 1 0 none).dest + 64 * i)) .lineRead 151 (2 ^ 22 - 320 + 64 * i) &&
      padFree (withRed 0 1 (red 1 0 none)) (BitVec.ofNat 64 ((red 1 0 none).dest + 64 * i)))) = true ∧
    (let due (s : State) (h : Held) : Bool :=
       (redOf (stk s 9) h.block.rid).isNone && (h.since.elim false (fun t => decide (t + 65536 ≤ bankCycle s)))
     (unitHeld mem2 9 (pairRefUnit lastPair)).find? (due mem2) = none ∧
     (let s : State := { holds [heldBlock 0 1 []] [] with ns := 81920 }
      65536 = bankCycle s ∧ (unitHeld s 9 (pairRefUnit lastPair)).find? (due s) = some (heldBlock 0 1 []))) := by decide +kernel

/-- The last die of stack 9 in a part of its life: entering, leaving, clearing, as masks. -/
def dies (entering leaving clearing pm : Nat) : State :=
  { atStack { Stack.reset with entering := entering, leaving := leaving, clearing := clearing } with img := { mem2.img with pmask := [(9, pm)] } }

theorem test_w_StackDies :
    ((List.range 16).all (fun d => !replaced mem2 9 (reading ([1051, 1050, 950, 920].getD d 0)))) = true ∧ mem2.mem.waiting = [] ∧
    105 < reading 1051 ∧ reading 1020 ≤ 102 ∧ ([reading 951, reading 950, reading 920] = [96, 95, 92]) ∧
    rd (put Fld.STK_STATUS_WHOLD 1 9) Fld.STK_STATUS_WHOLD 9 = 1 ∧ rd mem2 Fld.STK_STATUS_WHOLD 9 = 0 ∧
    bitsOf (stk mem2 9).entering 15 1 = 0 ∧ bitsOf (stk (dies 32768 0 32768 0) 9).clearing 15 1 = 1 ∧ procDie (dies 32768 0 0 32768).img 9 15 = true ∧
    acceptedOf (mm (fun m => setAccepted m 639 [⟨5, 0, [], false⟩])).mem (9 * 64 + 15 * 4 + 3) ≠ [] ∧
    (let s := dies 32768 0 0 0
     bitsOf (stk s 9).entering 15 1 = 1 ∧ bitsOf (stk s 9).clearing 15 1 = 0 ∧ procDie s.img 9 15 = false ∧
     ∀ i < 4, acceptedOf s.mem (9 * 64 + 15 * 4 + i) = []) ∧
    bitsOf (stk mem2 9).leaving 15 1 = 0 ∧ dieOfChan nop.chan = 15 ∧
    (let s := dies 0 32768 0 32768
     bitsOf (stk s 9).leaving 15 1 = 1 ∧ procDie s.img 9 15 = true ∧ (∀ c ∈ (stk s 9).queue, dieOfChan c.chan ≠ 15) ∧
     (∀ e ∈ (stk s 9).units, dieOfChan (e.1 / 16) = 15 → e.2.held = [])) := by decide +kernel

/-! The matrix array -/

/-- A descriptor of one FP8 vector of 32 elements at a base, and a stream of it whose line is at the edge. -/
def feed8 (base : Nat) : FeedDesc := ⟨base, 3, 0, 3, false, false, false, false, 1, [1, 1, 1, 1], [0, 0, 0, 0], 0, 0, 0, 64⟩
def stream8 (whole : Bool) : Feeder := { Feeder.reset with descs := [feed8 0], lines := if whole then [(0, some (1, false))] else [] }
def tile8 (thin cont : Bool) (fmt : Nat) : Tile :=
  ⟨0, 0, 0, cont, thin, 7, 0, 0, 32, ⟨false, false, [32, 0, 0, 0], 0, 0⟩, [⟨fmt, fmt, 3, 1, 0, 0, 0, 0⟩], 3, 1, 64⟩
def run8 (thin : Bool) (fmt : Nat) (ph : TilePhase) : TileRun := TileRun.new (tile8 thin false fmt) ph
/-- Cluster 151 with these tiles and runs, and with all four streams. -/
def arr (tiles : List Tile) (runs : List TileRun) (whole : Bool := true) (s : State := mem2) : State :=
  { s with clu := [(151, { Cluster.reset with
      tiles := tiles
      runs := runs
      feeders := [(0, stream8 whole), (1, stream8 whole), (2, stream8 whole), (3, stream8 whole)] })] }
def full16 : State := put Fld.CLU_ARR_STATUS_LEVEL 16 151 0 mem2

theorem test_w_ArraySteps :
    ([true, false].all (fun thin => [3, 4].all (fun fmt =>
      let s := arr [] [run8 thin fmt .streaming] true full16
      decide ((cl s 151).runs.find? (isStreaming thin) = some (run8 thin fmt .streaming)) && stepWhole s 151 (run8 thin fmt .streaming) &&
      decide (level s 151 = 16) && ((tileMisfit (cl s 151) (tile8 thin false fmt)
        (((activeSubs (tile8 thin false fmt) 0).map (fun i => (i, 0))).zipIdx)).isNone == (fmt == 3))))) = true ∧
    stepWhole (arr [] [run8 false 3 .streaming] false) 151 (run8 false 3 .streaming) = false ∧
    frozen (arr [] [run8 false 3 .streaming] false) 151 = false ∧
    frozen (arr [] [run8 false 3 .streaming] false (put Fld.CLU_ARR_MODE_FREEZE_ACT 1 151)) 151 = true ∧
    (cl mem2 151).runs.find? (isStreaming true) = none ∧ admissible mem2 151 true = false ∧
    ([true, false].all (fun thin =>
      let s := arr [tile8 thin false 3] [] true full16
      let p := arr [tile8 thin true 3] []
      admissible s 151 thin && decide (oldest (cl s 151) thin = some (tile8 thin false 3)) &&
      (tileMisfit (cl s 151) (tile8 thin false 3) (tileTakes (tile8 thin false 3)).zipIdx).isNone &&
      (cl s 151).runs.all (fun r => r.phase ≠ .ready) && decide (oldest (cl p 151) thin = some (tile8 thin true 3)) &&
      !bankHeld (cl p 151) (tile8 thin true 3) && !preloaded (cl p 151) (tile8 thin true 3) && !preempting p 151 &&
      (cl p 151).runs.all (fun r => r.phase ≠ .draining) && decide (layoutElem p 151 (tile8 thin true 3).layout 0 256 0 0 = some (0, false)) &&
      decide (oldest (cl mem2 151) thin = none) &&
      [0, 1, 2, 3].all (fun b => (takeFirst (fun (r : TileRun) => r.tile.thin = thin && r.phase = .tail && r.tile.bank = b) (cl mem2 151).runs).isNone) &&
      (takeFirst (fun (r : TileRun) => r.tile.thin = thin && r.phase = .tail && r.tile.bank = 0)
        (cl (arr [] [run8 thin 3 .tail]) 151).runs == some (run8 thin 3 .tail, [])))) = true ∧
    level mem2 151 ≠ 16 := by decide +kernel

/-- A drained tile of four sub-problems, of which some have been reported. -/
def four (n : Nat) : TileRun :=
  { run8 false 3 .drained with tile := { tile8 false false 3 with subs := List.replicate 4 ⟨3, 3, 3, 1, 0, 0, 0, 0⟩ }, reported := n }

theorem test_w_ArrayDrainsAndControl :
    (cl (arr [] [run8 false 3 .draining]) 151).runs.any (fun r => r.phase = .draining) = true ∧
    (cl mem2 151).runs.find? (fun r => r.phase = .complete) = none ∧ (cl mem2 151).runs.find? (fun r => r.phase = .drained) = none ∧
    (cl (arr [] [run8 false 3 .complete]) 151).runs.find? (fun r => r.phase = .complete) = some (run8 false 3 .complete) ∧
    (cl (arr [] [run8 false 3 .complete]) 151).runs.all (fun r => r.phase ≠ .draining) = true ∧ (run8 false 3 .complete).tile.drain ≠ 1 ∧
    (cl (arr [] [four 2]) 151).runs.find? (fun r => r.phase = .drained) = some (four 2) ∧ 2 + 1 < (four 2).tile.subs.length ∧
    (cl (arr [] [four 3]) 151).runs.find? (fun r => r.phase = .drained) = some (four 3) ∧ (four 3).tile.subs.length ≤ 3 + 1 ∧
    stepReady (arr [] [run8 false 3 .streaming] true (put Fld.CLU_ARR_STATUS_LEVEL 15 151)) 151 = true ∧
    level (arr [] [run8 false 3 .streaming] true (put Fld.CLU_ARR_STATUS_LEVEL 15 151)) 151 = 15 ∧
    stepReady (put Fld.CLU_ARR_STATUS_LEVEL 1 151) 151 = false ∧ 0 < level (put Fld.CLU_ARR_STATUS_LEVEL 1 151) 151 ∧
    stepReady (arr [] [run8 false 3 .streaming] true full16) 151 = true ∧ level full16 151 = 16 ∧ level mem2 151 = 0 ∧
    ([TilePhase.streaming, .tail, .draining].all (fun p => (cl (arr [] [run8 false 3 p]) 151).runs.any
      (fun r => r.phase = .streaming || r.phase = .tail || r.phase = .draining))) = true ∧
    (cl mem2 151).runs.any (fun r => r.phase = .streaming || r.phase = .tail || r.phase = .draining) = false ∧
    preempting (put Fld.CLU_ARR_STATUS_PREEMPT 1 151) 151 = true ∧ atBoundary (cl (put Fld.CLU_ARR_STATUS_PREEMPT 1 151) 151) = true ∧
    preempting mem2 151 = false ∧ atBoundary (cl (arr [] [run8 false 3 .tail]) 151) = false := by decide +kernel

/-- Stream 3 of cluster 151 with this skid buffer. -/
def skids (l : List Skid) (whole : Bool := false) : State :=
  { mem2 with clu := [(151, { Cluster.reset with feeders := [(3, { stream8 whole with skid := l })] })] }
def half (hi : Bool) : Skid := ⟨0, 5, true, hi, !hi, false⟩

theorem test_w_OperandLines :
    ((feeder (cl (skids []) 151) 3).skid.find? (fun k => k.line = 0) = none ∧ (feeder (cl (skids []) 151) 3).skid = []) ∧
    (KMap.get (fun _ => none) (feeder (cl (skids [] true) 151) 3).lines 0).isSome = true ∧
    wantsLine (skids []) 151 (feeder (cl (skids []) 151) 3) 1 = false ∧
    64 ≤ queueLines (cl (skids (List.replicate 64 { half true with line := 9 })) 151) 3 ∧
    (feeder (cl (skids (List.replicate 64 { half true with line := 9 })) 151) 3).skid.find? (fun k => k.line = 0) = none ∧
    KMap.get (fun _ => none) (feeder (cl (skids []) 151) 3).lines 0 = none ∧ wantsLine (skids []) 151 (feeder (cl (skids []) 151) 3) 0 = true ∧
    queueLines (cl (skids []) 151) 3 < 64 ∧ hashedOpen (skids []) (.cluster 151) (BitVec.ofNat 64 0) .lineRead = true ∧
    ([true, false].all (fun hi => decide ((feeder (cl (skids [half hi]) 151) 3).skid = [half hi] ∧ (half hi).lo = hi ∧ (half hi).hi = !hi ∧
      nextLine (skids [half hi]) 151 (feeder (cl (skids [half hi]) 151) 3) = some 0 ∧
      (feeder (cl (skids [half hi]) 151) 3).skid.find? (fun k => k.line = 0 ∧ k.lo ≠ k.hi) = some (half hi)))) = true ∧
    (feeder (cl (skids []) 151) 3).skid.find? (fun k => k.line = 0 ∧ k.lo ≠ k.hi) = none := by decide +kernel

/-! Launches -/

/-- Constellation 1023 holds logical cluster 0, which is physical cluster 151; the part is READY. -/
def conImg : Image := { mem2.img with tree := [⟨1023, [.cluster 0]⟩] }
def ready : State := put Fld.CKR_BOOT_READY 1 0 0 { mem2 with img := conImg }
def launch0 : Launch := ⟨0x40, 7, 9, true, none, none, 0, 1, 0xFFFF, none, none⟩
/-- Cluster 151 replaced. -/
def c151 (x : Cluster) (s : State := ready) : State := { s with clu := [(151, x)] }
def far : GAddr := at_ (2 ^ 41)
def queued16 : State := c151 { Cluster.reset with queue := List.replicate 16 launch0 }
def heldAt (block : Nat) (s : State := ready) : State := c151 { cl s 151 with heldLaunches := [⟨block * 65536, far, 7, 64⟩] } s

theorem test_w_LaunchWrites :
    regOpen ready hub ((0x297 : BitVec 11).toNat * 65536) true = true ∧ launchTarget ready.img ((0x297 : BitVec 11).toNat * 65536) = some (.cluster 151) ∧
    launchTarget ready.img ((0x300 : BitVec 11).toNat * 65536) = some (.cluster 151) ∧ regOpen ready hub ((0x300 : BitVec 11).toNat * 65536) true = true ∧
    regOpen ready hub ((0x7FF : BitVec 11).toNat * 65536) true = true ∧ launchTarget ready.img ((0x7FF : BitVec 11).toNat * 65536) = some (.con 1023) ∧
    isLocal ready far = false ∧ isReady ready = true ∧ isReady mem2 = false ∧ mayLaunch ready (.mgmt true) (.cluster 151) = false ∧
    mayLaunch ready (.mgmt true) (.con 1023) = false ∧ mayLaunch ready hub (.cluster 151) = true ∧ mayLaunch ready hub (.con 1023) = true ∧
    (fetchLaunch (quiet ready) hub far none).2 = none ∧ (fetchLaunch (quiet ready) hub far (some 0)).2.isSome = true ∧
    queueFull queued16 151 = true ∧ queueFull ready 151 = false ∧ physLeaves ready.img 1023 = [151] ∧ clusterOff ready 151 = false ∧
    clusterOff (put Fld.CLU_PWR_STATE 1 151 0 ready) 151 = true ∧
    regOpen ready hub ((0x297 : BitVec 11).toNat * 65536 + 0x20) false = true ∧ regOpen ready hub ((0x7FF : BitVec 11).toNat * 65536 + 0x20) false = true ∧
    (cl ready 151).heldLaunches = [] ∧ (cl (heldAt 0x297) 151).heldLaunches = [⟨0x297 * 65536, far, 7, 64⟩] ∧
    isReady (heldAt 0x200) = true ∧ mayLaunch (heldAt 0x297) (.cluster 0) (.cluster 150) = false ∧
    (let s : State := { ready with img := { conImg with binds := [(5, 1023)] } }
     mayLaunch (heldAt 0x297 s) (.cluster 151) (.cluster 151) = true ∧
     mayLaunch (heldAt 0x297 (c151 { Cluster.reset with queue := List.replicate 16 launch0 } s)) (.cluster 151) (.cluster 151) = true ∧
     queueFull (heldAt 0x297 (c151 { Cluster.reset with queue := List.replicate 16 launch0 } s)) 151 = true) := by decide +kernel

/-- A launch that ended: of the cluster itself, with a completion count, or a leaf's share of a constellation's launch. -/
def endOf (cpl : Option Nat) (con : Option (Nat × Nat)) : Ending := ⟨1, { launch0 with cpl := cpl, con := con }, false⟩
def ended (e : Ending) (tiles : List Tile) (runs : List ConRun) : State :=
  let s := c151 { Cluster.reset with ending := [e], tiles := tiles }
  { s with seq := { s.seq with conRuns := runs } }
def conRun (n : Nat) : ConRun := ⟨4, 1023, 2, n, none, false, none⟩

theorem test_w_LaunchStartAndEnd :
    (cl ready 151).queue = [] ∧ launchReady (put Fld.CLU_LSTAT_ERR 1 151) 151 = false ∧
    (cl (c151 { Cluster.reset with queue := [launch0] }) 151).queue = [launch0] ∧ launchReady (c151 { Cluster.reset with queue := [launch0] }) 151 = true ∧
    (KMap.get (fun _ => []) ready.pwr.fifo 151).length < 64 ∧
    (∀ e ∈ (cl (ended (endOf none none) [tile8 false false 3] []) 151).ending,
      tilesLeft (cl (ended (endOf none none) [tile8 false false 3] []) 151) e.no = true) ∧
    (cl (ended (endOf none none) [] []) 151).ending = [] ++ endOf none none :: [] ∧ tilesLeft (cl (ended (endOf none none) [] []) 151) 1 = false ∧
    (endOf none none).launch.con = none ∧ (endOf none none).launch.cpl = none ∧
    (ended (endOf (some (2 ^ 32 - 8)) none) [] []).mem.formOk = true ∧
    countReady (ended (endOf (some (2 ^ 32 - 8)) none) [] []) (.cluster 151) (2 ^ 32 - 8) = true ∧
    (ended (endOf none (some (1023, 4))) [] [conRun 2]).seq.conRuns.find? (fun r => decide (r.id = 4)) = some (conRun 2) ∧ 1 < (conRun 2).remaining ∧
    (ended (endOf none (some (1023, 4))) [] [conRun 1]).seq.conRuns.find? (fun r => decide (r.id = 4)) = some (conRun 1) ∧
    (conRun 1).remaining ≤ 1 ∧ (conRun 1).cpl = none := by decide +kernel

def load1 (dst : RegRef) (done_ : Bool) : PendLoad := ⟨3, dst, 0x40, 8, if done_ then [(0, some (List.replicate 64 1#8, true))] else [], 64, false⟩
def loads (l : List PendLoad) : State := c151 { Cluster.reset with loads := l }
def dma1 (moved : Bool) (cpl len : Nat) : Dma := ⟨3, 2 ^ 59, 2 ^ 59 + 2 ^ 22 - len, len, cpl, 4, 64, moved, false⟩
def dmas (l : List Dma) (waits_ : List Waiting := []) : State := mm (fun m => { m with waiting := waits_ }) (c151 { Cluster.reset with dma := l })
def hreq : HostReq := ⟨0, .nobody, hub, 0, 0, 0, false, false, .lineRead, none⟩
def tinv (kind key : Nat) : State := { ready with kvm := { ready.kvm with tinv := some (kind, key) } }

theorem test_w_CompletionsAndInvalidation :
    (cl ready 151).loads[0]? = none ∧ (cl (loads [load1 (.s 63) false]) 151).loads[0]? = some (load1 (.s 63) false) ∧
    loadDone (load1 (.s 63) false) = false ∧
    ([RegRef.s 63, .s 0, .v 31, .vPiece 31 7, .p 7, .p 0].all (fun r => decide ((cl (loads [load1 r true]) 151).loads[0]? = some (load1 r true)) &&
      loadDone (load1 r true))) = true ∧
    (cl ready 151).dma[255]? = none ∧ (cl (dmas [dma1 true 0 128]) 151).dma[0]? = some (dma1 true 0 128) ∧
    ((cl (dmas [dma1 true 0 128]) 151).dma.map (·.id)).Nodup ∧ dmaOpen (dmas [dma1 true 0 128] [⟨.dma 151 3 none, .cluster 151, 0, .lineRead⟩]) 151 3 = true ∧
    dmaOpen (dmas [dma1 true 0 128]) 151 3 = false ∧
    (let d := dma1 false 0 128
     let s := dmas [d]
     (cl s 151).dma[0]? = some d ∧ d.moved = false ∧ d.cpl = 0 ∧ d.len % 64 = 0 ∧
     (∀ k < d.len / 64, scratchOpen s (.cluster 151) (BitVec.ofNat 64 (d.src + 64 * k)) .lineRead 151 (0 + 64 * k) = true ∧
       spadPoisoned s.mem 151 (0 + 64 * k) 64 = false) ∧
     (∀ k < d.len / 64, scratchOpen s (.cluster 151) (BitVec.ofNat 64 (d.dst + 64 * k)) (.lineWrite 0 false) 151 (2 ^ 22 - 128 + 64 * k) = true ∧
       padFree s (BitVec.ofNat 64 (d.dst + 64 * k)) = true) ∧
     151 * 2 ^ 22 + 0 + d.len ≤ 151 * 2 ^ 22 + (2 ^ 22 - 128)) ∧
    hubOpen ready (.mgmt true) = true ∧ mayImage (.hostVf 0 1) = false ∧ hubOpen ready (.hostVf 0 1) = true ∧ mayImage hub = true ∧
    hubOpen (put Fld.HUB_TINV_STATUS_BUSY 1) hub = true ∧ rd (put Fld.HUB_TINV_STATUS_BUSY 1) Fld.HUB_TINV_STATUS_BUSY = 1 ∧
    tinvKey 0 262144 = false ∧ tinvKey 0 262143 = true ∧ tinvKey 3 0 = true ∧ tinvKey 2 1 = true ∧ rd ready Fld.HUB_TINV_STATUS_BUSY ≠ 1 ∧
    ready.kvm.tinv = none ∧ (tinv 2 1).kvm.tinv = some (2, 1) ∧ tinvPending (tinv 2 1) 2 1 = false ∧
    tinvPending { tinv 2 1 with hpt := [(1, { HostPort.reset with outbound := [hreq] })] } 2 1 = true := by decide +kernel

/-! Wide words -/

/-- A word with one slot: its enable bit, its place and its bits (Table 7.1). -/
def wordOf (en place x : Nat) : BitVec 512 := BitVec.ofNat 512 (2 ^ en + x * 2 ^ place)
def wS (x : Nat) : BitVec 512 := wordOf 0 32 x
def wV (x : Nat) : BitVec 512 := wordOf 1 128 x
def wM (x : Nat) : BitVec 512 := wordOf 2 224 x
def wL (x : Nat) : BitVec 512 := wordOf 3 288 x
def wD (x : Nat) : BitVec 512 := wordOf 4 384 x
def wQ (x : Nat) : BitVec 512 := wordOf 5 448 x
/-- Cluster 151 at the last word of the hashed space, which is `w`, with scalar registers, and more. -/
def core (w : BitVec 512) (sregs : List (Nat × BitVec 64) := []) (f : Cluster → Cluster := fun x => x) (s : State := ready) : State :=
  c151 (f (cachePut { Cluster.reset with running := some launch0, launchNo := 6, pc := 2 ^ 32 - 64, sregs := sregs } (2 ^ 32 - 64) w)) s
/-- The core at a pc, with nothing cached. -/
def coreAt (pc : Nat) (s : State := ready) : State := c151 { Cluster.reset with running := some launch0, pc := pc } s
def deferred1 : Deferred := ⟨5, 5, 0, 2 ^ 32 - 128⟩

theorem test_w_WordFaultsAndWaits :
    coreRuns ready 151 = false ∧ coreRuns (coreAt 1) 151 = true ∧ (cl (coreAt 1) 151).running = some launch0 ∧
    fetchable (coreAt 1) 1 = false ∧ fetchable (coreAt (2 ^ 32)) (2 ^ 32) = false ∧ rd (coreAt 1) Fld.CLU_FAULT_VALID 151 = 0 ∧
    rd (put Fld.CLU_FAULT_VALID 1 151 0 (coreAt 1)) Fld.CLU_FAULT_VALID 151 = 1 ∧
    fetchable (core 0) (2 ^ 32 - 64) = true ∧ coreRuns (core 0) 151 = true ∧ (cl (core 0) 151).pc = 2 ^ 32 - 64 ∧
    cacheWay (cl (core 0) 151) (2 ^ 32 - 64) = some 0 ∧
    (readWord (wQ 0x11 + wS 0x3F).toNat).2 = [illegal 1, illegal 6] ∧
    (let s := core (wS 0x0018001) [] (fun x => { x with loads := [load1 (.s 6) false] })
     interlocked (cl s 151) (readWord (wS 0x0018001).toNat).1 = true ∧ (readWord (wS 0x0018001).toNat).2 = []) ∧
    (let w := (readWord (wQ 0x4C4).toNat).1   -- DPOP through q3
     let w := { w with q := some (.dpop 0 3) }
     interlocked (cl (core 0) 151) w = false ∧ poisonFaults (cl (core 0) 151) w = [] ∧
     wordFaults (core 0) 151 (operandsOf (core 0) 151) w = [] ∧ wordWaits (core 0) 151 (operandsOf (core 0) 151) w = true) ∧
    readWord (wQ 0xC4).toNat = (⟨none, none, none, none, none, some (.dpop 0 3)⟩, []) ∧
    readWord (wQ 0x44).toNat = (⟨none, none, none, none, none, some (.dpop 0 1)⟩, []) ∧
    wordFaults (core 0) 151 (operandsOf (core 0) 151) ⟨none, none, none, none, none, some (.dpop 0 1)⟩ = [⟨6, 6, 2⟩] ∧
    poisonFaults { Cluster.reset with spoison := [5] } ⟨none, none, none, none, none, some (.jr 5)⟩ = [⟨8, 6, 1⟩] ∧
    (cl (core 0) 151).deferred = [] ∧
    (let s := core (wQ 0) [] (fun x => { x with deferred := [deferred1] })
     (cl s 151).deferred = [deferred1] ∧ readWord (wQ 0).toNat = (⟨none, none, none, none, none, some .qnop⟩, []) ∧
     interlocked (cl s 151) ⟨none, none, none, none, none, some .qnop⟩ = false ∧
     wordWaits s 151 (operandsOf s 151) ⟨none, none, none, none, none, some .qnop⟩ = false) ∧
    fetchable (coreAt 0) 0 = true ∧ cacheWay (cl (coreAt 0) 151) 0 = none ∧ fetchAllowed (coreAt 0) 151 0 = true ∧ fetchHeld (coreAt 0) 0 = false ∧
    fetchHeld (coreAt 0 { ready with pwr := { ready.pwr with rest := [0] } }) 0 = true ∧ (cl (coreAt 0) 151).deferred = [] ∧
    (peekLine (coreAt 0) (offOf (BitVec.ofNat 64 0))).2 = false ∧
    readWord (peekLine (coreAt 0) (offOf (BitVec.ofNat 64 0))).1.toNat = (⟨none, none, none, none, none, none⟩, []) := by decide +kernel

/-- A tile descriptor of an FP8 tile of one vector at local offset 128, its drain layout at 4,096; a QLOAD-like command of one line at 1,024; a
DMA descriptor at 1,536. -/
def spadded : State :=
  let wr (s : State) (off : Nat) (n v : Nat) : State := { s with mem := spadWrite s.mem 151 off (natLe n v) false }
  let s := wr (wr (wr (wr (wr ready 144 4 4096) 160 4 3) 164 4 3) 168 4 3) 1025 1 1
  wr (wr (wr s 1536 8 (2 ^ 59)) 1544 8 (2 ^ 59 + 128)) 1552 8 64
def tileSlot : TileFields := ⟨1, 0, 0, false, false, 0x42, 10, 0, 1, 3⟩
def one_ (w : WideWord) (s : State) : Bool := wordReady s 151 w
def last8 : BitVec 64 := BitVec.ofNat 64 (2 ^ 59 + 2 ^ 22 - 8)

theorem test_w_WordEffects :
    -- S: ADD s55 := s1 + s2 with s2 poisoned; MOVI s0; PSET p7 := s1
    one_ ⟨some (.alu 1 55 1 2), none, none, none, none, none⟩ (core (wS (0x01 + 55 * 2 ^ 8 + 1 * 2 ^ 14 + 2 * 2 ^ 20)) [] (fun x => { x with spoison := [2] })) = true ∧
    one_ ⟨some (.movi 0 (2 ^ 64 - 1)), none, none, none, none, none⟩ (core (wS (0x18 + (2 ^ 64 - 1) * 2 ^ 32))) = true ∧
    one_ ⟨some (.pset 7 1), none, none, none, none, none⟩ (core (wS (0x21 + 7 * 2 ^ 8 + 1 * 2 ^ 14))) = true ∧
    -- V: IADD v31 := v30 + v29 under not p1; FP32 ADD
    one_ ⟨none, some (vecFields (0x10 + 31 * 2 ^ 12 + 30 * 2 ^ 17 + 29 * 2 ^ 22 + 2 ^ 32 + 2 ^ 35)), none, none, none, none⟩
      (core (wV (0x10 + 31 * 2 ^ 12 + 30 * 2 ^ 17 + 29 * 2 ^ 22 + 2 ^ 32 + 2 ^ 35))) = true ∧
    (vecFields 0x10).isReduce = false ∧ (vecFields 0x10).isCompare = false ∧
    -- Q
    one_ ⟨none, none, none, none, none, some (.br (-2 ^ 18))⟩ (core (wQ (0x06 + 2 ^ 18 * 2 ^ 45))) = true ∧
    one_ ⟨none, none, none, none, none, some (.brz 5 1)⟩ (core (wQ (0x07 + 5 * 2 ^ 35 + 2 ^ 45)) [(5, 9)]) = true ∧
    one_ ⟨none, none, none, none, none, some (.brnz 0 1)⟩ (core (wQ (0x08 + 2 ^ 45))) = true ∧
    one_ ⟨none, none, none, none, none, some (.call 55 (-1))⟩ (core (wQ (0x0B + 55 * 2 ^ 29 + (2 ^ 19 - 1) * 2 ^ 45))) = true ∧
    one_ ⟨none, none, none, none, none, some (.jr 5)⟩ (core (wQ (0x0C + 5 * 2 ^ 35)) [(5, 3)]) = true ∧
    one_ ⟨none, none, none, none, none, some (.qbind 15 6 5)⟩
      (core (wQ (0x03 + 15 * 2 ^ 6 + 6 * 2 ^ 10 + 5 * 2 ^ 35)) [(5, BitVec.ofNat 64 (2 ^ 58 + 511 * 2 ^ 31))] (fun x => x)
        { ready with img := { conImg with pmask := [(9, 32768)] } }) = true ∧
    one_ ⟨none, none, none, none, none, some (.dpop 55 3)⟩ (core (wQ (0x04 + 3 * 2 ^ 6 + 55 * 2 ^ 29)) [] (fun x => { x with drainQ := [8] })) = true ∧
    one_ ⟨none, none, none, none, none, some .icinv⟩ (core (wQ 0x0F)) = true ∧
    one_ ⟨none, none, none, none, none, some (.fence 15)⟩ (core (wQ 0x05)) = true ∧ one_ ⟨none, none, none, none, none, some .qnop⟩ (core (wQ 0)) = true ∧
    one_ ⟨none, none, none, none, none, some (.merwait 0)⟩ (core (wQ 0x10)) = true ∧
    one_ ⟨none, none, none, none, none, some .halt⟩ (core (wQ 0x0E)) = true ∧ (cl (core (wQ 0x0E)) 151).running = some launch0 ∧
    -- M: the example of Table 7.11
    one_ ⟨none, none, some (.tile tileSlot), none, none, none⟩ (core (wM 0x0000310280108041) [(10, 128)] (fun x => x) spadded) = true ∧
    -- L
    one_ ⟨none, none, none, some (.lds 55 5 8 (-8)), none, none⟩
      (core (wL (0x02 + 55 * 2 ^ 6 + 5 * 2 ^ 12 + 3 * 2 ^ 28 + (2 ^ 32 - 8) * 2 ^ 32)) [(5, last8 + 8)]) = true ∧
    scratchOpen (core (wL 0)) (.cluster 151) (BitVec.ofNat 64 (last8.toNat / 64 * 64)) .lineRead 151 (2 ^ 22 - 64) = true ∧
    spadPoisoned (core (wL 0)).mem 151 (2 ^ 22 - 64) 64 = false ∧
    one_ ⟨none, none, none, some (.dma 4 5), none, none⟩ (core (wL (0x06 + 5 * 2 ^ 12 + 4 * 2 ^ 24)) [(5, 1536)] (fun x => x) spadded) = true ∧
    one_ ⟨none, none, none, some (.scmd 5 6 7), none, none⟩
      (core (wL (0x05 + 6 * 2 ^ 12 + 7 * 2 ^ 18 + 5 * 2 ^ 24)) [(6, 1024), (7, BitVec.ofNat 64 (2 ^ 58 + 511 * 2 ^ 31 + 15 * 2 ^ 27))]
        (fun x => { x with handles := [(5, ⟨6, 511⟩)] }) { spadded with img := { conImg with pmask := [(9, 32768)] } }) = true ∧
    -- D
    one_ ⟨none, none, none, none, some (.sts 5 6 8 0), none⟩ (core (wD (0x01 + 5 * 2 ^ 6 + 6 * 2 ^ 12 + 3 * 2 ^ 30)) [(5, last8), (6, 77)] (fun x => { x with spoison := [6] })) = true ∧
    scratchOpen (core (wD 0)) (.cluster 151) last8 (.partialStore (natLe 8 77) true) 151 (2 ^ 22 - 8) = true ∧ padFree (core (wD 0)) last8 = true ∧
    one_ ⟨none, none, none, none, some (.amo .cas true 5 6 7 55), none⟩
      (core (wD (0x04 + 5 * 2 ^ 6 + 6 * 2 ^ 12 + 7 * 2 ^ 18 + 55 * 2 ^ 24 + 2 ^ 30 + 9 * 2 ^ 32)) [(5, last8), (6, 77)]) = true ∧
    scratchOpen (core (wD 0)) (.cluster 151) last8 (.atomic .cas true 77 0 false) 151 (2 ^ 22 - 8) = true ∧
    (Reg3.s 6).poisoned (cl (core (wD 0)) 151) = false ∧ (cl (core (wD 0)) 151).loads = [] ∧
    spadPoisoned (core (wD 0)).mem 151 (2 ^ 22 - 8) 8 = false := by decide +kernel

/-! The KV manager -/

/-- A tenant's boundary at its ends: tenant 1,023 owns the second unit; stack 0's die 1 is in processor mode; descriptors lie at 0x10000. -/
def kv0 : State :=
  let s := { ready with img := { conImg with pmask := [(0, 2)], binds := [(1023, 1023)] } }
  let s := mm (fun m => { m with bounds := { m.bounds with units := [(1, some 1023)] } }) s
  wr64 s Fld.SEQ_DESC_BASE_LO_ADDR Fld.SEQ_DESC_BASE_HI_ADDR 0x10000
def poke (off n v : Nat) (s : State) : State := engineWrite s (.kvm none) off (natLe n v) false
/-- A sequence of one layer and head, its directory at 0x20000 and its leaf at 0x21000. -/
def seqD (state lc : Nat) : SeqDesc :=
  ⟨state, 1, 0, 0, 1023, 0, 1, 1, 1, lc, 1024, 7, 0x20000, 0, 0, 0, 0, 0, 0, 0, 0, 0, 0, 0, 0, 0, 0, 0, 0, 0, 0⟩
def kv1 (state lc : Nat) (n : Nat := 5) (s : State := kv0) : State := poke 0x20000 8 0x21001 (writeDesc s n (seqD state lc))
/-- A pair of stack 0, die 1: channel 4. Its frame 0 holds page 0 of the sequence. -/
def unit4 : Nat := 64
def placed0 (state lc : Nat) : State := setPair (poke 0x21000 8 (mkEntry (placeBits unit4 0) 1 300 0 0) (kv1 state lc)) unit4 (some ⟨0, [(0, 1)], []⟩)
/-- A request at 0x30000: QN, appends, completion count, from a query and a payload that lie at another part. -/
def ask (qn napp cpl : Nat) (s : State) : State :=
  poke 0x30000 64 (5 + qn * 2 ^ 56 + napp * 2 ^ 64 + 2 ^ 41 * 2 ^ 128 + 2 ^ 41 * 2 ^ 192 + 2 ^ 41 * 2 ^ 256 + cpl * 2 ^ 320) s
def entry0 (addr : Nat := 0x30000) (tag : StepTag := none) : AttEntry := ⟨hub, addr, tag⟩
def waitingAtt (e : AttEntry) (s : State) : State := { s with kvm := { s.kvm with queue := [e] } }
def lines9 : List (BitVec 512) := List.replicate 9 1#512
/-- The step before a request's own has not committed. -/
def step4 : Step := ⟨4, .run, [], 0, 0, 0, false, [], [], 2, none⟩
def stepped (s : State) : State := modLoop s 255 (fun x => { x with steps := [step4] })

theorem test_w_AttentionRequests_entry :
    hubOpen kv0 (.hostPf 0) = true ∧ nextAtt kv0 = none ∧ nextAtt (waitingAtt (entry0 0x30000 (some (255, 5))) (stepped kv0)) = none ∧
    nextAtt (waitingAtt (entry0 0x30000 (some (255, 4))) (stepped kv0)) = some (entry0 0x30000 (some (255, 4)), []) ∧
    -- refused: no live sequence, a misaligned address, a completion count that is none, too many queries
    (let refuses (s : State) (e : AttEntry) (cpl code : Nat) : Bool :=
       nextAtt s == some (e, []) &&
       (readFrom (quiet s) e.who e.addr 64 []).elim false (fun b =>
         let r := parseAtt b.1
         decide ((if e.addr % 64 ≠ 0 then 6 else attRefusal (quiet s) e r (readDesc (quiet s) r.seq).1) = code) && decide (r.cpl = cpl) && decide (r.seq < 2 ^ 18))
     refuses (waitingAtt (entry0) (ask 0 1 (2 ^ 22) kv0)) (entry0) (2 ^ 22) 2 = true ∧
     refuses (waitingAtt (entry0) (ask 9 1 1 (kv1 3 64))) (entry0) 1 3 = true ∧
     refuses (waitingAtt (entry0) (ask 0 1 1 (kv1 3 64))) (entry0) 1 6 = true ∧
     refuses (waitingAtt (entry0) (ask 0 1 (2 ^ 22) (kv1 4 64))) (entry0) (2 ^ 22) 4 = true ∧
     (readFrom (quiet kv0) hub 1 64 []).isSome = true) ∧
    cplValid (kv1 3 64) 1 = false ∧ cplValid (kv1 3 64) (2 ^ 22) = true ∧ (kv1 4 64).mem.formOk = true ∧
    countReady (waitingAtt (entry0) (ask 0 1 (2 ^ 22) (kv1 4 64))) hub (2 ^ 22) = true ∧
    rd (kv1 3 64) Fld.KVM_ERR_VALID = 0 ∧ rd (put Fld.KVM_ERR_VALID 1 0 0 (kv1 3 64)) Fld.KVM_ERR_VALID = 1 := by decide +kernel

/-- A query and an append of a first page; then an append alone at the end of a page. -/
def accepts (s : State) : Bool :=
  (readFrom (quiet s) hub 0x30000 64 lines9).elim false (fun b =>
    let r := parseAtt b.1
    let d := (readDesc (quiet s) r.seq).1
    decide (attRefusal (quiet s) (entry0) r d = 0) &&
    (readQueries (quiet s) (kvmFor d.tenant) r.qaddr (64 * (1 + (geomRec d.geom).qloadLines)) (lines9.drop (remoteUsed s 0x30000 64)) r.qn 0).isSome &&
    (let g := needAll 256 0 r.seq d (neededPages (quiet s) d r.layer r.head r.napp) (quiet s)
     g.2 && (prepareAll r.seq d (neededPages (quiet s) d r.layer r.head r.napp) g.1).isSome))

theorem test_w_AttentionRequests_acceptance :
    accepts (put Fld.SEQ_TPQUOTA_FRAMES 1 1023 0 (ask 1 1 (2 ^ 22) (kv1 3 0))) = true ∧ accepts (ask 0 1 0 (placed0 3 63)) = true := by decide +kernel

/-- A run with things to do, or with none. -/
def runOf (todo : List KvTodo) (cpl : Option Nat) (tag : StepTag := none) (slots : List Nat := []) (bad : Bool := false) : AttRun :=
  ⟨7, tag, 5, 0, 0, 1, 0, false, false, [2 ^ 41], [([], false)], 2 ^ 41, cpl, 1023, 0, 63, 64, false, todo, 0, [(0, some (127, 0))], slots, [], bad, false⟩
def runs (l : List AttRun) (s : State := kv0) : State := { s with kvm := { s.kvm with runs := l } }

theorem test_w_AttentionRequests_dispatch :
    (absorb (quiet kv0)).kvm.runs = [] ∧
    ((absorb (quiet (runs [runOf [.attend 64 unit4 0 1 0 true] none]))).kvm.runs.map (fun r => (runHeadItem r 0).map (fun x => itemReady (absorb (quiet kv0)) r x.1)))
      = [some false] ∧
    ([KvTodo.append 0 unit4 0 63, .setup 0 0, .load 0 unit4, .attend 0 unit4 0 64 0 true].all (fun i => [[], [7]].all (fun slots =>
      let r := runOf [i] none none slots
      let z := absorb (quiet (runs [r]))
      decide ((runOrder z).find? (fun r => (runHeadItem r 0).any (fun y => itemReady z r y.1)) = some r) && decide (runHeadItem r 0 = some (i, [])) &&
      (itemCmd z { r with slots := [7] } lines9 i).isSome))) = true ∧
    itemCmd (absorb (quiet (runs [runOf [.append 0 unit4 0 63] none]))) (runOf [.append 0 unit4 0 63] none) [] (.append 0 unit4 0 63) = none ∧
    (absorb (quiet kv0)).kvm.runs.find? (fun r => decide (r.todo = [] ∧ r.open_ = 0)) = none ∧
    (let r := runOf [] (some (2 ^ 22 - 8))
     let s := runs [r] (mm (fun m => { m with bounds := { m.bounds with units := [(1, some 1023)] } }) kv0)
     (absorb (quiet s)).kvm.runs.find? (fun r => decide (r.todo = [] ∧ r.open_ = 0)) = some r ∧ r.hkv = false ∧ r.score = false ∧ r.poison = false ∧
     s.mem.formOk = true ∧ countReady s (kvmFor r.tenant) (2 ^ 22 - 8) = true ∧ r.bad = false) ∧
    (let r := runOf [] none (some (255, 4)) [] true
     (absorb (quiet (runs [r] (stepped kv0)))).kvm.runs.find? (fun r => decide (r.todo = [] ∧ r.open_ = 0)) = some r ∧ r.cpl = none ∧
     r.tag = some (255, 4)) := by decide +kernel

/-- Stack 0's pair with one frame in use, shared or not, and one that waits for zeroing. -/
def zeroing (refs : KMap Nat) : State := setPair kv0 unit4 (some ⟨0, refs, [4095]⟩)
def job (pages : List PageId) : SwapJob := ⟨5, none, pages, 1⟩
def swapsOut (pages : List PageId) (s : State) : State := { s with kvm := { s.kvm with swapOut := some (job pages) } }
def swapsIn (pages : List PageId) (s : State) : State := { s with kvm := { s.kvm with swapIn := [job pages] } }
def keyed (s : State) : State := { s with sec := { s.sec with keys := [(1023, some 3)] } }
def p0 : PageId := ⟨0, 0, 0⟩
def p1_ : PageId := ⟨0, 0, 1⟩
/-- Tenant 1,023's swap region of 8 KiB at 2^22. -/
def regioned (kib : Nat) (s : State) : State :=
  poke (0x40000 + 16 * 1023) 16 (2 ^ 22 + kib * 2 ^ 64) (wr64 s Fld.KVM_SWAPTAB_LO_ADDR Fld.KVM_SWAPTAB_HI_ADDR 0x40000)
def entryAt (e : Nat) (s : State) : State := poke 0x21000 8 e s

theorem test_w_KvMaintenance :
    (pairOf kv0 unit4 = none ∧ pairOf (zeroing []) unit4 = some ⟨0, [], [4095]⟩ ∧ ([4095] : KSet).contains 0 = false ∧ ([4095] : KSet).contains 4095 = true ∧
      frameInUse (zeroing []) unit4 (4095 * 8) = false ∧ stackClosed (zeroing []) (unitStack unit4) = false ∧
      frameInUse (runs [runOf [.append 0 unit4 (4095 * 8) 63] none]) unit4 (4095 * 8) = true ∧
      stackClosed { zeroing [] with pwr := { State.reset.pwr with rest := [0] } } (unitStack unit4) = true ∧
      4095 * (geomRec 0).frameRows + (geomRec 0).frameRows ≤ 65536) ∧
    (kv0.kvm.swapOut = none ∧ kv0.kvm.swaps = [] ∧ (swapsOut [] kv0).kvm.swapOut ≠ none ∧
      (let s : State := { kv1 3 64 with kvm := { State.reset.kvm with swaps := [job [p0]] } }
       s.kvm.swapOut = none ∧ s.kvm.swaps = job [p0] :: [] ∧ descOpen s 5 = true)) ∧
    ((swapsOut [] kv0).kvm.swapOut = some (job []) ∧ (job []).pages = [] ∧ (job [p0, p1_]).pages = p0 :: [p1_] ∧ (job [p0]).pages = p0 :: [] ∧
      (let e (s : State) : Nat := (leafEntry (quiet s) (readDesc (quiet s) 5).1 p0).1
       eState (e (kv1 3 64)) = 0 ∧ eShared (e (entryAt (mkEntry 1 5 0 1 0) (kv1 3 64))) = true ∧ eShared (e (placed0 3 64)) = false ∧
       eState (e (placed0 3 64)) = 1 ∧ eState (e (entryAt (mkEntry 1 5 0 0 0) (kv1 3 64))) = 5 ∧ eShared (e (entryAt (mkEntry 1 5 0 0 0) (kv1 3 64))) = false) ∧
      KMap.get (fun _ => none) (placed0 3 64).sec.keys 1023 = none ∧ KMap.get (fun _ => none) (keyed (placed0 3 64)).sec.keys 1023 ≠ none ∧
      firstFit (usedOf [] 1023) (swapRegion (quiet (regioned 7 (placed0 3 64))) 1023).2.1 (geomRec 0).rows = none ∧
      firstFit (usedOf [] 1023) (swapRegion (quiet (regioned 16 (placed0 3 64))) 1023).2.1 (geomRec 0).rows = some 0) ∧
    (kv0.kvm.swapIn = [] ∧ (swapsIn [] (kv1 4 64)).kvm.swapIn = job [] :: [] ∧ descOpen (swapsIn [] (kv1 4 64)) 5 = true ∧
      eState (leafEntry (quiet (kv1 4 128)) (readDesc (quiet (kv1 4 128)) 5).1 p0).1 ≠ 4 ∧ (job [p0, p1_]).pages = p0 :: [p1_] ∧
      (let s := entryAt (mkEntry 0 4 0 0 0) (kv1 4 128)
       eState (leafEntry (quiet s) (readDesc (quiet s) 5).1 p0).1 = 4 ∧ KMap.get (fun _ => none) s.sec.keys 1023 = none ∧
       KMap.get (fun _ => none) (keyed s).sec.keys 1023 = some 3 ∧ (placeNew (quiet (keyed s)) 5 (readDesc (quiet s) 5).1 p0).isSome = true)) := by
  decide +kernel

/-! The serving sequencer -/

/-- Loop 255 and loop 0 of tenant 1,023 share cluster 151; loop 0 may pre-empt. -/
def loopR (slot con : Nat) (pre : Bool) : LoopRec := ⟨slot, pre, 1023, con, 512, 0x1000, 2 ^ 31, 256, 0, 0, 2, 2⟩
def seq0 (s : State := kv0) : State :=
  let s := { s with img := { s.img with
    tree := [⟨1023, [.cluster 0]⟩, ⟨1022, [.cluster 0]⟩]
    loops := [loopR 255 1023 false, loopR 0 1022 true] } }
  let s := mm (fun m => { m with bounds := { m.bounds with units := [(1, some 1023), (1024, some 1023)] } }) s
  put Fld.SEQ_LCTRL_EN 1 255 0 (put Fld.SEQ_LCTRL_EN 1 0 0 (put Fld.SEQ_TDESC_BASE 5 1023 0 (put Fld.SEQ_TDCNT_COUNT 1 1023 0 s)))
def onLoop (f : Loop → Loop) (s : State := seq0) (l : Nat := 255) : State := modLoop s l f
def mers (n : Nat) (s : State) : State := { s with mer := n }
/-- A one-shot window of loop 255. -/
def win (a b : Nat) : State :=
  wr64 (wr64 seq0 Fld.SEQ_WSTART_LO_COUNT Fld.SEQ_WSTART_HI_COUNT a 255) Fld.SEQ_WSTOP_LO_COUNT Fld.SEQ_WSTOP_HI_COUNT b 255
/-- Descriptor 5 in a state, of loop 255, with an output ring in unit 1; the submission ring of 16 lies before it, its HEAD at the end. -/
def subbed (state kind addr count gen : Nat) (n : Nat := 5) : State :=
  let s := writeDesc seq0 5 { seqD state 64 with loop := 255, outSize := 16, out := 2 ^ 21 + 4096, next := noToken, gleft := 9 }
  let s := poke (2 ^ 21 + 480) 32 (kind + n * 2 ^ 32 + addr * 2 ^ 64 + count * 2 ^ 128 + gen * 2 ^ 160) s
  put Fld.SEQ_SUBQ_TAIL_INDEX 0 255 0 (put Fld.SEQ_SUBQ_HEAD_INDEX (2 ^ 32 - 1) 255 0 (put Fld.SEQ_SUBQ_SIZE_ENTRIES 16 255 0
    (wr64 s Fld.SEQ_SUBQ_LO_ADDR Fld.SEQ_SUBQ_HI_ADDR (2 ^ 21) 255)))
/-- The submission is read, and holds what `f` asks of it and of the descriptor it names. -/
def subHolds (s : State) (f : List Byte → SeqDesc → Bool) : Bool :=
  isPow2 (rd s Fld.SEQ_SUBQ_SIZE_ENTRIES 255) && rd s Fld.SEQ_SUBQ_TAIL_INDEX 255 == (rd s Fld.SEQ_SUBQ_HEAD_INDEX 255 + 1) % 2 ^ 32 &&
  !(loopOf s 255).barred && (loopRec s.img 255).isSome &&
  (readFrom (quiet s) (kvmFor 1023) (rd64 s Fld.SEQ_SUBQ_LO_ADDR Fld.SEQ_SUBQ_HI_ADDR 255 + 32 * (rd s Fld.SEQ_SUBQ_HEAD_INDEX 255 % 16)) 32 []).elim false
    (fun b => !b.2 && fieldOf b.1 1 1 == 0 && fieldOf b.1 2 2 == 0 && fieldOf b.1 24 8 == 0 &&
      f b.1 (readDesc (quiet s) (fieldOf b.1 4 4)).1)
def stepIn (phase : StepPhase) (num : Nat) (failed : Bool := false) (runs : Nat := 0) (launch : Option Nat := none) : Step :=
  ⟨num, phase, [⟨5, 0, 1, 64, 1, 0, 0x40000⟩], 1, 0, runs, failed, [], [], 0, launch⟩
def withSteps (l : List Step) (s : State := seq0) : State := onLoop (fun x => { x with steps := l, lastStep := 9 }) s

theorem test_w_SubmissionsAndWindows :
    hubOpen seq0 hub = true ∧ mayLoop seq0 hub 255 = true ∧ mayLoop seq0 (.hostVf 1 1) 255 = false ∧
    (loopRec seq0.img 255).isNone = false ∧ (loopRec seq0.img 254).isNone = true ∧
    ([(0, 255), (300, 300)].all (fun e => let s := win e.1 e.2
      decide (rd64 s Fld.SEQ_WSTOP_LO_COUNT Fld.SEQ_WSTOP_HI_COUNT 255 ≤ rd64 s Fld.SEQ_WSTART_LO_COUNT Fld.SEQ_WSTART_HI_COUNT 255 ∨
        rd64 s Fld.SEQ_WSTOP_LO_COUNT Fld.SEQ_WSTOP_HI_COUNT 255 - rd64 s Fld.SEQ_WSTART_LO_COUNT Fld.SEQ_WSTART_HI_COUNT 255 < 256))) = true ∧
    (∀ m ∈ [0, 1, 256, 257], (mers m (win 0 256)).mer = m ∧ ¬(256 ≤ 0 ∨ 256 - 0 < 256)) ∧
    (256 ≤ 1 ∨ 256 ≤ (Nat.max 0 1 + 255) / 256 * 256) ∧ ¬(256 ≤ 0 ∨ 256 ≤ (Nat.max 0 0 + 255) / 256 * 256) ∧
    loopRec seq0.img 254 = none ∧ isPow2 0 = false ∧ isPow2 16 = true ∧ (loopOf (onLoop (fun x => { x with barred := true })) 255).barred = true ∧
    rd seq0 Fld.SEQ_SUBQ_TAIL_INDEX 255 = rd seq0 Fld.SEQ_SUBQ_HEAD_INDEX 255 ∧
    subHolds (subbed 3 0 0 0 0 6) (fun b d => fieldOf b 0 1 == 0 && !(tenantSeqs seq0 1023).contains 6 && d.tenant != 1023) = true ∧
    subHolds (subbed 3 2 0x5000 1024 1024) (fun b d => fieldOf b 0 1 == 2 && d.state == 3 && decide (fieldOf b 16 4 ≤ d.lmax) &&
      decide (0 < fieldOf b 20 4) && decide (fieldOf b 20 4 ≤ d.lmax)) = true ∧ descOpen (subbed 3 2 0x5000 1024 1024) 5 = true ∧
    (tenantSeqs (subbed 3 2 0 0 0) 1023).contains 5 = true ∧
    subHolds (subbed 5 3 0 0 0) (fun b d => fieldOf b 0 1 == 3 && fieldOf b 8 8 == 0 && d.live && d.state != 3) = true ∧
    subHolds (withSteps [stepIn .run 9] (subbed 2 4 0 0 0)) (fun b d => fieldOf b 0 1 == 4 && fieldOf b 16 4 == 0 && d.live) = true ∧
    inAnyStep (withSteps [stepIn .run 9] (subbed 2 4 0 0 0)) 5 = true ∧
    (let s := onLoop (fun x => { x with oneShot := some ⟨256, 512⟩ })
     (loopOf s 255).oneShot = some ⟨256, 512⟩ ∧ 256 ≤ (mers 511 s).mer ∧ (mers 511 s).mer < 512 ∧ 512 ≤ (mers 512 s).mer ∧ (mers 255 s).mer < 256) ∧
    (let s := { seq0 with img := { seq0.img with template := ⟨1, 0, [⟨255, 1, 1⟩, ⟨255, 0, 1⟩]⟩ } }
     s.img.template.windows[(0 : BitVec 12).toNat]? = some ⟨255, 1, 1⟩ ∧ s.img.template.windows[(1 : BitVec 12).toNat]? = some ⟨255, 0, 1⟩ ∧
     s.img.template.windows[(4095 : BitVec 12).toNat]? = none) := by decide +kernel

/-- The step's loop with a sequence ready to decode. -/
def decoding : State := subbed 2 0 0 0 0

theorem test_w_ServingSteps_start :
    loopRec seq0.img 254 = none ∧ loopRec seq0.img 255 = some (loopR 255 1023 false) ∧ mayAdmit seq0 (loopR 255 1023 false) = true ∧
    mayAdmit (onLoop (fun x => { x with stopped := true })) (loopR 255 1023 false) = false ∧ windowOpen seq0 255 = true ∧
    windowOpen (onLoop (fun x => { x with oneShot := some ⟨256, 512⟩ })) 255 = false ∧ clustersTaken seq0 255 = false ∧
    clustersTaken (onLoop (fun x => { x with holds := true }) seq0 0) 255 = true ∧ (loopOf seq0 255).ran < (loopR 255 1023 false).runMax ∧
    (let z (s : State) := startSwapIns (retryParked (quiet s) (loopR 255 1023 false) ((loopOf s 255).lastStep + 1)) (loopR 255 1023 false)
     (batchOf (z seq0) (loopR 255 1023 false) []).entries = [] ∧ (batchOf (z decoding) (loopR 255 1023 false) []).entries ≠ [] ∧
     filled (z decoding) (loopR 255 1023 false) (batchOf (z decoding) (loopR 255 1023 false) []) = true ∧ mayAdmit decoding (loopR 255 1023 false) = true) ∧
    (loopOf (withSteps [stepIn .admission 9]) 255).steps.find? (fun y => decide (y.phase = .admission)) = some (stepIn .admission 9) ∧
    (loopOf seq0 255).steps = [] ∧ (loopLeaves seq0.img 255).Nodup ∧ loopLeaves seq0.img 255 = [151] ∧
    deadLaunch (withSteps [stepIn .admission 9]) 151 = false ∧ (loopOf seq0 255).holds = false ∧
    (let s := onLoop (fun x => { x with holds := true }) (withSteps [stepIn .admission 9])
     (loopOf s 255).holds = true ∧ (loopOf s 255).saved = false ∧ queueFull s 151 = false ∧ clusterOff s 151 = false ∧
     queueFull { s with clu := [(151, { Cluster.reset with queue := List.replicate 16 launch0 })] } 151 = true) ∧
    (loopOf (withSteps [stepIn .discard 9]) 255).steps.find? (fun y => decide (y.phase = .discard)) = some (stepIn .discard 9) ∧
    recovering (withSteps [stepIn .discard 9]) 255 = false ∧ requestsOpen (withSteps [stepIn .discard 9]) 255 9 = false ∧
    (loopOf (withSteps [stepIn .discard 9]) 255).stopped = false ∧
    recovering { withSteps [stepIn .discard 9] with ras := { State.reset.ras with condemned := [151] } } 255 = true := by decide +kernel

theorem test_w_ServingSteps_end :
    (loopOf seq0 255).steps = [] ∧ (loopOf (withSteps [stepIn .run 9]) 255).steps.find? (fun y => decide (y.phase = .run)) = some (stepIn .run 9) ∧
    (stepIn .run 9 false 0 (some 3)).launch.isSome = true ∧ (stepIn .run 9).launch = none ∧
    (loopOf (withSteps [stepIn .commit 9, stepIn .run 10]) 255).steps = stepIn .commit 9 :: [stepIn .run 10] ∧
    (stepIn .run 9).phase ≠ .commit ∧ commitBarred seq0 = false ∧ requestsOpen seq0 255 9 = false ∧
    commitBarred { seq0 with pwr := { seq0.pwr with standby := true } } = true ∧
    requestsOpen (waitingAtt (entry0 0 (some (255, 9))) seq0) 255 9 = true ∧
    checksFail (quiet seq0) (stepIn .commit 9 true) = true ∧ checksFail (quiet seq0) (stepIn .commit 9) = false ∧
    ([stepIn .run 10].map (·.num)).contains (stepIn .commit 9).num = false ∧
    ((loopRec seq0.img 255).map (·.replayMax)).getD 1 = 2 ∧ (stepIn .commit 9 true 0).runs + 1 < 2 ∧ 2 ≤ (stepIn .commit 9 true 1).runs + 1 ∧
    (stepIn .run 9).phase ≠ .fixup ∧ (loopOf (onLoop (fun x => { x with due := some 8 })) 255).due.isSome = true ∧
    (loopOf (withSteps [stepIn .fixup (2 ^ 64 - 1)]) 255).steps = [stepIn .fixup (2 ^ 64 - 1)] ∧ (stepIn .fixup (2 ^ 64 - 1)).fixups = 0 ∧
    (stepIn .fixup 9 true).failed = true ∧ (loopOf seq0 255).due = none ∧ seq0.fab.shadowPending = [] ∧
    (let s := { seq0 with fab := { seq0.fab with shadowPending := [[1#8]], shadowing := true } }
     s.fab.shadowPending ≠ [] ∧ s.fab.shadowing = true ∧ ∀ e ∈ s.seq.loops, e.2.due = none) := by decide +kernel

/-- Loop 255 holds the cluster, with its work done; loop 0 has a step to replay, or a kept context. -/
def shared (f : Loop → Loop) : State :=
  onLoop f (withSteps [] (onLoop (fun x => { x with holds := true, ran := 2 }))) 0
def runs151 : Cluster := { Cluster.reset with running := some { launch0 with step := some (255, 9), con := some (1023, 4) } }
def overQuota (n evict : Nat) (s : State := placed0 3 64) : State :=
  put Fld.KVM_TCFG_EVICT evict 1023 0 (put Fld.SEQ_TPQUOTA_FRAMES 1 1023 0 { seq0 s with kvm := { s.kvm with frames := [(1023, n)] } })
/-- A sequence of 25 pages whose page 5 is old, placed and its own. -/
def old5 : State :=
  setPair (poke (0x21000 + 40) 8 (mkEntry (placeBits unit4 0) 1 300 0 0) (kv1 3 1600)) unit4 (some ⟨0, [(0, 1)], []⟩)

theorem test_w_SharedClustersAndQuotas :
    nextLoop (quiet seq0) 255 [] = none ∧ loopRec seq0.img 255 = some (loopR 255 1023 false) ∧
    (let s := shared (fun x => { x with steps := [stepIn .discard 3] })
     nextLoop (quiet s) 255 [] = some 0 ∧ (loopOf s 255).holds = true ∧ mayHandOver s 255 = true ∧ yields (quiet s) (loopR 255 1023 false) [] 0 = true ∧
     (loopOf (onLoop (fun x => { x with holds := false }) s) 255).holds = false) ∧
    seq0.seq.saving = [] ∧
    (let s := { seq0 with seq := { seq0.seq with saving := [(255, 0)] } }
     s.seq.saving = (255, 0) :: [] ∧ (loopLeaves s.img 255)[0]? = some 151) ∧
    (loopOf seq0 0).saved = false ∧ (loopOf (onLoop (fun x => { x with saved := true }) seq0 0) 0).saved = true ∧ clustersTaken seq0 0 = false ∧
    (loopLeaves seq0.img 0).Nodup ∧
    (let s := { onLoop (fun x => { x with saved := true }) seq0 0 with seq := { (onLoop (fun x => { x with saved := true }) seq0 0).seq with contexts := [(0, some runs151)] } }
     KMap.get (fun _ => none) s.seq.contexts (0 * 256 + 0) = some runs151 ∧ s.seq.saving = []) ∧
    (loopR 255 1023 false).preempt = false ∧ (loopR 0 1022 true).preempt = true ∧ windowOpen seq0 0 = true ∧
    (let s := { onLoop (fun x => { x with holds := true, steps := [stepIn .run 9 false 0 (some 4)] }) with clu := [(151, runs151)] }
     255 ∈ sharers s.img 0 ∧ (loopOf s 255).holds = true ∧ running s 255 = true ∧ loopRec s.img 255 = some (loopR 255 1023 false) ∧
     (cl s 151).running.isSome = true) ∧
    tenantFrames (overQuota 1 1) 1023 ≤ quotaOf (overQuota 1 1) 1023 ∧ quotaOf (overQuota 2 1) 1023 < tenantFrames (overQuota 2 1) 1023 ∧
    (let s := overQuota 2 1 old5
     tenantFrames s 1023 = quotaOf s 1023 + 1 ∧ rd s Fld.KVM_TCFG_EVICT 1023 = 1 ∧
     (tenantVictim (quiet s) 1023).map (fun x => (x.1, x.2.1, frameRefs s (eUnit x.2.2) (eBase x.2.2))) = some (5, ⟨0, 0, 5⟩, 1)) ∧
    rd (overQuota 2 0) Fld.KVM_TCFG_EVICT 1023 = 0 ∧ (overQuota 2 0).kvm.swapOut = none ∧ (overQuota 2 0).kvm.swaps = [] ∧
    quotaVictim (quiet (overQuota 2 0)) 1023 = none ∧
    quotaVictim (quiet (overQuota 2 0 (poke (0x40000 + 16 * 1023) 16 (2 ^ 22 + 16 * 2 ^ 64 + 2 ^ 96)
      (wr64 (placed0 3 64) Fld.KVM_SWAPTAB_LO_ADDR Fld.KVM_SWAPTAB_HI_ADDR 0x40000)))) 1023 = some 5 := by decide +kernel

/-! The fabric -/

/-- Every port is used; device 1 lies behind port 17. -/
def fab0 : State := { mem2 with img := { mem2.img with roles := List.replicate 18 1, fabRoutes := List.replicate 513 0 ++ [2 ^ 17] } }
def port17 (st : Nat) (x : Port := Port.reset) (s : State := fab0) : State :=
  setFport (put Fld.FAB_PORT_CTRL_EN 1 17 0 (put Fld.FAB_PORT_STAT_STATE st 17 0 s)) 17 x
/-- A flit of number 0 with a tag, its check included. -/
def flitBytes (seq : Nat) (tag : Nat) : List Byte :=
  let b := natLe 2 seq ++ natLe 2 0xFFFF ++ [0#8, 1#8] ++ natLe 2 3 ++ List.replicate 224 0#8 ++ natLe 16 tag
  b ++ natLe 4 (crc32c b) ++ natLe 4 0
def replayed : Flit := readFlit (flitBytes 0 0)

theorem test_w_LinkStates :
    hubOpen fab0 hub = true ∧ mayImage hub = true ∧ mayImage (.hostVf 0 1) = false ∧ (∀ p < 18, portState fab0 p = 0) ∧
    (∃ p < 18, portState (port17 5) p ≠ 0) ∧ bitsOf (fab0.img.roles.getD 17 0) 0 1 = 1 ∧ bitsOf (mem2.img.roles.getD 17 0) 0 1 = 0 ∧
    portState (port17 3) 17 = 3 ∧ portState fab0 17 = 0 ∧ rd (port17 3) Fld.FAB_PORT_CTRL_EN 17 = 1 ∧ portState (port17 1) 17 = 1 ∧
    portState (port17 2) 17 = 2 ∧ portState (port17 4) 17 = 4 ∧ (port17 2).fab.out = [] ∧ (∀ r ∈ (port17 2).fab.requests, r.port.isSome = true) ∧
    (fport (port17 3) 17).replay = [] ∧ (fport (port17 3 { Port.reset with replay := [replayed] }) 17).replay ≠ [] ∧
    3 ≤ ([0, 0] ++ [0]).length ∧ ([] ++ [0] : List Nat).length < 3 ∧ fport (port17 4 { Port.reset with retrains := [0, 0] }) 17 = { Port.reset with retrains := [0, 0] } ∧
    (flitBytes 0 0).length = 256 ∧ crc32c ((flitBytes 0 0).take 248) = fieldOf (flitBytes 0 0) 248 4 ∧
    crc32c ((0xFF#8 :: flitBytes 0 0).take 248) ≠ fieldOf (0xFF#8 :: flitBytes 0 0) 248 4 ∧ (fport (port17 3) 17).discarding = false ∧
    (readFlit (flitBytes 0 0)).seq = ((fport (port17 3) 17).rxSeq + 1) % 65536 ∧ (readFlit (flitBytes 1 0)).seq ≠ ((fport (port17 3) 17).rxSeq + 1) % 65536 ∧
    crc32c ((flitBytes 1 0).take 248) = fieldOf (flitBytes 1 0) 248 4 ∧ (fport (port17 3) 17).key = none ∧ (readFlit (flitBytes 0 0)).nak = false ∧
    (readFlit (flitBytes 0 0)).credits = 3 ∧ (fport (port17 3 { Port.reset with key := some 3 }) 17).key = some 3 := by decide +kernel

theorem tag_is_one (x : BitVec 128) : x ≠ 0#128 ∨ x ≠ 1#128 := by
  by_cases h : x = 0#128
  · subst h; right; decide
  · exact .inl h

/-- Of two flits that differ in their tag alone, and of which both have a good check, one has a tag that fails. -/
theorem test_w_LinkStates_tag : ∃ b ∈ [flitBytes 0 0, flitBytes 0 1], b.length = 256 ∧ crc32c (b.take 248) = fieldOf b 248 4 ∧
    (readFlit b).seq = (0xFFFF + 1) % 65536 ∧ Config.gcmTag (rxKey 3) (rxNonce 3 0) (b.take 8 ++ (readFlit b).payload) ≠ (readFlit b).tag := by
  have same : (flitBytes 0 1).take 8 ++ (readFlit (flitBytes 0 1)).payload = (flitBytes 0 0).take 8 ++ (readFlit (flitBytes 0 0)).payload := by
    decide +kernel
  have t0 : (readFlit (flitBytes 0 0)).tag = 0#128 := by decide +kernel
  have t1 : (readFlit (flitBytes 0 1)).tag = 1#128 := by decide +kernel
  rcases tag_is_one (Config.gcmTag (rxKey 3) (rxNonce 3 0) ((flitBytes 0 0).take 8 ++ (readFlit (flitBytes 0 0)).payload)) with h | h
  · exact ⟨flitBytes 0 0, by simp, by decide +kernel, by decide +kernel, by decide +kernel, by rw [t0]; exact h⟩
  · exact ⟨flitBytes 0 1, by simp, by decide +kernel, by decide +kernel, by decide +kernel, by rw [t1, same]; exact h⟩

/-- An unchecked packet from device 1 to this part. -/
def pk (off : Nat) (body : List Byte) (arg : Nat) (space : Nat := 0) (src dst tag : Nat := 1) : Packet :=
  ⟨0, false, true, BitVec.ofNat 16 tag, BitVec.ofNat 17 src, BitVec.ofNat 17 dst, 0, BitVec.ofNat 6 space, BitVec.ofNat 41 off, BitVec.ofNat 11 arg, body⟩
def here (off : Nat) (body : List Byte) (arg : Nat) (space : Nat := 0) : Packet := pk off body arg space 1 0
/-- The range of the log of a buddy begins at 2^22. -/
def buddied : State :=
  put Fld.FAB_SHADOW_SRC_EN 1 0 0 (put Fld.FAB_SHADOW_SRC_DEVICE 1 0 0 (put Fld.FAB_SHADOW_SIZE_LOG2 21 0 0
    (wr64 fab0 Fld.FAB_SHADOW_BASE_LO_ADDR Fld.FAB_SHADOW_BASE_HI_ADDR (2 ^ 22))))
def keptOne : KeptAnswer := ⟨1, 1, pk 0 [] 0⟩
def kept0 : State := { fab0 with fab := { fab0.fab with kept := [keptOne] } }

theorem test_w_PacketsServed :
    (∀ off ∈ [0, 2 ^ 32 - 64], ∀ body ∈ [List.replicate 32 1#8, List.replicate 64 2#8, [3#8]],
      (let p := here off body 0
       p.dst.toNat = localDevice fab0 ∧ shadowRefuses fab0 p = false ∧ mirrorOf fab0 (offOf (packetAddr fab0 p 0)) = none ∧
       mirrorOf fab0 (offOf (packetAddr fab0 p 0) / 64 * 64) = none ∧ lineFree fab0 0 (offOf (packetAddr fab0 p 0)) = true ∧
       (lineNo fab0 (offOf (packetAddr fab0 p 0))).isSome = true ∧ wayReady fab0 (offOf (packetAddr fab0 p 0)) = true ∧ p.offset.toNat % 32 = 0 ∧
       ([AccessKind.meteorRead, .lineRead, .meteorWrite (BitVec.ofNat 256 (leNat body)) false, .lineWrite (lineOf (body.take 64)) false,
         .partialStore body false].all (fun k => hashedOpen fab0 (packetWho p) (packetAddr fab0 p 0) k)) = true)) ∧
    fab0.mem.formOk = true ∧ fab0.fab.kept = [] ∧
    (let p := here (2 ^ 32 - 8) (List.replicate 16 1#8) 25
     amoOp (p.arg.toNat % 16) = some .cas ∧ decide (bitsOf p.arg.toNat 4 1 = 1) = true ∧ p.poison = false ∧
     (peekLine fab0 (2 ^ 32 - 64)).2 = false ∧ lineFree fab0 0 (offOf (packetAddr fab0 p 0)) = true ∧
     hashedOpen fab0 (packetWho p) (packetAddr fab0 p 0) (.atomic .cas true (BitVec.ofNat 64 (fieldOf p.body 0 8)) (BitVec.ofNat 64 (fieldOf p.body 8 8)) false) = true) ∧
    (let p := here (2 ^ 32 - 64) (natLe 4 (4095 * 2 ^ 16) ++ natLe 4 0 ++ natLe 8 (2 ^ 22) ++ List.replicate 64 5#8) 0
     let c : Contribution := ⟨redFormatOf p.arg.toNat, 0, 4096, false, some (BitVec.ofNat 64 (2 ^ 22)), lineOf ((p.body.drop 16).take 64), false⟩
     hashedOpen fab0 (packetWho p) (packetAddr fab0 p 0) (.contribute c) = true ∧ bitsOf (fieldOf p.body 0 4) 0 12 = 0 ∧
     bitsOf (fieldOf p.body 0 4) 16 12 = 4095 ∧ slicesUsed fab0 (homeDie fab0 (2 ^ 32 - 64) * 16 + sliceOf (2 ^ 32 - 64)) < 256) ∧
    (∀ n ∈ [1, 8], (let p := here (2 ^ 32 - 32 * n) (List.replicate (32 * n) 1#8) n
      1 ≤ p.arg.toNat ∧ p.arg.toNat ≤ 8 ∧ p.offset.toNat % (32 * p.arg.toNat) = 0 ∧ p.offset.toNat + 32 * p.arg.toNat ≤ 2 ^ 41 ∧
      p.body.length = 32 * p.arg.toNat ∧ shadowRefuses fab0 p = false ∧
      ((List.range p.arg.toNat).all (fun i => hashedOpen fab0 (packetWho p) (packetAddr fab0 p (32 * i)) .meteorRead &&
        hashedOpen fab0 (packetWho p) (packetAddr fab0 p (32 * i)) (.meteorWrite 0 false) &&
        (lineNo fab0 (p.offset.toNat + 32 * i)).any (fun n => decide ((acceptedOf fab0.mem (chanOfLine n)).length ≤ 24)) &&
        lineFree fab0 0 (p.offset.toNat + 32 * i) && decide (mirrorOf fab0 (p.offset.toNat + 32 * i) = none))) = true)) ∧
    shadowRefuses buddied { here (2 ^ 23 - 1) [1#8] 0 with unchk := false } = false ∧ shadowRefuses buddied { here (2 ^ 22 + 2 ^ 21 - 1) [1#8] 0 with unchk := false } = true ∧
    shadowRefuses buddied (here (2 ^ 22) [1#8] 0) = false ∧
    (here 0 [] 0 63).space.toNat ≠ 0 ∧ (here 0 [] 0 63).space.toNat ≠ 2 ∧ (here 0 [] 0 63).space.toNat ≠ 4 ∧
    kept0.fab.kept.find? (fun k => decide (k.src = (here 0 [] 0).src.toNat) && decide (k.tag = (here 0 [] 0).tag.toNat)) = some keptOne := by
  decide +kernel

/-- A request of this part, open at device 1, or held. -/
def reqOf (o : Origin) (port : Option Nat) : FabReq := ⟨pk 0 [] 0 0 0 1, o, port⟩
def requests (l : List FabReq) (s : State := port17 3) : State := { s with fab := { s.fab with requests := l } }
def answer1 (arg : Nat := 0) : Packet := here 0 [] arg

theorem test_w_PacketsSentAndAnswered :
    (pk 0 [] 0 0 0 1).dst.toNat ≠ localDevice fab0 ∧ (pk 0 [] 0 0 0 1).src.toNat = localDevice fab0 ∧ routePort fab0 1 0 = none ∧
    routePort (port17 3) 1 (2 ^ 41 - 1) = some 17 ∧ (pk 0 [] 0 0 1 2).src.toNat ≠ localDevice fab0 ∧ (answer1).dst.toNat = localDevice (port17 3) ∧
    answered fab0 (answer1) = none ∧
    ([Origin.hub hub, .cluster 151 (some (3, 0)) 64 4, .cluster 151 none 64 5].all (fun o =>
      decide (answered (requests [reqOf o (some 17)]) (answer1 4) = some (reqOf o (some 17), [])))) = true ∧ isHost hub = false ∧
    (answer1 4).arg = 4 ∧ (∀ r ∈ fab0.fab.requests, ¬(r.packet.dst = 1 ∧ r.packet.tag = 1)) ∧
    (requests [reqOf (.hub hub) (some 17)]).fab.requests = [] ++ reqOf (.hub hub) (some 17) :: [] ∧ (reqOf (.hub hub) none).packet.dst = 1 ∧
    (reqOf (.hub hub) none).packet.tag = 1 ∧ (∀ r ∈ fab0.fab.requests, r.port.isSome = true) ∧
    (requests [reqOf (.hub hub) none]).fab.requests = [reqOf (.hub hub) none] ∧
    routePort (port17 3) (reqOf (.hub hub) none).packet.dst.toNat (reqOf (.hub hub) none).packet.offset.toNat = some 17 := by decide +kernel

/-- A broadcast's descriptor at rank 1 of 2, and one whose operation is none. -/
def collBytes (op : Nat) : List Byte :=
  natLe 4 op ++ natLe 4 2 ++ natLe 4 1 ++ natLe 4 0 ++ natLe 8 0x3000 ++ natLe 8 0x8000 ++ natLe 8 (2 ^ 32 - 64) ++ natLe 4 1 ++ natLe 4 7 ++ natLe 8 0 ++ natLe 8 (2 ^ 22)
def collState (op : Nat) (atPad : Bool) : State :=
  let s := if atPad then { fab0 with mem := spadWrite fab0.mem 151 (2 ^ 22 - 64) (collBytes op) false } else engineWrite fab0 hub 0x9000 (collBytes op) false
  { s with fab := { s.fab with collQueue := [(hub, if atPad then pad.toNat else 0x9000)] } }
def coll7 (started failed : Bool) (got : List Nat) : Collective := { (readColl hub (collBytes 4)).1 with started := started, failed := failed, got := got }
def coll (c : Collective) (s : State := fab0) : State := { s with fab := { s.fab with colls := [c] } }
def linePacket (n arg : Nat) : Packet := here 0 (natLe 4 7 ++ natLe 4 0 ++ natLe 4 n ++ natLe 4 0 ++ List.replicate 64 6#8) arg

theorem test_w_CollectivesAndBuddy :
    hubOpen fab0 hub = true ∧ mayAttend fab0 hub = true ∧ mayAttend fab0 (.mgmt true) = false ∧ hubOpen fab0 (.mgmt true) = true ∧
    fab0.fab.collQueue = [] ∧
    (let s : State := { fab0 with fab := { fab0.fab with collQueue := [(hub, 2 ^ 41)] } }
     s.fab.collQueue = (hub, 2 ^ 41) :: [] ∧ (engineBytes (quiet s) hub (2 ^ 41) 64).2 = none ∧ rd s Fld.FAB_ERR_VALID = 0) ∧
    (let s := collState 4 false
     (engineBytes (quiet s) hub 0x9000 64).2 = some (collBytes 4, false) ∧ (readColl hub (collBytes 4)).2 = true ∧
     (readColl hub (collBytes 4)).1.op = 4 ∧ (readColl hub (collBytes 4)).1.rank = 1 ∧ (readColl hub (collBytes 4)).1.root = 0 ∧ s.fab.collWaiting = []) ∧
    (let s := collState 9 true
     (engineBytes (quiet s) hub pad.toNat 64).2 = some (collBytes 9, false) ∧ (readColl hub (collBytes 9)).2 = false ∧ s.mem.formOk = true ∧
     spaceOf (BitVec.ofNat 64 pad.toNat) = 2 ∧ countReady s hub (readColl hub (collBytes 9)).1.cpl = true) ∧
    (linePacket 4 2).dst.toNat = localDevice fab0 ∧ collOf fab0 (fieldOf (linePacket 4 2).body 0 4) = none ∧
    collOf (coll (coll7 true false [])) (fieldOf (linePacket 4 2).body 0 4) = some (coll7 true false []) ∧ (coll7 true true []).failed = true ∧
    fieldOf (linePacket 4 2).body 8 4 = 4 ∧
    ((List.range 4).all (fun j => (collRead (quiet (coll (coll7 true false []))) (coll7 true false []) ((coll7 true false []).src + 64 * (0 + j))).isSome)) = true ∧
    (linePacket 4 2).arg.toNat / 2 = 1 ∧
    (let a := BitVec.ofNat 64 (localAddr fab0 0 (2 ^ 32 - 64))
     (coll7 true false []).dst = 2 ^ 32 - 64 ∧ hashedOpen (coll (coll7 true false [])) hub a (.lineWrite (lineOf (((linePacket 4 2).body.drop 16).take 64)) false) = true ∧
     lineFree fab0 0 (offOf a) = true ∧ mirrorOf fab0 (offOf a) = none ∧ wayReady fab0 (offOf a) = true) ∧
    (coll7 false false []).started = false ∧ (∃ l ∈ (coll7 true false []).wanted, (coll7 true false []).got.contains l = false) ∧
    (∀ l ∈ (coll7 true false [0]).wanted, (coll7 true false [0]).got.contains l = true) ∧
    collWaits (coll (coll7 true false [0])) (coll7 true false [0]) = false ∧
    (let s : State := { fab0 with mem := { fab0.mem with waiting := [⟨.nobody, hub, 2 ^ 32 - 64, .lineRead⟩] } }
     collWaits s (coll7 true false [0]) = true) ∧ countReady (coll (coll7 true false [0])) hub (2 ^ 22) = true ∧
    rd fab0 Fld.FAB_BUDDY_EN = 0 ∧ rd (put Fld.FAB_BUDDY_EN 1 0 0 fab0) Fld.FAB_BUDDY_EN = 1 ∧
    (let s := poke (2 ^ 22 + 128) 1 3 (poke (2 ^ 22) 8 64 buddied)
     let rs := upToCommit (shadowRecords (quiet s) (2 ^ 21) 64 3 0)
     rs.map (fun r => fieldOf r.2 0 1) = [3] ∧ s.mem.formOk = true ∧
     hashedOpen s .supervisor (BitVec.ofNat 64 (localAddr s 0 (shadowBase s) + 64)) (.partialStore (natLe 8 64) false) = true ∧
     lineFree s 0 (2 ^ 22 + 64) = true ∧ mirrorOf s (2 ^ 22 + 64) = none ∧ wayReady s (2 ^ 22 + 64) = true) := by
  decide +kernel

def mer1 : State := put Fld.MER_CTRL_SRC 1
def mer0 : State := put Fld.MER_CTRL_SRC 0
/-- Sixteen offsets of 5 ns average to 5 ns; the 16th good average locks the count (R330). -/
def runs1 (s : State) : Nat × Nat × Nat × List Int :=
  let t := merExchange s 0 10 10 10
  (rd t Fld.MER_OFFSET_NS, rd t Fld.MER_STATUS_LOCKED, t.fab.merGood, t.fab.merOffsets)
theorem test_w_MeridianInputs :
    (here 0 [] 0).dst.toNat = localDevice fab0 ∧ merSrc (put Fld.MER_CTRL_SRC 0) = 0 ∧ merSrc mer1 = 1 ∧
    (here 0 [] 0).src.toNat = rd (put Fld.MER_PARENT_DEVICE 1 0 0 fab0) Fld.MER_PARENT_DEVICE ∧ (here 0 [] 0).src.toNat ≠ rd fab0 Fld.MER_PARENT_DEVICE ∧
    ppsAccepted mer1 = true ∧ ppsAccepted { mer1 with ns := 998999999, fab := { mer1.fab with pps := some 0 } } = false ∧
    ppsAccepted { mer1 with ns := 1001000000, fab := { mer1.fab with pps := some 0 } } = true ∧
    ((5 : Int) :: fab0.fab.merOffsets).take 16 = [5] ∧ (((5 : Int) :: List.replicate 15 5).take 16).length = 16 ∧
    (∀ g ∈ ([15, 14] : List Nat), (runs1 { mer0 with fab := { mer0.fab with merOffsets := List.replicate 15 5, merGood := g } }) = (5, if g = 15 then 1 else 0, g + 1, [])) ∧
    anyLoopOn seq0 = true ∧ anyLoopOn fab0 = false ∧ rd fab0 Fld.MER_STATUS_LOCKED = 0 ∧ rd (put Fld.MER_STATUS_LOCKED 1) Fld.MER_STATUS_LOCKED = 1 := by
  decide

/-! Reliability -/

def suspect (l : List Suspect) (s : State := mem2) : State := { s with ras := { s.ras with suspects := l } }
/-- A suspect line at an offset. -/
def badLine (off : Nat) (s : State := mem2) : State := suspect [.row 5, .line ((lineNo s off).getD 0) off] s
/-- A region entry of a kind over the last 4 KiB of hashed space. -/
def region (r : Region) (s : State := mem2) : State := mm (fun m => { m with regions := [(63, r)] }) s
/-- The first row of page 0 of the sequence, in a frame of tenant 1,023. -/
def row4 : Nat := physRow 0 4 0 0 0
def tenanted (s : State) : State := mm (fun m => { m with bounds := { m.bounds with frames := [(frameKey unit4 0, some 1023)] } }) s
def badRow4 (s : State := tenanted (placed0 3 64)) : State := suspect [.row row4] s
def tests (l : List Nat) (spares : KMap Nat := []) (s : State := mem2) : State := { s with ras := { s.ras with rowTests := l, spareRows := spares } }
def written0 (s : State := mem2) : State := mm (fun m => { m with written := [unitOfLine ((lineNo s (2 ^ 32 - 64)).getD 0)] }) s

theorem test_w_RereadsRepairsAndRowTests :
    (∀ x ∈ mem2.ras.suspects, isLineSuspect x = false) ∧
    takeFirst isLineSuspect (badLine (2 ^ 32 - 64)).ras.suspects = some (.line ((lineNo mem2 (2 ^ 32 - 64)).getD 0) (2 ^ 32 - 64), [.row 5]) ∧
    (badLine 0).mem.waiting = [] ∧ regionOf (badLine (2 ^ 32 - 64)) (2 ^ 32 - 64) = none ∧ otherCopy (badLine (2 ^ 32 - 64)) (2 ^ 32 - 64) = none ∧
    (badLine 0).kvm.poolUsed = [] ∧
    (let s := badLine (2 ^ 32 - 64) mirrored
     mirrorOf s (2 ^ 32 - 64) = some 0 ∧ wayReady s (2 ^ 32 - 64) = true ∧ lineNo s 0 ≠ some ((lineNo mirrored (2 ^ 32 - 64)).getD 0) ∧
     (peekLine s 0).2 = false) ∧
    (let r : Region := ⟨1, 2 ^ 32 - 4096, 4096, 2 ^ 60⟩
     let s := badLine (2 ^ 32 - 64) (region r)
     regionOf s (2 ^ 32 - 64) = some r ∧ spaceOf (BitVec.ofNat 64 (r.src + (2 ^ 32 - 64 - r.base % 2 ^ 41) / 4096 * 4096)) = 4) ∧
    (∀ x ∈ mem2.ras.suspects, isLineSuspect x = true) ∧
    takeFirst (fun x => !isLineSuspect x) (badRow4).ras.suspects = some (.row row4, []) ∧ frameOfRow mem2 (rowAt row4) = none ∧
    frameOfRow (badRow4) (rowAt row4) = some (⟨0, [(0, 1)], []⟩, 0, 0) ∧ 0 < (geomRec 0).frameRows ∧
    frameTenant (badRow4) (frameKey (rowAt row4).placed 0) = some 1023 ∧ repairable (geomRec 0) [(0, 0), (0, 2)] = false ∧
    repairable (geomRec 0) [(0, 0)] = true ∧ frameOwners (quiet (badRow4)) 1023 (rowAt row4).placed 0 = [] ∧
    (moveFrameIn (quiet (badRow4)) (rowAt row4).placed 0 [unitStack (rowAt row4).placed]).isSome = true ∧
    (mem2).ras.rowTests = [] ∧ (tests [row4, 7]).ras.rowTests = row4 :: [7] ∧ rowProc mem2 (rowAt row4) = false ∧
    sparesOf (tests [row4] [(bankOfRow row4, 0)]) (bankOfRow row4) = 0 ∧ sparesOf (tests [row4]) (bankOfRow row4) = 3 + 1 ∧
    lineNo mem2 (2 ^ 32) = none ∧ (lineNo mem2 (2 ^ 32 - 64)).isSome = true ∧ mem2.mem.written = [] ∧
    (lineNo (written0) (2 ^ 32 - 64)).any (fun n => (written0).mem.written.contains (unitOfLine n) && !(lineView (settle (written0).mem n) n).2 &&
      decide (stackOfLine n < 64)) = true ∧
    rowIsWritten (placed0 3 64) (rowAt row4) = false ∧ rowProc (placed0 3 64) (rowAt row4) = true ∧
    rowIsWritten (writeRow (placed0 3 64) 0 4 0 0 0 [1#8]) (rowAt row4) = true ∧ (rowAt row4).stack < 64 := by decide +kernel

theorem test_w_RereadsRepairs_rebuilt :
    (let s := badRow4
     let rows := (List.range (geomRec 0).rows).map (frameRow (quiet s) unit4 0)
     (moveFrameIn ((rebuild (geomRec 0) rows [(0, 0)]).zipIdx.foldl (fun z x => setFrameRow z unit4 0 x.2 x.1) (quiet s)) unit4 0 [0]).isSome) = true := by
  decide +kernel

def scrub (base len : Nat) (pos : Option Nat) (s : State := written0) : State :=
  { wr64 (wr64 s Fld.RAS_SCRUB_BASE_LO_V Fld.RAS_SCRUB_BASE_HI_V base) Fld.RAS_SCRUB_LEN_LO_V Fld.RAS_SCRUB_LEN_HI_V len with
    ras := { s.ras with scrub := pos } }
def staged (i base len src : Nat) : State :=
  put Fld.RAS_RGN_SEL_INDEX i 0 0 (wr64 (wr64 (wr64 mem2 Fld.RAS_RGN_BASE_LO_V Fld.RAS_RGN_BASE_HI_V base) Fld.RAS_RGN_LEN_LO_V Fld.RAS_RGN_LEN_HI_V len)
    Fld.RAS_RGN_SRC_LO_V Fld.RAS_RGN_SRC_HI_V src)

theorem test_w_ScrubsAndRegions :
    hubOpen mem2 (.hostVf 0 1) = true ∧ mayImage (.hostVf 0 1) = false ∧ hubOpen mem2 hub = true ∧ mayImage hub = true ∧
    (scrub 0 0 (some 0)).ras.scrub.isSome = true ∧ (scrub 1 4096 none).ras.scrub = none ∧ scrubRange (scrub 1 4096 none) = false ∧
    scrubRange (scrub (2 ^ 32 - 4096) 4096 none) = true ∧
    regionOk (staged 63 (2 ^ 32 - 4096) 4096 (2 ^ 60)) 63 ⟨1, 2 ^ 32 - 4096, 4096, 2 ^ 60⟩ = true ∧
    regionOk (staged 63 (2 ^ 32 - 4096) 4096 1) 63 ⟨1, 2 ^ 32 - 4096, 4096, 1⟩ = false ∧ regionOk (staged 0 0 0 0) 0 ⟨0, 0, 0, 0⟩ = true ∧
    scrubLen (scrub (2 ^ 32 - 4096) 4096 (some 0)) / 64 = 64 ∧ (∀ i < 64 - 64, scrubWritten (scrub (2 ^ 32 - 4096) 4096 (some 64)) (64 + i) = false) ∧
    (scrub (2 ^ 32 - 4096) 4096 (some 0)).ras.scrub = some 0 ∧ spaceOf (BitVec.ofNat 64 (scrubBase (scrub (2 ^ 32 - 4096) 4096 (some 0)))) = 0 ∧
    (let s := scrub (2 ^ 32 - 4096) 4096 (some 0)
     (∃ i < 64, scrubWritten s (0 + i) = true ∧ ∀ j < i, scrubWritten s (0 + j) = false)) ∧
    scrubWritten (scrub (2 ^ 32 - 4096) 4096 (some 63)) (63 + 0) = true ∧ rd mem2 Fld.RAS_SCRUB_UE_COUNT = 0 := by decide +kernel

def condemned (l : List Nat) (img : Image := ready.img) : State := { ready with img := img, ras := { ready.ras with condemned := l } }
def moves (a b : Nat) : State := { ready with ras := { ready.ras with moves := [(143, a, b)] } }

theorem test_w_ClusterAndUnitRetirement :
    loopsWith (c151 { Cluster.reset with running := some launch0 }) 151 = [] ∧ 151 ∉ ready.ras.condemned ∧ 151 ∈ (condemned [151]).ras.condemned ∧
    (condemned [151]).load.running = false ∧ (∀ r ∈ (condemned [151]).img.loops, r.slot < 256) ∧ logicalOf (condemned [151]).img 151 = some 0 ∧
    (List.range 152).find? (freeSpare (condemned [151]) (dieOfCluster 151)) = some 76 ∧
    (let s := condemned [151] { ready.img with lmap := (List.range 76).map (76 + ·) }
     logicalOf s.img 151 = some 75 ∧ ∀ n < 152, freeSpare s (dieOfCluster 151) n = false) ∧
    (∀ m ∈ ready.ras.moves, m.1 ≠ 143) ∧ takeFirst (fun m => decide (m.1 = 143)) (moves 3 4).ras.moves = some ((143, 3, 4), []) ∧
    Memory.wf (moves 3 4).mem = true ∧ (let key := (lastPair.stack.val * 1024 + pairRefUnit lastPair)
     key ∉ ready.ras.condemnedUnits ∧ key ∈ ({ ready with ras := { ready.ras with condemnedUnits := [key] } } : State).ras.condemnedUnits ∧
     usedFrames ({ ready with ras := { ready.ras with condemnedUnits := [key] } } : State) (placedUnit lastPair.stack.val (pairRefUnit lastPair)) = []) := by
  decide +kernel

def saf (f : Saf → Saf) (s : State := mem2) : State := { s with saf := f s.saf }

theorem test_w_DeviceAndDieEclipse :
    mem2.saf.stores = [] ∧ (saf (fun x => { x with stores := [.unit 1 (some 5)] })).saf.stores = [.unit 1 (some 5)] ∧ mem2.load.running = false ∧
    (∀ e ∈ mem2.seq.loops, e.2.steps.head?.any (fun x => x.phase = .commit || x.phase = .fixup) = false) ∧ mem2.saf.heldMmio = [] ∧
    (saf (fun x => { x with lastMismatch := some (0, 64) })).saf.lastMismatch.any (fun x => decide (x.2 = 64) && within (some x.1) mem2.ns) = true ∧
    mem2.saf.recovering = none ∧ (saf (fun x => { x with recovering := some 0 })).saf.recovering = some 0 ∧ rd mem2 Fld.SAF_STATUS_PERM = 0 ∧
    rd (put Fld.SAF_STATUS_PERM 1) Fld.SAF_STATUS_PERM = 1 ∧ (saf (fun x => { x with alarm := true })).saf.alarm = true ∧ mem2.saf.alarm = false ∧
    ({ mem2 with ns := 99999 } : State).ns < KMap.get (fun _ => 0) mem2.saf.heartbeat 1 + 100000 ∧
    KMap.get (fun _ => 0) mem2.saf.heartbeat 1 + 100000 ≤ ({ mem2 with ns := 100000 } : State).ns ∧ dieEclipse { mem2 with ns := 100000 } 1 = false ∧
    dieEclipse (put Fld.SAF_STATUS_DIE_B 1) 1 = true ∧ (∀ e ∈ mem2.seq.loops, e.2.steps = []) ∧
    KMap.get (fun _ => none) mem2.saf.lostAt 1 = none ∧ KMap.get (fun _ => none) (saf (fun x => { x with lostAt := [(1, some 0)] })).saf.lostAt 1 = some 0 ∧
    mem2.mem.regions = [] ∧ ({ mem2 with ns := 9999999 } : State).ns < 0 + 10000000 ∧ 0 + 10000000 ≤ ({ mem2 with ns := 10000000 } : State).ns := by
  decide

/-! Self-test and security -/

/-- The part in service, with diodes read, logical cluster 0 on cluster 76. -/
def bst0 (lmap : List Nat := []) : State := { ready with img := { ready.img with lmap := lmap } }
def bst (f : Bst → Bst) (s : State := bst0) : State := { s with bst := f s.bst }
def testOf (k : TestKind) (second : Bool) : Test := ⟨k, second, [], []⟩
def idle151 (s : State) : State := { s with clu := [(151, { Cluster.reset with running := some launch0 })] }
/-- The rotation of die B stands at its last cluster. -/
def last151 (s : State := bst0) : State := bst (fun b => { b with nextCluster := [(1, 75)] }) s

theorem test_w_RotationOfClusters :
    rotationOff mem2 = true ∧ rotationOff bst0 = false ∧ testsCluster bst0 1 = false ∧
    testsCluster (bst (fun b => { b with tests := [testOf (.cluster 151) false] })) 1 = true ∧
    nextCluster (last151) 1 = some 151 ∧
    nextCluster { bst0 with ras := { bst0.ras with retiredClusters := List.range 152 } } 1 = none ∧
    testRefusal (last151) (some 1) 1 false true = 1 ∧ testRefusal (last151) (some 1) 1 true false = 2 ∧ testRefusal (last151) (some 1) 1 true true = 0 ∧
    testRefusal (put Fld.THM_DIE_DIODE 100 1 0 (last151)) (some 1) 1 true true = 3 ∧
    logicalOf (last151).img 151 = none ∧ isIdle (last151) 151 = true ∧ isIdle (idle151 (last151)) 151 = false ∧
    (let s := last151 (bst0 [151])
     logicalOf s.img 151 = some 0 ∧ consOf s.img 0 = [1023] ∧ nextCluster s 1 = some 151 ∧
     (List.range 152).find? (fun n => freeSpare s 1 n && decide (rd s Fld.CLU_PWR_STATE n = 0) && isIdle s n) = some 76 ∧
     atRest s 151 = true ∧ atRest (idle151 s) 151 = false ∧ Memory.wf s.mem = true ∧
     (List.range 152).find? (fun n => freeSpare (idle151 s) 1 n && decide (rd (idle151 s) Fld.CLU_PWR_STATE n = 0) && isIdle (idle151 s) n) = some 76) ∧
    (let s := last151 (bst0 (151 :: (List.range 75).map (76 + ·)))
     logicalOf s.img 151 = some 0 ∧ loopsWith s 151 = [] ∧ isIdle s 151 = true ∧
     ∀ n < 152, (freeSpare s 1 n && decide (rd s Fld.CLU_PWR_STATE n = 0) && isIdle s n) = false) ∧
    (∀ x ∈ bst0.bst.tests, isTest (.cluster 151) x = false) ∧
    ([true, false].all (fun b => decide (takeFirst (isTest (.cluster 151)) (bst (fun x => { x with tests := [testOf (.cluster 151) b] })).bst.tests =
      some (testOf (.cluster 151) b, [])))) = true ∧ (∀ e ∈ bst0.seq.loops, e.2.steps = []) ∧
    bst0.bst.refused = [] ∧ (bst (fun b => { b with refused := [.cluster 151] })).bst.refused = .cluster 151 :: [] ∧ mayTest bst0 151 = true := by decide +kernel

theorem foldl_min_le : ∀ (l : List Nat) (a x : Nat), x ∈ a :: l → l.foldl Nat.min a ≤ x
  | [], a, x, h => by simp at h; simp [h]
  | b :: t, a, x, h => by
    rw [List.foldl_cons]
    have key := foldl_min_le t (Nat.min a b)
    rcases List.mem_cons.mp h with rfl | h
    · exact Nat.le_trans (key _ (List.mem_cons_self)) (Nat.min_le_left _ _)
    · rcases List.mem_cons.mp h with rfl | h
      · exact Nat.le_trans (key _ (List.mem_cons_self)) (Nat.min_le_right _ _)
      · exact key x (List.mem_cons_of_mem _ h)

theorem test_w_RotationOfClusters_age : bst0.ns ≤ oldestTest bst0 + 720000000000 ∧
    oldestTest { bst0 with ns := 720000000001 } + 720000000000 < ({ bst0 with ns := 720000000001 } : State).ns := by
  refine ⟨Nat.zero_le _, ?_⟩
  have h : oldestTest { bst0 with ns := 720000000001 } ≤ 0 :=
    foldl_min_le _ _ _ (List.mem_cons_of_mem _ (List.mem_append_left _ (List.mem_map.mpr ⟨0, by decide, rfl⟩)))
  show _ < 720000000001
  omega

def dirWord (kind index count start : Nat) : BitVec 32 := BitVec.ofNat 32 (start + kind * 2 + index * 8 + count * 2 ^ 16)
def life (n : Nat) (s : State := mem2) : State := { s with sec := { s.sec with lcs := n } }

theorem test_w_UnitAndDirectedTests :
    rotationOff bst0 = false ∧ isLit 9 = true ∧ isLit 11 = false ∧ 9 ∉ bst0.pwr.rest ∧ testsUnit bst0 9 = false ∧
    testsUnit (bst (fun b => { b with tests := [testOf (.unit 9 1023) false] })) 9 = true ∧
    nextTestUnit (bst (fun b => { b with nextUnit := [(9, 1023)] })) 9 = some 1023 ∧
    testRefusal bst0 none 12 false true = 1 ∧ testRefusal bst0 none 12 true true = 0 ∧ unitHeld bst0 9 1023 = [] ∧
    (∀ x ∈ bst0.bst.tests, isTest (.unit 9 (pairRefUnit lastPair)) x = false) ∧
    unitHeld (holds [heldBlock 0 1 []] []) 9 (pairRefUnit lastPair) ≠ [] ∧
    ([true, false].all (fun b => decide (takeFirst (isTest (.unit 9 (pairRefUnit lastPair)))
      (bst (fun x => { x with tests := [testOf (.unit 9 (pairRefUnit lastPair)) b] })).bst.tests = some (testOf (.unit 9 (pairRefUnit lastPair)) b, [])))) = true ∧
    hubOpen mem2 hub = true ∧ mayImage (.hostVf 0 1) = false ∧ hubOpen mem2 (.hostVf 0 1) = true ∧ mayDirect mem2 = false ∧ mayDirect (life 1) = true ∧
    mayDirect (life 4) = true ∧ (dirWord 3 8191 65535 0).toNat % 2 = 0 ∧
    ((dirWord 0 151 65535 1).toNat % 2 = 1 ∧ (dirWord 0 151 65535 1).toNat / 2 % 4 = 0 ∧ (dirWord 0 151 65535 1).toNat / 8 % 2 ^ 13 = 151) ∧
    testRefusal (life 1) (some (dieOfCluster 151)) (dieOfCluster 151) true true = 0 ∧
    testRefusal (life 1) (some (dieOfCluster 151)) (dieOfCluster 151) false true = 1 ∧
    ((dirWord 1 8191 65535 1).toNat % 2 = 1 ∧ (dirWord 1 8191 65535 1).toNat / 2 % 4 = 1) ∧
    testRefusal (life 1) none (3 + unitStack 8191) true true = 0 := by decide +kernel

theorem test_w_SecurityLifeCycle :
    (life 0).sec.lcs = 0 ∧ (life 1).sec.lcs = 1 ∧ mem2.sec.lcs ≠ 1 ∧ lifeCycle mem2 = 2 ∧ lifeCycle (life 4) = 4 ∧
    rd (put Fld.SEC_LCS_UNLOCKS 64) Fld.SEC_LCS_UNLOCKS = 64 ∧ tokenOk mem2 (rd64 mem2 Fld.HUB_SERIAL_LO_SERIAL Fld.HUB_SERIAL_HI_SERIAL) 3 0 0 [] = false := by
  decide

/-- Sessions of the responder; one presented the chain of tenant 1,023's owner. -/
def session (live : Bool) (owner : Option (BitVec 384) := none) : Session := ⟨7, live, owner, 0, none⟩
def sessions (l : List Session) (s : State := mem2) : State := { s with sec := { s.sec with sessions := l } }
def floorSet (lo gen rows : Nat) : State :=
  let s := wr64 (put Fld.SEC_FLOOR_SET_LO_GEN lo) Fld.IMG_GEN_LO_GEN Fld.IMG_GEN_HI_GEN gen
  { s with sec := { s.sec with floorRows := rows } }
def stormy : State := { mem2 with sec := { mem2.sec with authFails := List.replicate 8 (0, some 1023) } }
def levels (v : Nat) (s : State := mem2) : State := put Fld.SEC_ALARM_LVL_LEVELS v 0 0 s

theorem test_w_TenantKeyCommands :
    hubOpen mem2 hub = true ∧ mayImage hub = true ∧ keyInUse (quiet mem2) (rd mem2 Fld.SEC_TKEY_SEL_TENANT) = false ∧ mayServe mem2 = true ∧
    mayServe (life 4) = false ∧ keyInUse (quiet (put Fld.SEC_TKEY_SEL_TENANT 1023 0 0 (subbed 4 0 0 0 0))) 1023 = true ∧
    rd (put Fld.SEC_TKEY_SEL_TENANT 1023 0 0 (subbed 4 0 0 0 0)) Fld.SEC_TKEY_SEL_TENANT = 1023 ∧
    spdmUp mem2 = true ∧ (session true).live = true ∧
    (floorOf (floorSet 5 5 31) < (0 : BitVec 32).toNat * 2 ^ 32 + rd (floorSet 5 5 31) Fld.SEC_FLOOR_SET_LO_GEN ∧
      (0 : BitVec 32).toNat * 2 ^ 32 + rd (floorSet 5 5 31) Fld.SEC_FLOOR_SET_LO_GEN ≤ imgGen (floorSet 5 5 31) ∧ (floorSet 5 5 31).sec.floorRows < 32) ∧
    ([0, 1, 2].all (fun src => alarmTrue mem2 src 14)) = true ∧ alarmTrue mem2 4 14 = false ∧ alarmTrue stormy 4 14 = true ∧
    alarmTrue (put Fld.THM_DIE_DIODE 126 14) 3 14 = true ∧ alarmLevel (levels (1 * 4 ^ 4) stormy) 4 = 1 ∧ alarmLevel (levels (2 * 4 ^ 1)) 1 = 2 ∧
    alarmLevel (levels 3) 0 = 3 ∧ mem2.kvm.swapOut = none ∧ mem2.kvm.swapIn = [] := by decide +kernel

theorem test_w_TenantKeyCommands_owner :
    sessionOf (sessions [session true (some (Config.ownerHash 1023))]) 7 = some (session true (some (Config.ownerHash 1023))) ∧
    (session true (some (Config.ownerHash 1023))).owner = some (Config.ownerHash (1023 : Fin 1024).val) := ⟨rfl, rfl⟩

theorem test_w_SpdmIdentityAnswers :
    spdmUp mem2 = true ∧ spdmUp (life 0) = false ∧ chainUp { mem2 with sec := { mem2.sec with secrets := true } } = true ∧
    1 ≤ (7 : BitVec 8).toNat ∧ (7 : BitVec 8).toNat ≤ 7 := by decide

theorem test_w_SpdmSessions :
    chainUp { mem2 with sec := { mem2.sec with secrets := true } } = true ∧ spdmUp (sessions [session false]) = true ∧
    sessionOf (sessions [session false]) 7 = some (session false) ∧ (session false).live = false ∧
    sessionOf (sessions [session true]) 7 = some (session true) ∧ (session true).live = true := by decide

/-! Power and thermal -/

/-- The part in service with a history of ten windows and more; cluster 151 is the one leaf of constellation 1,023. -/
def pw0 : State := let s := bst0 [151]; { s with pwr := { s.pwr with histLeft := 0, limitPending := false } }
def pwr (f : Pwr → Pwr) (s : State := pw0) : State := { s with pwr := f s.pwr }
def asked (r : PwrReq) (s : State := pw0) : State := pwr (fun p => { p with queue := [r] }) s
def running (r : PwrRun) (s : State := pw0) : State := pwr (fun p => { p with run := some r }) s
def dusk0 : PwrReq := ⟨hub, 1, false, 1, 0⟩
def night0 : PwrReq := ⟨hub, 2, true, 1, 0⟩
def wake0 : PwrReq := ⟨hub, 0, false, 1, 0⟩
/-- Six requests, one for each state, with the last thing each may name. -/
def six : List (Nat × Nat × Nat) := [(0, 3, 17), (1, 0, 1023), (2, 1, 0), (3, 2, 11), (4, 3, 17), (5, 0, 0)]
def busy151 : State := c151 { Cluster.reset with running := some launch0 } pw0
/-- The one bad save area: behind the end of the hashed space. -/
def farSave : State := put Fld.PWR_REQ_ADDR_HI_ADDR 1 0 0 pw0

theorem test_w_PowerRequests :
    hubOpen pw0 hub = true ∧ (six.all (fun e => decide (pw0.pwr.queue.length < 16) && mayPower pw0 hub e.1 e.2.1 e.2.2 && reqFormed pw0 e.1 e.2.1 e.2.2)) = true ∧
    ¬(pwr (fun p => { p with queue := List.replicate 16 dusk0 })).pwr.queue.length < 16 ∧ reqFormed pw0 3 3 11 = false ∧
    mayPower pw0 (.hostVf 0 1) 5 0 0 = false ∧ pw0.pwr.run = none ∧ pw0.pwr.queue = [] ∧ (asked dusk0).pwr.queue = dusk0 :: [] ∧
    reqFormed (asked dusk0) 1 1 0 = true ∧ saveFits farSave (reqClusters farSave 1 0) = false ∧
    reqFormed (asked ⟨hub, 3, false, 3, 11⟩) 3 3 11 = false ∧ reqFormed farSave 2 1 0 = true ∧ saveFits pw0 (reqClusters pw0 1 0) = true ∧
    (reqDomains pw0 0 1 0).filter (needsWake pw0) = [] ∧
    (reqDomains pw0 1 1 0).filter (needsEntry pw0 1) = [(0, 151)] ∧ refuser pw0 dusk0 (reqDomains pw0 1 1 0) true = 0 ∧
    ([(mem2, 1), (busy151, 2), (put Fld.STK_STATUS_WHOLD 1 11 0 pw0, 3), (put Fld.PWR_LIMIT_WATTS 1200 0 0 pw0, 6)].all (fun e =>
      decide (refuser e.1 (if e.2 = 3 then ⟨hub, 3, false, 2, 11⟩ else dusk0) (if e.2 = 3 then [(1, 11)] else [(0, 151)]) false = e.2))) = true ∧
    (let s := put Fld.CLU_PWR_STATE 2 151 0 pw0
     (reqDomains s 0 1 0).filter (needsWake s) = [(0, 151)]) ∧
    busyDomain pw0 0 151 = false ∧ busyDomain busy151 0 151 = true ∧
    (running ⟨dusk0, 0, [(0, 151)], [], []⟩ busy151).pwr.run = some ⟨dusk0, 0, [(0, 151)], [], []⟩ := by decide +kernel

def standing : State := pwr (fun p => { p with standby := true })
def waking (k : Nat) (s : State := pw0) : State := pwr (fun p => { p with waking := KSet.add [] k }) s
def resting : State := pwr (fun p => { p with rest := [9] })
/-- A command waits at the stack in REST. -/
def heldAt9 : State := { resting with stk := (queued nop).stk }

theorem test_w_PowerEntriesAndWakes :
    ([(0, 151, 1), (0, 151, 2), (1, 11, 3), (2, 17, 4), (3, 0, 5), (0, 151, 0)].all (fun e =>
      let r : PwrRun := ⟨⟨hub, e.2.2, false, 1, 0⟩, 0, [(e.1, e.2.1)], if e.2.2 = 2 then [(0, 151, 7)] else [], []⟩
      let s := running r
      decide (s.pwr.run = some r) && (decide (r.past ≠ []) || !busyDomain s e.1 e.2.1) && decide (e.2.2 < 6))) = true ∧
    pw0.pwr.run = none ∧
    (let r : PwrRun := ⟨night0, 0, [(0, 151)], [], []⟩
     let s := running r
     s.pwr.run = some r ∧ (0, 151) ∈ r.doms ∧ 151 ∉ s.pwr.toGate ∧ rd s Fld.CLU_PWR_SAVED 151 = 0 ∧ busyDomain s 0 151 = false) ∧
    1151 ∉ pw0.pwr.waking ∧ (waking 1151).mem.waiting = [] ∧ 1151 ∈ (waking 1151).pwr.waking ∧ 11 ∈ (waking 11).pwr.waking ∧
    29 ∈ (waking 29).pwr.waking ∧ 999 ∈ (waking 999).pwr.waking ∧ (waking 1151).pwr.run = none ∧ 151 ∉ (waking 1151).pwr.resetOnWake ∧
    151 ∈ (pwr (fun p => { p with resetOnWake := [151] }) (waking 1151)).pwr.resetOnWake ∧
    standing.pwr.standby = true ∧ wakeAt standing = false ∧ wakeAt { put Fld.PWR_WAKE_AT_LO_COUNT 5 0 0 standing with mer := 5 } = true ∧
    9 ∈ resting.pwr.rest ∧ restHolds resting 9 = false ∧ restHolds heldAt9 9 = true ∧ 9 ∈ heldAt9.pwr.rest ∧ resting.pwr.standby = false ∧ 0 ∉ resting.pwr.rest := by decide +kernel

/-- Rail 3 in one state or another. -/
def rail3 (f : Avs → Avs) (ns : Nat := 1000000) : State :=
  { pwr (fun p => { p with avs := KMap.set Avs.reset [] 3 (f (avsOf pw0 3)) }) with ns := ns }

theorem test_w_VoltagesAndPowerLimit :
    (let s := rail3 (fun a => { a with lastAt := some 0 })
     let a := avsOf s 3
     a.pending = false ∧ a.suspended = false ∧ a.lastAt.any (fun t => decide (s.ns < t + 1000000)) = false ∧
     setpointOk 3 a.inForce (BitVec.ofNat 12 (a.inForce + 25)).toNat = true) ∧
    (let s := rail3 (fun a => { a with lastAt := some 0 }) 999999
     (avsOf s 3).lastAt.any (fun t => decide (s.ns < t + 1000000)) = true) ∧
    (let s := rail3 (fun a => { a with pending := true, asked := 700, writes := 2 })
     (avsOf s 3).pending = true ∧ 99 * (avsOf s 3).asked ≤ 100 * 707 ∧ 100 * 707 ≤ 101 * (avsOf s 3).asked ∧
     ¬100 * 708 ≤ 101 * (avsOf s 3).asked ∧ (avsOf s 3).writes < 3) ∧
    (avsOf (rail3 (fun a => { a with pending := true, writes := 3 })) 3).pending = true ∧
    3 ≤ (avsOf (rail3 (fun a => { a with pending := true, writes := 3 })) 3).writes ∧
    (avsOf (rail3 (fun a => { a with suspended := true })) 3).suspended = true ∧ (avsOf pw0 3).suspended = false ∧
    hubOpen pw0 hub = true ∧ mayImage (.hostVf 0 1) = false ∧ hubOpen pw0 (.hostVf 0 1) = true ∧ mayImage hub = true ∧
    standing.pwr.standby = true ∧ mem2.pwr.standby = false ∧ mem2.pwr.histLeft ≠ 0 ∧
    (let s := pwr (fun p => { p with est := KMap.set (fun _ => 0) [] 12 100 })
     railEst s 2 ≠ 0 ∧ railEst s 4 = 0 ∧ KMap.get (fun _ => 1) s.pwr.scaleDen 2 ≠ 0 ∧ [5, 6, 7][2]? = some 7) := by decide +kernel

theorem test_w_ArbiterGrants :
    (List.range 10).Nodup ∧ (0 : Rat) ≤ 1300 ∧ (∀ d ∈ List.range 10, (0 : Rat) ≤ (fun _ => 200) d ∧ (0 : Rat) < (fun _ => 48) d) ∧
    ((List.range 10).map (fun _ => (100 : Rat))).sum ≤ 1300 := by decide +kernel

def sensed (st : Nat) (x : Sensor) (ns : Nat) : State :=
  { put Fld.THM_DIE_STATE st 1 0 (pwr (fun p => { p with sensors := KMap.set (fun _ => Sensor.reset) [] 1 x })) with ns := ns }

theorem test_w_TemperatureSamples :
    rd (sensed 2 Sensor.reset 0) Fld.THM_DIE_STATE 1 = 2 ∧
    (rd (sensed 0 ⟨none, none, true⟩ 0) Fld.THM_DIE_STATE 1 ≠ 2 ∧ 8 < ((105 : BitVec 8).toInt - (96 : BitVec 8).toInt).natAbs ∧
      (sensorOf (sensed 0 ⟨none, none, true⟩ 0) 1).wide = true) ∧
    (let s := sensed 0 ⟨some 1, none, false⟩ 10000000000
     rd s Fld.THM_DIE_STATE 1 = 0 ∧ ((250 : BitVec 8).toInt - (2 : BitVec 8).toInt).natAbs = 8 ∧ (sensorOf s 1).apart = some 1 ∧ s.ns < 1 + 10000000000) ∧
    (let s := sensed 0 ⟨some 1, none, false⟩ 10000000001
     rd s Fld.THM_DIE_STATE 1 = 0 ∧ ((5 : BitVec 8).toInt - (1 : BitVec 8).toInt).natAbs = 4 ∧ (sensorOf s 1).apart = some 1 ∧ 1 + 10000000000 ≤ s.ns) ∧
    ((5 : BitVec 8).toInt - (2 : BitVec 8).toInt).natAbs ≤ 3 ∧
    (rd (sensed 1 ⟨none, some 1, false⟩ 0) Fld.THM_DIE_STATE 1 = 1 ∧ (sensorOf (sensed 1 ⟨none, some 1, false⟩ 0) 1).close = some 1) := by decide +kernel

theorem test_w_RefusalsAreRecorded :
    dusk0.state < 6 ∧ dusk0.kind < 4 ∧ dusk0.index < 1024 ∧
    (let s := asked dusk0 mem2
     s.pwr.run = none ∧ s.pwr.queue = dusk0 :: [] ∧ reqFormed s 1 1 0 = true ∧ dusk0.save = false ∧ dusk0.state ≠ 0 ∧
     (reqDomains s 1 1 0).head? = some (0, 151) ∧ (reqDomains s 1 1 0).filter (needsEntry s 1) ≠ [] ∧
     refuser s dusk0 (reqDomains s 1 1 0) true ≠ 0) ∧
    (let x : PwrRun := ⟨dusk0, 0, [(0, 151)], [], []⟩
     let s := running x busy151
     s.pwr.run = some x ∧ x.req = dusk0 ∧ x.past = [] ∧ x.doms.head? = some (0, 151) ∧
     x.doms.any (fun e => busyDomain s e.1 e.2) = true ∧ hubOpen s .supervisor = true ∧ (151 : BitVec 10).toNat < 152 ∧
     (151 : BitVec 10).toNat ∉ s.pwr.resetOnWake ∧ (0, (151 : BitVec 10).toNat) ∈ x.doms) := by decide +kernel

/-! Clocks, resets and boot -/

def refs (a b : RefTrack) (act held auto sel : Nat) : State :=
  put Fld.CKR_REF_CTRL_SEL sel 0 0 (put Fld.CKR_REF_CTRL_AUTO auto 0 0 (put Fld.CKR_REF_STATUS_HOLDOVER held 0 0
    (put Fld.CKR_REF_STATUS_ACTIVE act 0 0 { ready with ckr := { ready.ckr with trackA := a, trackB := b } })))
def ref (st : Nat) : RefTrack := { RefTrack.reset with state := st }
/-- A switch's case: states of A and B, the active source, holdover, AUTO and SEL, as the state they are put into reads. -/
def isCase (e : Nat × Nat × Nat × Nat × Nat × Nat) : Bool :=
  let (a, b, act, held, auto, sel) := e
  let s := refs (ref a) (ref b) act held auto sel
  decide (refState s.ckr.trackA = a ∧ refState s.ckr.trackB = b ∧ rd s Fld.CKR_REF_STATUS_ACTIVE = act ∧ rd s Fld.CKR_REF_STATUS_HOLDOVER = held ∧
    rd s Fld.CKR_REF_CTRL_AUTO = auto ∧ rd s Fld.CKR_REF_CTRL_SEL = sel ∧ s.pwr.standby = false)

theorem test_w_ReferenceClocks :
    standing.pwr.standby = true ∧ ready.pwr.standby = false ∧ merTrusted ready = false ∧ merTrusted (put Fld.MER_STATUS_LOCKED 1 0 0
      (put Fld.MER_CTRL_SRC 0 0 0 ready)) = true ∧
    500 < ((1000501 : BitVec 32).toNat - 1000000 : Int).natAbs ∧ ¬500 < ((999500 : BitVec 32).toNat - 1000000 : Int).natAbs ∧
    200 < ((999799 : BitVec 32).toNat - 1000000 : Int).natAbs ∧ ((1000200 : BitVec 32).toNat - 1000000 : Int).natAbs ≤ 200 ∧
    2 ≤ ({ ref 0 with off := 2 } : RefTrack).off ∧ 2 ≤ ({ ref 0 with warn := 2 } : RefTrack).warn ∧ 99 ≤ ({ ref 2 with good := 99 } : RefTrack).good ∧
    ([(1, 3, 2, 1, 1, 0), (0, 0, 2, 1, 1, 0), (1, 0, 2, 1, 1, 0), (1, 1, 0, 0, 1, 0), (2, 0, 0, 0, 1, 0), (0, 2, 1, 0, 1, 0), (0, 3, 0, 0, 1, 0),
      (1, 0, 0, 0, 1, 0), (3, 0, 1, 0, 1, 0), (0, 1, 1, 0, 1, 0), (3, 0, 2, 1, 0, 0), (0, 0, 2, 1, 0, 1), (0, 3, 1, 0, 0, 1), (2, 0, 0, 0, 0, 0),
      (0, 2, 0, 0, 0, 1)].all isCase) = true := by decide +kernel

def booted : State := { pw0 with ckr := { pw0.ckr with booting := false } }
def atPhase (n : Nat) (s : State := ready) : State := put Fld.CKR_BOOT_PHASE n 0 0 s

theorem test_w_ResetCommands :
    ((999 : BitVec 32).toNat < 1000 ∧ (9999 : BitVec 32).toNat < 10000 ∧ 10000 ≤ (10000 : BitVec 32).toNat ∧ 1000 ≤ (1000 : BitVec 32).toNat) ∧
    hubOpen booted (.mgmt true) = true ∧ isMgmt (.mgmt true) = true ∧ isMgmt hub = false ∧ hubOpen booted hub = true ∧ booted.ckr.booting = false ∧
    ((atPhase 9).ckr.booting = true ∧ rd (atPhase 9) Fld.CKR_BOOT_FAIL = 0 ∧ rd (atPhase 9) Fld.CKR_BOOT_PHASE ≠ 0 ∧ hubOpen (atPhase 9) (.mgmt true) = true) ∧
    mayPartition booted (.hostVf 0 1) 1023 = false ∧ mayImage (.hostVf 0 1) = false ∧ hubOpen booted (.hostVf 0 1) = true ∧
    152 ≤ (1023 : BitVec 10).toNat ∧ ((151 : BitVec 10).toNat < 152 ∧ 151 ∉ booted.pwr.resetOnWake ∧ booted.pwr.run = none ∧
      rd booted Fld.CLU_PWR_STATE 151 = 0 ∧ rd (put Fld.CLU_PWR_STATE 1 151 0 booted) Fld.CLU_PWR_STATE 151 = 1 ∧
      hubOpen (put Fld.CLU_PWR_STATE 1 151 0 booted) hub = true) ∧
    mayPartition booted hub 1023 = true ∧ conRec booted.img 0 = none ∧ mayPartition booted hub 0 = true ∧ (conRec booted.img 1023).isSome = true ∧
    (∀ e ∈ booted.seq.loops, e.2.steps = []) ∧ (∀ c ∈ physLeaves booted.img 1023, rd booted Fld.CLU_PWR_STATE c = 0) ∧
    physLeaves booted.img 1023 = [151] ∧ mayImage hub = true ∧ 18 ≤ (18 : BitVec 10).toNat ∧ (17 : BitVec 10).toNat < 18 ∧
    portResetting booted 17 = false ∧ booted.fab.out = [] ∧ booted.fab.requests = [] := by decide +kernel

def report0 : BootReport := ⟨none, none, 0, true, true, [], [], true, [], [], none⟩
def firm0 : Firmware := ⟨0, 0, 0, [], []⟩
/-- Stored parameters that fit `report0`. -/
def stored : State := { atPhase 6 with ckr := { (atPhase 6).ckr with
  params := some ⟨true, rd64 ready Fld.HUB_SERIAL_LO_SERIAL Fld.HUB_SERIAL_HI_SERIAL, [], []⟩ } }
def badDie : BootReport := { report0 with badClusters := [0, 1, 2, 3, 4] }

/-- What cannot be shown of a state and a report alone, since signatures are opaque (log 10): that a signature is accepted. -/
theorem test_w_BootPhases :
    booted.ckr.booting = false ∧
    ((List.range 10).all (fun n => decide ((atPhase n).ckr.booting = true ∧ rd (atPhase n) Fld.CKR_BOOT_FAIL = 0 ∧ rd (atPhase n) Fld.CKR_BOOT_PHASE = n))) = true ∧
    (∀ x ∈ firmwareSources (atPhase 2) report0, ∀ f, x.2 = some f → firmwareOk (atPhase 2) f = false) ∧
    (keySlotOk ready 0 = true ∧ floorOf ready ≤ firm0.gen.toNat) ∧
    ({ report0 with conditions := false } : BootReport).conditions = false ∧ report0.conditions = true ∧
    ({ report0 with groupsOk := false } : BootReport).groupsOk = false ∧ report0.groupsOk = true ∧
    storedFit (atPhase 6) { report0 with trained := false } = false ∧ storedFit stored report0 = true ∧
    (((bootPhaseEnd (atPhase 8) badDie).ras.retiredClusters.filter (fun c => dieOfCluster c = 0)).length = 5) ∧
    (((bootPhaseEnd (atPhase 8) report0).ras.retiredClusters.filter (fun c => dieOfCluster c = 0)).length ≤ 4) ∧
    report0.image = none ∧ imgState (bootLoad (quiet (atPhase 9)) report0) ≠ 5 ∧
    hubOpen ready hub = true ∧ mayImage hub = true ∧ hubOpen ready (.hostVf 0 1) = true ∧ mayImage (.hostVf 0 1) = false := by
  refine ⟨by decide +kernel, by decide +kernel, ?_, ?_⟩
  · have h : ∀ x ∈ firmwareSources (atPhase 2) report0, x.2 = none := by decide
    intro x hx f hf
    simp [h x hx] at hf
 
  decide +kernel

/-! Host ports and interrupts -/

/-- Host port 1 with a link in CXL mode, two functions and exposed memory. -/
def hosted (h : HostPort := HostPort.reset) : State :=
  let s := put Fld.HPT_HDM_SIZE_UNITS 16 1 0 (put Fld.HPT_LINK_CXL 1 1 0 (put Fld.HPT_LINK_RATE 3 1 0 (dirty false)))
  { s with hpt := [(1, h)], img := { s.img with funcs := [⟨false, false, 1, []⟩, ⟨true, true, 2048, [(1023, 5)]⟩] } }
def entryOf (e : Nat) (h : HostPort := HostPort.reset) : HostPort := { h with cache := KMap.set (fun _ => none) [] (2 ^ 19 - 1) (some e) }
def lastOff : BitVec 41 := BitVec.ofNat 41 (2 ^ 41 - 64)
def openRead : HostReq := ⟨1023, .hub hub, hub, 0, 0, 0, false, false, .lineRead, none⟩

theorem test_w_HostAccesses :
    linkUp (hosted) 0 = false ∧ linkUp (hosted) 1 = true ∧ bootHeld (hosted) (fnRequester 1 0) = false ∧ bootHeld (hosted) (fnRequester 1 255) = false ∧
    bootHeld (put Fld.CKR_BOOT_FAIL 1 0 0 (hosted)) (fnRequester 1 0) = true ∧
    tlpKind .meteorRead = false ∧ accessFits (2 ^ 41 - 64) .lineRead = true ∧ fnExists (hosted) 1 255 = false ∧ fnExists (hosted) 1 1 = true ∧
    barAddr (hosted) 1 1 (2 ^ 36) = none ∧ (hosted).mem.formOk = true ∧
    (let a := gaddr 0 (localDevice (hosted)) (2 ^ 32 - 64)
     offOf a = 2 ^ 32 - 64 ∧ hashedOpen (hosted) (.hostPf 1) a .lineRead = true ∧ wayReady (hosted) (offOf a) = true ∧
     (peekLine (hosted) (offOf a)).2 = false ∧ hashedOpen (hosted) (.hostPf 1) a (.partialStore [1, 2] false) = true ∧
     lineFree (hosted) 0 (offOf a) = true ∧ mirrorOf (hosted) (offOf a / 64 * 64) = none) ∧
    isHost hub = false ∧ tenantOf (hosted) hub = none ∧ lastOff.toNat / 2 ^ 40 = 1 ∧ lastOff.toNat % 2 ^ 40 / 2 ^ 21 = 2 ^ 19 - 1 ∧
    accessFits lastOff.toNat .lineRead = true ∧ accessFits lastOff.toNat (.lineWrite 1 true) = true ∧
    ([4, 5].all (fun e => KMap.get (fun _ => none) (hport (hosted (entryOf e)) 1).cache (2 ^ 19 - 1) = some e)) = true ∧
    entryValid 4 = false ∧ entryValid 5 = true ∧ entryCxl 5 = false ∧ linkUp (hosted (entryOf 5)) 1 = true ∧
    (hport (hosted (entryOf 5)) 1).outbound = [] ∧ (hport (hosted (entryOf 5)) 1).open_.length < 768 ∧
    linkUp (hosted { entryOf 5 with l23 := true }) 1 = false ∧
    openRequest (hosted) 1 1023 = none ∧ openRequest (hosted { HostPort.reset with open_ := [openRead] }) 1 1023 = some openRead ∧
    openRead.kind = .lineRead ∧ openRead.origin = .hub hub ∧ (∀ e ∈ (hosted).seq.loops, e.2.due = none) := by decide +kernel

theorem test_w_HostPortsAndCxl :
    linkUp (hosted) 1 = true ∧ linkUp (hosted) 0 = false ∧ (3 : BitVec 2) ≠ 0 ∧ ((16 : BitVec 5) = 4 ∨ (16 : BitVec 5) = 8 ∨ (16 : BitVec 5) = 16) ∧
    (hosted).pwr.standby = false ∧ (hport (hosted) 0).outbound = [] ∧ (∀ e ∈ (hosted).seq.loops, e.2.due = none) ∧ (hosted).mem.waiting = [] ∧
    fnExists (hosted) 1 255 = false ∧ fnExists (hosted) 1 1 = true ∧ rd (hosted) Fld.HPT_LINK_CXL 1 = 1 ∧ rd (hosted) Fld.HPT_LINK_CXL 0 = 0 ∧
    rd (hosted) Fld.HPT_LINK_RATE 1 ≠ 0 ∧ hdmExposes (hosted) 1 (2 ^ 32) = false ∧ hdmExposes (hosted) 1 (2 ^ 32 - 1) = true ∧ (hosted).mem.snoop = [] ∧
    (let x := (2 ^ 32 - 1) / 64 * 64
     hashedOpen (hosted) (.hostPf 1) (gaddr 0 (localDevice (hosted)) x) .lineRead = true ∧ wayReady (hosted) x = true ∧
     (peekLine (hosted) x).2 = false ∧ (hosted).mem.formOk = true) ∧
    ⟨1, 2 ^ 26 - 1⟩ ∉ (hosted).mem.snoop ∧ ⟨1, 2 ^ 26 - 1⟩ ∈ (mm (fun m => { m with snoop := [⟨1, 2 ^ 26 - 1⟩] }) (hosted)).mem.snoop ∧
    (hport (hosted) 1).cxlWait = [] ∧ wayReady (hosted) ((2 ^ 26 - 1) * 64) = true ∧ mirrorOf (hosted) ((2 ^ 26 - 1) * 64) = none ∧
    ({ (hosted) with saf := { (hosted).saf with alarm := true } } : State).saf.alarm = true ∧ (hosted).saf.alarm = false ∧
    ({ (hosted) with load := { Load.idle with running := true } } : State).load.running = true ∧ (hosted).load.running = false := by decide +kernel

/-- Sources 0x300 and 0xFFE are pending, and routed to one context or another. -/
def sources (target function vec : Nat) (f : Irq → Irq := id) : State :=
  { hosted with irq := f { (hosted).irq with
    pulsed := [0x300, 0xFFE]
    cfg := KMap.set (fun _ => SrcCfg.default) (KMap.set (fun _ => SrcCfg.default) [] 0xFFE ⟨15, target, function, vec⟩) 0x300 ⟨7, target, function, vec⟩ } }

theorem test_w_ClaimsAndCompletes :
    ([hub, .mgmt true, .hostPf 1, .hostVf 1 1].all (fun w => !bootHeld (hosted) w && hubOpen (hosted) w)) = true ∧ (hosted).pwr.standby = false ∧
    ownsManagement (.mgmt true) = true ∧ hasVector (hosted) (.hostPf 1) 2047 = true ∧ hasVector (hosted) (.hostVf 1 1) 4 = true ∧
    vectorContext (.hostVf 1 1) 4 = some (.vector 1 1 4) ∧
    gdis (hosted) = false ∧ gdis (put Fld.IRQ_CTRL_GDIS 1 0 0 (hosted)) = true ∧ claimableAt (hosted) .supervisor = [] ∧
    claimableAt (sources 0 0 0) .supervisor = [0x300, 0xFFE] ∧ claimableAt (sources 3 0 0) .management = [0x300, 0xFFE] ∧
    claimableAt (sources 2 1 4) (.vector 1 1 4) = [0x300, 0xFFE] ∧ bootHeld (hosted) (.hostVf 0 1) = false ∧ ownsManagement hub = false ∧
    inService (sources 0 0 0 (fun q => { q with inService := KMap.set (fun _ => none) [] 0xFFE (some .supervisor) })) 0xFFE = some .supervisor ∧
    inService (sources 0 0 0) 0xFFF ≠ some .supervisor := by decide +kernel

theorem test_w_InterruptEvents :
    gdis (sources 3 0 0) = false ∧ gdis (put Fld.IRQ_CTRL_GDIS 1 0 0 (sources 3 0 0)) = true ∧
    (let s := sources 3 0 0 (fun q => { q with eventReceiver := some 255 })
     s.irq.eventReceiver = some 255 ∧ Context.management ∈ liveContexts s ∧ Context.management ∉ s.irq.active) ∧
    hubOpen (hosted) hub = true ∧ mayImage hub = true ∧ mayImage (.hostVf 0 1) = false ∧ hubOpen (hosted) (.hostVf 0 1) = true ∧
    (0x800 ≤ (0xFFE : BitVec 12).toNat ∧ (0xFFE : BitVec 12).toNat < 0xFFF) ∧ (0x7FF : BitVec 12).toNat < 0x800 ∧
    fnExists (hosted) 1 1 = true ∧ (4 : BitVec 11).toNat < fnVectors (hosted).img 1 1 ∧
    (let s := sources 2 1 4 (fun q => { q with msixEnable := [fnKey 1 1], pba := [vecKey 1 1 4] })
     fnKey 1 1 ∈ s.irq.msixEnable ∧ fnKey 1 1 ∉ s.irq.msixFnMask ∧ gdis s = false) := by decide +kernel

/-! The whole -/

/-- A state whose next command runs. -/
def stepping : State := { (dirty false) with pending := [.setEventReceiver 255] }

theorem test_w_StepKeepsMemoryForm : stepping.mem.formOk = true ∧ (match step stepping with
    | .next t => decide (t.irq.eventReceiver = some 255 ∧ t.pending = [])
    | _ => false) = true := by decide +kernel

/-! Operands that the outside world cannot send, one for each check, beside operands that it can. -/

theorem test_ill_formed_accesses :
    (Instr.mmioOffendingAccess hub 0 0 false 0).wellFormed = false ∧ (Instr.mmioOffendingAccess hub 0 65 true 0).wellFormed = false ∧
    (Instr.mmioOffendingAccess hub 0 64 true 0).wellFormed = true ∧ (Instr.partialStore hub 0 [] false .clean).wellFormed = false ∧
    (Instr.partialStore hub 1 (List.replicate 63 0#8) false .clean).wellFormed = true ∧
    (Instr.partialStore hub 0 (List.replicate 64 0#8) false .clean).wellFormed = false ∧
    (Instr.partialStore hub 2 (List.replicate 63 0#8) false .clean).wellFormed = false ∧
    (Instr.windowAccess hub 63 (.partialStore [1, 2] false) .clean).wellFormed = false ∧
    (Instr.windowAccess hub 0 (.contribute { part1 with index := 2 }) .clean).wellFormed = false ∧
    (Instr.inboundMemAccess 0 0 63 (.partialStore [1, 2] false) .clean).wellFormed = false ∧
    (Instr.hostWindowAccess hub 63 (.partialStore [1, 2] false)).wellFormed = false ∧
    (Instr.redContribution hub 0 { part1 with index := 2 }).wellFormed = false ∧ (Instr.redContribution hub 0 part1).wellFormed = true := by decide

theorem test_ill_formed_supplies :
    (Instr.dieTempRead 0 (List.replicate 15 0)).wellFormed = false ∧ (Instr.dieTempRead 0 (List.replicate 16 0)).wellFormed = true ∧
    (Instr.swapInPage (some (List.replicate 1023 0#8))).wellFormed = false ∧ (Instr.swapInPage none).wellFormed = true ∧
    (Instr.submissionRead 0 [(List.replicate 63 0#8, [], 0)]).wellFormed = false ∧
    (Instr.submissionRead 0 [(List.replicate 64 0#8, [], 0)]).wellFormed = true ∧
    (Instr.flitReceive 0 (List.replicate 255 0#8)).wellFormed = false ∧ (Instr.flitReceive 0 (List.replicate 256 0#8)).wellFormed = true ∧
    (Instr.rasReread false (some [])).wellFormed = false ∧ (Instr.rasReread true none).wellFormed = true ∧
    (Instr.failoverCopyDone 0 [(0, [])]).wellFormed = false ∧ (Instr.failoverCopyDone 0 []).wellFormed = true ∧
    (Instr.bootPhaseEnd report0).wellFormed = false ∧
    (Instr.bootPhaseEnd { report0 with stackSerials := List.replicate 12 0, diodes := List.replicate 12 0 }).wellFormed = true ∧
    (Instr.hostReadCompletion 0 0 (List.replicate 65 0#8) false).wellFormed = false ∧
    (Instr.hostReadCompletion 0 0 (List.replicate 64 0#8) false).wellFormed = true ∧ (Instr.imgVerifyEnd (some [])).wellFormed = true := by decide +kernel

theorem test_ill_formed_image (b : List Byte) (h : 2 ^ 29 ≤ b.length) : (Instr.imgVerifyEnd (some b)).wellFormed = false := by
  simpa [Instr.wellFormed] using h

/-- A packet of each kind with the number of slots it has, and its OPC. -/
def kindOf (opc slots : Nat) : Packet := { pk 0 (List.replicate (16 * slots) 0#8) 1 with opc := opc }

theorem test_ill_formed_packets :
    ([(0x01, 0), (0x02, 0), (0x03, 2), (0x04, 4), (0x05, 1), (0x06, 5), (0x07, 0), (0x08, 2), (0x09, 1), (0x0A, 3), (0x10, 16), (0x11, 0), (0x12, 0),
      (0x20, 2)].all (fun e =>
      let command (p : Packet) : Instr := match e.1 with
        | 0x01 => .rdBurst p .clean
        | 0x02 => .rdLine p .clean
        | 0x03 => .wrBurst p
        | 0x04 => .wrLine p
        | 0x05 => .atomicPacket p .clean
        | 0x06 => .redPacket p
        | 0x07 => .bulkRd p
        | 0x08 => .bulkWr p
        | 0x09 => .collPull p
        | 0x0A => .collPush p
        | 0x10 => .data p
        | 0x11 => .ack p
        | 0x12 => .err p
        | _ => .mer p
      (command (kindOf e.1 e.2)).wellFormed && !(command (kindOf e.1 (e.2 + 1))).wellFormed && !(command (kindOf 0x7F e.2)).wellFormed)) = true ∧
    (Instr.bulkRd { kindOf 0x07 0 with arg := 9 }).wellFormed = false ∧ (Instr.bulkRd { kindOf 0x07 0 with arg := 0 }).wellFormed = false ∧
    (Instr.data { kindOf 0x10 0 with body := [0] }).wellFormed = false := by decide +kernel

theorem test_table_gives_no_bits : decodeTableWord 0 0 = none ∧ decodeTableWord 32 0xFFFFFFFF = none := by decide

/-! The spec's worked examples -/

/-- 00, "reading MER_COUNT while it carries": the low read gives the low half and keeps the high half. -/
theorem test_mer_count_snapshot :
    (match exec (.readLoSnapshot hub (BitVec.ofNat 41 Reg.MER_COUNT_LO) false) { ready with mer := 0x1FFFFFFF0 } with
      | .next t => decide (t.out = [⟨some hub, .value 0xFFFFFFF0⟩] ∧ KMap.get (fun _ => 0#32) t.shadow Reg.MER_COUNT_LO = 1)
      | _ => false) = true := by decide +kernel

/-- 03, "an exact FP8 dot product": the sum 2^-17, no flag set. -/
theorem test_fp8_dot :
    (match fmtOf 3 with
      | some f => decide (dot32 ⟨3, 64, 8⟩ (-36) false ([(0x7E, 0x7E), (0x01, 0x01), (0xFE, 0x7E), (0x01, 0x01)].map
          (fun e => (decodeF f e.1, decodeF f e.2))) = (0x37000000, 0))
      | none => false) = true := by decide +kernel

/-- The hashed channels of the default image: 16 of each lit stack and all 64 of each dark one. -/
def defaultChans : List Nat :=
  (List.range 12).flatMap (fun n => (List.range (if isLit n then 16 else 64)).map (fun c => n * 64 + (if isLit n then 48 else 0) + c))

/-- 04, "probing one offset under the default image". -/
theorem test_hash_probe :
    (match exec .hashLookupDone { ready with
        probe := some 0x1234567800, img := { ready.img with hash := ⟨defaultChans, List.replicate 550 0 ++ [defaultChans.getD 166 0]⟩ } } with
      | .next t => decide (t.probe = none ∧ t.regs.read Reg.HUB_HASH_RESULT = 0x8C22C29E)
      | _ => false) = true := by decide +kernel

/-- 04, "six contributions arriving out of order": the arrival of 2 takes 3 from parking and leaves one node of size 4. -/
def sixth (next : Nat) (stack : List RedNode) (parked : List (Nat × RedNode)) : State :=
  mm (fun m => { m with reductions := [⟨homeDie mem2 0x40 * 16 + sliceOf 0x40, localAddr mem2 0 0x40, .fp32, 6, false, none, next, stack, parked⟩] })

theorem test_out_of_order_contributions :
    (match exec (.redContribution hub 0x40 ⟨.fp32, 2, 6, false, none, 0, false⟩)
        (sixth 2 [⟨2, 0, false⟩] [(3, ⟨1, 0, false⟩), (5, ⟨1, 0, false⟩)]) with
      | .next t => t.mem.reductions.map (fun r => (r.next, r.stack.map (·.size), r.parked.map (·.1)))
      | _ => []) = [(4, [4], [5])] := by decide +kernel

/-- 07, "encoding one TILE". -/
theorem test_tile_slot : decodeM 0x0000310280108041 = some (.tile ⟨1, 0, 0, false, false, 0x42, 10, 0, 1, 3⟩) := by decide

/-- 15, "waking constellation 1": clusters 0 to 7 start at the first window. -/
theorem test_wake_window :
    (match exec .wakeWindow (pwr (fun p => { p with toWake := List.range 72 })) with
      | .next t => decide (t.pwr.waking = (List.range 8).map (1000 + ·) ∧ t.pwr.toWake = (List.range 64).map (8 + ·))
      | _ => false) = true := by decide +kernel

/-- 16, "a slowly drifting reference": the third window at +201 ppm makes REFCLK_A warn, the third at +501 ppm off. -/
theorem test_drifting_reference :
    ([(1000201, 2, 0, 0, 1), (1000501, 2, 2, 1, 2)].all (fun e =>
      let (edges, warn, off, old, new) := e
      let s := put Fld.MER_STATUS_LOCKED 1 0 0 (put Fld.MER_CTRL_SRC 0 0 0 ready)
      match exec (.refWindowEnd (BitVec.ofNat 32 edges) 1000012)
          { s with ckr := { s.ckr with trackA := ⟨warn, off, 0, old, false⟩ } } with
      | .next t => decide (rd t Fld.CKR_REF_STATUS_A_STATE = new ∧ rd t Fld.CKR_REF_PPM_B = 12)
      | _ => false)) = true := by decide +kernel

/-- 17, "two sources that share a vector": the claim gives THM, the source of higher PRIO; a claim with nothing to claim is counted. -/
def shared5 (events : List Field) : State :=
  let s := events.foldl (fun s f => wr s f 1) (hosted)
  { s with irq := { s.irq with cfg := KMap.set (fun _ => SrcCfg.default) (KMap.set (fun _ => SrcCfg.default) [] 0x00D ⟨6, 1, 0, 5⟩) 0x007 ⟨2, 1, 0, 5⟩ },
           img := { s.img with funcs := [⟨false, false, 6, []⟩] } }

theorem test_shared_vector :
    (match exec (.irqClaim (.hostPf 0) (.vector 5)) (shared5 [Fld.THM_EVENT_THROTTLE, Fld.RAS_EVENT_CE]) with
      | .next t => decide (t.out = [⟨some (.hostPf 0), .value 0x00D⟩])
      | _ => false) = true ∧
    (match exec (.irqClaim (.hostPf 0) (.vector 5)) (shared5 []) with
      | .next t => decide (t.out = [⟨some (.hostPf 0), .value 0xFFF⟩] ∧ rd t Fld.IRQ_SPURIOUS_COUNT = 1)
      | _ => false) = true := by decide +kernel

end Sys2Proof.Tests
end

section
/-! SUPPORT. Laws of the registers under the updates of the hub's error records and under the access codes of Table 0.2. -/

namespace Sys2Proof.Machine

/-! Registers that an update of a field leaves alone -/

theorem Regs.read_write_same (m : Regs) (off : Nat) (v : BitVec 32) : (m.write off v).read off = v := KMap.get_set_same _ _ _ _

theorem Regs.read_write_other (m : Regs) {off o : Nat} (v : BitVec 32) (h : o ≠ off) : (m.write off v).read o = m.read o :=
  KMap.get_set_other _ _ _ h

theorem read_wr_other (s : State) (f : Field) (v i j : Nat) {o : Nat} (h : o ≠ f.addr i j) :
    (wr s f v i j).regs.read o = s.regs.read o :=
  Regs.read_write_other _ _ h

theorem read_flag_other (s : State) (f : Field) (i j : Nat) {o : Nat} (h : o ≠ f.addr i j) :
    (flag s f i j).regs.read o = s.regs.read o :=
  read_wr_other s f 1 i j h

theorem read_inc_other (s : State) (f : Field) (i j : Nat) {o : Nat} (h : o ≠ f.addr i j) :
    (inc s f i j).regs.read o = s.regs.read o :=
  Regs.read_write_other _ _ h

/-- A field reads as the low bits of what was written. -/
theorem rd_wr_mod (s : State) (f : Field) (v i j : Nat) (h : f.inWord) : rd (wr s f v i j) f i j = v % 2 ^ f.width :=
  Regs.getF_setF_same s.regs f v i j h

/-- A counter field counts one up, or stays at its largest value. -/
theorem rd_inc_min (s : State) (f : Field) (i j : Nat) (h : f.inWord) :
    rd (inc s f i j) f i j = Nat.min (rd s f i j + 1) (2 ^ f.width - 1) := by
  show _ = min _ _
  rw [rd_inc_same s f i j h]
  split <;> omega

theorem srcCode_lt (who : Requester) : srcCode who < 4 := by
  cases who with
  | hostPf p | hostVf p v => exact Nat.lt_of_lt_of_le p.isLt (by decide)
  | _ => simp [srcCode]

/-! The record of an offending access (R2) -/

theorem recordOffending_frame (s : State) (who : Requester) (off : Nat) :
    recordOffending s who off = { s with regs := (recordOffending s who off).regs } := by
  unfold recordOffending; split <;> rfl

theorem recordOffending_valid (s : State) (who : Requester) (off : Nat) :
    rd (recordOffending s who off) Fld.HUB_MMIO_ERR_ADDR_VALID = 1 := by
  unfold recordOffending
  simp (disch := decide) only [rd_inc_other, rd_wr_other, rd_flag_same]

theorem recordOffending_offset (s : State) (who : Requester) (off : Nat) :
    rd (recordOffending s who off) Fld.HUB_MMIO_ERR_ADDR_OFFSET = off % 2 ^ 27 := by
  unfold recordOffending
  simp (disch := decide) only [rd_inc_other, rd_wr_other, rd_wr_mod]
  rfl

theorem recordOffending_src (s : State) (who : Requester) (off : Nat) :
    rd (recordOffending s who off) Fld.HUB_MMIO_ERR_ADDR_SRC = srcCode who := by
  unfold recordOffending
  simp (disch := decide) only [rd_inc_other, rd_wr_mod]
  exact Nat.mod_eq_of_lt (srcCode_lt who)

/-- OVERRUN is set by an access that finds VALID set, and else stays as it was. -/
theorem recordOffending_overrun (s : State) (who : Requester) (off : Nat) :
    rd (recordOffending s who off) Fld.HUB_MMIO_ERR_ADDR_OVERRUN =
      if rd s Fld.HUB_MMIO_ERR_ADDR_VALID = 1 then 1 else rd s Fld.HUB_MMIO_ERR_ADDR_OVERRUN := by
  unfold recordOffending
  simp (disch := decide) only [rd_inc_other, rd_wr_other, rd_flag_other]
  split
  · exact rd_flag_same s _ 0 0 (by decide) (by decide)
  · rfl

theorem recordOffending_count (s : State) (who : Requester) (off : Nat) :
    rd (recordOffending s who off) Fld.HUB_MMIO_ERR_CNT_COUNT =
      Nat.min (rd s Fld.HUB_MMIO_ERR_CNT_COUNT + 1) (2 ^ 32 - 1) := by
  unfold recordOffending
  simp (disch := decide) only [rd_inc_min, rd_wr_other, rd_flag_other]
  split
  · simp (disch := decide) only [rd_flag_other]; rfl
  · rfl

theorem recordOffending_read_other (s : State) (who : Requester) (off : Nat) {o : Nat} (ha : o ≠ Reg.HUB_MMIO_ERR_ADDR)
    (hc : o ≠ Reg.HUB_MMIO_ERR_CNT) : (recordOffending s who off).regs.read o = s.regs.read o := by
  unfold recordOffending
  rw [read_inc_other _ _ _ _ hc, read_wr_other _ _ _ _ _ ha, read_wr_other _ _ _ _ _ ha, read_flag_other _ _ _ _ ha]
  split
  · exact read_flag_other _ _ _ _ ha
  · rfl

/-! The record of an access that timed out or was returned unstable (R411, R412) -/

theorem recordXstat_flag (s : State) {f : Field} (who : Requester) (off : Nat) (hf : f.inWord) (hw : 0 < f.width)
    (ha : f.apart Fld.CKR_EVENT_XSTAT 0 0 0 0) : rd (recordXstat s f who off) f = 1 := by
  unfold recordXstat
  rw [rd_flag_other _ _ _ _ _ _ _ (by decide) ha, rd_flag_same _ _ _ _ hf hw]

theorem recordXstat_offset (s : State) {f : Field} (who : Requester) (off : Nat) (hf : f.inWord)
    (ha : Fld.CKR_XSTAT_OFFSET.apart f 0 0 0 0) : rd (recordXstat s f who off) Fld.CKR_XSTAT_OFFSET = off % 2 ^ 27 := by
  unfold recordXstat
  rw [rd_flag_other _ _ _ _ _ _ _ (by decide) (by decide), rd_flag_other _ _ _ _ _ _ _ hf ha,
    rd_wr_other _ _ _ _ _ _ _ _ (by decide) (by decide), rd_wr_mod _ _ _ _ _ (by decide)]
  rfl

theorem recordXstat_src (s : State) {f : Field} (who : Requester) (off : Nat) (hf : f.inWord)
    (ha : Fld.CKR_XSTAT_SRC.apart f 0 0 0 0) : rd (recordXstat s f who off) Fld.CKR_XSTAT_SRC = srcCode who := by
  unfold recordXstat
  rw [rd_flag_other _ _ _ _ _ _ _ (by decide) (by decide), rd_flag_other _ _ _ _ _ _ _ hf ha,
    rd_wr_same _ _ _ _ _ (by decide) (srcCode_lt who)]

theorem recordXstat_event (s : State) (f : Field) (who : Requester) (off : Nat) :
    rd (recordXstat s f who off) Fld.CKR_EVENT_XSTAT = 1 :=
  rd_flag_same _ _ 0 0 (by decide) (by decide)

theorem recordXstat_read_other (s : State) {f : Field} (who : Requester) (off : Nat) {o : Nat} (hf : f.addr = Reg.CKR_XSTAT)
    (hx : o ≠ Reg.CKR_XSTAT) (he : o ≠ Reg.CKR_EVENT) : (recordXstat s f who off).regs.read o = s.regs.read o := by
  unfold recordXstat
  rw [read_flag_other _ _ _ _ he, read_flag_other _ _ _ _ (hf ▸ hx), read_wr_other _ _ _ _ _ hx, read_wr_other _ _ _ _ _ hx]

/-! Table 0.2: what a write does to a field of its register -/

/-- The value a field takes from its old value and the bits written to it, by its access code. -/
def Access.written : Access → Nat → Nat → Nat
  | .rw, _, new => new
  | .w1c, old, new => old ^^^ (old &&& new)
  | .w1s, old, new => old ||| new
  | _, old, _ => old

/-- Two fields of one register share no bit. -/
abbrev Field.bitsApart (f g : Field) : Prop := f.lo + f.width ≤ g.lo ∨ g.lo + g.width ≤ f.lo

theorem Field.bitsApart.symm {f g : Field} (h : f.bitsApart g) : g.bitsApart f := Or.symm h

theorem getBits_lt (x : BitVec 32) (lo w : Nat) : getBits x lo w < 2 ^ w := Nat.mod_lt _ (Nat.two_pow_pos w)

theorem rd_lt (s : State) (f : Field) (i j : Nat) : rd s f i j < 2 ^ f.width := getBits_lt _ _ _

theorem getBits_word (x : BitVec 32) : getBits x 0 32 = x.toNat := by
  simp [getBits, Nat.mod_eq_of_lt x.isLt]

theorem getBits_one (x : BitVec 32) (i : Nat) : getBits x i 1 = if x.getLsbD i then 1 else 0 := by
  simp only [getBits, BitVec.getLsbD, Nat.testBit_eq_decide_div_mod_eq, decide_eq_true_eq]
  split <;> omega

theorem rd_word (s : State) (f : Field) (i j : Nat) (hl : f.lo = 0) (hw : f.width = 32) :
    rd s f i j = (s.regs.read (f.addr i j)).toNat := by
  unfold rd Regs.getF
  rw [hl, hw, getBits_word]

/-- A written field takes the value of its access code. -/
theorem getBits_writeField_same (w v : BitVec 32) {f : Field} (h : f.inWord) :
    getBits (writeField w v f) f.lo f.width = f.acc.written (getBits v f.lo f.width) (getBits w f.lo f.width) := by
  have ho := getBits_lt v f.lo f.width
  have hn := getBits_lt w f.lo f.width
  unfold writeField
  cases f.acc with
  | rw => exact (getBits_putBits_same v _ h).trans (Nat.mod_eq_of_lt hn)
  | w1c => exact (getBits_putBits_same v _ h).trans (Nat.mod_eq_of_lt (Nat.xor_lt_two_pow ho (Nat.and_lt_two_pow _ hn)))
  | w1s => exact (getBits_putBits_same v _ h).trans (Nat.mod_eq_of_lt (Nat.or_lt_two_pow ho hn))
  | ro | wo | rc => rfl

/-- A written field leaves the others of its register alone. -/
theorem getBits_writeField_other (w v : BitVec 32) {f g : Field} (h : g.inWord) (hd : f.bitsApart g) :
    getBits (writeField w v g) f.lo f.width = getBits v f.lo f.width := by
  unfold writeField
  cases g.acc with
  | rw | w1c | w1s => exact getBits_putBits_other v _ h hd
  | ro | wo | rc => rfl

theorem getBits_foldl_writeField_other (w : BitVec 32) {f : Field} : ∀ (fs : List Field) (v : BitVec 32), (∀ g ∈ fs, g.inWord) →
    (∀ g ∈ fs, f.bitsApart g) → getBits (fs.foldl (writeField w) v) f.lo f.width = getBits v f.lo f.width
  | [], _, _, _ => rfl
  | g :: fs, v, hw, hd => by
    rw [List.forall_mem_cons] at hw hd
    rw [List.foldl_cons, getBits_foldl_writeField_other w fs _ hw.2 hd.2, getBits_writeField_other w v hw.1 hd.1]

/-- Under a write to a register each of its fields takes the value of its own access code. -/
theorem getBits_foldl_writeField (w : BitVec 32) {f : Field} : ∀ (fs : List Field) (v : BitVec 32), (∀ g ∈ fs, g.inWord) →
    fs.Pairwise Field.bitsApart → f ∈ fs → getBits (fs.foldl (writeField w) v) f.lo f.width =
      f.acc.written (getBits v f.lo f.width) (getBits w f.lo f.width)
  | g :: fs, v, hw, hd, hf => by
    rw [List.forall_mem_cons] at hw
    rw [List.pairwise_cons] at hd
    rw [List.foldl_cons]
    obtain rfl | hf := List.mem_cons.1 hf
    · rw [getBits_foldl_writeField_other w fs _ hw.2 hd.1, getBits_writeField_same w v hw.1]
    · rw [getBits_foldl_writeField w fs _ hw.2 hd.2 hf, getBits_writeField_other w v hw.1 (hd.1 f hf).symm]

/-- The fields of the register at an offset lie in its word and share no bit. -/
abbrev fieldsOk (off : Nat) : Prop := (∀ f ∈ fieldsAt off, f.inWord) ∧ (fieldsAt off).Pairwise Field.bitsApart

theorem Regs.getF_swWrite (m : Regs) {off : Nat} (w : BitVec 32) {f : Field} {i j : Nat} (hok : fieldsOk off) (hf : f ∈ fieldsAt off)
    (ha : f.addr i j = off) : (m.swWrite off w).getF f i j = f.acc.written (m.getF f i j) (getBits w f.lo f.width) := by
  unfold Regs.getF Regs.swWrite
  rw [ha, Regs.read_write_same, getBits_foldl_writeField w _ _ hok.1 hok.2 hf]

theorem Regs.read_swWrite_other (m : Regs) {off o : Nat} (w : BitVec 32) (h : o ≠ off) : (m.swWrite off w).read o = m.read o :=
  Regs.read_write_other m _ h

theorem foldl_writeField_ro (w : BitVec 32) : ∀ (fs : List Field) (v : BitVec 32), (∀ f ∈ fs, f.acc = .ro) →
    fs.foldl (writeField w) v = v
  | [], _, _ => rfl
  | f :: fs, v, h => by
    rw [List.forall_mem_cons] at h
    have hv : writeField w v f = v := by unfold writeField; rw [h.1]
    rw [List.foldl_cons, hv, foldl_writeField_ro w fs v h.2]

/-- A write to a register of RO fields changes no register. -/
theorem Regs.read_swWrite_ro (m : Regs) {off : Nat} (w : BitVec 32) (h : ∀ f ∈ fieldsAt off, f.acc = .ro) (o : Nat) :
    (m.swWrite off w).read o = m.read o := by
  unfold Regs.swWrite
  rw [foldl_writeField_ro w _ _ h]
  by_cases e : o = off
  · rw [e, Regs.read_write_same]
  · exact Regs.read_write_other m _ e

/-- No field of the register at an offset is a VALID whose clearing clears an OVERRUN too. -/
abbrev noValid (off : Nat) : Prop := validFields.find? (fun e => (e.1.at? off).isSome) = none

theorem clearOverrun_noValid (m : Regs) {off : Nat} (v : BitVec 32) (h : noValid off) : clearOverrun m off v = m := by
  unfold clearOverrun; rw [h]

theorem plainWrite_regs (s : State) {off : Nat} (v : BitVec 32) (h : noValid off) :
    (plainWrite s off v).regs = s.regs.swWrite off v := clearOverrun_noValid _ v h

theorem rd_of_swWrite {s t : State} {off : Nat} {v : BitVec 32} {f : Field} {i j : Nat} (hr : t.regs = s.regs.swWrite off v)
    (hok : fieldsOk off) (hf : f ∈ fieldsAt off) (ha : f.addr i j = off) :
    rd t f i j = f.acc.written (rd s f i j) (getBits v f.lo f.width) := by
  unfold rd
  rw [hr, Regs.getF_swWrite _ v hok hf ha]

/-! Table 0.2: what a read returns, and what it leaves -/

theorem Regs.swRead_noWo (m : Regs) {off : Nat} (h : ∀ f ∈ fieldsAt off, f.acc ≠ .wo) : m.swRead off = m.read off := by
  have key (fs : List Field) (v : BitVec 32) (h : ∀ f ∈ fs, f.acc ≠ .wo) :
      fs.foldl (fun v f => if f.acc = .wo then putBits v f.lo f.width 0 else v) v = v := by
    induction fs with
    | nil => rfl
    | cons f fs ih =>
      rw [List.forall_mem_cons] at h
      rw [List.foldl_cons, if_neg h.1, ih h.2]
  exact key _ _ h

/-- A read of a register that is one RC field clears the field. -/
theorem Regs.afterRead_rc (m : Regs) {off : Nat} {f : Field} (hf : fieldsAt off = [f]) (ha : f.addr = off) (hr : f.acc = .rc) :
    m.afterRead off = m.setF f 0 := by
  subst ha
  simp [Regs.afterRead, Regs.setF, hf, hr]

end Sys2Proof.Machine
end

section
/-! SUPPORT. What an MMIO access meets before its register, and what a read of a hub register returns and leaves. -/

namespace Sys2Proof.Machine

/-! What an access meets before its register -/

@[simp] theorem bootHeld_quiet (s : State) (who : Requester) : bootHeld (quiet s) who = bootHeld s who := rfl
@[simp] theorem accessStopped_quiet (s : State) (who : Requester) (off : Nat) (wide : Bool) :
    accessStopped (quiet s) who off wide = accessStopped s who off wide := rfl

theorem resolve_misaligned (s : State) (who : Requester) {off : Nat} (h : off % 4 ≠ 0) : resolve s who off = none :=
  if_pos (.inl h)

theorem accessStopped_misaligned (s : State) (who : Requester) {off : Nat} (wide : Bool) (h : off % 4 ≠ 0) :
    accessStopped s who off wide = false := by
  unfold accessStopped
  rw [if_pos (.inl h)]
  rfl

/-- An access outside the aliased blocks that no boot and no stopped domain holds back reaches its register. -/
theorem mmioGate_open {s : State} {who : Requester} {off : Nat} (write : Bool) {wide : Bool} (v : BitVec 64) (hb : bootHeld s who = false)
    (ha : aliasNo off = none) (hs : accessStopped s who off wide = false) : mmioGate s who off write wide v = none := by
  unfold mmioGate aliasHeld
  simp [hb, ha, hs]

/-- An access outside the aliased blocks into a domain that does not answer times out, and is recorded (R412). -/
theorem mmioGate_stopped {s : State} {who : Requester} {off : Nat} (write : Bool) {wide : Bool} (v : BitVec 64)
    (hb : bootHeld s who = false) (ha : aliasNo off = none) (hs : accessStopped s who off wide = true) :
    mmioGate s who off write wide v = some (reply (recordXstat s Fld.CKR_XSTAT_ACCESS_TIMEOUT who off) who .timeout) := by
  unfold mmioGate aliasHeld
  simp [hb, ha, hs]

/-- A misaligned 32-bit read outside the aliased blocks reads 0 and has no effect but its record (R2). -/
theorem mmioRead_misaligned {s : State} {who : Requester} {off : Nat} (hb : bootHeld s who = false) (ha : aliasNo off = none)
    (h : off % 4 ≠ 0) : mmioRead s who off false = reply (recordOffending s who off) who (.value 0) := by
  have hg := mmioGate_open false 0#64 hb ha (accessStopped_misaligned s who false h)
  have hn : ¬(off = Reg.HUB_HASH_RESULT ∧ s.probe.isSome) := fun ⟨e, _⟩ => h (e ▸ rfl)
  have ho : noteOffending s who off false = recordOffending s who off := by
    simp [noteOffending, offendingAt, resolve_misaligned s who h]
  unfold mmioRead
  simp only [hg, if_neg hn, ho, readHalf, resolve_misaligned _ who h, Bool.false_eq_true, if_false]
  rfl

/-! Reads of hub registers -/

theorem resolve_eq_some {s : State} {who : Requester} {off o : Nat} (ha : aliasNo off = none) (h : resolve s who off = some o) :
    o = off := by
  unfold resolve at h
  rw [ha] at h
  split at h
  · cases h
  · exact (Option.some.inj (Option.ite_none_right_eq_some.1 h).2).symm

theorem aliasNo_below {off : Nat} (h : off < 0x3000000) : aliasNo off = none := if_neg (by omega)

theorem stoppedAt_hub {s : State} {off : Nat} (hs : s.pwr.standby = false) (h : off < 0x2000000) : stoppedAt s off = false := by
  have e : ¬(0x2000000 ≤ off) := by omega
  unfold stoppedAt
  simp only [hs, e, decide_false, Bool.false_and, Bool.false_eq_true, if_false]

/-- Out of STANDBY a register of the hub or of a stack answers. -/
theorem accessStopped_hub {s : State} (who : Requester) {off : Nat} (wide : Bool) (hs : s.pwr.standby = false)
    (h : off + 4 < 0x2000000) : accessStopped s who off wide = false := by
  have answers (o : Nat) (ho : o < 0x2000000) : (resolve s who o).any (stoppedAt s) = false := by
    cases hr : resolve s who o with
    | none => rfl
    | some o' =>
      obtain rfl := resolve_eq_some (aliasNo_below (by omega)) hr
      exact stoppedAt_hub hs ho
  have h0 := answers off (by omega)
  have h4 := answers (off + 4) h
  unfold accessStopped
  split
  · rfl
  · split <;> simp [h0, h4]

/-- A hub register that every requester reads, and whose read waits for nothing and claims nothing (R97, R430, R437). -/
abbrev readableHubReg (off : Nat) : Prop :=
  hubReg off ∧ (off < 0x201000 ∨ 0x302000 ≤ off) ∧ off ≠ Reg.IRQ_CLAIM_SUP ∧ off ≠ Reg.IRQ_CLAIM_MGT ∧ off ≠ Reg.HUB_HASH_RESULT

theorem foreign_readable (s : State) (who : Requester) {off : Nat} (h : readableHubReg off) : foreign s who off = false := by
  obtain ⟨⟨-, hlt, -⟩, ho, -⟩ := h
  cases who with
  | hostVf p v =>
    have h1 : ¬(0x4000000 ≤ off) := by omega
    have h2 : ¬(0x2000000 ≤ off) := by omega
    have h3 : ¬(0x201000 ≤ off ∧ off < 0x209000) := by omega
    have h4 : ¬(0x209000 ≤ off ∧ off < 0x300000) := by omega
    have h5 : ¬(0x301000 ≤ off ∧ off < 0x302000) := by omega
    simp only [foreign, if_neg h1, if_neg h2, if_neg h3, if_neg h4, if_neg h5, Option.any_none]
  | _ => rfl

theorem claimAt_readable (s : State) (who : Requester) {off : Nat} (h : readableHubReg off) : claimAt s who off = none := by
  obtain ⟨⟨-, -, -, hv, -⟩, -, hs, hm, -⟩ := h
  simp only [claimAt, if_neg hs, if_neg hm, hv]

/-- A 32-bit read of a hub register that no boot and no STANDBY holds back. -/
theorem mmioRead_hub {s : State} {who : Requester} {off : Nat} (hb : bootHeld s who = false) (hs : s.pwr.standby = false)
    (h : readableHubReg off) : mmioRead s who off false =
      reply (readReg s who off).1 who (.value (BitVec.ofNat 64 (readReg s who off).2.toNat)) := by
  obtain ⟨hr, -, -, -, hh⟩ := h
  have hlt : off < 0x1000000 := hr.2.1
  have hg := mmioGate_open false 0#64 hb (aliasNo_below (off := off) (by omega)) (accessStopped_hub who false hs (by omega))
  have hn : noteOffending s who off false = s := by simp [noteOffending, offendingAt, resolve_hubReg s who hr]
  unfold mmioRead
  simp only [hg, hh, false_and, if_false, hn, readHalf, resolve_hubReg s who hr, Bool.false_eq_true]

/-- The low half of a pair loads its shadow, the high half is read from it, and any other register is read as it stands (R4, Table 0.2). -/
theorem readReg_readable (s : State) (who : Requester) {off : Nat} (h : readableHubReg off) : readReg s who off =
    if isPairLo off then ({ s with shadow := KMap.set (fun _ => 0#32) s.shadow off (regValue s (off + 4)) }, regValue s off)
    else if decide (off % 8 = 4) && isPairLo (off - 4) then (s, KMap.get (fun _ => 0#32) s.shadow (off - 4))
    else ({ s with regs := s.regs.afterRead off }, regValue s off) := by
  have hc : ¬(0x4000000 ≤ off ∧ (off % 65536 = 0x28 ∨ off % 65536 = 0x2C)) := by
    have := h.1.2.1
    omega
  unfold readReg
  simp only [foreign_readable s who h, claimAt_readable s who h, if_neg hc, Bool.false_eq_true, if_false]

/-! These registers report no other state: what is read is the stored word, as they have no WO field. -/

theorem regValue_merSetLo (s : State) : regValue s Reg.MER_SET_LO = s.regs.read Reg.MER_SET_LO :=
  Regs.swRead_noWo s.regs (by decide)

theorem regValue_merSetHi (s : State) : regValue s Reg.MER_SET_HI = s.regs.read Reg.MER_SET_HI :=
  Regs.swRead_noWo s.regs (by decide)

theorem regValue_errCnt (s : State) : regValue s Reg.HUB_MMIO_ERR_CNT = s.regs.read Reg.HUB_MMIO_ERR_CNT :=
  Regs.swRead_noWo s.regs (by decide)

end Sys2Proof.Machine
end

section
/-! PROOFS. MMIO accesses that offend or time out (O2), and the access codes and the management endpoint (O3). -/

namespace Sys2Proof.Machine

/-! MMIO_OFFENDING_ACCESS and ACCESS_TIMEOUT -/

theorem exec_mmioOffendingAccess (who : Requester) (off : BitVec 41) (size : Nat) (write : Bool) (v : BitVec 64) (s : State) :
    exec (.mmioOffendingAccess who off size write v) s = execMmioOffendingAccess who off size write v s := rfl

theorem exec_accessTimeout (who : Requester) (off : BitVec 41) (wide write : Bool) (s : State) :
    exec (.accessTimeout who off wide write) s = execAccessTimeout who off wide write s := rfl

/-- A size that R2 does not allow: the access has no effect but its record, and a read answers 0. -/
theorem exec_mmioOffendingAccess_size (s : State) (who : Requester) (off : BitVec 41) {size : Nat} (write : Bool) (v : BitVec 64)
    (hb : bootHeld s who = false) (h4 : size ≠ 4) (h8 : size ≠ 8) : exec (.mmioOffendingAccess who off size write v) s =
      .next (reply (recordOffending (quiet s) who off.toNat) who (if write then .done else .value 0)) := by
  rw [exec_mmioOffendingAccess]
  simp [execMmioOffendingAccess, h4, h8, hb]

/-- A misaligned 32-bit read outside the aliased blocks has no effect but its record, and answers 0. -/
theorem exec_mmioOffendingAccess_misaligned (s : State) (who : Requester) (off : BitVec 41) (v : BitVec 64)
    (hb : bootHeld s who = false) (ha : aliasNo off.toNat = none) (h : off.toNat % 4 ≠ 0) :
    exec (.mmioOffendingAccess who off 4 false v) s = .next (reply (recordOffending (quiet s) who off.toNat) who (.value 0)) := by
  rw [exec_mmioOffendingAccess]
  simp [execMmioOffendingAccess, mmioRead_misaligned (s := quiet s) hb ha h]

/-- A read and a write outside the aliased blocks into a domain that does not answer end alike. -/
theorem exec_accessTimeout_stopped (s : State) (who : Requester) (off : BitVec 41) (wide write : Bool) (hb : bootHeld s who = false)
    (ha : aliasNo off.toNat = none) (hs : accessStopped s who off.toNat wide = true) : exec (.accessTimeout who off wide write) s =
      .next (reply (recordXstat (quiet s) Fld.CKR_XSTAT_ACCESS_TIMEOUT who off.toNat) who .timeout) := by
  have hg (w : Bool) := mmioGate_stopped (s := quiet s) w 0#64 hb ha hs
  rw [exec_accessTimeout]
  cases write <;> simp [execAccessTimeout, mmioWrite, mmioRead, hs, hg]

/-- Settles O2: each access answers its requester and leaves its record, whose fields and frame are those of the record's laws. -/
theorem offendingAccesses : Obligations.OffendingAccesses := by
  unfold Obligations.OffendingAccesses
  refine ⟨fun s who off size write v hb h => ?_, fun s who off wide write hb ha hs => ?_⟩
  · refine ⟨reply (recordOffending (quiet s) who off.toNat) who (if write then .done else .value 0), ?_, ?_,
      recordOffending_valid .., recordOffending_offset .., recordOffending_src .., fun h1 => ?_, fun h1 => ?_,
      recordOffending_count .., fun o ha hc => recordOffending_read_other _ _ _ ha hc⟩
    · obtain ⟨h4, h8⟩ | ⟨rfl, h4, rfl, ha⟩ := h
      · exact exec_mmioOffendingAccess_size s who off write v hb h4 h8
      · exact exec_mmioOffendingAccess_misaligned s who off v hb ha h4
    · rw [recordOffending_frame]; rfl
    · exact (recordOffending_overrun ..).trans (if_pos h1)
    · exact (recordOffending_overrun ..).trans (if_neg h1)
  · refine ⟨_, exec_accessTimeout_stopped s who off wide write hb ha hs, rfl, ?_⟩
    simp only [rd_reply, reply_regs]
    exact ⟨recordXstat_flag _ _ _ (by decide) (by decide) (by decide), recordXstat_offset _ _ _ (by decide) (by decide),
      recordXstat_src _ _ _ (by decide) (by decide), recordXstat_event ..,
      fun o hx he => recordXstat_read_other _ _ _ rfl hx he⟩

/-! The snapshot rule and the read that clears (R4, Table 0.2) -/

/-- A read of MER_SET_LO loads the shadow of MER_SET_HI. -/
theorem exec_read_merSetLo (s : State) (who : Requester) (hb : bootHeld s who = false) (hs : s.pwr.standby = false) :
    exec (.readLoSnapshot who (BitVec.ofNat 41 Reg.MER_SET_LO) false) s = .next { s with
      out := [⟨some who, .value (BitVec.ofNat 64 (rd s Fld.MER_SET_LO_COUNT))⟩]
      shadow := KMap.set (fun _ => 0#32) s.shadow Reg.MER_SET_LO (s.regs.read Reg.MER_SET_HI) } := by
  have hp : readableHubReg Reg.MER_SET_LO := by decide
  show Host.Outcome.next (mmioRead (quiet s) who Reg.MER_SET_LO false) = _
  rw [mmioRead_hub (s := quiet s) hb hs hp, readReg_readable _ who hp, if_pos (by decide),
    show Reg.MER_SET_LO + 4 = Reg.MER_SET_HI from rfl, regValue_merSetLo, regValue_merSetHi, rd_word s _ 0 0 rfl rfl]
  rfl

/-- A read of MER_SET_HI returns its shadow. -/
theorem exec_read_merSetHi (s : State) (who : Requester) (hb : bootHeld s who = false) (hs : s.pwr.standby = false) :
    exec (.readClear who (BitVec.ofNat 41 Reg.MER_SET_HI) false false) s = .next { s with
      out := [⟨some who, .value ((KMap.get (fun _ => 0#32) s.shadow Reg.MER_SET_LO).setWidth 64)⟩] } := by
  have hp : readableHubReg Reg.MER_SET_HI := by decide
  show Host.Outcome.next (mmioRead (quiet s) who Reg.MER_SET_HI false) = _
  rw [mmioRead_hub (s := quiet s) hb hs hp, readReg_readable _ who hp, if_neg (by decide), if_pos (by decide),
    show Reg.MER_SET_HI - 4 = Reg.MER_SET_LO from rfl, BitVec.ofNat_toNat]
  rfl

/-- A read of HUB_MMIO_ERR_CNT returns the count and clears it. -/
theorem exec_read_errCnt (s : State) (who : Requester) (hb : bootHeld s who = false) (hs : s.pwr.standby = false) :
    exec (.readClear who (BitVec.ofNat 41 Reg.HUB_MMIO_ERR_CNT) false false) s = .next { wr s Fld.HUB_MMIO_ERR_CNT_COUNT 0 with
      out := [⟨some who, .value (BitVec.ofNat 64 (rd s Fld.HUB_MMIO_ERR_CNT_COUNT))⟩] } := by
  have hp : readableHubReg Reg.HUB_MMIO_ERR_CNT := by decide
  have hf : fieldsAt Reg.HUB_MMIO_ERR_CNT = [Fld.HUB_MMIO_ERR_CNT_COUNT] := by decide
  show Host.Outcome.next (mmioRead (quiet s) who Reg.HUB_MMIO_ERR_CNT false) = _
  rw [mmioRead_hub (s := quiet s) hb hs hp, readReg_readable _ who hp, if_neg (by decide), if_neg (by decide), regValue_errCnt,
    Regs.afterRead_rc _ hf rfl rfl, rd_word s _ 0 0 rfl rfl]
  rfl

/-! Register writes (Table 0.2) -/

/-- A REGISTER_WRITE of a hub register that nothing holds back. -/
theorem exec_registerWrite_hub {s : State} {who : Requester} {off : Nat} (v : BitVec 32) (ho : hubOpen s who = true) (h : hubReg off) :
    exec (.registerWrite who (BitVec.ofNat 41 off) false (v.setWidth 64)) s =
      .next (reply (writeReg (quiet s) who off v .plain) who .done) := by
  have hoff : (BitVec.ofNat 41 off).toNat = off := by
    have := h.2.1
    rw [BitVec.toNat_ofNat, Nat.mod_eq_of_lt (by omega)]
  have hv : (v.setWidth 64).setWidth 32 = v := by simp
  show Host.Outcome.next (mmioWrite (quiet s) who (BitVec.ofNat 41 off).toNat false (v.setWidth 64) .plain) = _
  rw [hoff, mmioWrite_hub (quiet s) who _ _ ((hubOpen_quiet s who).trans ho) h, hv]

/-- A hub register that takes every requester's writes by the codes of Table 0.2 alone, and has no VALID of an error record. -/
abbrev plainHubReg (off : Nat) : Prop :=
  hubReg off ∧ noValid off ∧ ∀ (s : State) (who : Requester) (v : BitVec 32), writeReg s who off v .plain = plainWrite s off v

/-- What such a write leaves: its own register by the access codes of its fields, and the contexts noted as live. -/
theorem exec_registerWrite_plain {s : State} {who : Requester} {off : Nat} (v : BitVec 32) (ho : hubOpen s who = true)
    (h : plainHubReg off) : ∃ t, exec (.registerWrite who (BitVec.ofNat 41 off) false (v.setWidth 64)) s = .next t ∧
      t = { s with out := [⟨some who, .done⟩], regs := t.regs, irq := { s.irq with active := t.irq.active } } ∧
      t.regs = s.regs.swWrite off v := by
  obtain ⟨hr, hv, hw⟩ := h
  refine ⟨_, exec_registerWrite_hub v ho hr, ?_, ?_⟩
  · rw [hw]; rfl
  · rw [hw, reply_regs, plainWrite_regs _ v hv, quiet_regs]

theorem plainHubReg_zfillBaseLo : plainHubReg Reg.HUB_ZFILL_BASE_LO := ⟨by decide, by decide, fun _ _ _ => rfl⟩
theorem plainHubReg_thmEvent : plainHubReg Reg.THM_EVENT := ⟨by decide, by decide, fun _ _ _ => rfl⟩
theorem plainHubReg_hubId : plainHubReg Reg.HUB_ID := ⟨by decide, by decide, fun _ _ _ => rfl⟩

/-- A one-bit W1C field is cleared where a 1 is written, and else stays. -/
theorem written_w1c_bit {old : Nat} (h : old < 2) (b : Bool) : Access.w1c.written old (if b then 1 else 0) = if b then 0 else old := by
  obtain rfl | rfl : old = 0 ∨ old = 1 := by omega
  all_goals cases b <;> rfl

/-! The management endpoint (R442) -/

theorem toNat_mctpOffset (off : BitVec 32) : (off.setWidth 41).toNat = off.toNat := by
  rw [BitVec.toNat_setWidth, Nat.mod_eq_of_lt (by omega)]

/-- A read of the management port at an offset that a MCTP message can give. -/
theorem exec_readClear_mgmt (secured wide : Bool) (off : BitVec 32) (s : State) :
    exec (.readClear (.mgmt secured) (off.setWidth 41) wide false) s = .next (mmioRead (quiet s) (.mgmt secured) off.toNat wide) := by
  rw [← toNat_mctpOffset]
  rfl

/-- A write of the management port at an offset that a MCTP message can give. -/
theorem exec_registerWrite_mgmt (secured wide : Bool) (off : BitVec 32) (v : BitVec 64) (s : State) :
    exec (.registerWrite (.mgmt secured) (off.setWidth 41) wide v) s =
      .next (mmioWrite (quiet s) (.mgmt secured) off.toNat wide v .plain) := by
  rw [← toNat_mctpOffset]
  rfl

/-- A write outside a secured session to a SEALED part is counted as an authentication failure and has no other effect. -/
theorem mmioWrite_sealed {s : State} {off : Nat} (wide : Bool) (v : BitVec 64) (env : WriteEnv) (ho : off < 0x1000000)
    (hs : s.pwr.standby = false) (ha : s.saf.alarm = false) (hl : lifeCycle s = 2) :
    mmioWrite s (.mgmt false) off wide v env = secFail s none := by
  have hb : bootHeld s (.mgmt false) = false := Bool.and_false _
  have hg := mmioGate_open true v hb (aliasNo_below (off := off) (by omega)) (accessStopped_hub (.mgmt false) wide hs (by omega))
  have hm : mgmtRefused s (.mgmt false) = some (secFail s none) := by simp [mgmtRefused, ha, hl]
  simp only [mmioWrite, hg, hm]

/-- Settles O3: the reads by the snapshot rule and the RC code, the writes by the law of the access codes, and the management
endpoint's accesses as those of the management port. -/
theorem registerAccessCodes : Obligations.RegisterAccessCodes := by
  unfold Obligations.RegisterAccessCodes
  refine ⟨fun s who hb hs => ?_, fun s who v ho => ⟨?_, ?_, ?_⟩, fun s secured off v w => ?_, fun s off v w ho hs ha hl => ?_⟩
  · exact ⟨exec_read_merSetLo s who hb hs, exec_read_merSetHi s who hb hs, _, exec_read_errCnt s who hb hs, rfl,
      rd_wr_same s _ 0 0 0 (by decide) (by decide), fun o h => read_wr_other s _ 0 0 0 h⟩
  · obtain ⟨t, he, hf, hr⟩ := exec_registerWrite_plain v ho plainHubReg_zfillBaseLo
    refine ⟨t, he, hf, ?_, fun o h => by rw [hr, Regs.read_swWrite_other _ v h]⟩
    exact (rd_of_swWrite hr (by decide) (by decide) rfl).trans (getBits_word v)
  · obtain ⟨t, he, hf, hr⟩ := exec_registerWrite_plain v ho plainHubReg_thmEvent
    refine ⟨t, he, hf, fun f hmem => ?_, fun o h => by rw [hr, Regs.read_swWrite_other _ v h]⟩
    have hall : ∀ f ∈ [Fld.THM_EVENT_SUSPECT, Fld.THM_EVENT_FAILED, Fld.THM_EVENT_THROTTLE, Fld.THM_EVENT_READOUT, Fld.THM_EVENT_LIMIT],
        f ∈ fieldsAt Reg.THM_EVENT ∧ f.addr = Reg.THM_EVENT ∧ f.acc = .w1c ∧ f.width = 1 := by decide
    obtain ⟨hin, haddr, hacc, hwidth⟩ := hall f hmem
    have hold : rd s f < 2 := by
      have := rd_lt s f 0 0
      rwa [hwidth] at this
    rw [rd_of_swWrite hr (by decide) hin haddr, hacc, hwidth, getBits_one, written_w1c_bit hold]
  · obtain ⟨t, he, hf, hr⟩ := exec_registerWrite_plain v ho plainHubReg_hubId
    exact ⟨t, he, hf, fun o => by rw [hr, Regs.read_swWrite_ro _ v (by decide)]⟩
  · exact ⟨⟨_, rfl, exec_readClear_mgmt ..⟩, ⟨_, rfl, exec_readClear_mgmt ..⟩, ⟨_, rfl, exec_registerWrite_mgmt ..⟩,
      ⟨_, rfl, exec_registerWrite_mgmt ..⟩⟩
  · have hw (wide : Bool) (x : BitVec 64) := mmioWrite_sealed (s := quiet s) wide x .plain ho hs ha hl
    exact List.forall_mem_cons.2 ⟨congrArg _ (hw false _), List.forall_mem_singleton.2 (congrArg _ (hw true w))⟩

end Sys2Proof.Machine
end

section
/-! SUPPORT. The register file right after reset: each field reads the reset value of its table (R7). Laws that a dropped access needs:
the registers outside its record, and the length of a line. -/

namespace Sys2Proof.Machine

/-! One field of a word put together from the reset values -/

theorem testBit_getBits (x : BitVec 32) (lo w k : Nat) : (getBits x lo w).testBit k = (decide (k < w) && x.getLsbD (lo + k)) := by
  unfold getBits
  rw [Nat.testBit_mod_two_pow, Nat.testBit_div_two_pow, Nat.add_comm, BitVec.getLsbD]

/-- The word of a register with the reset value of one of its fields put in. -/
def Field.resetInto (off : Nat) (v : BitVec 32) (f : Field) : BitVec 32 := v ||| (BitVec.ofNat 32 (f.resetAt off) <<< f.lo)

theorem regReset_eq_foldl (off : Nat) : regReset off = (fieldsAt off).foldl (Field.resetInto off) 0#32 := rfl

/-- The field has room for its reset value. -/
abbrev Field.holdsReset (f : Field) (off : Nat) : Prop := f.resetAt off < 2 ^ f.width

theorem getBits_resetInto_other {f g : Field} {off : Nat} (v : BitVec 32) (hg : g.holdsReset off) (hd : f.bitsApart g) :
    getBits (g.resetInto off v) f.lo f.width = getBits v f.lo f.width := by
  refine Nat.eq_of_testBit_eq fun k => ?_
  simp only [testBit_getBits, Field.resetInto, BitVec.getLsbD_or, BitVec.getLsbD_shiftLeft, BitVec.getLsbD_ofNat]
  by_cases hk : k < f.width
  · obtain hl | hl := hd
    · have hlt : f.lo + k < g.lo := by omega
      simp [hlt]
    · have hr : (g.resetAt off).testBit (f.lo + k - g.lo) = false :=
        Nat.testBit_lt_two_pow (hg.trans_le (Nat.pow_le_pow_right Nat.two_pos (by omega)))
      simp [hr]
  · simp [hk]

theorem getBits_resetInto_same {f : Field} {off : Nat} (v : BitVec 32) (hw : f.inWord) (hf : f.holdsReset off)
    (hv : getBits v f.lo f.width = 0) : getBits (f.resetInto off v) f.lo f.width = f.resetAt off := by
  refine Nat.eq_of_testBit_eq fun k => ?_
  have hz : (decide (k < f.width) && v.getLsbD (f.lo + k)) = false := by rw [← testBit_getBits, hv, Nat.zero_testBit]
  simp only [testBit_getBits, Field.resetInto, BitVec.getLsbD_or, BitVec.getLsbD_shiftLeft, BitVec.getLsbD_ofNat, Bool.and_or_distrib_left,
    hz, Bool.false_or, Nat.add_sub_cancel_left]
  by_cases hk : k < f.width
  · have h32 : f.lo + k < 32 := by omega
    have hk32 : k < 32 := by omega
    simp [hk, h32, hk32]
  · rw [Nat.testBit_lt_two_pow (hf.trans_le (Nat.pow_le_pow_right Nat.two_pos (Nat.le_of_not_lt hk)))]
    simp [hk]

theorem getBits_foldl_resetInto_other {f : Field} {off : Nat} : ∀ (fs : List Field) (v : BitVec 32), (∀ g ∈ fs, g.holdsReset off) →
    (∀ g ∈ fs, f.bitsApart g) → getBits (fs.foldl (Field.resetInto off) v) f.lo f.width = getBits v f.lo f.width
  | [], _, _, _ => rfl
  | g :: fs, v, hr, hd => by
    rw [List.forall_mem_cons] at hr hd
    rw [List.foldl_cons, getBits_foldl_resetInto_other fs _ hr.2 hd.2, getBits_resetInto_other v hr.1 hd.1]

theorem getBits_foldl_resetInto {f : Field} {off : Nat} : ∀ (fs : List Field) (v : BitVec 32), (∀ g ∈ fs, g.inWord) →
    (∀ g ∈ fs, g.holdsReset off) → fs.Pairwise Field.bitsApart → f ∈ fs → getBits v f.lo f.width = 0 →
    getBits (fs.foldl (Field.resetInto off) v) f.lo f.width = f.resetAt off
  | g :: fs, v, hw, hr, hd, hf, hv => by
    rw [List.forall_mem_cons] at hw hr
    rw [List.pairwise_cons] at hd
    rw [List.foldl_cons]
    obtain rfl | hf := List.mem_cons.1 hf
    · rw [getBits_foldl_resetInto_other fs _ hr.2 hd.1, getBits_resetInto_same v hw.1 hr.1 hv]
    · exact getBits_foldl_resetInto fs _ hw.2 hr.2 hd.2 hf ((getBits_resetInto_other v hr.1 (hd.1 f hf).symm).trans hv)

/-! The register file at reset -/

/-- The register of a field is sound in the tables, its fields having room for their reset values, and the field's own is `v`. -/
abbrev Field.resetsTo (f : Field) (v : Nat) (i j : Nat) : Prop :=
  f ∈ fieldsAt (f.addr i j) ∧ fieldsOk (f.addr i j) ∧ (∀ g ∈ fieldsAt (f.addr i j), g.holdsReset (f.addr i j)) ∧
    f.resetAt (f.addr i j) = v

/-- A field reads its reset value of the tables at State.reset (R7). -/
theorem rd_stateReset {f : Field} {v i j : Nat} (h : f.resetsTo v i j) : rd State.reset f i j = v := by
  obtain ⟨hf, ⟨hw, hd⟩, hr, hv⟩ := h
  have hz : getBits 0#32 f.lo f.width = 0 := by simp [getBits]
  have hread : State.reset.regs.read (f.addr i j) = regReset (f.addr i j) := rfl
  unfold rd Regs.getF
  rw [hread, regReset_eq_foldl, getBits_foldl_resetInto _ _ hw hr hd hf hz, hv]

/-! Arrays of registers that reset to 0 -/

/-- The field lies outside the offsets [a, b): it starts at or above b, or is no array and lies below a. -/
abbrev Field.outside (f : Field) (a b : Nat) : Prop := b ≤ f.base ∨ f.s1 = 0 ∧ f.s2 = 0 ∧ f.base < a

theorem Field.at?_outside {f : Field} {a b off : Nat} (h : f.outside a b) (ha : a ≤ off) (hb : off < b) : f.at? off = none := by
  unfold Field.at?
  obtain h | ⟨h1, h2, h⟩ := h
  · exact if_pos (by omega)
  · have hd : off - f.base ≠ 0 := by omega
    simp [h1, h2, hd, Nat.not_lt.2 (h.le.trans ha)]

theorem foldl_resetInto_zero {off : Nat} : ∀ fs : List Field, (∀ f ∈ fs, f.resetAt off = 0) →
    fs.foldl (Field.resetInto off) 0#32 = 0#32
  | [], _ => rfl
  | f :: fs, h => by
    rw [List.forall_mem_cons] at h
    have hf : f.resetInto off 0#32 = 0#32 := by simp [Field.resetInto, h.1]
    rw [List.foldl_cons, hf, foldl_resetInto_zero fs h.2]

/-- Registers at offsets [a, b) reset to 0 where the fields of their block that reset to another value lie outside. -/
theorem regReset_eq_zero {a b off : Nat} (ha : a ≤ off) (hb : off < b)
    (hf : ∀ f ∈ fieldsNear off, f ≠ Fld.STK_INFO_LIT ∧ f.reset = 0 ∨ f.outside a b) : regReset off = 0#32 := by
  refine (regReset_eq_foldl off).trans (foldl_resetInto_zero _ fun f hmem => ?_)
  obtain ⟨hmem, hat⟩ := List.mem_filter.1 hmem
  obtain ⟨hne, h0⟩ | hout := hf f hmem
  · exact (if_neg hne).trans h0
  · rw [Field.at?_outside hout ha hb] at hat
    cases hat

/-- The registers of the loops reset to 0 (Table 11.14). -/
theorem regReset_loops {off : Nat} (ha : 0x201000 ≤ off) (hb : off < 0x209000) : regReset off = 0#32 := by
  have hdiv : off / 0x100000 = 2 := by omega
  have hblock : fieldsNear off = fieldsSEQ := by simp only [fieldsNear, hdiv, if_pos (show off < 0x1000000 by omega)]
  exact regReset_eq_zero ha hb (hblock ▸ by decide)

/-- The registers of the fabric's ports reset to 0 (Table 12.12). -/
theorem regReset_ports {off : Nat} (ha : 0xE01000 ≤ off) (hb : off < 0xF00000) : regReset off = 0#32 := by
  have hdiv : off / 0x100000 = 14 := by omega
  have hblock : fieldsNear off = fieldsFAB := by simp only [fieldsNear, hdiv, if_pos (show off < 0x1000000 by omega)]
  exact regReset_eq_zero ha hb (hblock ▸ by decide)

theorem rd_stateReset_zero {f : Field} {i j : Nat} (h : regReset (f.addr i j) = 0#32) : rd State.reset f i j = 0 := by
  have hread : State.reset.regs.read (f.addr i j) = regReset (f.addr i j) := rfl
  simp [rd, Regs.getF, hread, h, getBits]

/-- Every port is DISABLED at reset (Table 12.12). -/
theorem portState_reset {p : Nat} (h : p < 18) : portState State.reset p = 0 := by
  have haddr : Fld.FAB_PORT_STAT_STATE.addr p = 0xE01004 + p * 64 := rfl
  exact rd_stateReset_zero (regReset_ports (by omega) (by omega))

/-- No loop is enabled at reset (Table 11.14). -/
theorem loopEnable_reset {l : Nat} (h : l < 256) : rd State.reset Fld.SEQ_LCTRL_EN l = 0 := by
  have haddr : Fld.SEQ_LCTRL_EN.addr l = 0x201000 + l * 128 := rfl
  exact rd_stateReset_zero (regReset_loops (by omega) (by omega))

/-! Registers outside the record of R412, and the bytes of a value -/

theorem rd_recordXstat_other (s : State) {f g : Field} (who : Requester) (off : Nat) (hf : f.addr = Reg.CKR_XSTAT)
    (hx : g.addr ≠ Reg.CKR_XSTAT) (he : g.addr ≠ Reg.CKR_EVENT) : rd (recordXstat s f who off) g = rd s g := by
  unfold rd Regs.getF
  rw [recordXstat_read_other s who off hf hx he]

theorem length_natLe : ∀ k n : Nat, (natLe k n).length = k
  | 0, _ => rfl
  | k + 1, n => congrArg Nat.succ (length_natLe k (n / 256))

theorem length_lineBytes (v : BitVec 512) : (lineBytes v).length = 64 := length_natLe 64 _

end Sys2Proof.Machine
end

section
/-! PROOFS. Accesses held at an alias block and entries dropped by a crossing FIFO (O4), and what reset leaves (O60). -/

namespace Sys2Proof.Machine

/-! ALIAS_ACCESS_RELEASE (R24) -/

@[simp] theorem moving_quiet (s : State) (l : Nat) : moving (quiet s) l = moving s l := rfl

theorem exec_aliasAccessRelease (l : Fin 144) (remote : Option (BitVec 512)) (s : State) :
    exec (.aliasAccessRelease l remote) s = execAliasAccessRelease l remote s := rfl

/-- Accesses stay held while their logical cluster moves. -/
theorem exec_aliasAccessRelease_moving {s : State} {l : Fin 144} (remote : Option (BitVec 512)) (h : moving s l.val = true) :
    exec (.aliasAccessRelease l remote) s = .next (quiet s) := by
  rw [exec_aliasAccessRelease]
  simp only [execAliasAccessRelease, moving_quiet, h, if_true]

/-- The accesses held at an alias block that no longer moves leave the hold and proceed in the order they came. -/
theorem exec_aliasAccessRelease_still {s : State} {l : Fin 144} {mine : List HeldMmio} (remote : Option (BitVec 512))
    (h : moving s l.val = false) (hm : s.held.filter (fun h => aliasNo h.off = some l.val) = mine) :
    exec (.aliasAccessRelease l remote) s = .next (mine.foldl (fun s h => proceed s h ⟨remote, true, true⟩)
      { s with out := [], held := s.held.filter (fun h => aliasNo h.off ≠ some l.val) }) := by
  subst hm
  rw [exec_aliasAccessRelease]
  simp only [execAliasAccessRelease, moving_quiet, h, Bool.false_eq_true, if_false]
  rfl

/-! FIFO_RESYNC (R413) -/

theorem exec_fifoResync_cons (e : FifoEntry) (es : List FifoEntry) (s : State) : exec (.fifoResync (e :: es)) s =
    .next (flag ((e :: es).foldl dropEntry (quiet s)) Fld.CKR_EVENT_FIFO_DROP) := rfl

/-- Each discarded entry is counted. -/
theorem dropEntry_count (s : State) (e : FifoEntry) : rd (dropEntry s e) Fld.CKR_FIFO_DROP_COUNT =
    Nat.min (rd s Fld.CKR_FIFO_DROP_COUNT + 1) (2 ^ 32 - 1) := by
  have hc : rd (inc s Fld.CKR_FIFO_DROP_COUNT) Fld.CKR_FIFO_DROP_COUNT = Nat.min (rd s Fld.CKR_FIFO_DROP_COUNT + 1) (2 ^ 32 - 1) :=
    rd_inc_min s Fld.CKR_FIFO_DROP_COUNT 0 0 (by decide)
  cases e with
  | mmioRead who off wide =>
    have hx := rd_recordXstat_other (inc s Fld.CKR_FIFO_DROP_COUNT) (f := Fld.CKR_XSTAT_ACCESS_TIMEOUT)
      (g := Fld.CKR_FIFO_DROP_COUNT) who off.toNat rfl (by decide) (by decide)
    exact hx.trans hc
  | windowRead who => exact hc
  | write => exact hc

/-- FIFO_RESYNC of one entry leaves its drop, counted, and sets the event. -/
theorem exec_fifoResync_single (s : State) (e : FifoEntry) : ∃ t, exec (.fifoResync [e]) s = .next t ∧
    t = flag (dropEntry (quiet s) e) Fld.CKR_EVENT_FIFO_DROP ∧
    rd t Fld.CKR_FIFO_DROP_COUNT = Nat.min (rd s Fld.CKR_FIFO_DROP_COUNT + 1) (2 ^ 32 - 1) ∧ rd t Fld.CKR_EVENT_FIFO_DROP = 1 :=
  ⟨_, exec_fifoResync_cons e [] s, rfl,
    (rd_flag_other _ _ _ 0 0 0 0 (by decide) (by decide)).trans (dropEntry_count (quiet s) e),
    rd_flag_same _ _ 0 0 (by decide) (by decide)⟩

/-- Settles O4: a release leaves a block that moves alone and else performs what is held there; a resynchronisation leaves the drop of
its entry, counted, and what the requester receives is that of the entry's kind. -/
theorem heldAndDroppedAccesses : Obligations.HeldAndDroppedAccesses := by
  unfold Obligations.HeldAndDroppedAccesses
  refine ⟨fun s l remote => ⟨fun hm => ?_, fun hm hnone => ?_, fun h hm hone => ?_⟩, fun s => ?_,
    fun s who off wide => ?_, fun s who => ?_⟩
  · exact exec_aliasAccessRelease_moving remote hm
  · exact exec_aliasAccessRelease_still remote hm hnone
  · exact exec_aliasAccessRelease_still remote hm hone
  · obtain ⟨t, he, rfl, hcount, hevent⟩ := exec_fifoResync_single s .write
    exact ⟨_, he, rfl, hcount, hevent⟩
  · obtain ⟨t, he, rfl, hcount, hevent⟩ := exec_fifoResync_single s (.mmioRead who off wide)
    refine ⟨_, he, rfl, hcount, hevent, ?_⟩
    simp (disch := decide) only [rd_flag_other, dropEntry, rd_reply, recordXstat_flag, recordXstat_offset, recordXstat_src,
      Nat.mod_eq_of_lt off.isLt, and_self]
  · obtain ⟨t, he, rfl, hcount, hevent⟩ := exec_fifoResync_single s (.windowRead who)
    exact ⟨_, _, he, rfl, length_lineBytes _, hcount, hevent⟩

/-! What reset leaves -/

/-- Settles O60: the fields read their reset values of the tables, every port and loop register resets to 0, and a unit that no
command has touched is at its reset state. -/
theorem resetValues : Obligations.ResetValues := by
  unfold Obligations.ResetValues
  dsimp only
  refine ⟨rd_stateReset (by decide), rd_stateReset (by decide), rd_stateReset (by decide), rd_stateReset (by decide),
    rd_stateReset (by decide), rd_stateReset (by decide), rd_stateReset (by decide), rd_stateReset (by decide),
    rd_stateReset (by decide), rd_stateReset (by decide), rd_stateReset (by decide), rd_stateReset (by decide),
    rd_stateReset (by decide), rd_stateReset (by decide), rd_stateReset (by decide), rd_stateReset (by decide),
    rd_stateReset (by decide), rd_stateReset (by decide), rd_stateReset (by decide), rd_stateReset (by decide),
    rd_stateReset (by decide), rd_stateReset (by decide), fun _ => rfl, fun _ hp => ⟨portState_reset hp, rfl⟩,
    fun _ hl => loopEnable_reset hl, fun _ => rfl, fun _ => rfl, fun _ => rfl, rfl, ?_⟩
  have hready : rd State.reset Fld.CKR_BOOT_READY = 0 := rd_stateReset (by decide)
  simp [isReady, hready]

end Sys2Proof.Machine
end

section
/-! SUPPORT. The image load's registers and its ends: what a write of IMG_CTRL does in each case, and what the end of a load leaves. -/

namespace Sys2Proof.Machine

theorem rd_congr {s t : State} (h : t.regs = s.regs) (f : Field) (i j : Nat) : rd t f i j = rd s f i j := by
  unfold rd; rw [h]

@[simp] theorem rd64_reply (s : State) (who : Requester) (a : Answer) (lo hi : Field) (i j : Nat) :
    rd64 (reply s who a) lo hi i j = rd64 s lo hi i j := rfl

theorem rd64_congr {s t : State} (h : t.regs = s.regs) (lo hi : Field) (i j : Nat) : rd64 t lo hi i j = rd64 s lo hi i j := by
  unfold rd64; rw [h]

/-- A write leaves a 64-bit pair apart from it alone. -/
theorem rd64_wr_other (s : State) (lo hi g : Field) (v i j k l : Nat) (h : g.inWord) (hl : lo.apart g i j k l) (hh : hi.apart g i j k l) :
    rd64 (wr s g v k l) lo hi i j = rd64 s lo hi i j :=
  congrArg₂ (fun a b => a + 2 ^ 32 * b) (rd_wr_other s lo g v i j k l h hl) (rd_wr_other s hi g v i j k l h hh)

/-! A write of IMG_CTRL (R50, R57) -/

/-- IMG_START reaches IMG_CTRL as a write of START and SRC_KIND. -/
theorem exec_imgStart_hub {s : State} {who : Requester} (kind : BitVec 2) (ho : hubOpen s who = true) :
    exec (.imgStart who kind) s = .next (reply (imgCtrl (quiet s) who true false kind.toNat) who .done) := by
  have hbits : ∀ k : BitVec 2, bit (BitVec.ofNat 32 (1 + 4 * k.toNat)) 0 = true ∧ bit (BitVec.ofNat 32 (1 + 4 * k.toNat)) 1 = false ∧
      getBits (BitVec.ofNat 32 (1 + 4 * k.toNat)) 2 2 = k.toNat := by decide
  obtain ⟨hs, ha, hk⟩ := hbits kind
  show writeCmd s who Reg.IMG_CTRL false (1 + 4 * kind.toNat) = _
  rw [writeCmd_hub s who _ ho (by decide)]
  show Host.Outcome.next (reply (imgCtrl (quiet s) who (bit _ 0) (bit _ 1) (getBits _ 2 2)) who .done) = _
  rw [hs, ha, hk]

/-- IMG_ABORT reaches IMG_CTRL as a write of ABORT and SRC_KIND. -/
theorem exec_imgAbort_hub {s : State} {who : Requester} (kind : BitVec 2) (ho : hubOpen s who = true) :
    exec (.imgAbort who kind) s = .next (reply (imgCtrl (quiet s) who false true kind.toNat) who .done) := by
  have hbits : ∀ k : BitVec 2, bit (BitVec.ofNat 32 (2 + 4 * k.toNat)) 0 = false ∧ bit (BitVec.ofNat 32 (2 + 4 * k.toNat)) 1 = true ∧
      getBits (BitVec.ofNat 32 (2 + 4 * k.toNat)) 2 2 = k.toNat := by decide
  obtain ⟨hs, ha, hk⟩ := hbits kind
  show writeCmd s who Reg.IMG_CTRL false (2 + 4 * kind.toNat) = _
  rw [writeCmd_hub s who _ ho (by decide)]
  show Host.Outcome.next (reply (imgCtrl (quiet s) who (bit _ 0) (bit _ 1) (getBits _ 2 2)) who .done) = _
  rw [hs, ha, hk]

theorem imgCtrl_denied {s : State} {who : Requester} (start abort : Bool) (kind : Nat) (h : mayImage who = false) :
    imgCtrl s who start abort kind = flag s Fld.IMG_STATUS_REF_DENIED := by
  unfold imgCtrl; rw [h]; rfl

theorem imgCtrl_abort {s : State} {who : Requester} (start : Bool) (kind : Nat) (h : mayImage who = true) :
    imgCtrl s who start true kind = stopLoad (wr s Fld.IMG_CTRL_SRC_KIND kind) 0x14 := by
  unfold imgCtrl; rw [h]; rfl

theorem imgCtrl_busy {s : State} {who : Requester} (kind : Nat) (h : mayImage who = true) (hr : s.load.running = true) :
    imgCtrl s who true false kind = flag (wr s Fld.IMG_CTRL_SRC_KIND kind) Fld.IMG_STATUS_REF_BUSY := by
  unfold imgCtrl; rw [h]; exact if_pos hr

/-- The registers of a load that begins: SRC_KIND stored and its progress at 0 (R9, R57). -/
def loadBegins (s : State) (kind : Nat) : State :=
  progress (wr s Fld.IMG_CTRL_SRC_KIND kind) Fld.IMG_LOAD_POS_LO_POS Fld.IMG_LOAD_POS_HI_POS Fld.IMG_LOAD_PCT_PCT 0 0 1

theorem imgCtrl_start {s : State} {who : Requester} {kind : Nat} (h : mayImage who = true) (hr : s.load.running = false) (hk : kind < 2) :
    imgCtrl s who true false kind =
      wr { loadBegins s kind with load := { Load.idle with running := true, srcKind := kind } } Fld.IMG_STATUS_STATE 1 := by
  have hr' : (wr s Fld.IMG_CTRL_SRC_KIND kind).load.running = false := hr
  unfold imgCtrl
  simp only [h, hr', Bool.not_true, Bool.false_eq_true, if_false, ge_iff_le, Nat.not_le.2 hk]
  rfl

theorem imgCtrl_reserved {s : State} {who : Requester} {kind : Nat} (h : mayImage who = true) (hr : s.load.running = false)
    (hk : 2 ≤ kind) : imgCtrl s who true false kind = loadEnd (loadBegins s kind) 6 3 0xFF 0 := by
  have hr' : (wr s Fld.IMG_CTRL_SRC_KIND kind).load.running = false := hr
  unfold imgCtrl
  simp only [h, hr', Bool.not_true, Bool.false_eq_true, if_false, ge_iff_le, hk, if_true]
  rfl

/-! The end of a load (R50, R58, R59) -/

theorem loadEnd_frame (s : State) (state code sect detail : Nat) : loadEnd s state code sect detail =
    { s with out := (loadEnd s state code sect detail).out, regs := (loadEnd s state code sect detail).regs, load := .idle,
             seq := (loadEnd s state code sect detail).seq } := by
  unfold loadEnd
  dsimp only
  split <;> rfl

theorem loadEnd_seq (s : State) (state code sect detail : Nat) : (loadEnd s state code sect detail).seq =
    { s.seq with loops := s.seq.loops.map (fun e => (e.1, { e.2 with barred := false })) } := by
  unfold loadEnd
  dsimp only
  split <;> rfl

theorem loadEnd_regs (s : State) (state code sect detail : Nat) : (loadEnd s state code sect detail).regs =
    (wr (wr (wr (wr (flag s Fld.IMG_STATUS_END) Fld.IMG_STATUS_STATE state) Fld.IMG_ERR_CODE code) Fld.IMG_ERR_SECTION sect)
      Fld.IMG_ERR_DETAIL detail).regs := by
  unfold loadEnd
  dsimp only
  split <;> rfl

@[simp] theorem loadEnd_load (s : State) (state code sect detail : Nat) : (loadEnd s state code sect detail).load = .idle := by
  rw [loadEnd_frame]

theorem loadEnd_state (s : State) {state : Nat} (code sect detail : Nat) (h : state < 8) :
    rd (loadEnd s state code sect detail) Fld.IMG_STATUS_STATE = state := by
  rw [rd_congr (loadEnd_regs ..)]
  simp (disch := decide) only [rd_wr_other]
  exact rd_wr_same _ _ _ _ _ (by decide) h

theorem loadEnd_code (s : State) (state : Nat) {code : Nat} (sect detail : Nat) (h : code < 256) :
    rd (loadEnd s state code sect detail) Fld.IMG_ERR_CODE = code := by
  rw [rd_congr (loadEnd_regs ..)]
  simp (disch := decide) only [rd_wr_other]
  exact rd_wr_same _ _ _ _ _ (by decide) h

theorem loadEnd_end (s : State) (state code sect detail : Nat) : rd (loadEnd s state code sect detail) Fld.IMG_STATUS_END = 1 := by
  rw [rd_congr (loadEnd_regs ..)]
  simp (disch := decide) only [rd_wr_other, rd_flag_same]

theorem loadEnd_pct (s : State) (state code sect detail : Nat) :
    rd (loadEnd s state code sect detail) Fld.IMG_LOAD_PCT_PCT = rd s Fld.IMG_LOAD_PCT_PCT := by
  rw [rd_congr (loadEnd_regs ..)]
  simp (disch := decide) only [rd_wr_other, rd_flag_other]

/-- A load that fails ends in STATE 6; a stack-scope load in prepare gives back the dies it released. -/
theorem loadFails_eq (s : State) (code sect detail : Nat) : ∃ k, loadFails s code sect detail = loadEnd { s with stk := k } 6 code sect detail ∧
    (s.load.scope ≠ 2 → k = s.stk) := by
  unfold loadFails
  dsimp only
  split
  · next h =>
    simp only [Bool.and_eq_true, decide_eq_true_eq] at h
    exact ⟨_, rfl, fun hn => absurd h.2 hn⟩
  · exact ⟨_, rfl, fun _ => rfl⟩

/-- What a failed load leaves: STATE 6, its code and END, no load, every loop free to run again, and the stacks as they were but for a
load of stack scope. -/
theorem loadFails_ends (s : State) {code : Nat} (sect detail : Nat) (hc : code < 256) : ∃ t, loadFails s code sect detail = t ∧
    t = { s with out := t.out, regs := t.regs, stk := t.stk, load := .idle, seq := t.seq } ∧
    rd t Fld.IMG_STATUS_STATE = 6 ∧ rd t Fld.IMG_ERR_CODE = code ∧ rd t Fld.IMG_STATUS_END = 1 ∧
    t.seq = { s.seq with loops := s.seq.loops.map (fun e => (e.1, { e.2 with barred := false })) } ∧
    (s.load.scope ≠ 2 → t.stk = s.stk) := by
  obtain ⟨k, he, hk⟩ := loadFails_eq s code sect detail
  refine ⟨_, he, ?_, loadEnd_state _ _ _ _ (by decide), loadEnd_code _ _ _ _ hc, loadEnd_end .., loadEnd_seq .., fun h2 => ?_⟩
  · rw [loadEnd_frame]
  · rw [loadEnd_frame]; exact hk h2

/-! The abort of a load (R53) -/

theorem stopLoad_unmoved {s : State} {code : Nat} (hr : s.load.running = true) (hi : imgState s ≤ 2) (hb : s.load.backing = none)
    (hv : s.load.moved = []) (hh : s.load.hold = none) : stopLoad s code = loadFails s code 0xFF 0 := by
  simp [stopLoad, hr, hb, hv, hh, Nat.not_lt.2 hi]

theorem stopLoad_moved {s : State} {code : Nat} (hr : s.load.running = true) (hi : imgState s ≤ 2) (hb : s.load.backing = none)
    (hv : s.load.moved ≠ []) : stopLoad s code = { s with load := { s.load with backing := some code } } := by
  simp [stopLoad, hr, hb, hv, Nat.not_lt.2 hi]

end Sys2Proof.Machine
end

section
/-! PROOFS. An image load's start, abort, verification and release (O5). -/

namespace Sys2Proof.Machine

/-! IMG_START and IMG_ABORT -/

theorem exec_imgStart_denied {s : State} {who : Requester} (kind : BitVec 2) (ho : hubOpen s who = true) (hm : mayImage who = false) :
    exec (.imgStart who kind) s =
      .next { s with out := [⟨some who, .done⟩], regs := s.regs.setF Fld.IMG_STATUS_REF_DENIED 1 } := by
  rw [exec_imgStart_hub kind ho, imgCtrl_denied _ _ _ hm]; rfl

theorem exec_imgAbort_denied {s : State} {who : Requester} (kind : BitVec 2) (ho : hubOpen s who = true) (hm : mayImage who = false) :
    exec (.imgAbort who kind) s =
      .next { s with out := [⟨some who, .done⟩], regs := s.regs.setF Fld.IMG_STATUS_REF_DENIED 1 } := by
  rw [exec_imgAbort_hub kind ho, imgCtrl_denied _ _ _ hm]; rfl

theorem exec_imgStart_busy {s : State} {who : Requester} (kind : BitVec 2) (ho : hubOpen s who = true) (hm : mayImage who = true)
    (hr : s.load.running = true) : exec (.imgStart who kind) s = .next { s with
      out := [⟨some who, .done⟩]
      regs := (s.regs.setF Fld.IMG_CTRL_SRC_KIND kind.toNat).setF Fld.IMG_STATUS_REF_BUSY 1 } := by
  rw [exec_imgStart_hub kind ho, imgCtrl_busy (s := quiet s) _ hm hr]; rfl

/-- The registers that the start of a load writes. -/
theorem loadBegins_read_other (s : State) (kind : Nat) {o : Nat}
    (h : o ∉ [Reg.IMG_CTRL, Reg.IMG_STATUS, Reg.IMG_LOAD_POS_LO, Reg.IMG_LOAD_POS_HI, Reg.IMG_LOAD_PCT]) :
    (loadBegins s kind).regs.read o = s.regs.read o := by
  simp only [List.mem_cons, List.not_mem_nil, or_false, not_or] at h
  obtain ⟨hc, -, hl, hh, hp⟩ := h
  unfold loadBegins progress
  rw [read_wr_other _ _ _ _ _ hp]
  show (wr (wr (wr s Fld.IMG_CTRL_SRC_KIND kind) Fld.IMG_LOAD_POS_LO_POS 0) Fld.IMG_LOAD_POS_HI_POS (0 / 2 ^ 32)).regs.read o = _
  rw [read_wr_other _ _ _ _ _ hh, read_wr_other _ _ _ _ _ hl, read_wr_other _ _ _ _ _ hc]

theorem loadBegins_pct (s : State) (kind : Nat) : rd (loadBegins s kind) Fld.IMG_LOAD_PCT_PCT = 0 := by
  unfold loadBegins progress
  exact rd_wr_same _ _ _ _ _ (by decide) (by decide)

theorem loadBegins_pos (s : State) (kind : Nat) : rd64 (loadBegins s kind) Fld.IMG_LOAD_POS_LO_POS Fld.IMG_LOAD_POS_HI_POS = 0 := by
  unfold loadBegins progress
  rw [rd64_wr_other _ _ _ _ _ _ _ _ _ (by decide) (by decide) (by decide)]
  exact rd64_wr64_same _ _ _ _ _ _ (by decide) (by decide) rfl (by decide) (by decide)

theorem exec_imgStart_accepted {s : State} {who : Requester} {kind : BitVec 2} (ho : hubOpen s who = true) (hm : mayImage who = true)
    (hr : s.load.running = false) (hk : kind.toNat < 2) : ∃ t, exec (.imgStart who kind) s = .next t ∧
      t = { s with out := [⟨some who, .done⟩], regs := t.regs, load := { Load.idle with running := true, srcKind := kind.toNat } } ∧
      rd t Fld.IMG_STATUS_STATE = 1 ∧ rd t Fld.IMG_LOAD_PCT_PCT = 0 ∧ rd64 t Fld.IMG_LOAD_POS_LO_POS Fld.IMG_LOAD_POS_HI_POS = 0 ∧
      ∀ off, off ∉ [Reg.IMG_CTRL, Reg.IMG_STATUS, Reg.IMG_LOAD_POS_LO, Reg.IMG_LOAD_POS_HI, Reg.IMG_LOAD_PCT] →
        t.regs.read off = s.regs.read off := by
  have he := exec_imgStart_hub kind ho
  rw [imgCtrl_start (s := quiet s) hm hr hk] at he
  refine ⟨_, he, rfl, ?_, ?_, ?_, fun off h => ?_⟩
  · rw [rd_reply]
    exact rd_wr_same _ _ _ _ _ (by decide) (by decide)
  · rw [rd_reply, rd_wr_other _ _ _ _ _ _ _ _ (by decide) (by decide)]
    exact (rd_congr rfl _ 0 0).trans (loadBegins_pct (quiet s) kind.toNat)
  · rw [rd64_reply, rd64_wr_other _ _ _ _ _ _ _ _ _ (by decide) (by decide) (by decide)]
    exact (rd64_congr rfl _ _ 0 0).trans (loadBegins_pos (quiet s) kind.toNat)
  · have hst : off ≠ Reg.IMG_STATUS := fun e => h (by simp [e])
    exact (read_wr_other _ _ _ _ _ hst).trans (loadBegins_read_other (quiet s) kind.toNat h)

theorem exec_imgStart_reserved {s : State} {who : Requester} {kind : BitVec 2} (ho : hubOpen s who = true) (hm : mayImage who = true)
    (hr : s.load.running = false) (hk : 2 ≤ kind.toNat) :
    exec (.imgStart who kind) s = .next (reply (loadEnd (loadBegins (quiet s) kind.toNat) 6 3 0xFF 0) who .done) := by
  rw [exec_imgStart_hub kind ho, imgCtrl_reserved (s := quiet s) hm hr hk]

theorem imgState_srcKind (s : State) (kind : Nat) : imgState (wr (quiet s) Fld.IMG_CTRL_SRC_KIND kind) = imgState s :=
  rd_wr_other _ _ _ _ _ _ _ _ (by decide) (by decide)

theorem exec_imgAbort_allowed {s : State} {who : Requester} (kind : BitVec 2) (ho : hubOpen s who = true) (hm : mayImage who = true) :
    exec (.imgAbort who kind) s = .next (reply (stopLoad (wr (quiet s) Fld.IMG_CTRL_SRC_KIND kind.toNat) 0x14) who .done) := by
  rw [exec_imgAbort_hub kind ho, imgCtrl_abort _ _ hm]

theorem exec_imgAbort_unmoved {s : State} {who : Requester} (kind : BitVec 2) (ho : hubOpen s who = true) (hm : mayImage who = true)
    (hr : s.load.running = true) (hi : imgState s ≤ 2) (hb : s.load.backing = none) (hv : s.load.moved = []) (hh : s.load.hold = none) :
    ∃ t, exec (.imgAbort who kind) s = .next t ∧ t = { s with out := t.out, regs := t.regs, stk := t.stk, load := .idle, seq := t.seq } ∧
      rd t Fld.IMG_STATUS_STATE = 6 ∧ rd t Fld.IMG_ERR_CODE = 0x14 ∧ rd t Fld.IMG_STATUS_END = 1 ∧
      t.seq = { s.seq with loops := s.seq.loops.map (fun e => (e.1, { e.2 with barred := false })) } := by
  obtain ⟨t, ht, hf, h6, hc, hend, hseq, -⟩ := loadFails_ends (wr (quiet s) Fld.IMG_CTRL_SRC_KIND kind.toNat) (code := 0x14) 0xFF 0 (by decide)
  have he := exec_imgAbort_allowed kind ho hm
  rw [stopLoad_unmoved (s := wr (quiet s) _ _) hr ((imgState_srcKind s _).trans_le hi) hb hv hh, ht] at he
  refine ⟨_, he, ?_, h6, hc, hend, hseq⟩
  rw [hf]; rfl

theorem exec_imgAbort_moved {s : State} {who : Requester} (kind : BitVec 2) (ho : hubOpen s who = true) (hm : mayImage who = true)
    (hr : s.load.running = true) (hi : imgState s ≤ 2) (hb : s.load.backing = none) (hv : s.load.moved ≠ []) :
    exec (.imgAbort who kind) s = .next { s with
      out := [⟨some who, .done⟩]
      regs := s.regs.setF Fld.IMG_CTRL_SRC_KIND kind.toNat
      load := { s.load with backing := some 0x14 } } := by
  rw [exec_imgAbort_allowed kind ho hm, stopLoad_moved (s := wr (quiet s) _ _) hr ((imgState_srcKind s _).trans_le hi) hb hv]
  rfl

/-! IMG_VERIFY_END (R37, R50, R58) -/

/-- The registers of a load whose image has been fetched. -/
def verifying (s : State) (b : List Byte) : State :=
  wr (wr (wr s Fld.IMG_STATUS_SCOPE (imgHeader b).scope) Fld.IMG_STATUS_TARGET (imgHeader b).target) Fld.IMG_LOAD_PCT_PCT 200

theorem containerFailure_verifying (s : State) (b : List Byte) : containerFailure (verifying s b) b = containerFailure s b := by
  have hfloor : secFloor (verifying s b) = secFloor s := by
    unfold secFloor verifying; simp (disch := decide) only [rd64_wr_other]
  have hgen : imgGen (verifying s b) = imgGen s := by
    unfold imgGen verifying; simp (disch := decide) only [rd64_wr_other]
  have hrd (f : Field) (h1 : f.apart Fld.IMG_STATUS_SCOPE 0 0 0 0) (h2 : f.apart Fld.IMG_STATUS_TARGET 0 0 0 0)
      (h3 : f.apart Fld.IMG_LOAD_PCT_PCT 0 0 0 0) : rd (verifying s b) f = rd s f := by
    unfold verifying
    rw [rd_wr_other _ _ _ _ _ _ _ _ (by decide) h3, rd_wr_other _ _ _ _ _ _ _ _ (by decide) h2,
      rd_wr_other _ _ _ _ _ _ _ _ (by decide) h1]
  unfold containerFailure keySlotOk
  rw [hfloor, hgen, hrd Fld.HUB_REV_MINOR (by decide) (by decide) (by decide), hrd Fld.HUB_REV_MAJOR (by decide) (by decide) (by decide),
    hrd Fld.SEC_KEYSLOT_LMS (by decide) (by decide) (by decide), hrd Fld.SEC_KEYSLOT_PRESENT (by decide) (by decide) (by decide),
    hrd Fld.SEC_KEYSLOT_REVOKED (by decide) (by decide) (by decide)]

theorem verifyFailure_verifying (s : State) (b : List Byte) : verifyFailure (verifying s b) b = verifyFailure s b := by
  unfold verifyFailure
  rw [containerFailure_verifying]
  rfl

/-- An image that passes has one of the four scopes (Table 2.2). -/
theorem scope_lt_of_verified {s : State} {b : List Byte} (h : verifyFailure s b = none) : (imgHeader b).scope < 4 := by
  obtain ⟨hc, -⟩ := Option.or_eq_none_iff.1 h
  unfold containerFailure firstFailure at hc
  rw [Option.map_eq_none_iff, List.find?_eq_none] at hc
  have h4 := hc _ (List.mem_cons_of_mem _ List.mem_cons_self)
  simp only [Bool.not_eq_true', Bool.not_eq_false, decide_eq_true_eq, Bool.and_eq_true] at h4
  tauto

theorem exec_imgVerifyEnd (fetched : Option (List Byte)) (s : State) :
    exec (.imgVerifyEnd fetched) s = .next (verifyBytes (quiet s) (imgSource (quiet s) fetched)) := rfl

theorem verifyBytes_unfetched {s : State} (hr : s.load.running = true) (hi : imgState s = 1) :
    verifyBytes s none = loadEnd s 6 3 0xFF 0 := by
  simp [verifyBytes, hr, hi]

/-- The three ends of a verification: refused by R37, refused while steps run under a full load, or prepare. -/
theorem verifyBytes_fetched {s : State} {b : List Byte} (hr : s.load.running = true) (hi : imgState s = 1) :
    verifyBytes s (some b) = match verifyFailure s b with
      | some f => loadEnd (if f.code = 6 ∨ f.code = 7 then secFail (verifying s b) none else verifying s b) 6 f.code f.sect f.detail
      | none =>
        if (imgHeader b).scope = 0 ∧ s.seq.loops.any (fun e => !e.2.steps.isEmpty) then loadEnd (verifying s b) 6 0x12 0xFF 0
        else enterPrepare (verifying s b) b := by
  rw [← verifyFailure_verifying]
  simp only [verifyBytes, hr, hi, Bool.not_true, Bool.false_or, ne_eq, not_true_eq_false, decide_false, Bool.false_eq_true, if_false]
  rfl

/-- Loops barred from new steps: only the loops change. -/
theorem barLoops_frame (ns : List Nat) (s : State) : ∃ q,
    ns.foldl (fun s n => modLoop s n (fun l => { l with barred := true })) s = { s with seq := q } :=
  foldl_keeps (P := fun t => ∃ q, t = { s with seq := q }) _ (by rintro t n ⟨q, rfl⟩; exact ⟨_, rfl⟩) ns s ⟨_, rfl⟩

/-- A load that has entered prepare with its image, its structure and its scope. -/
def prepared (s : State) (b : List Byte) : State :=
  { wr (wr s Fld.IMG_STATUS_STATE 2) Fld.IMG_LOAD_PCT_PCT 200 with
    load := { s.load with bytes := b, scope := (imgHeader b).scope, target := (imgHeader b).target, gen := (imgHeader b).gen,
                          next := nextImage s b, mask := pmask s.img (imgHeader b).target } }

theorem rd_prepared (s : State) (b : List Byte) (f : Field) :
    rd (prepared s b) f = rd (wr (wr s Fld.IMG_STATUS_STATE 2) Fld.IMG_LOAD_PCT_PCT 200) f := rfl

/-- A load that is not of stack scope changes no more in entering prepare than loops of its subtree. -/
theorem enterPrepare_frame {s : State} {b : List Byte} (h : (imgHeader b).scope ≠ 2) : ∃ q,
    enterPrepare s b = { prepared s b with seq := q } := by
  have he : enterPrepare s b = if (imgHeader b).scope = 1 then
      (subtreeLoops (prepared s b) (nextImage s b) (imgHeader b).target).foldl
        (fun s n => modLoop s n (fun l => { l with barred := true })) (prepared s b)
    else if (imgHeader b).scope = 2 then prepareStack (prepared s b) (imgSections b) else prepared s b := rfl
  rw [he, if_neg h]
  split
  · exact barLoops_frame ..
  · exact ⟨_, rfl⟩

theorem exec_imgVerifyEnd_unfetched {s : State} {fetched : Option (List Byte)} (hr : s.load.running = true) (hi : imgState s = 1)
    (hf : imgSource (quiet s) fetched = none) :
    exec (.imgVerifyEnd fetched) s = .next (loadEnd (quiet s) 6 3 0xFF 0) := by
  rw [exec_imgVerifyEnd, hf, verifyBytes_unfetched (s := quiet s) hr hi]

theorem exec_imgVerifyEnd_fetched {s : State} {fetched : Option (List Byte)} {b : List Byte} (hf : imgSource (quiet s) fetched = some b) :
    exec (.imgVerifyEnd fetched) s = .next (verifyBytes (quiet s) (some b)) := by
  rw [exec_imgVerifyEnd, hf]

/-- A fetched image that is refused, by R37 or while steps run under a full load, ends the load. -/
theorem verifyBytes_refused {s : State} {b : List Byte} (hr : s.load.running = true) (hi : imgState s = 1)
    (h : verifyFailure s b ≠ none ∨ (imgHeader b).scope = 0 ∧ s.seq.loops.any (fun e => !e.2.steps.isEmpty)) : ∃ code sect detail u,
    verifyBytes s (some b) = loadEnd u 6 code sect detail ∧ u = { s with regs := u.regs, sec := u.sec } := by
  rw [verifyBytes_fetched hr hi]
  cases hv : verifyFailure s b with
  | some f =>
    dsimp only
    split
    · exact ⟨_, _, _, _, rfl, rfl⟩
    · exact ⟨_, _, _, _, rfl, rfl⟩
  | none => exact ⟨_, _, _, _, if_pos (h.resolve_left fun hn => hn hv), rfl⟩

/-- A fetched image that passes, of a scope other than a stack's, puts the load in prepare. -/
theorem verifyBytes_prepares {s : State} {b : List Byte} (hr : s.load.running = true) (hi : imgState s = 1)
    (hv : verifyFailure s b = none) (h2 : (imgHeader b).scope ≠ 2)
    (h0 : ¬((imgHeader b).scope = 0 ∧ s.seq.loops.any (fun e => !e.2.steps.isEmpty))) : ∃ t, verifyBytes s (some b) = t ∧
    t = { s with regs := t.regs, load := t.load, seq := t.seq } ∧ rd t Fld.IMG_STATUS_STATE = 2 ∧
    rd t Fld.IMG_STATUS_SCOPE = (imgHeader b).scope ∧ t.load.running = true ∧ t.load.bytes = b ∧ t.load.next = nextImage s b := by
  obtain ⟨q, hq⟩ := enterPrepare_frame (s := verifying s b) h2
  have he : verifyBytes s (some b) = enterPrepare (verifying s b) b := by
    rw [verifyBytes_fetched hr hi, hv]
    exact if_neg h0
  have hscope : (imgHeader b).scope < 2 ^ Fld.IMG_STATUS_SCOPE.width := scope_lt_of_verified hv
  refine ⟨_, he.trans hq, rfl, ?_, ?_, hr, rfl, rfl⟩
  · refine (rd_congr (s := prepared (verifying s b) b) rfl _ 0 0).trans ?_
    rw [rd_prepared, rd_wr_other _ _ _ _ _ _ _ _ (by decide) (by decide)]
    exact rd_wr_same _ _ _ _ _ (by decide) (by decide)
  · refine (rd_congr (s := prepared (verifying s b) b) rfl _ 0 0).trans ?_
    rw [rd_prepared]
    unfold verifying
    simp (disch := decide) only [rd_wr_other]
    exact rd_wr_same _ _ _ _ _ (by decide) hscope

/-! IMG_RELEASE_END (R52) -/

theorem imgRelease_ends {s : State} (hr : s.load.running = true) (hi : 3 ≤ imgState s) (h2 : s.load.scope ≠ 2) :
    imgRelease s = loadEnd (wr s Fld.IMG_LOAD_PCT_PCT 1000) 5 0 0 0 := by
  unfold imgRelease
  simp [hr, h2, Nat.not_lt.2 hi]

theorem exec_imgReleaseEnd (s : State) : exec .imgReleaseEnd s = .next (imgRelease (quiet s)) := rfl

/-- Settles O5: each command is the end, the refusal or the beginning of the load that the laws of IMG_CTRL, of verification and of a
load's end give. -/
theorem imageLoadStartAndEnd : Obligations.ImageLoadStartAndEnd := by
  unfold Obligations.ImageLoadStartAndEnd
  refine ⟨fun s who kind ho => ⟨fun hm => ?_, fun hm hr => exec_imgStart_busy kind ho hm hr,
    fun hm hr hk => exec_imgStart_accepted ho hm hr hk, fun hm hr hk => ?_,
    fun hm hr hi hb hv hh => exec_imgAbort_unmoved kind ho hm hr hi hb hv hh,
    fun hm hr hi hb hv => exec_imgAbort_moved kind ho hm hr hi hb hv⟩, fun s fetched hr hi hf => ?_, fun s fetched b hr hi hf => ?_,
    fun s hr hi h2 => ?_⟩
  · exact List.forall_mem_cons.2 ⟨exec_imgStart_denied kind ho hm, List.forall_mem_singleton.2 (exec_imgAbort_denied kind ho hm)⟩
  · refine ⟨_, exec_imgStart_reserved ho hm hr hk, loadEnd_state _ _ _ _ (by decide), loadEnd_code _ _ _ _ (by decide), loadEnd_end ..,
      ?_, ?_, ?_⟩
    · rw [reply_load, loadEnd_load]
    · rw [reply_img, loadEnd_frame]; rfl
    · rw [reply_mem, loadEnd_frame]; rfl
  · exact ⟨_, exec_imgVerifyEnd_unfetched hr hi hf, loadEnd_frame .., loadEnd_state _ _ _ _ (by decide),
      loadEnd_code _ _ _ _ (by decide), loadEnd_end ..⟩
  · refine ⟨_, exec_imgVerifyEnd_fetched hf, fun h => ?_, fun ⟨hv, h2, h0⟩ => ?_⟩
    · obtain ⟨code, sect, detail, u, he, hu⟩ := verifyBytes_refused (s := quiet s) hr hi h
      rw [he]
      refine ⟨?_, loadEnd_state _ _ _ _ (by decide), loadEnd_end ..⟩
      rw [loadEnd_frame, hu]
      rfl
    · obtain ⟨t, he, hrest⟩ := verifyBytes_prepares (s := quiet s) hr hi hv h2 h0
      rw [he]
      exact hrest
  · have he := exec_imgReleaseEnd s
    rw [imgRelease_ends (s := quiet s) hr hi h2] at he
    refine ⟨_, he, loadEnd_frame .., loadEnd_state _ _ _ _ (by decide), loadEnd_code _ _ _ _ (by decide), loadEnd_end .., ?_, ?_⟩
    · rw [loadEnd_pct]
      exact rd_wr_same _ _ _ _ _ (by decide) (by decide)
    · exact loadEnd_seq ..

end Sys2Proof.Machine
end

section
/-! SUPPORT. Where hashed lines stand and what an engine reads of them: the placement of lines that the loader's state gives, a read without
an error through the slice, and a launch descriptor. -/

namespace Sys2Proof.Machine

/-! Placement of hashed lines (R53, R95) -/

/-- Two states place every hashed line alike: the same structure, and granule moves as far as they have come. -/
structure SameLayout (s t : State) : Prop where
  img : t.img = s.img
  migrating : migrating t = migrating s
  hold : t.load.hold = s.load.hold
  moved : t.load.moved = s.load.moved
  next : t.load.next = s.load.next

theorem SameLayout.placeOf {s t : State} (h : SameLayout s t) (off : Nat) : placeOf t off = placeOf s off := by
  unfold Machine.placeOf
  rw [h.img, h.migrating, h.hold, h.moved, h.next]

theorem SameLayout.lineNo {s t : State} (h : SameLayout s t) (off : Nat) : lineNo t off = lineNo s off := by
  unfold Machine.lineNo
  rw [h.placeOf]

theorem SameLayout.homeDie {s t : State} (h : SameLayout s t) (off : Nat) : homeDie t off = homeDie s off := by
  unfold Machine.homeDie
  rw [h.lineNo]

theorem SameLayout.peekLine {s t : State} (h : SameLayout s t) (hm : t.mem = s.mem) (off : Nat) : peekLine t off = peekLine s off := by
  unfold Machine.peekLine
  rw [hm, h.homeDie, h.lineNo]

theorem SameLayout.of_load {s t : State} (hi : t.img = s.img) (hl : t.load = s.load)
    (hr : rd t Fld.IMG_STATUS_STATE = rd s Fld.IMG_STATUS_STATE) : SameLayout s t := by
  refine ⟨hi, ?_, by rw [hl], by rw [hl], by rw [hl]⟩
  unfold Machine.migrating
  rw [hl, hr]

/-! A line where the slice holds it, where it stands in a stack, and where it stands nowhere -/

theorem obtainLine_hit {s : State} {off : Nat} {l : CacheLine} (ecc : Ecc) (h : cached s.mem (homeDie s off) off = some l) :
    obtainLine s off ecc = hitLine s (homeDie s off) off l ecc := by
  unfold obtainLine; simp only [h]

theorem obtainLine_miss {s : State} {off n : Nat} (ecc : Ecc) (h : cached s.mem (homeDie s off) off = none) (hn : lineNo s off = some n) :
    obtainLine s off ecc = (allocate (fetchLine s off n ecc).1 (homeDie s off) off (fetchLine s off n ecc).2.1 (fetchLine s off n ecc).2.2 false,
      (fetchLine s off n ecc).2.1, (fetchLine s off n ecc).2.2) := by
  unfold obtainLine; simp only [h, hn]

theorem obtainLine_nowhere {s : State} {off : Nat} (ecc : Ecc) (h : cached s.mem (homeDie s off) off = none) (hn : lineNo s off = none) :
    obtainLine s off ecc = (s, 0#512, true) := by
  unfold obtainLine; simp only [h, hn]

theorem peekLine_hit {s : State} {off : Nat} {l : CacheLine} (h : cached s.mem (homeDie s off) off = some l) :
    peekLine s off = (l.data, l.poison) := by
  unfold peekLine; rw [h]

theorem peekLine_miss {s : State} {off n : Nat} (h : cached s.mem (homeDie s off) off = none) (hn : lineNo s off = some n) :
    peekLine s off = lineView (settle s.mem n) n := by
  unfold peekLine; simp only [h, hn]

theorem peekLine_nowhere {s : State} {off : Nat} (h : cached s.mem (homeDie s off) off = none) (hn : lineNo s off = none) :
    peekLine s off = (0#512, true) := by
  unfold peekLine; simp only [h, hn]

/-! A line read without an error (R99, R111) -/

/-- A poisoned read is counted (R344). -/
def countIf (p : Bool) (s : State) : State := if p then countPoison s else s

theorem countIf_frame (p : Bool) (s : State) : countIf p s = { s with regs := (countIf p s).regs } := by
  cases p <;> rfl

theorem rd_countIf (p : Bool) (s : State) (f : Field) (i j : Nat) (hl : f.apart Fld.RAS_UE_LO_COUNT i j 0 0)
    (hh : f.apart Fld.RAS_UE_HI_COUNT i j 0 0) : rd (countIf p s) f i j = rd s f i j := by
  cases p
  · rfl
  · exact rd_wr64_other _ _ _ _ _ _ _ _ _ (by decide) (by decide) hl hh

/-- A set whose way with a line takes an entry and is touched. -/
def CacheSet.atLine (x : CacheSet) (line : Nat) (l : CacheLine) : CacheSet :=
  ⟨x.ways.set ((findWay x line).getD 0) (some l), touch x.nodes ((findWay x line).getD 0)⟩

theorem hitLine_clean (s : State) (die off : Nat) (l : CacheLine) : hitLine s die off l .clean =
    (countIf l.poison { s with mem := putSet s.mem (setKey die off) ((cacheSet s.mem (setKey die off)).atLine (off / 64) l) },
      l.data, l.poison) := by
  have hp : (l.poison || Ecc.clean == Ecc.uncorrectable) = l.poison := Bool.or_false _
  unfold hitLine
  simp only [hp]
  rfl

theorem fetchLine_clean (s : State) (off n : Nat) : fetchLine s off n .clean =
    (countIf (lineView (settle s.mem n) n).2 { s with mem := settle s.mem n }, lineView (settle s.mem n) n) := by
  unfold fetchLine
  dsimp only
  split
  · rfl
  · next h =>
    have hp : (lineView (settle s.mem n) n).2 = false := by unfold lineView; rw [if_neg h]
    rw [hp]
    rfl

/-- A line brought into its slice is the line as the machine reads it. -/
theorem obtainLine_clean_snd (s : State) (off : Nat) : (obtainLine s off .clean).2 = peekLine s off := by
  cases hc : cached s.mem (homeDie s off) off with
  | some l => rw [obtainLine_hit _ hc, peekLine_hit hc, hitLine_clean]
  | none =>
    cases hn : lineNo s off with
    | none => rw [obtainLine_nowhere _ hc hn, peekLine_nowhere hc hn]
    | some n => rw [obtainLine_miss _ hc hn, peekLine_miss hc hn, fetchLine_clean]

/-- A read without an error changes memory, and counts the poison it finds in a line that stands somewhere. -/
theorem obtainLine_clean_fst (s : State) (off : Nat) : ∃ p m, (obtainLine s off .clean).1 = { countIf p s with mem := m } ∧
    (p = true → (peekLine s off).2 = true) := by
  have hmem (p : Bool) (m : Memory) : countIf p { s with mem := m } = { countIf p s with mem := m } := by cases p <;> rfl
  cases hc : cached s.mem (homeDie s off) off with
  | some l =>
    rw [obtainLine_hit _ hc, peekLine_hit hc, hitLine_clean]
    exact ⟨l.poison, _, hmem _ _, id⟩
  | none =>
    cases hn : lineNo s off with
    | none => exact ⟨false, s.mem, by rw [obtainLine_nowhere _ hc hn]; rfl, fun h => nomatch h⟩
    | some n =>
      have he : (obtainLine s off .clean).1 = allocate (countIf (lineView (settle s.mem n) n).2 { s with mem := settle s.mem n })
          (homeDie s off) off (lineView (settle s.mem n) n).1 (lineView (settle s.mem n) n).2 false := by
        rw [obtainLine_miss _ hc hn, fetchLine_clean]
      rw [peekLine_miss hc hn]
      exact ⟨(lineView (settle s.mem n) n).2, _, by rw [he, allocate_frame, hmem], id⟩

theorem obtainLine_clean_frame (s : State) (off : Nat) : (obtainLine s off .clean).1 =
    { s with regs := (obtainLine s off .clean).1.regs, mem := (obtainLine s off .clean).1.mem } := by
  obtain ⟨p, m, h, -⟩ := obtainLine_clean_fst s off
  rw [h, countIf_frame]

/-- A read that finds no poison changes no register. -/
theorem obtainLine_clean_regs {s : State} {off : Nat} (h : (peekLine s off).2 = false) : (obtainLine s off .clean).1.regs = s.regs := by
  obtain ⟨p, m, he, hp⟩ := obtainLine_clean_fst s off
  cases p
  · rw [he]; rfl
  · rw [hp rfl] at h; cases h

/-- A read changes no field outside the count of poisoned reads. -/
theorem rd_obtainLine_clean (s : State) (off : Nat) (f : Field) (i j : Nat) (hl : f.apart Fld.RAS_UE_LO_COUNT i j 0 0)
    (hh : f.apart Fld.RAS_UE_HI_COUNT i j 0 0) : rd (obtainLine s off .clean).1 f i j = rd s f i j := by
  obtain ⟨p, m, h, -⟩ := obtainLine_clean_fst s off
  rw [h]
  exact (rd_congr rfl f i j).trans (rd_countIf p s f i j hl hh)

/-! Reads of the part's own engines (R90, R239) -/

/-- An engine's read leaves the state as it is, or as a line read through its slice does. -/
theorem engineRead_fst (s : State) (who : Requester) (a : GAddr) :
    (engineRead s who a).1 = s ∨ ∃ off, (engineRead s who a).1 = (obtainLine s off .clean).1 := by
  unfold engineRead
  dsimp only
  split
  · exact .inl rfl
  split
  · split
    · exact .inl rfl
    split
    · split
      · exact .inl rfl
      · exact .inr ⟨_, rfl⟩
    · exact .inr ⟨_, rfl⟩
  split
  · split
    · exact .inl rfl
    split
    · exact .inl rfl
    · exact .inl rfl
  · exact .inl rfl

theorem engineRead_frame (s : State) (who : Requester) (a : GAddr) : (engineRead s who a).1 =
    { s with regs := (engineRead s who a).1.regs, mem := (engineRead s who a).1.mem } := by
  obtain h | ⟨off, h⟩ := engineRead_fst s who a
  · rw [h]
  · rw [h]; exact obtainLine_clean_frame s off

theorem rd_engineRead (s : State) (who : Requester) (a : GAddr) (f : Field) (i j : Nat) (hl : f.apart Fld.RAS_UE_LO_COUNT i j 0 0)
    (hh : f.apart Fld.RAS_UE_HI_COUNT i j 0 0) : rd (engineRead s who a).1 f i j = rd s f i j := by
  obtain h | ⟨off, h⟩ := engineRead_fst s who a
  · rw [h]
  · rw [h]; exact rd_obtainLine_clean s off f i j hl hh

/-- What an engine reads depends on the placement of lines, the memory and the device number alone. -/
theorem engineRead_snd_congr {s t : State} (h : SameLayout s t) (hm : t.mem = s.mem) (hd : localDevice t = localDevice s)
    (who : Requester) (a : GAddr) : (engineRead t who a).2 = (engineRead s who a).2 := by
  have ht : tenantOf t who = tenantOf s who := by
    cases who <;> simp only [tenantOf, h.img]
  have hu (x o : Nat) : hashedAllowed t x o = hashedAllowed s x o := by
    unfold hashedAllowed unitTenant; rw [hm]
  have hw (x c : Nat) : windowAllowed t x c = windowAllowed s x c := by
    unfold windowAllowed; rw [h.img, hm]
  unfold engineRead isLocal hashedValid windowOf
  rw [hd, ht, h.img, hm, h.hold]
  simp only [h.placeOf, hu, hw]
  repeat' split
  all_goals simp only [obtainLine_clean_snd, h.peekLine hm]

/-! Launch descriptors (R183, R184) -/

theorem fetchLaunch_local {s : State} {who : Requester} {a : GAddr} (remote : Option (BitVec 512)) (h0 : a.toNat % 64 = 0)
    (h : (isLocal s a && decide (spaceOf a ≠ 4)) = true) : fetchLaunch s who a remote =
      ((engineRead s who a).1, match (engineRead s who a).2 with
        | some (d, false) => readLaunch (lineBytes d)
        | _ => none) := by
  unfold fetchLaunch
  exact (if_neg (not_not.2 h0)).trans (if_pos h)

theorem fetchLaunch_delivered {s : State} {who : Requester} {a : GAddr} (remote : Option (BitVec 512)) (h0 : a.toNat % 64 = 0)
    (h : ¬(isLocal s a && decide (spaceOf a ≠ 4)) = true) :
    fetchLaunch s who a remote = (s, remote.bind (fun d => readLaunch (lineBytes d))) := by
  unfold fetchLaunch
  rw [if_neg (not_not.2 h0), if_neg h]

theorem fetchLaunch_misaligned {s : State} {who : Requester} {a : GAddr} (remote : Option (BitVec 512)) (h0 : a.toNat % 64 ≠ 0) :
    fetchLaunch s who a remote = (s, none) := if_pos h0

/-- A descriptor is fetched without changing the state, or as an engine reads a line. -/
theorem fetchLaunch_fst (s : State) (who : Requester) (a : GAddr) (remote : Option (BitVec 512)) :
    (fetchLaunch s who a remote).1 = s ∨ isLocal s a = true ∧ (fetchLaunch s who a remote).1 = (engineRead s who a).1 := by
  by_cases h0 : a.toNat % 64 = 0
  · by_cases h : (isLocal s a && decide (spaceOf a ≠ 4)) = true
    · rw [fetchLaunch_local remote h0 h]
      exact .inr ⟨(Bool.and_eq_true_iff.1 h).1, rfl⟩
    · rw [fetchLaunch_delivered remote h0 h]
      exact .inl rfl
  · rw [fetchLaunch_misaligned remote h0]
    exact .inl rfl

theorem fetchLaunch_frame (s : State) (who : Requester) (a : GAddr) (remote : Option (BitVec 512)) : (fetchLaunch s who a remote).1 =
    { s with regs := (fetchLaunch s who a remote).1.regs, mem := (fetchLaunch s who a remote).1.mem } := by
  obtain h | ⟨-, h⟩ := fetchLaunch_fst s who a remote
  · rw [h]
  · rw [h]; exact engineRead_frame s who a

theorem rd_fetchLaunch (s : State) (who : Requester) (a : GAddr) (remote : Option (BitVec 512)) (f : Field) (i j : Nat)
    (hl : f.apart Fld.RAS_UE_LO_COUNT i j 0 0) (hh : f.apart Fld.RAS_UE_HI_COUNT i j 0 0) :
    rd (fetchLaunch s who a remote).1 f i j = rd s f i j := by
  obtain h | ⟨-, h⟩ := fetchLaunch_fst s who a remote
  · rw [h]
  · rw [h]; exact rd_engineRead s who a f i j hl hh

theorem fetchLaunch_remote {s : State} {a : GAddr} (who : Requester) (remote : Option (BitVec 512)) (h : isLocal s a = false) :
    (fetchLaunch s who a remote).1 = s :=
  (fetchLaunch_fst s who a remote).resolve_right fun ⟨hl, _⟩ => by rw [h] at hl; cases hl

/-- A descriptor depends on the placement of lines, the memory and the device number alone. -/
theorem fetchLaunch_snd_congr {s t : State} (h : SameLayout s t) (hm : t.mem = s.mem) (hd : localDevice t = localDevice s)
    (who : Requester) (a : GAddr) (remote : Option (BitVec 512)) : (fetchLaunch t who a remote).2 = (fetchLaunch s who a remote).2 := by
  have hl : isLocal t a = isLocal s a := by unfold isLocal; rw [hd]
  by_cases h0 : a.toNat % 64 = 0
  · by_cases hc : (isLocal s a && decide (spaceOf a ≠ 4)) = true
    · rw [fetchLaunch_local remote h0 hc, fetchLaunch_local remote h0 (hl ▸ hc), engineRead_snd_congr h hm hd]
    · rw [fetchLaunch_delivered remote h0 hc, fetchLaunch_delivered remote h0 (hl ▸ hc)]
  · rw [fetchLaunch_misaligned remote h0, fetchLaunch_misaligned remote h0]

/-- A descriptor as read belongs to no Q slot and no serving step. -/
theorem readLaunch_origin {b : List Byte} {l : Launch} (h : readLaunch b = some l) : l.via = none ∧ l.step = none := by
  unfold readLaunch at h
  obtain ⟨-, h⟩ := Option.ite_none_left_eq_some.1 h
  cases h
  exact ⟨rfl, rfl⟩

theorem fetchLaunch_origin {s : State} {who : Requester} {a : GAddr} {remote : Option (BitVec 512)} {l : Launch}
    (h : (fetchLaunch s who a remote).2 = some l) : l.via = none ∧ l.step = none := by
  by_cases h0 : a.toNat % 64 = 0
  · by_cases hc : (isLocal s a && decide (spaceOf a ≠ 4)) = true
    · rw [fetchLaunch_local remote h0 hc] at h
      dsimp only at h
      split at h
      · exact readLaunch_origin h
      · cases h
    · rw [fetchLaunch_delivered remote h0 hc] at h
      obtain ⟨d, -, hd⟩ := Option.bind_eq_some_iff.1 h
      exact readLaunch_origin hd
  · rw [fetchLaunch_misaligned remote h0] at h
    cases h

end Sys2Proof.Machine
end

section
/-! SUPPORT. Launches: what an offered launch leaves in each case, and which launch register a block offset names. -/

namespace Sys2Proof.Machine

/-! Several clusters changed one after another -/

section Fold

variable {β : Type} (g : β → Nat) (f : β → Cluster → Cluster)

theorem foldl_modCl_frame (l : List β) (s : State) :
    l.foldl (fun s e => modCl s (g e) (f e)) s = { s with clu := (l.foldl (fun s e => modCl s (g e) (f e)) s).clu } :=
  foldl_keeps (P := fun t => t = { s with clu := t.clu }) _ (fun t e h => by rw [h]; rfl) l s rfl

theorem cl_foldl_modCl_other {d : Nat} (l : List β) (s : State) (h : ∀ e ∈ l, g e ≠ d) :
    cl (l.foldl (fun s e => modCl s (g e) (f e)) s) d = cl s d := by
  induction l generalizing s with
  | nil => rfl
  | cons e l ih =>
    rw [List.forall_mem_cons] at h
    rw [List.foldl_cons, ih _ h.2, cl_modCl_other _ _ (Ne.symm h.1)]

theorem cl_foldl_modCl {e : β} (l : List β) (s : State) (hn : (l.map g).Nodup) (he : e ∈ l) :
    cl (l.foldl (fun s e => modCl s (g e) (f e)) s) (g e) = f e (cl s (g e)) := by
  induction l generalizing s with
  | nil => cases he
  | cons x l ih =>
    rw [List.map_cons, List.nodup_cons] at hn
    have hne : ∀ y ∈ l, g y ≠ g x := fun y hy e => hn.1 (e ▸ List.mem_map_of_mem hy)
    rw [List.foldl_cons]
    obtain rfl | he := List.mem_cons.1 he
    · rw [cl_foldl_modCl_other g f l _ hne, cl_modCl_same]
    · rw [ih _ hn.2 he, cl_modCl_other _ _ (hne e he)]

end Fold

theorem icinv_foldl_frame (l : List Nat) (s : State) : l.foldl icinv s = { s with clu := (l.foldl icinv s).clu } :=
  foldl_modCl_frame id (fun _ x => { x with icache := [] }) l s

/-- The instruction caches of the listed clusters are empty, and every other cluster is as it was. -/
theorem cl_foldl_icinv (d : Nat) (l : List Nat) (s : State) :
    cl (l.foldl icinv s) d = if d ∈ l then { cl s d with icache := [] } else cl s d := by
  induction l generalizing s with
  | nil => rfl
  | cons c l ih =>
    rw [List.foldl_cons, ih]
    unfold icinv
    by_cases hd : d = c
    · subst hd
      simp
    · rw [cl_modCl_other _ _ hd]
      simp [hd]

/-! A launch offered to a target (R184, R386, R422) -/

/-- A constellation of which a leaf is in DUSK or NIGHT takes no launch (R386). -/
def targetOff (s : State) : LaunchTarget → Bool
  | .con k => (physLeaves s.img k).any (clusterOff s)
  | .cluster _ => false

/-- The part of R184, R386 and R422 that asks neither for room nor for the descriptor. -/
def launchOpen (s : State) (who : Requester) (t : LaunchTarget) : Bool := isReady s && mayLaunch s who t && !targetOff s t

theorem checkLaunch_eq (s : State) (who : Requester) (t : LaunchTarget) (a : GAddr) (remote : Option (BitVec 512)) :
    checkLaunch s who t a remote = if launchOpen s who t then fetchLaunch s who a remote else (s, none) := by
  unfold checkLaunch launchOpen
  cases t with
  | cluster c => cases isReady s <;> cases mayLaunch s who (.cluster c) <;> rfl
  | con k => cases isReady s <;> cases mayLaunch s who (.con k) <;> cases h : (physLeaves s.img k).any (clusterOff s) <;> simp [targetOff, h]

theorem checkLaunch_open {s : State} {who : Requester} {t : LaunchTarget} (a : GAddr) (remote : Option (BitVec 512))
    (h : launchOpen s who t = true) : checkLaunch s who t a remote = fetchLaunch s who a remote := by
  rw [checkLaunch_eq, if_pos h]

theorem checkLaunch_closed {s : State} {who : Requester} {t : LaunchTarget} (a : GAddr) (remote : Option (BitVec 512))
    (h : launchOpen s who t = false) : checkLaunch s who t a remote = (s, none) := by
  rw [checkLaunch_eq, h, if_neg Bool.false_ne_true]

/-- A launch that is refused leaves the state as the reading of its descriptor did, with REFUSED set. -/
theorem offerLaunch_refused {s : State} {who : Requester} {t : LaunchTarget} (a : GAddr) (remote : Option (BitVec 512)) (via step)
    (h : launchOpen s who t = false ∨ (fetchLaunch s who a remote).2 = none) : ∃ u,
    offerLaunch s who t a remote via step = (setRefused u t, .refused) ∧ (u = s ∨ u = (fetchLaunch s who a remote).1) := by
  unfold offerLaunch
  cases ho : launchOpen s who t with
  | false => rw [checkLaunch_closed a remote ho]; exact ⟨s, rfl, .inl rfl⟩
  | true =>
    simp only [checkLaunch_open a remote ho, h.resolve_left (by rw [ho]; decide)]
    exact ⟨_, rfl, .inr rfl⟩

theorem offerLaunch_full {s : State} {who : Requester} {t : LaunchTarget} {a : GAddr} {remote : Option (BitVec 512)} {l : Launch} (via step)
    (ho : launchOpen s who t = true) (hl : (fetchLaunch s who a remote).2 = some l)
    (hf : (targetLeaves s.img t).any (queueFull s) = true) :
    offerLaunch s who t a remote via step = ((fetchLaunch s who a remote).1, .full) := by
  unfold offerLaunch
  simp only [checkLaunch_open a remote ho, hl, if_pos hf]

theorem offerLaunch_entered {s : State} {who : Requester} {t : LaunchTarget} {a : GAddr} {remote : Option (BitVec 512)} {l : Launch} (via step)
    (ho : launchOpen s who t = true) (hl : (fetchLaunch s who a remote).2 = some l)
    (hf : (targetLeaves s.img t).any (queueFull s) = false) : offerLaunch s who t a remote via step =
      (enterLaunch (fetchLaunch s who a remote).1 t { l with via := via, step := step }, .entered) := by
  unfold offerLaunch
  simp only [checkLaunch_open a remote ho, hl, hf, Bool.false_eq_true, if_false]

/-- A write of a launch register that is refused, or finds a full queue, sets REFUSED. -/
theorem launchWrite_refused {s : State} {who : Requester} {t : LaunchTarget} (a : GAddr) (remote : Option (BitVec 512))
    (h : launchOpen s who t = false ∨ (fetchLaunch s who a remote).2 = none ∨ (targetLeaves s.img t).any (queueFull s) = true) :
    ∃ u, launchWrite s who t a remote = setRefused u t ∧ (u = s ∨ u = (fetchLaunch s who a remote).1) := by
  unfold launchWrite
  by_cases hr : launchOpen s who t = false ∨ (fetchLaunch s who a remote).2 = none
  · obtain ⟨u, hu, hs⟩ := offerLaunch_refused a remote none none hr
    rw [hu]
    exact ⟨u, rfl, hs⟩
  · rw [not_or, Bool.not_eq_false] at hr
    obtain ⟨l, hl⟩ := Option.ne_none_iff_exists'.1 hr.2
    rw [offerLaunch_full none none hr.1 hl ((h.resolve_left (by rw [hr.1]; decide)).resolve_left hr.2)]
    exact ⟨_, rfl, .inr rfl⟩

theorem launchWrite_entered {s : State} {who : Requester} {t : LaunchTarget} {a : GAddr} {remote : Option (BitVec 512)} {l : Launch}
    (ho : launchOpen s who t = true) (hl : (fetchLaunch s who a remote).2 = some l)
    (hf : (targetLeaves s.img t).any (queueFull s) = false) :
    launchWrite s who t a remote = enterLaunch (fetchLaunch s who a remote).1 t l := by
  obtain ⟨hv, hs⟩ := fetchLaunch_origin hl
  have he : { l with via := none, step := none } = l := by cases l; simp_all
  unfold launchWrite
  rw [offerLaunch_entered none none ho hl hf, he]
  rfl

@[simp] theorem cl_reply (s : State) (who : Requester) (a : Answer) (c : Nat) : cl (reply s who a) c = cl s c := rfl

theorem enterLaunch_cluster (s : State) (c : Nat) (l : Launch) : enterLaunch s (.cluster c) l =
    modCl s c (fun x => { x with queue := x.queue ++ [{ l with tenant := (physTenant s.img c).getD 0xFFFF }] }) := rfl

/-- The account of a launch through a constellation that begins (R43). -/
def conRunBegun (s : State) (k : Nat) (l : Launch) : State :=
  { s with seq := { s.seq with
    nextRun := s.seq.nextRun + 1
    conRuns := s.seq.conRuns ++ [⟨s.seq.nextRun, k, (physLeaves s.img k).length, (physLeaves s.img k).length, l.cpl, false, l.via⟩]
    conDone := KSet.del s.seq.conDone k } }

/-- A launch as it enters the queue of the leaf of a member index. -/
def leafLaunch (s : State) (k : Nat) (l : Launch) (i : Nat) : Launch :=
  { l with con := some (k, s.seq.nextRun), index := i, count := (physLeaves s.img k).length, tenant := (conTenant s.img k).getD 0xFFFF }

theorem enterLaunch_con (s : State) (k : Nat) (l : Launch) : enterLaunch s (.con k) l =
    (physLeaves s.img k).zipIdx.foldl (fun t e => modCl t e.1 (fun x => { x with queue := x.queue ++ [leafLaunch s k l e.2] }))
      (conRunBegun s k l) := rfl

/-- A launch that enters a constellation enters the queue of each leaf, and no other cluster changes (R43). -/
theorem cl_enterLaunch_con {s : State} {k : Nat} {l : Launch} (hn : (physLeaves s.img k).Nodup) :
    (∀ e ∈ (physLeaves s.img k).zipIdx, cl (enterLaunch s (.con k) l) e.1 =
      { cl s e.1 with queue := (cl s e.1).queue ++ [leafLaunch s k l e.2] }) ∧
    ∀ c, c ∉ physLeaves s.img k → cl (enterLaunch s (.con k) l) c = cl s c := by
  rw [enterLaunch_con]
  refine ⟨fun e he => ?_, fun c hc => ?_⟩
  · rw [cl_foldl_modCl (fun e : Nat × Nat => e.1)
      (fun e x => { x with queue := x.queue ++ [leafLaunch s k l e.2] }) _ _ (by rw [List.zipIdx_map_fst]; exact hn) he]
    rfl
  · rw [cl_foldl_modCl_other (fun e : Nat × Nat => e.1)
      (fun e x => { x with queue := x.queue ++ [leafLaunch s k l e.2] })]
    · rfl
    · rintro e he rfl
      exact hc (List.fst_mem_of_mem_zipIdx he)

theorem enterLaunch_con_frame (s : State) (k : Nat) (l : Launch) : enterLaunch s (.con k) l =
    { conRunBegun s k l with clu := (enterLaunch s (.con k) l).clu } :=
  foldl_modCl_frame (fun e : Nat × Nat => e.1) (fun e x => { x with queue := x.queue ++ [leafLaunch s k l e.2] }) _ _

/-! The register a launch block names (R22 to R25, R42) -/

/-- The offset of a target's launch register, as it resolves. -/
def LaunchTarget.block : LaunchTarget → Nat
  | .cluster c => 0x2000000 + c * 65536
  | .con k => 0x4000000 + k * 65536

theorem LaunchTarget.block_cluster (c : Nat) : (LaunchTarget.cluster c).block = 0x2000000 + c * 65536 := rfl
theorem LaunchTarget.block_con (k : Nat) : (LaunchTarget.con k).block = 0x4000000 + k * 65536 := rfl

/-- A register of a CLU block lies below the blocks of logical numbers. -/
theorem isReg_clu_lt {o : Nat} (h : isReg o = true) (hc : o % 65536 < 0x8000) : o < 0x3000000 := by
  by_contra hn
  have h1 : ¬(o < 0x1000000) := by omega
  have h2 : ¬(o < 0x2000000) := by omega
  have hcon : ∀ f ∈ fieldsCON, f.at? o = none := by
    have hall : ∀ f ∈ fieldsCON, f.base = 0x4008000 ∧ f.s1 = 65536 ∧ f.s2 = 0 := by decide
    intro f hf
    obtain ⟨hb, hs1, hs2⟩ := hall f hf
    unfold Field.at?
    split
    · rfl
    · have hmod : (o - 0x4008000) % 65536 ≠ 0 := by omega
      rw [hb, hs1]
      simp [hmod]
  unfold isReg fieldsAt fieldsNear at h
  rw [if_neg h1, if_neg h2, if_neg hn] at h
  split at h
  · cases h
  · split at h
    · rw [List.filter_eq_nil_iff.2 (fun f hf => by rw [hcon f hf]; decide)] at h
      cases h
    · cases h

/-- Which target a block has: a CLU block its cluster, a block of a logical number that number's, a CON block its constellation. -/
theorem launchTarget_cases {img : Image} {b : Nat} {t : LaunchTarget} (h : launchTarget img (b * 65536) = some t) :
    (0x200 ≤ b ∧ b < 0x298 ∧ t = .cluster (b - 0x200)) ∨
    (0x300 ≤ b ∧ b < 0x390 ∧ ∃ c, physOf img (b - 0x300) = some c ∧ t = .cluster c) ∨
    (0x400 ≤ b ∧ b < 0x800 ∧ t = .con (b - 0x400)) := by
  unfold launchTarget at h
  simp only [Nat.mul_div_left b (show 0 < 65536 by decide)] at h
  split at h
  · next hb => exact .inl ⟨hb.1, by omega, (Option.some.inj h).symm⟩
  · split at h
    · next hb =>
      obtain ⟨c, hc, rfl⟩ := Option.map_eq_some_iff.1 h
      exact .inr (.inl ⟨hb.1, by omega, c, hc, rfl⟩)
    · split at h
      · next hb =>
        obtain ⟨r, hr, rfl⟩ := Option.map_eq_some_iff.1 h
        have hnum : r.num = b - 0x400 := by simpa using List.find?_some hr
        exact .inr (.inr ⟨hb.1, by omega, by rw [hnum]⟩)
      · cases h

/-- The register an offset of a launch block names is that of its target's block; a cluster's lies in a CLU block. -/
theorem resolve_block {s : State} {who : Requester} {b x o : Nat} {t : LaunchTarget} (ht : launchTarget s.img (b * 65536) = some t)
    (hx : x < 0x8000) (h : resolve s who (b * 65536 + x) = some o) : o = t.block + x ∧ ∀ c, t = .cluster c → o < 0x3000000 := by
  obtain ⟨h1, h2, rfl⟩ | ⟨h1, h2, c, hc, rfl⟩ | ⟨h1, h2, rfl⟩ := launchTarget_cases ht
  · have ha : aliasNo (b * 65536 + x) = none := if_neg (by omega)
    obtain rfl := resolve_eq_some ha h
    rw [LaunchTarget.block_cluster]
    exact ⟨by omega, fun _ _ => by omega⟩
  · have ha : aliasNo (b * 65536 + x) = some (b - 0x300) := by
      have hd : (b * 65536 + x - 0x3000000) / 65536 = b - 0x300 := by omega
      unfold aliasNo
      rw [if_pos (by omega), hd]
    unfold resolve at h
    split at h
    · cases h
    · rw [ha] at h
      simp only [hc, Option.bind_some] at h
      obtain ⟨hreg, ho⟩ := Option.ite_none_right_eq_some.1 h
      obtain rfl := Option.some.inj ho
      rw [LaunchTarget.block_cluster]
      exact ⟨by omega, fun _ _ => isReg_clu_lt hreg (by omega)⟩
  · have ha : aliasNo (b * 65536 + x) = none := if_neg (by omega)
    obtain rfl := resolve_eq_some ha h
    rw [LaunchTarget.block_con]
    exact ⟨by omega, fun c hc => nomatch hc⟩

/-! Writes of a launch block's registers (R182, R184, R186) -/

theorem block_div (c : Nat) {x : Nat} (hx : x < 65536) : (0x2000000 + c * 65536 + x - 0x2000000) / 65536 = c := by omega
theorem conBlock_div (k : Nat) {x : Nat} (hx : x < 65536) : (0x4000000 + k * 65536 + x - 0x4000000) / 65536 = k := by omega

theorem LaunchTarget.block_add_mod (t : LaunchTarget) {x : Nat} (hx : x < 65536) : (t.block + x) % 65536 = x := by
  cases t with
  | cluster c => rw [block_cluster]; omega
  | con k => rw [block_con]; omega

theorem LaunchTarget.le_block (t : LaunchTarget) : 0x2000000 ≤ t.block := by
  cases t with
  | cluster c => rw [block_cluster]; omega
  | con k => rw [block_con]; omega

theorem writeReg_clu (s : State) (who : Requester) {o : Nat} (v : BitVec 32) (env : WriteEnv) (h1 : 0x2000000 ≤ o) (h2 : o < 0x3000000) :
    writeReg s who o v env = writeClu s who o v env := by
  have e1 : ¬(o < 0x1000000) := by omega
  have e2 : ¬(o < 0x2000000) := by omega
  have e3 : o < 0x4000000 := by omega
  unfold writeReg
  rw [if_neg e1, if_neg e2, if_pos e3]

theorem writeReg_con (s : State) (who : Requester) {o : Nat} (v : BitVec 32) (env : WriteEnv) (h : 0x4000000 ≤ o) :
    writeReg s who o v env = writeCon s who o v env := by
  have e1 : ¬(o < 0x1000000) := by omega
  have e2 : ¬(o < 0x2000000) := by omega
  have e3 : ¬(o < 0x4000000) := by omega
  unfold writeReg
  rw [if_neg e1, if_neg e2, if_neg e3]

/-- The three registers of a launch block that act: the halves of its launch register, and ICINV. -/
theorem writeReg_block (s : State) (who : Requester) {t : LaunchTarget} {x : Nat} (v : BitVec 32) (env : WriteEnv)
    (hx : x = 0 ∨ x = 4 ∨ x = 0x20) (ho : ∀ c, t = .cluster c → t.block + x < 0x3000000) : writeReg s who (t.block + x) v env =
      if x = 0 then keepWo s t.block v
      else if x = 4 then launchWrite s who t (BitVec.ofNat 64 (v.toNat * 2 ^ 32 + (s.regs.read t.block).toNat)) env.remote
      else if bit v 0 then (targetLeaves s.img t).foldl icinv s else s := by
  have hmod := t.block_add_mod (x := x) (by omega)
  have hle := t.le_block
  have h0 : ¬(0x20 = 0) := by decide
  have h4 : ¬(0x20 = 4) := by decide
  cases t with
  | cluster c =>
    have hdiv : ((LaunchTarget.cluster c).block + x - 0x2000000) / 65536 = c := block_div c (by omega)
    rw [writeReg_clu _ _ _ _ (by omega) (ho c rfl)]
    unfold writeClu
    rw [hmod, hdiv]
    obtain rfl | rfl | rfl := hx
    · rw [if_pos rfl, if_pos rfl, Nat.add_zero]
    · rw [if_neg (by decide), if_pos rfl, if_neg (by decide), if_pos rfl, Nat.add_sub_cancel]
    · rw [if_neg h0, if_neg h4, if_pos rfl, if_neg h0, if_neg h4]
      rfl
  | con k =>
    have hdiv : ((LaunchTarget.con k).block + x - 0x4000000) / 65536 = k := conBlock_div k (by omega)
    have hcon : 0x4000000 ≤ (LaunchTarget.con k).block + x := by rw [LaunchTarget.block_con]; omega
    rw [writeReg_con _ _ _ _ hcon]
    unfold writeCon
    rw [hmod, hdiv]
    obtain rfl | rfl | rfl := hx
    · rw [if_pos rfl, if_pos rfl, Nat.add_zero]
    · rw [if_neg (by decide), if_pos rfl, if_neg (by decide), if_pos rfl, Nat.add_sub_cancel]
    · rw [if_neg h0, if_neg h4, if_neg (by decide), if_pos rfl, if_neg h0, if_neg h4]
      rfl

end Sys2Proof.Machine
end

section
/-! PROOFS. Writes of launch registers, the invalidation of instruction caches, and held launches (O20). -/

namespace Sys2Proof.Machine

/-! A write that reaches its registers -/

/-- What the gate of R2, R24, R412 and R424 asks does not depend on the access's value. -/
theorem mmioGate_isNone (s : State) (who : Requester) (off : Nat) (write wide : Bool) (v : BitVec 64) :
    (mmioGate s who off write wide v).isNone = (!bootHeld s who && !aliasHeld s off && !accessStopped s who off wide) := by
  unfold mmioGate
  cases bootHeld s who
  · cases aliasHeld s off
    · cases accessStopped s who off wide <;> rfl
    · rfl
  · rfl

theorem regOpen_quiet (s : State) (who : Requester) (off : Nat) (wide : Bool) : regOpen (quiet s) who off wide = regOpen s who off wide := by
  unfold regOpen
  rw [mmioGate_isNone, mmioGate_isNone, mgmtRefused_quiet]
  rfl

theorem mmioWrite_open {s : State} {who : Requester} {off : Nat} {wide : Bool} (v : BitVec 64) (env : WriteEnv)
    (h : regOpen s who off wide = true) : mmioWrite s who off wide v env = reply (writeHalves s who off wide v env) who .done := by
  simp only [regOpen, mmioGate_isNone, Bool.and_eq_true] at h
  obtain ⟨⟨⟨hg, hm⟩, he⟩, ho⟩ := h
  have hgate : mmioGate s who off true wide v = none := by
    rw [← Option.isNone_iff_eq_none, mmioGate_isNone]; simpa only [Bool.and_eq_true] using hg
  rw [Option.isNone_iff_eq_none] at hm ho
  unfold mmioWrite noteOffending
  simp only [hgate, hm, ho, Bool.eq_false_iff.2 (by simpa using he), Bool.false_eq_true, if_false]

/-- The halves of an access that reaches its registers: its offset is aligned and names them. -/
theorem regOpen_wide {s : State} {who : Requester} {off : Nat} (h : regOpen s who off true = true) :
    off % 8 = 0 ∧ (∃ o, resolve s who off = some o) ∧ ∃ o, resolve s who (off + 4) = some o := by
  simp only [regOpen, Bool.and_eq_true, offendingAt, if_true] at h
  obtain ⟨-, ho⟩ := h
  by_cases h8 : off % 8 = 0
  · rw [if_neg (not_not.2 h8)] at ho
    cases h1 : resolve s who off with
    | none => rw [h1] at ho; cases ho
    | some o =>
      cases h2 : resolve s who (off + 4) with
      | none => rw [h1, h2] at ho; cases ho
      | some o' => exact ⟨h8, ⟨o, rfl⟩, o', rfl⟩
  · rw [if_pos h8] at ho; cases ho

theorem regOpen_narrow {s : State} {who : Requester} {off : Nat} (h : regOpen s who off false = true) : ∃ o, resolve s who off = some o := by
  simp only [regOpen, Bool.and_eq_true, offendingAt, Bool.false_eq_true, if_false] at h
  obtain ⟨-, ho⟩ := h
  cases h1 : resolve s who off with
  | none => rw [h1] at ho; cases ho
  | some o => exact ⟨o, rfl⟩

/-! What a write of a launch block's low half leaves -/

theorem rd_keepWo (s : State) {o : Nat} (v : BitVec 32) (f : Field) (i j : Nat) (h : f.addr i j ≠ o) : rd (keepWo s o v) f i j = rd s f i j := by
  unfold rd Regs.getF keepWo
  rw [Regs.read_write_other _ _ h]

/-- A register above the hub's decides no resolution of an offset. -/
theorem resolve_keepWo (s : State) (who : Requester) {o : Nat} (v : BitVec 32) (ho : 0x1000000 ≤ o) (off : Nat) :
    resolve (keepWo s o v) who off = resolve s who off := by
  have hA : rd (keepWo s o v) Fld.SAF_STATUS_DIE_A = rd s Fld.SAF_STATUS_DIE_A := rd_keepWo _ _ _ _ _ (ne_of_lt (ho.trans_lt' (by decide)))
  have hB : rd (keepWo s o v) Fld.SAF_STATUS_DIE_B = rd s Fld.SAF_STATUS_DIE_B := rd_keepWo _ _ _ _ _ (ne_of_lt (ho.trans_lt' (by decide)))
  have hclu (c : Nat) : cluAnswers (keepWo s o v) who c = cluAnswers s who c := by
    unfold cluAnswers clusterEclipse dieEclipse
    rw [hA, hB]
    rfl
  have hvec (n : Nat) : hasVector (keepWo s o v) who n = hasVector s who n := by cases who <;> rfl
  unfold resolve
  simp only [hclu, hvec]
  rfl

/-- REFUSED of a target. -/
def refusedOf (s : State) : LaunchTarget → Nat
  | .cluster c => rd s Fld.CLU_LSTAT_REFUSED c
  | .con k => rd s (conField Fld.CLU_LSTAT_REFUSED) k

theorem setRefused_frame (s : State) (t : LaunchTarget) : setRefused s t = { s with regs := (setRefused s t).regs } := by
  cases t <;> rfl

theorem refusedOf_setRefused (s : State) (t : LaunchTarget) : refusedOf (setRefused s t) t = 1 := by
  cases t with
  | cluster c => exact rd_flag_same s _ c 0 (by decide) (by decide)
  | con k => exact rd_flag_same s _ k 0 (by decide) (by decide)

theorem refusedOf_congr {s u : State} (h : u.regs = s.regs) (t : LaunchTarget) : refusedOf u t = refusedOf s t := by
  cases t <;> exact rd_congr h _ _ _

/-- A launch whose low half has been stored. -/
def launchBegun (s : State) (t : LaunchTarget) (addr : GAddr) : State := keepWo (quiet s) t.block (addr.setWidth 32)

theorem refusedOf_launchBegun (s : State) (t : LaunchTarget) (addr : GAddr) : refusedOf (launchBegun s t addr) t = refusedOf s t := by
  cases t with
  | cluster c =>
    refine rd_keepWo (quiet s) _ _ _ _ ?_
    rw [LaunchTarget.block_cluster, Field.addr, show Fld.CLU_LSTAT_REFUSED.base = 0x2000008 from rfl, show Fld.CLU_LSTAT_REFUSED.s1 = 65536 from rfl]
    omega
  | con k =>
    refine rd_keepWo (quiet s) _ _ _ _ ?_
    rw [LaunchTarget.block_con, Field.addr, show (conField Fld.CLU_LSTAT_REFUSED).base = 0x4000008 from rfl,
      show (conField Fld.CLU_LSTAT_REFUSED).s1 = 65536 from rfl]
    omega

/-- A register of the hub reads as it did. -/
theorem rd_launchBegun (s : State) (t : LaunchTarget) (addr : GAddr) (f : Field) (h : f.addr 0 0 < 0x2000000) :
    rd (launchBegun s t addr) f = rd s f :=
  rd_keepWo (quiet s) _ f 0 0 (ne_of_lt (h.trans_le t.le_block))

theorem clusterOff_launchBegun (s : State) (t : LaunchTarget) (addr : GAddr) (c : Nat) :
    clusterOff (launchBegun s t addr) c = clusterOff s c := by
  have hne : Fld.CLU_PWR_STATE.addr c 0 ≠ t.block := by
    have hmod := t.block_add_mod (x := 0) (by decide)
    rw [Field.addr, show Fld.CLU_PWR_STATE.base = 0x200F000 from rfl, show Fld.CLU_PWR_STATE.s1 = 65536 from rfl]
    omega
  unfold clusterOff
  rw [show rd (launchBegun s t addr) Fld.CLU_PWR_STATE c = rd s Fld.CLU_PWR_STATE c from rd_keepWo (quiet s) _ _ _ _ hne]

theorem launchOpen_launchBegun (s : State) (who : Requester) (t : LaunchTarget) (addr : GAddr) :
    launchOpen (launchBegun s t addr) who t = launchOpen s who t := by
  have hready : isReady (launchBegun s t addr) = isReady s := by
    unfold isReady; rw [rd_launchBegun _ _ _ _ (by decide)]
  have hoff : targetOff (launchBegun s t addr) t = targetOff s t := by
    cases t with
    | cluster c => rfl
    | con k => exact congrArg (List.any _) (funext (clusterOff_launchBegun s _ addr))
  have hmay : mayLaunch (launchBegun s t addr) who t = mayLaunch s who t := by cases who <;> rfl
  unfold launchOpen
  rw [hready, hoff, hmay]

theorem localDevice_launchBegun (s : State) (t : LaunchTarget) (addr : GAddr) : localDevice (launchBegun s t addr) = localDevice s :=
  rd_launchBegun s t addr _ (by decide)

theorem fetchLaunch_launchBegun (s : State) (t : LaunchTarget) (addr : GAddr) (who : Requester) (remote : Option (BitVec 512)) :
    (fetchLaunch (launchBegun s t addr) who addr remote).2 = (fetchLaunch (quiet s) who addr remote).2 :=
  fetchLaunch_snd_congr (s := quiet s) (t := launchBegun s t addr)
    (.of_load rfl rfl (rd_launchBegun s t addr Fld.IMG_STATUS_STATE (by decide))) rfl (localDevice_launchBegun s t addr) who addr remote

theorem fetchLaunch_launchBegun_mem {s : State} {t : LaunchTarget} {addr : GAddr} (who : Requester) (remote : Option (BitVec 512))
    (h : isLocal s addr = false) : (fetchLaunch (launchBegun s t addr) who addr remote).1.mem = s.mem := by
  have hl : isLocal (launchBegun s t addr) addr = false := by unfold isLocal at h ⊢; rw [localDevice_launchBegun]; exact h
  rw [fetchLaunch_remote who remote hl]
  rfl

/-! CLU_LAUNCH_WRITE (R42, R43, R184) -/

/-- Joining the halves of a 64-bit value. -/
theorem join_halves (a : BitVec 64) :
    BitVec.ofNat 64 ((BitVec.ofNat 32 (a.toNat / 2 ^ 32)).toNat * 2 ^ 32 + (a.setWidth 32).toNat) = a := by
  apply BitVec.eq_of_toNat_eq
  simp only [BitVec.toNat_ofNat, BitVec.toNat_setWidth]
  omega

/-- A write of a launch register offers the launch at the address written. -/
theorem exec_cluLaunchWrite_open {s : State} {who : Requester} {block : BitVec 11} {t : LaunchTarget} (addr : GAddr)
    (remote : Option (BitVec 512)) (ho : regOpen s who (block.toNat * 65536) true = true) (hb : 0x200 ≤ block.toNat)
    (ht : launchTarget s.img (block.toNat * 65536) = some t) : exec (.cluLaunchWrite who block addr remote) s =
      .next (reply (launchWrite (launchBegun s t addr) who t addr remote) who .done) := by
  obtain ⟨h8, ⟨o, hlo⟩, o', hhi⟩ := regOpen_wide ho
  obtain ⟨rfl, hclu⟩ := resolve_block (x := 0) ht (by decide) (by rw [Nat.add_zero]; exact hlo)
  obtain ⟨rfl, hclu4⟩ := resolve_block ht (by decide) hhi
  have hne (n : Nat) (hn : n < 0x2000000) : block.toNat * 65536 ≠ n := by omega
  have hfirst : writeHalf (quiet s) who (block.toNat * 65536) (addr.setWidth 32) ⟨remote, true, true⟩ = launchBegun s t addr := by
    have hq : resolve (quiet s) who (block.toNat * 65536) = some (t.block + 0) := hlo
    simp only [writeHalf, hq]
    rw [writeReg_block _ _ _ _ (.inl rfl) hclu]
    rfl
  have hread : (launchBegun s t addr).regs.read t.block = addr.setWidth 32 := Regs.read_write_same ..
  have hsecond : writeHalf (launchBegun s t addr) who (block.toNat * 65536 + 4) (BitVec.ofNat 32 (addr.toNat / 2 ^ 32)) ⟨remote, true, true⟩ =
      launchWrite (launchBegun s t addr) who t addr remote := by
    have hq : resolve (launchBegun s t addr) who (block.toNat * 65536 + 4) = some (t.block + 4) :=
      (resolve_keepWo (quiet s) who _ (t.le_block.trans' (by decide)) _).trans hhi
    simp only [writeHalf, hq]
    rw [writeReg_block _ _ _ _ (.inr (.inl rfl)) hclu4, if_neg (by decide), if_pos rfl, hread, join_halves]
  show Host.Outcome.next (if 0x200 ≤ block.toNat then mmioWrite (quiet s) who (block.toNat * 65536) true addr ⟨remote, true, true⟩
    else quiet s) = _
  rw [if_pos hb, mmioWrite_open _ _ ((regOpen_quiet ..).trans ho)]
  unfold writeHalves
  rw [if_pos rfl, if_neg (not_not.2 h8), if_neg (hne _ (by decide)), if_neg (hne _ (by decide)), hfirst, hsecond]

/-- A launch write that is refused, or finds a queue full: REFUSED is set, and no more changes than the reading of the descriptor does. -/
theorem exec_cluLaunchWrite_refused {s : State} {who : Requester} {block : BitVec 11} {t : LaunchTarget} {addr : GAddr}
    {remote : Option (BitVec 512)} (ho : regOpen s who (block.toNat * 65536) true = true) (hb : 0x200 ≤ block.toNat)
    (ht : launchTarget s.img (block.toNat * 65536) = some t)
    (h : launchOpen s who t = false ∨ (fetchLaunch (quiet s) who addr remote).2 = none ∨ (targetLeaves s.img t).any (queueFull s) = true) :
    ∃ u, exec (.cluLaunchWrite who block addr remote) s = .next u ∧
      u = { s with out := [⟨some who, .done⟩], regs := u.regs, mem := u.mem } ∧ (isLocal s addr = false → u.mem = s.mem) ∧
      refusedOf u t = 1 := by
  have h' : launchOpen (launchBegun s t addr) who t = false ∨ (fetchLaunch (launchBegun s t addr) who addr remote).2 = none ∨
      (targetLeaves (launchBegun s t addr).img t).any (queueFull (launchBegun s t addr)) = true := by
    rw [launchOpen_launchBegun, fetchLaunch_launchBegun]; exact h
  obtain ⟨u, hu, hs⟩ := launchWrite_refused addr remote h'
  have hframe : u = { s with out := [], regs := u.regs, mem := u.mem } := by
    obtain rfl | rfl := hs
    · rfl
    · rw [fetchLaunch_frame]; rfl
  refine ⟨_, (exec_cluLaunchWrite_open addr remote ho hb ht).trans (by rw [hu]), ?_, fun hl => ?_, ?_⟩
  · rw [setRefused_frame, hframe]; rfl
  · rw [reply_mem, setRefused_frame]
    obtain rfl | rfl := hs
    · rfl
    · exact fetchLaunch_launchBegun_mem who remote hl
  · exact (refusedOf_congr rfl t).trans (refusedOf_setRefused u t)

/-- A launch write that enters: the launch goes into the queues of its target, once its descriptor has been read. -/
theorem exec_cluLaunchWrite_entered {s : State} {who : Requester} {block : BitVec 11} {t : LaunchTarget} {addr : GAddr}
    {remote : Option (BitVec 512)} {l : Launch} (ho : regOpen s who (block.toNat * 65536) true = true) (hb : 0x200 ≤ block.toNat)
    (ht : launchTarget s.img (block.toNat * 65536) = some t) (hopen : launchOpen s who t = true)
    (hl : (fetchLaunch (quiet s) who addr remote).2 = some l) (hf : (targetLeaves s.img t).any (queueFull s) = false) :
    ∃ u, exec (.cluLaunchWrite who block addr remote) s = .next (reply (enterLaunch u t l) who .done) ∧
      u = { s with out := [], regs := u.regs, mem := u.mem } ∧ (isLocal s addr = false → u.mem = s.mem) ∧
      refusedOf u t = refusedOf s t := by
  have he := exec_cluLaunchWrite_open addr remote ho hb ht
  rw [launchWrite_entered (s := launchBegun s t addr) ((launchOpen_launchBegun ..).trans hopen) ((fetchLaunch_launchBegun ..).trans hl) hf] at he
  refine ⟨_, he, ?_, fun hloc => ?_, ?_⟩
  · rw [fetchLaunch_frame]; rfl
  · exact fetchLaunch_launchBegun_mem who remote hloc
  · rw [← refusedOf_launchBegun s t addr]
    have hue : Fld.RAS_UE_LO_COUNT.addr < 0x2000000 ∧ Fld.RAS_UE_HI_COUNT.addr < 0x2000000 := by decide
    cases t with
    | cluster c =>
      have hc : 0x2000000 ≤ Fld.CLU_LSTAT_REFUSED.addr c := Nat.le_add_right_of_le (Nat.le_add_right_of_le (by decide))
      exact rd_fetchLaunch _ _ _ _ _ _ _ (.inl (by omega)) (.inl (by omega))
    | con k =>
      have hk : 0x2000000 ≤ (conField Fld.CLU_LSTAT_REFUSED).addr k := Nat.le_add_right_of_le (Nat.le_add_right_of_le (by decide))
      exact rd_fetchLaunch _ _ _ _ _ _ _ (.inl (by omega)) (.inl (by omega))

/-! CLU_ICINV_WRITE (R182) -/

theorem exec_cluIcinvWrite_open {s : State} {who : Requester} {block : BitVec 11} {t : LaunchTarget}
    (ho : regOpen s who (block.toNat * 65536 + 0x20) false = true) (hb : 0x200 ≤ block.toNat)
    (ht : launchTarget s.img (block.toNat * 65536) = some t) :
    exec (.cluIcinvWrite who block) s = .next (reply ((targetLeaves s.img t).foldl icinv (quiet s)) who .done) := by
  obtain ⟨o, hr⟩ := regOpen_narrow ho
  obtain ⟨rfl, hclu⟩ := resolve_block ht (by decide) hr
  have hq : resolve (quiet s) who (block.toNat * 65536 + 0x20) = some (t.block + 0x20) := hr
  show Host.Outcome.next (if 0x200 ≤ block.toNat then mmioWrite (quiet s) who (block.toNat * 65536 + 0x20) false 1#64 .plain
    else quiet s) = _
  rw [if_pos hb, mmioWrite_open _ _ ((regOpen_quiet ..).trans ho)]
  unfold writeHalves writeHalf
  simp only [hq, Bool.false_eq_true, if_false]
  rw [writeReg_block _ _ _ _ (.inr (.inr rfl)) hclu, if_neg (by decide), if_neg (by decide), if_pos (by decide)]
  rfl

/-! LAUNCH_QUEUE_ENTER (R206) -/

theorem launchOpen_quiet (s : State) (who : Requester) (t : LaunchTarget) : launchOpen (quiet s) who t = launchOpen s who t := rfl

theorem exec_launchQueueEnter_none {s : State} {c : Fin 152} (remote : Option (BitVec 512)) (h : (cl s c.val).heldLaunches = []) :
    exec (.launchQueueEnter c remote) s = .next (quiet s) := by
  have hq : (cl (quiet s) c.val).heldLaunches = [] := h
  show execLaunchQueueEnter c remote s = _
  simp only [execLaunchQueueEnter, hq]

theorem exec_launchQueueEnter_held {s : State} {c : Fin 152} (remote : Option (BitVec 512)) {h : HeldLaunch} {rest : List HeldLaunch}
    {t : LaunchTarget} (hh : (cl s c.val).heldLaunches = h :: rest) (ht : launchTarget s.img h.target = some t) :
    exec (.launchQueueEnter c remote) s = .next (match offerLaunch (quiet s) (.cluster c) t h.addr remote (some (c.val, h.h)) none with
      | (u, .entered) => modCl u c.val (fun x => { x with heldLaunches := rest })
      | (u, .full) => u
      | (u, .refused) => modCl (modCl u c.val (fun x => addDeferred x 0x06 6 7 h.pc)) c.val (fun x => { x with heldLaunches := rest })) := by
  have hq : (cl (quiet s) c.val).heldLaunches = h :: rest := hh
  have htq : launchTarget (quiet s).img h.target = some t := ht
  show execLaunchQueueEnter c remote s = _
  simp only [execLaunchQueueEnter, hq, launchFrom, htq]
  rcases offerLaunch (quiet s) (.cluster c) t h.addr remote (some (c.val, h.h)) none with ⟨u, r⟩
  cases r <;> rfl

/-- A held launch that is refused leaves its core with a deferred fault (R206). -/
theorem exec_launchQueueEnter_refused {s : State} {c : Fin 152} {remote : Option (BitVec 512)} {h : HeldLaunch} {rest : List HeldLaunch}
    {d : Nat} (hh : (cl s c.val).heldLaunches = h :: rest) (ht : launchTarget s.img h.target = some (.cluster d))
    (hl : isLocal s h.addr = false)
    (hr : launchOpen s (.cluster c) (.cluster d) = false ∨ (fetchLaunch (quiet s) (.cluster c) h.addr remote).2 = none) :
    exec (.launchQueueEnter c remote) s = .next (modCl (modCl (flag (quiet s) Fld.CLU_LSTAT_REFUSED d) c.val
      (fun x => addDeferred x 0x06 6 7 h.pc)) c.val (fun x => { x with heldLaunches := rest })) := by
  obtain ⟨u, hu, hs⟩ := offerLaunch_refused (s := quiet s) h.addr remote (some (c.val, h.h)) none (by rw [launchOpen_quiet]; exact hr)
  rw [fetchLaunch_remote (s := quiet s) _ _ hl, or_self] at hs
  rw [exec_launchQueueEnter_held remote hh ht, hu, hs]
  rfl

theorem exec_launchQueueEnter_full {s : State} {c : Fin 152} {remote : Option (BitVec 512)} {h : HeldLaunch} {rest : List HeldLaunch}
    {d : Nat} {x : Launch} (hh : (cl s c.val).heldLaunches = h :: rest) (ht : launchTarget s.img h.target = some (.cluster d))
    (hl : isLocal s h.addr = false) (ho : launchOpen s (.cluster c) (.cluster d) = true)
    (hx : (fetchLaunch (quiet s) (.cluster c) h.addr remote).2 = some x) (hf : queueFull s d = true) :
    exec (.launchQueueEnter c remote) s = .next (quiet s) := by
  have hany : (targetLeaves (quiet s).img (.cluster d)).any (queueFull (quiet s)) = true := by
    show [d].any (queueFull s) = true
    simpa using hf
  rw [exec_launchQueueEnter_held remote hh ht, offerLaunch_full (s := quiet s) _ _ ((launchOpen_quiet ..).trans ho) hx hany,
      fetchLaunch_remote (s := quiet s) _ _ hl]

theorem exec_launchQueueEnter_entered {s : State} {c : Fin 152} {remote : Option (BitVec 512)} {h : HeldLaunch} {rest : List HeldLaunch}
    {d : Nat} {x : Launch} (hh : (cl s c.val).heldLaunches = h :: rest) (ht : launchTarget s.img h.target = some (.cluster d))
    (hl : isLocal s h.addr = false) (ho : launchOpen s (.cluster c) (.cluster d) = true)
    (hx : (fetchLaunch (quiet s) (.cluster c) h.addr remote).2 = some x) (hf : queueFull s d = false) :
    exec (.launchQueueEnter c remote) s = .next (modCl (modCl (quiet s) d (fun y => { y with
      queue := y.queue ++ [{ x with via := some (c.val, h.h), tenant := (physTenant s.img d).getD 0xFFFF }] })) c.val
      (fun y => { y with heldLaunches := rest })) := by
  have hany : (targetLeaves (quiet s).img (.cluster d)).any (queueFull (quiet s)) = false := by
    show [d].any (queueFull s) = false
    simpa using hf
  have hstep : x.step = none := (fetchLaunch_origin hx).2
  rw [exec_launchQueueEnter_held remote hh ht, offerLaunch_entered (s := quiet s) _ _ ((launchOpen_quiet ..).trans ho) hx hany,
      fetchLaunch_remote (s := quiet s) _ _ hl,
    ← hstep]
  rfl

/-! The launches that enter, queue by queue -/

theorem launchOpen_cluster (s : State) (who : Requester) (c : Nat) :
    launchOpen s who (.cluster c) = (isReady s && mayLaunch s who (.cluster c)) := Bool.and_true _

theorem launchOpen_con (s : State) (who : Requester) (k : Nat) :
    launchOpen s who (.con k) = (isReady s && mayLaunch s who (.con k) && !(physLeaves s.img k).any (clusterOff s)) := rfl

/-- A write of a cluster's launch register. -/
theorem launchWrite_cluster {s : State} {who : Requester} {block : BitVec 11} {addr : GAddr} {remote : Option (BitVec 512)} {c : Nat}
    (ho : regOpen s who (block.toNat * 65536) true = true) (hb : 0x200 ≤ block.toNat)
    (ht : launchTarget s.img (block.toNat * 65536) = some (.cluster c)) : ∃ t, exec (.cluLaunchWrite who block addr remote) s = .next t ∧
    t = { s with out := [⟨some who, .done⟩], regs := t.regs, mem := t.mem, clu := t.clu } ∧ (isLocal s addr = false → t.mem = s.mem) ∧
    (let l := (fetchLaunch (quiet s) who addr remote).2
     (isReady s = false ∨ mayLaunch s who (.cluster c) = false ∨ l = none ∨ queueFull s c = true →
        t.clu = s.clu ∧ rd t Fld.CLU_LSTAT_REFUSED c = 1) ∧
     (∀ d, isReady s = true → mayLaunch s who (.cluster c) = true → l = some d → queueFull s c = false →
       rd t Fld.CLU_LSTAT_REFUSED c = rd s Fld.CLU_LSTAT_REFUSED c ∧
       (cl t c) = { cl s c with queue := (cl s c).queue ++ [{ d with tenant := (physTenant s.img c).getD 0xFFFF }] } ∧
       ∀ e, e ≠ c → cl t e = cl s e)) := by
  have hfull : (targetLeaves s.img (.cluster c)).any (queueFull s) = queueFull s c := by simp [targetLeaves]
  by_cases hr : isReady s = false ∨ mayLaunch s who (.cluster c) = false ∨ (fetchLaunch (quiet s) who addr remote).2 = none ∨
      queueFull s c = true
  · obtain ⟨t, he, hs, hm, hset⟩ := exec_cluLaunchWrite_refused (addr := addr) (remote := remote) ho hb ht (by
      rw [launchOpen_cluster, hfull, Bool.and_eq_false_iff, or_assoc]; exact hr)
    refine ⟨t, he, by rw [hs], hm, fun _ => ⟨by rw [hs], hset⟩, fun d h1 h2 h3 h4 => absurd hr ?_⟩
    simp [h1, h2, h3, h4]
  · simp only [not_or, Bool.not_eq_false, Bool.not_eq_true] at hr
    obtain ⟨hready, hmay, hsome, hroom⟩ := hr
    obtain ⟨l, hl⟩ := Option.ne_none_iff_exists'.1 hsome
    obtain ⟨u, he, hs, hm, hset⟩ := exec_cluLaunchWrite_entered ho hb ht (by rw [launchOpen_cluster, hready, hmay]; rfl) hl
      (hfull.trans hroom)
    have himg : u.img = s.img := by rw [hs]
    have hcl (e : Nat) : cl u e = cl s e := by rw [hs]; rfl
    refine ⟨_, he, ?_, hm, fun hn => absurd hn ?_, fun d _ _ h3 _ => ?_⟩
    · rw [hs]; rfl
    · simp [hready, hmay, hl, hroom]
    · obtain rfl := Option.some.inj (hl.symm.trans h3)
      refine ⟨hset, ?_, fun e hne => ?_⟩
      · rw [cl_reply, enterLaunch_cluster, cl_modCl_same, hcl, himg]
      · rw [cl_reply, enterLaunch_cluster, cl_modCl_other _ _ hne, hcl]

/-- A write of a constellation's launch register. -/
theorem launchWrite_con {s : State} {who : Requester} {block : BitVec 11} {addr : GAddr} {remote : Option (BitVec 512)} {k : Nat}
    (ho : regOpen s who (block.toNat * 65536) true = true) (hb : 0x200 ≤ block.toNat)
    (ht : launchTarget s.img (block.toNat * 65536) = some (.con k)) : ∃ t, exec (.cluLaunchWrite who block addr remote) s = .next t ∧
    t = { s with out := [⟨some who, .done⟩], regs := t.regs, mem := t.mem, clu := t.clu, seq := t.seq } ∧
    (isLocal s addr = false → t.mem = s.mem) ∧
    (let l := (fetchLaunch (quiet s) who addr remote).2
     let ls := physLeaves s.img k
     (isReady s = false ∨ mayLaunch s who (.con k) = false ∨ l = none ∨ (∃ c ∈ ls, clusterOff s c = true ∨ queueFull s c = true) →
       t.clu = s.clu ∧ t.seq = s.seq ∧ rd t (conField Fld.CLU_LSTAT_REFUSED) k = 1) ∧
     (∀ d, isReady s = true → mayLaunch s who (.con k) = true → l = some d →
        (∀ c ∈ ls, clusterOff s c = false ∧ queueFull s c = false) → ls.Nodup →
       (∀ e ∈ ls.zipIdx, cl t e.1 = { cl s e.1 with queue := (cl s e.1).queue ++
         [{ d with con := some (k, s.seq.nextRun), index := e.2, count := ls.length, tenant := (conTenant s.img k).getD 0xFFFF }] }) ∧
       (∀ e, e ∉ ls → cl t e = cl s e) ∧
       t.seq = { s.seq with
         nextRun := s.seq.nextRun + 1
         conRuns := s.seq.conRuns ++ [⟨s.seq.nextRun, k, ls.length, ls.length, d.cpl, false, none⟩]
         conDone := KSet.del s.seq.conDone k })) := by
  by_cases hr : launchOpen s who (.con k) = false ∨ (fetchLaunch (quiet s) who addr remote).2 = none ∨
      (targetLeaves s.img (.con k)).any (queueFull s) = true
  · obtain ⟨t, he, hs, hm, hset⟩ := exec_cluLaunchWrite_refused (addr := addr) (remote := remote) ho hb ht hr
    refine ⟨t, he, by rw [hs], hm, fun _ => ⟨by rw [hs], by rw [hs], hset⟩, fun d h1 h2 h3 h4 => absurd hr ?_⟩
    have hoff : (physLeaves s.img k).any (clusterOff s) = false := List.any_eq_false.2 fun c hc => by simp [(h4 c hc).1]
    have hroom : (targetLeaves s.img (.con k)).any (queueFull s) = false := List.any_eq_false.2 fun c hc => by simp [(h4 c hc).2]
    simp [launchOpen_con, h1, h2, h3, hoff, hroom]
  · simp only [not_or, Bool.not_eq_false, Bool.not_eq_true] at hr
    obtain ⟨hopen, hsome, hroom⟩ := hr
    obtain ⟨l, hl⟩ := Option.ne_none_iff_exists'.1 hsome
    obtain ⟨u, he, hs, hm, -⟩ := exec_cluLaunchWrite_entered ho hb ht hopen hl hroom
    have himg : u.img = s.img := by rw [hs]
    have hseq : u.seq = s.seq := by rw [hs]
    have hcl (e : Nat) : cl u e = cl s e := by rw [hs]; rfl
    rw [launchOpen_con, Bool.and_eq_true, Bool.and_eq_true, Bool.not_eq_true', List.any_eq_false] at hopen
    obtain ⟨⟨hready, hmay⟩, hoff⟩ := hopen
    have hfree := List.any_eq_false.1 hroom
    refine ⟨_, he, ?_, fun hloc => ?_, fun hn => absurd hn ?_, fun d _ _ h3 _ hnd => ?_⟩
    · rw [enterLaunch_con_frame, hs]; rfl
    · rw [reply_mem, enterLaunch_con_frame]; exact hm hloc
    · rintro (h | h | h | ⟨c, hc, h | h⟩)
      · rw [hready] at h; cases h
      · rw [hmay] at h; cases h
      · exact hsome h
      · exact hoff c hc h
      · exact hfree c hc h
    · obtain rfl := Option.some.inj (hl.symm.trans h3)
      obtain ⟨hin, hout⟩ := cl_enterLaunch_con (s := u) (k := k) (l := l) (by rw [himg]; exact hnd)
      have hvia : l.via = none := (fetchLaunch_origin hl).1
      rw [himg] at hin hout
      refine ⟨fun e hmem => ?_, fun e hne => ?_, ?_⟩
      · rw [cl_reply, hin e hmem, hcl, leafLaunch, hseq, himg]
      · rw [cl_reply, hout e hne, hcl]
      · rw [reply_seq, enterLaunch_con_frame]
        unfold conRunBegun
        rw [hseq, himg, hvia]

/-- LAUNCH_QUEUE_ENTER of a core whose oldest held launch names a cluster and lies elsewhere. -/
theorem launchQueueEnter_cluster {s : State} {c : Fin 152} {remote : Option (BitVec 512)} {h : HeldLaunch} {rest : List HeldLaunch} {d : Nat}
    (hh : (cl s c.val).heldLaunches = h :: rest) (ht : launchTarget s.img h.target = some (.cluster d)) (hl : isLocal s h.addr = false) :
    ∃ t, exec (.launchQueueEnter c remote) s = .next t ∧ t = { s with out := [], regs := t.regs, clu := t.clu } ∧
      (let l := (fetchLaunch (quiet s) (.cluster c) h.addr remote).2
       (isReady s = false ∨ mayLaunch s (.cluster c) (.cluster d) = false ∨ l = none → rd t Fld.CLU_LSTAT_REFUSED d = 1 ∧
         cl t c.val = { cl s c.val with heldLaunches := rest, deferred := (cl s c.val).deferred ++ [⟨0x06, 6, 7, h.pc⟩] } ∧
         ∀ e, e ≠ c.val → cl t e = cl s e) ∧
       (∀ x, isReady s = true → mayLaunch s (.cluster c) (.cluster d) = true → l = some x →
         (queueFull s d = true → t.clu = s.clu ∧ t.regs = s.regs) ∧
         (queueFull s d = false → t.regs = s.regs ∧ (cl t c.val).heldLaunches = rest ∧
           (cl t d).queue = (cl s d).queue ++ [{ x with via := some (c.val, h.h), tenant := (physTenant s.img d).getD 0xFFFF }] ∧
           ∀ e, e ≠ c.val → e ≠ d → cl t e = cl s e))) := by
  by_cases hr : isReady s = false ∨ mayLaunch s (.cluster c) (.cluster d) = false ∨
      (fetchLaunch (quiet s) (.cluster c) h.addr remote).2 = none
  · refine ⟨_, exec_launchQueueEnter_refused hh ht hl (by rw [launchOpen_cluster, Bool.and_eq_false_iff, or_assoc]; exact hr), rfl,
      fun _ => ⟨rd_flag_same _ _ _ _ (by decide) (by decide), ?_, fun e hne => ?_⟩, fun x h1 h2 h3 => absurd hr (by simp [h1, h2, h3])⟩
    · rw [cl_modCl_same, cl_modCl_same]; rfl
    · rw [cl_modCl_other _ _ hne, cl_modCl_other _ _ hne]; rfl
  · simp only [not_or, Bool.not_eq_false] at hr
    obtain ⟨hready, hmay, hsome⟩ := hr
    obtain ⟨l, hlaunch⟩ := Option.ne_none_iff_exists'.1 hsome
    have hopen : launchOpen s (.cluster c) (.cluster d) = true := by rw [launchOpen_cluster, hready, hmay]; rfl
    have hnot : ¬(isReady s = false ∨ mayLaunch s (.cluster c) (.cluster d) = false ∨
        (fetchLaunch (quiet s) (.cluster c) h.addr remote).2 = none) := by simp [hready, hmay, hlaunch]
    cases hf : queueFull s d with
    | true =>
      exact ⟨_, exec_launchQueueEnter_full hh ht hl hopen hlaunch hf, rfl, fun hn => absurd hn hnot,
        fun x _ _ _ => ⟨fun _ => ⟨rfl, rfl⟩, fun h => nomatch h⟩⟩
    | false =>
      refine ⟨_, exec_launchQueueEnter_entered hh ht hl hopen hlaunch hf, rfl, fun hn => absurd hn hnot,
        fun x _ _ hx => ⟨(fun h => nomatch h), fun _ => ⟨rfl, ?_, ?_, fun e hc hd => ?_⟩⟩⟩
      · rw [cl_modCl_same]
      · obtain rfl := Option.some.inj (hlaunch.symm.trans hx)
        by_cases hdc : d = c.val
        · rw [hdc, cl_modCl_same, cl_modCl_same]; rfl
        · rw [cl_modCl_other _ _ hdc, cl_modCl_same]; rfl
      · rw [cl_modCl_other _ _ hc, cl_modCl_other _ _ hd]; rfl

/-- Settles O20: a launch that is refused leaves REFUSED and the queues as they were, one that enters does so in every queue of its target;
caches are emptied leaf by leaf; and a held launch enters, waits or is refused as a new one. -/
theorem launchWrites : Obligations.LaunchWrites := by
  unfold Obligations.LaunchWrites
  refine ⟨fun s who block addr remote c ho hb ht => launchWrite_cluster ho hb ht,
    fun s who block addr remote k ho hb ht => launchWrite_con ho hb ht,
    fun s who block ho hb => ⟨fun c ht => ?_, fun k ht => ?_⟩, fun s c remote => ⟨fun hn => ?_, fun h rest d hh ht hl => ?_⟩⟩
  · exact exec_cluIcinvWrite_open ho hb ht
  · refine ⟨_, exec_cluIcinvWrite_open ho hb ht, ?_, fun c hc => ?_, fun c hc => ?_⟩
    · rw [icinv_foldl_frame]; rfl
    · rw [cl_reply, cl_foldl_icinv]; exact if_pos hc
    · rw [cl_reply, cl_foldl_icinv]; exact if_neg hc
  · exact exec_launchQueueEnter_none remote hn
  · exact launchQueueEnter_cluster hh ht hl

end Sys2Proof.Machine
end

section
/-! SUPPORT. Stack lines (R93, R99, R100, R104, R110): what a line reads after a write of it or of another, and once the accepted
writes have landed. -/

namespace Sys2Proof.Machine

/-! Lines as bytes -/

theorem leNat_natLe : ∀ k n : Nat, leNat (natLe k n) = n % 256 ^ k
  | 0, n => by rw [natLe, leNat, Nat.pow_zero, Nat.mod_one]
  | k + 1, n => by
    rw [natLe, leNat, leNat_natLe k, BitVec.toNat_ofNat, Nat.pow_succ' (n := k)]
    exact Nat.mod_mul.symm

theorem natLe_leNat : ∀ bs : List Byte, natLe bs.length (leNat bs) = bs
  | [] => rfl
  | b :: t => by
    have hb := b.isLt
    have hd : leNat (b :: t) / 256 = leNat t := by rw [leNat]; omega
    have hm : BitVec.ofNat 8 (leNat (b :: t)) = b := by
      apply BitVec.eq_of_toNat_eq
      rw [BitVec.toNat_ofNat, leNat]; omega
    rw [List.length_cons, natLe, hd, hm, natLe_leNat t]

theorem leNat_lt : ∀ bs : List Byte, leNat bs < 256 ^ bs.length
  | [] => Nat.one_pos
  | b :: t => by
    have := b.isLt
    have := leNat_lt t
    rw [leNat, List.length_cons, Nat.pow_succ']; omega

theorem leNat_natLe_toNat {w k : Nat} (h : 256 ^ k = 2 ^ w) (d : BitVec w) : leNat (natLe k d.toNat) = d.toNat := by
  rw [leNat_natLe, h, Nat.mod_eq_of_lt d.isLt]

theorem natLe_ofNat_leNat {w : Nat} {bs : List Byte} (h : 256 ^ bs.length = 2 ^ w) : natLe bs.length (BitVec.ofNat w (leNat bs)).toNat = bs := by
  rw [BitVec.toNat_ofNat, ← h, Nat.mod_eq_of_lt (leNat_lt bs), natLe_leNat]

theorem pow_bytes_line : 256 ^ 64 = 2 ^ 512 := by rw [show 512 = 8 * 64 from rfl, Nat.pow_mul]

@[simp] theorem lineOf_lineBytes (d : BitVec 512) : lineOf (lineBytes d) = d := by
  rw [lineOf, lineBytes, leNat_natLe_toNat pow_bytes_line, BitVec.ofNat_toNat, BitVec.setWidth_eq]

theorem lineBytes_lineOf {bs : List Byte} (h : bs.length = 64) : lineBytes (lineOf bs) = bs := by
  have hb := natLe_ofNat_leNat (bs := bs) (w := 512) (by rw [h]; exact pow_bytes_line)
  rwa [h] at hb

/-! What a line reads -/

/-- The line's bytes stand in the stack: its unit is written, and the unit's fill, if one is queued, has come to the line. -/
def lineLive (m : Memory) (n : Nat) : Prop :=
  unitOfLine n ∈ m.written ∧ ∀ f ∈ fillsOf m (chanOfLine n), f.unit = unitOfLine n → f.written.testBit (n % 64) = true

theorem bitsOf_one (x i : Nat) : bitsOf x i 1 = 1 ↔ x.testBit i = true := by
  rw [Nat.testBit_eq_decide_div_mod_eq, decide_eq_true_iff]; rfl

theorem chanOfLine_unit (n : Nat) : unitOfLine n / 2 ^ 19 = chanOfLine n := by simp only [unitOfLine, chanOfLine]; omega

theorem Memory.fills_of_form {m : Memory} (h : m.formOk = true) (ch : Nat) :
    ((fillsOf m ch).map (·.unit)).Nodup ∧ ∀ f ∈ fillsOf m ch, f.unit / 2 ^ 19 = ch ∧ f.unit ∈ m.written :=
  ((Memory.fillsOk_iff m).1 ((Memory.formOk_iff m).1 h).2.2).2 ch

/-- A unit has one fill in its queue. -/
theorem Memory.fill_unique {m : Memory} (h : m.formOk = true) {ch : Nat} {f g : Fill} (hf : f ∈ fillsOf m ch) (hg : g ∈ fillsOf m ch)
    (hu : f.unit = g.unit) : f = g :=
  List.inj_on_of_nodup_map (m.fills_of_form h ch).1 hf hg hu

open Classical in
theorem lineView_eq {m : Memory} (h : m.formOk = true) (n : Nat) :
    lineView m n = if lineLive m n then (rawLine m n, decide (n ∈ m.poison)) else (0#512, false) := by
  unfold lineView lineLive
  by_cases hu : unitOfLine n ∈ m.written
  · rw [if_pos hu]
    split
    next f hf =>
      have hfu : f.unit = unitOfLine n := by simpa using List.find?_some hf
      have hall : (∀ g ∈ fillsOf m (chanOfLine n), g.unit = unitOfLine n → g.written.testBit (n % 64) = true) ↔
          bitsOf f.written (n % 64) 1 = 1 := by
        rw [bitsOf_one]
        refine ⟨fun hg => hg f (List.mem_of_find?_eq_some hf) hfu, fun hb g hg he => ?_⟩
        rwa [m.fill_unique h hg (List.mem_of_find?_eq_some hf) (he.trans hfu.symm)]
      simp only [hu, true_and, hall]
    next hf =>
      rw [List.find?_eq_none] at hf
      rw [if_pos ⟨hu, fun g hg he => absurd (decide_eq_true he) (hf g hg)⟩]
  · rw [if_neg hu, if_neg (fun hl => hu hl.1)]

/-- Two memories read a line alike when it stands in both stacks with the same bytes, or in neither. -/
theorem lineView_congr {m m' : Memory} (h : m.formOk = true) (h' : m'.formOk = true) {n : Nat} (hl : lineLive m' n ↔ lineLive m n)
    (hr : rawLine m' n = rawLine m n) (hp : n ∈ m'.poison ↔ n ∈ m.poison) : lineView m' n = lineView m n := by
  classical
  rw [lineView_eq h, lineView_eq h', hr]
  simp only [hl, hp]

/-- A line in no written unit reads zero. -/
theorem lineView_dead {m : Memory} (h : m.formOk = true) {n : Nat} (hl : ¬lineLive m n) : lineView m n = (0#512, false) := by
  classical
  rw [lineView_eq h, if_neg hl]

theorem lineView_live {m : Memory} (h : m.formOk = true) {n : Nat} (hl : lineLive m n) :
    lineView m n = (rawLine m n, decide (n ∈ m.poison)) := by
  classical
  rw [lineView_eq h, if_pos hl]

/-! One line stored -/

theorem rawLine_storeLine_same (m : Memory) (n : Nat) (d : BitVec 512) (p : Bool) : rawLine (storeLine m n d p) n = d := by
  unfold rawLine storeLine
  have hs := KMap.getSeq_setSeq (fun _ => 0#8) (lineBytes d) m.dram (n * 64)
  rw [length_lineBytes] at hs
  rw [hs, lineOf_lineBytes]

theorem KMap.getSeq_congr {α : Type} (d : Nat → α) (m m' : KMap α) : ∀ n k : Nat, (∀ i, k ≤ i → i < k + n → KMap.get d m' i = KMap.get d m i) →
    KMap.getSeq d m' k n = KMap.getSeq d m k n
  | 0, _, _ => rfl
  | n + 1, k, h => by
    rw [KMap.getSeq, KMap.getSeq, h k (Nat.le_refl k) (by omega),
      KMap.getSeq_congr d m m' n (k + 1) (fun i hi hj => h i (by omega) (by omega))]

theorem rawLine_storeLine_other (m : Memory) {n k : Nat} (d : BitVec 512) (p : Bool) (h : k ≠ n) :
    rawLine (storeLine m n d p) k = rawLine m k := by
  unfold rawLine storeLine
  refine congrArg lineOf (KMap.getSeq_congr _ _ _ _ _ (fun i hi hj => KMap.get_setSeq_other _ _ _ ?_))
  rw [length_lineBytes]; omega

theorem mem_poison_storeLine_same (m : Memory) (n : Nat) (d : BitVec 512) (p : Bool) : decide (n ∈ (storeLine m n d p).poison) = p := by
  cases p <;> simp [storeLine, KSet.mem_add, KSet.mem_del]

theorem mem_poison_storeLine_other (m : Memory) {n k : Nat} (d : BitVec 512) (p : Bool) (h : k ≠ n) :
    k ∈ (storeLine m n d p).poison ↔ k ∈ m.poison := by
  cases p <;> simp [storeLine, KSet.mem_add, KSet.mem_del, h]

theorem lineLive_storeLine (m : Memory) (n : Nat) (d : BitVec 512) (p : Bool) (k : Nat) : lineLive (storeLine m n d p) k ↔ lineLive m k := Iff.rfl

/-! A fill completed for room (R100) -/

theorem fillLine_keeps {m : Memory} {f : Fill} {i n : Nat} (h : f.written.testBit i = true ∨ n ≠ f.unit * 64 + i) :
    rawLine (fillLine m f i) n = rawLine m n ∧ (n ∈ (fillLine m f i).poison ↔ n ∈ m.poison) := by
  unfold fillLine
  by_cases hb : bitsOf f.written i 1 = 1
  · rw [if_pos hb]; exact ⟨rfl, Iff.rfl⟩
  · rw [if_neg hb]
    have hn := h.resolve_left (fun ht => hb ((bitsOf_one _ _).2 ht))
    exact ⟨rawLine_storeLine_other m _ _ hn, mem_poison_storeLine_other m _ _ hn⟩

theorem fillLines_keeps {f : Fill} {n : Nat} : ∀ (l : List Nat) (m : Memory), (∀ i ∈ l, f.written.testBit i = true ∨ n ≠ f.unit * 64 + i) →
    rawLine (l.foldl (fun m i => fillLine m f i) m) n = rawLine m n ∧ (n ∈ (l.foldl (fun m i => fillLine m f i) m).poison ↔ n ∈ m.poison)
  | [], _, _ => ⟨rfl, Iff.rfl⟩
  | i :: l, m, h => by
    obtain ⟨hr, hp⟩ := fillLines_keeps l (fillLine m f i) (fun j hj => h j (List.mem_cons_of_mem _ hj))
    obtain ⟨hr', hp'⟩ := fillLine_keeps (m := m) (h i List.mem_cons_self)
    exact ⟨hr.trans hr', hp.trans hp'⟩

/-- A fill writes zeros, without poison, to each line of its unit that nothing has written. -/
theorem fillLines_zero {f : Fill} {n i : Nat} (hn : n = f.unit * 64 + i) (hb : f.written.testBit i = false) :
    ∀ (l : List Nat) (m : Memory), l.Nodup → i ∈ l → rawLine (l.foldl (fun m i => fillLine m f i) m) n = 0#512 ∧
      n ∉ (l.foldl (fun m i => fillLine m f i) m).poison
  | j :: l, m, hd, hi => by
    obtain ⟨hj, hd⟩ := List.nodup_cons.1 hd
    by_cases he : i = j
    · subst he
      obtain ⟨hr, hp⟩ := fillLines_keeps (f := f) (n := n) l (fillLine m f i) (fun k hk => .inr (fun h => hj
        ((show k = i by omega) ▸ hk)))
      have hs : fillLine m f i = storeLine m n 0#512 false := by
        unfold fillLine
        rw [if_neg (fun h => by rw [bitsOf_one, hb] at h; exact Bool.noConfusion h), hn]
      rw [List.foldl_cons, hr, hp, hs]
      exact ⟨rawLine_storeLine_same m n _ _, of_decide_eq_false (mem_poison_storeLine_same m n _ _)⟩
    · exact fillLines_zero hn hb l _ hd ((List.mem_cons.1 hi).resolve_left he)

theorem fillLines_fillsOf (f : Fill) (ch : Nat) : ∀ (l : List Nat) (m : Memory), fillsOf (l.foldl (fun m i => fillLine m f i) m) ch = fillsOf m ch
  | [], _ => rfl
  | i :: l, m => by
    rw [List.foldl_cons, fillLines_fillsOf f ch l]
    unfold fillLine
    split <;> rfl

theorem fillsOf_setFills (m : Memory) (ch : Nat) (q : List Fill) (k : Nat) : fillsOf (setFills m ch q) k = if k = ch then q else fillsOf m k :=
  KMap.get_set _ _ _ _ _

theorem finishFill_written (m : Memory) (ch : Nat) (f : Fill) : (finishFill m ch f).written = m.written :=
  foldl_storeLine_written _ (fun m i => fillLine_written m f i) _ _

theorem finishFill_fillsOf (m : Memory) (ch : Nat) (f : Fill) (k : Nat) :
    fillsOf (finishFill m ch f) k = if k = ch then (fillsOf m ch).filter (fun g => g.unit ≠ f.unit) else fillsOf m k := by
  unfold finishFill
  simp only [fillsOf_setFills, fillLines_fillsOf]

/-- Every line reads the same before and after a queued fill is completed. -/
theorem lineView_finishFill {m : Memory} (h : m.formOk = true) {ch : Nat} {f : Fill} (hf : f ∈ fillsOf m ch) (n : Nat) :
    lineView (finishFill m ch f) n = lineView m n := by
  have h' := finishFill_formOk m ch f h
  obtain ⟨hch, hw⟩ := (m.fills_of_form h ch).2 f hf
  by_cases hu : unitOfLine n = f.unit
  · have hc : chanOfLine n = ch := by rw [← chanOfLine_unit, hu, hch]
    have hn : n = f.unit * 64 + n % 64 := by rw [← hu, unitOfLine]; omega
    have hlive : lineLive (finishFill m ch f) n := by
      refine ⟨by rw [finishFill_written, hu]; exact hw, fun g hg he => ?_⟩
      rw [finishFill_fillsOf, if_pos hc] at hg
      exact absurd (he.trans hu) (by simpa using (List.mem_filter.1 hg).2)
    have hiff : lineLive m n ↔ f.written.testBit (n % 64) = true := by
      refine ⟨fun hl => hl.2 f (hc.symm ▸ hf) hu.symm, fun hb => ⟨hu ▸ hw, fun g hg he => ?_⟩⟩
      rw [hc] at hg
      rwa [m.fill_unique h hg hf (he.trans hu)]
    rw [lineView_live h' hlive]
    by_cases hb : f.written.testBit (n % 64) = true
    · obtain ⟨hr, hp⟩ := fillLines_keeps (f := f) (n := n) (List.range 64) m (fun i _ => by
        by_cases he : i = n % 64
        · exact .inl (he ▸ hb)
        · exact .inr (by omega))
      rw [lineView_live h (hiff.2 hb)]
      exact Prod.ext hr (decide_eq_decide.2 hp)
    · obtain ⟨hr, hp⟩ := fillLines_zero hn (by simpa using hb) (List.range 64) m List.nodup_range (List.mem_range.2 (Nat.mod_lt _ (by decide)))
      rw [lineView_dead h (fun hl => hb (hiff.1 hl))]
      exact Prod.ext hr (decide_eq_false hp)
  · obtain ⟨hr, hp⟩ := fillLines_keeps (f := f) (n := n) (List.range 64) m (fun i hi => .inr (fun he => hu (by
      have := List.mem_range.1 hi
      rw [unitOfLine]; omega)))
    refine lineView_congr h h' ?_ hr hp
    unfold lineLive
    rw [finishFill_written, finishFill_fillsOf]
    refine and_congr_right (fun _ => ?_)
    split
    next hc =>
      rw [hc]
      exact ⟨fun hg g hgm he => hg g (List.mem_filter.2 ⟨hgm, by simpa [he] using hu⟩) he, fun hg g hgm => hg g (List.mem_of_mem_filter hgm)⟩
    next => exact Iff.rfl

theorem lineView_makeRoom {m : Memory} (h : m.formOk = true) (ch n : Nat) : lineView (makeRoom m ch) n = lineView m n := by
  unfold makeRoom
  split
  next f t hf =>
    split
    · exact lineView_finishFill h (by rw [hf]; exact List.mem_cons_self) n
    · rfl
  next => rfl

/-! One line written to its stack (R100) -/

/-- The fill of a line's unit knows that the line is written. -/
def markFill (n : Nat) (f : Fill) : Fill := if f.unit = unitOfLine n then { f with written := f.written ||| 2 ^ (n % 64) } else f

/-- The queue of a channel once a line of a written unit has been written: a fill leaves when every line of its unit is written. -/
def markFills (m : Memory) (n : Nat) : List Fill := ((fillsOf m (chanOfLine n)).map (markFill n)).filter (fun f => f.written ≠ 2 ^ 64 - 1)

theorem putLine_written {m : Memory} {n : Nat} (d : BitVec 512) (p : Bool) (h : unitOfLine n ∈ m.written) :
    putLine m n d p = storeLine (setFills m (chanOfLine n) (markFills m n)) n d p := by
  unfold putLine
  exact if_pos h

/-- The memory in which a line of an unwritten unit is stored: room made, the unit written, and its fill queued. -/
def openUnit (m : Memory) (n : Nat) : Memory :=
  setFills { makeRoom m (chanOfLine n) with written := KSet.add (makeRoom m (chanOfLine n)).written (unitOfLine n) } (chanOfLine n)
    (fillsOf (makeRoom m (chanOfLine n)) (chanOfLine n) ++ [⟨unitOfLine n, 2 ^ (n % 64)⟩])

theorem putLine_unwritten {m : Memory} {n : Nat} (d : BitVec 512) (p : Bool) (h : unitOfLine n ∉ m.written) :
    putLine m n d p = storeLine (openUnit m n) n d p := by
  unfold putLine
  exact if_neg h

theorem markFill_unit (n : Nat) (f : Fill) : (markFill n f).unit = f.unit := by unfold markFill; split <;> rfl

theorem markFill_bit {n k : Nat} {f : Fill} (hk : f.unit = unitOfLine k) :
    (markFill n f).written.testBit (k % 64) = true ↔ k = n ∨ f.written.testBit (k % 64) = true := by
  unfold markFill
  split
  next hu =>
    have he : n % 64 = k % 64 ↔ k = n := by
      have := hk.symm.trans hu
      unfold unitOfLine at this
      omega
    simp only [Nat.testBit_or, Nat.testBit_two_pow, Bool.or_eq_true, decide_eq_true_eq, he, or_comm]
  next hu => exact ⟨.inr, fun h => h.resolve_left (fun e => hu (e ▸ hk))⟩

/-- The queue of the channel knows the lines it knew, and the line written. -/
theorem forall_markFills {m : Memory} {n k : Nat} (hc : chanOfLine k = chanOfLine n) :
    (∀ f ∈ markFills m n, f.unit = unitOfLine k → f.written.testBit (k % 64) = true) ↔
    k = n ∨ ∀ f ∈ fillsOf m (chanOfLine k), f.unit = unitOfLine k → f.written.testBit (k % 64) = true := by
  rw [hc]
  constructor
  · intro h
    refine or_iff_not_imp_left.2 (fun hkn f hf he => ?_)
    have hb : (markFill n f).written.testBit (k % 64) = true := by
      by_cases hfull : (markFill n f).written = 2 ^ 64 - 1
      · rw [hfull, Nat.testBit_two_pow_sub_one]
        exact decide_eq_true (Nat.mod_lt _ (by decide))
      · exact h _ (List.mem_filter.2 ⟨List.mem_map_of_mem hf, decide_eq_true hfull⟩) ((markFill_unit n f).trans he)
    exact ((markFill_bit he).1 hb).resolve_left hkn
  · intro h f hf he
    obtain ⟨g, hg, rfl⟩ := List.mem_map.1 (List.mem_of_mem_filter hf)
    rw [markFill_unit] at he
    exact (markFill_bit he).2 (h.imp_right (fun hall => hall g hg he))

theorem lineLive_marked {m : Memory} {n : Nat} (hu : unitOfLine n ∈ m.written) (k : Nat) :
    lineLive (setFills m (chanOfLine n) (markFills m n)) k ↔ k = n ∨ lineLive m k := by
  unfold lineLive
  rw [fillsOf_setFills]
  by_cases hc : chanOfLine k = chanOfLine n
  · rw [if_pos hc, forall_markFills hc]
    constructor
    · rintro ⟨hw, rfl | hall⟩
      · exact .inl rfl
      · exact .inr ⟨hw, hall⟩
    · rintro (rfl | ⟨hw, hall⟩)
      · exact ⟨hu, .inl rfl⟩
      · exact ⟨hw, .inr hall⟩
  · rw [if_neg hc]
    exact ⟨.inr, fun h => h.resolve_left (fun e => hc (e ▸ rfl))⟩

theorem lineLive_openUnit {m : Memory} (h : m.formOk = true) {n : Nat} (hu : unitOfLine n ∉ m.written) (k : Nat) :
    lineLive (openUnit m n) k ↔ k = n ∨ lineLive (makeRoom m (chanOfLine n)) k := by
  have hr := (makeRoom m (chanOfLine n)).fills_of_form (makeRoom_formOk m (chanOfLine n) h) (chanOfLine n)
  have hw : (openUnit m n).written = KSet.add m.written (unitOfLine n) := by rw [← makeRoom_written m (chanOfLine n)]; rfl
  have hf (c : Nat) : fillsOf (openUnit m n) c = if c = chanOfLine n then
      fillsOf (makeRoom m (chanOfLine n)) (chanOfLine n) ++ [⟨unitOfLine n, 2 ^ (n % 64)⟩] else fillsOf (makeRoom m (chanOfLine n)) c :=
    fillsOf_setFills _ _ _ _
  unfold lineLive
  rw [hw, hf, makeRoom_written, KSet.mem_add]
  by_cases hk : unitOfLine k = unitOfLine n
  · have hc : chanOfLine k = chanOfLine n := by rw [← chanOfLine_unit, hk, chanOfLine_unit]
    have hnone : ∀ f ∈ fillsOf (makeRoom m (chanOfLine n)) (chanOfLine n), f.unit ≠ unitOfLine n := fun f hfm he =>
      hu (by rw [← he, ← makeRoom_written m (chanOfLine n)]; exact (hr.2 f hfm).2)
    have he : n % 64 = k % 64 ↔ k = n := by unfold unitOfLine at hk; omega
    rw [if_pos hc, hk]
    simp only [List.mem_append, List.mem_singleton, true_and, hu, false_and, or_false, ← he]
    constructor
    · intro hall
      simpa [Nat.testBit_two_pow] using hall _ (.inr rfl) rfl
    · rintro hb f (hfm | rfl) hfu
      · exact absurd hfu (hnone f hfm)
      · simp [hb]
  · simp only [hk, false_or]
    refine Iff.trans (and_congr_right (fun _ => ?_)) (or_iff_right (fun e => hk (congrArg unitOfLine e))).symm
    split
    next hc =>
      rw [hc]
      refine ⟨fun hall f hfm => hall f (List.mem_append_left _ hfm), fun hall f hfm hfu => ?_⟩
      rcases List.mem_append.1 hfm with hfm | hfm
      · exact hall f hfm hfu
      · exact absurd ((congrArg Fill.unit (List.mem_singleton.1 hfm)).symm.trans hfu).symm hk
    next => exact Iff.rfl

/-- A line reads what was written to it. -/
theorem lineView_putLine_same {m : Memory} (h : m.formOk = true) (n : Nat) (d : BitVec 512) (p : Bool) :
    lineView (putLine m n d p) n = (d, p) := by
  have h' := putLine_formOk m n d p h
  by_cases hu : unitOfLine n ∈ m.written
  · rw [putLine_written d p hu] at h' ⊢
    rw [lineView_live h' ((lineLive_marked hu n).2 (.inl rfl)), rawLine_storeLine_same, mem_poison_storeLine_same]
  · rw [putLine_unwritten d p hu] at h' ⊢
    rw [lineView_live h' ((lineLive_openUnit h hu n).2 (.inl rfl)), rawLine_storeLine_same, mem_poison_storeLine_same]

/-- A line written to its stack changes no other line. -/
theorem lineView_putLine_other {m : Memory} (h : m.formOk = true) {n k : Nat} (d : BitVec 512) (p : Bool) (hk : k ≠ n) :
    lineView (putLine m n d p) k = lineView m k := by
  have h' := putLine_formOk m n d p h
  by_cases hu : unitOfLine n ∈ m.written
  · rw [putLine_written d p hu] at h' ⊢
    exact lineView_congr h h' ((lineLive_marked hu k).trans (or_iff_right hk)) (rawLine_storeLine_other _ _ _ hk)
      (mem_poison_storeLine_other _ _ _ hk)
  · rw [putLine_unwritten d p hu] at h' ⊢
    rw [← lineView_makeRoom h (chanOfLine n) k]
    exact lineView_congr (makeRoom_formOk m _ h) h' ((lineLive_openUnit h hu k).trans (or_iff_right hk)) (rawLine_storeLine_other _ _ _ hk)
      (mem_poison_storeLine_other _ _ _ hk)

/-! The accepted writes performed (R104, R110) -/

/-- A line once an accepted write has landed on it (R342). -/
def landed (v : BitVec 512 × Bool) (w : PendingWrite) : BitVec 512 × Bool :=
  (mergeBytes v.1 w.low w.bytes, w.poison || (!decide (w.bytes.length = 64) && v.2))

theorem lineView_performWrite_same {m : Memory} (h : m.formOk = true) (w : PendingWrite) :
    lineView (performWrite m w) w.line = landed (lineView m w.line) w := lineView_putLine_same h _ _ _

theorem lineView_performWrites_same {n : Nat} : ∀ (ws : List PendingWrite) {m : Memory}, m.formOk = true → (∀ w ∈ ws, w.line = n) →
    lineView (ws.foldl (fun m w => performWrite m w) m) n = ws.foldl landed (lineView m n)
  | [], _, _, _ => rfl
  | w :: ws, m, h, hn => by
    obtain rfl := hn w List.mem_cons_self
    rw [List.foldl_cons, lineView_performWrites_same ws (performWrite_formOk m w h) (fun v hv => hn v (List.mem_cons_of_mem _ hv)),
      lineView_performWrite_same h, List.foldl_cons]

theorem lineView_performWrites_other {n k : Nat} (hk : k ≠ n) : ∀ (ws : List PendingWrite) {m : Memory}, m.formOk = true →
    (∀ w ∈ ws, w.line = n) → lineView (ws.foldl (fun m w => performWrite m w) m) k = lineView m k
  | [], _, _, _ => rfl
  | w :: ws, m, h, hn => by
    rw [List.foldl_cons, lineView_performWrites_other hk ws (performWrite_formOk m w h) (fun v hv => hn v (List.mem_cons_of_mem _ hv))]
    exact lineView_putLine_other h _ _ (by rw [hn w List.mem_cons_self]; exact hk)

/-- The accepted writes of a line, in order. -/
def acceptedAt (m : Memory) (n : Nat) : List PendingWrite := (acceptedOf m (chanOfLine n)).filter (fun w => w.line = n)

theorem acceptedAt_line {m : Memory} {n : Nat} : ∀ w ∈ acceptedAt m n, w.line = n := fun _ hw => of_decide_eq_true (List.mem_filter.1 hw).2

/-- A settled line reads what it read before with its accepted writes landed. -/
theorem lineView_settle_same {m : Memory} (h : m.formOk = true) (n : Nat) : lineView (settle m n) n = (acceptedAt m n).foldl landed (lineView m n) :=
  lineView_performWrites_same _ (setAccepted_formOk _ _ _ h) acceptedAt_line

theorem lineView_settle_other {m : Memory} (h : m.formOk = true) {n k : Nat} (hk : k ≠ n) : lineView (settle m n) k = lineView m k :=
  lineView_performWrites_other hk _ (setAccepted_formOk _ _ _ h) acceptedAt_line

/-- A fill changes the bytes of its unit and its queue. -/
theorem fillLines_frame (f : Fill) : ∀ (l : List Nat) (m : Memory), l.foldl (fun m i => fillLine m f i) m =
    { m with dram := (l.foldl (fun m i => fillLine m f i) m).dram, poison := (l.foldl (fun m i => fillLine m f i) m).poison }
  | [], _ => rfl
  | i :: l, m => by
    rw [List.foldl_cons, fillLines_frame f l]
    unfold fillLine
    split <;> rfl

theorem makeRoom_frame (m : Memory) (ch : Nat) : makeRoom m ch =
    { m with dram := (makeRoom m ch).dram, poison := (makeRoom m ch).poison, fills := (makeRoom m ch).fills } := by
  unfold makeRoom
  split
  next f t _ =>
    split
    · unfold finishFill
      rw [fillLines_frame]
      rfl
    · rfl
  next => rfl

/-- A line written changes its stack alone. -/
theorem putLine_frame (m : Memory) (n : Nat) (d : BitVec 512) (p : Bool) : putLine m n d p = { m with
    dram := (putLine m n d p).dram
    poison := (putLine m n d p).poison
    written := (putLine m n d p).written
    fills := (putLine m n d p).fills } := by
  by_cases hu : unitOfLine n ∈ m.written
  · rw [putLine_written d p hu]; rfl
  · rw [putLine_unwritten d p hu, openUnit, makeRoom_frame]; rfl

theorem performWrites_frame : ∀ (ws : List PendingWrite) (m : Memory), ws.foldl (fun m w => performWrite m w) m = { m with
    dram := (ws.foldl (fun m w => performWrite m w) m).dram
    poison := (ws.foldl (fun m w => performWrite m w) m).poison
    written := (ws.foldl (fun m w => performWrite m w) m).written
    fills := (ws.foldl (fun m w => performWrite m w) m).fills }
  | [], _ => rfl
  | w :: ws, m => by
    rw [List.foldl_cons, performWrites_frame ws, performWrite, putLine_frame]

/-- Settling a line changes the stacks and takes accepted writes. -/
theorem settle_frame (m : Memory) (n : Nat) : settle m n = { m with
    accepted := KMap.set (fun _ => []) m.accepted (chanOfLine n) ((acceptedOf m (chanOfLine n)).filter (fun w => w.line ≠ n))
    dram := (settle m n).dram
    poison := (settle m n).poison
    written := (settle m n).written
    fills := (settle m n).fills } := by
  unfold settle
  rw [performWrites_frame]
  rfl

/-- Settling a line takes its accepted writes, and no other's. -/
theorem acceptedAt_settle (m : Memory) (n k : Nat) : acceptedAt (settle m n) k = if k = n then [] else acceptedAt m k := by
  have he : acceptedOf (settle m n) (chanOfLine k) = if chanOfLine k = chanOfLine n then
      (acceptedOf m (chanOfLine n)).filter (fun w => w.line ≠ n) else acceptedOf m (chanOfLine k) := by
    rw [settle_frame]
    exact KMap.get_set _ _ _ _ _
  unfold acceptedAt
  rw [he]
  by_cases hk : k = n
  · subst hk
    simp [List.filter_filter]
  · rw [if_neg hk]
    split
    next hc =>
      rw [List.filter_filter, hc]
      exact List.filter_congr (fun w _ => by by_cases hw : w.line = k <;> simp [hw, hk])
    next => rfl

/-- A line as a settled read sees it, whichever line was settled before. -/
theorem lineView_settle_settle {m : Memory} (h : m.formOk = true) (n k : Nat) :
    lineView (settle (settle m n) k) k = lineView (settle m k) k := by
  rw [lineView_settle_same (settle_formOk m n h), acceptedAt_settle]
  by_cases hk : k = n
  · subst hk; rw [if_pos rfl]; rfl
  · rw [if_neg hk, lineView_settle_other h hk, lineView_settle_same h]

end Sys2Proof.Machine
end

section
/-! SUPPORT. Shared-cache slices (R111, R112): what a slice holds once a line has taken a way, what the machine then reads of every
line, and the bytes of a line in which a count has been raised (R463). -/

namespace Sys2Proof.Machine

/-! One set -/

/-- A way holds a line. -/
def holdsLine (line : Nat) (w : Option CacheLine) : Bool := w.any (fun l => decide (l.line = line))

/-- What a set holds of a line. -/
def CacheSet.lookup (x : CacheSet) (line : Nat) : Option CacheLine := (x.ways.find? (holdsLine line)).join

theorem findWay_eq (x : CacheSet) (line : Nat) : findWay x line =
    if x.ways.findIdx (holdsLine line) < x.ways.length then some (x.ways.findIdx (holdsLine line)) else none := by
  have h : ∀ p : Option CacheLine → Bool, p = holdsLine line → (if x.ways.findIdx p < x.ways.length then some (x.ways.findIdx p) else none) =
      if x.ways.findIdx (holdsLine line) < x.ways.length then some (x.ways.findIdx (holdsLine line)) else none := by
    rintro _ rfl
    rfl
  exact h _ (funext fun w => by cases w <;> rfl)

theorem cached_eq_lookup (m : Memory) (die off : Nat) : cached m die off = (cacheSet m (setKey die off)).lookup (off / 64) := by
  unfold cached CacheSet.lookup
  rw [List.find?_eq_getElem?_findIdx]
  simp only [findWay_eq]
  split
  next h => simp [h]
  next h => simp [h]

/-- A way that may take a line: the first that holds it, or an invalid one with none before it that holds the line. -/
def CacheSet.Takes (x : CacheSet) (line w : Nat) : Prop :=
  ∃ a v b, x.ways = a ++ v :: b ∧ a.length = w ∧ (∀ u ∈ a, holdsLine line u = false) ∧ ∀ l, v = some l → l.line = line

/-- The set with a line in a way. -/
def CacheSet.withLine (x : CacheSet) (w : Nat) (l : CacheLine) : CacheSet := ⟨x.ways.set w (some l), touch x.nodes w⟩

theorem CacheSet.Takes.ways_withLine {x : CacheSet} {line w : Nat} (h : x.Takes line w) (l : CacheLine) :
    ∃ a v b, x.ways = a ++ v :: b ∧ (x.withLine w l).ways = a ++ some l :: b ∧ (∀ u ∈ a, holdsLine line u = false) ∧
      ∀ k, v = some k → k.line = line := by
  obtain ⟨a, v, b, hx, rfl, ha, hv⟩ := h
  refine ⟨a, v, b, hx, ?_, ha, hv⟩
  unfold CacheSet.withLine
  rw [hx, List.set_append_right _ _ (Nat.le_refl _), Nat.sub_self]
  rfl

theorem CacheSet.lookup_withLine_same {x : CacheSet} {line w : Nat} (h : x.Takes line w) {l : CacheLine} (hl : l.line = line) :
    (x.withLine w l).lookup line = some l := by
  obtain ⟨a, v, b, -, hy, ha, -⟩ := h.ways_withLine l
  have hn : a.find? (holdsLine line) = none := List.find?_eq_none.2 (fun u hu => by rw [ha u hu]; exact Bool.noConfusion)
  unfold CacheSet.lookup
  rw [hy, List.find?_append, hn, List.find?_cons_of_pos (show holdsLine line (some l) = true from decide_eq_true hl)]
  rfl

theorem CacheSet.lookup_withLine_other {x : CacheSet} {line w k : Nat} (h : x.Takes line w) {l : CacheLine} (hl : l.line = line) (hk : k ≠ line) :
    (x.withLine w l).lookup k = x.lookup k := by
  obtain ⟨a, v, b, hx, hy, -, hv⟩ := h.ways_withLine l
  have hno : ∀ u : Option CacheLine, (∀ j, u = some j → j.line = line) → ¬holdsLine k u = true := by
    rintro (_ | j) hu
    · exact Bool.noConfusion
    · exact fun he => hk ((of_decide_eq_true he).symm.trans (hu j rfl))
  unfold CacheSet.lookup
  rw [hx, hy, List.find?_append, List.find?_append, List.find?_cons_of_neg (hno v hv),
    List.find?_cons_of_neg (hno (some l) (fun j hj => Option.some.inj hj ▸ hl))]

theorem CacheSet.takes_of_find {x : CacheSet} {line : Nat} {p : Option CacheLine → Bool} {v : Option CacheLine}
    (h : x.ways.find? p = some v) (hp : ∀ u, p u = false → holdsLine line u = true → ∀ y ∈ x.ways, y ≠ u)
    (hv : ∀ l, v = some l → l.line = line) : x.Takes line (x.ways.findIdx p) := by
  obtain ⟨hpv, a, b, hx, ha⟩ := List.find?_eq_some_iff_append.1 h
  have hpa : a.findIdx p = a.length := List.findIdx_eq_length.2 (fun u hu => by simpa using ha u hu)
  refine ⟨a, v, b, hx, ?_, fun u hu => ?_, hv⟩
  · rw [hx, List.findIdx_append, hpa, if_neg (Nat.lt_irrefl _), List.findIdx_cons, hpv]
    simp
  · by_contra hc
    exact hp u (by simpa using ha u hu) (by simpa using hc) u (by rw [hx]; exact List.mem_append_left _ hu) rfl

/-- The way that holds a line takes it. -/
theorem CacheSet.takes_findWay {x : CacheSet} {line w : Nat} (h : findWay x line = some w) : x.Takes line w := by
  rw [findWay_eq] at h
  split at h
  next hlt =>
    obtain rfl := Option.some.inj h
    have hf := List.find?_eq_getElem?_findIdx (xs := x.ways) (p := holdsLine line)
    rw [List.getElem?_eq_getElem hlt] at hf
    refine CacheSet.takes_of_find hf (fun u hn hy => by rw [hn] at hy; cases hy) (fun l hl => ?_)
    have hh := List.find?_some hf
    rw [hl] at hh
    exact of_decide_eq_true hh
  next => cases h

/-- Where no way holds a line, the lowest invalid way takes it. -/
theorem CacheSet.takes_chooseWay {x : CacheSet} {line : Nat} (h : findWay x line = none) (hi : x.ways.any (fun w => w.isNone) = true) :
    x.Takes line (chooseWay x) := by
  have hlt : x.ways.findIdx (fun w => w.isNone) < x.ways.length := List.findIdx_lt_length.2 (List.any_eq_true.1 hi)
  have hno : ∀ y ∈ x.ways, holdsLine line y = false := by
    rw [findWay_eq] at h
    split at h
    next => cases h
    next hn => exact List.findIdx_eq_length.1 (Nat.le_antisymm List.findIdx_le_length (Nat.not_lt.1 hn))
  have hf := List.find?_eq_getElem?_findIdx (xs := x.ways) (p := fun w => w.isNone)
  rw [List.getElem?_eq_getElem hlt] at hf
  have hc : chooseWay x = x.ways.findIdx (fun w => w.isNone) := if_pos hlt
  rw [hc]
  refine CacheSet.takes_of_find hf (fun u _ hy y hm he => ?_) (fun l hl => ?_)
  · rw [← he, hno y hm] at hy; cases hy
  · have hh := List.find?_some hf
    rw [hl] at hh
    cases hh

/-- The way that a line takes. -/
def CacheSet.wayOf (x : CacheSet) (line : Nat) : Nat := (findWay x line).getD (chooseWay x)

/-- The set holds the line, or has an invalid way. -/
def CacheSet.ready (x : CacheSet) (line : Nat) : Bool := (findWay x line).isSome || x.ways.any (fun w => w.isNone)

theorem CacheSet.takes_wayOf {x : CacheSet} {line : Nat} (h : x.ready line = true) : x.Takes line (x.wayOf line) := by
  unfold CacheSet.wayOf
  cases hf : findWay x line with
  | some w => exact CacheSet.takes_findWay hf
  | none =>
    unfold CacheSet.ready at h
    rw [hf] at h
    exact CacheSet.takes_chooseWay hf h

theorem CacheSet.ready_of_lookup {x : CacheSet} {line : Nat} {l : CacheLine} (h : x.lookup line = some l) : x.ready line = true := by
  unfold CacheSet.ready
  rw [findWay_eq]
  split
  next => rfl
  next hn =>
    unfold CacheSet.lookup at h
    rw [List.find?_eq_getElem?_findIdx, List.getElem?_eq_none (Nat.not_lt.1 hn)] at h
    cases h

/-! A slice -/

theorem cacheSet_putSet (m : Memory) (k : Nat) (x : CacheSet) (j : Nat) : cacheSet (putSet m k x) j = if j = k then x else cacheSet m j :=
  KMap.get_set _ _ _ _ _

/-- The memory in which a line of a slice has taken a way. -/
def placed (m : Memory) (die off w : Nat) (l : CacheLine) : Memory := putSet m (setKey die off) ((cacheSet m (setKey die off)).withLine w l)

theorem cached_placed_same {m : Memory} {die off w : Nat} (h : (cacheSet m (setKey die off)).Takes (off / 64) w) {l : CacheLine}
    (hl : l.line = off / 64) : cached (placed m die off w l) die off = some l := by
  rw [cached_eq_lookup, placed, cacheSet_putSet, if_pos rfl, CacheSet.lookup_withLine_same h hl]

/-- No other line is touched. -/
theorem cached_placed_other {m : Memory} {die off w : Nat} (h : (cacheSet m (setKey die off)).Takes (off / 64) w) {l : CacheLine}
    (hl : l.line = off / 64) (d : Nat) {o : Nat} (ho : o / 64 ≠ off / 64) : cached (placed m die off w l) d o = cached m d o := by
  rw [cached_eq_lookup, cached_eq_lookup, placed, cacheSet_putSet]
  split
  next hk => rw [hk, CacheSet.lookup_withLine_other h hl ho]
  next => rfl

/-- Where its set is ready, a line takes its way and no other line leaves. -/
theorem allocate_ready {s : State} {die off : Nat} (d : BitVec 512) (p dirty : Bool)
    (h : (cacheSet s.mem (setKey die off)).ready (off / 64) = true) : allocate s die off d p dirty =
      { s with mem := placed s.mem die off ((cacheSet s.mem (setKey die off)).wayOf (off / 64)) ⟨off / 64, dirty, d, p⟩ } := by
  obtain ⟨a, v, b, hx, hw, -, hv⟩ := CacheSet.takes_wayOf h
  have hg : (cacheSet s.mem (setKey die off)).ways.getD ((cacheSet s.mem (setKey die off)).wayOf (off / 64)) none = v := by
    rw [hx, ← hw, List.getD_eq_getElem?_getD, List.getElem?_append_right (Nat.le_refl _), Nat.sub_self]
    rfl
  unfold CacheSet.wayOf at hg
  unfold allocate
  simp only [hg]
  cases v with
  | none => rfl
  | some l =>
    have hs : (if l.line ≠ off / 64 ∧ l.dirty = true then writeBack s l else s) = s := if_neg (fun hc => hc.1 (hv l rfl))
    simp only [hs]
    rfl

theorem cached_line {m : Memory} {die off : Nat} {l : CacheLine} (h : cached m die off = some l) : l.line = off / 64 := by
  rw [cached_eq_lookup, CacheSet.lookup, Option.join_eq_some_iff] at h
  have hh := List.find?_some h
  exact of_decide_eq_true hh

theorem ready_of_cached {m : Memory} {die off : Nat} {l : CacheLine} (h : cached m die off = some l) :
    (cacheSet m (setKey die off)).ready (off / 64) = true :=
  CacheSet.ready_of_lookup (by rw [← cached_eq_lookup]; exact h)

/-! What a read or a write of a line leaves of the memory -/

/-- Stacks and slices may differ, and nothing else. -/
def SameRest (m m' : Memory) : Prop := m' = { m with
  sets := m'.sets
  accepted := m'.accepted
  dram := m'.dram
  poison := m'.poison
  written := m'.written
  fills := m'.fills }

theorem SameRest.refl (m : Memory) : SameRest m m := rfl

theorem SameRest.trans {m m' m'' : Memory} (h : SameRest m m') (h' : SameRest m' m'') : SameRest m m'' := by
  unfold SameRest at h h'
  rw [h] at h'
  exact h'

theorem sameRest_settle (m : Memory) (n : Nat) : SameRest m (settle m n) := by
  unfold SameRest
  rw [settle_frame]

theorem sameRest_putLine (m : Memory) (n : Nat) (d : BitVec 512) (p : Bool) : SameRest m (putLine m n d p) := by
  unfold SameRest
  rw [putLine_frame]

theorem sameRest_putSet (m : Memory) (k : Nat) (x : CacheSet) : SameRest m (putSet m k x) := rfl

theorem sameRest_setAccepted (m : Memory) (ch : Nat) (q : List PendingWrite) : SameRest m (setAccepted m ch q) := rfl

theorem sameRest_writeBack (s : State) (l : CacheLine) : SameRest s.mem (writeBack s l).mem := by
  unfold writeBack
  cases lineNo s (l.line * 64) with
  | none => exact SameRest.refl _
  | some n =>
    refine (sameRest_settle s.mem n).trans ?_
    dsimp only
    split
    · exact sameRest_setAccepted _ _ _
    · exact sameRest_putLine _ _ _ _

theorem sameRest_allocate (s : State) (die off : Nat) (d : BitVec 512) (p dirty : Bool) : SameRest s.mem (allocate s die off d p dirty).mem := by
  unfold allocate
  refine SameRest.trans ?_ (sameRest_putSet _ _ _)
  split
  next l _ =>
    split
    · exact sameRest_writeBack s l
    · exact SameRest.refl _
  next => exact SameRest.refl _

theorem countIf_mem (p : Bool) (s : State) : (countIf p s).mem = s.mem := by rw [countIf_frame]

theorem sameRest_obtainLine (s : State) (off : Nat) : SameRest s.mem (obtainLine s off .clean).1.mem := by
  cases hc : cached s.mem (homeDie s off) off with
  | some l =>
    rw [obtainLine_hit _ hc, hitLine_clean, countIf_mem]
    exact sameRest_putSet _ _ _
  | none =>
    cases hn : lineNo s off with
    | none => rw [obtainLine_nowhere _ hc hn]; exact SameRest.refl _
    | some n =>
      rw [obtainLine_miss _ hc hn, fetchLine_clean]
      refine SameRest.trans ?_ (sameRest_allocate _ _ _ _ _ _)
      rw [countIf_mem]
      exact sameRest_settle s.mem n

/-! What stands in a stack does not change as slices fill -/

/-- A line as a settled read of its stack sees it. -/
def stackView (m : Memory) (n : Nat) : BitVec 512 × Bool := lineView (settle m n) n

theorem stackView_putSet {m : Memory} (h : m.formOk = true) (k : Nat) (x : CacheSet) (n : Nat) : stackView (putSet m k x) n = stackView m n := by
  unfold stackView
  rw [lineView_settle_same (putSet_formOk m k x h), lineView_settle_same h]
  rfl

/-- A memory that differs in one slice line from another, of which every line reads alike otherwise. -/
structure OneLine (m m' : Memory) (die off : Nat) : Prop where
  form : m'.formOk = true
  cached : ∀ d o, o / 64 ≠ off / 64 → cached m' d o = cached m d o
  stack : ∀ n, stackView m' n = stackView m n
  ready : (cacheSet m' (setKey die off)).ready (off / 64) = true

theorem OneLine.trans {m m' m'' : Memory} {die off : Nat} (h : OneLine m m' die off) (h' : OneLine m' m'' die off) : OneLine m m'' die off :=
  ⟨h'.form, fun d o ho => (h'.cached d o ho).trans (h.cached d o ho), fun n => (h'.stack n).trans (h.stack n), h'.ready⟩

theorem oneLine_refl {m : Memory} {die off : Nat} (h : m.formOk = true) (hr : (cacheSet m (setKey die off)).ready (off / 64) = true) :
    OneLine m m die off := ⟨h, fun _ _ _ => rfl, fun _ => rfl, hr⟩

theorem oneLine_placed {m : Memory} {die off w : Nat} (h : m.formOk = true) (ht : (cacheSet m (setKey die off)).Takes (off / 64) w)
    {l : CacheLine} (hl : l.line = off / 64) : OneLine m (placed m die off w l) die off :=
  ⟨putSet_formOk _ _ _ h, fun d _ ho => cached_placed_other ht hl d ho, stackView_putSet h _ _,
    ready_of_cached (cached_placed_same ht hl)⟩

theorem oneLine_settle {m : Memory} {die off : Nat} (h : m.formOk = true) (hr : (cacheSet m (setKey die off)).ready (off / 64) = true) (n : Nat) :
    OneLine m (settle m n) die off := by
  have hs : (settle m n).sets = m.sets := by rw [settle_frame]
  have hc (k : Nat) : cacheSet (settle m n) k = cacheSet m k := by unfold cacheSet; rw [hs]
  refine ⟨settle_formOk m n h, fun d o _ => ?_, lineView_settle_settle h n, by rw [hc]; exact hr⟩
  rw [cached_eq_lookup, cached_eq_lookup, hc]

/-! A line read into its slice, and written there -/

theorem wayReady_eq (s : State) (off : Nat) : wayReady s off = (cacheSet s.mem (setKey (homeDie s off) off)).ready (off / 64) := rfl

/-- A line brought into its slice: no other line reads otherwise, and its set is ready for its write. -/
theorem oneLine_obtainLine {s : State} {off : Nat} (h : s.mem.formOk = true) (hr : wayReady s off = true) :
    OneLine s.mem (obtainLine s off .clean).1.mem (homeDie s off) off := by
  rw [wayReady_eq] at hr
  cases hc : cached s.mem (homeDie s off) off with
  | some l =>
    rw [obtainLine_hit _ hc, hitLine_clean, countIf_mem]
    have hw : (findWay (cacheSet s.mem (setKey (homeDie s off) off)) (off / 64)).isSome = true := by
      by_contra hn
      rw [Option.not_isSome_iff_eq_none] at hn
      unfold cached at hc
      simp only [hn] at hc
      cases hc
    obtain ⟨w, hw⟩ := Option.isSome_iff_exists.1 hw
    have ha : (cacheSet s.mem (setKey (homeDie s off) off)).atLine (off / 64) l =
        (cacheSet s.mem (setKey (homeDie s off) off)).withLine w l := by
      unfold CacheSet.atLine
      rw [hw]
      rfl
    rw [ha]
    exact oneLine_placed h (CacheSet.takes_findWay hw) (cached_line hc)
  | none =>
    cases hn : lineNo s off with
    | none => rw [obtainLine_nowhere _ hc hn]; exact oneLine_refl h hr
    | some n =>
      have h1 := oneLine_settle h hr n
      have hm : (countIf (lineView (settle s.mem n) n).2 { s with mem := settle s.mem n }).mem = settle s.mem n := countIf_mem _ _
      rw [obtainLine_miss _ hc hn, fetchLine_clean]
      dsimp only
      rw [allocate_ready _ _ _ (by rw [hm]; exact h1.ready)]
      dsimp only
      rw [hm]
      exact h1.trans (oneLine_placed h1.form (CacheSet.takes_wayOf h1.ready) rfl)

/-- A line written in its slice is held there, and no other line reads otherwise. -/
theorem oneLine_writeLine1 {s : State} {off : Nat} (d : BitVec 512) (p : Bool) (h : s.mem.formOk = true) (hr : wayReady s off = true) :
    ∃ m, writeLine1 s off d p = { s with mem := m } ∧ OneLine s.mem m (homeDie s off) off ∧
      cached m (homeDie s off) off = some ⟨off / 64, true, d, p⟩ := by
  rw [wayReady_eq] at hr
  exact ⟨_, allocate_ready d p true hr, oneLine_placed h (CacheSet.takes_wayOf hr) rfl, cached_placed_same (CacheSet.takes_wayOf hr) rfl⟩

/-- Where memories differ in one slice line, every other line reads alike. -/
theorem peekLine_of_oneLine {s t : State} (hl : SameLayout s t) {die off : Nat} (h : OneLine s.mem t.mem die off) {o : Nat} (ho : o / 64 ≠ off / 64) :
    peekLine t o = peekLine s o := by
  unfold peekLine
  rw [hl.homeDie, hl.lineNo, h.cached _ o ho]
  cases cached s.mem (homeDie s o) o with
  | some l => rfl
  | none =>
    cases lineNo s o with
    | none => rfl
    | some n => exact h.stack n

/-! A line and the offsets in it -/

theorem div_line (off : Nat) : off / 64 * 64 / 64 = off / 64 := by omega

theorem hashKey_line (h : Hashing) (off : Nat) : (hashKey h (off / 64 * 64)).map (· / 64) = (hashKey h off).map (· / 64) := by
  unfold hashKey
  have hg : off / 64 * 64 / 256 = off / 256 := by omega
  have hlt : off / 64 * 64 ≥ h.chans.length * 2 ^ 31 ↔ off ≥ h.chans.length * 2 ^ 31 := by omega
  simp only [hg, hlt]
  split
  · rfl
  · refine congrArg some ?_
    dsimp only
    omega

/-- The loader's buffer holds the granule. -/
def buffered (s : State) (g : Nat) : Bool := migrating s && s.load.hold.any (fun h => decide (h.g = g))

/-- The hash under which a granule stands: the new one once a migration has moved it (R53). -/
def hashFor (s : State) (g : Nat) : Hashing := if migrating s = true ∧ g ∈ s.load.moved then s.load.next.hash else s.img.hash

/-- The place at a key of the hash. -/
def Place.ofKey : Option Nat → Place
  | some k => .at k
  | none => .nowhere

theorem Place.ofKey_eq (o : Option Nat) : (match o with
    | some k => Place.at k
    | none => .nowhere) = Place.ofKey o := by cases o <;> rfl

theorem placeOf_eq (s : State) (off : Nat) : placeOf s off =
    if buffered s (off / 256) = true then .buffer else Place.ofKey (hashKey (hashFor s (off / 256)) off) := by
  unfold placeOf buffered hashFor
  cases hm : migrating s with
  | false => exact Place.ofKey_eq _
  | true =>
    cases s.load.hold with
    | none =>
      simp only [Option.any_none, Bool.and_false, if_true, true_and]
      exact Place.ofKey_eq _
    | some h =>
      simp only [Option.any_some, Bool.true_and, decide_eq_true_eq, if_true, true_and]
      exact congrArg (fun p => if h.g = off / 256 then Place.buffer else p) (Place.ofKey_eq _)

theorem lineNo_eq (s : State) (off : Nat) : lineNo s off =
    if buffered s (off / 256) = true then none else (hashKey (hashFor s (off / 256)) off).map (· / 64) := by
  unfold lineNo
  rw [placeOf_eq]
  by_cases hb : buffered s (off / 256) = true
  · simp only [if_pos hb]
  · simp only [if_neg hb]
    cases hashKey (hashFor s (off / 256)) off <;> rfl

theorem lineNo_line (s : State) (off : Nat) : lineNo s (off / 64 * 64) = lineNo s off := by
  have hg : off / 64 * 64 / 256 = off / 256 := by omega
  rw [lineNo_eq, lineNo_eq, hg, hashKey_line]

theorem homeDie_line (s : State) (off : Nat) : homeDie s (off / 64 * 64) = homeDie s off := by
  unfold homeDie
  rw [lineNo_line]

theorem sliceOf_line (off : Nat) : sliceOf (off / 64 * 64) = sliceOf off := by
  have hb (i : Nat) : off / 64 * 64 / 2 ^ (6 + 4 * i) = off / 2 ^ (6 + 4 * i) := by
    rw [Nat.pow_add, ← Nat.div_div_eq_div_mul, ← Nat.div_div_eq_div_mul, div_line]
  unfold sliceOf
  simp only [hb]

theorem cached_congr_line (m : Memory) (die : Nat) {o off : Nat} (h : o / 64 = off / 64) : cached m die o = cached m die off := by
  have hk : setKey die o = setKey die off := by
    unfold setKey
    rw [← sliceOf_line o, ← sliceOf_line off, h]
  rw [cached_eq_lookup, cached_eq_lookup, hk, h]

theorem homeDie_congr_line (s : State) {o off : Nat} (h : o / 64 = off / 64) : homeDie s o = homeDie s off := by
  rw [← homeDie_line s o, h, homeDie_line]

theorem peekLine_congr_line (s : State) {o off : Nat} (h : o / 64 = off / 64) : peekLine s o = peekLine s off := by
  have hl : lineNo s o = lineNo s off := by rw [← lineNo_line s o, h, lineNo_line]
  unfold peekLine
  rw [hl, homeDie_congr_line s h, cached_congr_line _ _ h]

theorem wayReady_congr_line (s : State) {o off : Nat} (h : o / 64 = off / 64) : wayReady s o = wayReady s off := by
  have hk : setKey (homeDie s o) o = setKey (homeDie s off) off := by
    unfold setKey
    rw [homeDie_congr_line s h, ← sliceOf_line o, ← sliceOf_line off, h]
  rw [wayReady_eq, wayReady_eq, hk, h]

end Sys2Proof.Machine
end

section
/-! SUPPORT. A completion count raised (R463): one 64-bit add at a word of hashed space. -/

namespace Sys2Proof.Machine

/-! Bytes merged into a line -/

theorem lineBytes_mergeBytes (d : BitVec 512) {low : Nat} {bs : List Byte} (h : low + bs.length ≤ 64) :
    lineBytes (mergeBytes d low bs) = (lineBytes d).take low ++ bs ++ (lineBytes d).drop (low + bs.length) := by
  refine lineBytes_lineOf ?_
  rw [List.length_append, List.length_append, List.length_take, List.length_drop, length_lineBytes]
  omega

/-- A byte of a line with bytes merged into it. -/
theorem getD_mergeBytes (d : BitVec 512) {low : Nat} {bs : List Byte} (h : low + bs.length ≤ 64) (j : Nat) :
    (lineBytes (mergeBytes d low bs)).getD j 0#8 =
      if low ≤ j ∧ j < low + bs.length then bs.getD (j - low) 0#8 else (lineBytes d).getD j 0#8 := by
  have ht : ((lineBytes d).take low).length = low := by rw [List.length_take, length_lineBytes]; omega
  rw [lineBytes_mergeBytes d h, List.append_assoc]
  simp only [List.getD_eq_getElem?_getD]
  by_cases hl : j < low
  · rw [List.getElem?_append_left (by rw [ht]; exact hl), List.getElem?_take, if_pos hl, if_neg (by omega)]
  · rw [List.getElem?_append_right (by rw [ht]; omega), ht]
    by_cases hu : j < low + bs.length
    · rw [List.getElem?_append_left (by omega), if_pos ⟨Nat.not_lt.1 hl, hu⟩]
    · rw [List.getElem?_append_right (by omega), List.getElem?_drop, if_neg (by omega)]
      congr 2
      omega

theorem atomicNew_add (old k c : Nat) : atomicNew .add true old (BitVec.ofNat 64 k).toNat c = (old + k) % 2 ^ 64 := by
  rw [BitVec.toNat_ofNat]
  unfold atomicNew
  simp only [if_true]
  rw [Nat.mod_mod, ← Nat.add_mod]

/-! A store that no mirror and no migration follows -/

theorem noteWrite_units (s : State) (who : Requester) (off : Nat) :
    noteWrite s who off = { s with load := { s.load with units := (noteWrite s who off).load.units } } := by
  unfold noteWrite
  split
  · split <;> rfl
  · rfl

/-- The list of written units places no line. -/
theorem sameLayout_noteWrite (s : State) (who : Requester) (off : Nat) : SameLayout s (noteWrite s who off) := by
  rw [noteWrite_units]
  exact ⟨rfl, rfl, rfl, rfl, rfl⟩

theorem mirrorOf_congr {s t : State} (h : SameRest s.mem t.mem) (off : Nat) : mirrorOf t off = mirrorOf s off := by
  have hr : t.mem.regions = s.mem.regions := by rw [h]
  unfold mirrorOf regionOf
  rw [hr]

theorem SameLayout.trans {s t u : State} (h : SameLayout s t) (h' : SameLayout t u) : SameLayout s u :=
  ⟨h'.img.trans h.img, h'.migrating.trans h.migrating, h'.hold.trans h.hold, h'.moved.trans h.moved, h'.next.trans h.next⟩

theorem writeLine_single {s : State} {off : Nat} (who : Requester) (d : BitVec 512) (p : Bool) (h : mirrorOf s off = none) :
    writeLine s who off d p = writeLine1 (noteWrite s who off) off d p := by
  have hm : mirrorOf (writeLine1 (noteWrite s who off) off d p) off = none := by
    have hn := sameRest_allocate (noteWrite s who off) (homeDie (noteWrite s who off) off) off d p true
    rw [noteWrite_mem] at hn
    exact (mirrorOf_congr hn off).trans h
  unfold writeLine
  simp only [hm]

/-- A line read into its slice without poison and written there: memory alone changes, with the loader's list of written units, and no
other line reads otherwise. -/
theorem writeLine_obtained {s : State} {off : Nat} (who : Requester) (d : BitVec 512) (p : Bool) (hm : s.mem.formOk = true)
    (hway : wayReady s off = true) (hmir : mirrorOf s off = none) (hp : (peekLine s off).2 = false) :
    ∃ t, writeLine (obtainLine s off .clean).1 who off d p = t ∧ t = { s with mem := t.mem, load := t.load } ∧
      peekLine t off = (d, p) ∧ ∀ o, o / 64 ≠ off / 64 → peekLine t o = peekLine s o := by
  have hs : (obtainLine s off .clean).1 = { s with mem := (obtainLine s off .clean).1.mem } := by
    rw [obtainLine_clean_frame, obtainLine_clean_regs hp]
  have hmir' := (mirrorOf_congr (sameRest_obtainLine s off) off).trans hmir
  have h1 := oneLine_obtainLine hm hway
  rw [writeLine_single who d p hmir']
  generalize obtainLine s off .clean = r at *
  obtain ⟨s1, v⟩ := r
  dsimp only at hs h1
  have hl1 : SameLayout s s1 := by rw [hs]; exact SameLayout.of_load rfl rfl rfl
  have hl2 := hl1.trans (sameLayout_noteWrite s1 who off)
  have hr2 : wayReady (noteWrite s1 who off) off = true := by
    rw [wayReady_eq, noteWrite_mem, hl2.homeDie]
    exact h1.ready
  obtain ⟨m, ht, h2, hc⟩ := oneLine_writeLine1 d p (s := noteWrite s1 who off) (by rw [noteWrite_mem]; exact h1.form) hr2
  rw [noteWrite_mem, hl2.homeDie] at h2
  have hlt : SameLayout (noteWrite s1 who off) { noteWrite s1 who off with mem := m } := SameLayout.of_load rfl rfl rfl
  refine ⟨_, ht, ?_, ?_, fun o ho => ?_⟩
  · rw [noteWrite_units, hs]
  · have hh := hlt.homeDie off
    exact peekLine_hit (l := ⟨off / 64, true, d, p⟩) (by rw [hh]; exact hc)
  · exact peekLine_of_oneLine (hl2.trans hlt) (h1.trans h2) ho

/-! The access of a count -/

/-- A hashed access that nothing holds back and that meets no error is performed (R89, R90, R239). -/
theorem localAccess_hashedOpen {s : State} {who : Requester} {a : GAddr} {kind : AccessKind} (o : Origin) (ecc : Ecc)
    (h : hashedOpen s who a kind = true) : localAccess s o who (spaceOf a) (offOf a) kind ecc = performHashed s who (offOf a) kind ecc := by
  simp only [hashedOpen, Bool.and_eq_true, decide_eq_true_eq, Bool.not_eq_true'] at h
  obtain ⟨⟨⟨⟨⟨⟨-, hsp⟩, hfit⟩, hval⟩, hten⟩, hheld⟩, hblk⟩ := h
  have ht : (match tenantOf s who with
      | some t => !hashedAllowed s t (offOf a)
      | none => false) = false := by
    rw [← hten]
    cases tenantOf s who <;> rfl
  unfold localAccess
  simp only [hsp, hfit, hval, hheld, hblk, if_true, Bool.not_true, Bool.false_eq_true, if_false, Bool.or_false]
  exact if_neg (fun hc => Bool.noConfusion (ht.symm.trans hc))

theorem hashedOpen_add {s : State} {who : Requester} {a : GAddr} (k : Nat) (h : hashedOpen s who a (.atomic .add true 1 0 false) = true) :
    hashedOpen s who a (.atomic .add true (BitVec.ofNat 64 k) 0 false) = true := h

/-- A word of a line that carries no poison is read, and the sum stored in its place (Table 4.11). -/
theorem performHashed_add {s : State} {who : Requester} {o : Nat} (k : Nat) (hf : lineFree s 0 o = true)
    (hp : (peekLine s (o / 64 * 64)).2 = false) :
    (performHashed s who o (.atomic .add true (BitVec.ofNat 64 k) 0 false) .clean).1 =
      writeLine (obtainLine s (o / 64 * 64) .clean).1 who (o / 64 * 64) (mergeBytes (peekLine s (o / 64 * 64)).1 (o % 64)
        (natLe 8 ((fieldOf (lineBytes (peekLine s (o / 64 * 64)).1) (o % 64) 8 + k) % 2 ^ 64))) false := by
  have hr : s.mem.reductions.any (fun r => r.addr = localAddr s 0 (o / 64 * 64)) = false := by simpa [lineFree] using hf
  unfold performHashed
  simp only [hr, obtainLine_clean_snd, hp, Bool.false_eq_true, if_false, Bool.false_and, show atomicSize true = 8 from rfl, atomicNew_add]

/-- A count raised at a word that is ready for it: memory alone changes, with the loader's list of written units, and every byte of
hashed space but those of the word reads as before. -/
theorem bump_ready {s : State} {who : Requester} {n : Nat} (k : Nat) (hm : s.mem.formOk = true) (h : countReady s who n = true) :
    ∃ t, bump s who (BitVec.ofNat 64 n) k = t ∧ t = { s with mem := t.mem, load := t.load } ∧ ∀ i, peekByte t i = countByte s n k i := by
  simp only [countReady, Bool.and_eq_true, Bool.not_eq_true', Option.isNone_iff_eq_none] at h
  obtain ⟨⟨⟨⟨hopen, hfree⟩, hmir⟩, hway⟩, hpo⟩ := h
  have hloc : isLocal s (BitVec.ofNat 64 n) = true := by
    simp only [hashedOpen, Bool.and_eq_true] at hopen
    exact hopen.1.1.1.1.1.1
  have hfit : offOf (BitVec.ofNat 64 n) % 8 = 0 := by
    simp only [hashedOpen, Bool.and_eq_true] at hopen
    exact of_decide_eq_true hopen.1.1.1.1.2
  have hb : bump s who (BitVec.ofNat 64 n) k = (performHashed s who (offOf (BitVec.ofNat 64 n)) (.atomic .add true (BitVec.ofNat 64 k) 0 false) .clean).1 := by
    unfold bump
    rw [if_pos hloc, localAccess_hashedOpen _ _ (hashedOpen_add k hopen)]
  unfold countByte
  rw [performHashed_add k hfree hpo] at hb
  have hline : offOf (BitVec.ofNat 64 n) / 64 * 64 / 64 = offOf (BitVec.ofNat 64 n) / 64 := div_line _
  obtain ⟨t, ht, hfr, hsame, hother⟩ := writeLine_obtained who (mergeBytes (peekLine s (offOf (BitVec.ofNat 64 n) / 64 * 64)).1
    (offOf (BitVec.ofNat 64 n) % 64) (natLe 8 ((fieldOf (lineBytes (peekLine s (offOf (BitVec.ofNat 64 n) / 64 * 64)).1)
      (offOf (BitVec.ofNat 64 n) % 64) 8 + k) % 2 ^ 64))) false hm (by rw [wayReady_congr_line s hline]; exact hway) hmir hpo
  refine ⟨t, hb.trans ht, hfr, fun i => ?_⟩
  generalize offOf (BitVec.ofNat 64 n) = o at *
  unfold peekByte
  by_cases hi : i / 64 = o / 64
  · rw [peekLine_congr_line t (hi.trans hline.symm), hsame, getD_mergeBytes _ (by rw [length_natLe]; omega), length_natLe,
      peekLine_congr_line s (hi.trans hline.symm)]
    have hiff : o % 64 ≤ i % 64 ∧ i % 64 < o % 64 + 8 ↔ o ≤ i ∧ i < o + 8 := by omega
    have hsub : o ≤ i → i % 64 - o % 64 = i - o := by omega
    simp only [hiff]
    split
    next hin => rw [hsub hin.1]
    next => rfl
  · rw [hother i (by omega), if_neg (by omega)]

end Sys2Proof.Machine
end

section
/-! PROOFS. The start and the end of a launch (O21). -/

namespace Sys2Proof.Machine

/-! LAUNCH_START (R185, R391) -/

theorem exec_launchStart (c : Fin 152) (s : State) : exec (.launchStart c) s = execLaunchStart c s := rfl

/-- Without a launch that waits, or in a cluster that may not start one, nothing changes. -/
theorem exec_launchStart_none {s : State} {c : Fin 152} (h : (cl s c.val).queue = [] ∨ launchReady s c.val = false) :
    exec (.launchStart c) s = .next (quiet s) := by
  have hr : launchReady (quiet s) c.val = launchReady s c.val := rfl
  rw [exec_launchStart]
  unfold execLaunchStart
  simp only [cl_quiet, hr]
  cases hq : (cl s c.val).queue with
  | nil => rfl
  | cons l rest => simp [h.resolve_left (by rw [hq]; exact List.cons_ne_nil _ _)]

theorem exec_launchStart_ready {s : State} {c : Fin 152} {l : Launch} {rest : List Launch} (hq : (cl s c.val).queue = l :: rest)
    (hr : launchReady s c.val = true) : exec (.launchStart c) s =
      .next (clusterTrace (modCl (quiet s) c.val (fun x => startCore x l rest)) c.val (traceRec s.mer 0x10 0 c.val 0 0 l.ltag)) := by
  have hr' : launchReady (quiet s) c.val = true := hr
  rw [exec_launchStart]
  unfold execLaunchStart
  simp only [cl_quiet, hq, hr', if_true]
  rfl

/-- A trace record of a cluster changes its FIFO, or the count of lost records. -/
theorem clusterTrace_frame (s : State) (c : Nat) (r : BitVec 128) : clusterTrace s c r =
    { s with regs := (clusterTrace s c r).regs, pwr := { s.pwr with fifo := (clusterTrace s c r).pwr.fifo } } := by
  unfold clusterTrace
  dsimp only
  split <;> rfl

theorem clusterTrace_room {s : State} {c : Nat} (r : BitVec 128) (h : (KMap.get (fun _ => []) s.pwr.fifo c).length < 64) :
    clusterTrace s c r = { s with pwr := { s.pwr with
      fifo := KMap.set (fun _ => []) s.pwr.fifo c (KMap.get (fun _ => []) s.pwr.fifo c ++ [r]) } } := by
  unfold clusterTrace
  exact if_neg (Nat.not_le.2 h)

/-- Registers at the start of a launch: s1 its argument, s2 its LTAG, the others 0 (R185). -/
theorem startCore_sregs (x : Cluster) (l : Launch) (rest : List Launch) (n : Nat) : KMap.get (fun _ => 0#64) (startCore x l rest).sregs n =
    if n = 1 then BitVec.ofNat 64 l.arg else if n = 2 then BitVec.ofNat 64 l.ltag else 0#64 := by
  unfold startCore
  rw [KMap.get_set, KMap.get_set]
  rfl

theorem cl_clusterTrace (s : State) (c : Nat) (r : BitVec 128) (d : Nat) : cl (clusterTrace s c r) d = cl s d := by
  rw [clusterTrace_frame]; rfl

/-! LAUNCH_END (R43, R185) -/

theorem takeFirst_append {α : Type} {p : α → Bool} {e : α} {b : List α} (he : p e = true) :
    ∀ a : List α, (∀ f ∈ a, p f = false) → takeFirst p (a ++ e :: b) = some (e, a ++ b)
  | [], _ => by simp [takeFirst, he]
  | f :: a, h => by
    rw [List.forall_mem_cons] at h
    simp [takeFirst, h.1, takeFirst_append he a h.2]

theorem takeFirst_eq_none {α : Type} {p : α → Bool} : ∀ l : List α, (∀ f ∈ l, p f = false) → takeFirst p l = none
  | [], _ => rfl
  | f :: l, h => by
    rw [List.forall_mem_cons] at h
    simp [takeFirst, h.1, takeFirst_eq_none l h.2]

theorem exec_launchEnd (c : Fin 152) (s : State) : exec (.launchEnd c) s = execLaunchEnd c s := rfl

theorem exec_launchEnd_none {s : State} {c : Fin 152} (h : ∀ e ∈ (cl s c.val).ending, tilesLeft (cl s c.val) e.no = true) :
    exec (.launchEnd c) s = .next (quiet s) := by
  have hn := takeFirst_eq_none (p := fun e : Ending => !tilesLeft (cl s c.val) e.no) (cl s c.val).ending (fun e he => by simp [h e he])
  rw [exec_launchEnd]
  unfold execLaunchEnd
  simp only [cl_quiet, hn]

/-- The first ended launch of which no tile is left leaves the cluster and is counted. -/
theorem exec_launchEnd_first {s : State} {c : Fin 152} {a b : List Ending} {e : Ending} (hs : (cl s c.val).ending = a ++ e :: b)
    (ha : ∀ f ∈ a, tilesLeft (cl s c.val) f.no = true) (he : tilesLeft (cl s c.val) e.no = false) : exec (.launchEnd c) s =
      .next (endLaunch (setCl (quiet s) c.val { cl s c.val with ending := a ++ b }) c.val e) := by
  have ht := takeFirst_append (p := fun e : Ending => !tilesLeft (cl s c.val) e.no) (b := b) (e := e) (by simp [he]) a (fun f hf => by simp [ha f hf])
  rw [exec_launchEnd]
  unfold execLaunchEnd
  simp only [cl_quiet, hs, ht]
  rfl

theorem endLaunch_uncounted {s : State} {c : Nat} {e : Ending} (hc : e.launch.con = none) (hn : e.launch.cpl = none) :
    endLaunch s c e = s := by
  unfold endLaunch; simp only [hc, hn]

theorem endLaunch_counted {s : State} {c n : Nat} {e : Ending} (hc : e.launch.con = none) (hn : e.launch.cpl = some n) :
    endLaunch s c e = bump s (.cluster (Fin.ofNat 152 c)) (BitVec.ofNat 64 n) 1 := by
  unfold endLaunch; simp only [hc, hn]

theorem endLaunch_leaf {s : State} {c k id : Nat} {e : Ending} (hc : e.launch.con = some (k, id)) :
    endLaunch s c e = leafEnded s c id e.failed := by
  unfold endLaunch; simp only [hc]

theorem find?_replaceFirst {α : Type} {p : α → Bool} {f : α → α} {r : α} (hp : p (f r) = true) :
    ∀ l : List α, l.find? p = some r → (replaceFirst p f l).find? p = some (f r)
  | x :: l, h => by
    by_cases hx : p x = true
    · rw [List.find?_cons_of_pos hx] at h
      obtain rfl := Option.some.inj h
      rw [replaceFirst, if_pos hx, List.find?_cons_of_pos hp]
    · rw [List.find?_cons_of_neg hx] at h
      rw [replaceFirst, if_neg hx, List.find?_cons_of_neg hx, find?_replaceFirst hp l h]

section Leaf

variable {s : State} {c id : Nat} {failed : Bool} {r : ConRun} (hr : s.seq.conRuns.find? (fun r => decide (r.id = id)) = some r)

include hr

/-- A leaf's share of a constellation's launch ends before the last. -/
theorem leafEnded_more (h : 1 < r.remaining) : ∃ runs, leafEnded s c id failed = { s with seq := { s.seq with conRuns := runs } } ∧
    runs.find? (fun r => decide (r.id = id)) = some { r with remaining := r.remaining - 1, failed := r.failed || failed } := by
  have hid : decide (r.id = id) = true := List.find?_some (p := fun r : ConRun => decide (r.id = id)) hr
  refine ⟨_, ?_, find?_replaceFirst (p := fun r : ConRun => decide (r.id = id))
    (f := fun x => { x with remaining := x.remaining - 1, failed := r.failed || failed }) hid _ hr⟩
  unfold leafEnded
  simp only [hr, if_pos h]

/-- The last leaf's share ends the launch, which counts nothing where it has no address. -/
theorem leafEnded_last (h : r.remaining ≤ 1) (hn : r.cpl = none) : ∃ q, leafEnded s c id failed = { s with seq := q } ∧
    q.conRuns = s.seq.conRuns.filter (fun r => decide (r.id ≠ id)) ∧
    q.conDone = if r.failed || failed then s.seq.conDone else KSet.add s.seq.conDone r.con := by
  unfold leafEnded
  simp only [hr, if_neg (Nat.not_lt.2 h), hn]
  exact ⟨_, rfl, rfl, rfl⟩

end Leaf

end Sys2Proof.Machine
end

section
/-! PROOFS. A launch starts from its descriptor, and its end is counted (O21). -/

namespace Sys2Proof.Machine

/-- A ready launch leaves the queue and runs from its descriptor, with one trace record (R185, R391). -/
theorem launchStart_runs {s : State} {c : Fin 152} {l : Launch} {rest : List Launch} (hq : (cl s c.val).queue = l :: rest)
    (hr : launchReady s c.val = true) : ∃ t, exec (.launchStart c) s = .next t ∧
    t = { s with out := [], regs := t.regs, clu := t.clu, pwr := { s.pwr with fifo := t.pwr.fifo } } ∧
    cl t c.val = startCore (cl s c.val) l rest ∧ (∀ d, d ≠ c.val → cl t d = cl s d) ∧
    ((KMap.get (fun _ => []) s.pwr.fifo c.val).length < 64 → t.regs = s.regs ∧ KMap.get (fun _ => []) t.pwr.fifo c.val =
      KMap.get (fun _ => []) s.pwr.fifo c.val ++ [traceRec s.mer 0x10 0 c.val 0 0 l.ltag]) := by
  refine ⟨_, exec_launchStart_ready hq hr, ?_, ?_, fun d hd => ?_, fun hroom => ?_⟩
  · rw [clusterTrace_frame]; rfl
  · rw [cl_clusterTrace, cl_modCl_same]; rfl
  · rw [cl_clusterTrace]; exact KMap.get_set_other _ _ _ hd
  · rw [clusterTrace_room (s := modCl (quiet s) c.val (fun x => startCore x l rest)) _ hroom]
    exact ⟨rfl, KMap.get_set_same _ _ _ _⟩

/-- The state in which an ended launch has left its cluster. -/
def withoutEnding (s : State) (c : Nat) (q : List Ending) : State := setCl (quiet s) c { cl s c with ending := q }

theorem cl_withoutEnding_same (s : State) (c : Nat) (q : List Ending) : cl (withoutEnding s c q) c = { cl s c with ending := q } :=
  cl_setCl_same _ _ _

theorem cl_withoutEnding_other (s : State) {c d : Nat} (q : List Ending) (h : d ≠ c) : cl (withoutEnding s c q) d = cl s d :=
  cl_setCl_other _ _ h

theorem countReady_withoutEnding (s : State) (c : Nat) (q : List Ending) (who : Requester) (n : Nat) :
    countReady (withoutEnding s c q) who n = countReady s who n := rfl

theorem countByte_withoutEnding (s : State) (c : Nat) (q : List Ending) (n k i : Nat) :
    countByte (withoutEnding s c q) n k i = countByte s n k i := rfl

section Ended

variable {s : State} {c : Fin 152} {a b : List Ending} {e : Ending} (hs : (cl s c.val).ending = a ++ e :: b)
  (ha : ∀ f ∈ a, tilesLeft (cl s c.val) f.no = true) (he : tilesLeft (cl s c.val) e.no = false)

include hs ha he

/-- The completion count of an ended launch is raised by one. -/
theorem launchEnd_counted {n : Nat} (hcon : e.launch.con = none) (hcpl : e.launch.cpl = some n) (hm : s.mem.formOk = true)
    (hr : countReady s (.cluster c) n = true) : ∃ t, exec (.launchEnd c) s = .next t ∧
    t = { s with out := [], mem := t.mem, load := t.load, clu := t.clu } ∧
    cl t c.val = { cl s c.val with ending := a ++ b } ∧ (∀ d, d ≠ c.val → cl t d = cl s d) ∧ ∀ i, peekByte t i = countByte s n 1 i := by
  have hc : Fin.ofNat 152 c.val = c := Fin.ext (Nat.mod_eq_of_lt c.isLt)
  obtain ⟨t, ht, hfr, hby⟩ := bump_ready (s := withoutEnding s c.val (a ++ b)) (who := .cluster c) (n := n) 1 hm
    ((countReady_withoutEnding s c.val _ _ n).trans hr)
  have hx := exec_launchEnd_first hs ha he
  rw [endLaunch_counted hcon hcpl, hc] at hx
  have hclu : t.clu = (withoutEnding s c.val (a ++ b)).clu := by rw [hfr]
  have hcl (d : Nat) : cl t d = cl (withoutEnding s c.val (a ++ b)) d := by unfold cl; rw [hclu]
  refine ⟨t, hx.trans (congrArg _ ht), ?_, ?_, fun d hd => ?_, fun i => (hby i).trans (countByte_withoutEnding s c.val _ n 1 i)⟩
  · rw [hclu]; exact hfr
  · rw [hcl]; exact cl_withoutEnding_same s c.val _
  · rw [hcl]; exact cl_withoutEnding_other s _ hd

/-- A leaf's share of a constellation's launch ends. -/
theorem launchEnd_leaf {k id : Nat} (hcon : e.launch.con = some (k, id)) :
    exec (.launchEnd c) s = .next (leafEnded (withoutEnding s c.val (a ++ b)) c.val id e.failed) := by
  rw [exec_launchEnd_first hs ha he, endLaunch_leaf hcon]
  rfl

end Ended

/-- Settles O21: the start is the core's reset to the descriptor with one trace record, and the end a count raised, or a leaf's share of
its constellation's launch taken. -/
theorem launchStartAndEnd : Obligations.LaunchStartAndEnd := by
  unfold Obligations.LaunchStartAndEnd
  refine ⟨fun s c => ⟨exec_launchStart_none, fun l rest hq hr => ?_⟩, fun s c => ⟨exec_launchEnd_none, fun a b e hs ha he => ⟨?_, ?_, ?_⟩⟩⟩
  · obtain ⟨t, ht, hfr, hy, hother, hfifo⟩ := launchStart_runs hq hr
    refine ⟨t, ht, hfr, ?_, fun n => ?_, hother, hfifo⟩
    · rw [hy]; rfl
    · rw [hy]; exact startCore_sregs _ _ _ _
  · intro hcon hcpl
    rw [exec_launchEnd_first hs ha he, endLaunch_uncounted hcon hcpl]
    rfl
  · intro n hcon hcpl hm hr
    exact launchEnd_counted hs ha he hcon hcpl hm hr
  · intro k id r hcon hrun
    have hx := launchEnd_leaf hs ha he hcon
    refine ⟨fun hmore => ?_, fun hlast hn => ?_⟩
    · obtain ⟨runs, hl, hf⟩ := leafEnded_more (s := withoutEnding s c.val (a ++ b)) (c := c.val) (failed := e.failed) hrun hmore
      rw [hl] at hx
      exact ⟨_, hx, rfl, cl_withoutEnding_same s c.val _, hf⟩
    · obtain ⟨q, hl, hruns, hdone⟩ := leafEnded_last (s := withoutEnding s c.val (a ++ b)) (c := c.val) (failed := e.failed) hrun hlast hn
      rw [hl] at hx
      refine ⟨_, hx, rfl, cl_withoutEnding_same s c.val _, hruns, fun hf => ?_, fun hf => ?_⟩
      · exact hdone.trans (if_pos hf)
      · exact hdone.trans (if_neg (by rw [hf]; exact Bool.noConfusion))

end Sys2Proof.Machine
end

section
/-! SUPPORT. Granule moves of a stack-scope load (R53): a granule written at a location, the holding buffer, and the way back. -/

namespace Sys2Proof.Machine

/-! A granule written at a location -/

/-- The memory with lines of a location written, in order. -/
def writeLines (m : Memory) (b : Nat) (v : Nat → BitVec 512 × Bool) (l : List Nat) : Memory :=
  l.foldl (fun m i => putLine (settle m (b + i)) (b + i) (v i).1 (v i).2) m

theorem lineView_writeLines_other {b k : Nat} {v : Nat → BitVec 512 × Bool} : ∀ (l : List Nat) {m : Memory}, m.formOk = true →
    (∀ i ∈ l, k ≠ b + i) → lineView (writeLines m b v l) k = lineView m k
  | [], _, _, _ => rfl
  | i :: l, m, h, hk => by
    obtain ⟨hi, hl⟩ := List.forall_mem_cons.1 hk
    have h1 := settle_formOk m (b + i) h
    refine (lineView_writeLines_other l (putLine_formOk _ (b + i) (v i).1 (v i).2 h1) hl).trans ?_
    rw [lineView_putLine_other h1 _ _ hi, lineView_settle_other h hi]

/-- Every line written reads what was written to it. -/
theorem lineView_writeLines {b i : Nat} {v : Nat → BitVec 512 × Bool} : ∀ (l : List Nat) {m : Memory}, m.formOk = true → l.Nodup → i ∈ l →
    lineView (writeLines m b v l) (b + i) = v i
  | j :: l, m, h, hd, hi => by
    obtain ⟨hj, hd⟩ := List.nodup_cons.1 hd
    have h1 := putLine_formOk _ (b + j) (v j).1 (v j).2 (settle_formOk m (b + j) h)
    by_cases he : i = j
    · subst he
      refine (lineView_writeLines_other l h1 (fun k hk heq => hj (by rw [Nat.add_left_cancel heq]; exact hk))).trans ?_
      exact lineView_putLine_same (settle_formOk m (b + i) h) _ _ _
    · exact lineView_writeLines l h1 hd ((List.mem_cons.1 hi).resolve_left he)

/-- What the loader's buffer holds of a line of its granule. -/
def Granule.line (h : Granule) (i : Nat) : BitVec 512 × Bool := (lineOf ((h.bytes.drop (64 * i)).take 64), h.poison.getD i false)

theorem foldl_mem {β : Type} (f : Memory → β → Memory) : ∀ (l : List β) (s : State),
    l.foldl (fun s i => { s with mem := f s.mem i }) s = { s with mem := l.foldl f s.mem }
  | [], _ => rfl
  | i :: l, s => foldl_mem f l { s with mem := f s.mem i }

theorem writeGranule_eq (s : State) (h : Granule) (key : Nat) :
    writeGranule s h key = { s with mem := writeLines s.mem (key / 64) h.line (List.range 4) } :=
  foldl_mem (fun m i => putLine (settle m (key / 64 + i)) (key / 64 + i) (h.line i).1 (h.line i).2) _ s

theorem lineView_writeGranule {s : State} (hm : s.mem.formOk = true) (h : Granule) (key : Nat) {i : Nat} (hi : i < 4) :
    lineView (writeGranule s h key).mem (key / 64 + i) = h.line i := by
  rw [writeGranule_eq]
  dsimp only
  exact lineView_writeLines (b := key / 64) (v := h.line) (List.range 4) hm List.nodup_range (List.mem_range.2 hi)

/-! The buffer -/

/-- A granule whose new place takes it, and where nothing else stands, leaves the buffer for it. -/
theorem placeGranule_free {s : State} {h : Granule} {dst src : Hashing} {key : Nat} (stays : Nat → Bool) (mark : KSet → KSet) (ecc : Ecc)
    (hk : hashKey dst (h.g * 256) = some key) (hu : unhash src key = none) (ht : takesGranule s key = true) :
    placeGranule s h dst src stays mark ecc = { s with
      mem := (writeGranule s h key).mem, load := { s.load with moved := mark s.load.moved, hold := none } } := by
  unfold placeGranule
  simp only [hk, hu, ht, Option.bind_none, Option.any_none, Bool.not_true, Bool.or_false, Bool.false_eq_true, if_false]
  rw [writeGranule_eq]

/-- A granule in the buffer stays there, or is marked as placed. -/
theorem placeGranule_hold_or_moved (s : State) (h : Granule) (dst src : Hashing) (stays : Nat → Bool) (mark : KSet → KSet) (ecc : Ecc) :
    (placeGranule s h dst src stays mark ecc).load.hold = s.load.hold ∨ ∃ m, (placeGranule s h dst src stays mark ecc).load.moved = mark m := by
  unfold placeGranule
  split
  · exact .inl rfl
  · dsimp only
    split
    · exact .inl rfl
    · exact .inr ⟨_, rfl⟩

theorem readGranule_g (s : State) (g : Nat) (ecc : Ecc) : (readGranule s g ecc).2.g = g := by
  unfold readGranule
  refine List.foldlRecOn (motive := fun z : State × Granule => z.2.g = g) _ _ rfl (fun z hz i _ => ?_)
  dsimp only
  split
  · exact hz
  · exact hz

/-! One step of a move -/

/-- The granule in the buffer goes to its place under the new hash. -/
def sendGranule (s : State) (h : Granule) (ecc : Ecc) : State :=
  placeGranule s h s.load.next.hash s.img.hash (fun x => s.load.moved.contains x || decide (hashSize s.load.next.hash ≤ x * 256))
    (fun m => KSet.add m h.g) ecc

theorem granuleMove_idle {s : State} {g : Nat} (ecc : Ecc) (h : migrating s = false ∨ s.load.backing ≠ none ∨
    (s.load.hold = none ∧ (mustMove s g = false ∨ g ∈ s.load.moved))) : granuleMove s g ecc = s := by
  unfold granuleMove
  by_cases hg : (!migrating s || s.load.backing.isSome) = true
  · rw [if_pos hg]
  · rw [if_neg hg]
    simp only [Bool.or_eq_true, Bool.not_eq_true', not_or, Bool.not_eq_false, Bool.not_eq_true, Option.isSome_eq_false_iff,
      Option.isNone_iff_eq_none] at hg
    obtain ⟨hh, hm⟩ := (h.resolve_left (by rw [hg.1]; exact Bool.noConfusion)).resolve_left (fun hb => hb hg.2)
    simp only [hh]
    refine if_pos ?_
    rcases hm with hm | hm
    · simp [hm]
    · rw [show s.load.moved.contains g = true from List.contains_iff_mem.2 hm, Bool.or_true, Bool.true_or, Bool.true_or]

section Moving

variable {s : State} (hm : migrating s = true) (hb : s.load.backing = none)

include hm hb

theorem granuleMove_held {h : Granule} (ecc : Ecc) (hh : s.load.hold = some h) :
    granuleMove s h.g ecc = moveProgress (sendGranule s h ecc) := by
  unfold granuleMove
  simp only [hm, hb, hh, Bool.not_true, Option.isSome_none, Bool.or_false, Bool.false_eq_true, if_false, if_true]
  rfl

/-- A granule that has to move is read into the buffer, and goes on from there. -/
theorem granuleMove_read {g : Nat} (ecc : Ecc) (hh : s.load.hold = none) (hmust : mustMove s g = true) (hg : g ∉ s.load.moved)
    (hblk : granuleBlocked s g = false) (htk : (hashKey s.load.next.hash (g * 256)).any (takesGranule s) = true) :
    ∃ u : State, u.load.hold = some (readGranule s g ecc).2 ∧ granuleMove s g ecc = moveProgress (sendGranule u (readGranule s g ecc).2 .clean) := by
  have hc : s.load.moved.contains g = false := by
    rw [← Bool.not_eq_true, List.contains_iff_mem]
    exact hg
  unfold granuleMove
  simp only [hm, hb, hh, hmust, hc, hblk, htk, Bool.not_true, Option.isSome_none, Bool.or_false, Bool.false_eq_true, if_false]
  generalize readGranule s g ecc = r
  exact ⟨{ r.1 with load := { r.1.load with hold := some r.2 } }, rfl, rfl⟩

end Moving

theorem moveProgress_frame (s : State) : moveProgress s = { s with regs := (moveProgress s).regs, fresh := s.fresh + 1 } := rfl

/-- Once its move has begun, a granule has moved or stands in the buffer. -/
theorem moveProgress_sent (u : State) (h : Granule) (ecc : Ecc) (hh : u.load.hold = some h) :
    h.g ∈ (moveProgress (sendGranule u h ecc)).load.moved ∨ (moveProgress (sendGranule u h ecc)).load.hold = some h := by
  have hl : (moveProgress (sendGranule u h ecc)).load = (sendGranule u h ecc).load := by rw [moveProgress_frame]
  rw [hl]
  rcases placeGranule_hold_or_moved u h u.load.next.hash u.img.hash
    (fun x => u.load.moved.contains x || decide (hashSize u.load.next.hash ≤ x * 256)) (fun m => KSet.add m h.g) ecc with hp | ⟨m, hp⟩
  · exact .inr (hp.trans hh)
  · refine .inl ?_
    have hp' : (sendGranule u h ecc).load.moved = KSet.add m h.g := hp
    rw [hp', KSet.mem_add]
    exact .inl rfl

/-- The buffered granule is written to its place under the new hash. -/
theorem granuleMove_placed {s : State} {h : Granule} {key : Nat} (ecc : Ecc) (hm : migrating s = true) (hb : s.load.backing = none)
    (hh : s.load.hold = some h) (hk : hashKey s.load.next.hash (h.g * 256) = some key) (hu : unhash s.img.hash key = none)
    (ht : takesGranule s key = true) (hf : s.mem.formOk = true) : ∃ t, granuleMove s h.g ecc = t ∧
    t = { s with regs := t.regs, fresh := s.fresh + 1, mem := t.mem, load := { s.load with moved := KSet.add s.load.moved h.g, hold := none } } ∧
    ∀ i < 4, lineView t.mem (key / 64 + i) = h.line i := by
  have hv := fun i hi => lineView_writeGranule hf h key (i := i) hi
  rw [granuleMove_held hm hb ecc hh, sendGranule, placeGranule_free _ _ ecc hk hu ht]
  generalize (writeGranule s h key).mem = m at hv
  exact ⟨_, rfl, moveProgress_frame _, hv⟩

/-! The way back -/

theorem granuleBack_idle {s : State} (g : Nat) (h : s.load.backing = none) : granuleBack s g = s := by
  unfold granuleBack; simp only [h]

/-- The last granule of a load that goes back is written to its old place, and the load ends with its code. -/
theorem granuleBack_last {s : State} {h : Granule} {key code : Nat} (hb : s.load.backing = some code) (hmv : s.load.moved = [])
    (hh : s.load.hold = some h) (hk : hashKey s.img.hash (h.g * 256) = some key) (hu : unhash s.load.next.hash key = none)
    (ht : takesGranule s key = true) : ∃ l, granuleBack s h.g = loadFails { s with mem := (writeGranule s h key).mem, load := l } code 0xFF 0 := by
  have hp := placeGranule_free (fun x => !s.load.moved.contains x) (fun m => KSet.del m h.g) .clean hk hu ht
  refine ⟨{ s.load with moved := KSet.del s.load.moved h.g, hold := none }, ?_⟩
  unfold granuleBack
  simp only [hb, hh, if_true, hp]
  rw [hmv]
  rfl

end Sys2Proof.Machine
end

section
/-! SUPPORT. The release of accesses that wait (R53): while nothing is free nothing changes, and a lone read is performed and answered. -/

namespace Sys2Proof.Machine

/-! The list of waiting accesses has no part in what a line reads -/

/-- The memory with another list of waiting accesses. -/
def withWaiting (m : Memory) (q : List Waiting) : Memory := { m with waiting := q }

theorem fillLines_withWaiting (f : Fill) (q : List Waiting) : ∀ (l : List Nat) (m : Memory),
    l.foldl (fun m i => fillLine m f i) (withWaiting m q) = withWaiting (l.foldl (fun m i => fillLine m f i) m) q
  | [], _ => rfl
  | i :: l, m => by
    have h : fillLine (withWaiting m q) f i = withWaiting (fillLine m f i) q := by unfold fillLine; split <;> rfl
    rw [List.foldl_cons, List.foldl_cons, h, fillLines_withWaiting f q l]

theorem makeRoom_withWaiting (m : Memory) (q : List Waiting) (ch : Nat) : makeRoom (withWaiting m q) ch = withWaiting (makeRoom m ch) q := by
  have h : fillsOf (withWaiting m q) ch = fillsOf m ch := rfl
  unfold makeRoom
  rw [h]
  split
  next f t _ =>
    split
    · unfold finishFill
      rw [fillLines_withWaiting]
      rfl
    · rfl
  next => rfl

theorem putLine_withWaiting (m : Memory) (q : List Waiting) (n : Nat) (d : BitVec 512) (p : Bool) :
    putLine (withWaiting m q) n d p = withWaiting (putLine m n d p) q := by
  by_cases hu : unitOfLine n ∈ m.written
  · rw [putLine_written d p hu, putLine_written (m := withWaiting m q) d p hu]
    rfl
  · rw [putLine_unwritten d p hu, putLine_unwritten (m := withWaiting m q) d p hu]
    unfold openUnit
    rw [makeRoom_withWaiting]
    rfl

theorem performWrites_withWaiting (q : List Waiting) : ∀ (ws : List PendingWrite) (m : Memory),
    ws.foldl (fun m w => performWrite m w) (withWaiting m q) = withWaiting (ws.foldl (fun m w => performWrite m w) m) q
  | [], _ => rfl
  | w :: ws, m => by
    have h : performWrite (withWaiting m q) w = withWaiting (performWrite m w) q := putLine_withWaiting m q _ _ _
    rw [List.foldl_cons, List.foldl_cons, h, performWrites_withWaiting q ws]

theorem settle_withWaiting (m : Memory) (q : List Waiting) (n : Nat) : settle (withWaiting m q) n = withWaiting (settle m n) q :=
  performWrites_withWaiting q _ (setAccepted m (chanOfLine n) ((acceptedOf m (chanOfLine n)).filter (fun w => w.line ≠ n)))

theorem peekLine_withWaiting {s t : State} (hl : SameLayout s t) {q : List Waiting} (hm : t.mem = withWaiting s.mem q) (off : Nat) :
    peekLine t off = peekLine s off := by
  have hc (die : Nat) : cached (withWaiting s.mem q) die off = cached s.mem die off := rfl
  have hv (n : Nat) : lineView (settle (withWaiting s.mem q) n) n = lineView (settle s.mem n) n := by rw [settle_withWaiting]; rfl
  unfold peekLine
  rw [hm, hl.homeDie, hl.lineNo, hc]
  simp only [hv]

/-! The release -/

/-- Where every waiting access is still held, none is performed. -/
theorem releaseWaiting_none {s : State} (h : nextFree s = none) : releaseWaiting s = s := by
  unfold releaseWaiting
  cases s.mem.waiting.length with
  | zero => rfl
  | succ n => unfold releaseAux; simp only [h]

/-- A lone waiting access that nothing holds back is free. -/
theorem nextFree_single {s : State} {w : Waiting} (hw : s.mem.waiting = [w]) (hb : lineBlocked s w.addr = false)
    (hh : holdBlocks s w.addr w.kind = false) : nextFree s = some (w, []) := by
  unfold nextFree
  rw [hw]
  simp [takeFirst, hb, hh]

/-- The state in which a lone waiting access has left the list. -/
def unheld (s : State) : State := { s with mem := withWaiting s.mem [] }

theorem performHashed_lineRead (s : State) (who : Requester) (off : Nat) (ecc : Ecc) : performHashed s who off .lineRead ecc =
    ((obtainLine s (off / 64 * 64) ecc).1, .data (lineBytes (obtainLine s (off / 64 * 64) ecc).2.1) (obtainLine s (off / 64 * 64) ecc).2.2, none) := rfl

/-- A free access alone in the list is performed and answered; a read raises no count. -/
theorem releaseWaiting_single {s : State} {w : Waiting} (hw : s.mem.waiting = [w]) (hf : nextFree s = some (w, [])) (hk : w.kind = .lineRead) :
    releaseWaiting s = deliver (obtainLine (unheld s) (w.addr / 64 * 64) .clean).1 w.origin
      (.data (lineBytes (peekLine (unheld s) (w.addr / 64 * 64)).1) (peekLine (unheld s) (w.addr / 64 * 64)).2) := by
  rw [← obtainLine_clean_snd]
  unfold releaseWaiting
  rw [hw, List.length_singleton, releaseAux]
  simp only [hf, hk, performHashed_lineRead]
  rfl

/-- A hub-side requester is told the data of its read, whatever is recorded of its poison (R344). -/
theorem hubAnswer_data (s : State) (who : Requester) (b : List Byte) (p : Bool) : (hubAnswer s who (.data b p)).out = s.out ++ [⟨some who, .data b p⟩] := by
  unfold hubAnswer
  split
  · cases p
    · rfl
    · dsimp only
      rw [recordUe_frame]
      rfl
  · rfl

/-- A lone read that waits for its line is performed as soon as nothing holds the line. -/
theorem releaseWaiting_read {s : State} {w : Waiting} {who : Requester} (hw : s.mem.waiting = [w]) (hk : w.kind = .lineRead)
    (ho : w.origin = .hub who) (hb : lineBlocked s w.addr = false) (hh : holdBlocks s w.addr w.kind = false) :
    (releaseWaiting s).mem.waiting = [] ∧ (releaseWaiting s).out = s.out ++
      [⟨some who, .data (lineBytes (peekLine s (w.addr / 64 * 64)).1) (peekLine s (w.addr / 64 * 64)).2⟩] := by
  have hp : peekLine (unheld s) (w.addr / 64 * 64) = peekLine s (w.addr / 64 * 64) :=
    peekLine_withWaiting (s := s) (t := unheld s) (q := []) (SameLayout.of_load rfl rfl rfl) rfl _
  have hr : releaseWaiting s = hubAnswer (obtainLine (unheld s) (w.addr / 64 * 64) .clean).1 who
      (.data (lineBytes (peekLine s (w.addr / 64 * 64)).1) (peekLine s (w.addr / 64 * 64)).2) := by
    rw [releaseWaiting_single hw (nextFree_single hw hb hh) hk, ho, hp]
    rfl
  have hs := sameRest_obtainLine (unheld s) (w.addr / 64 * 64)
  rw [hr, hubAnswer_mem, hubAnswer_data, obtainLine_clean_frame]
  refine ⟨?_, rfl⟩
  dsimp only
  rw [hs]
  rfl

end Sys2Proof.Machine
end

section
/-! SUPPORT. What leaves the structure in force as it is: stores by address and what they reach, interrupt deliveries, links lost, and the
steps of a switch around its structure (R51 to R55). -/

namespace Sys2Proof.Machine

theorem foldl_img {β : Type} {f : State → β → State} (hf : ∀ t b, (f t b).img = t.img) (l : List β) (s : State) : (l.foldl f s).img = s.img :=
  foldl_keeps (P := fun t => t.img = s.img) f (fun t b ht => (hf t b).trans ht) l s rfl

/-! Stores in this part -/

@[simp] theorem writeLine1_img (s : State) (off : Nat) (d : BitVec 512) (p : Bool) : (writeLine1 s off d p).img = s.img := by
  unfold writeLine1
  rw [allocate_frame]

@[simp] theorem noteWrite_img (s : State) (who : Requester) (off : Nat) : (noteWrite s who off).img = s.img := by rw [noteWrite_frame]

@[simp] theorem writeLine_img (s : State) (who : Requester) (off : Nat) (d : BitVec 512) (p : Bool) : (writeLine s who off d p).img = s.img := by
  unfold writeLine
  dsimp only
  split <;> simp

@[simp] theorem obtainLine_clean_img (s : State) (off : Nat) : (obtainLine s off .clean).1.img = s.img := by rw [obtainLine_clean_frame]

@[simp] theorem backInvalidateAsk_img (s : State) (off : Nat) : (backInvalidateAsk s off).img = s.img := by
  unfold backInvalidateAsk
  split
  · rfl
  · refine foldl_img (fun t x => ?_) _ _
    rfl

/-- A store to a line, or to part of one. -/
def isLineStore : AccessKind → Bool
  | .lineWrite _ _ => true
  | .partialStore _ _ => true
  | _ => false

theorem performHashed_store (s : State) (who : Requester) (off : Nat) {kind : AccessKind} (h : isLineStore kind = true) :
    (performHashed s who off kind .clean).1.img = s.img ∧ (performHashed s who off kind .clean).2.2 = none := by
  cases kind with
  | lineWrite d p =>
    unfold performHashed
    dsimp only
    split <;> simp
  | partialStore bs p =>
    unfold performHashed
    dsimp only
    split <;> simp
  | _ => cases h

theorem performWindow_store (s : State) (off c x : Nat) {kind : AccessKind} (h : isLineStore kind = true) :
    (performWindow s off c x kind .clean).1.img = s.img ∧ (performWindow s off c x kind .clean).2.2 = none := by
  cases kind with
  | lineWrite d p =>
    unfold performWindow
    dsimp only
    split <;> exact ⟨rfl, rfl⟩
  | partialStore bs p =>
    unfold performWindow
    dsimp only
    split <;> exact ⟨rfl, rfl⟩
  | _ => cases h

/-- A store to this part leaves the structure, and raises no count. -/
theorem localAccess_store (s : State) (o : Origin) (who : Requester) (space off : Nat) {kind : AccessKind} (h : isLineStore kind = true) :
    (localAccess s o who space off kind .clean).1.img = s.img ∧ (localAccess s o who space off kind .clean).2.2 = none := by
  have hp := performHashed_store s who off h
  have hw := fun c x => performWindow_store s off c x h
  unfold localAccess
  split
  · repeat' split
    all_goals simp [hp]
  · split
    · split
      · exact ⟨rfl, rfl⟩
      · repeat' split
        all_goals simp [hw]
    · exact ⟨rfl, rfl⟩

/-! Stores that leave the part -/

@[simp] theorem sendPacket_img (s : State) (p : Nat) (x : Packet) : (sendPacket s p x).img = s.img := by
  rw [eq_of_apartFromLinks (sendPacket_frame s p x)]

@[simp] theorem fabRecord_img (s : State) (code side dev : Nat) : (fabRecord s code side dev).img = s.img := by
  unfold fabRecord
  dsimp only
  split <;> rfl

@[simp] theorem fabRequest_img (s : State) (o : Origin) (who : Requester) (opc dev sp off arg : Nat) (b : List Byte) (p : Bool) :
    (fabRequest s o who opc dev sp off arg b p).1.img = s.img := by
  unfold fabRequest
  dsimp only
  repeat' split
  all_goals simp

@[simp] theorem remoteAccess_img (s : State) (o : Origin) (who : Requester) (a : GAddr) (kind : AccessKind) :
    (remoteAccess s o who a kind).1.img = s.img := by
  unfold remoteAccess
  dsimp only
  split
  · rfl
  · cases kind <;> simp

@[simp] theorem hostSend1_img (s : State) (p : Nat) (r : HostReq) : (hostSend1 s p r).img = s.img := by
  unfold hostSend1
  split
  · rfl
  · dsimp only; split <;> rfl

theorem hostDrainAux_img (p : Nat) : ∀ (n : Nat) (s : State), (hostDrainAux n s p).img = s.img
  | 0, _ => rfl
  | n + 1, s => by
    unfold hostDrainAux
    repeat' split
    all_goals simp [hostDrainAux_img p n]

@[simp] theorem hostPush_img (s : State) (p : Nat) (r : HostReq) : (hostPush s p r).img = s.img := hostDrainAux_img p _ _

@[simp] theorem outEntry_img (s : State) (p i : Nat) : (outEntry s p i).1.img = s.img := by
  unfold outEntry
  split
  · rfl
  · exact obtainLine_clean_img s _

theorem outFail_img (s : State) (p off : Nat) (a : Answer) : (outFail s p off a).1.img = s.img := rfl

@[simp] theorem hostAccess_img (s : State) (o : Origin) (who : Requester) (off : Nat) (kind : AccessKind) :
    (hostAccess s o who off kind).1.img = s.img := by
  unfold hostAccess
  dsimp only
  repeat' split
  all_goals simp [outFail_img]

theorem access_store_img (s : State) (o : Origin) (who : Requester) (a : GAddr) {kind : AccessKind} (h : isLineStore kind = true) :
    (access s o who a kind .clean).1.img = s.img := by
  obtain ⟨hi, hn⟩ := localAccess_store s o who (spaceOf a) (offOf a) h
  unfold access
  split
  · exact remoteAccess_img ..
  · split
    · exact hostAccess_img ..
    · simp only [hn]
      split
      · exact hi
      · exact hi

/-! Bytes written by an engine -/

@[simp] theorem engineStore_img (s : State) (who : Requester) (a : Nat) (bs : List Byte) (p : Bool) : (engineStore s who a bs p).img = s.img := by
  unfold engineStore
  split
  · rfl
  · refine access_store_img s _ who _ ?_
    split <;> rfl

theorem engineWriteAux_img (who : Requester) (p : Bool) : ∀ (n : Nat) (s : State) (a : Nat) (bs : List Byte),
    (engineWriteAux who p n s a bs).img = s.img
  | 0, _, _, _ => rfl
  | n + 1, s, a, bs => by
    unfold engineWriteAux
    split
    · rfl
    · exact (engineWriteAux_img who p n _ _ _).trans (engineStore_img ..)

@[simp] theorem placeBody_img (s : State) (b : List Byte) : (placeBody s b).img = s.img := engineWriteAux_img _ _ _ _ _ _

theorem deliver_nobody (s : State) (a : Answer) : deliver s .nobody a = s := by cases a <;> rfl

@[simp] theorem releaseStores_img (s : State) : (releaseStores s).img = s.img := by
  unfold releaseStores
  refine foldl_img (fun t x => ?_) _ _
  cases x with
  | line a d =>
    dsimp only
    unfold accessFor
    rw [deliver_nobody]
    exact access_store_img t _ _ _ rfl
  | unit i t => rfl
  | window l t => rfl

/-! Links, routes and the steps of a switch -/

theorem loseLink_frame (s : State) (p st : Nat) : apartFromLinks (loseLink s p st) = apartFromLinks s := by
  unfold loseLink reroute
  rw [releaseRequests_frame]
  rfl

@[simp] theorem setPortEn_img (s : State) (p v : Nat) : (setPortEn s p v).img = s.img := by
  have hl (t : State) : (loseLink t p 0).img = t.img := by rw [eq_of_apartFromLinks (loseLink_frame t p 0)]
  unfold setPortEn
  dsimp only
  split
  · rfl
  · split
    · split
      · rfl
      · exact hl _
    · split <;> rfl

@[simp] theorem deliverTo_img (s : State) (c : Context) : (deliverTo s c).img = s.img := by
  cases c with
  | supervisor => rfl
  | management => unfold deliverTo; dsimp only; split <;> rfl
  | vector p f v =>
    unfold deliverTo sendMsix
    dsimp only
    repeat' split
    all_goals simp

@[simp] theorem irqUpdate_img (s : State) : (irqUpdate s).img = s.img := by
  unfold irqUpdate
  split
  · rfl
  · exact foldl_img deliverTo_img _ _

@[simp] theorem applyRoutes_img (s : State) (r : List IrqRoute) (keep : Nat → Bool) : (applyRoutes s r keep).img = s.img := irqUpdate_img _

@[simp] theorem recheckRegions_img (s : State) : (recheckRegions s).img = s.img := by
  unfold recheckRegions
  refine foldl_img (fun t e => ?_) _ _
  split <;> rfl

@[simp] theorem setDigest_img (s : State) (d : BitVec 384) : (setDigest s d).img = s.img := by
  unfold setDigest
  refine foldl_img (fun t i => ?_) _ _
  rfl

theorem icinv_img (s : State) (c : Nat) : (icinv s c).img = s.img := rfl

/-! The switch's own structure -/

/-- The structure that a switch brings in: the image laid over the one in force, of a stack-scope load all but the mode mask (R53). -/
def switchedImage (s : State) (b : List Byte) : Image :=
  if (imgHeader b).scope = 2 then
    { nextImage s b with pmask := KMap.set (fun _ => 0) (nextImage s b).pmask (imgHeader b).target (pmask s.img (imgHeader b).target) }
  else nextImage s b

theorem applyImage_img (s : State) (b : List Byte) : (applyImage s b).img = switchedImage s b := by
  have hite (p : Prop) [Decidable p] (f : State → State) (t : State) (hf : (f t).img = t.img) : (if p then f t else t).img = t.img := by
    split
    · exact hf
    · rfl
  unfold applyImage
  extract_lets h xs old next s1 s2 now s3 s4 s5 s6 touched s7 s8 mine s9 s10
  have h4 : s4.img = s3.img := hite _ (fun t => recheckRegions (modStk t _ _)) s3 (recheckRegions_img _)
  have h5 : s5.img = s4.img := hite _ (fun t => placeBody t _) s4 (by simp)
  have h6 : s6.img = s5.img := hite _ (fun t => placeBody t _) s5 (by simp)
  have h7 : s7.img = s6.img := hite _ (fun t => List.foldl icinv t _) s6 (foldl_img icinv_img _ _)
  have h8 : s8.img = s7.img := hite _ (fun t => List.foldl _ t _) s7 (foldl_img (fun t p => setPortEn_img t p _) _ _)
  have h9 : s9.img = s8.img := hite _ (fun t => applyRoutes t _ _) s8 (by simp)
  have h10 : s10.img = s9.img := hite _ releaseStores s9 (by simp)
  rw [setDigest_img]
  exact h10.trans (h9.trans (h8.trans (h7.trans (h6.trans (h5.trans h4)))))

end Sys2Proof.Machine
end

section
/-! PROOFS. The switch of an image, granule moves and the release of held accesses (O6). -/

namespace Sys2Proof.Machine

/-! The switch (R51 to R54) -/

theorem imgSwitch_waits {s : State} (h : switchReady s = false) : imgSwitch s = s := by
  unfold imgSwitch
  rw [h]
  rfl

/-- A full load whose map names a claimed cluster fails at the switch. -/
theorem imgSwitch_claimed {s : State} (h : switchReady s = true) (h0 : s.load.scope = 0) (hc : ∃ c ∈ s.load.claimed, c ∈ s.load.next.lmap) :
    ∃ sect detail, imgSwitch s = loadFails s 0x11 sect detail := by
  have ha : (decide (s.load.scope = 0) && s.load.claimed.any (fun c => s.load.next.lmap.contains c)) = true := by simpa [h0] using hc
  unfold imgSwitch
  simp only [h, Bool.not_true, Bool.false_eq_true, if_false, if_pos ha]
  exact ⟨_, _, rfl⟩

/-- The registers of a state that has switched: progress at the whole image, and STATE in effect or in checkpoint (R59). -/
def switchedRegs (s : State) : State :=
  let t := applyImage s s.load.bytes
  let t := wr t Fld.IMG_LOAD_PCT_PCT (Nat.max 990 (rd t Fld.IMG_LOAD_PCT_PCT))
  let t := wr64 t Fld.IMG_LOAD_POS_LO_POS Fld.IMG_LOAD_POS_HI_POS (imgHeader s.load.bytes).length
  wr t Fld.IMG_STATUS_STATE (if (imgHeader s.load.bytes).scope = 3 then 3 else 4)

theorem imgSwitch_switches {s : State} (h : switchReady s = true) (h0 : s.load.scope = 0 → ∀ c ∈ s.load.claimed, c ∉ s.load.next.lmap)
    (h1 : s.load.scope = 1 → liveRemoved s = none) : ∃ l, imgSwitch s = { switchedRegs s with load := l } ∧ l.moved = [] ∧ l.units = [] := by
  have ha : ¬(decide (s.load.scope = 0) && s.load.claimed.any (fun c => s.load.next.lmap.contains c)) = true := by
    simpa using h0
  have hl : (if s.load.scope = 1 then liveRemoved s else none) = none := by
    split
    · next h => exact h1 h
    · rfl
  unfold imgSwitch
  simp only [h, Bool.not_true, Bool.false_eq_true, if_false, if_neg ha, hl]
  exact ⟨_, rfl, rfl, rfl⟩

theorem switchedRegs_img (s : State) : (switchedRegs s).img = switchedImage s s.load.bytes := by
  unfold switchedRegs
  rw [wr_img, wr64_img, wr_img, applyImage_img]

theorem switchedRegs_state (s : State) : rd (switchedRegs s) Fld.IMG_STATUS_STATE = if (imgHeader s.load.bytes).scope = 3 then 3 else 4 :=
  rd_wr_same _ _ _ _ _ (by decide) (by split <;> decide)

/-- The digest's words are apart from the generation. -/
theorem rd64_gen_setDigest (s : State) (d : BitVec 384) :
    rd64 (setDigest s d) Fld.IMG_GEN_LO_GEN Fld.IMG_GEN_HI_GEN = rd64 s Fld.IMG_GEN_LO_GEN Fld.IMG_GEN_HI_GEN := by
  have hap : ∀ i ∈ List.range 12, Fld.IMG_GEN_LO_GEN.apart Fld.IMG_DIGEST_WORD 0 0 i 0 ∧ Fld.IMG_GEN_HI_GEN.apart Fld.IMG_DIGEST_WORD 0 0 i 0 := by
    decide
  unfold setDigest
  refine List.foldlRecOn (motive := fun t => rd64 t Fld.IMG_GEN_LO_GEN Fld.IMG_GEN_HI_GEN = rd64 s Fld.IMG_GEN_LO_GEN Fld.IMG_GEN_HI_GEN)
    _ _ rfl (fun t ht i hi => ?_)
  obtain ⟨hl, hh⟩ := hap i hi
  exact (rd64_wr_other t _ _ _ _ _ _ _ _ (by decide) hl hh).trans ht

theorem fieldOf_lt (b : List Byte) (off n : Nat) : fieldOf b off n < 256 ^ n := by
  unfold fieldOf
  exact (leNat_lt _).trans_le (Nat.pow_le_pow_right (by decide) (by rw [List.length_take]; exact Nat.min_le_left _ _))

theorem applyImage_gen (s : State) (b : List Byte) : rd64 (applyImage s b) Fld.IMG_GEN_LO_GEN Fld.IMG_GEN_HI_GEN = (imgHeader b).gen := by
  have hlt : (imgHeader b).gen < 2 ^ 64 := fieldOf_lt b _ 8
  unfold applyImage
  extract_lets h xs old next s1 s2 now s3 s4 s5 s6 touched s7 s8 mine s9 s10
  rw [rd64_gen_setDigest]
  exact rd64_wr64_same _ _ _ _ _ _ (by decide) (by decide) rfl hlt (by decide)

theorem switchedRegs_gen (s : State) : rd64 (switchedRegs s) Fld.IMG_GEN_LO_GEN Fld.IMG_GEN_HI_GEN = (imgHeader s.load.bytes).gen := by
  have hpos (t : State) (v : Nat) : rd64 (wr64 t Fld.IMG_LOAD_POS_LO_POS Fld.IMG_LOAD_POS_HI_POS v) Fld.IMG_GEN_LO_GEN Fld.IMG_GEN_HI_GEN =
      rd64 t Fld.IMG_GEN_LO_GEN Fld.IMG_GEN_HI_GEN :=
    congrArg₂ (fun a b => a + 2 ^ 32 * b) (rd_wr64_other _ _ _ _ _ _ _ _ _ (by decide) (by decide) (by decide) (by decide))
      (rd_wr64_other _ _ _ _ _ _ _ _ _ (by decide) (by decide) (by decide) (by decide))
  unfold switchedRegs
  dsimp only
  rw [rd64_wr_other _ _ _ _ _ _ _ _ _ (by decide) (by decide) (by decide), hpos,
    rd64_wr_other _ _ _ _ _ _ _ _ _ (by decide) (by decide) (by decide), applyImage_gen]

/-- The switch brings in the image's structure and generation. -/
theorem imgSwitch_done {s : State} (h : switchReady s = true) (hs : (imgHeader s.load.bytes).scope = s.load.scope)
    (h0 : s.load.scope = 0 → ∀ c ∈ s.load.claimed, c ∉ s.load.next.lmap) (h1 : s.load.scope = 1 → liveRemoved s = none) :
    ∃ t, imgSwitch s = t ∧ t.img = switchedImage s s.load.bytes ∧
    rd64 t Fld.IMG_GEN_LO_GEN Fld.IMG_GEN_HI_GEN = (imgHeader s.load.bytes).gen ∧
    rd t Fld.IMG_STATUS_STATE = (if s.load.scope = 3 then 3 else 4) ∧ t.load.moved = [] ∧ t.load.units = [] := by
  obtain ⟨l, he, hm, hu⟩ := imgSwitch_switches h h0 h1
  have hr : ({ switchedRegs s with load := l } : State).regs = (switchedRegs s).regs := rfl
  refine ⟨_, he, switchedRegs_img s, (rd64_congr hr _ _ _ _).trans (switchedRegs_gen s), ?_, hm, hu⟩
  rw [← hs]
  exact (rd_congr hr _ _ _).trans (switchedRegs_state s)

/-! The obligation -/

/-- Settles O6: the switch's registers and structure, each way a granule move can go, and the release of one held read. -/
theorem imageSwitchAndGranuleMoves : Obligations.ImageSwitchAndGranuleMoves := by
  unfold Obligations.ImageSwitchAndGranuleMoves
  refine ⟨fun s h => ?_, fun s h h0 hc => ?_, fun s h hs h0 h1 => ?_, fun s g ecc h => ?_, fun s g ecc hm hb hh hmust hg hblk htk => ?_,
    fun s g ecc h key hm hb hh hg hf hk hu ht => ?_, fun s g h => ?_, fun s g h key code hb hmv hh hg hc hf hk hu ht => ?_,
    fun s h => ?_, fun s w who hw hk ho hb hh => ?_⟩
  · exact congrArg Host.Outcome.next (imgSwitch_waits h)
  · obtain ⟨sect, detail, he⟩ := imgSwitch_claimed h h0 hc
    obtain ⟨t, ht, hfr, hst, hco, -, -, hk⟩ := loadFails_ends (quiet s) (code := 0x11) sect detail (by decide)
    refine ⟨t, congrArg Host.Outcome.next (he.trans ht), ?_, hst, hco⟩
    rw [hk (by show s.load.scope ≠ 2; rw [h0]; decide)] at hfr
    exact hfr
  · obtain ⟨t, ht, hi, hg, hst, hm, hu⟩ := imgSwitch_done h hs h0 h1
    refine ⟨t, congrArg Host.Outcome.next ht, fun h2 => ?_, fun h2 => ?_, hg, hst, hm, hu⟩
    · exact hi.trans (if_neg (by rw [← hs] at h2; exact h2))
    · exact hi.trans (if_pos (hs.trans h2))
  · exact congrArg Host.Outcome.next (granuleMove_idle ecc h)
  · obtain ⟨u, hu, he⟩ := granuleMove_read (s := quiet s) hm hb ecc hh hmust hg hblk htk
    refine ⟨_, congrArg Host.Outcome.next he, ?_⟩
    have hgr := readGranule_g (quiet s) g.toNat ecc
    refine (moveProgress_sent u _ .clean hu).imp (fun hmv => ?_) (fun hho => ⟨_, hho, hgr⟩)
    rw [hgr] at hmv
    exact hmv
  · rw [← hg] at hk
    obtain ⟨t, ht, hfr, hv⟩ := granuleMove_placed (s := quiet s) ecc hm hb hh hk hu ht hf
    rw [hg] at ht hfr
    exact ⟨t, congrArg Host.Outcome.next ht, hfr, hv⟩
  · exact congrArg Host.Outcome.next (granuleBack_idle (s := quiet s) g.toNat h)
  · rw [← hg] at hk
    obtain ⟨l, he⟩ := granuleBack_last (s := quiet s) hb hmv hh hk hu ht
    have hv := fun i hi => lineView_writeGranule (s := quiet s) hf h key (i := i) hi
    generalize (writeGranule (quiet s) h key).mem = m at he hv
    obtain ⟨t, hlt, hfr, hst, hco, -, -, -⟩ := loadFails_ends { quiet s with mem := m, load := l } (code := code) 0xFF 0 hc
    have hmem : t.mem = m := by rw [hfr]
    rw [hg] at he
    refine ⟨t, congrArg Host.Outcome.next (he.trans hlt), ?_, hst, hco, ?_⟩
    · rw [hmem]; exact hfr
    · rw [hmem]; exact hv
  · exact congrArg Host.Outcome.next (releaseWaiting_none h)
  · obtain ⟨hwt, hout⟩ := releaseWaiting_read (s := quiet s) hw hk ho hb hh
    exact ⟨_, rfl, hwt, hout⟩

end Sys2Proof.Machine
end

section
/-! SUPPORT. States whose memories are in their form and behind which a given queue waits: how a change of state keeps both. Each function
of the machine then has one lemma of its own, named after it, in the sections that follow. -/

namespace Sys2Proof.Machine

/-- The memories are in their form, and `P` waits in the queue. -/
def Formed (P : List Instr) (s : State) : Prop := s.mem.formOk = true ∧ s.pending = P

/-- A state that may be missing is formed where it is given. -/
def FormedIn (P : List Instr) (o : Option State) : Prop := ∀ t, o = some t → Formed P t

/-- A state given with something else, which may be missing, is formed where it is given. -/
def FormedFst {α : Type} (P : List Instr) (o : Option (State × α)) : Prop := ∀ t, o = some t → Formed P t.1

/-- A state given with something else is formed. -/
def FormedPair {α : Type} (P : List Instr) (r : State × α) : Prop := Formed P r.1

/-- Every next state that a command answers is formed. -/
def Ends (P : List Instr) (o : Out) : Prop := ∀ t, o = .next t → Formed P t

variable {P : List Instr} {s t : State} {α β γ : Type}

/-! Updates of fields -/

theorem Memory.formOk_noSpad {m : Memory} {poison accepted sets spadPoison reductions retries waiting snoop bounds zfill restoring regions}
    (h : m.formOk = true) :
    ({ m with spad := [], poison, accepted, sets, spadPoison, reductions, retries, waiting, snoop, bounds, zfill, restoring,
              regions } : Memory).formOk = true := by
  rw [Memory.formOk_iff] at h ⊢
  exact ⟨h.1, rfl, h.2.2⟩

theorem Memory.formOk_cleared {m : Memory} {poison} (h : m.formOk = true) :
    ({ m with written := [], fills := [], dram := [], poison } : Memory).formOk = true := by
  rw [Memory.formOk_iff] at h ⊢
  exact ⟨rfl, h.2.1, rfl⟩

theorem clipWrite_formOk {m : Memory} {c off bs} (h : m.formOk = true) : (clipWrite m c off bs).1.formOk = true := by
  unfold clipWrite
  dsimp only
  split <;> [exact h; exact spadWrite_formOk _ _ _ _ _ h]

theorem markAll_formOk {c} {l : List Nat} {m : Memory} (h : m.formOk = true) :
    (l.foldl (fun m a => markLine m c a) m).formOk = true :=
  foldl_formOk _ (fun _ _ hm => by unfold markLine; split <;> exact hm) _ _ h

theorem Formed.form (h : Formed P s) : s.mem.formOk = true := h.1

/-- The other parts of the state are free. -/
theorem Formed.keep (h : Formed P s)
    {regs shadow out fresh ns mer img load stk clu kvm seq fab ras saf bst sec pwr ckr irq hpt held probe probeHeld faultN alarmN} :
    Formed P { s with
      regs, shadow, out, fresh, ns, mer, img, load, stk, clu, kvm, seq, fab, ras, saf, bst, sec, pwr, ckr, irq, hpt, held, probe,
      probeHeld, faultN, alarmN } := h

/-- So is what the memories hold beside their bytes, the written map and the fill queues. -/
theorem Formed.keepMem (h : Formed P s)
    {poison accepted sets spadPoison reductions retries waiting snoop bounds zfill restoring regions}
    {regs shadow out fresh ns mer img load stk clu kvm seq fab ras saf bst sec pwr ckr irq hpt held probe probeHeld faultN alarmN} :
    Formed P { s with
      mem := { s.mem with
        poison, accepted, sets, spadPoison, reductions, retries, waiting, snoop, bounds, zfill, restoring, regions }
      regs, shadow, out, fresh, ns, mer, img, load, stk, clu, kvm, seq, fab, ras, saf, bst, sec, pwr, ckr, irq, hpt, held, probe,
      probeHeld, faultN, alarmN } := h

theorem Formed.setMem {mem : Memory} (h : Formed P s) (hm : mem.formOk = true)
    {regs shadow out fresh ns mer img load stk clu kvm seq fab ras saf bst sec pwr ckr irq hpt held probe probeHeld faultN alarmN} :
    Formed P { s with
      mem, regs, shadow, out, fresh, ns, mer, img, load, stk, clu, kvm, seq, fab, ras, saf, bst, sec, pwr, ckr, irq, hpt, held, probe,
      probeHeld, faultN, alarmN } := ⟨hm, h.2⟩

/-! Choices -/

theorem Formed.ite {c : Prop} [Decidable c] (hs : Formed P s) (ht : Formed P t) : Formed P (if c then s else t) := by
  split <;> assumption

/-- A change made under a condition. -/
theorem Formed.when {c : Prop} [Decidable c] (hs : Formed P s) (ht : Formed P s → Formed P t) : Formed P (if c then t else s) :=
  .ite (ht hs) hs

theorem Formed.iteFst {c : Prop} [Decidable c] {q r : State × α} (hq : Formed P q.1) (hr : Formed P r.1) :
    Formed P (if c then q else r).1 := by
  split <;> assumption

theorem Formed.iteSnd {c : Prop} [Decidable c] {q r : α × State} (hq : Formed P q.2) (hr : Formed P r.2) :
    Formed P (if c then q else r).2 := by
  split <;> assumption

theorem Formed.elim {o : Option α} {f : α → State} (hs : Formed P s) (hf : ∀ x, Formed P (f x)) : Formed P (o.elim s f) := by
  cases o with
  | none => exact hs
  | some x => exact hf x

theorem FormedIn.iteOpt {c : Prop} [Decidable c] {o p : Option State} (ho : FormedIn P o) (hp : FormedIn P p) :
    FormedIn P (if c then o else p) := by
  split <;> assumption

theorem FormedFst.iteOpt {c : Prop} [Decidable c] {o p : Option (State × α)} (ho : FormedFst P o) (hp : FormedFst P p) :
    FormedFst P (if c then o else p) := by
  split <;> assumption

theorem FormedPair.ite {c : Prop} [Decidable c] {q r : State × α} (hq : FormedPair P q) (hr : FormedPair P r) :
    FormedPair P (if c then q else r) := by
  split <;> assumption

theorem Ends.ite {c : Prop} [Decidable c] {o p : Out} (ho : Ends P o) (hp : Ends P p) : Ends P (if c then o else p) := by
  split <;> assumption

/-! Pairs and options -/

theorem Ends.next (h : Formed P t) : Ends P (.next t) := by rintro _ ⟨⟩; exact h

theorem FormedIn.none : FormedIn P none := by rintro _ ⟨⟩

theorem FormedIn.some (h : Formed P s) : FormedIn P (some s) := by rintro _ ⟨⟩; exact h

theorem FormedFst.none : FormedFst P (none : Option (State × α)) := by rintro _ ⟨⟩

theorem FormedFst.some {r : State × α} (h : Formed P r.1) : FormedFst P (some r) := by rintro _ ⟨⟩; exact h

theorem FormedPair.mk {x : α} (h : Formed P s) : FormedPair P (s, x) := h

theorem Formed.ofFst {r : State × α} {x : α} (h : Formed P r.1) (e : r = (t, x)) : Formed P t := by subst e; exact h

theorem Formed.ofSnd {r : α × State} {x : α} (h : Formed P r.2) (e : r = (x, t)) : Formed P t := by subst e; exact h

theorem FormedIn.map {o : Option α} {f : α → State} (h : ∀ x, Formed P (f x)) : FormedIn P (o.map f) := by
  cases o with
  | none => exact .none
  | some x => exact .some (h x)

theorem FormedIn.bind {o : Option State} {f : State → Option State} (h : FormedIn P o) (hf : ∀ s, Formed P s → FormedIn P (f s)) :
    FormedIn P (o.bind f) := by
  cases o with
  | none => exact .none
  | some s => exact hf s (h s rfl)

theorem FormedIn.mapFst {o : Option (State × β)} {f : State × β → State} (h : FormedFst P o)
    (hf : ∀ r, Formed P r.1 → Formed P (f r)) : FormedIn P (o.map f) := by
  cases o with
  | none => exact .none
  | some x => exact .some (hf x (h x rfl))

theorem FormedFst.map {o : Option α} {f : α → State × β} (h : ∀ x, Formed P (f x).1) : FormedFst P (o.map f) := by
  cases o with
  | none => exact .none
  | some x => exact .some (h x)

theorem FormedFst.mapFst {o : Option (State × β)} {f : State × β → State × γ} (h : FormedFst P o)
    (hf : ∀ r, Formed P r.1 → Formed P (f r).1) : FormedFst P (o.map f) := by
  cases o with
  | none => exact .none
  | some x => exact .some (hf x (h x rfl))

/-! One change after another -/

theorem Formed.foldl {f : State → α → State} {l : List α} (h : Formed P s) (hf : ∀ s x, Formed P s → Formed P (f s x)) :
    Formed P (l.foldl f s) :=
  foldl_keeps f hf l s h

theorem Formed.foldlFst {r : State × β} {f : State × β → α → State × β} {l : List α} (h : Formed P r.1)
    (hf : ∀ r x, Formed P r.1 → Formed P (f r x).1) : Formed P (l.foldl f r).1 :=
  List.foldlRecOn l f h fun r hr x _ => hf r x hr

theorem FormedPair.foldl {r : State × β} {f : State × β → α → State × β} {l : List α} (h : FormedPair P r)
    (hf : ∀ r x, FormedPair P r → FormedPair P (f r x)) : FormedPair P (l.foldl f r) :=
  List.foldlRecOn l f h fun r hr x _ => hf r x hr

end Sys2Proof.Machine
end

section
/-! SUPPORT. The memories keep their form, and the queue behind a command stays: memory accesses, records, interrupts and packets. -/

namespace Sys2Proof.Machine

variable {P : List Instr} {s : State}

/-! Answers, registers and records -/

theorem Formed.quiet (h : Formed P s) : Formed P (quiet s) := .keep h

theorem Formed.reply {who a} (h : Formed P s) : Formed P (reply s who a) := .keep h

theorem Formed.emit {a} (h : Formed P s) : Formed P (emit s a) := .keep h

theorem Formed.free {w} (h : Formed P s) : Formed P (free w s).2 := .keep h

theorem Formed.wr {f v i j} (h : Formed P s) : Formed P (wr s f v i j) := .keep h

theorem Formed.flag {f i j} (h : Formed P s) : Formed P (flag s f i j) := .wr h

theorem Formed.inc {f i j} (h : Formed P s) : Formed P (inc s f i j) := .keep h

theorem Formed.wr64 {lo hi v i j} (h : Formed P s) : Formed P (wr64 s lo hi v i j) := .keep h

theorem Formed.progress {lo hi pct pos done total} (h : Formed P s) : Formed P (progress s lo hi pct pos done total) := .wr (.wr64 h)

theorem Formed.setCl {c x} (h : Formed P s) : Formed P (setCl s c x) := .keep h

theorem Formed.modCl {c f} (h : Formed P s) : Formed P (modCl s c f) := .setCl h

theorem Formed.setStk {n x} (h : Formed P s) : Formed P (setStk s n x) := .keep h

theorem Formed.modStk {n f} (h : Formed P s) : Formed P (modStk s n f) := .setStk h

theorem Formed.setHport {p x} (h : Formed P s) : Formed P (setHport s p x) := .keep h

theorem Formed.setFport {p x} (h : Formed P s) : Formed P (setFport s p x) := .keep h

theorem Formed.setLoop {n x} (h : Formed P s) : Formed P (setLoop s n x) := .keep h

theorem Formed.modLoop {n f} (h : Formed P s) : Formed P (modLoop s n f) := .setLoop h

theorem Formed.storeTrace {r} (h : Formed P s) : Formed P (storeTrace s r) := .keep (.wr64 h)

theorem Formed.clusterTrace {c r} (h : Formed P s) : Formed P (clusterTrace s c r) := .ite (.inc h) (.keep h)

theorem Formed.flushTrace {c} (h : Formed P s) : Formed P (flushTrace s c) := .foldl (.keep h) fun _ _ => .storeTrace

theorem Formed.flushAll (h : Formed P s) : Formed P (flushAll s) := .foldl h fun _ _ => .flushTrace

theorem Formed.recordOffending {who off} (h : Formed P s) : Formed P (recordOffending s who off) :=
  .inc (.wr (.wr (.flag (.ite (.flag h) h))))

theorem Formed.recordXstat {f who off} (h : Formed P s) : Formed P (recordXstat s f who off) := .flag (.flag (.wr (.wr h)))

theorem Formed.secFail {tenant} (h : Formed P s) : Formed P (secFail s tenant) := .keep (.inc h)

/-! The memory itself -/

theorem Formed.recordUe {kind source addr} (h : Formed P s) : Formed P (recordUe s kind source addr) :=
  .ite (.flag (.wr64 (.flag h))) (.wr64 (.flag (.wr (.wr (.wr64 (.flag h))))))

theorem Formed.countPoison (h : Formed P s) : Formed P (countPoison s) := .wr64 h

theorem Formed.recordCe (h : Formed P s) : Formed P (recordCe s) := .wr64 (.flag h)

theorem Formed.rowCorrected {row} (h : Formed P s) : Formed P (rowCorrected s row) := .ite (.keep h) (.keep h)

theorem Formed.fetchLine {off n ecc} (h : Formed P s) : Formed P (fetchLine s off n ecc).1 := by
  refine .iteFst ?_ (.setMem h (settle_formOk _ _ h.1))
  split
  · exact .when (.setMem h (settle_formOk _ _ h.1)) .countPoison
  · exact .rowCorrected (.recordCe (.setMem h (settle_formOk _ _ h.1)))
  · exact .keep (.recordUe (.setMem h (settle_formOk _ _ h.1)))

theorem Formed.writeBack {l} (h : Formed P s) : Formed P (writeBack s l) := by
  unfold Machine.writeBack
  split
  · exact h
  · exact .ite (.setMem h (setAccepted_formOk _ _ _ (settle_formOk _ _ h.1))) (.setMem h (putLine_formOk _ _ _ _ (settle_formOk _ _ h.1)))

theorem Formed.allocate {die off d p dirty} (h : Formed P s) : Formed P (allocate s die off d p dirty) := by
  refine .setMem ?_ (putSet_formOk _ _ _ (Formed.form (P := P) ?_))
  · split <;> [exact .ite (.writeBack h) h; exact h]
  · split <;> [exact .ite (.writeBack h) h; exact h]

theorem Formed.flushLine {die off} (h : Formed P s) : Formed P (flushLine s die off) := by
  unfold Machine.flushLine
  split
  · exact h
  · exact .setMem (.ite (.writeBack h) h) (dropLine_formOk _ _ _ (Formed.form (P := P) (.ite (.writeBack h) h)))

theorem Formed.hitLine {die off l ecc} (h : Formed P s) : Formed P (hitLine s die off l ecc).1 := by
  unfold Machine.hitLine
  dsimp only
  split
  · exact .when (.setMem h (putSet_formOk _ _ _ h.1)) .countPoison
  · exact .recordCe (.setMem h (putSet_formOk _ _ _ h.1))
  · exact .recordUe (.setMem h (putSet_formOk _ _ _ h.1))

theorem Formed.obtainLine {off ecc} (h : Formed P s) : Formed P (obtainLine s off ecc).1 := by
  unfold Machine.obtainLine
  dsimp only
  split
  · exact .hitLine h
  · split <;> [exact h; exact .allocate (.fetchLine h)]

theorem Formed.noteWrite {who off} (h : Formed P s) : Formed P (noteWrite s who off) := .ite (by split; exacts [.keep h, h]) h

theorem Formed.writeLine1 {off d p} (h : Formed P s) : Formed P (writeLine1 s off d p) := .allocate h

theorem Formed.writeLine {who off d p} (h : Formed P s) : Formed P (writeLine s who off d p) := by
  unfold Machine.writeLine
  dsimp only
  split <;> [exact .writeLine1 (.noteWrite (.writeLine1 (.noteWrite h))); exact .writeLine1 (.noteWrite h)]

theorem Formed.meteorPut1 {off d p} (h : Formed P s) : Formed P (meteorPut1 s off d p) := by
  unfold Machine.meteorPut1
  dsimp only
  split
  · exact .allocate h
  · split <;> [exact h; exact .setMem h (setAccepted_formOk _ _ _ h.1)]

theorem Formed.meteorPut {who off d p} (h : Formed P s) : Formed P (meteorPut s who off d p) := by
  unfold Machine.meteorPut
  dsimp only
  split <;> [exact .meteorPut1 (.noteWrite (.meteorPut1 (.noteWrite h))); exact .meteorPut1 (.noteWrite h)]

theorem Formed.spadRead {c off n ecc} (h : Formed P s) : Formed P (spadRead s c off n ecc).1 := by
  unfold Machine.spadRead
  dsimp only
  split <;> [exact .ite (.countPoison h) h; exact .recordCe h; exact .recordUe h]

theorem Formed.contributeAt {slice addr c} (h : Formed P s) : Formed P (contributeAt s slice addr c).1 := by
  unfold Machine.contributeAt
  dsimp only
  split
  · exact .iteFst h (.iteFst h (.iteFst h (.iteFst (.keepMem h) (.keepMem h))))
  · exact .iteFst h (.iteFst h (.iteFst h (.iteFst h (.iteFst (.keepMem h) (.keepMem h)))))

theorem Formed.performHashed {who off kind ecc} (h : Formed P s) : Formed P (performHashed s who off kind ecc).1 := by
  unfold Machine.performHashed
  dsimp only
  split
  · exact .obtainLine h
  · split
    · exact .hitLine h
    · split <;> [exact h; exact .fetchLine h]
  · exact .iteFst h (.writeLine h)
  · exact .iteFst h (.writeLine (.obtainLine h))
  · exact .iteFst h (.meteorPut h)
  · exact .iteFst h (.ite (.obtainLine h) (.writeLine (.obtainLine h)))
  · split
    · exact .contributeAt h
    · exact .iteFst (.writeLine (.obtainLine (.contributeAt h))) (.writeLine (.contributeAt h))
  · exact .keepMem h

theorem Formed.performWindow {off c x kind ecc} (h : Formed P s) : Formed P (performWindow s off c x kind ecc).1 := by
  unfold Machine.performWindow
  dsimp only
  split
  · exact .spadRead h
  · exact .spadRead h
  · exact .iteFst h (.setMem h (spadWrite_formOk _ _ _ _ _ h.1))
  · exact .iteFst h (.setMem h (spadWrite_formOk _ _ _ _ _ h.1))
  · exact .iteFst h (.setMem h (spadWrite_formOk _ _ _ _ _ h.1))
  · exact .iteFst h (.ite (.spadRead h) (.setMem (.spadRead h) (spadWrite_formOk _ _ _ _ _ (Formed.form (P := P) (.spadRead h)))))
  · split
    · exact .contributeAt h
    · exact .iteFst
        (.setMem (.spadRead (.contributeAt h)) (spadWrite_formOk _ _ _ _ _ (Formed.form (P := P) (.spadRead (.contributeAt h)))))
        (.setMem (.contributeAt h) (spadWrite_formOk _ _ _ _ _ (Formed.form (P := P) (.contributeAt h))))
  · exact .keepMem h

theorem Formed.backInvalidateAsk {off} (h : Formed P s) : Formed P (backInvalidateAsk s off) := .ite h (.foldl h fun _ _ => .emit)

theorem Formed.localAccess {origin who space off kind ecc} (h : Formed P s) : Formed P (localAccess s origin who space off kind ecc).1 := by
  refine .iteFst (.iteFst h (.iteFst h (.iteFst h (.iteFst (.keepMem (.backInvalidateAsk h)) (.performHashed h))))) (.iteFst ?_ h)
  split <;> [exact h; exact .iteFst h (.iteFst h (.iteFst h (.performWindow h)))]

/-! Host ports -/

theorem Formed.hostSend1 {p r} (h : Formed P s) : Formed P (hostSend1 s p r) := by
  unfold Machine.hostSend1
  split <;> [exact .emit h; exact .when (.emit h) .setHport]

theorem Formed.hostDrainAux : ∀ {n s p}, Formed P s → Formed P (hostDrainAux n s p)
  | 0, _, _, h => h
  | n + 1, s, p, h => by
    refine .ite h ?_
    split <;> [exact h; exact .ite h (Formed.hostDrainAux (.hostSend1 (.setHport h)))]

theorem Formed.hostDrain {p} (h : Formed P s) : Formed P (hostDrain s p) := .hostDrainAux h

theorem Formed.hostPush {p r} (h : Formed P s) : Formed P (hostPush s p r) := .hostDrain (.setHport h)

theorem Formed.outEntry {p i} (h : Formed P s) : Formed P (outEntry s p i).1 := by
  unfold Machine.outEntry
  split <;> [exact h; exact .setHport (.obtainLine h)]

theorem Formed.outFail {p off a} (h : Formed P s) : Formed P (outFail s p off a).1 := .wr64 (.flag h)

theorem Formed.hostAccess {origin who off kind} (h : Formed P s) : Formed P (hostAccess s origin who off kind).1 := by
  unfold Machine.hostAccess
  split
  · exact h
  · exact h
  · exact h
  · exact .iteFst h
      (.iteFst (.outFail (.outEntry h)) (.iteFst (.outFail (.outEntry h)) (.iteFst (.hostPush (.outEntry h)) (.hostPush (.outEntry h)))))

/-! Interrupts -/

theorem Formed.setService {n c} (h : Formed P s) : Formed P (setService s n c) := .keep h

theorem Formed.setCfg {n c} (h : Formed P s) : Formed P (setCfg s n c) := .keep h

theorem Formed.sendMsix {p f v} (h : Formed P s) : Formed P (sendMsix s p f v) := .ite (.ite (.keep h) (.hostPush (.keep h))) h

theorem Formed.deliverTo {c} (h : Formed P s) : Formed P (deliverTo s c) := by
  unfold Machine.deliverTo
  split
  · exact h
  · split <;> [exact .emit h; exact h]
  · exact .sendMsix h

theorem Formed.irqUpdate (h : Formed P s) : Formed P (irqUpdate s) := .ite h (.foldl (.keep h) fun _ _ => .deliverTo)

theorem Formed.irqForget (h : Formed P s) : Formed P (irqForget s) := .keep h

theorem Formed.pulse {n} (h : Formed P s) : Formed P (pulse s n) := .keep h

theorem Formed.claim {c} (h : Formed P s) : Formed P (claim s c).1 :=
  .iteFst h (by split; exacts [.inc h, .irqForget (.keep (.setService h))])

theorem Formed.complete {c n} (h : Formed P s) : Formed P (complete s c n) := .ite (.irqUpdate (.keep (.setService h))) (.flag h)

theorem Formed.writeGdis {v} (h : Formed P s) : Formed P (writeGdis s v) := .ite (.irqUpdate (.wr (.keep h))) (.wr h)

theorem Formed.swset {who n} (h : Formed P s) : Formed P (swset s who n) := .ite h (.ite (.irqUpdate (.pulse h)) h)

theorem Formed.applyRoutes {routes keep} (h : Formed P s) : Formed P (applyRoutes s routes keep) := .irqUpdate (.keep h)

theorem Formed.irqPortReset {p f} (h : Formed P s) : Formed P (irqPortReset s p f) := .keep h

/-! Fabric packets and ports -/

theorem Formed.newKeys {p} (h : Formed P s) : Formed P (newKeys s p) := .setFport (.keep h)

theorem Formed.rekeyDue {p} (h : Formed P s) : Formed P (rekeyDue s p) := .ite (.newKeys h) h

theorem Formed.sendFlit {p vc payload} (h : Formed P s) : Formed P (sendFlit s p vc payload) := .emit (.rekeyDue (.setFport h))

theorem Formed.pumpAux : ∀ {l b s}, Formed P s → Formed P (pumpAux l b s)
  | [], _, _, h => h
  | _ :: _, _, _, h => .ite (Formed.pumpAux (.sendFlit h)) (Formed.pumpAux (.keep h))

theorem Formed.pump (h : Formed P s) : Formed P (pump s) := .pumpAux (.keep h)

theorem Formed.sendPacket {port p} (h : Formed P s) : Formed P (sendPacket s port p) := .pump (.keep h)

theorem Formed.fabRecord {code side dev} (h : Formed P s) : Formed P (fabRecord s code side dev) :=
  .ite (.flag (.flag h)) (.wr (.flag (.wr (.wr (.flag h)))))

theorem Formed.fabRequest {origin who opc dev space off arg body poison} (h : Formed P s) :
    Formed P (fabRequest s origin who opc dev space off arg body poison).1 :=
  .iteFst h (by split; exacts [.fabRecord h, .ite (.keep h) (.sendPacket (.keep h))])

theorem Formed.releaseRequests (h : Formed P s) : Formed P (releaseRequests s) :=
  .foldl (.keep h) fun _ _ h1 => by split; exacts [.sendPacket h1, h1]

theorem Formed.remoteAccess {origin who a kind} (h : Formed P s) : Formed P (remoteAccess s origin who a kind).1 := by
  refine .iteFst h ?_
  split
  · exact .fabRequest h
  · exact .fabRequest h
  · exact .fabRequest h
  · exact .fabRequest h
  · exact .fabRequest h
  · exact .fabRequest h
  · exact .fabRequest h
  · exact h

/-! Accesses to lines and windows -/

theorem Formed.faultOf {x} (h : Formed P s) : Formed P (faultOf s x).2 := by
  unfold Machine.faultOf
  split
  case h_7 => exact .iteSnd h (.iteSnd (.free (w := 8) h) (.iteSnd h h))
  all_goals exact h

theorem Formed.clusterAnswer {c load pc slot a} (h : Formed P s) : Formed P (clusterAnswer s c load pc slot a) := by
  unfold Machine.clusterAnswer
  split
  · split <;> [exact .modCl h; exact h]
  · split
    · next e => exact .ofSnd (.faultOf h) e
    · next e =>
      have h1 := Formed.ofSnd (.faultOf h) e
      dsimp only
      split <;> [exact .modCl h1; exact .ite (.modCl (.free (.modCl h1))) (.modCl (.modCl h1))]

theorem Formed.hubAnswer {who a} (h : Formed P s) : Formed P (hubAnswer s who a) :=
  .when (.reply h) fun h1 => by split; exacts [h1, h1, h1, .reply (.recordUe h), h1]

theorem Formed.sendResponse {p q} (h : Formed P s) : Formed P (sendResponse s p q) := by
  unfold Machine.sendResponse
  dsimp only
  split <;> [exact .sendPacket (.ite (.keep h) h); exact .ite (.keep h) h]

theorem Formed.serveAnswer {p a} (h : Formed P s) : Formed P (serveAnswer s p a) := by
  unfold Machine.serveAnswer
  split
  · exact .sendResponse h
  · exact .sendResponse h
  · exact .sendResponse h
  · exact h
  · exact h
  · exact .sendResponse (.fabRecord h)

theorem Formed.dmaFault {c id a} (h : Formed P s) : Formed P (dmaFault s c id a) := by
  unfold Machine.dmaFault
  split
  · next e => exact .ofSnd (.faultOf h) e
  · next e => exact .modCl (.ofSnd (.faultOf h) e)

theorem Formed.trackLine {p line keep} (h : Formed P s) : Formed P (trackLine s p line keep) := .keepMem h

theorem Formed.answerTo {o a} (h : Formed P s) : Formed P (answerTo s o a) := by
  unfold Machine.answerTo
  split
  · exact .clusterAnswer h
  · exact .hubAnswer h
  · exact .serveAnswer h
  · exact .dmaFault h
  · exact .hubAnswer (by split; exacts [.trackLine h, .trackLine h, h])
  · exact h
  · exact h
  · exact h

theorem Formed.bump {who a n} (h : Formed P s) : Formed P (bump s who a n) := .ite (.localAccess h) (.remoteAccess h)

theorem Formed.bumpPoison {who a n} (h : Formed P s) : Formed P (bumpPoison s who a n) :=
  .when (.bump h) fun h1 => .writeLine (.obtainLine h1)

theorem Formed.access {o who a kind ecc} (h : Formed P s) : Formed P (access s o who a kind ecc).1 := by
  refine .iteFst (.remoteAccess h) (.iteFst (.hostAccess h) ?_)
  dsimp only
  split
  · exact .keepMem (.localAccess h)
  · split <;> [exact .bump (.localAccess h); exact .localAccess h]

theorem Formed.deliver {o a} (h : Formed P s) : Formed P (deliver s o a) := by
  unfold Machine.deliver
  split
  · split <;> [exact h; exact .answerTo (.access h)]
  · exact .answerTo h

theorem Formed.accessFor {o who a kind ecc} (h : Formed P s) : Formed P (accessFor s o who a kind ecc) := .deliver (.access h)

theorem Formed.releaseAux : ∀ {n s}, Formed P s → Formed P (releaseAux n s)
  | 0, _, h => h
  | n + 1, s, h => by
    unfold Machine.releaseAux
    split
    · exact h
    · dsimp only
      refine Formed.releaseAux ?_
      split <;> [exact .bump (.deliver (.performHashed (.keepMem h))); exact .deliver (.performHashed (.keepMem h))]

theorem Formed.releaseWaiting (h : Formed P s) : Formed P (releaseWaiting s) := .releaseAux h

theorem Formed.engineRead {who a} (h : Formed P s) : Formed P (engineRead s who a).1 := by
  change FormedPair P (Machine.engineRead s who a)
  unfold Machine.engineRead
  refine .ite (.mk h) (.ite (.ite (.mk h) ?_) (.ite ?_ (.mk h)))
  · split <;> [exact .ite (.mk h) (.mk (.obtainLine h)); exact .mk (.obtainLine h)]
  · split <;> [exact .mk h; exact .ite (.mk h) (.mk h)]

theorem Formed.engineBytes {who a n} (h : Formed P s) : Formed P (engineBytes s who a n).1 :=
  .foldlFst h fun _ _ h1 => by split; exacts [h1, .engineRead h1]

theorem Formed.engineStore {who a bs p} (h : Formed P s) : Formed P (engineStore s who a bs p) := .ite h (.access h)

theorem Formed.engineWriteAux {who p} : ∀ {n s a bs}, Formed P s → Formed P (engineWriteAux who p n s a bs)
  | 0, _, _, _, h => h
  | _ + 1, _, _, _, h => .ite h (Formed.engineWriteAux (.engineStore h))

theorem Formed.engineWrite {who a bs p} (h : Formed P s) : Formed P (engineWrite s who a bs p) := .engineWriteAux h

end Sys2Proof.Machine
end

section
/-! SUPPORT. The memories keep their form, and the queue behind a command stays: the array, launches and the lit stacks. -/

namespace Sys2Proof.Machine

variable {P : List Instr} {s : State}

/-! Operand feeds -/

theorem Formed.readOperand {c line ecc} (h : Formed P s) : Formed P (readOperand s c line ecc).1 :=
  .iteFst h (.iteFst h (by dsimp only; split <;> exact .localAccess h))

theorem Formed.enterLine {c f line hi d p} (h : Formed P s) : Formed P (enterLine s c f line hi d p) := .modCl h

theorem Formed.halfArrives {c f line hi ecc} (h : Formed P s) : Formed P (halfArrives s c f line hi ecc) := by
  unfold Machine.halfArrives
  dsimp only
  split
  · exact .ite h (.modCl (.modCl h))
  · refine .ite h ?_
    split
    · exact h
    · exact .modCl (.enterLine (.readOperand h))
    · exact .modCl (.enterLine (.free (.modCl (.readOperand h))))

theorem Ends.execOperandHalfArrive {c stream line hi ecc} (h : Formed P s) : Ends P (execOperandHalfArrive c stream line hi ecc s) :=
  .next (.halfArrives (.quiet h))

/-! The array -/

theorem Formed.bump64 {lo hi c n} (h : Formed P s) : Formed P (bump64 s lo hi c n) := .wr64 h

theorem Formed.addDummy {c n} (h : Formed P s) : Formed P (addDummy s c n) := .bump64 (.modCl h)

theorem Formed.gapTime {c n} (h : Formed P s) : Formed P (gapTime s c n) := .addDummy (.modCl h)

theorem Formed.enterStep {c thin r} (h : Formed P s) : Formed P (enterStep s c thin r) := .bump64 (.modCl h)

theorem Formed.dropTile {c t sub} (h : Formed P s) : Formed P (dropTile s c t sub) := .modCl h

theorem Formed.streamSlot {c thin r} (h : Formed P s) : Formed P (streamSlot s c thin r) := by
  refine .ite ?_ (.ite (.bump64 (.gapTime (.modCl h))) (.ite (.modCl h) (.bump64 (.gapTime (.modCl h)))))
  split <;> [exact .dropTile (.modCl h); exact .ite (.enterStep h) h]

theorem Formed.idleSlot {c} (h : Formed P s) : Formed P (idleSlot s c) := .when (.gapTime h) .bump64

theorem Formed.arrayStep {c thin} (h : Formed P s) : Formed P (arrayStep s c thin) := by
  unfold Machine.arrayStep
  split <;> [exact .streamSlot h; exact .ite h (.idleSlot h)]

theorem Ends.execArrayStep {c thin} (h : Formed P s) : Ends P (execArrayStep c thin s) := .next (.arrayStep (.quiet h))

theorem Formed.admitTile {c thin} (h : Formed P s) : Formed P (admitTile s c thin) := by
  unfold Machine.admitTile
  dsimp only
  split
  · exact h
  · split <;> [exact .dropTile (.setCl h); exact .setCl h]

theorem Ends.execTileAdmit {c thin} (h : Formed P s) : Ends P (execTileAdmit c thin s) := .next (.when (.quiet h) .admitTile)

theorem Formed.preloadSub {c r i} (h : Formed P s) : Formed P (preloadSub s c r i).1 := by
  refine .foldlFst h fun _ _ h1 => ?_
  dsimp only
  split <;> [exact h1; exact .free (w := 256) h1]

theorem Formed.preloadAll {c r} (h : Formed P s) : Formed P (preloadAll s c r).1 := .when (.foldlFst h fun _ _ => .preloadSub) .modCl

theorem Ends.execPreloadEnd {c thin} (h : Formed P s) : Ends P (execPreloadEnd c thin s) :=
  .next (by split; exacts [.quiet h, .when (.quiet h) fun h1 => .modCl (.preloadAll h1)])

theorem Ends.execTileLastProduct {c thin bank} (h : Formed P s) : Ends P (execTileLastProduct c thin bank s) :=
  .next (by split; exacts [.quiet h, .modCl (.quiet h)])

/-- A drain under way: the state, and the memory that its outputs go to. -/
def DrainFormed (P : List Instr) (z : State × DrainAcc) : Prop := Formed P z.1 ∧ z.2.mem.formOk = true

theorem Formed.drainChunk {pre c r sub row ch0 n all} {z : State × DrainAcc} (h : DrainFormed P z) :
    DrainFormed P (drainChunk pre c r sub row ch0 n all z) :=
  ⟨.foldlFst h.1 fun _ _ h1 => .keep h1, clipWrite_formOk h.2⟩

theorem Formed.drainSub {c r sub all} (h : Formed P s) : Formed P (drainSub s c r sub all).1 := by
  unfold Machine.drainSub
  extract_lets +onlyGivenNames t rows chans z feed mem
  have hz : DrainFormed P z := by
    refine List.foldlRecOn _ _ ⟨h, h.1⟩ fun _ hz _ _ => ?_
    exact List.foldlRecOn _ _ hz fun _ hz _ _ => Formed.drainChunk hz
  have h1 : Formed P { z.1 with mem := mem } := hz.1.setMem (markAll_formOk hz.2)
  exact .ite (.modCl h1) h1

theorem Formed.drainTile {c r} (h : Formed P s) : Formed P (drainTile s c r).1 := .foldlFst h fun _ _ => .drainSub

theorem Ends.execDrainStart {c} (h : Formed P s) : Ends P (execDrainStart c s) :=
  .next (.ite (.quiet h) (by split; exacts [.quiet h, .modCl (.drainTile (.quiet h))]))

theorem Ends.execDrainReadEnd {c} (h : Formed P s) : Ends P (execDrainReadEnd c s) := .next (.modCl (.quiet h))

theorem Formed.recordArr {c kind bank sub thin tag} (h : Formed P s) : Formed P (recordArr s c kind bank sub thin tag) :=
  .ite (.flag h) (.wr (.wr (.flag (.wr (.wr (.wr h))))))

theorem Formed.rereadLines {c src} (h : Formed P s) : Formed P (rereadLines s c src) := .foldl h fun _ _ => .engineRead

theorem Formed.recompute {c r sub} (h : Formed P s) : Formed P (recompute s c r sub).1 :=
  .bump64 (.free (.iteFst (.preloadSub (.rereadLines h)) (.rereadLines h)))

theorem Formed.tileFailed {c r sub exact} (h : Formed P s) : Formed P (tileFailed s c r sub exact) :=
  .keep (.when (.recordUe (.recordArr (.flag h))) .flag)

theorem Formed.checkSub {c r sub fails} (h : Formed P s) : Formed P (checkSub s c r sub fails).1 :=
  .iteFst h (.iteFst (.inc (.flag (.drainSub (.recompute h)))) (.tileFailed (.drainSub (.recompute h))))

theorem Ends.execStatusWordDeliver {c fails} (h : Formed P s) : Ends P (execStatusWordDeliver c fails s) :=
  .next (by split; exacts [.quiet h, .modCl (.checkSub (.quiet h))])

theorem Formed.halfLost {c f line} (h : Formed P s) : Formed P (halfLost s c f line) := by
  unfold Machine.halfLost
  dsimp only
  split
  · exact h
  · split
    · exact .recordArr (.flag (.modCl (.modCl h)))
    · exact .recordArr (.free (.flag (.modCl (.modCl h))))

theorem Ends.execHalfLineTimeout {c stream line} (h : Formed P s) : Ends P (execHalfLineTimeout c stream line s) :=
  .next (.halfLost (.quiet h))

theorem Formed.levelStep {c} (h : Formed P s) : Formed P (levelStep s c) :=
  .ite (.ite (.wr (.ite (.addDummy h) h)) h) (.ite (.wr (.addDummy (.gapTime h))) h)

theorem Ends.execActivityLevelStep {c} (h : Formed P s) : Ends P (execActivityLevelStep c s) := .next (.levelStep (.quiet h))

theorem Ends.execFreezeModeApply {c} (h : Formed P s) : Ends P (execFreezeModeApply c s) := .next (.ite (.quiet h) (.wr (.quiet h)))

theorem Formed.preempt {c} (h : Formed P s) : Formed P (preempt s c) := .modCl (.flag h)

theorem Ends.execPreemptRequest {c} (h : Formed P s) : Ends P (execPreemptRequest c s) := .next (.preempt (.quiet h))

theorem Ends.execTileBoundary {c} (h : Formed P s) : Ends P (execTileBoundary c s) := .next (.when (.quiet h) .modCl)

/-! Launches -/

theorem Formed.fetchLaunch {who a remote} (h : Formed P s) : Formed P (fetchLaunch s who a remote).1 :=
  .iteFst h (.iteFst (.engineRead h) h)

theorem Formed.setRefused {x} (h : Formed P s) : Formed P (setRefused s x) := by
  unfold Machine.setRefused
  split <;> exact .flag h

theorem Formed.enterLaunch {t l} (h : Formed P s) : Formed P (enterLaunch s t l) := by
  unfold Machine.enterLaunch
  dsimp only
  split <;> [exact .modCl h; exact .foldl (.keep h) fun _ _ => .modCl]

theorem Formed.checkLaunch {who t a remote} (h : Formed P s) : Formed P (checkLaunch s who t a remote).1 := .iteFst h (.fetchLaunch h)

theorem Formed.offerLaunch {who t a remote via step} (h : Formed P s) : Formed P (offerLaunch s who t a remote via step).1 := by
  unfold Machine.offerLaunch
  dsimp only
  split
  · exact .setRefused (.checkLaunch h)
  · exact .iteFst (.checkLaunch h) (.enterLaunch (.checkLaunch h))

theorem Formed.launchWrite {who t a remote} (h : Formed P s) : Formed P (launchWrite s who t a remote) := .when (.offerLaunch h) .setRefused

theorem Formed.launchFrom {c target a h' pc remote} (h : Formed P s) : Formed P (launchFrom s c target a h' pc remote).1 := by
  unfold Machine.launchFrom
  split
  · exact .modCl h
  · dsimp only
    split <;> [exact .offerLaunch h; exact .offerLaunch h; exact .modCl (.offerLaunch h)]

theorem Formed.icinv {c} (h : Formed P s) : Formed P (icinv s c) := .modCl h

theorem Formed.launchTrace {c type code l} (h : Formed P s) : Formed P (launchTrace s c type code l) := .clusterTrace h

theorem Ends.execLaunchStart {c} (h : Formed P s) : Ends P (execLaunchStart c s) :=
  .next (by split; exacts [.quiet h, .when (.quiet h) fun h1 => .launchTrace (.modCl h1)])

theorem Formed.stepLaunchEnded {id failed} (h : Formed P s) : Formed P (stepLaunchEnded s id failed) := .keep h

theorem Formed.leafEnded {c id failed} (h : Formed P s) : Formed P (leafEnded s c id failed) := by
  unfold Machine.leafEnded
  split
  · exact h
  · refine .ite (.keep h) ?_
    dsimp only
    split <;> [exact .bump (.stepLaunchEnded (.keep h)); exact .stepLaunchEnded (.keep h)]

theorem Formed.endLaunch {c e} (h : Formed P s) : Formed P (endLaunch s c e) := by
  unfold Machine.endLaunch
  split
  · exact .leafEnded h
  · split <;> [exact .bump h; exact h]

theorem Ends.execLaunchEnd {c} (h : Formed P s) : Ends P (execLaunchEnd c s) :=
  .next (by split; exacts [.quiet h, .endLaunch (.modCl (.quiet h))])

theorem Ends.execLaunchQueueEnter {c remote} (h : Formed P s) : Ends P (execLaunchQueueEnter c remote s) :=
  .next (by split; exacts [.quiet h, .when (.launchFrom (.quiet h)) .modCl])

/-! Lit stacks: queues and units -/

theorem Formed.recordCmdErr {n status chan pc pair opcode tag} (h : Formed P s) :
    Formed P (recordCmdErr s n status chan pc pair opcode tag) :=
  .ite (.flag (.flag h)) (.wr (.flag (.wr (.wr (.wr (.wr (.wr (.flag h))))))))

theorem Formed.settleIssuer {n c} (h : Formed P s) : Formed P (settleIssuer s n c) := by
  unfold Machine.settleIssuer
  split <;> [exact .modCl h; exact h]

theorem Formed.finishCmd {n c r} (h : Formed P s) : Formed P (finishCmd s n c r) := by
  refine .when ?_ .accessFor
  split
  · exact .keep (.settleIssuer (.when (.modStk h) .recordCmdErr))
  · exact .settleIssuer (.when (.modStk h) .recordCmdErr)

theorem Formed.writeRow {n chan pc bank row bs} (h : Formed P s) : Formed P (writeRow s n chan pc bank row bs) := by
  have hm := writeRow_formOk s n chan pc bank row bs h.1
  unfold Machine.writeRow at hm ⊢
  exact h.setMem hm

theorem Formed.cmdWriteRow {n c x bs} (h : Formed P s) : Formed P (cmdWriteRow s n c x bs) := .writeRow h

theorem Formed.activate {n d k} (h : Formed P s) : Formed P (activate s n d k).1 := .wr64 (.wr64 (.modStk h))

theorem Formed.openRows {n c ts} (h : Formed P s) : Formed P (openRows s n c ts).1 := .activate (.modStk h)

theorem Formed.runHead {u mine touched body} (h : Formed P s) (hb : ∀ {s n c}, Formed P s → Formed P (body s n c)) :
    Formed P (runHead s u mine touched body) := by
  unfold Machine.runHead
  dsimp only
  split <;> [exact h; exact .ite h (.ite (.finishCmd h) (.ite h (hb h)))]

theorem Formed.takeRecords {r b} (h : Formed P s) : Formed P (takeRecords s r b).1 := by
  refine .foldlFst h fun _ _ h1 => ?_
  dsimp only
  split <;> [exact h1; exact .iteFst h1 (.free (w := 32 * r.dim) h1)]

theorem Formed.writeRecords {r b} (h : Formed P s) : Formed P (writeRecords s r b) := .foldl h fun _ _ => .accessFor

theorem Formed.failRed {n rid r status} (h : Formed P s) : Formed P (failRed s n rid r status) := .finishCmd (.modStk h)

theorem Formed.offerBlock {n b fault} (h : Formed P s) : Formed P (offerBlock s n b fault).1 := by
  unfold Machine.offerBlock
  split
  · exact h
  · refine .iteFst h (.iteFst (.failRed h) (.iteFst (.failRed h) (.iteFst h (.iteFst ?_ (.modStk (.when (.takeRecords h) .recordUe))))))
    split
    · exact .when (.takeRecords h) .recordUe
    · exact .finishCmd (.writeRecords (.modStk (.when (.takeRecords h) .recordUe)))

theorem Formed.setHeld {n u h'} (h : Formed P s) : Formed P (setHeld s n u h') := .modStk h

theorem Formed.flushEntry {n u h' fault} (h : Formed P s) : Formed P (flushEntry s n u h' fault) := by
  unfold Machine.flushEntry
  dsimp only
  split <;> exact .setHeld (.offerBlock h)

theorem Formed.flushWhere {n u p} (h : Formed P s) : Formed P (flushWhere s n u p) := .foldl h fun _ _ => .flushEntry

/-! Lit stacks: commands -/

theorem Formed.forward {n ch} (h : Formed P s) : Formed P (forward s n ch) := by
  unfold Machine.forward
  dsimp only
  split
  · exact h
  · split <;> [exact h; exact .ite h (.when (.setStk h) fun h1 => .finishCmd h1)]

theorem Ends.execStkCmdForward {stack channel} (h : Formed P s) : Ends P (execStkCmdForward stack channel s) := .next (.forward (.quiet h))

theorem Ends.execStkNop {u} (h : Formed P s) : Ends P (execStkNop u s) := .next (.runHead (.quiet h) .finishCmd)

theorem Formed.badRow {n c x} (h : Formed P s) : Formed P (badRow s n c x) := .keep (.recordUe h)

theorem Formed.setRowBuffer {n u bs} (h : Formed P s) : Formed P (setRowBuffer s n u bs) := .modStk h

theorem Formed.rowWrite {n c badA badB data} (h : Formed P s) : Formed P (rowWrite s n c badA badB data) :=
  .finishCmd (.ite (.foldl (.openRows h) fun _ _ => .badRow) (.setRowBuffer (.cmdWriteRow (.foldl (.openRows h) fun _ _ => .badRow))))

theorem Ends.execRowInit {u} (h : Formed P s) : Ends P (execRowInit u s) := .next (.runHead (.quiet h) .rowWrite)

theorem Ends.execRowCopy {u a} (h : Formed P s) : Ends P (execRowCopy u a s) := .next (.runHead (.quiet h) .rowWrite)

theorem Ends.execRowAnd {u a b} (h : Formed P s) : Ends P (execRowAnd u a b s) := .next (.runHead (.quiet h) .rowWrite)

theorem Ends.execRowOr {u a b} (h : Formed P s) : Ends P (execRowOr u a b s) := .next (.runHead (.quiet h) .rowWrite)

theorem Ends.execRowXor {u a b} (h : Formed P s) : Ends P (execRowXor u a b s) := .next (.runHead (.quiet h) .rowWrite)

theorem Ends.execRowNot {u bad} (h : Formed P s) : Ends P (execRowNot u bad s) := .next (.runHead (.quiet h) .rowWrite)

theorem Ends.execRowWrite {u} (h : Formed P s) : Ends P (execRowWrite u s) := .next (.runHead (.quiet h) .rowWrite)

theorem Formed.rowRead {n c bad} (h : Formed P s) : Formed P (rowRead s n c bad) :=
  .finishCmd (.foldl (.setRowBuffer (.when (.openRows h) .badRow)) fun _ _ => .accessFor)

theorem Ends.execRowRead {u bad} (h : Formed P s) : Ends P (execRowRead u bad s) := .next (.runHead (.quiet h) .rowRead)

theorem Formed.kvAppend {n c bad} (h : Formed P s) : Formed P (kvAppend s n c bad) := by
  unfold Machine.kvAppend
  split
  · exact h
  · exact .finishCmd (.ite (.foldl (.openRows h) fun _ _ => .badRow)
      (.foldl (.foldl (.openRows h) fun _ _ => .badRow) fun _ _ => .cmdWriteRow))

theorem Ends.execKvAppend {u bad} (h : Formed P s) : Ends P (execKvAppend u bad s) := .next (.runHead (.quiet h) .kvAppend)

theorem Formed.qload {n c} (h : Formed P s) : Formed P (qload s n c) := by
  unfold Machine.qload
  split <;> [exact h; exact .ite (.finishCmd h) (.finishCmd (.modStk (.flushWhere h)))]

theorem Ends.execQload {u} (h : Formed P s) : Ends P (execQload u s) := .next (.runHead (.quiet h) .qload)

theorem Formed.holdBlock {n u b} (h : Formed P s) : Formed P (holdBlock s n u b).1 := by
  refine .iteFst ?_ (.setHeld ?_)
  · split <;> [exact .flushEntry h; exact h]
  · split <;> [exact .flushEntry h; exact h]

theorem Formed.unitFault {n u} (h : Formed P s) : Formed P (unitFault s n u) := .keep (.recordUe h)

theorem Formed.attend {n c bad fault} (h : Formed P s) : Formed P (attend s n c bad fault) := by
  unfold Machine.attend
  split
  · exact h
  · exact .ite (.finishCmd h)
      (.finishCmd (.when (.holdBlock (.modStk (.when (.when (.foldl (.openRows (.flushWhere h)) fun _ _ => .badRow) .unitFault) .flag)))
        .setHeld))

theorem Ends.execAttend {u bad fault} (h : Formed P s) : Ends P (execAttend u bad fault s) := .next (.runHead (.quiet h) .attend)

theorem Ends.execHeldFlushRetry {u} (h : Formed P s) : Ends P (execHeldFlushRetry u s) := .next (.flushWhere (.quiet h))

theorem Formed.rsetup {n c} (h : Formed P s) : Formed P (rsetup s n c) := .ite (.finishCmd h) (.modStk h)

theorem Ends.execRsetup {u} (h : Formed P s) : Ends P (execRsetup u s) := .next (.runHead (.quiet h) .rsetup)

theorem Formed.rcancel {n c} (h : Formed P s) : Formed P (rcancel s n c) :=
  .finishCmd (by split; exacts [h, .ite (.modStk h) (.settleIssuer (.modStk (.modStk h)))])

theorem Ends.execRcancel {u} (h : Formed P s) : Ends P (execRcancel u s) := .next (.runHead (.quiet h) .rcancel)

theorem Ends.execReducerBlockAccept {u fault} (h : Formed P s) : Ends P (execReducerBlockAccept u fault s) := by
  unfold Machine.execReducerBlockAccept
  dsimp only
  split <;> [exact .next (.quiet h); exact .next (.flushEntry (.quiet h))]

theorem Formed.noRid {n u} (h : Formed P s) : Formed P (noRid s n u) := by
  unfold Machine.noRid
  dsimp only
  split <;> [exact h; exact .recordCmdErr (.setHeld h)]

theorem Ends.execNoRidDiscard {u} (h : Formed P s) : Ends P (execNoRidDiscard u s) := .next (.noRid (.quiet h))

theorem Ends.execBankRefresh {stack bank} (h : Formed P s) : Ends P (execBankRefresh stack bank s) := .next (.modStk (.quiet h))

theorem Formed.readDie {n d r} (h : Formed P s) : Formed P (readDie s n d r) :=
  .ite (.when (.setStk (.keep (.wr (.ite (.flag h) h)))) .flag) (.when (.keep (.wr (.ite (.flag h) h))) .setStk)

theorem Formed.holdStep {n} (h : Formed P s) : Formed P (holdStep s n) := .ite (.flag (.flag h)) (.ite (.releaseWaiting (.flag (.wr h))) h)

theorem Formed.refreshStep {n} (h : Formed P s) : Formed P (refreshStep s n) := .ite h (.setStk h)

theorem Ends.execDieTempRead {stack temps} (h : Formed P s) : Ends P (execDieTempRead stack temps s) :=
  .next (.refreshStep (.holdStep (.foldl (.quiet h) fun _ _ => .readDie)))

theorem Ends.execThrottleGroupStart {stack} (h : Formed P s) : Ends P (execThrottleGroupStart stack s) := .next (.wr (.quiet h))

theorem Formed.setPmask {n m} (h : Formed P s) : Formed P (setPmask s n m) := .keep h

theorem Formed.enterMode {n d} (h : Formed P s) : Formed P (enterMode s n d) := .ite h (.when (.setStk (.setPmask h)) .flag)

theorem Ends.execProcessorModeEntry {stack die} (h : Formed P s) : Ends P (execProcessorModeEntry stack die s) :=
  .next (.enterMode (.quiet h))

theorem Formed.exitMode {n d} (h : Formed P s) : Formed P (exitMode s n d) := .ite h (.setStk (.setPmask h))

theorem Ends.execProcessorModeExit {stack die} (h : Formed P s) : Ends P (execProcessorModeExit stack die s) := .next (.exitMode (.quiet h))

theorem Formed.mapCleared {n d} (h : Formed P s) : Formed P (mapCleared s n d) :=
  .ite h (.setStk (.setMem h (clearDieMap_formOk _ _ _ h.1)))

theorem Ends.execDieMapClearDone {stack die} (h : Formed P s) : Ends P (execDieMapClearDone stack die s) := .next (.mapCleared (.quiet h))

end Sys2Proof.Machine
end

section
/-! SUPPORT. The memories keep their form, and the queue behind a command stays: the KV manager, memory commands and the fabric. -/

namespace Sys2Proof.Machine

variable {P : List Instr} {s : State}

/-! KV tables -/

theorem Formed.writeDesc {n d} (h : Formed P s) : Formed P (writeDesc s n d) := .engineWrite (.engineWrite h)

theorem Formed.setEntry {d p e} (h : Formed P s) : Formed P (setEntry s d p e) := by
  unfold Machine.setEntry
  split <;> [exact h; exact .keep (.engineWrite h)]

theorem Formed.cachePage {n d p} (h : Formed P s) : Formed P (cachePage s n d p) := by
  unfold Machine.cachePage
  extract_lets +onlyGivenNames put
  clear_value put
  generalize put (dirIndex d p) = q, (leafOffset s d p).1 = o, (leafEntry s d p).1 = e
  cases q <;> cases o
  · exact h
  · refine .ite ?_ h
    split <;> [exact .keep h; exact h]
  · exact .keep h
  · refine .ite ?_ (.keep h)
    split <;> exact .keep h

theorem Formed.setPair {u p} (h : Formed P s) : Formed P (setPair s u p) := .keep h

theorem Formed.takeFrame {t u code f} (h : Formed P s) : Formed P (takeFrame s t u code f) := .keepMem (.setPair h)

theorem Formed.dropFrame {t u base} (h : Formed P s) : Formed P (dropFrame s t u base) := by
  unfold Machine.dropFrame
  split <;> [exact h; exact .ite h (.ite (.setPair h) (.keepMem (.setPair h)))]

theorem FormedFst.placePage {d p n} (h : Formed P s) : FormedFst P (placePage s d p n) :=
  .map fun _ => by dsimp only; split <;> [exact .keep (.takeFrame h); exact .takeFrame h]

theorem Formed.setFrameRow {u base r bs} (h : Formed P s) : Formed P (setFrameRow s u base r bs) := .writeRow h

theorem Formed.setPoolRow {off r bs p} (h : Formed P s) : Formed P (setPoolRow s off r bs p) := .engineWrite h

theorem FormedFst.placePool {d} (h : Formed P s) : FormedFst P (placePool s d) := .map fun _ => .keep h

theorem Formed.dropPool {d off} (h : Formed P s) : Formed P (dropPool s d off) := .ite (.keep h) (.keep (.foldl h fun _ _ => .setPoolRow))

theorem Formed.dropSwap {t off} (h : Formed P s) : Formed P (dropSwap s t off) := .keep h

theorem Formed.dropPage {d e} (h : Formed P s) : Formed P (dropPage s d e) := by
  unfold Machine.dropPage
  split <;> [exact .dropFrame h; exact .dropFrame h; exact .dropSwap h; exact .dropPool h; exact h]

theorem Formed.dropPages {d n} (h : Formed P s) : Formed P (dropPages s d n) := .foldl h fun _ _ h1 => .ite h1 (.setEntry (.dropPage h1))

theorem Formed.evict {d p e} (h : Formed P s) : Formed P (evict s d p e) := .wr64 (.dropFrame (.setEntry h))

theorem Formed.queueSwap {n d stack} (h : Formed P s) : Formed P (queueSwap s n d stack) := .modLoop (.keep (.inc (.flag h)))

theorem Formed.park {n d} (h : Formed P s) : Formed P (park s n d) := .writeDesc (.keep (.inc (.flag h)))

theorem Formed.reserve {loop step n p k} (h : Formed P s) : Formed P (reserve s loop step n p k) := .keep h

theorem Formed.need {loop step n d p mayPreempt} (h : Formed P s) : Formed P (need s loop step n d p mayPreempt).1 := by
  refine .iteFst (.reserve h) ?_
  dsimp only
  split
  · exact .reserve (.evict h)
  · split <;> [exact .reserve (.queueSwap h); exact h]

theorem Formed.needAll {loop step n d} : ∀ {l s}, Formed P s → Formed P (needAll loop step n d l s).1
  | [], _, h => h
  | _ :: _, _, h => by
    unfold Machine.needAll
    refine .iteFst (Formed.needAll h) ?_
    dsimp only
    refine .iteFst (Formed.needAll (.need h)) ?_
    dsimp only
    exact .park (.need h)

theorem FormedFst.placeNew {n d p} (h : Formed P s) : FormedFst P (placeNew s n d p) :=
  .iteOpt (.mapFst (.placePool (.keep h)) fun _ h1 => h1) (.mapFst (.placePage (.keep h)) fun _ h1 => h1)

theorem Formed.copyRows {code src dst} (h : Formed P s) : Formed P (copyRows s code src dst) :=
  .foldl h fun _ _ h1 => .ite (.setPoolRow h1) (.setFrameRow h1)

theorem FormedIn.preparePage {n d p} (h : Formed P s) : FormedIn P (preparePage s n d p) :=
  .mapFst (.placeNew h) fun _ h1 => .ite (.inc (.dropPage (.setEntry (.copyRows h1)))) (.setEntry h1)

theorem FormedIn.prepareAll {n d} : ∀ {l s}, Formed P s → FormedIn P (prepareAll n d l s)
  | [], _, h => .some h
  | _ :: _, _, h => .bind (.preparePage h) fun _ => FormedIn.prepareAll

/-! The KV manager -/

theorem Formed.attEnter {who a} (h : Formed P s) : Formed P (attEnter s who a) := .ite (.keep h) (.keep h)

theorem Formed.attRefill (h : Formed P s) : Formed P (attRefill s) := .keep h

theorem Formed.failStep {tag} (h : Formed P s) : Formed P (failStep s tag) := by
  unfold Machine.failStep
  split <;> [exact h; exact .modLoop h]

theorem Formed.refuseAtt {e r code} (h : Formed P s) : Formed P (refuseAtt s e r code) :=
  .ite (.when (.ite (.flag (.flag h)) (.wr (.flag (.wr (.flag h))))) .bump)
    (.failStep (.when (.ite (.flag (.flag h)) (.wr (.flag (.wr (.flag h))))) .bump))

theorem Formed.startRun {e r d queries poison} (h : Formed P s) : Formed P (startRun s e r d queries poison) :=
  .foldl (.keep h) fun _ _ => .cachePage

theorem Formed.acceptRequest {remote} (h : Formed P s) : Formed P (acceptRequest s remote) := by
  unfold Machine.acceptRequest
  split
  · exact h
  · dsimp only
    split
    · exact .attRefill (.keep (.refuseAtt h))
    · refine .ite (.attRefill (.keep (.refuseAtt h))) ?_
      split
      · exact .attRefill (.keep (.refuseAtt h))
      · refine .ite (.attRefill (.keep (.refuseAtt (.needAll h)))) ?_
        split
        · exact .needAll h
        · next e => exact .attRefill (.keep (.startRun (FormedIn.prepareAll (.needAll h) _ e)))

theorem Ends.execKvmRequestAccept {remote} (h : Formed P s) : Ends P (execKvmRequestAccept remote s) := .next (.acceptRequest (.quiet h))

theorem Formed.absorb (h : Formed P s) : Formed P (absorb s) := .keep h

theorem Formed.putRun {r} (h : Formed P s) : Formed P (putRun s r) := .keep h

theorem Formed.dispatch {n remote} (h : Formed P s) : Formed P (dispatch s n remote) := by
  unfold Machine.dispatch
  dsimp only
  split
  · exact .absorb h
  · split
    · exact .absorb h
    · split <;> [exact .putRun (.absorb h); exact .modStk (.putRun (.absorb h))]

theorem Ends.execKvmDispatch {stack remote} (h : Formed P s) : Ends P (execKvmDispatch stack remote s) := .next (.dispatch (.quiet h))

theorem Formed.setScore {d p score} (h : Formed P s) : Formed P (setScore s d p score) := .ite (.setEntry h) h

theorem Formed.stageScores {r d} (h : Formed P s) : Formed P (stageScores s r d) :=
  .ite (.foldl h fun _ _ h1 => .ite (.setScore h1) (.keep h1)) h

theorem Formed.hkvAppend {d r n p poison} (h : Formed P s) : Formed P (hkvAppend s d r n p poison) := .foldl h fun _ _ => .setPoolRow

theorem Formed.hkvAppends {d r remote} (h : Formed P s) : Formed P (hkvAppends s d r remote).1 := by
  unfold Machine.hkvAppends
  refine .foldlFst h fun _ _ h1 => ?_
  split <;> dsimp only <;> [exact .hkvAppend h1; exact h1]

theorem Formed.hkvDest {d r} (h : Formed P s) : Formed P (hkvDest s d r) := .ite h (.engineWrite h)

theorem Formed.endRun {r} (h : Formed P s) : Formed P (endRun s r) := by
  unfold Machine.endRun
  dsimp only
  split
  · exact .ite (.bumpPoison (.when (.keep h) .failStep)) (.bump (.when (.keep h) .failStep))
  · split <;> [exact .modLoop (.when (.keep h) .failStep); exact .when (.keep h) .failStep]

theorem Formed.completeRequest {remote} (h : Formed P s) : Formed P (completeRequest s remote) := by
  unfold Machine.completeRequest
  dsimp only
  split
  · exact .absorb h
  · exact .ite (.endRun (.hkvDest (.hkvAppends (.absorb h)))) (.endRun (.stageScores (.absorb h)))

theorem Ends.execKvmRequestComplete {remote} (h : Formed P s) : Ends P (execKvmRequestComplete remote s) :=
  .next (.completeRequest (.quiet h))

theorem Formed.zeroFrame {u f} (h : Formed P s) : Formed P (zeroFrame s u f) := by
  unfold Machine.zeroFrame
  split <;> [exact h; exact .ite h (.setPair (.foldl h fun _ _ => .setFrameRow))]

theorem Ends.execFrameZeroed {pair frame} (h : Formed P s) : Ends P (execFrameZeroed pair frame s) := .next (.zeroFrame (.quiet h))

theorem Formed.swapState {st} (h : Formed P s) : Formed P (swapState s st) := .wr h

theorem Formed.startSwapOut (h : Formed P s) : Formed P (startSwapOut s) := by
  unfold Machine.startSwapOut
  split <;> [exact .progress (.swapState (.wr (.wr (.keep (.writeDesc h))))); exact h]

theorem Ends.execSwapOutStart (h : Formed P s) : Ends P (execSwapOutStart s) := .next (.startSwapOut (.quiet h))

theorem Formed.endSwap {st} (h : Formed P s) : Formed P (endSwap s st) := .swapState (.flag (.keep h))

theorem Formed.swapPage {bad} (h : Formed P s) : Formed P (swapPage s bad) := by
  unfold Machine.swapPage
  split
  · exact h
  · dsimp only
    split
    · exact .endSwap h
    · refine .ite (.when (.progress (.keep h)) .endSwap) ?_
      split
      · exact .when (.progress (.keep (.dropPage (.setEntry (.foldl (.keep h) fun _ _ => .engineWrite))))) .endSwap
      · exact .endSwap h

theorem Ends.execSwapPageOut {bad} (h : Formed P s) : Ends P (execSwapPageOut bad s) := .next (.swapPage (.quiet h))

theorem Formed.swapInFails {j d} (h : Formed P s) : Formed P (swapInFails s j d) := .writeDesc (.modLoop (.dropPages (.keep (.flag h))))

theorem Formed.swapInPage {rows} (h : Formed P s) : Formed P (swapInPage s rows) := by
  unfold Machine.swapInPage
  split
  · exact h
  · dsimp only
    split
    · exact .writeDesc (.keep h)
    · refine .ite (.ite (.writeDesc (.keep h)) (.keep h)) ?_
      split
      · refine .ite (.swapInFails h) ?_
        split
        · exact h
        · next e =>
          have h1 := FormedFst.placeNew h _ e
          exact .ite (.writeDesc (.keep (.dropSwap (.setEntry (.foldl h1 fun _ _ h2 => .ite (.setPoolRow h2) (.setFrameRow h2))))))
            (.keep (.dropSwap (.setEntry (.foldl h1 fun _ _ h2 => .ite (.setPoolRow h2) (.setFrameRow h2)))))
      · exact .swapInFails h

theorem Ends.execSwapInPage {rows} (h : Formed P s) : Ends P (execSwapInPage rows s) := .next (.swapInPage (.quiet h))

theorem Formed.tinvStart {kind} (h : Formed P s) : Formed P (tinvStart s kind) := .ite (.flag h) (.keep (.wr (.flag h)))

theorem Ends.execTinvDone (h : Formed P s) : Ends P (execTinvDone s) := by
  refine .next ?_
  split
  · exact .quiet h
  · exact .ite (.quiet h) (.flag (.wr (.foldl (.keep (.quiet h)) fun _ _ h1 => .ite (.setHport h1) h1)))

theorem Formed.retarget {d p u base x} (h : Formed P s) : Formed P (retarget s d p u base x) := .ite (.setEntry h) h

theorem Formed.retargetAll {t u base x} (h : Formed P s) : Formed P (retargetAll s t u base x) :=
  .keep (.foldl h fun _ _ h1 => .ite (.foldl h1 fun _ _ => .retarget) h1)

theorem FormedIn.moveFrameIn {u f ns} (h : Formed P s) : FormedIn P (moveFrameIn s u f ns) := by
  unfold Machine.moveFrameIn
  split
  · exact .none
  · dsimp only
    split
    · exact .none
    · exact .map fun _ => .dropFrame (.setPair (.retargetAll (.foldl (.setPair (.takeFrame h)) fun _ _ => .setFrameRow)))

theorem FormedIn.moveFrame {u f} (h : Formed P s) : FormedIn P (moveFrame s u f) := .moveFrameIn h

theorem Formed.clearPair {u} (h : Formed P s) : Formed P (clearPair s u).1 := by
  refine .foldlFst h fun _ _ h1 => ?_
  split
  · next e => exact FormedIn.moveFrame h1 _ e
  · exact h1

/-! Memory commands -/

theorem Ends.execLineRead {who addr ecc} (h : Formed P s) : Ends P (execLineRead who addr ecc s) := .next (.accessFor (.quiet h))

theorem Ends.execLineWrite {who addr data poison} (h : Formed P s) : Ends P (execLineWrite who addr data poison s) :=
  .next (.accessFor (.quiet h))

theorem Ends.execPartialStore {who addr data poison ecc} (h : Formed P s) : Ends P (execPartialStore who addr data poison ecc s) :=
  .next (.accessFor (.quiet h))

theorem Ends.execMeteorRead {who addr ecc} (h : Formed P s) : Ends P (execMeteorRead who addr ecc s) := .next (.accessFor (.quiet h))

theorem Ends.execMeteorWrite {who addr data poison} (h : Formed P s) : Ends P (execMeteorWrite who addr data poison s) :=
  .next (.accessFor (.quiet h))

theorem Ends.execWindowAccess {who addr kind ecc} (h : Formed P s) : Ends P (execWindowAccess who addr kind ecc s) :=
  .next (.accessFor (.quiet h))

theorem Ends.execAtomicOp {who addr op wide operand compare ecc} (h :
    Formed P s) : Ends P (execAtomicOp who addr op wide operand compare ecc s) := .next (.accessFor (.quiet h))

theorem Ends.execRedContribution {who addr c} (h : Formed P s) : Ends P (execRedContribution who addr c s) := .next (.accessFor (.quiet h))

theorem Ends.execReduceCancel {who addr} (h : Formed P s) : Ends P (execReduceCancel who addr s) := .next (.accessFor (.quiet h))

theorem Formed.resendRetry (h : Formed P s) : Formed P (resendRetry s) := by
  unfold Machine.resendRetry
  split <;> [exact h; exact .accessFor (.keepMem h)]

theorem Ends.execRedRetryResend (h : Formed P s) : Ends P (execRedRetryResend s) := .next (.resendRetry (.quiet h))

theorem Ends.execBackgroundFillLine {channel granule line} (h : Formed P s) : Ends P (execBackgroundFillLine channel granule line s) :=
  .next (.setMem (.quiet h) (fillOneLine_formOk _ _ _ _ (Formed.form (P := P) (.quiet h))))

theorem Formed.performOldest {ch ecc} (h : Formed P s) : Formed P (performOldest s ch ecc) := by
  unfold Machine.performOldest
  split
  · exact h
  · next w t _ =>
    have hm := setAccepted_formOk s.mem ch t h.1
    refine .ite h ?_
    extract_lets read bad old m s1
    have h1 : Formed P s1 := h.setMem (by split <;> [exact putLine_formOk _ _ _ _ hm; exact performWrite_formOk _ _ hm])
    exact .ite (.recordUe h1) (.ite (.rowCorrected (.recordCe h1)) h1)

theorem Ends.execMeteorRmw {channel ecc} (h : Formed P s) : Ends P (execMeteorRmw channel ecc s) :=
  .next (.releaseWaiting (.performOldest (.quiet h)))

theorem Formed.zfillEnd {state err} (h : Formed P s) : Formed P (zfillEnd s state err) := .keepMem (.flag (.wr (.wr h)))

theorem Formed.zfillProgress {pos done total} (h : Formed P s) : Formed P (zfillProgress s pos done total) := .progress h

theorem Formed.zfillStart (h : Formed P s) : Formed P (zfillStart s) :=
  .ite (.wr h)
    (.ite (.zfillEnd (.zfillProgress h))
      (.ite (.zfillEnd (.zfillProgress h))
        (.ite (.zfillProgress (.zfillEnd (.zfillProgress h))) (.keepMem (.wr (.wr (.zfillProgress h)))))))

theorem Formed.zfillStop (h : Formed P s) : Formed P (zfillStop s) := .ite (.zfillEnd h) h

theorem Formed.zfillCtrl {who start abort} (h : Formed P s) : Formed P (zfillCtrl s who start abort) :=
  .ite h (.ite (.zfillStop h) (.ite (.zfillStart h) h))

theorem Formed.zfillClear {n} (h : Formed P s) : Formed P (zfillClear s n) := by
  unfold Machine.zfillClear
  split
  · exact h
  · extract_lets +onlyGivenNames ch i
    refine .ite h ?_
    extract_lets +onlyGivenNames c u m m1 total pos s1
    have h1 : Formed P s1 :=
      ⟨Memory.formOk_congr rfl rfl rfl rfl (clearUnit_formOk _ u (setAccepted_formOk _ _ _ h.1)), h.2⟩
    exact .ite (.zfillEnd (.zfillProgress h1)) (.zfillProgress h1)

theorem Ends.execZfillGranuleClear {stack} (h : Formed P s) : Ends P (execZfillGranuleClear stack s) := .next (.zfillClear (.quiet h))

theorem Formed.probeStart (h : Formed P s) : Formed P (probeStart s) := .keep h

theorem Formed.probeDone (h : Formed P s) : Formed P (probeDone s) := by
  unfold Machine.probeDone
  split <;> [exact h; exact .foldl (.keep h) fun _ _ => .reply]

theorem Ends.execHashLookupDone (h : Formed P s) : Ends P (execHashLookupDone s) := .next (.probeDone (.quiet h))

/-! Link sessions -/

theorem Formed.setPortState {p st} (h : Formed P s) : Formed P (setPortState s p st) := .wr h

theorem Formed.writeDevid {who dev} (h : Formed P s) : Formed P (writeDevid s who dev) :=
  .ite h (.foldl (.flag (.wr h)) fun _ _ h1 => .ite (.setPortState h1) h1)

theorem Formed.reroute {p held} (h : Formed P s) : Formed P (reroute s p held) := .releaseRequests (.keep h)

theorem Formed.loseLink {p st} (h : Formed P s) : Formed P (loseLink s p st) := .reroute (.setFport (.keep (.setPortState (.wr (.wr h)))))

theorem Formed.portDown {p} (h : Formed P s) : Formed P (portDown s p) := .flag (.loseLink h)

theorem Formed.setPortEn {p v} (h : Formed P s) : Formed P (setPortEn s p v) :=
  .ite h (.ite (.ite (.wr h) (.loseLink (.wr h))) (.when (.wr h) .setPortState))

theorem Formed.startRetrain {p} (h : Formed P s) : Formed P (startRetrain s p) := .ite (.inc (.setPortState h)) h

theorem Formed.writePortCtrl {who p en rekey retrain} (h : Formed P s) : Formed P (writePortCtrl s who p en rekey retrain) :=
  .ite h (.when (.when (.setPortEn h) .newKeys) .startRetrain)

theorem Formed.trained {p lo hi slow} (h : Formed P s) : Formed P (trained s p lo hi slow) := .wr (.wr h)

theorem Ends.execPortTrain {p lo hi slow} (h : Formed P s) : Ends P (execPortTrain p lo hi slow s) :=
  .next (.when (.quiet h) fun h1 => .setPortState (.trained h1))

theorem Ends.execPortTrainRetry {p} (h : Formed P s) : Ends P (execPortTrainRetry p s) := .next (.when (.quiet h) .loseLink)

theorem Ends.execLinkSessionEstablish {p} (h : Formed P s) : Ends P (execLinkSessionEstablish p s) :=
  .next (.when (.quiet h) fun h1 => .releaseRequests (.pump (.setPortState (.newKeys h1))))

theorem Formed.resendAll {p} (h : Formed P s) : Formed P (resendAll s p) := .foldl h fun _ _ h1 => .inc (.emit h1)

theorem Formed.rejectFlit {p} (h : Formed P s) : Formed P (rejectFlit s p) := .when (.emit (.setFport h)) .startRetrain

theorem Formed.authFail {p} (h : Formed P s) : Formed P (authFail s p) := .flag (.inc (.setFport h))

theorem Formed.acceptFlit {p f} (h : Formed P s) : Formed P (acceptFlit s p f) := .pump (.when (.wr64 (.rekeyDue (.setFport h))) .resendAll)

theorem Formed.receiveFlit {p b} (h : Formed P s) : Formed P (receiveFlit s p b) := by
  refine .ite h (.ite (.ite (.inc h) (.rejectFlit (.inc h))) (.ite h ?_))
  split <;> [exact .acceptFlit h; exact .ite (.acceptFlit h) (.rejectFlit (.authFail h))]

theorem Ends.execFlitReceive {p flit} (h : Formed P s) : Ends P (execFlitReceive p flit s) := .next (.receiveFlit (.quiet h))

theorem Ends.execAckTimeout {p} (h : Formed P s) : Ends P (execAckTimeout p s) := .next (.ite (.quiet h) (.startRetrain (.quiet h)))

theorem Formed.retrainEnd {p lo hi slow} (h : Formed P s) : Formed P (retrainEnd s p lo hi slow) :=
  .ite h
    (.ite (.portDown h) (.ite (.portDown (.setFport h)) (.releaseRequests (.pump (.resendAll (.setPortState (.trained (.setFport h))))))))

theorem Ends.execPortRetrainEnd {p lo hi slow} (h : Formed P s) : Ends P (execPortRetrainEnd p lo hi slow s) :=
  .next (.retrainEnd (.quiet h))

theorem Ends.execHeldRequestRelease (h : Formed P s) : Ends P (execHeldRequestRelease s) := .next (.releaseRequests (.quiet h))

theorem Ends.execAnswerRecordExpiry {src tag} (h : Formed P s) : Ends P (execAnswerRecordExpiry src tag s) := .next (.keep (.quiet h))

/-! Fabric commands -/

theorem Formed.finishCommit {l num} (h : Formed P s) : Formed P (finishCommit s l num) := .when (.wr64 (.modLoop h)) .pulse

theorem Formed.dueCommits (h : Formed P s) : Formed P (dueCommits s) :=
  .ite (.foldl h fun _ _ h1 => by split; exacts [.ite h1 (.finishCommit h1), h1]) h

theorem Formed.shadowLost (h : Formed P s) : Formed P (shadowLost s) := .ite h (.dueCommits (.keep (.flag (.flag h))))

theorem Formed.shadowLine {off b} (h : Formed P s) : Formed P (shadowLine s off b) := by
  unfold Machine.shadowLine
  dsimp only
  split <;> [exact .fabRequest h; exact .shadowLost (.fabRequest h)]

theorem FormedIn.shadowPlace {rec} (h : Formed P s) : FormedIn P (shadowPlace s rec) :=
  .iteOpt .none (.some (.keep (.foldl (.ite h (.shadowLine h)) fun _ _ => .shadowLine)))

theorem Formed.shadowPumpAux : ∀ {n s}, Formed P s → Formed P (shadowPumpAux n s)
  | 0, _, h => h
  | n + 1, s, h => by
    unfold Machine.shadowPumpAux
    split
    · exact h
    · refine .ite (.ite h (Formed.shadowPumpAux (.ite (.keep (.shadowLine h)) (.shadowLine h)))) ?_
      split
      · exact h
      · next e =>
        have h1 := FormedIn.shadowPlace h _ e
        exact Formed.shadowPumpAux (.ite (.keep h1) h1)

theorem Formed.shadowPump (h : Formed P s) : Formed P (shadowPump s) := .shadowPumpAux h

theorem Formed.shadowSend {recs} (h : Formed P s) : Formed P (shadowSend s recs) := .ite (.shadowPump (.keep h)) h

theorem Ends.execShadowRoomWait {head} (h : Formed P s) : Ends P (execShadowRoomWait head s) := by
  refine .next (.ite (.quiet h) ?_)
  split <;> [exact .shadowLost (.quiet h); exact .dueCommits (.shadowPump (.keep (.quiet h)))]

theorem Formed.writeBuddy {who dev en clearLost} (h : Formed P s) : Formed P (writeBuddy s who dev en clearLost) :=
  .ite h (.ite (.keep (.when (.wr (.wr h)) .wr)) (.when (.when (.wr (.wr h)) .wr) fun h1 => .dueCommits (.keep h1)))

theorem Formed.applyRecord {work r} (h : Formed P s) : Formed P (applyRecord s work r) :=
  .ite (.engineWrite h) (.ite (.attEnter (.engineWrite h)) h)

theorem Ends.execBuddyLogApply {work} (h : Formed P s) : Ends P (execBuddyLogApply work s) :=
  .next (.engineWrite (.foldl (.quiet h) fun _ _ => .applyRecord))

theorem Formed.putColl {c} (h : Formed P s) : Formed P (putColl s c) := .keep h

theorem Formed.collFail {cid} (h : Formed P s) : Formed P (collFail s cid) := by
  unfold Machine.collFail
  split <;> [exact h; exact .ite h (.bump (.putColl h))]

theorem Formed.collLost {cid code} (h : Formed P s) : Formed P (collLost s cid code) := by
  unfold Machine.collLost
  split <;> [exact h; exact .ite h (.collFail (.fabRecord h))]

theorem Formed.collSend {c rank line opc arg body poison} (h : Formed P s) : Formed P (collSend s c rank line opc arg body poison) := by
  unfold Machine.collSend
  dsimp only
  split <;> [exact .fabRequest h; exact .collFail (.fabRequest h)]

theorem Formed.collPush {c line ds} (h : Formed P s) : Formed P (collPush s c line ds) := .foldl h fun _ _ => .collSend

theorem Formed.collAccess {c line kinds} (h : Formed P s) : Formed P (collAccess s c line kinds) := by
  unfold Machine.collAccess
  extract_lets a r
  have h1 : FormedPair P r := by
    refine .foldl (.mk h) fun z k h1 => .ite h1 ?_
    have h2 : Formed P (Machine.access z.1 .nobody c.who a k .clean).1 := .access h1
    generalize Machine.access z.1 .nobody c.who a k .clean = q at h2
    dsimp only
    split <;> exact .mk h2
  clear_value r
  split <;> [exact .putColl h1; exact .collLost h1]

theorem Formed.collWrite {cid line d p} (h : Formed P s) : Formed P (collWrite s cid line d p) := by
  unfold Machine.collWrite
  split <;> [exact h; exact .collAccess h]

theorem Formed.collReduce {c line xs x} (h : Formed P s) : Formed P (collReduce s c line xs x) := .ite (.collAccess h) (.collWrite h)

theorem Formed.collLine {cid line} (h : Formed P s) : Formed P (collLine s cid line) := by
  unfold Machine.collLine
  split
  · exact h
  · refine .ite h (.ite (.collLost h) (.ite h ?_))
    split <;> [exact h; exact .when (.collReduce h) .collPush]

theorem Formed.collPullsAux : ∀ {n s cid}, Formed P s → Formed P (collPullsAux n s cid)
  | 0, _, _, h => h
  | n + 1, s, cid, h => by
    unfold Machine.collPullsAux
    split
    · exact h
    · refine .ite h ?_
      split <;> [exact h; exact Formed.collPullsAux (.collSend h)]

theorem Formed.collPulls {cid} (h : Formed P s) : Formed P (collPulls s cid) := .collPullsAux h

theorem Formed.collAdvance {cid} (h : Formed P s) : Formed P (collAdvance s cid) := by
  unfold Machine.collAdvance
  split <;> [exact h; exact .collPulls (.foldl h fun _ _ => .collLine)]

theorem Formed.collSpread {c} (h : Formed P s) : Formed P (collSpread s c) :=
  .foldl h fun _ _ h1 => .ite h1 (by split; exacts [.collLost h1, .collWrite (.collPush h1)])

theorem Formed.servePull {c p} (h : Formed P s) : Formed P (servePull s c p) :=
  .foldl h fun _ _ h1 => .ite h1 (.ite (.collLost h1) (.sendResponse h1))

theorem Formed.takePush {c p} (h : Formed P s) : Formed P (takePush s c p) :=
  .ite (.foldl h fun _ _ => .collWrite) (.sendResponse (.foldl h fun _ _ => .collWrite))

theorem Formed.serveColl {p} (h : Formed P s) : Formed P (serveColl s p) := by
  unfold Machine.serveColl
  split <;> [exact .keep h; exact .ite h (.ite (.servePull h) (.takePush h))]

theorem Formed.collEnter {who a} (h : Formed P s) : Formed P (collEnter s who a) := .ite h (.ite (.keep h) (.keep h))

theorem Formed.collAccept (h : Formed P s) : Formed P (collAccept s) := by
  unfold Machine.collAccept
  split
  · exact h
  · dsimp only
    split
    · next e => exact .fabRecord (.ofFst (.engineBytes (.keep h)) e)
    · next e =>
      have h1 := Formed.ofFst (.engineBytes (.keep h)) e
      exact .ite (.bump (.fabRecord h1))
        (.foldl (.ite (.collAdvance (.keep h1)) (.ite (.collSpread (.keep h1)) (.keep h1))) fun _ _ => .serveColl)

theorem Ends.execCollectiveAccept (h : Formed P s) : Ends P (execCollectiveAccept s) := .next (.collAccept (.quiet h))

theorem Ends.execCollectiveComplete {cid} (h : Formed P s) : Ends P (execCollectiveComplete cid s) :=
  .next (by split; exacts [.quiet h, .when (.quiet h) fun h1 => .bump (.putColl h1)])

theorem Formed.serveBulk {p kinds} (h : Formed P s) : Formed P (serveBulk s p kinds) := by
  unfold Machine.serveBulk
  extract_lets +onlyGivenNames r
  have h1 : FormedPair P r := by
    refine .foldl (.mk h) fun z e h1 => .ite h1 ?_
    extract_lets +onlyGivenNames a
    clear_value a
    have h2 : Formed P (Machine.access z.1 .nobody (packetWho p) a e.1 .clean).1 := .access h1
    generalize Machine.access z.1 .nobody (packetWho p) a e.1 .clean = q at h2
    obtain ⟨t, x⟩ := q
    cases x <;> exact .mk h2
  clear_value r
  split <;> exact .serveAnswer h1

theorem Formed.serveRequest {p ecc} (h : Formed P s) : Formed P (serveRequest s p ecc) := by
  refine .ite (.serveAnswer h) ?_
  split
  · split <;> [exact .sendPacket h; exact h]
  · dsimp only
    split
    · exact .accessFor h
    · exact .accessFor h
    · exact .ite (.accessFor h) (.accessFor h)
    · exact .accessFor h
    · split <;> [exact .accessFor h; exact .serveAnswer h]
    · exact .accessFor h
    · exact .ite (.serveAnswer h) (.serveBulk h)
    · exact .ite (.serveAnswer h) (.serveBulk h)
    · exact .serveColl h

theorem Formed.takePulled {r rest cid rank line p} (h : Formed P s) : Formed P (takePulled s r rest cid rank line p) := by
  unfold Machine.takePulled
  split <;> [exact h; exact .collAdvance (.when (.putColl h) fun h1 => .keep h1)]

theorem Formed.failRequest {r code} (h : Formed P s) : Formed P (failRequest s r code) := by
  unfold Machine.failRequest
  dsimp only
  split <;> [exact .shadowLost (.fabRecord h); exact .collFail (.fabRecord h); exact .deliver (.fabRecord h)]

theorem Formed.takeResponse {p} (h : Formed P s) : Formed P (takeResponse s p) := by
  unfold Machine.takeResponse
  split
  · exact h
  · refine .releaseRequests (.ite (.failRequest (.keep h)) ?_)
    split
    · exact .dueCommits (.shadowPump (.keep h))
    · exact .ite (.takePulled h) (.keep h)
    · exact .deliver (.keep h)

theorem Formed.handlePacket {p opc ecc} (h : Formed P s) : Formed P (handlePacket s p opc ecc) := by
  refine .ite (.ite (.serveRequest h) (.takeResponse h)) (.ite ?_ (.ite (.sendResponse (.fabRecord h)) h))
  split <;> [exact .fabRecord h; exact .ite (.sendPacket (.keep h)) (.sendPacket h)]

theorem Ends.execRdBurst {packet ecc} (h : Formed P s) : Ends P (execRdBurst packet ecc s) := .next (.handlePacket (.quiet h))

theorem Ends.execRdLine {packet ecc} (h : Formed P s) : Ends P (execRdLine packet ecc s) := .next (.handlePacket (.quiet h))

theorem Ends.execWrBurst {packet} (h : Formed P s) : Ends P (execWrBurst packet s) := .next (.handlePacket (.quiet h))

theorem Ends.execWrLine {packet} (h : Formed P s) : Ends P (execWrLine packet s) := .next (.handlePacket (.quiet h))

theorem Ends.execAtomicPacket {packet ecc} (h : Formed P s) : Ends P (execAtomicPacket packet ecc s) := .next (.handlePacket (.quiet h))

theorem Ends.execRedPacket {packet} (h : Formed P s) : Ends P (execRedPacket packet s) := .next (.handlePacket (.quiet h))

theorem Ends.execBulkRd {packet} (h : Formed P s) : Ends P (execBulkRd packet s) := .next (.handlePacket (.quiet h))

theorem Ends.execBulkWr {packet} (h : Formed P s) : Ends P (execBulkWr packet s) := .next (.handlePacket (.quiet h))

theorem Ends.execCollPull {packet} (h : Formed P s) : Ends P (execCollPull packet s) := .next (.handlePacket (.quiet h))

theorem Ends.execCollPush {packet} (h : Formed P s) : Ends P (execCollPush packet s) := .next (.handlePacket (.quiet h))

theorem Ends.execData {packet} (h : Formed P s) : Ends P (execData packet s) := .next (.handlePacket (.quiet h))

theorem Ends.execAck {packet} (h : Formed P s) : Ends P (execAck packet s) := .next (.handlePacket (.quiet h))

theorem Ends.execErr {packet} (h : Formed P s) : Ends P (execErr packet s) := .next (.handlePacket (.quiet h))

theorem Ends.execRequestTimeout {dst tag} (h : Formed P s) : Ends P (execRequestTimeout dst tag s) :=
  .next (by split; exacts [.quiet h, .releaseRequests (.failRequest (.keep (.quiet h)))])

theorem Ends.execMer {packet} (h : Formed P s) : Ends P (execMer packet s) := by
  refine .next (.ite (.handlePacket (.quiet h)) (.ite (.keep (.quiet h)) ?_))
  dsimp only
  split <;> [exact .sendPacket (.quiet h); exact .quiet h]

theorem Formed.merExchange {t1 t2 t3 t4} (h : Formed P s) : Formed P (merExchange s t1 t2 t3 t4) :=
  .ite h
    (.ite (.keep h)
      (.ite (.keep (.when (.ite (.flag (.keep (.wr h))) (.ite (.keep (.wr h)) (.wr (.keep (.wr h))))) .flag))
        (.keep (.flag (.ite (.flag (.keep (.wr h))) (.ite (.keep (.wr h)) (.wr (.keep (.wr h)))))))))

theorem Ends.execMerExchange {t1 t2 t3 t4} (h : Formed P s) : Ends P (execMerExchange t1 t2 t3 t4 s) := .next (.merExchange (.quiet h))

theorem Formed.merAdvance {n} (h : Formed P s) : Formed P (merAdvance s n) := .ite (.keep h) (.keep h)

end Sys2Proof.Machine
end

section
/-! SUPPORT. The memories keep their form, and the queue behind a command stays: image loads and sequences. -/

namespace Sys2Proof.Machine

variable {P : List Instr} {s : State}

/-! The image -/

theorem Formed.setDigest {d} (h : Formed P s) : Formed P (setDigest s d) := .foldl h fun _ _ => .wr

/-! Image loads -/

theorem Formed.loadEnd {state code sect detail} (h : Formed P s) : Formed P (loadEnd s state code sect detail) := by
  refine .keep ?_
  split <;> [exact .emit (.wr (.wr (.wr (.wr (.flag h))))); exact .wr (.wr (.wr (.wr (.flag h))))]

theorem Formed.loadFails {code sect detail} (h : Formed P s) : Formed P (loadFails s code sect detail) := .loadEnd (.ite (.modStk h) h)

theorem Formed.stopLoad {code} (h : Formed P s) : Formed P (stopLoad s code) := .ite h (.ite (.loadFails h) (.keep h))

theorem Formed.imgCtrl {who start abort kind} (h : Formed P s) : Formed P (imgCtrl s who start abort kind) :=
  .ite (.flag h)
    (.ite (.stopLoad (.wr h)) (.ite (.wr h) (.ite (.flag (.wr h)) (.ite (.loadEnd (.progress (.wr h))) (.wr (.keep (.progress (.wr h))))))))

theorem Formed.prepareStack {xs} (h : Formed P s) : Formed P (prepareStack s xs) := by
  unfold Machine.prepareStack
  extract_lets n old next size written gone away
  have h1 : Formed P away.1 := .foldlFst (.modStk h) fun _ _ => .clearPair
  exact .ite (.loadFails h) (.ite (.keep h1) (.loadFails h))

theorem Formed.enterPrepare {b} (h : Formed P s) : Formed P (enterPrepare s b) :=
  .ite (.foldl (.keep (.wr (.wr h))) fun _ _ => .modLoop) (.when (.keep (.wr (.wr h))) .prepareStack)

theorem Formed.verifyBytes {image} (h : Formed P s) : Formed P (verifyBytes s image) := by
  refine .ite h ?_
  split
  · exact .loadEnd h
  · dsimp only
    split
    · exact .loadEnd (.when (.wr (.wr (.wr h))) .secFail)
    · exact .ite (.loadEnd (.wr (.wr (.wr h)))) (.enterPrepare (.wr (.wr (.wr h))))

theorem Ends.execImgVerifyEnd {fetched} (h : Formed P s) : Ends P (execImgVerifyEnd fetched s) := .next (.verifyBytes (.quiet h))

theorem Formed.readGranule {g ecc} (h : Formed P s) : Formed P (readGranule s g ecc).1 :=
  .foldlFst h fun _ _ h1 => by dsimp only; split; exacts [.flushLine h1, .fetchLine (.flushLine h1)]

theorem Formed.writeGranule {h' key} (h : Formed P s) : Formed P (writeGranule s h' key) :=
  .foldl h fun _ _ h1 => .setMem h1 (putLine_formOk _ _ _ _ (settle_formOk _ _ h1.1))

theorem Formed.placeGranule {x dst src stays mark ecc} (h : Formed P s) :
    Formed P (placeGranule s x dst src stays mark ecc) := by
  unfold Machine.placeGranule
  split
  · exact h
  · extract_lets +onlyGivenNames occ
    refine .ite h ?_
    clear_value occ
    cases occ with
    | none => exact .keep (.writeGranule h)
    | some y =>
      have h1 : Formed P (Machine.readGranule s y ecc).1 := .readGranule h
      dsimp only
      exact .keep (.writeGranule h1)

theorem Formed.moveProgress (h : Formed P s) : Formed P (moveProgress s) := .wr (.free h)

theorem Formed.granuleMove {g ecc} (h : Formed P s) : Formed P (granuleMove s g ecc) := by
  unfold Machine.granuleMove
  refine .ite h ?_
  extract_lets +onlyGivenNames go
  have hgo (t x ecc) (ht : Formed P t) : Formed P (go t x ecc) := by
    simp only [go]
    exact .placeGranule ht
  clear_value go
  split
  · next x _ =>
    have h1 := hgo s x ecc h
    exact .ite (.moveProgress h1) h
  · refine .ite h ?_
    extract_lets +onlyGivenNames r
    have h1 : Formed P r.1 := .readGranule h
    clear_value r
    refine .moveProgress (hgo _ r.2 .clean ?_)
    exact .keep h1

theorem Ends.execImgGranuleMove {g ecc} (h : Formed P s) : Ends P (execImgGranuleMove g ecc s) := .next (.granuleMove (.quiet h))

theorem Formed.granuleBack {g} (h : Formed P s) : Formed P (granuleBack s g) := by
  unfold Machine.granuleBack
  split
  · exact h
  · refine .when ?_ .loadFails
    split
    · refine .keep ?_
      split <;> [exact .ite (.placeGranule h) h; exact .ite h (.placeGranule (.keep (.readGranule h)))]
    · split <;> [exact .ite (.placeGranule h) h; exact .ite h (.placeGranule (.keep (.readGranule h)))]

theorem Ends.execImgGranuleMoveBack {g} (h : Formed P s) : Ends P (execImgGranuleMoveBack g s) := .next (.granuleBack (.quiet h))

theorem Ends.execHeldGranuleAccess (h : Formed P s) : Ends P (execHeldGranuleAccess s) := .next (.releaseWaiting (.quiet h))

theorem Formed.flushSlices (h : Formed P s) : Formed P (flushSlices s) := .foldl h fun _ _ h1 => .foldl h1 fun _ _ => .flushLine

theorem Formed.switchModes {next} (h : Formed P s) : Formed P (switchModes s next) :=
  .foldl h
    fun _ _ h1 => .foldl h1 fun _ _ h2 => .ite h2 (.setMem (.setStk h2) (clearDieMap_formOk _ _ _ (Formed.form (P := P) (.setStk h2))))

theorem Formed.loadShares {scope next} (h : Formed P s) : Formed P (loadShares s scope next) :=
  .ite (.wr (.keep h)) (.keep (.wr (.wr (.keep h))))

theorem Formed.placeBody {b} (h : Formed P s) : Formed P (placeBody s b) := .engineWrite h

theorem Formed.releaseStores (h : Formed P s) : Formed P (releaseStores s) :=
  .foldl (.keep h) fun _ _ h1 => by split; exacts [.accessFor h1, .keepMem h1, .keepMem h1]

theorem Formed.recheckRegions (h : Formed P s) : Formed P (recheckRegions s) := .foldl h fun _ _ h1 => .ite (.keepMem (.flag h1)) h1

theorem Formed.applyImage {b} (h : Formed P s) : Formed P (applyImage s b) :=
  .setDigest (.wr64 (.when
    (.when
      (.when
        (.when
          (.when
            (.when (.when (.keep (.when (.ite (.switchModes (.flushSlices h)) h) .loadShares)) fun h7 => .recheckRegions (.modStk h7))
              .placeBody)
            .placeBody)
          fun h4 => .foldl h4 fun _ _ => .icinv)
        fun h3 => .foldl h3 fun _ _ => .setPortEn)
      .applyRoutes)
    .releaseStores))

theorem Formed.imgSwitch (h : Formed P s) : Formed P (imgSwitch s) := by
  refine .ite h (.ite (.loadFails h) ?_)
  split <;> [exact .loadFails h; exact .keep (.wr (.wr64 (.wr (.applyImage h))))]

theorem Ends.execImgSwitch (h : Formed P s) : Ends P (execImgSwitch s) := .next (.imgSwitch (.quiet h))

theorem Formed.imgRelease (h : Formed P s) : Formed P (imgRelease s) := .ite h (.loadEnd (.wr h))

theorem Ends.execImgReleaseEnd (h : Formed P s) : Ends P (execImgReleaseEnd s) := .next (.imgRelease (.quiet h))

/-! Sequences -/

theorem Formed.ringText {d w b} (h : Formed P s) : Formed P (ringText s d w b) := .engineWrite (.engineWrite h)

theorem Formed.writeEntries : ∀ {l s d}, Formed P s → Formed P (writeEntries s d l)
  | [], _, _, h => h
  | _ :: _, _, _, h => .ite h (Formed.writeEntries (.ite (.engineWrite h) (.ringText (.engineWrite h))))

theorem Formed.writeTails {d es} (h : Formed P s) : Formed P (writeTails s d es) := .ite h (.when (.engineWrite h) .engineWrite)

theorem Formed.writeNow {n d es} (h : Formed P s) : Formed P (writeNow s n d es) := .writeTails (.writeEntries (.writeDesc h))

theorem Formed.forgetSeq {n} (h : Formed P s) : Formed P (forgetSeq s n) := .keep h

theorem Formed.freeSeq {n d} (h : Formed P s) : Formed P (freeSeq s n d).1 := .keep (.modLoop (.forgetSeq (.dropPages h)))

theorem Formed.finalSeq {n d} (h : Formed P s) : Formed P (finalSeq s n d).1 := .iteFst (.modLoop h) (.freeSeq h)

theorem Formed.leaveSteps {n} (h : Formed P s) : Formed P (leaveSteps s n) := .keep h

theorem Formed.endSequence {n code} (h : Formed P s) : Formed P (endSequence s n code) := .ite h (.writeNow (.freeSeq (.leaveSteps h)))

theorem Formed.loseSequence {n} (h : Formed P s) : Formed P (loseSequence s n) := .endSequence h

theorem Formed.setPrefix {r x} (h : Formed P s) : Formed P (setPrefix s r x) := .wr (.keep h)

theorem Formed.addRef {e} (h : Formed P s) : Formed P (addRef s e) := .ite (.keep h) (by split; exacts [h, .setPair h])

theorem Formed.registerPrefix {d} (h : Formed P s) : Formed P (registerPrefix s d).1 :=
  .iteFst h (.keep (.setPrefix (.foldlFst h fun _ _ h1 => .ite (.addRef (.setEntry h1)) h1)))

theorem Formed.attachPrefix {d x} (h : Formed P s) : Formed P (attachPrefix s d x) :=
  .foldl h fun _ _ h1 => .setEntry (.ite (.addRef h1) h1)

theorem Formed.releasePrefix {r x} (h : Formed P s) : Formed P (releasePrefix s r x) :=
  .setPrefix (.foldl h fun _ _ h1 => .ite (.dropPage h1) h1)

theorem Formed.writeTables {d} (h : Formed P s) : Formed P (writeTables s d) := .engineWrite (.engineWrite h)

theorem Formed.failEntry {l t n kind code} (h : Formed P s) : Formed P (failEntry s l t n kind code) :=
  .ite (.modLoop h) (.ite (.flag h) (.flag (.wr (.wr h))))

theorem Formed.subNew {l t n reg template dir} (h : Formed P s) : Formed P (subNew s l t n reg template dir) := by
  unfold Machine.subNew
  split
  · exact .failEntry h
  · refine .ite (.failEntry h) (.ite (.modLoop (.when (.writeDesc (.writeTables h)) fun h1 => .keep h1)) ?_)
    split
    · exact .ite (.modLoop (.when (.writeDesc (.attachPrefix (.writeTables h))) fun h1 => .keep h1)) (.failEntry (.writeDesc h))
    · exact .failEntry (.writeDesc h)

theorem Formed.subTurn {l t n reg prompt count gen} (h : Formed P s) : Formed P (subTurn s l t n reg prompt count gen) :=
  .ite (.failEntry h) (.ite (.failEntry h) (.modLoop (.writeDesc h)))

theorem Formed.subRelease {n} (h : Formed P s) : Formed P (subRelease s n) := .ite h (.ite (.modLoop h) (.writeNow (.freeSeq h)))

theorem Formed.subCancel {n} (h : Formed P s) : Formed P (subCancel s n) := .ite (.writeDesc h) h

theorem Formed.subPrelease {l t n h'} (h : Formed P s) : Formed P (subPrelease s l t n h') := by
  unfold Machine.subPrelease
  split <;> [exact .releasePrefix h; exact .failEntry h]

theorem Formed.applySub {l t b bad template dir} (h : Formed P s) : Formed P (applySub s l t b bad template dir) :=
  .ite (.failEntry h) (.ite (.subNew h) (.ite (.subTurn h) (.ite (.subCancel h) (.ite (.subRelease h) (.subPrelease h)))))

theorem Formed.readSubs {l t} : ∀ {n x s}, Formed P s → Formed P (readSubs l t n x s)
  | 0, _, _, h => h
  | n + 1, x, s, h => by
    unfold Machine.readSubs
    dsimp only
    split <;> [exact h; exact Formed.readSubs (.wr (.applySub h))]

theorem Ends.execSubmissionRead {l supply} (h : Formed P s) : Ends P (execSubmissionRead l supply s) :=
  .next (by split; exacts [.quiet h, .ite (.quiet h) (.readSubs (.quiet h))])

theorem Formed.subqTail {who l v} (h : Formed P s) : Formed P (subqTail s who l v) := .ite (.wr h) h

theorem Formed.emptyWindow (h : Formed P s) : Formed P (emptyWindow s) := .wr64 h

theorem Formed.endWindow {l st} (h : Formed P s) : Formed P (endWindow s l st) := .wr (.wr (.modLoop h))

theorem Formed.armWindow {who l} (h : Formed P s) : Formed P (armWindow s who l) :=
  .ite h (.ite (.emptyWindow (.endWindow h)) (.ite (.emptyWindow (.endWindow h)) (.wr (.flag (.modLoop h)))))

theorem Ends.execWindowOpen {l} (h : Formed P s) : Ends P (execWindowOpen l s) := .next (by split; exacts [.when (.quiet h) .wr, .quiet h])

theorem Ends.execWindowDone {l} (h : Formed P s) : Ends P (execWindowDone l s) :=
  .next (by split; exacts [.when (.quiet h) .endWindow, .quiet h])

theorem Ends.execEmptyWindowPeriod {w} (h : Formed P s) : Ends P (execEmptyWindowPeriod w s) :=
  .next (by split; exacts [.when (.quiet h) .emptyWindow, .quiet h])

/-! Steps, windows and contexts -/

theorem Formed.startSwapIns {r} (h : Formed P s) : Formed P (startSwapIns s r) := .foldl h fun _ _ h1 => .ite h1 (.ite (.keep h1) h1)

theorem FormedIn.tryAll {l step n d} : ∀ {ps s}, Formed P s → FormedIn P (tryAll l step n d ps s)
  | [], _, h => .some h
  | _ :: _, _, h => .iteOpt (FormedIn.tryAll (.need h)) .none

theorem Formed.retryParked {r num} (h : Formed P s) : Formed P (retryParked s r num) := by
  refine .foldl h fun _ _ h1 => .ite h1 ?_
  dsimp only
  split
  · exact h1
  · next e => exact .writeDesc (.keep (FormedIn.tryAll h1 _ e))

theorem Formed.reserveStep {l t} (h : Formed P s) : Formed P (reserveStep s l t) :=
  .foldl h fun _ _ h1 => .ite h1 (.ite (.needAll h1) (.modLoop (.needAll h1)))

theorem Formed.setBusy {n} (h : Formed P s) : Formed P (setBusy s n) := .ite h (.writeDesc h)

theorem Formed.admitStep {r b} (h : Formed P s) : Formed P (admitStep s r b) :=
  .engineWrite (.foldl (.when (.keep (.modLoop h)) .reserveStep) fun _ _ => .setBusy)

theorem Formed.tryAdmit {r heads} (h : Formed P s) : Formed P (tryAdmit s r heads) :=
  .ite h
    (.ite (.foldl (.startSwapIns (.retryParked h)) fun _ _ => .inc)
      (.ite (.admitStep (.foldl (.startSwapIns (.retryParked h)) fun _ _ => .inc))
        (.when (.foldl (.startSwapIns (.retryParked h)) fun _ _ => .inc) .modLoop)))

theorem Ends.execStepAdmit {l heads} (h : Formed P s) : Ends P (execStepAdmit l heads s) :=
  .next (by split; exacts [.quiet h, .tryAdmit (.quiet h)])

theorem Formed.killLaunch {c} (h : Formed P s) : Formed P (killLaunch s c) := .ite (.modCl (.wr h)) h

theorem Formed.updStep {l num f} (h : Formed P s) : Formed P (updStep s l num f) := .modLoop h

theorem Formed.launchStep {r t} (h : Formed P s) : Formed P (launchStep s r t) :=
  .ite (.foldl h fun _ _ => .killLaunch) (.enterLaunch (.updStep (.foldl h fun _ _ => .killLaunch)))

theorem Ends.execStepLaunch {l} (h : Formed P s) : Ends P (execStepLaunch l s) :=
  .next (by split; exacts [.launchStep (.quiet h), .quiet h])

theorem Formed.stopLaunch {l num} (h : Formed P s) : Formed P (stopLaunch s l num) :=
  .foldl (.updStep (.keep h)) fun _ _ h1 => .when (.modCl h1) .preempt

theorem Formed.dropStaged {l num requests} (h : Formed P s) : Formed P (dropStaged s l num requests) := .keep h

theorem Formed.stopLoop {l t} (h : Formed P s) : Formed P (stopLoop s l t) :=
  .foldl (.flag (.modLoop h)) fun _ _ h1 => .ite (.writeNow (.finalSeq h1)) h1

theorem Formed.discardWith {counts l} (h : Formed P s) : Formed P (discardWith counts s l) := by
  unfold Machine.discardWith
  split
  · exact h
  · exact .ite
      (.stopLoop (.foldl
        (.modLoop (.inc (.attRefill (.dropStaged (.stopLaunch (.foldl h fun _ _ h1 => .inc (.dropStaged (.stopLaunch h1))))))))
        fun _ _ => .setBusy))
      (.updStep (.foldl
        (.modLoop (.inc (.attRefill (.dropStaged (.stopLaunch (.foldl h fun _ _ h1 => .inc (.dropStaged (.stopLaunch h1))))))))
        fun _ _ => .setBusy))

theorem Formed.discardStep {l} (h : Formed P s) : Formed P (discardStep s l) := .discardWith h

theorem Ends.execSample {l lasts} (h : Formed P s) : Ends P (execSample l lasts s) :=
  .next (by split; exacts [.ite (.quiet h) (.updStep (.quiet h)), .quiet h])

theorem Formed.fixupRun {x o} (h : Formed P s) : Formed P (fixupRun s x o) := .keep h

theorem Ends.execCommitCheck {l} (h : Formed P s) : Ends P (execCommitCheck l s) := by
  refine .next ?_
  split
  · exact .ite (.quiet h) (.ite (.discardStep (.quiet h)) (.updStep (.foldl (.quiet h) fun _ _ => .fixupRun)))
  · exact .quiet h

theorem Formed.entryChange {l t e} (h : Formed P s) : Formed P (entryChange s l t e).1 := by
  change FormedPair P (Machine.entryChange s l t e)
  unfold Machine.entryChange
  extract_lets +onlyGivenNames n d0 o d
  refine .ite (.mk (.finalSeq h)) ?_
  extract_lets +onlyGivenNames z es
  have hz : FormedPair P z := by
    refine .ite ?_ (.mk h)
    split <;> exact .mk (.ofFst (.registerPrefix h) ‹_›)
  clear_value z
  exact .ite (.mk (.finalSeq hz)) (.ite (.mk (.modLoop hz)) (.mk hz))

theorem Formed.sideChanges {l num cs} (h : Formed P s) : Formed P (sideChanges s l num cs).1 :=
  .foldlFst (.modLoop (.foldlFst (.modLoop (.foldlFst h fun _ _ h1 => .iteFst (.freeSeq h1) h1)) fun _ _ => .finalSeq))
    fun _ _ h1 => .iteFst (.freeSeq h1) h1

theorem Formed.writeStaged {l t} (h : Formed P s) : Formed P (writeStaged s l t) :=
  .foldl (.keep (.foldl h fun _ _ h1 => by split; exacts [.ite h1 (.setScore h1), h1]))
    fun _ _ h1 => .ite h1 (.foldl h1 fun _ _ h2 => .ite (.setEntry h2) h2)

theorem Formed.shadowCommit {l t cs appends} (h : Formed P s) : Formed P (shadowCommit s l t cs appends) := .ite h (.shadowSend h)

theorem Formed.endSecured {l} (h : Formed P s) : Formed P (endSecured s l) := by
  unfold Machine.endSecured
  split <;> [exact h; exact .foldl h fun _ _ => .endSequence]

theorem Formed.commitStep {l t} (h : Formed P s) : Formed P (commitStep s l t) := by
  unfold Machine.commitStep
  extract_lets appends gone s1 z1 z2 z3 cs s2 s3 s4 s5 kvm s7 s8 s9 behind s10 live fab s11 fab2 s12
  have h1 : Formed P z1.1 := .foldlFst (.modLoop h) fun _ _ => .entryChange
  have h3 : Formed P z3.1 := .sideChanges (.foldlFst h1 fun _ _ => .leaveSteps)
  have h5 : Formed P s5 :=
    .foldl (.foldl (.writeStaged (.foldl h3 fun _ _ => .writeDesc)) fun _ _ => .writeEntries) fun _ _ => .writeTails
  have h10 : Formed P s10 := .modLoop (.endSecured (.foldl (.keep h5) fun _ _ => .setBusy))
  have h12 : Formed P s12 := .dueCommits (.keep (.shadowCommit (.keep h10)))
  split
  · exact .reserveStep (.ite (.updStep h12) h12)
  · exact h12

theorem Ends.execCommitPoint {l} (h : Formed P s) : Ends P (execCommitPoint l s) := by
  refine .next ?_
  split <;> [exact .ite (.quiet h) (.ite (.discardStep (.quiet h)) (.commitStep (.quiet h))); exact .quiet h]

theorem Ends.execReplayLaunch {l} (h : Formed P s) : Ends P (execReplayLaunch l s) := by
  refine .next ?_
  split <;> [exact .ite (.quiet h) (.launchStep (.ite (.quiet h) (.modLoop (.quiet h)))); exact .quiet h]

theorem Formed.restartLoop {who l} (h : Formed P s) : Formed P (restartLoop s who l) := .ite (.modLoop h) h

theorem Ends.execLoopSwitch {l heads} (h : Formed P s) : Ends P (execLoopSwitch l heads s) := by
  refine .next ?_
  split <;> [exact .ite (.quiet h) (.progress (.keep (.modLoop (.modLoop (.quiet h))))); exact .quiet h]

theorem Formed.saveSpad {who c a} (h : Formed P s) : Formed P (saveSpad s who c a) :=
  .foldl (.foldl h fun _ _ => .engineStore) fun _ _ h1 => .engineStore (.free h1)

theorem Formed.loadSpad {who c a} (h : Formed P s) : Formed P (loadSpad s who c a) :=
  .foldl h fun _ _ h1 => .setMem h1 (spadWrite_formOk _ _ _ _ _ h1.1)

theorem Ends.execContextSave (h : Formed P s) : Ends P (execContextSave s) := by
  refine .next ?_
  split
  · exact .quiet h
  · split <;> [exact .progress (.wr (.setCl (.keep (.saveSpad (.quiet h))))); exact .keep (.quiet h)]

theorem Ends.execContextRestore {l} (h : Formed P s) : Ends P (execContextRestore l s) := by
  refine .next ?_
  split
  · exact .quiet h
  · exact .ite (.quiet h) (.modLoop (.foldl (.quiet h) fun _ _ h1 => by split; exacts [h1, .keep (.setCl (.loadSpad h1))]))

theorem Ends.execLoopPreempt {l} (h : Formed P s) : Ends P (execLoopPreempt l s) := by
  refine .next ?_
  split
  · exact .quiet h
  · exact .ite (.quiet h) (.foldl (.quiet h) fun _ _ h1 => .foldl h1 fun _ _ h2 => .ite (.preempt h2) h2)

theorem Formed.evictSome {t} : ∀ {n s}, Formed P s → Formed P (evictSome t n s).1
  | 0, _, h => h
  | n + 1, s, h => by
    refine .iteFst h ?_
    split <;> [exact h; exact Formed.evictSome (.evict h)]

theorem Formed.swapSome {t} : ∀ {n s}, Formed P s → Formed P (swapSome t n s)
  | 0, _, h => h
  | n + 1, s, h => by
    refine .ite h ?_
    split <;> [exact h; exact .ite (Formed.swapSome (.swapPage h)) h]

theorem Formed.quotaBoundary {t} (h : Formed P s) : Formed P (quotaBoundary s t) :=
  .ite (.evictSome h) (.swapSome (.when (.evictSome h) fun h1 => by split; exacts [.startSwapOut (.queueSwap h1), h1]))

theorem Ends.execQuotaStepBoundary {t} (h : Formed P s) : Ends P (execQuotaStepBoundary t s) := .next (.quotaBoundary (.quiet h))

theorem Ends.execTokshareBoundary {t} (h : Formed P s) : Ends P (execTokshareBoundary t s) := .next (.keep (.quiet h))

end Sys2Proof.Machine
end

section
/-! SUPPORT. The memories keep their form, and the queue behind a command stays: reliability, security, power and boot. -/

namespace Sys2Proof.Machine

variable {P : List Instr} {s : State}

/-! Safety -/

theorem Formed.orphan {c} (h : Formed P s) : Formed P (orphan s c) := .keepMem h

theorem Formed.resetCluster {c rank} (h : Formed P s) : Formed P (resetCluster s c rank) :=
  .setCl (.setMem (.orphan h) (clearSpad_formOk _ _ (Formed.form (P := P) (.orphan h))))

theorem Formed.abandonCore {c} (h : Formed P s) : Formed P (abandonCore s c) := .setCl (.wr (by split; exacts [.ite (.flag h) h, h]))

theorem Formed.failStepsOn {c} (h : Formed P s) : Formed P (failStepsOn s c) := .foldl h fun _ _ => .discardStep

theorem Formed.failAllSteps (h : Formed P s) : Formed P (failAllSteps s) := .foldl h fun _ _ => .discardStep

theorem Formed.checkerMismatch {c} (h : Formed P s) : Formed P (checkerMismatch s c) := .abandonCore (.failStepsOn (.keep (.recordUe h)))

theorem Ends.execClusterCheckerMismatch {c} (h : Formed P s) : Ends P (execClusterCheckerMismatch c s) :=
  .next (.checkerMismatch (.quiet h))

theorem Formed.putSpares (h : Formed P s) : Formed P (putSpares s) := .wr (.wr h)

theorem Formed.stopLoopsOn {c} (h : Formed P s) : Formed P (stopLoopsOn s c) :=
  .foldl h fun _ _ h1 => by split; exacts [.flag (.modLoop h1), by dsimp only; split; exacts [.stopLoop (.discardStep h1), .discardStep h1]]

theorem Formed.retireCluster {c} (h : Formed P s) : Formed P (retireCluster s c) := by
  unfold Machine.retireCluster
  dsimp only
  split
  · exact .abandonCore (.failStepsOn (.putSpares (.keep (.flag h))))
  · split
    · exact .stopLoopsOn (.flag (.abandonCore (.failStepsOn (.putSpares (.keep (.flag h))))))
    · exact .keep (.abandonCore (.failStepsOn (.putSpares (.keep (.flag h)))))

theorem Ends.execClusterRetire {c} (h : Formed P s) : Ends P (execClusterRetire c s) := .next (.when (.quiet h) .retireCluster)

theorem Formed.restoreSpad {c off given} (h : Formed P s) : Formed P (restoreSpad s c off given).1 := by
  unfold Machine.restoreSpad
  split
  · exact h
  · split <;> [exact h; exact .flag (.setMem h (spadWrite_formOk _ _ _ _ _ h.1))]

theorem Ends.execFailoverCopyDone {l bad} (h : Formed P s) : Ends P (execFailoverCopyDone l bad s) := by
  refine .next ?_
  split
  · exact .quiet h
  · exact .foldl (.setMem (.quiet h) (moveSpad_formOk _ _ _ (Formed.form (P := P) (.quiet h))))
      fun _ _ h1 =>
        .ite (.restoreSpad (.recordUe h1)) (.setMem (.recordUe h1) (spadWrite_formOk _ _ _ _ _ (Formed.form (P := P) (.recordUe h1))))

theorem Ends.execCheckpoint {stores} (h : Formed P s) : Ends P (execCheckpoint stores s) :=
  .next (.wr64 (.keep (.releaseStores (.quiet h))))

theorem Formed.discardCommits (h : Formed P s) : Formed P (discardCommits s) := .foldl h fun _ _ => .discardStep

theorem Formed.mismatch {pc hub} (h : Formed P s) : Formed P (mismatch s pc hub) :=
  .when (.keep (.discardCommits (.stopLoad (.flag (.recordUe (.ite (.flag h) (.flag h))))))) fun h1 => .keep (.flag h1)

theorem Ends.execLockstepMismatch {pc hub} (h : Formed P s) : Ends P (execLockstepMismatch pc hub s) := .next (.mismatch (.quiet h))

theorem Formed.recovered {start} (h : Formed P s) : Formed P (recovered s start) := .wr (.inc (.flag h))

theorem Formed.releaseDevice (h : Formed P s) : Formed P (releaseDevice s) := by
  unfold Machine.releaseDevice
  split <;> [exact h; exact .ite h (.keep (.wr (.recovered (.keep h))))]

theorem Ends.execHubHeartbeat {die} (h : Formed P s) : Ends P (execHubHeartbeat die s) := .next (.keep (.quiet h))

theorem Formed.loseDie {d} (h : Formed P s) : Formed P (loseDie s d) := .ite h (.failAllSteps (.stopLoad (.keep (.flag (.flag h)))))

theorem Ends.execHeartbeatLoss {die} (h : Formed P s) : Ends P (execHeartbeatLoss die s) := .next (.loseDie (.quiet h))

theorem Formed.refillSpad {c given} (h : Formed P s) : Formed P (refillSpad s c given) :=
  .foldl h fun _ _ h1 => by split; exacts [h1, .restoreSpad h1]

theorem Ends.execDieRecoveryEnd {die sources} (h : Formed P s) : Ends P (execDieRecoveryEnd die sources s) := by
  refine .next ?_
  split
  · exact .quiet h
  · exact .recovered (.wr (.keep (.foldl (.quiet h) fun _ _ h1 => .refillSpad (.resetCluster h1))))

theorem Ends.execDieLinkLostTimeout {die} (h : Formed P s) : Ends P (execDieLinkLostTimeout die s) :=
  .next (by split; exacts [.quiet h, .ite (.quiet h) (.keep (.flag (.quiet h)))])

theorem Ends.execFaultInjection {c u flagged} (h : Formed P s) : Ends P (execFaultInjection c u flagged s) := by
  refine .next (.ite (.quiet h) ?_)
  dsimp only
  split
  · exact .keep (by split; exacts [.keep (.flag (.quiet h)), .flag (.quiet h)])
  · split <;> [exact .keep (.flag (.quiet h)); exact .flag (.quiet h)]

/-! Reliability -/

theorem Formed.loseData {seqs} (h : Formed P s) : Formed P (loseData s seqs) := .foldl (.flag h) fun _ _ => .loseSequence

theorem Formed.rewrite4k {off b} (h : Formed P s) : Formed P (rewrite4k s off b) := .foldl h fun _ _ => .writeLine1

theorem FormedIn.restoreLine {off given} (h : Formed P s) : FormedIn P (restoreLine s off given) := by
  have copied {c : Prop} [Decidable c] {l d p q} : FormedIn P (.some (if c then loseData s l else flag (writeLine1 s off d p) q)) :=
    .some (.ite (.loseData h) (.flag (.writeLine1 h)))
  unfold Machine.restoreLine
  split
  · exact .iteOpt (.map fun _ => .flag (.rewrite4k h)) copied
  · split <;> [exact copied; exact .some (.loseData h)]

theorem Formed.testRow {row} (h : Formed P s) : Formed P (testRow s row) := .keep h

theorem Formed.reread {bad given} (h : Formed P s) : Formed P (reread s bad given) := by
  unfold Machine.reread
  split
  · refine .ite (.releaseWaiting (.keepMem h)) ?_
    dsimp only
    split
    · exact .keepMem (.keepMem h)
    · next e => exact .testRow (.releaseWaiting (.keepMem (FormedIn.restoreLine (.keepMem h) _ e)))
  · exact h

theorem Ends.execRasReread {bad source} (h : Formed P s) : Ends P (execRasReread bad source s) := .next (.reread (.quiet h))

theorem Formed.settleRows {u base rows} (h : Formed P s) : Formed P (settleRows s u base rows) := .foldl (.keep h) fun _ _ => .testRow

theorem Formed.makeRepairRoom {owner n code} (h : Formed P s) : Formed P (makeRepairRoom s owner n code) := by
  unfold Machine.makeRepairRoom
  split
  · exact h
  · exact .ite h (by split; exacts [.evict h, by split; exacts [.queueSwap h, .ite h (.park h)]])

theorem Formed.repairPage {lost} (h : Formed P s) : Formed P (repairPage s lost) := by
  unfold Machine.repairPage
  split
  · dsimp only
    split
    · exact .testRow (.keep h)
    · split
      · exact .testRow (.keep h)
      · refine .ite (.settleRows (.loseData h)) ?_
        split
        · exact .makeRepairRoom h
        · split
          · exact .foldl h fun _ _ => .setFrameRow
          · next e => exact .settleRows (.flag (FormedIn.moveFrameIn (.foldl h fun _ _ => .setFrameRow) _ e))
  · exact h

theorem Ends.execPageRepair {lost} (h : Formed P s) : Ends P (execPageRepair lost s) := .next (.repairPage (.quiet h))

theorem Formed.putRows (h : Formed P s) : Formed P (putRows s) := .wr (.wr h)

theorem Formed.retireRow {n} (h : Formed P s) : Formed P (retireRow s n) := .ite (.keep h) (.putRows (.keep (.when (.flag h) .inc)))

theorem Ends.execRowTest {fails} (h : Formed P s) : Ends P (execRowTest fails s) := by
  refine .next ?_
  split
  · exact .quiet h
  · refine .ite (.keep (.quiet h)) (.ite ?_ (.retireRow (.keep (.quiet h))))
    split
    · split
      · next e => exact .retireRow (.keep (FormedIn.moveFrame (.quiet h) _ e))
      · exact .quiet h
    · exact .retireRow (.keep (.quiet h))

theorem Formed.checkLine {off ecc} (h : Formed P s) : Formed P (checkLine s off ecc).1 := by
  unfold Machine.checkLine
  split <;> [exact h; exact .iteFst (.when (.fetchLine h) fun h1 => .keep h1) h]

theorem Formed.checkRow {n ecc} (h : Formed P s) : Formed P (checkRow s n ecc).1 :=
  .iteFst h (by split; exacts [h, .rowCorrected (.recordCe h), .keep (.recordUe h)])

theorem Ends.execPatrolRead {row addr ecc} (h : Formed P s) : Ends P (execPatrolRead row addr ecc s) :=
  .next (.ite (.checkRow (.quiet h)) (.checkLine (.quiet h)))

theorem Formed.endScrub {st err} (h : Formed P s) : Formed P (endScrub s st err) := .wr (.wr (.flag (.keep h)))

theorem Formed.scrubProgress {pos} (h : Formed P s) : Formed P (scrubProgress s pos) := .ite (.progress h) (.progress h)

theorem Formed.scrubCtrl {who start abort} (h : Formed P s) : Formed P (scrubCtrl s who start abort) :=
  .ite h
    (.ite (.ite (.endScrub h) h)
      (.ite h
        (.ite (.wr h)
          (.ite (.endScrub (.progress (.wr64 (.wr64 (.wr (.wr (.wr h)))))))
            (.keep (.wr (.wr (.progress (.wr64 (.wr64 (.wr (.wr (.wr h)))))))))))))

theorem Formed.scrubStep {ecc} (h : Formed P s) : Formed P (scrubStep s ecc) := by
  unfold Machine.scrubStep
  split
  · exact h
  · dsimp only
    split
    · exact .endScrub (.scrubProgress h)
    · exact .when
        (.scrubProgress (.keep (.when
          (.when (.when (.iteFst (.checkLine h) (.checkRow h)) .inc) fun h3 => .inc (.wr64 (.ite (.wr64 h3) h3))) fun h2 => .keep h2)))
        .endScrub

theorem Ends.execScrubRead {ecc} (h : Formed P s) : Ends P (execScrubRead ecc s) := .next (.scrubStep (.quiet h))

theorem Formed.regionSelect {who i} (h : Formed P s) : Formed P (regionSelect s who i) := .ite h (.wr64 (.wr64 (.wr64 (.wr h))))

theorem Formed.regionCommit {who kind} (h : Formed P s) : Formed P (regionCommit s who kind) :=
  .ite h (.ite (.keepMem (.wr h)) (.flag (.wr h)))

theorem Ends.execUnitRetire {u} (h : Formed P s) : Ends P (execUnitRetire u s) :=
  .next (.ite (.quiet h) (.when (.clearPair (.keep (.quiet h))) fun h1 => .flag (.keep h1)))

/-! Self-test -/

theorem Formed.setLast {k result} (h : Formed P s) : Formed P (setLast s k result) := .wr (.wr (.wr h))

theorem Formed.refuseTest {k code} (h : Formed P s) : Formed P (refuseTest s k code) := .keep (.setLast (.flag (.wr h)))

theorem Formed.setTests {ts} (h : Formed P s) : Formed P (setTests s ts) := .wr (.keep h)

theorem Formed.bstProgress {done total} (h : Formed P s) : Formed P (bstProgress s done total) := .progress h

theorem Formed.beginTest {c cons} (h : Formed P s) : Formed P (beginTest s c cons) := .bstProgress (.wr (.setTests (.keep h)))

theorem Formed.moveRegs {a b} (h : Formed P s) : Formed P (moveRegs s a b) := .keep (.foldl (.keep h) fun _ _ h1 => .keep h1)

theorem Formed.moveVia {a b} (h : Formed P s) : Formed P (moveVia s a b) := .keep h

theorem Formed.swapOutCluster {c n l} (h : Formed P s) : Formed P (swapOutCluster s c n l) :=
  .keep (.moveVia (.wr (.setCl (.setCl (.moveRegs (.setMem h (moveSpad_formOk _ _ _ h.1)))))))

theorem Formed.holdLoops {ls} (h : Formed P s) : Formed P (holdLoops s ls) := .ite h (.flag (.keep h))

theorem Formed.startCluster {c} (h : Formed P s) : Formed P (startCluster s c) := by
  unfold Machine.startCluster
  dsimp only
  split
  · split
    · exact .ite (.beginTest (.swapOutCluster h)) (.preempt h)
    · exact .when (.holdLoops h) .beginTest
  · exact .ite (.beginTest h) h

theorem Formed.rotationSlot {d volts locked} (h : Formed P s) : Formed P (rotationSlot s d volts locked) :=
  .ite h (by split; exacts [h, .ite (.refuseTest h) (.startCluster h)])

theorem Ends.execRotationSlot {die volts locked} (h : Formed P s) : Ends P (execRotationSlot die volts locked s) :=
  .next (.rotationSlot (.quiet h))

theorem Formed.failStepsCons {cons} (h : Formed P s) : Formed P (failStepsCons s cons) := .foldl h fun _ _ => .discardStep

theorem Formed.domainFails {k} (h : Formed P s) : Formed P (domainFails s k) := .inc (.flag (.setLast h))

theorem Formed.domainPasses {t key} (h : Formed P s) : Formed P (domainPasses s t key) := .when (.keep (.setLast h)) .flag

theorem Formed.clusterTestEnd {c ok} (h : Formed P s) : Formed P (clusterTestEnd s c ok) := by
  unfold Machine.clusterTestEnd
  split
  · exact h
  · exact .ite (.bstProgress (.setTests h))
      (.ite (.domainPasses (.keep (.setCl (.resetCluster (.wr (.keep (.bstProgress (.wr (.setTests h)))))))))
        (.failStepsCons (.domainFails (.keep (.wr (.keep (.bstProgress (.wr (.setTests h)))))))))

theorem Ends.execClusterTestEnd {c ok} (h : Formed P s) : Ends P (execClusterTestEnd c ok s) := .next (.clusterTestEnd (.quiet h))

theorem Formed.startUnit {n u} (h : Formed P s) : Formed P (startUnit s n u) := .bstProgress (.setTests (.keep (.flushWhere h)))

theorem Formed.unitSlot {n volts locked} (h : Formed P s) : Formed P (unitSlot s n volts locked) :=
  .ite h (by split; exacts [h, .ite (.refuseTest h) (.startUnit h)])

theorem Ends.execUnitTestSlot {stack volts locked} (h : Formed P s) : Ends P (execUnitTestSlot stack volts locked s) :=
  .next (.unitSlot (.quiet h))

theorem Formed.unitTestEnd {n u ok} (h : Formed P s) : Formed P (unitTestEnd s n u ok) := by
  unfold Machine.unitTestEnd
  split
  · exact h
  · exact .ite h
      (.ite (.bstProgress (.setTests h))
        (.ite (.domainPasses (.keep (.modStk (.bstProgress (.setTests h))))) (.domainFails (.keep (.modStk (.bstProgress (.setTests h)))))))

theorem Ends.execUnitTestEnd {u ok} (h : Formed P s) : Ends P (execUnitTestEnd u ok s) := .next (.unitTestEnd (.quiet h))

theorem Ends.execTestRefusalRetry {volts locked} (h : Formed P s) : Ends P (execTestRefusalRetry volts locked s) := by
  refine .next ?_
  split
  · exact .quiet h
  · refine .ite (.quiet h) ?_
    dsimp only
    split
    · exact .ite (.keep (.quiet h)) (.ite (.refuseTest (.keep (.quiet h))) (.startCluster (.keep (.quiet h))))
    · exact .ite (.keep (.quiet h)) (.ite (.refuseTest (.keep (.quiet h))) (.startUnit (.keep (.quiet h))))
    · exact .keep (.quiet h)

theorem Ends.execBstHoldExpiry (h : Formed P s) : Ends P (execBstHoldExpiry s) := .next (.wr (.quiet h))

theorem Ends.execBehindCheck (h : Formed P s) : Ends P (execBehindCheck s) := .next (.when (.quiet h) .flag)

theorem Formed.dirStart {who w volts locked} (h : Formed P s) : Formed P (dirStart s who w volts locked) :=
  .ite h
    (.ite (.flag h)
      (.ite (.wr (.wr (.wr h)))
        (.ite (.refuseTest (.wr (.wr (.wr h))))
          (.setLast (.bstProgress (.wr64 (.ite (.resetCluster (.wr (.wr (.wr h)))) (.when (.wr (.wr (.wr h))) .modStk))))))))

/-! Security -/

theorem Formed.zeroKeys (h : Formed P s) : Formed P (zeroKeys s) := .keep h

theorem Formed.zeroLinks (h : Formed P s) : Formed P (zeroLinks s) := .foldl h fun _ _ => .portDown

theorem Ends.execTesterProvisioning (h : Formed P s) : Ends P (execTesterProvisioning s) := .next (.when (.quiet h) fun h1 => .keep h1)

theorem Ends.execSealingCommand (h : Formed P s) : Ends P (execSealingCommand s) := .next (.when (.quiet h) fun h1 => .keep h1)

theorem Ends.execUnlockToken {serial target count slot block} (h :
    Formed P s) : Ends P (execUnlockToken serial target count slot block s) :=
  .next (.ite (.keep (.wr (.zeroKeys (.quiet h)))) (.secFail (.quiet h)))

theorem Ends.execReturnToken {serial target count slot block} (h :
    Formed P s) : Ends P (execReturnToken serial target count slot block s) :=
  .next (.ite (.keep (.zeroLinks (.zeroKeys (.quiet h)))) (.secFail (.quiet h)))

theorem Ends.execDefunctCommand (h : Formed P s) : Ends P (execDefunctCommand s) := .next (.when (.quiet h) fun h1 => .keep h1)

theorem Formed.raiseFloor {who hi} (h : Formed P s) : Formed P (raiseFloor s who hi) := .ite (.wr64 (.keep h)) h

theorem Formed.putKey {t k} (h : Formed P s) : Formed P (putKey s t k) := .keep h

theorem Formed.keyOp {who op} (h : Formed P s) : Formed P (keyOp s who op) :=
  .ite h (.ite (.ite (.flag h) (.putKey (.keep h))) (.ite (.putKey h) h))

theorem Formed.alarmTwo {aff} (h : Formed P s) : Formed P (alarmTwo s aff) := by
  refine .foldl ?_ fun _ _ h1 => .ite (.swapInFails h1) h1
  split <;> [exact .when (.keep h) .endSwap; exact .keep h]

theorem Formed.alarmThree (h : Formed P s) : Formed P (alarmThree s) := .stopLoad (.flag (.keep (.zeroLinks (.zeroKeys h))))

theorem Formed.raiseAlarm {src die} (h : Formed P s) : Formed P (raiseAlarm s src die) :=
  .ite h (.ite (.alarmTwo (.when (.wr (.flag h)) fun h1 => .keep h1)) (.when (.when (.wr (.flag h)) fun h2 => .keep h2) .alarmThree))

theorem Ends.execAlarmRaise {src die} (h : Formed P s) : Ends P (execAlarmRaise src die s) := .next (.raiseAlarm (.quiet h))

theorem Formed.alarmCleared (h : Formed P s) : Formed P (alarmCleared s) := .ite h (.keep (.wr h))

theorem Formed.spdmError (h : Formed P s) : Formed P (spdmError s) := .emit h

theorem Formed.answerIf {ok code body} (h : Formed P s) : Formed P (answerIf s ok code body) := .ite (.emit h) (.spdmError h)

theorem Ends.execGetVersion (h : Formed P s) : Ends P (execGetVersion s) := .next (.answerIf (.quiet h))

theorem Ends.execGetCapabilities (h : Formed P s) : Ends P (execGetCapabilities s) := .next (.answerIf (.quiet h))

theorem Ends.execNegotiateAlgorithms {offer} (h : Formed P s) : Ends P (execNegotiateAlgorithms offer s) :=
  .next (.ite (.emit (.keep (.quiet h))) (.spdmError (.quiet h)))

theorem Ends.execGetDigests (h : Formed P s) : Ends P (execGetDigests s) := .next (.answerIf (.quiet h))

theorem Ends.execGetCertificate {slot off len} (h : Formed P s) : Ends P (execGetCertificate slot off len s) := .next (.answerIf (.quiet h))

theorem Formed.spdmFail {tenant} (h : Formed P s) : Formed P (spdmFail s tenant) := .spdmError (.secFail h)

theorem Ends.execChallenge {nonce ok} (h : Formed P s) : Ends P (execChallenge nonce ok s) :=
  .next (.ite (.spdmError (.quiet h)) (.ite (.spdmFail (.quiet h)) (.emit (.quiet h))))

theorem Ends.execGetMeasurements {index} (h : Formed P s) : Ends P (execGetMeasurements index s) :=
  .next (.ite (.answerIf (.quiet h)) (.ite (.answerIf (.quiet h)) (.answerIf (.quiet h))))

theorem Ends.execKeyExchange {ok} (h : Formed P s) : Ends P (execKeyExchange ok s) :=
  .next (.ite (.spdmError (.quiet h)) (.ite (.spdmFail (.quiet h)) (.emit (.keep (.quiet h)))))

theorem Formed.putSession {x} (h : Formed P s) : Formed P (putSession s x) := .keep h

theorem Formed.dropSession {id} (h : Formed P s) : Formed P (dropSession s id) := .keep h

theorem Ends.execFinish {id owner ok} (h : Formed P s) : Ends P (execFinish id owner ok s) := by
  refine .next ?_
  split
  · exact .spdmError (.quiet h)
  · exact .ite (.spdmError (.quiet h)) (.ite (.spdmFail (.dropSession (.quiet h))) (.emit (.putSession (.quiet h))))

theorem Formed.inSession {id f} (h : Formed P s) (hf : ∀ x, Formed P (f x)) : Formed P (inSession s id f) := by
  unfold Machine.inSession
  split <;> [exact .ite (hf _) (.spdmError h); exact .spdmError h]

theorem Ends.execKeyUpdate {id} (h : Formed P s) : Ends P (execKeyUpdate id s) :=
  .next (.inSession (.quiet h) fun _ => .emit (.putSession (.quiet h)))

theorem Ends.execSpdmHeartbeat {id} (h : Formed P s) : Ends P (execSpdmHeartbeat id s) :=
  .next (.inSession (.quiet h) fun _ => .emit (.quiet h))

theorem Ends.execEndSession {id} (h : Formed P s) : Ends P (execEndSession id s) :=
  .next (.inSession (.quiet h) fun _ => .emit (.dropSession (.quiet h)))

theorem Formed.importFails {t} (h : Formed P s) : Formed P (importFails s t) := .spdmFail (.flag h)

theorem Ends.execImportKey {id t key} (h : Formed P s) : Ends P (execImportKey id t key s) := by
  refine .next ?_
  split
  · exact .importFails (.quiet h)
  · exact .ite (.importFails (.quiet h)) (.emit (.putKey (.putSession (.quiet h))))

/-! Power -/

theorem Formed.completeReq {state result refuser} (h : Formed P s) : Formed P (completeReq s state result refuser) := .wr (.wr (.wr h))

theorem Formed.pwrReq {who state save kind index} (h : Formed P s) : Formed P (pwrReq s who state save kind index) :=
  .ite (.completeReq h) (.keep h)

theorem Formed.recordRefusal {r doms code aborted} (h : Formed P s) : Formed P (recordRefusal s r doms code aborted) :=
  .completeReq (.flag (.storeTrace (.wr (.wr (.wr (.wr (.wr (.inc h))))))))

theorem Formed.setPwrRun {r} (h : Formed P s) : Formed P (setPwrRun s r) := .wr (.keep h)

theorem Formed.setCluPwr {c st} (h : Formed P s) : Formed P (setCluPwr s c st) := .wr h

theorem Formed.abortRun {r} (h : Formed P s) : Formed P (abortRun s r) :=
  .recordRefusal (.setPwrRun (.keep (.foldl h fun _ _ h1 => .ite (.setCluPwr h1) h1)))

theorem Formed.abortIfBusy (h : Formed P s) : Formed P (abortIfBusy s) := by
  unfold Machine.abortIfBusy
  split <;> [exact h; exact .ite (.abortRun h) h]

theorem Formed.startWake {r doms} (h : Formed P s) : Formed P (startWake s r doms) :=
  .foldl (.setPwrRun h) fun _ _ h1 => .ite (.ite (.keep (.setCluPwr h1)) (.keep (.setCluPwr h1))) (.keep h1)

theorem Formed.startEntry {r doms} (h : Formed P s) : Formed P (startEntry s r doms) :=
  .when (.foldl (.setPwrRun h) fun _ _ h1 => .ite (.setCluPwr h1) h1) fun h2 => .ite (.progress h2) (.keep h2)

theorem Formed.applyReq {flushed} (h : Formed P s) : Formed P (applyReq s flushed) := by
  unfold Machine.applyReq
  split
  · exact .ite (.completeReq (.keep h))
      (.ite (.ite (.completeReq (.keep h)) (.startWake (.keep h)))
        (.ite (.completeReq (.keep h)) (.ite (.recordRefusal (.keep h)) (.startEntry (.keep h)))))
  · exact h

theorem Ends.execPwrReqApply {flushed} (h : Formed P s) : Ends P (execPwrReqApply flushed s) :=
  .next (.ite (.abortIfBusy (.quiet h)) (.applyReq (.quiet h)))

theorem Ends.execNightSaveDone {c} (h : Formed P s) : Ends P (execNightSaveDone c s) := by
  refine .next ?_
  split
  · exact .abortIfBusy (.quiet h)
  · exact .ite (.abortIfBusy (.quiet h)) (.progress (.flag (.keep (.saveSpad (.abortIfBusy (.quiet h))))))

theorem Ends.execWakeWindow (h : Formed P s) : Ends P (execWakeWindow s) := .next (.keep (.abortIfBusy (.quiet h)))

theorem Formed.domainDone {r kind index} (h : Formed P s) : Formed P (domainDone s r kind index) :=
  .when (.setPwrRun h) fun h1 => .completeReq h1

theorem Formed.clusterDown {r c time} (h : Formed P s) : Formed P (clusterDown s r c time) :=
  .wr (.setCluPwr (.ite (.keep (.storeTrace (.flushTrace h))) (.resetCluster (.storeTrace (.flushTrace h)))))

theorem Formed.enterStandby (h : Formed P s) : Formed P (enterStandby s) := by
  unfold Machine.enterStandby
  extract_lets s1 s2 s3 s4 s5 s6 active hold s7
  have h3 : Formed P s3 := .ite (.endScrub (.zfillStop (.flushAll h))) (.zfillStop (.flushAll h))
  have h4 : Formed P s4 := .ite (.flag (.wr h3)) h3
  have h6 : Formed P s6 := .flushSlices (.foldl h4 fun _ _ h5 => .foldl h5 fun _ _ => .performOldest)
  exact .storeTrace (.wr (.wr (.setMem h6 (Memory.formOk_noSpad h6.1))))

theorem Formed.entryDone {kind index} (h : Formed P s) : Formed P (entryDone s kind index) := by
  unfold Machine.entryDone
  dsimp only
  split
  · exact .abortIfBusy h
  · exact .ite (.abortIfBusy h)
      (.ite (.ite (.abortIfBusy h) (.domainDone (.clusterDown (.abortIfBusy h))))
        (.ite (.domainDone (.storeTrace (.keep (.abortIfBusy h))))
          (.ite (.domainDone (.storeTrace (.keep (.abortIfBusy h)))) (.domainDone (.enterStandby (.abortIfBusy h))))))

theorem Ends.execDomainEntryDone {kind index} (h : Formed P s) : Ends P (execDomainEntryDone kind index s) := .next (.entryDone (.quiet h))

theorem Formed.loseHistory {c} (h : Formed P s) : Formed P (loseHistory s c) := .keep h

theorem Formed.clusterUp {c} (h : Formed P s) : Formed P (clusterUp s c) := by
  refine .storeTrace (.when (.when (.keep ?_) fun h2 => .keep (.resetCluster h2)) .loseHistory)
  split
  · exact .when (.wr (.setCluPwr h)) fun h3 => .progress (.setCl (.loadSpad h3))
  · exact .wr (.setCluPwr h)

theorem Formed.partUp (h : Formed P s) : Formed P (partUp s) :=
  .irqUpdate (.releaseWaiting (.storeTrace (.foldl (.flag (.wr (.keep h))) fun _ _ h1 => .ite (.setPortState h1) h1)))

theorem Formed.wakeDone {kind index} (h : Formed P s) : Formed P (wakeDone s kind index) := by
  refine .ite h ?_
  dsimp only
  split
  · exact .when
      (.ite (.clusterUp (.keep h))
        (.ite (.releaseWaiting (.storeTrace (.keep (.keep h))))
          (.ite (.storeTrace (.when (.keep (.keep h)) fun h2 => .inc (.setPortState h2))) (.partUp (.keep h)))))
      .domainDone
  · exact .ite (.clusterUp (.keep h))
      (.ite (.releaseWaiting (.storeTrace (.keep (.keep h))))
        (.ite (.storeTrace (.when (.keep (.keep h)) fun h1 => .inc (.setPortState h1))) (.partUp (.keep h))))

theorem Ends.execDomainWakeDone {kind index} (h : Formed P s) : Ends P (execDomainWakeDone kind index s) := .next (.wakeDone (.quiet h))

theorem Ends.execStandbyWake {i3c} (h : Formed P s) : Ends P (execStandbyWake i3c s) := .next (.when (.quiet h) fun h1 => .keep h1)

theorem Ends.execStackDemandWake {stack} (h : Formed P s) : Ends P (execStackDemandWake stack s) :=
  .next (.when (.quiet h) fun h1 => .keep h1)

/-! Thermal -/

theorem Formed.setAvs {r a} (h : Formed P s) : Formed P (setAvs s r a) := .keep h

theorem Formed.railBit {f r on} (h : Formed P s) : Formed P (railBit s f r on) := .wr h

theorem Formed.avsWrite {r mv} (h : Formed P s) : Formed P (avsWrite s r mv) := .emit h

theorem Ends.execAvsRequest {rail mv} (h : Formed P s) : Ends P (execAvsRequest rail mv s) :=
  .next (.ite (.quiet h) (.avsWrite (.railBit (.setAvs (.quiet h)))))

theorem Ends.execAvsPoll {rail mv} (h : Formed P s) : Ends P (execAvsPoll rail mv s) :=
  .next (.when (.quiet h) fun h1 => .railBit (.setAvs h1))

theorem Ends.execAvsRetry {rail} (h : Formed P s) : Ends P (execAvsRetry rail s) :=
  .next (.ite (.quiet h) (.ite (.avsWrite (.setAvs (.quiet h))) (.inc (.flag (.railBit (.railBit (.avsWrite (.setAvs (.quiet h)))))))))

theorem Ends.execAvsSuspendEnd {rail} (h : Formed P s) : Ends P (execAvsSuspendEnd rail s) :=
  .next (.when (.quiet h) fun h1 => .railBit (.setAvs h1))

theorem Formed.applyLevel {d} (h : Formed P s) : Formed P (applyLevel s d) := .ite (.wr (.wr h)) (.modStk (.wr (.wr h)))

theorem Formed.applyLevels (h : Formed P s) : Formed P (applyLevels s) := .foldl h fun _ _ => .applyLevel

theorem Formed.setGrant {d demand grant} (h : Formed P s) : Formed P (setGrant s d demand grant) := by
  unfold Machine.setGrant
  dsimp only
  split <;> [exact .wr (.wr h); exact .flag (.wr (.wr h))]

theorem Formed.conWindow {k mw} (h : Formed P s) : Formed P (conWindow s k mw) := .keep h

theorem Formed.window {raw cons} (h : Formed P s) : Formed P (window s raw cons) :=
  .applyLevels (.foldl (.wr (.keep (.wr (.foldl (.foldl (.keep (.ite (.keep h) h)) fun _ _ => .setGrant) fun _ _ => .wr))))
    fun _ _ => .conWindow)

theorem Ends.execArbitrationWindow {raw cons} (h : Formed P s) : Ends P (execArbitrationWindow raw cons s) :=
  .next (.ite (.quiet h) (.window (.quiet h)))

theorem Formed.correct {r tele} (h : Formed P s) : Formed P (correct s r tele) := .ite h (.keep h)

theorem Ends.execCoeffCorrection {tele} (h : Formed P s) : Ends P (execCoeffCorrection tele s) :=
  .next (.foldl (.quiet h) fun _ _ h1 => .ite (.correct h1) h1)

theorem Formed.writeLimit {who w} (h : Formed P s) : Formed P (writeLimit s who w) := .ite h (.keep (.wr h))

theorem Formed.compareSensor {i diff} (h : Formed P s) : Formed P (compareSensor s i diff) :=
  .ite (.keep h) (.ite (.flag (.wr (.keep h))) (.ite (.flag (.wr (.keep h))) (.when (.keep h) .wr)))

theorem Formed.thermStep {d} (h : Formed P s) : Formed P (thermStep s d) := .applyLevel (.when (.wr h) .flag)

theorem Formed.sample {i diode ring} (h : Formed P s) : Formed P (sample s i diode ring) :=
  .applyLevels (.foldl (.when (.keep (.wr (.wr (.wr (.wr (.compareSensor h)))))) .flag) fun _ _ => .thermStep)

theorem Ends.execTempSample {die diode ring} (h : Formed P s) : Ends P (execTempSample die diode ring s) := .next (.sample (.quiet h))

/-! Clocks, resets and boot -/

theorem Ends.execMerPpsEdge (h : Formed P s) : Ends P (execMerPpsEdge s) := .next (.when (.quiet h) fun h1 => .keep (.flag (.wr64 h1)))

theorem Ends.execPpsLost (h : Formed P s) : Ends P (execPpsLost s) := .next (.when (.quiet h) fun h1 => .keep (.flag h1))

theorem Ends.execMer10mAbsent {absent} (h : Formed P s) : Ends P (execMer10mAbsent absent s) := .next (.keep (.quiet h))

theorem Formed.setTracks {a b} (h : Formed P s) : Formed P (setTracks s a b) := .wr (.wr (.keep h))

theorem Formed.windowEnd {a b} (h : Formed P s) : Formed P (windowEnd s a b) := .ite h (.when (.wr (.wr (.setTracks h))) .flag)

theorem Ends.execRefWindowEnd {a b} (h : Formed P s) : Ends P (execRefWindowEnd a b s) := .next (.windowEnd (.quiet h))

theorem Ends.execRefAbsent {ref absent} (h : Formed P s) : Ends P (execRefAbsent ref absent s) :=
  .next (.ite (.setTracks (.quiet h)) (.setTracks (.quiet h)))

theorem Formed.setActive {src event} (h : Formed P s) : Formed P (setActive s src event) := .flag (.wr h)

theorem Formed.holdOn (h : Formed P s) : Formed P (holdOn s) := .flag (.setActive h)

theorem Formed.holdOff {src} (h : Formed P s) : Formed P (holdOff s src) := .setActive (.wr h)

theorem Formed.refSwitch (h : Formed P s) : Formed P (refSwitch s) :=
  .ite h
    (.ite (.ite (.ite h (.holdOff h)) (.ite (.holdOn h) (.ite (.setActive h) (.ite (.setActive h) h))))
      (.ite (.ite h (.holdOff h)) (.ite (.holdOn h) (.ite h (.setActive h)))))

theorem Ends.execRefSwitch (h : Formed P s) : Ends P (execRefSwitch s) := .next (.refSwitch (.quiet h))

theorem Formed.dropEntry {e} (h : Formed P s) : Formed P (dropEntry s e) := by
  unfold Machine.dropEntry
  dsimp only
  split <;> [exact .reply (.recordXstat (.inc h)); exact .reply (.free (.inc h)); exact .inc h]

theorem Ends.execFifoResync {entries} (h : Formed P s) : Ends P (execFifoResync entries s) :=
  .next (.ite (.quiet h) (.flag (.foldl (.quiet h) fun _ _ => .dropEntry)))

theorem Formed.rebuildPart {rank} (h : Formed P s) : Formed P (rebuildPart s rank) := by
  have h1 : Formed P { State.reset with pending := s.pending } := ⟨Memory.formOk_reset, h.2⟩
  exact .ite (.flag (.wr (.putRows (.putSpares (.setTracks (.keep h1)))))) (.wr (.putRows (.putSpares (.setTracks (.keep h1)))))

theorem Ends.execPorst {low taken bootSrc} (h : Formed P s) : Ends P (execPorst low taken bootSrc s) :=
  .next (.when (.quiet h) fun h1 => .keep (.rebuildPart h1))

theorem Formed.resetRefused (h : Formed P s) : Formed P (resetRefused s) := .flag h

theorem Formed.deviceReset {who} (h : Formed P s) : Formed P (deviceReset s who) := .ite (.resetRefused h) (.ite h (.flag (.rebuildPart h)))

theorem Formed.leaveEntry {r c} (h : Formed P s) : Formed P (leaveEntry s r c) :=
  .ite (.abortRun h) (.domainDone (.setCluPwr (.keep (.recordRefusal h))))

theorem Formed.settleEntry {c} (h : Formed P s) : Formed P (settleEntry s c) := by
  unfold Machine.settleEntry
  split <;> [exact h; exact .ite (.ite (.domainDone (.clusterDown h)) (.leaveEntry h)) h]

theorem Formed.resetLeaf {c rank} (h : Formed P s) : Formed P (resetLeaf s c rank) :=
  .ite (.loseHistory (.resetCluster (.settleEntry h)))
    (.ite (.keep (.setCluPwr (.keep (.wr (.settleEntry h))))) (.when (.keep (.wr (.settleEntry h))) fun h1 => .keep (.setCluPwr h1)))

theorem Formed.acceptReset {kind} (h : Formed P s) : Formed P (acceptReset s kind) := .wr h

theorem Formed.clusterReset {who c} (h : Formed P s) : Formed P (clusterReset s who c) :=
  .ite (.resetRefused h) (.ite h (.resetLeaf (.acceptReset h)))

theorem Formed.partitionReset {who k} (h : Formed P s) : Formed P (partitionReset s who k) :=
  .ite (.resetRefused h) (.ite h (.keep (.foldl (.foldl (.acceptReset h) fun _ _ => .discardWith) fun _ _ => .resetLeaf)))

theorem Formed.portReset {who p} (h : Formed P s) : Formed P (portReset s who p) :=
  .ite (.resetRefused h) (.ite h (.keep (.setFport (.loseLink (.keep (.keep (.acceptReset h)))))))

theorem Formed.ckrRst {who w} (h : Formed P s) : Formed P (ckrRst s who w) :=
  .ite (.deviceReset h) (.ite (.partitionReset h) (.ite (.clusterReset h) (.ite (.portReset h) h)))

theorem Formed.bootFail {code} (h : Formed P s) : Formed P (bootFail s code) := .keep (.wr h)

theorem Formed.nextPhase {n} (h : Formed P s) : Formed P (nextPhase s n) := .wr h

theorem Formed.pickRef (h : Formed P s) : Formed P (pickRef s) := .ite (.wr h) (.ite (.wr h) (.flag (.wr h)))

theorem Formed.bootFirmware {r} (h : Formed P s) : Formed P (bootFirmware s r) := by
  unfold Machine.bootFirmware
  split <;> [exact .bootFail h; exact .keep (.wr64 (.wr (.wr (.flag h))))]

theorem Formed.bootTrain {r} (h : Formed P s) : Formed P (bootTrain s r) := .ite (.bootFail h) (.keep (.progress (.wr h)))

theorem Formed.bootBadUnit {u} (h : Formed P s) : Formed P (bootBadUnit s u) := .domainFails (.flag (.keep h))

theorem Formed.bootBadCluster {c} (h : Formed P s) : Formed P (bootBadCluster s c) := .domainFails (.flag (.keep h))

theorem Formed.bootLoad {r} (h : Formed P s) : Formed P (bootLoad s r) := .imgRelease (.imgSwitch (.verifyBytes (.wr (.keep h))))

theorem Formed.becomeReady (h : Formed P s) : Formed P (becomeReady s) := .flag (.flag (.wr (.keep h)))

theorem Formed.bootPhaseEnd {r} (h : Formed P s) : Formed P (bootPhaseEnd s r) := by
  have go {n t} (ht : Formed P t) : Formed P (if rd t Fld.CKR_BOOT_FAIL ≠ 0 then t else Machine.nextPhase t n) := .ite ht (.nextPhase ht)
  have bad {k t} (ht : Formed P t) :
      Formed P (if !r.conditions then Machine.bootFail s 3 else if !r.groupsOk then Machine.bootFail s k else t) :=
    .ite (.bootFail h) (.ite (.bootFail h) ht)
  refine .ite h ?_
  dsimp only
  split
  · exact go (.pickRef h)
  · exact go (.bootFirmware h)
  · exact bad (.nextPhase h)
  · exact .nextPhase h
  · exact .nextPhase (.keep h)
  · exact go (.bootTrain h)
  · exact bad (.nextPhase (.foldl h fun _ _ => .bootBadUnit))
  · refine .ite (.bootFail h) ?_
    have h1 : Formed P (Machine.putSpares (r.badClusters.foldl Machine.bootBadCluster s)) :=
      .putSpares (.foldl h fun _ _ => .bootBadCluster)
    have h2 {poison} := Memory.formOk_cleared (poison := poison) h1.1
    exact .ite (.bootFail (h1.setMem h2)) (.nextPhase (h1.setMem h2))
  · exact .ite (.becomeReady (.bootLoad h)) (.bootFail (.bootLoad h))

theorem Ends.execBootPhaseEnd {report} (h : Formed P s) : Ends P (execBootPhaseEnd report s) := .next (.bootPhaseEnd (.quiet h))

theorem Formed.trainSave {who} (h : Formed P s) : Formed P (trainSave s who) := .ite h (.keep h)

end Sys2Proof.Machine
end

section
/-! SUPPORT. The memories keep their form, and the queue behind a command stays: registers, host ports and wide words. -/

namespace Sys2Proof.Machine

variable {P : List Instr} {s : State}

/-! Register reads -/

theorem Formed.readReg {who off} (h : Formed P s) : Formed P (readReg s who off).1 := by
  unfold Machine.readReg
  refine .iteFst h ?_
  split
  · exact h
  · exact .claim h
  · refine .iteFst ?_ (.iteFst (.keep h) (.iteFst h (.keep h)))
    split <;> [exact h; exact .free (w := 32) h]

theorem Formed.readHalf {who off} (h : Formed P s) : Formed P (readHalf s who off).1 := by
  unfold Machine.readHalf
  split <;> [exact .readReg h; exact h]

theorem Formed.noteOffending {who off wide} (h : Formed P s) : Formed P (noteOffending s who off wide) := by
  unfold Machine.noteOffending
  split <;> [exact .recordOffending h; exact h]

theorem FormedIn.mmioGate {who off write wide value} (h : Formed P s) : FormedIn P (mmioGate s who off write wide value) :=
  .iteOpt (.some (.reply h)) (.iteOpt (.some (.reply (.keep h))) (.iteOpt (.some (.reply (.recordXstat h))) .none))

theorem Formed.mmioRead {who off wide} (h : Formed P s) : Formed P (mmioRead s who off wide) := by
  unfold Machine.mmioRead
  split
  · next e => exact FormedIn.mmioGate h _ e
  · have h1 := h.noteOffending (who := who) (off := off) (wide := wide)
    exact .ite (.reply (.keep h))
      (.ite (.ite (.reply h1) (.ite (.reply (.readReg h1)) (.reply (.readHalf (.readHalf h1))))) (.reply (.readHalf h1)))

/-! Register writes -/

theorem Formed.plainWrite {off v} (h : Formed P s) : Formed P (plainWrite s off v) := .irqForget (.keep h)

theorem Formed.writeIf {may off v} (h : Formed P s) : Formed P (writeIf s may off v) := .ite (.plainWrite h) h

theorem Formed.keepWo {off v} (h : Formed P s) : Formed P (keepWo s off v) := .keep h

theorem Formed.writeHub {who off v} (h : Formed P s) : Formed P (writeHub s who off v) :=
  .ite (.zfillCtrl h) (.ite (.ite (.when (.plainWrite h) .tinvStart) h) (.when (.plainWrite h) .probeStart))

theorem Formed.writeImg {who off v} (h : Formed P s) : Formed P (writeImg s who off v) := .ite (.imgCtrl h) (.ite (.wr h) (.plainWrite h))

theorem Formed.writeSeq {who off v} (h : Formed P s) : Formed P (writeSeq s who off v) :=
  .ite (.writeIf h)
    (.ite (.writeIf h) (.ite (.ite (.subqTail h) (.ite (.ite (.armWindow h) h) (.when (.writeIf h) .restartLoop))) (.plainWrite h)))

theorem Formed.writeKvm {who off v} (h : Formed P s) : Formed P (writeKvm s who off v) := .ite h (.ite (.writeIf h) (.plainWrite h))

theorem Formed.writeIrq {who off v} (h : Formed P s) : Formed P (writeIrq s who off v) := by
  refine .ite (.ite (.writeGdis h) h)
    (.ite (.swset h) (.ite (.ite (.irqUpdate (.setCfg h)) h) (.ite (.complete h) (.ite (.complete h) ?_))))
  split
  · split <;> [exact .ite (.complete h) h; exact h]
  · exact .plainWrite h

theorem Formed.writeConShare {who v} (h : Formed P s) : Formed P (writeConShare s who v) := .ite (.keep h) (.ite (.keep h) h)

theorem Formed.writePwr {who off v} (h : Formed P s) : Formed P (writePwr s who off v) :=
  .ite (.writeLimit h) (.ite (.pwrReq h) (.ite (.writeConShare h) (.ite (.writeIf h) (.ite h (.plainWrite h)))))

theorem Formed.writeMer {_who off v} (h : Formed P s) : Formed P (writeMer s _who off v) :=
  .ite (.when (.wr h) fun h1 => .keep h1) (.plainWrite h)

theorem Formed.writeRas {who off v} (h : Formed P s) : Formed P (writeRas s who off v) :=
  .ite (.regionSelect h) (.ite (.when (.writeIf h) .regionCommit) (.ite (.scrubCtrl (.ite (.wr h) h)) (.writeIf h)))

theorem Formed.writeBst {who off v env} (h : Formed P s) : Formed P (writeBst s who off v env) :=
  .ite (.dirStart h) (.ite (.ite h (.ite (.plainWrite h) (.flag h))) (.ite (.writeIf h) (.plainWrite h)))

theorem Formed.writeSec {who off v} (h : Formed P s) : Formed P (writeSec s who off v) :=
  .ite h (.ite (.keepWo h) (.ite (.raiseFloor h) (.ite (.keyOp h) (.ite (.alarmCleared (.plainWrite h)) (.ite (.wr h) (.plainWrite h))))))

theorem Formed.writeCkr {who off v} (h : Formed P s) : Formed P (writeCkr s who off v) :=
  .ite (.ckrRst h) (.ite (.ite (.wr (.wr h)) h) (.ite (.when (.writeIf h) .trainSave) (.ite (.writeIf h) (.plainWrite h))))

theorem Formed.writeHpt {who off v} (h : Formed P s) : Formed P (writeHpt s who off v) := .writeIf h

theorem Formed.writeFab {who off v} (h : Formed P s) : Formed P (writeFab s who off v) := by
  refine .ite (.writeDevid h) (.ite (.ite (.wr h) h) (.ite h (.ite (.writeBuddy h) (.ite (.writeIf h) ?_))))
  split <;> [exact .writePortCtrl h; exact .plainWrite h]

theorem Formed.writeClu {who off v env} (h : Formed P s) : Formed P (writeClu s who off v env) :=
  .ite (.keepWo h) (.ite (.launchWrite h) (.ite (.ite (.icinv h) h) (.plainWrite h)))

theorem Formed.writeCon {who off v env} (h : Formed P s) : Formed P (writeCon s who off v env) :=
  .ite (.keepWo h)
    (.ite (.launchWrite h)
      (.ite (.when (.ite (.wr h) h) fun h1 => .foldl h1 fun _ _ => .wr) (.ite (.ite (.foldl h fun _ _ => .icinv) h) h)))

theorem Formed.writeReg {who off v env} (h : Formed P s) : Formed P (writeReg s who off v env) := by
  refine .ite ?_ (.ite (.plainWrite h) (.ite (.writeClu h) (.writeCon h)))
  split
  · exact .writeHub h
  · exact .writeImg h
  · exact .writeSeq h
  · exact .writeKvm h
  · exact .writeIrq h
  · exact .writePwr h
  · exact .writeMer h
  · exact .writeRas h
  · exact .writeIf h
  · exact .writeBst h
  · exact .writeSec h
  · exact .writeCkr h
  · exact .writeHpt h
  · exact .writeFab h
  · exact .plainWrite h

theorem Formed.writeHalf {who off v env} (h : Formed P s) : Formed P (writeHalf s who off v env) := by
  unfold Machine.writeHalf
  split <;> [exact .writeReg h; exact h]

theorem FormedIn.mgmtRefused {who} (h : Formed P s) : FormedIn P (mgmtRefused s who) := by
  unfold Machine.mgmtRefused
  split <;> [exact .iteOpt (.some h) (.iteOpt (.some (.secFail h)) .none); exact .none]

theorem Formed.writeHalves {who off wide value env} (h : Formed P s) : Formed P (writeHalves s who off wide value env) :=
  .when (.writeHalf h) fun h1 => .ite h (.ite (.attEnter h) (.ite (.collEnter h) (.writeHalf h1)))

theorem Formed.mmioWrite {who off wide value env} (h : Formed P s) : Formed P (mmioWrite s who off wide value env) := by
  unfold Machine.mmioWrite
  split
  · next e => exact FormedIn.mmioGate h _ e
  · split
    · next e => exact FormedIn.mgmtRefused h _ e
    · exact .ite (.reply (.keep h)) (.reply (.writeHalves (.noteOffending h)))

theorem Formed.proceed {h' env} (h : Formed P s) : Formed P (proceed s h' env) := .ite (.mmioWrite h) (.mmioRead h)

/-! Register commands -/

theorem Ends.writeCmd {who off wide value} (h : Formed P s) : Ends P (writeCmd s who off wide value) := .next (.mmioWrite (.quiet h))

theorem Ends.execMmioOffendingAccess {who off size write value} (h :
    Formed P s) : Ends P (execMmioOffendingAccess who off size write value s) :=
  .next (.ite (.ite (.mmioWrite (.quiet h)) (.mmioRead (.quiet h))) (.ite (.reply (.quiet h)) (.reply (.recordOffending (.quiet h)))))

theorem Ends.execReadLoSnapshot {who off wide} (h : Formed P s) : Ends P (execReadLoSnapshot who off wide s) := .next (.mmioRead (.quiet h))

theorem Ends.execReadClear {who off wide unstable} (h : Formed P s) : Ends P (execReadClear who off wide unstable s) :=
  .next (.ite (.reply (.free (.recordXstat (.quiet h)))) (.mmioRead (.quiet h)))

theorem Ends.execRegisterWrite {who off wide value} (h : Formed P s) : Ends P (execRegisterWrite who off wide value s) :=
  .next (.mmioWrite (.quiet h))

theorem Ends.execAliasAccessRelease {l remote} (h : Formed P s) : Ends P (execAliasAccessRelease l remote s) :=
  .next (.ite (.quiet h) (.foldl (.keep (.quiet h)) fun _ _ => .proceed))

theorem Ends.execAccessTimeout {who off wide write} (h : Formed P s) : Ends P (execAccessTimeout who off wide write s) :=
  .next (.when (.quiet h) fun h1 => .ite (.mmioWrite h1) (.mmioRead h1))

theorem Ends.execImgStart {who srcKind} (h : Formed P s) : Ends P (execImgStart who srcKind s) := .writeCmd h

theorem Ends.execImgAbort {who srcKind} (h : Formed P s) : Ends P (execImgAbort who srcKind s) := .writeCmd h

theorem Ends.execHashProbe {who offset} (h : Formed P s) : Ends P (execHashProbe who offset s) := .writeCmd h

theorem Ends.execZfillStart {who} (h : Formed P s) : Ends P (execZfillStart who s) := .writeCmd h

theorem Ends.execZfillAbort {who} (h : Formed P s) : Ends P (execZfillAbort who s) := .writeCmd h

theorem Ends.execTinvStart {who kind} (h : Formed P s) : Ends P (execTinvStart who kind s) := .writeCmd h

theorem Ends.execCluLaunchWrite {who block addr remote} (h : Formed P s) : Ends P (execCluLaunchWrite who block addr remote s) :=
  .next (.when (.quiet h) .mmioWrite)

theorem Ends.execCluIcinvWrite {who block} (h : Formed P s) : Ends P (execCluIcinvWrite who block s) := .next (.when (.quiet h) .mmioWrite)

theorem Ends.execKvmAttWrite {who addr} (h : Formed P s) : Ends P (execKvmAttWrite who addr s) := .next (.mmioWrite (.quiet h))

theorem Ends.execSubqDoorbell {who l tail} (h : Formed P s) : Ends P (execSubqDoorbell who l tail s) := .writeCmd h

theorem Ends.execLoopRestart {who l} (h : Formed P s) : Ends P (execLoopRestart who l s) := .writeCmd h

theorem Ends.execWindowArm {who l} (h : Formed P s) : Ends P (execWindowArm who l s) := .writeCmd h

theorem Ends.execFabDevidWrite {who dev} (h : Formed P s) : Ends P (execFabDevidWrite who dev s) := .writeCmd h

theorem Ends.execPortEnableWrite {who p en} (h : Formed P s) : Ends P (execPortEnableWrite who p en s) := .writeCmd h

theorem Ends.execPortRetrainWrite {who p} (h : Formed P s) : Ends P (execPortRetrainWrite who p s) := .writeCmd h

theorem Ends.execRekey {who p} (h : Formed P s) : Ends P (execRekey who p s) := .writeCmd h

theorem Ends.execFabCollWrite {who addr} (h : Formed P s) : Ends P (execFabCollWrite who addr s) := .next (.mmioWrite (.quiet h))

theorem Ends.execBuddyEnable {who dev} (h : Formed P s) : Ends P (execBuddyEnable who dev s) := .writeCmd h

theorem Ends.execScrubStart {who} (h : Formed P s) : Ends P (execScrubStart who s) := .writeCmd h

theorem Ends.execScrubAbort {who} (h : Formed P s) : Ends P (execScrubAbort who s) := .writeCmd h

theorem Ends.execRegionSelect {who i} (h : Formed P s) : Ends P (execRegionSelect who i s) := .writeCmd h

theorem Ends.execRegionCommit {who kind} (h : Formed P s) : Ends P (execRegionCommit who kind s) := .writeCmd h

theorem Ends.execRecoveryRelease (h : Formed P s) : Ends P (execRecoveryRelease s) :=
  .next (.ite (.releaseDevice (.quiet h)) (.foldl (.keep (.releaseDevice (.quiet h))) fun _ _ => .proceed))

theorem Ends.execBstDirStart {who value volts locked} (h : Formed P s) : Ends P (execBstDirStart who value volts locked s) :=
  .next (.mmioWrite (.quiet h))

theorem Ends.execFloorRaise {who hi} (h : Formed P s) : Ends P (execFloorRaise who hi s) := .writeCmd h

theorem Ends.execGenerate {who} (h : Formed P s) : Ends P (execGenerate who s) := .writeCmd h

theorem Ends.execDestroy {who} (h : Formed P s) : Ends P (execDestroy who s) := .writeCmd h

theorem Ends.execPwrReqWake {who save kind index} (h : Formed P s) : Ends P (execPwrReqWake who save kind index s) := .writeCmd h

theorem Ends.execPwrReqDusk {who save kind index} (h : Formed P s) : Ends P (execPwrReqDusk who save kind index s) := .writeCmd h

theorem Ends.execPwrReqNight {who save kind index} (h : Formed P s) : Ends P (execPwrReqNight who save kind index s) := .writeCmd h

theorem Ends.execPwrReqRest {who save kind index} (h : Formed P s) : Ends P (execPwrReqRest who save kind index s) := .writeCmd h

theorem Ends.execPwrReqSleep {who save kind index} (h : Formed P s) : Ends P (execPwrReqSleep who save kind index s) := .writeCmd h

theorem Ends.execPwrReqStandby {who save kind index} (h : Formed P s) : Ends P (execPwrReqStandby who save kind index s) := .writeCmd h

theorem Ends.execPwrLimitWrite {who w} (h : Formed P s) : Ends P (execPwrLimitWrite who w s) := .writeCmd h

theorem Ends.execTrainSave {who} (h : Formed P s) : Ends P (execTrainSave who s) := .writeCmd h

theorem Ends.execDeviceReset {who} (h : Formed P s) : Ends P (execDeviceReset who s) := .writeCmd h

theorem Ends.execPartitionReset {who k} (h : Formed P s) : Ends P (execPartitionReset who k s) := .writeCmd h

theorem Ends.execClusterReset {who c} (h : Formed P s) : Ends P (execClusterReset who c s) := .writeCmd h

theorem Ends.execPortReset {who p} (h : Formed P s) : Ends P (execPortReset who p s) := .writeCmd h

theorem Ends.execMctpRead32 {secured off} (h : Formed P s) : Ends P (execMctpRead32 secured off s) := .next (.mmioRead (.quiet h))

theorem Ends.execMctpWrite32 {secured off value} (h : Formed P s) : Ends P (execMctpWrite32 secured off value s) :=
  .next (.mmioWrite (.quiet h))

theorem Ends.execMctpRead64 {secured off} (h : Formed P s) : Ends P (execMctpRead64 secured off s) := .next (.mmioRead (.quiet h))

theorem Ends.execMctpWrite64 {secured off value} (h : Formed P s) : Ends P (execMctpWrite64 secured off value s) :=
  .next (.mmioWrite (.quiet h))

/-! Host commands -/

theorem Ends.execIrqSourceEvent (h : Formed P s) : Ends P (execIrqSourceEvent s) := .next (.irqUpdate (.irqForget (.quiet h)))

theorem Ends.execIrqClaim {who reg} (h : Formed P s) : Ends P (execIrqClaim who reg s) := .next (.mmioRead (.quiet h))

theorem Ends.execIrqComplete {who reg source} (h : Formed P s) : Ends P (execIrqComplete who reg source s) := .writeCmd h

theorem Ends.execIrqSwset {who source} (h : Formed P s) : Ends P (execIrqSwset who source s) := .writeCmd h

theorem Ends.execGdisClear {who} (h : Formed P s) : Ends P (execGdisClear who s) := .writeCmd h

theorem Formed.releaseHeld {p f} (h : Formed P s) : Formed P (releaseHeld s p f) :=
  .foldl h fun _ _ h1 => .ite h1 (.ite (.keep h1) (.sendMsix h1))

theorem Formed.enableMsix {p f on} (h : Formed P s) : Formed P (enableMsix s p f on) := .when (.keep h) fun h1 => .irqUpdate (.keep h1)

theorem Ends.execMsixUnmask {p f b value} (h : Formed P s) : Ends P (execMsixUnmask p f b value s) := by
  refine .next (.ite (.quiet h) ?_)
  split
  · exact .when (.quiet h) fun h1 => .releaseHeld (.keep h1)
  · exact .releaseHeld (.keep (.quiet h))
  · exact .enableMsix (.quiet h)

theorem Formed.drainPort {p} (h : Formed P s) : Formed P (drainPort s p) :=
  .dueCommits (.foldl (.hostDrain h) fun _ _ h1 => .ite h1 (.deliver h1))

theorem Formed.setLink {p rate width cxl} (h : Formed P s) : Formed P (setLink s p rate width cxl) := .wr (.wr (.wr h))

theorem Ends.execHostLinkUp {p rate width cxl} (h : Formed P s) : Ends P (execHostLinkUp p rate width cxl s) :=
  .next (.ite (.quiet h) (.drainPort (.setHport (.setLink (.quiet h)))))

theorem Formed.loseInbound {p f} (h : Formed P s) : Formed P (loseInbound s p f) := .keepMem h

theorem Ends.execHostPortReset {p kind} (h : Formed P s) : Ends P (execHostPortReset p kind s) :=
  .next (.releaseWaiting (.flag (.keepMem (.setHport (.when (.setLink (.irqPortReset (.loseInbound (.quiet h)))) .flag)))))

theorem Ends.execFlr {p f} (h : Formed P s) : Ends P (execFlr p f s) :=
  .next (.ite (.quiet h) (.flag (.setHport (.irqPortReset (.loseInbound (.quiet h))))))

theorem Ends.execPmeTurnOff {p} (h : Formed P s) : Ends P (execPmeTurnOff p s) := .next (.when (.quiet h) .setHport)

theorem Ends.execInboundMemAccess {p f off kind ecc} (h : Formed P s) : Ends P (execInboundMemAccess p f off kind ecc s) := by
  refine .next (.ite (.quiet h) (.ite (.reply (.quiet h)) ?_))
  split <;> [exact .accessFor (.quiet h); exact .reply (.quiet h)]

theorem Ends.execHostWindowAccess {who off kind} (h : Formed P s) : Ends P (execHostWindowAccess who off kind s) :=
  .next (.accessFor (.quiet h))

theorem Formed.closeRequest {p tag} (h : Formed P s) : Formed P (closeRequest s p tag) := .setHport h

theorem Ends.execHostReadCompletion {p tag data poison} (h : Formed P s) : Ends P (execHostReadCompletion p tag data poison s) := by
  refine .next ?_
  split <;> [exact .quiet h; exact .ite (.quiet h) (.drainPort (.deliver (.closeRequest (.quiet h))))]

theorem Ends.execHostReadTimeout {p tag} (h : Formed P s) : Ends P (execHostReadTimeout p tag s) := by
  refine .next ?_
  split <;> [exact .quiet h; exact .ite (.quiet h) (.drainPort (.deliver (.free (.closeRequest (.quiet h)))))]

theorem Ends.execCxlSnoop {p addr} (h : Formed P s) : Ends P (execCxlSnoop p addr s) := .next (.when (.quiet h) .emit)

theorem Formed.cxlServe {p off kind keep ecc} (h : Formed P s) : Formed P (cxlServe s p off kind keep ecc) := .accessFor (.keepMem h)

theorem Formed.cxlRequest {p off kind keep ecc} (h : Formed P s) : Formed P (cxlRequest s p off kind keep ecc) :=
  .ite (.reply (.ite (.elim (.setHport h) fun _ => .emit (.setHport h)) (.setHport h))) (.cxlServe h)

theorem Ends.execCxlMemAccess {p off store poison keep ecc} (h : Formed P s) : Ends P (execCxlMemAccess p off store poison keep ecc s) :=
  .next (.ite (.quiet h) (.ite (.reply (.quiet h)) (.cxlRequest (.setHport (.quiet h)))))

theorem Formed.cxlRetry : ∀ {n s p}, Formed P s → Formed P (cxlRetry n s p)
  | 0, _, _, h => h
  | n + 1, s, p, h => by
    unfold Machine.cxlRetry
    split
    · exact h
    · exact .ite (.elim h fun _ => .emit h) (Formed.cxlRetry (.cxlServe (.setHport h)))

theorem Ends.execBackInvalidate {p line dirty} (h : Formed P s) : Ends P (execBackInvalidate p line dirty s) :=
  .next (.when (.quiet h) fun h1 => .cxlRetry (.releaseWaiting (by split; exacts [.writeLine (.keepMem h1), .keepMem h1])))

theorem Formed.pldmLoad {component offset bytes} (h : Formed P s) : Formed P (pldmLoad s component offset bytes) :=
  .ite (.flag h) (.keep (.imgCtrl (.wr (.wr64 h))))

theorem Ends.execPldmFirmwareUpdate {component} (h : Formed P s) : Ends P (execPldmFirmwareUpdate component s) := by
  refine .next (.ite (.quiet h) ?_)
  split <;> [exact .emit (.keep (.quiet h)); exact .pldmLoad (.quiet h); exact .pldmLoad (.quiet h)]

theorem Ends.execSetEventReceiver {receiver} (h : Formed P s) : Ends P (execSetEventReceiver receiver s) := .next (.keep (.quiet h))

/-! Wide words -/

theorem Formed.recordFault {c f deferred pc} (h : Formed P s) : Formed P (recordFault s c f deferred pc) :=
  .ite (.flag h) (.wr64 (.flag (.wr (.wr (.wr (.wr h))))))

theorem Formed.endCore {c failed} (h : Formed P s) : Formed P (endCore s c failed) := by
  unfold Machine.endCore
  split <;> [exact h; exact .modCl (.launchTrace h)]

theorem Formed.coreFault {c fs} (h : Formed P s) : Formed P (coreFault s c fs) := by
  refine .endCore (.flag ?_)
  split <;> [exact .launchTrace (.foldl h fun _ _ => .recordFault); exact .foldl h fun _ _ => .recordFault]

theorem Formed.prefetchWord {c pc} (h : Formed P s) : Formed P (prefetchWord s c pc) :=
  .ite h (.ite (.obtainLine h) (.modCl (.obtainLine h)))

theorem Formed.fetch {c pc ecc} (h : Formed P s) : Formed P (fetch s c pc ecc).1 := by
  refine .iteFst h ?_
  split
  · exact h
  · exact .iteFst h (.iteFst h (.iteFst (.obtainLine h) (.prefetchWord (.prefetchWord (.modCl (.obtainLine h))))))

theorem Formed.applyVector {c x0 o i} (h : Formed P s) : Formed P (applyVector s c x0 o i) := .modCl (.ite (.free h) h)

theorem Formed.applyMatrix {c pc o x} (h : Formed P s) : Formed P (applyMatrix s c pc o x) := by
  unfold Machine.applyMatrix
  split <;> [exact .modCl h; exact h]

theorem Formed.enterLoad {c dst a bytes pc bad} (h : Formed P s) : Formed P (enterLoad s c dst a bytes pc bad).1 := .modCl h

theorem Formed.askParts {c id pc slot parts ecc} (h : Formed P s) : Formed P (askParts s c id pc slot parts ecc) :=
  .foldl h fun _ _ => .accessFor

theorem Formed.loadRegister {c id a bytes} (h : Formed P s) : Formed P (loadRegister s c id a bytes) :=
  .modCl (.ite (.mmioRead h) (.recordOffending h))

theorem Formed.startLoad {c dst a bytes pc ecc} (h : Formed P s) : Formed P (startLoad s c dst a bytes pc ecc) :=
  .ite (.loadRegister (.enterLoad h)) (.askParts (.enterLoad h))

theorem Formed.applyLoad {c pc x0 o ecc x} (h : Formed P s) : Formed P (applyLoad s c pc x0 o ecc x) := by
  unfold Machine.applyLoad
  split
  · exact h
  · exact .modCl h
  · exact .startLoad h
  · exact .startLoad h
  · exact .startLoad h
  · exact .modCl (.modStk h)
  · exact .modCl h

theorem Formed.storeRegister {c a bs remote} (h : Formed P s) : Formed P (storeRegister s c a bs remote) :=
  .ite (.mmioWrite h) (.recordOffending h)

theorem Formed.storeParts {c pc parts ecc} (h : Formed P s) : Formed P (storeParts s c pc parts ecc) := .foldl h fun _ _ => .accessFor

theorem Formed.applyStore {c pc x0 o ecc remote x} (h : Formed P s) : Formed P (applyStore s c pc x0 o ecc remote x) := by
  unfold Machine.applyStore
  split
  · exact h
  · exact .ite (.storeRegister h) (.storeParts h)
  · exact .ite (.recordOffending h) (.storeParts h)
  · exact .ite (.recordOffending h) (.storeParts h)
  · exact .askParts (.enterLoad h)
  · exact .storeParts h
  · exact .storeParts h

theorem Formed.applyLaunch {c pc x0 o late remote h' a} (h : Formed P s) : Formed P (applyLaunch s c pc x0 o late remote h' a) :=
  .ite (.modCl h) (.ite (.launchFrom h) (.modCl (.launchFrom h)))

theorem Formed.issue {c w ecc late remote} (h : Formed P s) : Formed P (issue s c w ecc late remote) := by
  unfold Machine.issue
  extract_lets x0 o pc s0 s1 s2 s3 s4 s5 s6
  have h2 : Formed P s2 := .elim (.modCl h) fun _ => .applyVector (.modCl h)
  have h3 : Formed P s3 := .elim h2 fun _ => .modCl h2
  have h4 : Formed P s4 := .elim h3 fun _ => .applyMatrix h3
  have h5 : Formed P s5 := .elim h4 fun _ => .applyLoad h4
  have h6 : Formed P s6 := .elim h5 fun _ => .applyStore h5
  split <;> [exact .applyLaunch h6; exact .endCore h6; exact h6]

theorem Formed.meetWord {c bits ecc late remote} (h : Formed P s) {s1 : State} (h1 : Formed P s1) :
    Formed P (meetWord s s1 c bits ecc late remote) :=
  .ite (.coreFault h1) (.ite h (.ite h (.ite (.coreFault (.modCl h1)) (.ite (.coreFault h1) (.issue h1)))))

theorem Ends.execWordIssue {c fetchEcc dataEcc late remote} (h : Formed P s) : Ends P (execWordIssue c fetchEcc dataEcc late remote s) := by
  refine .next (.ite (.quiet h) ?_)
  dsimp only
  split
  · exact .quiet h
  · exact .coreFault (.fetch (.quiet h))
  · exact .meetWord (.quiet h) (.fetch (.quiet h))

theorem Ends.execLoadComplete {c index} (h : Formed P s) : Ends P (execLoadComplete c index s) :=
  .next (by split; exacts [.quiet h, .when (.quiet h) .modCl])

theorem Formed.moveDma {c d ecc} (h : Formed P s) : Formed P (moveDma s c d ecc) := .foldl (.modCl h) fun _ _ => .accessFor

theorem Formed.finishDma {c id} (h : Formed P s) : Formed P (finishDma s c id) := by
  unfold Machine.finishDma
  split <;> [exact h; exact .ite h (.ite (.modCl h) (.bump (.modCl h)))]

theorem Ends.execDmaComplete {c index ecc} (h : Formed P s) : Ends P (execDmaComplete c index ecc s) :=
  .next (by split; exacts [.quiet h, .finishDma (.ite (.quiet h) (.moveDma (.quiet h)))])

end Sys2Proof.Machine
end

section
/-! PROOFS. Every command keeps the memories' form and takes itself alone from the queue (O58); the form at reset (O59). -/

namespace Sys2Proof.Machine

variable {P : List Instr} {s : State}

theorem Ends.exec {i} (h : Formed P s) : Ends P (exec i s) := by
  unfold Machine.exec
  split
  exacts [.execMmioOffendingAccess h, .execReadLoSnapshot h, .execReadClear h, .execRegisterWrite h, .execAliasAccessRelease h,
    .execImgStart h, .execImgAbort h, .execImgVerifyEnd h, .execImgGranuleMove h, .execImgGranuleMoveBack h, .execHeldGranuleAccess h,
    .execImgSwitch h, .execImgReleaseEnd h, .execHashProbe h, .execHashLookupDone h, .execZfillStart h, .execZfillAbort h,
    .execZfillGranuleClear h, .execLineRead h, .execLineWrite h, .execBackgroundFillLine h, .execPartialStore h, .execMeteorRead h,
    .execMeteorWrite h, .execMeteorRmw h, .execWindowAccess h, .execAtomicOp h, .execRedContribution h, .execRedRetryResend h,
    .execReduceCancel h, .execStkCmdForward h, .execStkNop h, .execRowInit h, .execRowCopy h, .execRowAnd h, .execRowOr h, .execRowXor h,
    .execRowNot h, .execRowRead h, .execRowWrite h, .execKvAppend h, .execQload h, .execAttend h, .execHeldFlushRetry h, .execRsetup h,
    .execRcancel h, .execReducerBlockAccept h, .execNoRidDiscard h, .execBankRefresh h, .execDieTempRead h, .execThrottleGroupStart h,
    .execProcessorModeEntry h, .execProcessorModeExit h, .execDieMapClearDone h, .execArrayStep h, .execTileAdmit h, .execPreloadEnd h,
    .execTileLastProduct h, .execDrainStart h, .execDrainReadEnd h, .execStatusWordDeliver h, .execOperandHalfArrive h,
    .execHalfLineTimeout h, .execActivityLevelStep h, .execFreezeModeApply h, .execPreemptRequest h, .execTileBoundary h,
    .execWordIssue h, .execDmaComplete h, .execLoadComplete h, .execLaunchQueueEnter h, .execCluLaunchWrite h, .execLaunchStart h,
    .execLaunchEnd h, .execCluIcinvWrite h, .execTinvStart h, .execTinvDone h, .execKvmAttWrite h, .execKvmRequestAccept h,
    .execKvmDispatch h, .execKvmRequestComplete h, .execFrameZeroed h, .execSwapOutStart h, .execSwapPageOut h, .execSwapInPage h,
    .execSubqDoorbell h, .execSubmissionRead h, .execStepAdmit h, .execStepLaunch h, .execSample h, .execCommitCheck h,
    .execCommitPoint h, .execShadowRoomWait h, .execReplayLaunch h, .execLoopRestart h, .execLoopSwitch h, .execContextSave h,
    .execContextRestore h, .execLoopPreempt h, .execWindowArm h, .execWindowOpen h, .execWindowDone h, .execEmptyWindowPeriod h,
    .execQuotaStepBoundary h, .execTokshareBoundary h, .execFabDevidWrite h, .execPortEnableWrite h, .execPortTrain h,
    .execPortTrainRetry h, .execLinkSessionEstablish h, .execFlitReceive h, .execAckTimeout h, .execPortRetrainWrite h,
    .execPortRetrainEnd h, .execRekey h, .execRdBurst h, .execRdLine h, .execWrBurst h, .execWrLine h, .execAtomicPacket h,
    .execRedPacket h, .execBulkRd h, .execBulkWr h, .execCollPull h, .execCollPush h, .execData h, .execAck h, .execErr h, .execMer h,
    .execRequestTimeout h, .execHeldRequestRelease h, .execAnswerRecordExpiry h, .execFabCollWrite h, .execCollectiveAccept h,
    .execCollectiveComplete h, .execBuddyEnable h, .execBuddyLogApply h, .execMerExchange h, .execMerPpsEdge h, .execPpsLost h,
    .execRasReread h, .execPageRepair h, .execRowTest h, .execPatrolRead h, .execScrubStart h, .execScrubAbort h, .execScrubRead h,
    .execRegionSelect h, .execRegionCommit h, .execClusterRetire h, .execFailoverCopyDone h, .execUnitRetire h, .execCheckpoint h,
    .execLockstepMismatch h, .execRecoveryRelease h, .execHubHeartbeat h, .execHeartbeatLoss h, .execDieRecoveryEnd h,
    .execDieLinkLostTimeout h, .execFaultInjection h, .execRotationSlot h, .execClusterTestEnd h, .execUnitTestSlot h, .execUnitTestEnd h,
    .execTestRefusalRetry h, .execBstHoldExpiry h, .execBstDirStart h, .execBehindCheck h, .execTesterProvisioning h,
    .execSealingCommand h, .execUnlockToken h, .execReturnToken h, .execDefunctCommand h, .execFloorRaise h, .execGenerate h,
    .execDestroy h, .execImportKey h, .execAlarmRaise h, .execGetVersion h, .execGetCapabilities h, .execNegotiateAlgorithms h,
    .execGetDigests h, .execGetCertificate h, .execChallenge h, .execGetMeasurements h, .execKeyExchange h, .execFinish h,
    .execKeyUpdate h, .execSpdmHeartbeat h, .execEndSession h, .execPwrReqWake h, .execPwrReqDusk h, .execPwrReqNight h,
    .execPwrReqRest h, .execPwrReqSleep h, .execPwrReqStandby h, .execPwrReqApply h, .execNightSaveDone h, .execWakeWindow h,
    .execDomainEntryDone h, .execDomainWakeDone h, .execStandbyWake h, .execStackDemandWake h, .execPwrLimitWrite h,
    .execArbitrationWindow h, .execCoeffCorrection h, .execAvsRequest h, .execAvsPoll h, .execAvsRetry h, .execAvsSuspendEnd h,
    .execTempSample h, .execRefWindowEnd h, .execRefAbsent h, .execRefSwitch h, .execAccessTimeout h, .execFifoResync h, .execPorst h,
    .execDeviceReset h, .execPartitionReset h, .execClusterReset h, .execPortReset h, .execHostPortReset h, .execFlr h,
    .execBootPhaseEnd h, .execTrainSave h, .execIrqSourceEvent h, .execIrqClaim h, .execIrqComplete h, .execIrqSwset h, .execGdisClear h,
    .execMsixUnmask h, .execInboundMemAccess h, .execHostWindowAccess h, .execHostReadTimeout h, .execCxlSnoop h, .execBackInvalidate h,
    .execMctpRead32 h, .execMctpWrite32 h, .execMctpRead64 h, .execMctpWrite64 h, .execPldmFirmwareUpdate h, .execSetEventReceiver h,
    .execClusterCheckerMismatch h, .execHostLinkUp h, .execCxlMemAccess h, .execPmeTurnOff h, .execHostReadCompletion h,
    .execMer10mAbsent h]

theorem Formed.tick (h : Formed P s) : Formed P (tick s) := .flushAll (.merAdvance (.keep (.quiet h)))

theorem Ends.step (h : s.mem.formOk = true) : Ends s.pending.tail (step s) := by
  unfold Machine.step
  split
  · next e => rw [e]; exact .exec ⟨h, rfl⟩
  · next e => rw [e]; exact .next (.tick ⟨h, e⟩)

/-- Settles O58, for all commands at once: each keeps `Formed` of the queue behind it. -/
theorem stepKeepsMemoryForm : Obligations.StepKeepsMemoryForm := fun _ t h hs => Ends.step h t hs

/-- Settles O59. -/
theorem memoryFormAtReset : Obligations.MemoryFormAtReset := ⟨Memory.formOk_reset, rfl, rfl, fun _ => rfl⟩

end Sys2Proof.Machine
end

section
/-! SUPPORT. A hub-side access at its point of order: what its requester is told, and an access through a scratchpad window (R91). -/

namespace Sys2Proof.Machine

/-! The answer of an access -/

theorem deliver_hub (s : State) (who : Requester) (a : Answer) : deliver s (.hub who) a = hubAnswer s who a := rfl

theorem hubAnswer_done (s : State) (who : Requester) : hubAnswer s who .done = reply s who .done := by
  unfold hubAnswer; split <;> rfl

theorem hubAnswer_clean (s : State) (who : Requester) (b : List Byte) : hubAnswer s who (.data b false) = reply s who (.data b false) := by
  unfold hubAnswer; split <;> rfl

theorem hubAnswer_timeout (s : State) (who : Requester) : hubAnswer s who .timeout = reply s who .timeout := by
  unfold hubAnswer; split <;> rfl

/-- Data is answered as it was read; at a host, a fault record of its poison is kept beside (R344). -/
theorem hubAnswer_data_frame (s : State) (who : Requester) (b : List Byte) (p : Bool) : hubAnswer s who (.data b p) =
    { s with out := s.out ++ [⟨some who, .data b p⟩], regs := (hubAnswer s who (.data b p)).regs } := by
  cases p
  · rw [hubAnswer_clean]; rfl
  · unfold hubAnswer
    split
    · dsimp only
      rw [recordUe_frame]
      rfl
    · rfl

/-- An access of this part that raises no count and is not to be resent is answered with what it found. -/
theorem accessFor_local {s t : State} {who : Requester} {a : GAddr} {kind : AccessKind} {ecc : Ecc} {ans : Answer}
    (hl : isLocal s a = true) (h4 : spaceOf a ≠ 4)
    (h : localAccess s (.hub who) who (spaceOf a) (offOf a) kind ecc = (t, ans, none)) (hr : ans ≠ .retry) :
    accessFor s (.hub who) who a kind ecc = hubAnswer t who ans := by
  have ha : access s (.hub who) who a kind ecc = (t, ans) := by
    unfold access
    rw [hl]
    simp only [Bool.not_true, Bool.false_eq_true, if_false, if_neg h4, h]
  unfold accessFor
  rw [ha]
  rfl

/-! Window accesses (R91) -/

/-- A window access that meets no error reaches the scratchpad of its cluster. -/
theorem localAccess_scratchOpen {s : State} {who : Requester} {a : GAddr} {kind : AccessKind} {c x : Nat} (o : Origin) (ecc : Ecc)
    (h : scratchOpen s who a kind c x = true) :
    localAccess s o who (spaceOf a) (offOf a) kind ecc = performWindow s (offOf a) c x kind ecc := by
  simp only [scratchOpen, Bool.and_eq_true, decide_eq_true_eq, Bool.not_eq_true'] at h
  obtain ⟨⟨⟨⟨⟨-, hsp⟩, hfit⟩, hwin⟩, hten⟩, hoff⟩ := h
  have ht : (match tenantOf s who with
      | some t => !windowAllowed s t c
      | none => false) = false := by
    rw [← hten]
    cases tenantOf s who <;> rfl
  unfold localAccess
  simp only [hsp, hwin, hfit, hoff, Nat.reduceEqDiff, if_false, if_true, Bool.not_true, Bool.false_eq_true]
  exact if_neg (fun hc => Bool.noConfusion (ht.symm.trans hc))

theorem exec_windowAccess {s t : State} {who : Requester} {a : GAddr} {kind : AccessKind} {c x : Nat} {ecc : Ecc} {ans : Answer}
    (h : scratchOpen s who a kind c x = true) (hp : performWindow (quiet s) (offOf a) c x kind ecc = (t, ans, none)) (hr : ans ≠ .retry) :
    exec (.windowAccess who a kind ecc) s = .next (hubAnswer t who ans) := by
  have hs : scratchOpen (quiet s) who a kind c x = true := h
  have hsp : isLocal s a = true ∧ spaceOf a = 2 := by
    simp only [scratchOpen, Bool.and_eq_true, decide_eq_true_eq] at h
    exact ⟨h.1.1.1.1.1, h.1.1.1.1.2⟩
  exact congrArg Host.Outcome.next (accessFor_local (s := quiet s) hsp.1 (by rw [hsp.2]; decide)
    ((localAccess_scratchOpen _ _ hs).trans hp) hr)

theorem spadRead_clean (s : State) (c x n : Nat) : spadRead s c x n .clean =
    (countIf (spadPoisoned s.mem c x n) s, spadBytes s.mem c x n, spadPoisoned s.mem c x n) := rfl

/-- No reduction stands on the line of a window access whose line is free. -/
theorem padFree_closed {s : State} {who : Requester} {a : GAddr} {kind : AccessKind} {c x : Nat} (h : scratchOpen s who a kind c x = true)
    (hf : padFree s a = true) :
    s.mem.reductions.any (fun r => r.addr = localAddr s 2 ((logicalOf s.img c).getD 0 * 2 ^ 22 + x / 64 * 64)) = false := by
  simp only [scratchOpen, Bool.and_eq_true, decide_eq_true_eq] at h
  have hwin := h.1.1.2
  have hx : ((logicalOf s.img c).getD 0 * 2 ^ 22 + x) / 64 * 64 = (logicalOf s.img c).getD 0 * 2 ^ 22 + x / 64 * 64 := by omega
  unfold padFree at hf
  rw [hwin] at hf
  simpa only [lineFree, hx, Bool.not_eq_true'] using hf

end Sys2Proof.Machine
end

section
/-! PROOFS. Accesses through the scratchpad windows (O9). -/

namespace Sys2Proof.Machine

/-! Bytes written to a scratchpad -/

/-- A write reaches its bytes of its scratchpad, and no other byte of any. -/
theorem get_spadWrite (m : Memory) (c x : Nat) (bs : List Byte) (p : Bool) (k : Nat) : KMap.get (fun _ => 0#8) (spadWrite m c x bs p).spad k =
    if c * 2 ^ 22 + x ≤ k ∧ k < c * 2 ^ 22 + x + bs.length then bs.getD (k - (c * 2 ^ 22 + x)) 0#8 else KMap.get (fun _ => 0#8) m.spad k :=
  KMap.get_setSeq _ _ _ _ _

theorem mem_foldl_del (l : List Nat) : ∀ (m : KSet) (b : Nat), b ∈ l.foldl KSet.del m ↔ b ∈ m ∧ b ∉ l := by
  induction l with
  | nil => simp
  | cons k l ih => intro m b; rw [List.foldl_cons, ih, KSet.mem_del, List.mem_cons, not_or]; exact and_assoc

theorem mem_foldl_add (l : List Nat) : ∀ (m : KSet) (b : Nat), b ∈ l.foldl KSet.add m ↔ b ∈ m ∨ b ∈ l := by
  induction l with
  | nil => simp
  | cons k l ih => intro m b; rw [List.foldl_cons, ih, KSet.mem_add, List.mem_cons, or_assoc, or_left_comm]

/-- The blocks of whole lines are covered whole. -/
theorem blocksOf_covered {k n b : Nat} (hk : k % 32 = 0) (hn : n % 32 = 0) (h : b ∈ blocksOf k n) : k ≤ b * 32 ∧ b * 32 + 32 ≤ k + n := by
  unfold blocksOf at h
  obtain ⟨i, hi, rfl⟩ := List.mem_map.1 h
  have := List.mem_range.1 hi
  omega

/-- A line written takes the poison it was written with (R342). -/
theorem spadPoisoned_spadWrite (m : Memory) {c x : Nat} (bs : List Byte) (p : Bool) (hx : x % 32 = 0) (hl : bs.length = 64) :
    spadPoisoned (spadWrite m c x bs p) c x 64 = p := by
  have hk : (c * 2 ^ 22 + x) % 32 = 0 := by omega
  unfold spadPoisoned spadWrite
  rw [hl]
  cases p
  · simp only [Bool.false_eq_true, if_false, List.any_eq_false, decide_eq_true_eq, mem_foldl_del]
    rintro b hb ⟨-, hw⟩
    exact hw (List.mem_filter.2 ⟨hb, decide_eq_true (blocksOf_covered hk (by decide) hb)⟩)
  · simp only [if_true, List.any_eq_true, decide_eq_true_eq, mem_foldl_add]
    exact ⟨(c * 2 ^ 22 + x) / 32, List.mem_map.2 ⟨0, List.mem_range.2 (by omega), by omega⟩, .inr
      (List.mem_map.2 ⟨0, List.mem_range.2 (by omega), by omega⟩)⟩

/-- Offsets in a window that begin a line begin one in the scratchpad. -/
theorem windowOf_line {s : State} {off c x : Nat} (h : windowOf s off = some (c, x)) (ho : off % 64 = 0) : x % 32 = 0 := by
  unfold windowOf at h
  split at h
  · obtain ⟨d, -, hd⟩ := Option.map_eq_some_iff.1 h
    cases hd
    omega
  · split at h
    · cases h
    · obtain ⟨d, -, hd⟩ := Option.map_eq_some_iff.1 h
      cases hd
      omega

/-! The kinds of a window access -/

/-- A store of a window access: the bytes and poison that it writes. -/
def windowStore : AccessKind → Option (List Byte × Bool)
  | .lineWrite d p => some (lineBytes d, p)
  | .partialStore bs p => some (bs, p)
  | .meteorWrite d p => some (natLe 32 d.toNat, p)
  | _ => none

/-- The state once a window store has been answered. -/
def windowStored (s : State) (who : Requester) (c x : Nat) (w : List Byte × Bool) : State :=
  { s with out := [⟨some who, .done⟩], mem := spadWrite s.mem c x w.1 w.2 }

theorem exec_windowStore {s : State} {who : Requester} {a : GAddr} {kind : AccessKind} {c x : Nat} {w : List Byte × Bool}
    (hk : windowStore kind = some w) (h : scratchOpen s who a kind c x = true) (hf : padFree s a = true) :
    exec (.windowAccess who a kind .clean) s = .next (windowStored s who c x w) := by
  have hc : (quiet s).mem.reductions.any (fun r => r.addr = localAddr (quiet s) 2 ((logicalOf (quiet s).img c).getD 0 * 2 ^ 22 + x / 64 * 64)) =
      false := padFree_closed h hf
  have hp : performWindow (quiet s) (offOf a) c x kind .clean = ({ quiet s with mem := spadWrite s.mem c x w.1 w.2 }, .done, none) := by
    unfold performWindow
    cases kind <;> simp only [windowStore, reduceCtorEq, Option.some.injEq] at hk
    all_goals
      subst hk
      simp only [hc, Bool.false_eq_true, if_false]
      rfl
  rw [exec_windowAccess h hp (by decide), hubAnswer_done]
  rfl

theorem windowStored_frame (s : State) (who : Requester) (c x : Nat) (w : List Byte × Bool) : windowStored s who c x w = { s with
    out := [⟨some who, .done⟩]
    mem := { s.mem with spad := (windowStored s who c x w).mem.spad, spadPoison := (windowStored s who c x w).mem.spadPoison } } := rfl

/-- A read through a window, as the scratchpad stands. -/
theorem exec_windowRead {s : State} {who : Requester} {a : GAddr} {kind : AccessKind} {c x : Nat} (hk : kind = .lineRead ∨ kind = .meteorRead)
    (h : scratchOpen s who a kind c x = true) :
    exec (.windowAccess who a kind .clean) s = .next (hubAnswer (countIf (spadPoisoned s.mem c x (readSize kind)) (quiet s)) who
      (.data (spadBytes s.mem c x (readSize kind)) (spadPoisoned s.mem c x (readSize kind)))) := by
  refine exec_windowAccess h ?_ (by simp)
  obtain rfl | rfl := hk <;> rfl

theorem exec_windowAtomic {s : State} {who : Requester} {a : GAddr} {c x : Nat} {op : AtomicOp} {wide : Bool} {y z : BitVec 64}
    (h : scratchOpen s who a (.atomic op wide y z false) c x = true) (hf : padFree s a = true)
    (hp : spadPoisoned s.mem c x (atomicSize wide) = false) :
    exec (.windowAccess who a (.atomic op wide y z false) .clean) s = .next { s with
      out := [⟨some who, .data (natLe (atomicSize wide) (leNat (spadBytes s.mem c x (atomicSize wide)))) false⟩]
      mem := spadWrite s.mem c x
        (natLe (atomicSize wide) (atomicNew op wide (leNat (spadBytes s.mem c x (atomicSize wide))) y.toNat z.toNat)) false } := by
  have hc : (quiet s).mem.reductions.any (fun r => r.addr = localAddr (quiet s) 2 ((logicalOf (quiet s).img c).getD 0 * 2 ^ 22 + x / 64 * 64)) =
      false := padFree_closed h hf
  have hr : performWindow (quiet s) (offOf a) c x (.atomic op wide y z false) .clean =
      ({ quiet s with
          mem := spadWrite s.mem c x
            (natLe (atomicSize wide) (atomicNew op wide (leNat (spadBytes s.mem c x (atomicSize wide))) y.toNat z.toNat)) false },
        .data (natLe (atomicSize wide) (leNat (spadBytes s.mem c x (atomicSize wide)))) false, none) := by
    unfold performWindow
    simp only [hc, Bool.false_eq_true, if_false]
    simp only [spadRead_clean, quiet_mem, hp, Bool.false_eq_true, if_false, Bool.false_and]
    rfl
  rw [exec_windowAccess h hr (by simp), hubAnswer_clean]
  rfl

/-- A cluster that is off times out (R91). -/
theorem exec_windowOff {s : State} {who : Requester} {a : GAddr} {kind : AccessKind} {c x : Nat} (ecc : Ecc) (hl : isLocal s a = true)
    (hsp : spaceOf a = 2) (hw : windowOf s (offOf a) = some (c, x)) (hf : accessFits (offOf a) kind = true) (ht : tenantOf s who = none)
    (ho : clusterOff s c = true) :
    exec (.windowAccess who a kind ecc) s = .next { s with out := [⟨some who, windowTimeout kind⟩] } := by
  have hloc : localAccess (quiet s) (.hub who) who (spaceOf a) (offOf a) kind ecc = (quiet s, windowTimeout kind, none) := by
    have hw' : windowOf (quiet s) (offOf a) = some (c, x) := hw
    have ht' : tenantOf (quiet s) who = none := ht
    have ho' : clusterOff (quiet s) c = true := ho
    unfold localAccess
    simp only [hsp, hw', hf, ht', ho', Nat.reduceEqDiff, if_false, if_true, Bool.not_true, Bool.false_eq_true]
  have hne : windowTimeout kind ≠ .retry := by unfold windowTimeout; split <;> simp
  have h := accessFor_local (s := quiet s) hl (by rw [hsp]; decide) hloc hne
  have ha : hubAnswer (quiet s) who (windowTimeout kind) = reply (quiet s) who (windowTimeout kind) := by
    unfold windowTimeout
    split
    · exact hubAnswer_timeout _ _
    · exact hubAnswer_clean _ _ _
  exact congrArg Host.Outcome.next (h.trans ha)

/-- Settles O9, kind by kind: each access is performed in the scratchpad of its window, and its answer leaves the rest as it is. -/
theorem windowAccesses : Obligations.WindowAccesses := by
  unfold Obligations.WindowAccesses
  refine ⟨fun s who a c x => ⟨fun h hp => ?_, fun h hp => ?_, fun h hp => ?_, fun d p h hf => ?_, fun bs p h hf => ?_, fun d p h hf => ?_,
    fun op wide y z h hf hp => ?_⟩, fun s who a kind ecc c x hl hsp hw hfit ht ho => ?_⟩
  · rw [exec_windowRead (.inl rfl) h, readSize, hp, hubAnswer_clean]; rfl
  · rw [exec_windowRead (.inr rfl) h, readSize, hp, hubAnswer_clean]; rfl
  · refine ⟨_, exec_windowRead (.inl rfl) h, ?_⟩
    rw [hubAnswer_data_frame, countIf_frame, readSize, hp]
    rfl
  · refine ⟨_, exec_windowStore rfl h hf, windowStored_frame .., spadPoisoned_spadWrite _ _ _ ?_ (length_lineBytes d), fun k => ?_⟩
    · simp only [scratchOpen, Bool.and_eq_true, decide_eq_true_eq] at h
      exact windowOf_line h.1.1.2 (of_decide_eq_true h.1.1.1.2)
    · rw [windowStored, get_spadWrite, length_lineBytes]
  · exact ⟨_, exec_windowStore rfl h hf, windowStored_frame .., fun k => get_spadWrite ..⟩
  · refine ⟨_, exec_windowStore rfl h hf, windowStored_frame .., fun k => ?_⟩
    rw [windowStored, get_spadWrite, length_natLe]
  · refine ⟨_, exec_windowAtomic h hf hp, rfl, fun k => ?_⟩
    rw [get_spadWrite, length_natLe]
  · rw [exec_windowOff ecc hl hsp hw hfit ht ho]
    cases kind with
    | atomic op wide y z p => cases wide <;> rfl
    | _ => rfl

end Sys2Proof.Machine
end

section
/-! SUPPORT. One bit of a mask set or cleared, and the maps and sums that the state of a lit stack is kept in. -/

namespace Sys2Proof.Machine

/-! Bits of a mask -/

theorem bitsOf_one_lt (x i : Nat) : bitsOf x i 1 < 2 := Nat.mod_lt _ (by decide)

/-- A bit that is clear, added, is set, and no other bit changes. -/
theorem bitsOf_add_bit {x d : Nat} (h : bitsOf x d 1 = 0) (e : Nat) : bitsOf (x + 2 ^ d) e 1 = if e = d then 1 else bitsOf x e 1 := by
  have hd : (x + 2 ^ d) / 2 ^ d = x / 2 ^ d + 1 := Nat.add_div_right _ (Nat.two_pow_pos d)
  unfold bitsOf at *
  rw [Nat.pow_one] at *
  rcases Nat.lt_trichotomy e d with he | rfl | he
  · obtain ⟨k, rfl⟩ := Nat.exists_eq_add_of_lt he
    have hk : 2 ^ (e + k + 1) = 2 ^ e * (2 ^ k * 2) := by rw [Nat.pow_succ, Nat.pow_add, Nat.mul_assoc]
    rw [if_neg (by omega), hk, Nat.add_mul_div_left _ _ (Nat.two_pow_pos e)]
    omega
  · rw [if_pos rfl, hd]
    omega
  · obtain ⟨k, rfl⟩ := Nat.exists_eq_add_of_lt he
    have hdiv (y : Nat) : y / 2 ^ (d + k + 1) = y / 2 ^ d / 2 / 2 ^ k := by
      rw [Nat.div_div_eq_div_mul, Nat.div_div_eq_div_mul]
      congr 1
      rw [Nat.pow_succ, Nat.pow_add]
      ring
    rw [if_neg (by omega), hdiv, hdiv, hd, show (x / 2 ^ d + 1) / 2 = x / 2 ^ d / 2 by omega]

/-- A bit that is set, taken off, is clear, and no other bit changes. -/
theorem bitsOf_sub_bit {x d : Nat} (h : bitsOf x d 1 = 1) (e : Nat) : bitsOf (x - 2 ^ d) e 1 = if e = d then 0 else bitsOf x e 1 := by
  have hle : 2 ^ d ≤ x := by
    by_contra hlt
    unfold bitsOf at h
    rw [Nat.div_eq_of_lt (Nat.not_le.1 hlt)] at h
    cases h
  have h0 : bitsOf (x - 2 ^ d) d 1 = 0 := by
    have hd : (x - 2 ^ d + 2 ^ d) / 2 ^ d = (x - 2 ^ d) / 2 ^ d + 1 := Nat.add_div_right _ (Nat.two_pow_pos d)
    rw [Nat.sub_add_cancel hle] at hd
    unfold bitsOf at *
    rw [Nat.pow_one] at *
    omega
  have ha := bitsOf_add_bit h0 e
  rw [Nat.sub_add_cancel hle] at ha
  split
  · next he => rw [he]; exact h0
  · next he => rw [ha, if_neg he]

theorem bitsOf_or_bit (x d : Nat) : bitsOf (x ||| 2 ^ d) d 1 = 1 := by
  rw [bitsOf_one, Nat.testBit_or, Nat.testBit_two_pow_self, Bool.or_true]

theorem bitsOf_one_ne {x i : Nat} (h : bitsOf x i 1 ≠ 1) : bitsOf x i 1 = 0 := by
  have := bitsOf_one_lt x i
  omega

/-! Maps -/

/-- Keys set to one value, one after another. -/
theorem KMap.get_foldl_set (v : Nat) (l : List Nat) : ∀ (m : KMap Nat) (k : Nat),
    KMap.get (fun _ => 0) (l.foldl (fun m b => KMap.set (fun _ => 0) m b v) m) k = if k ∈ l then v else KMap.get (fun _ => 0) m k := by
  induction l with
  | nil => intro m k; simp
  | cons b l ih =>
    intro m k
    rw [List.foldl_cons, ih, KMap.get_set]
    by_cases hk : k = b <;> simp [hk]

/-- A key taken out reads the default. -/
theorem KMap.get_filter_out {α : Type} (d : Nat → α) (p : Nat → Bool) {k : Nat} (h : p k = false) : ∀ m : KMap α,
    KMap.get d (m.filter (fun e => p e.1)) k = d k
  | [] => rfl
  | (j, v) :: m => by
    by_cases hj : p j = true
    · have hkj : k ≠ j := fun he => by rw [he, hj] at h; cases h
      rw [List.filter_cons_of_pos (by simpa using hj), KMap.get, if_neg hkj, KMap.get_filter_out d p h m]
    · rw [List.filter_cons_of_neg (by simpa using hj), KMap.get_filter_out d p h m]

/-! The greatest of several numbers -/

theorem foldl_max_le {f : Nat → Int} {c : Int} : ∀ (l : List Nat) (a : Int), l.foldl (fun a d => max a (f d)) a ≤ c ↔ a ≤ c ∧ ∀ d ∈ l, f d ≤ c
  | [], a => by simp
  | d :: l, a => by
    rw [List.foldl_cons, foldl_max_le l, max_le_iff, List.forall_mem_cons, and_assoc]

end Sys2Proof.Machine
end

section
/-! PROOFS. Refresh, temperatures and mode changes of a lit stack's dies (O16). -/

namespace Sys2Proof.Machine

theorem stk_setStk (s : State) (n : Nat) (k : Stack) (m : Nat) : stk (setStk s n k) m = if m = n then k else stk s m := KMap.get_set _ _ _ _ _

/-! Die temperatures (R142, R105) -/

/-- A reading that THM does not replace is taken to the readouts. -/
def noteReading (s : State) (n d r : Nat) : State :=
  let w := rd s Fld.STK_DIETEMP_TEMP n (d / 4)
  let old := bitsOf w (8 * (d % 4)) 8
  let s := wr s Fld.STK_DIETEMP_TEMP (w - old * 2 ^ (8 * (d % 4)) + Nat.min r 255 * 2 ^ (8 * (d % 4))) n (d / 4)
  { s with pwr := { s.pwr with readout := KMap.set (fun _ => 0) s.pwr.readout (n * 16 + d) (r : Int) } }

/-- A die above 95 C refreshes at the halved allowance, one at or below 92 C no longer. -/
def hotDie (s : State) (n d r : Nat) : State :=
  let k := stk s n
  if bitsOf k.hot d 1 ≠ 1 ∧ 95 < r then
    let s := setStk s n { k with hot := k.hot + 2 ^ d }
    if procDie s.img n d then flag s Fld.STK_EVENT_HALVE n else s
  else if bitsOf k.hot d 1 = 1 ∧ r ≤ 92 then setStk s n { k with hot := k.hot - 2 ^ d }
  else s

theorem readDie_kept {s : State} {n r : Nat} (d : Nat) (h : replaced s n r = false) : readDie s n d r = hotDie (noteReading s n d r) n d r := by
  unfold readDie hotDie
  simp only [h, Bool.false_eq_true, if_false, Bool.and_eq_true, Bool.not_eq_true', decide_eq_true_eq, decide_eq_false_iff_not, gt_iff_lt]
  rfl

/-- The hot bit of a die once it has been read. -/
def hotBit (r old : Nat) : Nat := if 95 < r then 1 else if r ≤ 92 then 0 else old

theorem hotDie_hot (s : State) (n d r e : Nat) :
    bitsOf (stk (hotDie s n d r) n).hot e 1 = if e = d then hotBit r (bitsOf (stk s n).hot d 1) else bitsOf (stk s n).hot e 1 := by
  unfold hotDie hotBit
  dsimp only
  split
  · next h =>
    have hs (t : State) (ht : t.stk = (setStk s n { stk s n with hot := (stk s n).hot + 2 ^ d }).stk) :
        (stk t n).hot = (stk s n).hot + 2 ^ d := by
      unfold stk; rw [ht]; exact congrArg Stack.hot ((stk_setStk _ _ _ _).trans (if_pos rfl))
    rw [if_pos h.2, hs _ (by split <;> rfl), bitsOf_add_bit (bitsOf_one_ne h.1)]
  · next h =>
    split
    · next h' =>
      have hr : ¬95 < r := by omega
      rw [stk_setStk, if_pos rfl, bitsOf_sub_bit h'.1, if_neg hr, if_pos h'.2]
    · next h' =>
      have hb := bitsOf_one_lt (stk s n).hot d
      split
      · next he =>
        subst he
        split <;> [omega; (split <;> [omega; rfl])]
      · rfl

/-- What a sequence of die readings leaves: the state but for registers, stacks and readouts, the mark of write hold, and readouts and hot
bits of the dies not read. -/
structure DiesRead (s t : State) (n : Nat) (l : List Nat) (r : Nat → Nat) : Prop where
  frame : t = { s with regs := t.regs, stk := t.stk, pwr := { s.pwr with readout := t.pwr.readout } }
  whold : rd t Fld.STK_STATUS_WHOLD n = rd s Fld.STK_STATUS_WHOLD n
  readout : ∀ e, readoutOf t n e = if e ∈ l then (r e : Int) else readoutOf s n e
  hot : ∀ e, bitsOf (stk t n).hot e 1 = if e ∈ l then hotBit (r e) (bitsOf (stk s n).hot e 1) else bitsOf (stk s n).hot e 1

theorem hotDie_rest (s : State) (n d r : Nat) : ∃ g k, hotDie s n d r = { s with regs := g, stk := k } ∧
    rd (hotDie s n d r) Fld.STK_STATUS_WHOLD n = rd s Fld.STK_STATUS_WHOLD n := by
  unfold hotDie
  dsimp only
  split
  · split
    · refine ⟨_, _, rfl, rd_flag_other _ _ _ _ _ _ _ (by decide) (.inl ?_)⟩
      unfold Field.addr Fld.STK_STATUS_WHOLD Fld.STK_EVENT_HALVE Reg.STK_STATUS Reg.STK_EVENT
      dsimp only
      omega
    · exact ⟨_, _, rfl, rfl⟩
  · split <;> exact ⟨_, _, rfl, rfl⟩

theorem rd_noteReading_whold (s : State) (n d r : Nat) :
    rd (noteReading s n d r) Fld.STK_STATUS_WHOLD n = rd s Fld.STK_STATUS_WHOLD n := by
  refine rd_wr_other _ _ _ _ _ _ _ _ (by decide) (.inl ?_)
  unfold Field.addr Fld.STK_STATUS_WHOLD Fld.STK_DIETEMP_TEMP Reg.STK_STATUS Reg.STK_DIETEMP
  dsimp only
  omega

/-- One die read. -/
theorem diesRead_one {s : State} {n d : Nat} {r : Nat → Nat} (h : replaced s n (r d) = false) :
    DiesRead s (readDie s n d (r d)) n [d] r := by
  rw [readDie_kept d h]
  obtain ⟨g, k, he, hw⟩ := hotDie_rest (noteReading s n d (r d)) n d (r d)
  refine ⟨by rw [he]; rfl, hw.trans (rd_noteReading_whold s n d (r d)), fun e => ?_, fun e => ?_⟩
  · have hk := KMap.get_set (fun _ => 0) s.pwr.readout (n * 16 + d) (n * 16 + e) (r d : Int)
    have hi : n * 16 + e = n * 16 + d ↔ e = d := by omega
    rw [he]
    refine hk.trans ?_
    simp only [hi, List.mem_singleton]
    split
    · next he => rw [he]
    · rfl
  · rw [hotDie_hot]
    simp only [List.mem_singleton]
    split
    · next he => rw [he]; rfl
    · rfl

/-- Dies read one after another, each once. -/
theorem diesRead_fold {n : Nat} {r : Nat → Nat} : ∀ (l : List Nat) (s : State), l.Nodup → (∀ d ∈ l, replaced s n (r d) = false) →
    DiesRead s (l.foldl (fun s d => readDie s n d (r d)) s) n l r
  | [], s, _, _ => ⟨rfl, rfl, fun _ => rfl, fun _ => rfl⟩
  | d :: l, s, hl, h => by
    obtain ⟨hdl, hl⟩ := List.nodup_cons.1 hl
    have h1 := diesRead_one (r := r) (h d List.mem_cons_self)
    have hg (x : Nat) : replaced (readDie s n d (r d)) n x = replaced s n x := by rw [h1.frame]; rfl
    have h2 := diesRead_fold (n := n) (r := r) l (readDie s n d (r d)) hl (fun e he => by
      rw [hg]; exact h e (List.mem_cons_of_mem _ he))
    rw [List.foldl_cons]
    refine ⟨?_, h2.whold.trans h1.whold, fun e => ?_, fun e => ?_⟩
    · rw [h2.frame, h1.frame]
    · rw [h2.readout, h1.readout]
      by_cases he : e ∈ l
      · simp [he]
      · simp [he, List.mem_cons]
    · rw [h2.hot, h1.hot]
      by_cases he : e ∈ l
      · have hne : e ≠ d := fun hc => hdl (hc ▸ he)
        simp [he, hne]
      · simp [he, List.mem_cons]

/-- A stack's write hold once its dies have been read, none waiting behind it (R142, R143). -/
theorem holdStep_regs {s : State} (n : Nat) (hw : s.mem.waiting = []) : holdStep s n = { s with regs := (holdStep s n).regs } := by
  have hr (t : State) (ht : t.mem.waiting = []) : releaseWaiting t = t := by unfold releaseWaiting; rw [ht]; rfl
  unfold holdStep
  dsimp only
  split
  · rfl
  · split
    · rw [hr (flag (wr s Fld.STK_STATUS_WHOLD 0 n) Fld.STK_EVENT_WHOLD_OFF n) hw]; rfl
    · rfl

theorem apart_whold_on (n : Nat) : Fld.STK_STATUS_WHOLD.apart Fld.STK_EVENT_WHOLD_ON n 0 n 0 := by
  left
  unfold Field.addr Fld.STK_STATUS_WHOLD Fld.STK_EVENT_WHOLD_ON Reg.STK_STATUS Reg.STK_EVENT
  dsimp only
  omega

theorem apart_whold_off (n : Nat) : Fld.STK_STATUS_WHOLD.apart Fld.STK_EVENT_WHOLD_OFF n 0 n 0 := by
  left
  unfold Field.addr Fld.STK_STATUS_WHOLD Fld.STK_EVENT_WHOLD_OFF Reg.STK_STATUS Reg.STK_EVENT
  dsimp only
  omega

/-- Write hold stands above 105 C, and begins there. -/
theorem holdStep_hot {s : State} {n : Nat} (h : 105 < hottest s n) : rd (holdStep s n) Fld.STK_STATUS_WHOLD n = 1 ∧
    (rd s Fld.STK_STATUS_WHOLD n = 0 → rd (holdStep s n) Fld.STK_EVENT_WHOLD_ON n = 1) := by
  by_cases h1 : rd s Fld.STK_STATUS_WHOLD n = 1
  · have he : holdStep s n = s := by
      unfold holdStep
      simp only [h1, decide_true, Bool.not_true, Bool.false_and, Bool.true_and, Bool.false_eq_true, if_false, decide_eq_true_eq]
      exact if_neg (by omega)
    rw [he, h1]
    exact ⟨rfl, fun h0 => absurd h0 (by decide)⟩
  · have he : holdStep s n = flag (flag s Fld.STK_STATUS_WHOLD n) Fld.STK_EVENT_WHOLD_ON n := by
      unfold holdStep
      simp only [h1, decide_false, Bool.not_false, Bool.true_and, decide_eq_true_eq]
      exact if_pos h
    rw [he, rd_flag_other _ _ _ _ _ _ _ (by decide) (apart_whold_on n), rd_flag_same _ _ _ _ (by decide) (by decide)]
    exact ⟨rfl, fun _ => rd_flag_same _ _ _ _ (by decide) (by decide)⟩

/-- Write hold ends once no die reads above 102 C. -/
theorem holdStep_cool {s : State} {n : Nat} (hw : s.mem.waiting = []) (h : hottest s n ≤ 102) :
    rd (holdStep s n) Fld.STK_STATUS_WHOLD n = 0 ∧
    (rd s Fld.STK_STATUS_WHOLD n = 1 → rd (holdStep s n) Fld.STK_EVENT_WHOLD_OFF n = 1) := by
  by_cases h1 : rd s Fld.STK_STATUS_WHOLD n = 1
  · have he : holdStep s n = flag (wr s Fld.STK_STATUS_WHOLD 0 n) Fld.STK_EVENT_WHOLD_OFF n := by
      have hr : releaseWaiting (flag (wr s Fld.STK_STATUS_WHOLD 0 n) Fld.STK_EVENT_WHOLD_OFF n) =
          flag (wr s Fld.STK_STATUS_WHOLD 0 n) Fld.STK_EVENT_WHOLD_OFF n := by
        unfold releaseWaiting
        rw [show (flag (wr s Fld.STK_STATUS_WHOLD 0 n) Fld.STK_EVENT_WHOLD_OFF n).mem.waiting = [] from hw]
        rfl
      unfold holdStep
      simp only [h1, decide_true, Bool.not_true, Bool.false_and, Bool.true_and, Bool.false_eq_true, if_false, decide_eq_true_eq]
      rw [if_pos h, hr]
    rw [he, rd_flag_other _ _ _ _ _ _ _ (by decide) (apart_whold_off n), rd_wr_same _ _ _ _ _ (by decide) (by decide)]
    exact ⟨rfl, fun _ => rd_flag_same _ _ _ _ (by decide) (by decide)⟩
  · have he : holdStep s n = s := by
      unfold holdStep
      simp only [h1, decide_false, Bool.not_false, Bool.true_and, Bool.false_and, Bool.false_eq_true, if_false, decide_eq_true_eq]
      exact if_neg (by omega)
    have := rd_lt s Fld.STK_STATUS_WHOLD n 0
    rw [he]
    exact ⟨by change _ < 2 at this; omega, fun h2 => absurd h2 h1⟩

theorem refreshStep_cases (s : State) (n : Nat) : refreshStep s n = s ∨ ∃ k, refreshStep s n = setStk s n k ∧ k.hot = (stk s n).hot := by
  unfold refreshStep
  extract_lets k floor want
  split
  · exact .inl rfl
  · exact .inr ⟨_, rfl, rfl⟩

theorem refreshStep_stk (s : State) (n : Nat) : refreshStep s n = { s with stk := (refreshStep s n).stk } := by
  obtain h | ⟨k, h, -⟩ := refreshStep_cases s n <;> rw [h]
  rfl

theorem refreshStep_hot (s : State) (n : Nat) : (stk (refreshStep s n) n).hot = (stk s n).hot := by
  obtain h | ⟨k, h, hk⟩ := refreshStep_cases s n <;> rw [h]
  rw [stk_setStk, if_pos rfl, hk]

/-- Every die of a stack read. -/
def diesRead (s : State) (n : Nat) (temps : List Int) : State := (List.range 16).foldl (fun s d => readDie s n d (reading (temps.getD d 0))) s

theorem exec_dieTempRead (s : State) (n : Fin 12) (temps : List Int) :
    exec (.dieTempRead n temps) s = .next (refreshStep (holdStep (diesRead (quiet s) n.val temps) n.val) n.val) := rfl

theorem hottest_le {s : State} {n : Nat} {c : Int} (hc : 0 ≤ c) : hottest s n ≤ c ↔ ∀ d < 16, readoutOf s n d ≤ c := by
  unfold hottest
  rw [foldl_max_le]
  simp [hc]

/-! Changes of mode (R145, R146) -/

theorem enterMode_idle {s : State} {n d : Nat} (h : bitsOf (stk s n).entering d 1 = 0 ∨ bitsOf (stk s n).clearing d 1 = 1 ∨
    procDie s.img n d = true ∨ ∃ i < 4, acceptedOf s.mem (n * 64 + d * 4 + i) ≠ []) : enterMode s n d = s := by
  unfold enterMode
  refine if_pos ?_
  simpa only [Bool.or_eq_true, decide_eq_true_eq, Bool.not_eq_true', List.all_eq_false, List.mem_range, List.isEmpty_iff, or_assoc] using h

theorem exitMode_idle {s : State} {n d : Nat} (h : bitsOf (stk s n).leaving d 1 = 0 ∨ procDie s.img n d = false ∨
    ∃ c ∈ (stk s n).queue, dieOfChan c.chan = d) : exitMode s n d = s := by
  unfold exitMode
  refine if_pos ?_
  simp only [Bool.or_eq_true, decide_eq_true_eq, Bool.not_eq_true', Bool.and_eq_false_iff, Bool.not_eq_false', List.any_eq_true, or_assoc]
  exact h.imp_right (Or.imp_right .inl)

/-- A die's mode bit changed, and its units reset with its map to be cleared. -/
def modeChanged (s : State) (n d m : Nat) : State := setStk (setPmask s n m) n (resetDie (stk s n) d)

theorem enterMode_enters {s : State} {n d : Nat} (he : bitsOf (stk s n).entering d 1 = 1) (hc : bitsOf (stk s n).clearing d 1 = 0)
    (hp : procDie s.img n d = false) (hq : ∀ i < 4, acceptedOf s.mem (n * 64 + d * 4 + i) = []) :
    enterMode s n d = if bitsOf (stk s n).hot d 1 = 1 then flag (modeChanged s n d (pmask s.img n + 2 ^ d)) Fld.STK_EVENT_HALVE n
      else modeChanged s n d (pmask s.img n + 2 ^ d) := by
  have hall : (List.range 4).all (fun i => (acceptedOf s.mem (n * 64 + d * 4 + i)).isEmpty) = true :=
    List.all_eq_true.2 (fun i hi => List.isEmpty_iff.2 (hq i (List.mem_range.1 hi)))
  unfold enterMode
  simp only [he, hc, hp, hall, Nat.reduceEqDiff, decide_false, Bool.not_true, Bool.or_self, Bool.false_eq_true, if_false]
  rfl

theorem exitMode_leaves {s : State} {n d : Nat} (hl : bitsOf (stk s n).leaving d 1 = 1) (hp : procDie s.img n d = true)
    (hq : ∀ c ∈ (stk s n).queue, dieOfChan c.chan ≠ d) (hu : ∀ e ∈ (stk s n).units, dieOfChan (e.1 / 16) = d → e.2.held = []) :
    exitMode s n d = modeChanged s n d (pmask s.img n - 2 ^ d) := by
  have hq' : (stk s n).queue.any (fun c => dieOfChan c.chan = d) = false :=
    List.any_eq_false.2 (fun c hc => by simpa using hq c hc)
  have hu' : (stk s n).units.any (fun e => dieOfChan (e.1 / 16) = d && !e.2.held.isEmpty) = false :=
    List.any_eq_false.2 (fun e he => by simpa using hu e he)
  unfold exitMode
  simp only [hl, hp, hq', hu', Nat.reduceEqDiff, decide_false, Bool.not_true, Bool.not_false, Bool.and_self, Bool.or_self, Bool.false_eq_true,
    if_false]
  rfl

/-- The mode bit of every other die stays, and the die's units are as at reset while its map is cleared. -/
theorem modeChanged_facts {s : State} {n d m : Nat} :
    (∀ k e, procDie (modeChanged s n d m).img k e = if k = n then decide (bitsOf m e 1 = 1) else procDie s.img k e) ∧
    bitsOf (stk (modeChanged s n d m) n).clearing d 1 = 1 ∧
    ∀ v, dieOfChan (v / 16) = d → bankUnit (stk (modeChanged s n d m) n) v = .reset := by
  have hs : stk (modeChanged s n d m) n = resetDie (stk s n) d := (stk_setStk _ _ _ _).trans (if_pos rfl)
  refine ⟨fun k e => ?_, by rw [hs]; exact bitsOf_or_bit _ _, fun v hv => ?_⟩
  · have hk : pmask (modeChanged s n d m).img k = if k = n then m else pmask s.img k := KMap.get_set _ _ _ _ _
    unfold procDie
    rw [hk]
    split <;> rfl
  · rw [hs]
    exact KMap.get_filter_out _ (fun j => decide (dieOfChan (j / 16) ≠ d)) (by simpa using hv) _

theorem modeChanged_frame (s : State) (n d m : Nat) : modeChanged s n d m = { s with
    stk := (modeChanged s n d m).stk
    img := { s.img with pmask := (modeChanged s n d m).img.pmask } } := rfl

/-! The map of a die cleared (R145) -/

theorem mapCleared_idle {s : State} {n d : Nat} (h : bitsOf (stk s n).clearing d 1 = 0) : mapCleared s n d = s := if_pos h

theorem mapCleared_clears {s : State} {n d : Nat} (h : bitsOf (stk s n).clearing d 1 = 1) : mapCleared s n d =
    setStk { s with
      mem := clearDieMap s.mem n d
      kvm := { s.kvm with pairs := s.kvm.pairs.filter (fun e => !(unitStack e.1 = n && dieOfChan (e.1 % 1024 / 16) = d)) } } n
      { stk s n with
        clearing := (stk s n).clearing - 2 ^ d
        entering := (stk s n).entering - bitsOf (stk s n).entering d 1 * 2 ^ d } :=
  if_neg (by omega)

/-- A bit taken off where it stands is clear. -/
theorem bitsOf_dropped (x d : Nat) : bitsOf (x - bitsOf x d 1 * 2 ^ d) d 1 = 0 := by
  by_cases h : bitsOf x d 1 = 1
  · rw [h, Nat.one_mul, bitsOf_sub_bit h, if_pos rfl]
  · rw [bitsOf_one_ne h, Nat.zero_mul, Nat.sub_zero, bitsOf_one_ne h]

/-- The die's units are unwritten, and its pairs free. -/
theorem mapCleared_facts {s : State} {n d : Nat} (h : bitsOf (stk s n).clearing d 1 = 1) :
    bitsOf (stk (mapCleared s n d) n).clearing d 1 = 0 ∧ bitsOf (stk (mapCleared s n d) n).entering d 1 = 0 ∧
    (∀ v, (n * 64 + d * 4) * 2 ^ 19 ≤ v → v < (n * 64 + d * 4 + 4) * 2 ^ 19 → v ∉ (mapCleared s n d).mem.written) ∧
    ∀ p, unitStack p = n → dieOfChan (p % 1024 / 16) = d → pairOf (mapCleared s n d) p = none := by
  rw [mapCleared_clears h, stk_setStk, if_pos rfl]
  refine ⟨?_, bitsOf_dropped _ _, fun v hlo hhi hv => ?_, fun p hp hd => ?_⟩
  · exact (bitsOf_sub_bit h d).trans (if_pos rfl)
  · have hf := (List.mem_filter.1 hv).2
    simp only [Bool.not_eq_true', Bool.and_eq_false_iff, decide_eq_false_iff_not] at hf
    omega
  · exact KMap.get_filter_out (α := Option Pair) _ (fun j => !(unitStack j = n && dieOfChan (j % 1024 / 16) = d)) (by simp [hp, hd]) _

/-! Refresh (R105) -/

/-- A bank of each channel of a stack. -/
def bankOfAll (b : Nat) : List Nat := (List.range 64).map (fun ch => ch * 32 + b)

/-- The stack once a bank of its channels is being refreshed. -/
def refreshed (k : Stack) (b now : Nat) : Stack :=
  { k with
    trefi := if k.trefiAt / 3120 < now / 3120 then k.trefiNext else k.trefi
    refreshing := (bankOfAll b).foldl (fun m x => KMap.set (fun _ => 0) m x (now + 108)) k.refreshing
    openRow := (bankOfAll b).foldl (fun m x => KMap.set (fun _ => 0) m x 0) k.openRow }

theorem exec_bankRefresh (s : State) (n : Fin 12) (b : Fin 32) :
    exec (.bankRefresh n b) s = .next (setStk (quiet s) n.val (refreshed (stk s n.val) b.val (bankCycle s))) := rfl

theorem refreshed_bank (k : Stack) {b now ch : Nat} (h : ch < 64) :
    KMap.get (fun _ => 0) (refreshed k b now).refreshing (ch * 32 + b) = now + 108 ∧
    KMap.get (fun _ => 0) (refreshed k b now).openRow (ch * 32 + b) = 0 := by
  have hm : ch * 32 + b ∈ bankOfAll b := List.mem_map.2 ⟨ch, List.mem_range.2 h, rfl⟩
  unfold refreshed
  dsimp only
  rw [KMap.get_foldl_set, KMap.get_foldl_set, if_pos hm, if_pos hm]
  exact ⟨rfl, rfl⟩

/-! The obligation -/

/-- A read of every die is seen in the readouts and the hot bits, and begins or ends write hold. -/
theorem dieTempRead_facts {s : State} (n : Fin 12) (temps : List Int)
    (hr : ∀ d < 16, replaced s n.val (reading (temps.getD d 0)) = false) (hw : s.mem.waiting = []) :
    ∃ t, exec (.dieTempRead n temps) s = .next t ∧
    t = { s with out := [], regs := t.regs, stk := t.stk, pwr := { s.pwr with readout := t.pwr.readout } } ∧
    (∀ d < 16, readoutOf t n.val d = reading (temps.getD d 0) ∧
      bitsOf (stk t n.val).hot d 1 = hotBit (reading (temps.getD d 0)) (bitsOf (stk s n.val).hot d 1)) ∧
    (∀ d < 16, 105 < reading (temps.getD d 0) → rd t Fld.STK_STATUS_WHOLD n.val = 1 ∧
      (rd s Fld.STK_STATUS_WHOLD n.val = 0 → rd t Fld.STK_EVENT_WHOLD_ON n.val = 1)) ∧
    ((∀ d < 16, reading (temps.getD d 0) ≤ 102) → rd t Fld.STK_STATUS_WHOLD n.val = 0 ∧
      (rd s Fld.STK_STATUS_WHOLD n.val = 1 → rd t Fld.STK_EVENT_WHOLD_OFF n.val = 1)) := by
  have hd : DiesRead (quiet s) (diesRead (quiet s) n.val temps) n.val (List.range 16) (fun d => reading (temps.getD d 0)) :=
    diesRead_fold _ _ List.nodup_range (fun d hd => hr d (List.mem_range.1 hd))
  rw [exec_dieTempRead]
  generalize diesRead (quiet s) n.val temps = u at hd
  have hwu : u.mem.waiting = [] := by rw [hd.frame]; exact hw
  have hm : ∀ d, d ∈ List.range 16 ↔ d < 16 := fun d => List.mem_range
  have hout : ∀ d < 16, readoutOf u n.val d = reading (temps.getD d 0) := fun d h => by rw [hd.readout, if_pos ((hm d).2 h)]
  have hh := holdStep_regs n.val hwu
  refine ⟨_, rfl, ?_, fun d h => ⟨?_, ?_⟩, fun d h h105 => ?_, fun hcool => ?_⟩
  · rw [refreshStep_stk, hh, hd.frame]
    rfl
  · rw [refreshStep_stk, hh]
    exact hout d h
  · rw [refreshStep_hot, hh]
    have := hd.hot d
    rw [if_pos ((hm d).2 h)] at this
    exact this
  · have h1 : 105 < hottest u n.val := by
      by_contra hc
      have := (hottest_le (by decide)).1 (not_lt.1 hc) d h
      rw [hout d h] at this
      omega
    have h2 := holdStep_hot h1
    rw [hd.whold] at h2
    rw [refreshStep_stk]
    exact h2
  · have h1 : hottest u n.val ≤ 102 := (hottest_le (by decide)).2 (fun d h => by
      rw [hout d h]
      exact Int.ofNat_le.2 (hcool d h))
    have h2 := holdStep_cool hwu h1
    rw [hd.whold] at h2
    rw [refreshStep_stk]
    exact h2

/-- A die enters processor mode: no other die's mode changes. -/
theorem processorModeEntry_enters {s : State} (n : Fin 12) (d : Fin 16) (he : bitsOf (stk s n.val).entering d.val 1 = 1)
    (hc : bitsOf (stk s n.val).clearing d.val 1 = 0) (hp : procDie s.img n.val d.val = false)
    (hq : ∀ i < 4, acceptedOf s.mem (n.val * 64 + d.val * 4 + i) = []) : ∃ t, exec (.processorModeEntry n d) s = .next t ∧
    t = { s with out := [], regs := t.regs, stk := t.stk, img := { s.img with pmask := t.img.pmask } } ∧
    procDie t.img n.val d.val = true ∧ (∀ m e, e < 16 → (m, e) ≠ (n.val, d.val) → procDie t.img m e = procDie s.img m e) ∧
    bitsOf (stk t n.val).clearing d.val 1 = 1 ∧ ∀ v, dieOfChan (v / 16) = d.val → bankUnit (stk t n.val) v = .reset := by
  have hx := enterMode_enters (s := quiet s) he hc hp hq
  obtain ⟨hmode, hclear, hunits⟩ := modeChanged_facts (s := quiet s) (n := n.val) (d := d.val) (m := pmask s.img n.val + 2 ^ d.val)
  have hbit := bitsOf_add_bit (bitsOf_one_ne (of_decide_eq_false hp))
  have hother : ∀ m e, e < 16 → (m, e) ≠ (n.val, d.val) →
      procDie (modeChanged (quiet s) n.val d.val (pmask s.img n.val + 2 ^ d.val)).img m e = procDie s.img m e := by
    intro m e _ hne
    rw [hmode, hbit]
    split
    · next hm =>
      rw [if_neg (fun hed => hne (by rw [hm, hed])), hm]
      rfl
    · rfl
  have hself : procDie (modeChanged (quiet s) n.val d.val (pmask s.img n.val + 2 ^ d.val)).img n.val d.val = true := by
    rw [hmode, if_pos rfl, hbit, if_pos rfl]
    rfl
  refine ⟨_, congrArg Host.Outcome.next hx, ?_⟩
  split
  · exact ⟨rfl, hself, hother, hclear, hunits⟩
  · exact ⟨rfl, hself, hother, hclear, hunits⟩

/-- A die leaves processor mode: no other die's mode changes. -/
theorem processorModeExit_leaves {s : State} (n : Fin 12) (d : Fin 16) (hl : bitsOf (stk s n.val).leaving d.val 1 = 1)
    (hp : procDie s.img n.val d.val = true) (hq : ∀ c ∈ (stk s n.val).queue, dieOfChan c.chan ≠ d.val)
    (hu : ∀ e ∈ (stk s n.val).units, dieOfChan (e.1 / 16) = d.val → e.2.held = []) : ∃ t, exec (.processorModeExit n d) s = .next t ∧
    t = { s with out := [], stk := t.stk, img := { s.img with pmask := t.img.pmask } } ∧ procDie t.img n.val d.val = false ∧
    (∀ m e, e < 16 → (m, e) ≠ (n.val, d.val) → procDie t.img m e = procDie s.img m e) ∧ bitsOf (stk t n.val).clearing d.val 1 = 1 := by
  have hx := exitMode_leaves (s := quiet s) hl hp hq hu
  obtain ⟨hmode, hclear, -⟩ := modeChanged_facts (s := quiet s) (n := n.val) (d := d.val) (m := pmask (quiet s).img n.val - 2 ^ d.val)
  have hbit := bitsOf_sub_bit (x := pmask (quiet s).img n.val) (of_decide_eq_true hp)
  refine ⟨_, congrArg Host.Outcome.next hx, rfl, ?_, fun m e _ hne => ?_, hclear⟩
  · rw [hmode, if_pos rfl]
    exact decide_eq_false (by rw [hbit, if_pos rfl]; decide)
  · rw [hmode, hbit]
    split
    · next hm =>
      rw [if_neg (fun hed => hne (by rw [hm, hed])), hm]
      rfl
    · rfl

/-- Settles O16, command by command. -/
theorem stackDies : Obligations.StackDies := by
  unfold Obligations.StackDies
  refine ⟨fun s n b => ⟨_, exec_bankRefresh s n b, rfl, fun ch h => ?_, ?_, ?_, fun m hm => ?_⟩, fun s n temps hr hw => ?_, fun s n => rfl,
    fun s n d => ⟨fun h => ?_, fun he hc hp hq => ?_, fun h => ?_, fun hl hp hq hu => ?_, fun h => ?_, fun h => ?_⟩⟩
  · rw [stk_setStk, if_pos rfl]
    exact refreshed_bank _ h
  · rw [stk_setStk, if_pos rfl]; rfl
  · rw [stk_setStk, if_pos rfl]; rfl
  · rw [stk_setStk, if_neg hm]; rfl
  · exact dieTempRead_facts n temps hr hw
  · exact congrArg Host.Outcome.next (enterMode_idle (s := quiet s) h)
  · exact processorModeEntry_enters n d he hc hp hq
  · exact congrArg Host.Outcome.next (exitMode_idle (s := quiet s) h)
  · exact processorModeExit_leaves n d hl hp hq hu
  · exact congrArg Host.Outcome.next (mapCleared_idle (s := quiet s) h)
  · obtain ⟨hc, he, hw, hp⟩ := mapCleared_facts (s := quiet s) (n := n.val) (d := d.val) h
    refine ⟨_, rfl, ?_, hc, he, hw, hp⟩
    rw [mapCleared_clears (s := quiet s) h]
    rfl

end Sys2Proof.Machine
end
section
/-! PROOFS. O8 fails: a hash that lists a channel twice puts two hashed lines at one line of a stack. -/

namespace Sys2Proof.Machine

/-- A machine whose hash lists its only channel twice: offsets 0 and 256 of hashed space stand at the same line of that channel. -/
def sharedPlace : State := { State.reset with img := { Image.none with hash := ⟨[0, 0], []⟩ } }

/-- The counterexample meets every hypothesis that O8 has for a meteor write at offset 0. -/
theorem sharedPlace_open : sharedPlace.mem.formOk = true ∧ lineFree sharedPlace 0 (offOf 0) = true ∧ mirrorOf sharedPlace (offOf 0) = none ∧
    hashedOpen sharedPlace .supervisor 0 (.meteorWrite 1 false) = true ∧ lineNo sharedPlace (offOf 0) ≠ none := by
  decide +kernel

/-- The byte at 256, which the store does not name, reads 0 before it and 1 after it. -/
theorem sharedPlace_meteorWrite : peekByte sharedPlace 256 = 0#8 ∧
    ∀ t, exec (.meteorWrite .supervisor 0 1 false) sharedPlace = .next t → peekByte t 256 = 1#8 := by
  refine ⟨by decide +kernel, fun t h => ?_⟩
  have hrun : (match exec (.meteorWrite .supervisor 0 1 false) sharedPlace with
    | .next t => decide (peekByte t 256 = 1#8)
    | _ => false) = true := by decide +kernel
  rw [h] at hrun
  exact of_decide_eq_true hrun

/-- Refutes O8: no hypothesis keeps the hash from listing a channel twice. Of two hashed lines at one line of a stack a meteor write
that finds its line in no slice stores the bytes in the stack, and the other line, in no slice either, reads them too. -/
theorem not_hashedReadsAndStores : ¬ Obligations.HashedReadsAndStores := by
  unfold Obligations.HashedReadsAndStores
  rintro ⟨-, -, hmeteor, -⟩
  obtain ⟨hform, hfree, hmirror, hopen, hline⟩ := sharedPlace_open
  obtain ⟨hbefore, hafter⟩ := sharedPlace_meteorWrite
  obtain ⟨t, hx, -, hbytes⟩ := hmeteor sharedPlace .supervisor 0 1 false hform hfree hmirror hopen hline
  have h256 := (hafter t hx).symm.trans (hbytes 256)
  rw [if_neg (by decide), hbefore] at h256
  exact absurd h256 (by decide)

end Sys2Proof.Machine
end
section
/-! PROOFS. O10: indexed reductions of hashed lines (R114, R115). -/

namespace Sys2Proof.Machine

/-! A hub-side access to a hashed line -/

/-- A hashed access is to space 0 of this part, at an offset that suits it. -/
theorem hashedOpen_fits {s : State} {who : Requester} {a : GAddr} {kind : AccessKind} (h : hashedOpen s who a kind = true) :
    isLocal s a = true ∧ spaceOf a = 0 ∧ accessFits (offOf a) kind = true := by
  simp only [hashedOpen, Bool.and_eq_true, decide_eq_true_eq] at h
  exact ⟨h.1.1.1.1.1.1, h.1.1.1.1.1.2, h.1.1.1.1.2⟩

theorem accessFor_hashed {s t : State} {who : Requester} {a : GAddr} {kind : AccessKind} {ecc : Ecc} {ans : Answer}
    (h : hashedOpen s who a kind = true) (hp : performHashed s who (offOf a) kind ecc = (t, ans, none)) (hr : ans ≠ .retry) :
    accessFor s (.hub who) who a kind ecc = hubAnswer t who ans := by
  obtain ⟨hl, hsp, -⟩ := hashedOpen_fits h
  exact accessFor_local hl (by rw [hsp]; decide) ((localAccess_hashedOpen _ _ h).trans hp) hr

/-- An answer that is not an error of the address is told as it is. -/
theorem hubAnswer_plain (s : State) (who : Requester) {a : Answer}
    (h : a ∈ [.done, .retry, .reduceBusy, .reduceIndex, .reduceDup, .reduceMismatch, .timeout]) : hubAnswer s who a = reply s who a := by
  simp only [List.mem_cons, List.not_mem_nil, or_false] at h
  unfold hubAnswer
  split
  · obtain rfl | rfl | rfl | rfl | rfl | rfl | rfl := h <;> rfl
  · rfl

/-- A contribution names a whole line. -/
theorem contribute_aligned {s : State} {who : Requester} {a : GAddr} {q : Contribution} (h : hashedOpen s who a (.contribute q) = true) :
    offOf a % 64 = 0 := by
  obtain ⟨-, -, hfit⟩ := hashedOpen_fits h
  simp only [accessFits, Bool.and_eq_true, decide_eq_true_eq] at hfit
  exact hfit.1

theorem line_of_aligned {off : Nat} (h : off % 64 = 0) : off / 64 * 64 = off := by omega

/-! A contribution at its slice -/

/-- What a contribution leaves in its reduction: one partial of one element. -/
def partialOf (q : Contribution) : RedNode := ⟨1, q.data, q.poison⟩

/-- The reduction that a first contribution opens. -/
def begun (slice addr : Nat) (q : Contribution) : OpenReduction := ⟨slice, addr, q.format, q.count.toNat, q.accum, q.completion, 0, [], []⟩

/-- The slice of a line. -/
def sliceAt (s : State) (off : Nat) : Nat := homeDie s off * 16 + sliceOf off

/-- A partial of index 0 is pushed at once. -/
theorem drainParked_begun_zero {slice addr : Nat} {q : Contribution} (h : q.index.toNat = 0) :
    drainParked 4097 { begun slice addr q with parked := [(q.index.toNat, partialOf q)] } =
      { begun slice addr q with next := 1, stack := [partialOf q] } := by
  rw [h]
  rfl

/-- A partial of a later index stays parked. -/
theorem drainParked_begun_later (n : Nat) {slice addr : Nat} {q : Contribution} (h : 0 < q.index.toNat) :
    drainParked n { begun slice addr q with parked := [(q.index.toNat, partialOf q)] } =
      { begun slice addr q with parked := [(q.index.toNat, partialOf q)] } := by
  cases n with
  | zero => rfl
  | succ n => simp [drainParked, takeFirst, begun, Nat.ne_of_gt h]

theorem find_reduction_of_free {s : State} {off : Nat} (h : lineFree s 0 off = true) (hal : off % 64 = 0) :
    s.mem.reductions.find? (fun r => r.addr = localAddr s 0 off) = none := by
  rw [List.find?_eq_none]
  simpa [lineFree, line_of_aligned hal] using h

/-- With no reduction open on its line, a contribution within its count and the slice's entries is taken: it closes a reduction of its
own, or is added to the open ones. -/
theorem contributeAt_first {s : State} {slice addr : Nat} {q : Contribution} (hf : s.mem.reductions.find? (fun r => r.addr = addr) = none)
    (hi : q.index.toNat < q.count.toNat) (hs : slicesUsed s slice < 256) (hp : q.index.toNat ≠ 0 → parkedUsed s slice < 64)
    {r : OpenReduction} (hr : drainParked 4097 { begun slice addr q with parked := [(q.index.toNat, partialOf q)] } = r) :
    contributeAt s slice addr q = if r.next = r.count then (s, .done, (closeStack r.format r.stack).map (fun x => (r, x)))
      else ({ s with mem := { s.mem with reductions := s.mem.reductions ++ [r] } }, .done, none) := by
  have hothers : s.mem.reductions.filter (fun x => x.addr ≠ addr) = s.mem.reductions :=
    List.filter_eq_self.2 (fun x hx => by simpa using List.find?_eq_none.1 hf x hx)
  have hpark : ¬(q.index.toNat ≠ 0 ∧ parkedUsed s slice ≥ 64) := fun h => absurd (hp h.1) (Nat.not_lt.2 h.2)
  subst hr
  unfold contributeAt
  simp only [hf, if_neg (Nat.not_le.2 hi), if_neg (Nat.not_le.2 hs), if_neg hpark, hothers]
  rfl

/-- A contribution that closes nothing answers as its slice does. -/
theorem performHashed_contribute {s t : State} {who : Requester} {off : Nat} {q : Contribution} {ecc : Ecc} {ans : Answer} (hal : off % 64 = 0)
    (h : contributeAt s (sliceAt s off) (localAddr s 0 off) q = (t, ans, none)) : performHashed s who off (.contribute q) ecc = (t, ans, none) := by
  unfold sliceAt at h
  unfold performHashed
  simp only [line_of_aligned hal, h]

/-- A contribution that closes nothing, taken or refused, is answered so. -/
theorem exec_contribute {s t : State} {who : Requester} {a : GAddr} {q : Contribution} {ans : Answer}
    (ho : hashedOpen s who a (.contribute q) = true) (hx : ans ∈ [.done, .reduceIndex, .reduceDup, .reduceMismatch])
    (h : contributeAt (quiet s) (sliceAt s (offOf a)) (localAddr s 0 (offOf a)) q = (t, ans, none)) :
    exec (.redContribution who a q) s = .next (reply t who ans) := by
  have hp := performHashed_contribute (who := who) (ecc := .clean) (s := quiet s) (contribute_aligned ho) h
  have hne : ans ≠ .retry := by rintro rfl; simp at hx
  refine congrArg Host.Outcome.next ((accessFor_hashed (s := quiet s) ho hp hne).trans (hubAnswer_plain _ _ ?_))
  simp only [List.mem_cons, List.not_mem_nil, or_false] at hx ⊢
  tauto

/-- A contribution of index 0 of several opens a reduction that holds it. -/
theorem redContribution_opens {s : State} {who : Requester} {a : GAddr} {q : Contribution} (ho : hashedOpen s who a (.contribute q) = true)
    (hf : lineFree s 0 (offOf a) = true) (h0 : q.index = 0) (h2 : 2 ≤ q.count.toNat) (hs : slicesUsed s (sliceAt s (offOf a)) < 256) :
    exec (.redContribution who a q) s = .next { s with
      out := [⟨some who, .done⟩]
      mem := { s.mem with reductions := s.mem.reductions ++
        [{ begun (sliceAt s (offOf a)) (localAddr s 0 (offOf a)) q with next := 1, stack := [partialOf q] }] } } := by
  have hi : q.index.toNat = 0 := by rw [h0]; rfl
  have hc := contributeAt_first (s := quiet s) (find_reduction_of_free (s := quiet s) hf (contribute_aligned ho)) (by omega) hs (absurd hi)
    (drainParked_begun_zero hi)
  exact exec_contribute ho (by simp) (hc.trans (if_neg (show 1 ≠ q.count.toNat by omega)))

/-- A contribution of a later index opens a reduction and is parked in it. -/
theorem redContribution_parks {s : State} {who : Requester} {a : GAddr} {q : Contribution} (ho : hashedOpen s who a (.contribute q) = true)
    (hf : lineFree s 0 (offOf a) = true) (h0 : 0 < q.index.toNat) (hi : q.index.toNat < q.count.toNat)
    (hs : slicesUsed s (sliceAt s (offOf a)) < 256) (hp : parkedUsed s (sliceAt s (offOf a)) < 64) :
    exec (.redContribution who a q) s = .next { s with
      out := [⟨some who, .done⟩]
      mem := { s.mem with reductions := s.mem.reductions ++
        [{ begun (sliceAt s (offOf a)) (localAddr s 0 (offOf a)) q with parked := [(q.index.toNat, partialOf q)] }] } } := by
  have hc := contributeAt_first (s := quiet s) (find_reduction_of_free (s := quiet s) hf (contribute_aligned ho)) hi hs (fun _ => hp)
    (drainParked_begun_later 4097 h0)
  exact exec_contribute ho (by simp) (hc.trans (if_neg (show 0 ≠ q.count.toNat by omega)))

/-- A store to a line that is in its slice or has an invalid way there, and in no mirrored region: memory alone changes, with the
loader's list of written units, and of memory in its form every other line reads as before. -/
theorem writeLine_ready {s : State} {off : Nat} (who : Requester) (d : BitVec 512) (p : Bool) (hway : wayReady s off = true)
    (hmir : mirrorOf s off = none) : ∃ t, writeLine s who off d p = t ∧ t = { s with mem := t.mem, load := t.load } ∧
      peekLine t off = (d, p) ∧ (s.mem.formOk = true → ∀ o, o / 64 ≠ off / 64 → peekLine t o = peekLine s o) := by
  have hl := sameLayout_noteWrite s who off
  have hr : (cacheSet (noteWrite s who off).mem (setKey (homeDie (noteWrite s who off) off) off)).ready (off / 64) = true := by
    rw [noteWrite_mem, hl.homeDie]
    exact hway
  have ht := CacheSet.takes_wayOf hr
  have hw := allocate_ready d p true hr
  have hlt : SameLayout (noteWrite s who off) (allocate (noteWrite s who off) (homeDie (noteWrite s who off) off) off d p true) := by
    rw [hw]
    exact SameLayout.of_load rfl rfl rfl
  refine ⟨_, (writeLine_single who d p hmir).trans hw, ?_, ?_, fun hform o ho => ?_⟩
  · rw [noteWrite_units]
  · refine peekLine_hit (l := ⟨off / 64, true, d, p⟩) ?_
    rw [hw] at hlt
    rw [hlt.homeDie]
    exact cached_placed_same ht rfl
  · rw [hw] at hlt
    have h1 := oneLine_placed (by rw [noteWrite_mem]; exact hform) ht (l := ⟨off / 64, true, d, p⟩) rfl
    exact (peekLine_of_oneLine hlt h1 ho).trans (hl.peekLine (noteWrite_mem s who off) o)

/-- A contribution alone in its reduction closes it at once, and its data is stored (R114). -/
theorem performHashed_lone {s : State} {who : Requester} {off : Nat} {q : Contribution} (ecc : Ecc) (hal : off % 64 = 0)
    (hf : lineFree s 0 off = true) (h0 : q.index = 0) (h1 : q.count = 1) (ha : q.accum = false) (hc : q.completion = none)
    (hs : slicesUsed s (sliceAt s off) < 256) :
    performHashed s who off (.contribute q) ecc = (writeLine s who off q.data q.poison, .done, none) := by
  have hi : q.index.toNat = 0 := by rw [h0]; rfl
  have hn : q.count.toNat = 1 := by rw [h1]; rfl
  have hx := contributeAt_first (find_reduction_of_free hf hal) (by omega) hs (absurd hi) (drainParked_begun_zero hi)
  have hx := hx.trans (if_pos hn.symm)
  unfold sliceAt at hx
  unfold performHashed
  simp only [line_of_aligned hal, hx, closeStack, Option.map, List.foldl, begun, ha, hc, partialOf, Bool.false_eq_true, if_false]

/-- The data of a lone contribution reads back; with memory in its form every other byte reads as before. -/
theorem redContribution_lone {s : State} {who : Requester} {a : GAddr} {q : Contribution} (ho : hashedOpen s who a (.contribute q) = true)
    (hf : lineFree s 0 (offOf a) = true) (h0 : q.index = 0) (h1 : q.count = 1) (ha : q.accum = false) (hc : q.completion = none)
    (hs : slicesUsed s (sliceAt s (offOf a)) < 256) (hway : wayReady s (offOf a) = true) (hmir : mirrorOf s (offOf a) = none) :
    ∃ t, exec (.redContribution who a q) s = .next t ∧
      t = { s with out := [⟨some who, .done⟩], mem := t.mem, load := t.load } ∧ peekLine t (offOf a) = (q.data, q.poison) ∧
      (s.mem.formOk = true → ∀ o, o / 64 ≠ offOf a / 64 → peekByte t o = peekByte s o) := by
  have hp := performHashed_lone (s := quiet s) (who := who) .clean (contribute_aligned ho) hf h0 h1 ha hc hs
  obtain ⟨t, ht, hfr, hread, hother⟩ := writeLine_ready (s := quiet s) who q.data q.poison hway hmir
  rw [ht] at hp
  have hout : t.out = [] := by rw [hfr]; rfl
  refine ⟨_, congrArg Host.Outcome.next ((accessFor_hashed (s := quiet s) ho hp (by simp)).trans (hubAnswer_done t who)), ?_, hread,
    fun hform o hne => ?_⟩
  · unfold reply
    rw [hout, hfr]
    rfl
  · have hline : peekLine (reply t who .done) o = peekLine s o := hother hform o hne
    unfold peekByte
    rw [hline]

theorem contributeAt_count_le {s : State} {slice addr : Nat} {q : Contribution} (hf : s.mem.reductions.find? (fun r => r.addr = addr) = none)
    (hi : q.count.toNat ≤ q.index.toNat) : contributeAt s slice addr q = (s, .reduceIndex, none) := by
  unfold contributeAt
  simp only [hf]
  exact if_pos hi

theorem contributeAt_full {s : State} {slice addr : Nat} {q : Contribution} (hf : s.mem.reductions.find? (fun r => r.addr = addr) = none)
    (hi : q.index.toNat < q.count.toNat) (hs : 256 ≤ slicesUsed s slice) : contributeAt s slice addr q = (s, .retry, none) := by
  unfold contributeAt
  simp only [hf, if_neg (Nat.not_le.2 hi)]
  exact if_pos hs

theorem contributeAt_mismatch {s : State} {slice addr : Nat} {q : Contribution} {r : OpenReduction}
    (hf : s.mem.reductions.find? (fun r => r.addr = addr) = some r)
    (h : r.count ≠ q.count.toNat ∨ r.format ≠ q.format ∨ r.accum ≠ q.accum ∨ r.completion ≠ q.completion) :
    contributeAt s slice addr q = (s, .reduceMismatch, none) := by
  unfold contributeAt
  simp only [hf]
  exact if_pos h

/-- A contribution that matches its open reduction is refused where its index is beyond the count, and where it is already in. -/
theorem contributeAt_refused {s : State} {slice addr : Nat} {q : Contribution} {r : OpenReduction}
    (hf : s.mem.reductions.find? (fun r => r.addr = addr) = some r) (hc : r.count = q.count.toNat) (hfm : r.format = q.format)
    (ha : r.accum = q.accum) (hcp : r.completion = q.completion) :
    (r.count ≤ q.index.toNat → contributeAt s slice addr q = (s, .reduceIndex, none)) ∧
    (q.index.toNat < r.count → q.index.toNat < r.next → contributeAt s slice addr q = (s, .reduceDup, none)) := by
  have hm : ¬(r.count ≠ q.count.toNat ∨ r.format ≠ q.format ∨ r.accum ≠ q.accum ∨ r.completion ≠ q.completion) := by
    simp [hc, hfm, ha, hcp]
  unfold contributeAt
  simp only [hf, if_neg hm]
  exact ⟨fun h => if_pos h, fun h hn => (if_neg (Nat.not_le.2 h)).trans (if_pos (Or.inl hn))⟩

/-- A contribution refused with RETRY is kept, to be resent (R115). -/
theorem redContribution_retry {s : State} {who : Requester} {a : GAddr} {q : Contribution} (ho : hashedOpen s who a (.contribute q) = true)
    (h : contributeAt (quiet s) (sliceAt s (offOf a)) (localAddr s 0 (offOf a)) q = (quiet s, .retry, none)) :
    exec (.redContribution who a q) s = .next { s with
      out := [⟨some who, .retry⟩]
      mem := { s.mem with retries := s.mem.retries ++ [⟨.hub who, who, a.toNat, .contribute q⟩] } } := by
  obtain ⟨hl, hsp, -⟩ := hashedOpen_fits ho
  have hla := (localAccess_hashedOpen (s := quiet s) (.hub who) .clean ho).trans
    (performHashed_contribute (who := who) (ecc := .clean) (s := quiet s) (contribute_aligned ho) h)
  have hl' : isLocal (quiet s) a = true := hl
  have hacc : access (quiet s) (.hub who) who a (.contribute q) .clean = ({ quiet s with
      mem := { s.mem with retries := s.mem.retries ++ [⟨.hub who, who, a.toNat, .contribute q⟩] } }, .retry) := by
    unfold access
    rw [hl']
    simp only [Bool.not_true, Bool.false_eq_true, if_false, if_neg (show spaceOf a ≠ 4 by rw [hsp]; decide), hla]
    rfl
  refine congrArg Host.Outcome.next ?_
  unfold accessFor
  rw [hacc]
  exact hubAnswer_plain _ _ (by simp)

/-! The commands -/

/-- REDUCE_CANCEL drops the reduction of its line (R115). -/
theorem exec_reduceCancel {s : State} {who : Requester} {a : GAddr} (ho : hashedOpen s who a .reduceCancel = true) :
    exec (.reduceCancel who a) s = .next { s with
      out := [⟨some who, .done⟩]
      mem := { s.mem with reductions := s.mem.reductions.filter (fun r => r.addr ≠ localAddr s 0 (offOf a)) } } := by
  obtain ⟨-, -, hfit⟩ := hashedOpen_fits ho
  have hal : offOf a % 64 = 0 := by simpa [accessFits] using hfit
  have hp : performHashed (quiet s) who (offOf a) .reduceCancel .clean = ({ quiet s with
      mem := { s.mem with reductions := s.mem.reductions.filter (fun r => r.addr ≠ localAddr s 0 (offOf a)) } }, .done, none) := by
    unfold performHashed
    simp only [line_of_aligned hal]
    rfl
  exact congrArg Host.Outcome.next ((accessFor_hashed (s := quiet s) ho hp (by simp)).trans (hubAnswer_done _ who))

/-- With a contribution kept, the oldest is offered as a new one. -/
theorem exec_redRetryResend {s : State} {w : Waiting} {rest : List Waiting} {who : Requester} {q : Contribution}
    (h : s.mem.retries = w :: rest) (hor : w.origin = .hub who) (hwho : w.who = who) (hk : w.kind = .contribute q) :
    exec .redRetryResend s =
      exec (.redContribution who (BitVec.ofNat 64 w.addr) q) { s with mem := { s.mem with retries := rest } } := by
  have hq : (quiet s).mem.retries = w :: rest := h
  refine congrArg Host.Outcome.next ?_
  unfold resendRetry
  rw [hq]
  dsimp only
  rw [hor, hwho, hk]
  rfl

/-- Settles O10: each contribution by what its slice answers it. -/
theorem indexedReductions : Obligations.IndexedReductions := by
  unfold Obligations.IndexedReductions
  refine ⟨fun s who a q ho hf => ?_, fun s who a q r ho hr => ⟨fun h => ?_, fun hc hfm ha hcp => ⟨fun h => ?_, fun h hn => ?_⟩⟩,
    fun s h => ?_, fun s w rest who q h hor hwho hk => ⟨_, exec_redRetryResend h hor hwho hk, rfl⟩, fun s who a ho => exec_reduceCancel ho⟩
  · have hnone := find_reduction_of_free (s := quiet s) hf (contribute_aligned ho)
    exact ⟨redContribution_opens ho hf, redContribution_parks ho hf, redContribution_lone ho hf,
      fun hi => exec_contribute ho (by simp) (contributeAt_count_le hnone hi),
      fun hi hs => redContribution_retry ho (contributeAt_full hnone hi hs)⟩
  · exact exec_contribute ho (by simp) (contributeAt_mismatch (s := quiet s) hr h)
  · exact exec_contribute ho (by simp) ((contributeAt_refused (s := quiet s) hr hc hfm ha hcp).1 h)
  · exact exec_contribute ho (by simp) ((contributeAt_refused (s := quiet s) hr hc hfm ha hcp).2 h hn)
  · have hq : (quiet s).mem.retries = [] := h
    refine congrArg Host.Outcome.next ?_
    unfold resendRetry
    rw [hq]
    rfl

end Sys2Proof.Machine
end
section
/-! SUPPORT. The stack side of hashed memory: a background-fill line, a unit cleared, and the oldest accepted write (R100, R102, R104). -/

namespace Sys2Proof.Machine

/-! A background-fill line (R100) -/

@[simp] theorem fillLine_fills (m : Memory) (f : Fill) (i : Nat) : (fillLine m f i).fills = m.fills := by
  unfold fillLine
  split <;> rfl

theorem fillsOf_fillLine (m : Memory) (f : Fill) (i ch : Nat) : fillsOf (fillLine m f i) ch = fillsOf m ch := by
  rw [fillsOf, fillLine_fills]
  rfl

/-- Whether a line's bytes stand in the stack is a matter of the written map and the queued fills. -/
theorem lineLive_congr {m m' : Memory} (hw : m'.written = m.written) (hf : m'.fills = m.fills) (k : Nat) : lineLive m' k ↔ lineLive m k := by
  unfold lineLive fillsOf
  rw [hw, hf]

/-- The fill of the line's unit writes the line unless it has come to it, and counts it as done. -/
theorem fillOneLine_queued {m : Memory} (h : m.formOk = true) {n : Nat} {f : Fill} (hf : f ∈ fillsOf m (chanOfLine n))
    (hu : f.unit = unitOfLine n) : fillOneLine m (chanOfLine n) (unitOfLine n) (n % 64) =
      setFills (fillLine m f (n % 64)) (chanOfLine n) (markFills m n) := by
  unfold fillOneLine
  cases hq : (fillsOf m (chanOfLine n)).find? (fun f => f.unit = unitOfLine n) with
  | none => exact absurd (decide_eq_true hu) (List.find?_eq_none.1 hq f hf)
  | some g =>
    obtain rfl := m.fill_unique h (List.mem_of_find?_eq_some hq) hf ((by simpa using List.find?_some hq : g.unit = unitOfLine n).trans hu.symm)
    simp only [fillsOf_fillLine]
    rfl

theorem fillOneLine_idle {m : Memory} {ch u : Nat} (h : ∀ f ∈ fillsOf m ch, f.unit ≠ u) (i : Nat) : fillOneLine m ch u i = m := by
  have hq : (fillsOf m ch).find? (fun f => f.unit = u) = none := List.find?_eq_none.2 (fun f hf => by simpa using h f hf)
  unfold fillOneLine
  rw [hq]

/-- No read tells a line that the fill has written from one it has still to write. -/
theorem lineView_fillOneLine {m : Memory} (h : m.formOk = true) (n k : Nat) :
    lineView (fillOneLine m (chanOfLine n) (unitOfLine n) (n % 64)) k = lineView m k := by
  by_cases hex : ∃ f ∈ fillsOf m (chanOfLine n), f.unit = unitOfLine n
  · obtain ⟨f, hf, hu⟩ := hex
    have h' := fillOneLine_formOk m (chanOfLine n) (unitOfLine n) (n % 64) h
    have hw : unitOfLine n ∈ m.written := hu ▸ ((m.fills_of_form h _).2 f hf).2
    have hn : n = f.unit * 64 + n % 64 := by rw [hu, unitOfLine]; omega
    rw [fillOneLine_queued h hf hu] at h' ⊢
    have hlive : lineLive (setFills (fillLine m f (n % 64)) (chanOfLine n) (markFills m n)) k ↔ k = n ∨ lineLive m k :=
      (lineLive_congr (m := setFills m (chanOfLine n) (markFills m n)) (m' := setFills (fillLine m f _) _ _) (fillLine_written m f _)
        (by simp only [setFills, fillLine_fills]) k).trans (lineLive_marked hw k)
    by_cases hb : f.written.testBit (n % 64) = true ∨ k ≠ n
    · obtain ⟨hr, hp⟩ := fillLine_keeps (m := m) (hb.imp_right (fun hk => hn ▸ hk))
      refine lineView_congr h h' (hlive.trans (or_iff_right_of_imp ?_)) hr hp
      rintro rfl
      refine ⟨hw, fun g hg he => ?_⟩
      rw [m.fill_unique h hg hf (he.trans hu.symm)]
      exact hb.resolve_right (fun hk => hk rfl)
    · obtain ⟨hb, hk⟩ := not_or.1 hb
      obtain rfl := not_not.1 hk
      rw [lineView_dead h (fun hl => hb (hl.2 f hf hu)), lineView_live h' (hlive.2 (.inl rfl))]
      have hm : fillLine m f (k % 64) = storeLine m k 0#512 false := by
        rw [fillLine, if_neg (fun h1 => hb ((bitsOf_one _ _).1 h1)), ← hn]
      rw [hm]
      exact Prod.ext (rawLine_storeLine_same m k 0#512 false) (mem_poison_storeLine_same m k 0#512 false)
  · rw [fillOneLine_idle (by simpa using hex)]

/-- Of the unit's fill, if it is still queued, the line is done. -/
theorem fillOneLine_marks {m : Memory} (h : m.formOk = true) (n : Nat) {f : Fill}
    (hf : f ∈ fillsOf (fillOneLine m (chanOfLine n) (unitOfLine n) (n % 64)) (chanOfLine n)) (hu : f.unit = unitOfLine n) :
    f.written.testBit (n % 64) = true := by
  by_cases hex : ∃ f ∈ fillsOf m (chanOfLine n), f.unit = unitOfLine n
  · obtain ⟨g, hg, hgu⟩ := hex
    rw [fillOneLine_queued h hg hgu, fillsOf_setFills, if_pos rfl] at hf
    exact (forall_markFills (k := n) rfl).2 (.inl rfl) f hf hu
  · have hnone : ∀ f ∈ fillsOf m (chanOfLine n), f.unit ≠ unitOfLine n := by simpa using hex
    rw [fillOneLine_idle hnone] at hf
    exact absurd hu (hnone f hf)

/-! A unit cleared (R102) -/

/-- The unit of a granule's channel, and the line of that granule. -/
theorem line_in_unit {u i : Nat} (hi : i < 64) : unitOfLine (u * 64 + i) = u ∧ (u * 64 + i) % 64 = i := by
  unfold unitOfLine
  omega

theorem clearUnit_written (m : Memory) (u v : Nat) : v ∈ (clearUnit m u).written ↔ v ≠ u ∧ v ∈ m.written := by
  show v ∈ KSet.del m.written u ↔ _
  rw [KSet.mem_del, and_comm]

/-- The lines of a unit outside the written map read 0. -/
theorem lineView_unwritten {m : Memory} {n : Nat} (h : unitOfLine n ∉ m.written) : lineView m n = (0#512, false) := by
  unfold lineView
  exact if_neg h

/-! The oldest accepted write (R104) -/

theorem acceptedOf_setAccepted (m : Memory) (ch : Nat) (q : List PendingWrite) : acceptedOf (setAccepted m ch q) ch = q :=
  KMap.get_set_same _ _ _ _

/-- A checked read of the line is clean, so the write is performed and nothing is recorded. -/
theorem performOldest_clean {s : State} {ch : Nat} {w : PendingWrite} {rest : List PendingWrite} (hq : acceptedOf s.mem ch = w :: rest)
    (hc : stackClosed s (stackOfLine w.line) = false) :
    performOldest s ch .clean = { s with mem := performWrite (setAccepted s.mem ch rest) w } := by
  have hbad (b : Bool) : (b && Ecc.clean == .uncorrectable) = false := by cases b <;> rfl
  have hcor (b : Bool) : (b && Ecc.clean == .corrected) = false := by cases b <;> rfl
  unfold performOldest
  simp only [hq, hc, hbad, hcor, Bool.false_eq_true, if_false]

theorem performOldest_empty {s : State} {ch : Nat} (ecc : Ecc) (hq : acceptedOf s.mem ch = []) : performOldest s ch ecc = s := by
  unfold performOldest
  rw [hq]

theorem performWrite_accepted (m : Memory) (w : PendingWrite) : (performWrite m w).accepted = m.accepted := by
  rw [performWrite, putLine_frame]

theorem performWrite_waiting (m : Memory) (w : PendingWrite) : (performWrite m w).waiting = m.waiting := by
  rw [performWrite, putLine_frame]

theorem releaseWaiting_empty {s : State} (h : s.mem.waiting = []) : releaseWaiting s = s := by
  refine releaseWaiting_none ?_
  unfold nextFree
  rw [h]
  rfl

end Sys2Proof.Machine
end
section
/-! SUPPORT. The zero-fill of hashed memory: its START, its ABORT, the clearing of a granule and its end (R102, R103). -/

namespace Sys2Proof.Machine

/-! The end of a fill -/

/-- A fill that ends shows its state and its error code, and END. -/
theorem zfillEnd_status (s : State) {state err : Nat} (hs : state < 4) (he : err < 8) :
    rd (zfillEnd s state err) Fld.HUB_ZFILL_STATUS_STATE = state ∧ rd (zfillEnd s state err) Fld.HUB_ZFILL_STATUS_ERR = err ∧
    rd (zfillEnd s state err) Fld.HUB_ZFILL_STATUS_END = 1 := by
  have h (f : Field) : rd (zfillEnd s state err) f =
      rd (flag (wr (wr s Fld.HUB_ZFILL_STATUS_STATE state) Fld.HUB_ZFILL_STATUS_ERR err) Fld.HUB_ZFILL_STATUS_END) f := rfl
  simp only [h]
  refine ⟨?_, ?_, rd_flag_same _ _ _ _ (by decide) (by decide)⟩
  · rw [rd_flag_other _ _ _ _ _ _ _ (by decide) (by decide), rd_wr_other _ _ _ _ _ _ _ _ (by decide) (by decide)]
    exact rd_wr_same _ _ _ _ _ (by decide) hs
  · rw [rd_flag_other _ _ _ _ _ _ _ (by decide) (by decide)]
    exact rd_wr_same _ _ _ _ _ (by decide) he

/-- The progress registers are apart from a field of another register. -/
theorem rd_zfillProgress_other (s : State) (f : Field) (pos done total : Nat) (hp : f.apart Fld.HUB_ZFILL_PCT_PCT 0 0 0 0)
    (hl : f.apart Fld.HUB_ZFILL_POS_LO_POS 0 0 0 0) (hh : f.apart Fld.HUB_ZFILL_POS_HI_POS 0 0 0 0) :
    rd (zfillProgress s pos done total) f = rd s f := by
  unfold zfillProgress progress
  rw [rd_wr_other _ _ _ _ _ _ _ _ (by decide) hp, rd_wr64_other _ _ _ _ _ _ _ _ _ (by decide) (by decide) hl hh]

/-- Progress out of a positive total, in permille. -/
theorem rd_zfillProgress_pct (s : State) (pos : Nat) {done total : Nat} (ht : 0 < total) (hd : done ≤ total) :
    rd (zfillProgress s pos done total) Fld.HUB_ZFILL_PCT_PCT = done * 1000 / total := by
  unfold zfillProgress progress
  rw [if_neg (Nat.ne_of_gt ht)]
  have h1 : done * 1000 / total ≤ 1000 := Nat.div_le_of_le_mul (Nat.mul_le_mul_right _ hd)
  exact rd_wr_same _ _ _ _ _ (by decide) (Nat.lt_of_le_of_lt h1 (by decide))

/-! A START -/

/-- A START that finds no fill running: the range checked, then an empty one done and any other begun. -/
theorem zfillStart_idle {s : State} (h : s.mem.zfill = none) : zfillStart s =
    if zfillBase s % (s.img.hash.chans.length * 4096) ≠ 0 ∨ zfillLen s % (s.img.hash.chans.length * 4096) ≠ 0 then
      zfillEnd (zfillProgress s 0 0 1) 3 1
    else if hashSize s.img.hash < zfillBase s + zfillLen s then zfillEnd (zfillProgress s 0 0 1) 3 2
    else if zfillLen s = 0 then zfillProgress (zfillEnd (zfillProgress s 0 0 1) 2 0) 0 1 1
    else { wr (wr (zfillProgress s 0 0 1) Fld.HUB_ZFILL_STATUS_STATE 1) Fld.HUB_ZFILL_STATUS_ERR 0 with
      mem := { s.mem with zfill := some ⟨zfillBase s / (s.img.hash.chans.length * 4096), zfillLen s / (s.img.hash.chans.length * 4096), []⟩ } } := by
  unfold zfillStart
  simp only [h, Option.isSome_none, Bool.false_eq_true, if_false, gt_iff_lt]
  rfl

theorem zfillStart_running {s : State} (h : s.mem.zfill.isSome = true) : zfillStart s = wr s Fld.HUB_ZFILL_STATUS_ERR 3 := if_pos h

theorem zfillStart_frame (s : State) : zfillStart s = { s with
    regs := (zfillStart s).regs, mem := { s.mem with zfill := (zfillStart s).mem.zfill } } := by
  cases h : s.mem.zfill with
  | none =>
    rw [zfillStart_idle h]
    split
    · rfl
    · split
      · rfl
      · split <;> rfl
  | some z => rw [zfillStart_running (by rw [h]; rfl)]; rfl

/-- A fill that a START begins shows RUNNING and no progress. -/
theorem zfillStart_begins {s : State} (h : s.mem.zfill = none) (hb : zfillBase s % (s.img.hash.chans.length * 4096) = 0)
    (hl : zfillLen s % (s.img.hash.chans.length * 4096) = 0) (h0 : 0 < zfillLen s) (hs : ¬hashSize s.img.hash < zfillBase s + zfillLen s) :
    rd (zfillStart s) Fld.HUB_ZFILL_STATUS_STATE = 1 ∧ rd (zfillStart s) Fld.HUB_ZFILL_STATUS_ERR = 0 ∧
    rd (zfillStart s) Fld.HUB_ZFILL_PCT_PCT = 0 ∧ (zfillStart s).mem.zfill =
      some ⟨zfillBase s / (s.img.hash.chans.length * 4096), zfillLen s / (s.img.hash.chans.length * 4096), []⟩ := by
  have hbad : ¬(zfillBase s % (s.img.hash.chans.length * 4096) ≠ 0 ∨ zfillLen s % (s.img.hash.chans.length * 4096) ≠ 0) := by simp [hb, hl]
  rw [zfillStart_idle h, if_neg hbad, if_neg hs, if_neg (Nat.ne_of_gt h0)]
  refine ⟨?_, ?_, ?_, rfl⟩
  · exact (rd_wr_other _ _ _ _ _ _ _ _ (by decide) (by decide)).trans (rd_wr_same _ _ _ _ _ (by decide) (by decide))
  · exact rd_wr_same _ _ _ _ _ (by decide) (by decide)
  · refine (rd_wr_other _ _ _ _ _ _ _ _ (by decide) (by decide)).trans ((rd_wr_other _ _ _ _ _ _ _ _ (by decide) (by decide)).trans ?_)
    exact rd_zfillProgress_pct s 0 (by decide) (by decide)

/-- A fill of an empty range is done at once. -/
theorem zfillStart_empty {s : State} (h : s.mem.zfill = none) (hb : zfillBase s % (s.img.hash.chans.length * 4096) = 0)
    (h0 : zfillLen s = 0) (hs : ¬hashSize s.img.hash < zfillBase s + zfillLen s) :
    rd (zfillStart s) Fld.HUB_ZFILL_STATUS_STATE = 2 ∧ rd (zfillStart s) Fld.HUB_ZFILL_STATUS_ERR = 0 ∧
    rd (zfillStart s) Fld.HUB_ZFILL_PCT_PCT = 1000 ∧ (zfillStart s).mem.zfill = none := by
  have hbad : ¬(zfillBase s % (s.img.hash.chans.length * 4096) ≠ 0 ∨ zfillLen s % (s.img.hash.chans.length * 4096) ≠ 0) := by simp [hb, h0]
  obtain ⟨hst, her, -⟩ := zfillEnd_status (zfillProgress s 0 0 1) (state := 2) (err := 0) (by decide) (by decide)
  rw [zfillStart_idle h, if_neg hbad, if_neg hs, if_pos h0]
  refine ⟨?_, ?_, rd_zfillProgress_pct _ 0 (by decide) (by decide), rfl⟩
  · rw [rd_zfillProgress_other _ _ _ _ _ (by decide) (by decide) (by decide), hst]
  · rw [rd_zfillProgress_other _ _ _ _ _ (by decide) (by decide) (by decide), her]

/-! The writes of ZFILL_CTRL -/

theorem writeReg_hub (s : State) (who : Requester) {off : Nat} (v : BitVec 32) (env : WriteEnv) (h : off < 0x100000) :
    writeReg s who off v env = writeHub s who off v := by
  unfold writeReg
  rw [if_pos (by omega), Nat.div_eq_of_lt h]
  rfl

theorem writeReg_zfillCtrl (s : State) (who : Requester) (v : BitVec 32) :
    writeReg s who Reg.HUB_ZFILL_CTRL v .plain = zfillCtrl s who (bit v 0) (bit v 1) :=
  (writeReg_hub s who v .plain (by decide)).trans (if_pos rfl)

theorem zfillCtrl_denied {s : State} {who : Requester} (h : mayImage who = false) (b c : Bool) : zfillCtrl s who b c = s := by
  unfold zfillCtrl
  rw [h]
  rfl

theorem zfillCtrl_start {s : State} {who : Requester} (h : mayImage who = true) : zfillCtrl s who true false = zfillStart s := by
  simp only [zfillCtrl, h, Bool.not_true, Bool.false_eq_true, if_false, if_true]

theorem zfillCtrl_abort {s : State} {who : Requester} (h : mayImage who = true) (b : Bool) : zfillCtrl s who b true = zfillStop s := by
  simp only [zfillCtrl, h, Bool.not_true, Bool.false_eq_true, if_false, if_true]

theorem exec_zfillStart {s : State} {who : Requester} (ho : hubOpen s who = true) (hm : mayImage who = true) :
    exec (.zfillStart who) s = .next (reply (zfillStart (quiet s)) who .done) := by
  refine (writeCmd_hub s who 1 ho (by decide)).trans ?_
  rw [writeReg_zfillCtrl, show bit (BitVec.ofNat 32 1) 0 = true by decide, show bit (BitVec.ofNat 32 1) 1 = false by decide, zfillCtrl_start hm]

theorem exec_zfillAbort {s : State} {who : Requester} (ho : hubOpen s who = true) (hm : mayImage who = true) :
    exec (.zfillAbort who) s = .next (reply (zfillStop (quiet s)) who .done) := by
  refine (writeCmd_hub s who 2 ho (by decide)).trans ?_
  rw [writeReg_zfillCtrl, show bit (BitVec.ofNat 32 2) 1 = true by decide, zfillCtrl_abort hm]

/-- Who may not load images starts and ends no fill. -/
theorem exec_zfill_denied {s : State} {who : Requester} (ho : hubOpen s who = true) (hm : mayImage who = false) {c : Instr}
    (hc : c ∈ [Instr.zfillStart who, .zfillAbort who]) : exec c s = .next { s with out := [⟨some who, .done⟩] } := by
  have hx (v : Nat) : writeCmd s who Reg.HUB_ZFILL_CTRL false v = .next { s with out := [⟨some who, .done⟩] } := by
    rw [writeCmd_hub s who v ho (by decide), writeReg_zfillCtrl, zfillCtrl_denied hm]
    rfl
  simp only [List.mem_cons, List.not_mem_nil, or_false] at hc
  obtain rfl | rfl := hc
  · exact hx 1
  · exact hx 2

/-! A granule of the range -/

/-- The memory once a unit is cleared: the writes accepted for it are lost, and it leaves the written map with its fill. -/
def unitCleared (m : Memory) (ch u : Nat) : Memory :=
  clearUnit (setAccepted m ch ((acceptedOf m ch).filter (fun w => unitOfLine w.line ≠ u))) u

theorem unitCleared_written (m : Memory) (ch u v : Nat) : v ∈ (unitCleared m ch u).written ↔ v ≠ u ∧ v ∈ m.written :=
  clearUnit_written _ u v

/-- The machine once a granule is cleared at a position of the fill: its unit, the stack's place in the range, and the progress. -/
def granuleCleared (s : State) (z : ZeroFill) (n ch u i : Nat) : State :=
  let pos := rd64 s Fld.HUB_ZFILL_POS_LO_POS Fld.HUB_ZFILL_POS_HI_POS + 1
  zfillProgress { s with mem := { unitCleared s.mem ch u with zfill := some { z with cursor := KMap.set (fun _ => 0) z.cursor n (i + 1) } } }
    pos pos (z.blocks * s.img.hash.chans.length)

theorem zfillClear_over {s : State} {n : Nat} {z : ZeroFill} (hz : s.mem.zfill = some z)
    (hi : z.blocks * (stackChans s n).length ≤ KMap.get (fun _ => 0) z.cursor n) : zfillClear s n = s := by
  unfold zfillClear
  rw [hz]
  exact if_pos hi

/-- The next granule of the stack is cleared, and the fill ends with the last one of the range. -/
theorem zfillClear_next {s : State} {n i : Nat} {z : ZeroFill} {ch : List Nat} (hz : s.mem.zfill = some z) (hch : stackChans s n = ch)
    (hc : KMap.get (fun _ => 0) z.cursor n = i) (hi : i < z.blocks * ch.length) : zfillClear s n =
      (let t := granuleCleared s z n (ch.getD (i % ch.length) 0) (ch.getD (i % ch.length) 0 * 2 ^ 19 + (z.base + i / ch.length)) i
       if rd64 s Fld.HUB_ZFILL_POS_LO_POS Fld.HUB_ZFILL_POS_HI_POS + 1 = z.blocks * s.img.hash.chans.length then zfillEnd t 2 0 else t) := by
  subst hch hc
  unfold zfillClear
  rw [hz]
  exact if_neg (Nat.not_le.2 hi)

end Sys2Proof.Machine
end
section
/-! SUPPORT. The probe of the hash: a wide write of a pair of hub registers starts a lookup, and its end shows the location (R97). -/

namespace Sys2Proof.Machine

/-! A wide write of hub registers -/

/-- A pair of hub registers that nothing holds back takes a wide write. -/
theorem regOpen_hubPair {s : State} {who : Requester} {off : Nat} (ho : hubOpen s who = true) (h : hubReg off) (h4 : hubReg (off + 4))
    (h8 : off % 8 = 0) : regOpen s who off true = true := by
  have hlt : off + 4 < 0x1000000 := h4.2.1
  have hr : resolve s who off = some off := resolve_hubReg s who h
  have hr4 : resolve s who (off + 4) = some (off + 4) := resolve_hubReg s who h4
  simp only [hubOpen, Bool.and_eq_true, Bool.not_eq_true'] at ho
  obtain ⟨⟨⟨hboot, hstandby⟩, heclipse⟩, hmgmt⟩ := ho
  have hs : accessStopped s who off true = false := accessStopped_hub who true hstandby (by omega)
  have ha : aliasHeld s off = false := by
    unfold aliasHeld
    rw [aliasNo_below (by omega)]
    rfl
  have he : eclipseHeld s off = false := by simp [eclipseHeld, heclipse]
  have hn : offendingAt s who off true = none := by simp [offendingAt, h8, hr, hr4]
  simp [regOpen, mmioGate_isNone, hboot, ha, hs, he, hn, hmgmt]

/-- A wide write reaches both registers of its pair, the lower first (R3). -/
theorem writeHalves_hubPair (s : State) (who : Requester) {off : Nat} (v : BitVec 64) (env : WriteEnv) (h : hubReg off) (h4 : hubReg (off + 4))
    (h8 : off % 8 = 0) (hk : off ≠ Reg.KVM_ATT_LO) (hf : off ≠ Reg.FAB_COLL_LO) : writeHalves s who off true v env =
      writeReg (writeReg s who off (v.setWidth 32) env) who (off + 4) (BitVec.ofNat 32 (v.toNat / 2 ^ 32)) env := by
  unfold writeHalves writeHalf
  simp only [if_neg hk, if_neg hf, if_neg (not_not.2 h8), if_true, resolve_hubReg _ who h, resolve_hubReg _ who h4]

/-! The start of a lookup -/

theorem writeReg_hashProbeLo (s : State) (who : Requester) (v : BitVec 32) :
    writeReg s who Reg.HUB_HASH_PROBE_LO v .plain = plainWrite s Reg.HUB_HASH_PROBE_LO v := by
  rw [writeReg_hub s who v .plain (by decide)]
  unfold writeHub
  rw [if_neg (by decide), if_neg (by decide), if_neg (by decide)]

theorem writeReg_hashProbeHi (s : State) (who : Requester) (v : BitVec 32) :
    writeReg s who Reg.HUB_HASH_PROBE_HI v .plain = probeStart (plainWrite s Reg.HUB_HASH_PROBE_HI v) := by
  rw [writeReg_hub s who v .plain (by decide)]
  unfold writeHub
  rw [if_neg (by decide), if_neg (by decide), if_pos rfl]

/-- The registers after the two halves of a probe are written. -/
def probeRegs (m : Regs) (off : Nat) : Regs :=
  (m.swWrite Reg.HUB_HASH_PROBE_LO ((BitVec.ofNat 64 off).setWidth 32)).swWrite Reg.HUB_HASH_PROBE_HI
    (BitVec.ofNat 32 ((BitVec.ofNat 64 off).toNat / 2 ^ 32))

/-- The two halves hold the offset. -/
theorem probeRegs_offset (m : Regs) (off : BitVec 41) :
    (probeRegs m off.toNat).get64 Fld.HUB_HASH_PROBE_LO_OFFSET Fld.HUB_HASH_PROBE_HI_OFFSET = off.toNat := by
  have hlt := off.isLt
  have hlo : (probeRegs m off.toNat).getF Fld.HUB_HASH_PROBE_LO_OFFSET 0 0 = off.toNat % 2 ^ 32 := by
    unfold probeRegs
    rw [Regs.getF, Regs.read_swWrite_other _ _ (by decide)]
    refine (Regs.getF_swWrite m _ (by decide) (by decide) (f := Fld.HUB_HASH_PROBE_LO_OFFSET) (i := 0) (j := 0) rfl).trans ?_
    show getBits _ 0 32 = _
    simp only [getBits, BitVec.toNat_setWidth, BitVec.toNat_ofNat]
    omega
  have hhi : (probeRegs m off.toNat).getF Fld.HUB_HASH_PROBE_HI_OFFSET 0 0 = off.toNat / 2 ^ 32 := by
    refine (Regs.getF_swWrite _ _ (by decide) (by decide) (f := Fld.HUB_HASH_PROBE_HI_OFFSET) (i := 0) (j := 0) rfl).trans ?_
    show getBits _ 0 9 = _
    simp only [getBits, BitVec.toNat_ofNat]
    omega
  unfold Regs.get64
  rw [hlo, hhi]
  omega

/-- HASH_PROBE writes both halves, and the high one starts the lookup of their offset. -/
theorem exec_hashProbe {s : State} {who : Requester} (off : BitVec 41) (ho : hubOpen s who = true) : ∃ t,
    exec (.hashProbe who off) s = .next t ∧ t = { s with
      out := [⟨some who, .done⟩], regs := t.regs, probe := some off.toNat, irq := { s.irq with active := t.irq.active } } ∧
    t.regs = probeRegs s.regs off.toNat := by
  have hlo : hubReg Reg.HUB_HASH_PROBE_LO := by decide
  have hhi : hubReg (Reg.HUB_HASH_PROBE_LO + 4) := by decide
  have hopen := regOpen_hubPair ((hubOpen_quiet s who).trans ho) hlo hhi (by decide)
  have hw : exec (.hashProbe who off) s = .next (reply (probeStart (plainWrite (plainWrite (quiet s) Reg.HUB_HASH_PROBE_LO
      ((BitVec.ofNat 64 off.toNat).setWidth 32)) Reg.HUB_HASH_PROBE_HI (BitVec.ofNat 32 ((BitVec.ofNat 64 off.toNat).toNat / 2 ^ 32))))
      who .done) := by
    refine congrArg Host.Outcome.next ((mmioWrite_open _ .plain hopen).trans ?_)
    rw [writeHalves_hubPair _ who _ _ hlo hhi (by decide) (by decide) (by decide), writeReg_hashProbeLo]
    exact congrArg (fun t => reply t who .done) (writeReg_hashProbeHi _ who _)
  have hregs (w v : BitVec 32) : (plainWrite (plainWrite (quiet s) Reg.HUB_HASH_PROBE_LO w) Reg.HUB_HASH_PROBE_HI v).regs =
      (s.regs.swWrite Reg.HUB_HASH_PROBE_LO w).swWrite Reg.HUB_HASH_PROBE_HI v := by
    rw [plainWrite_regs _ v (by decide), plainWrite_regs _ w (by decide), quiet_regs]
  refine ⟨_, hw, ?_, ?_⟩
  · have hp : (probeStart (plainWrite (plainWrite (quiet s) Reg.HUB_HASH_PROBE_LO ((BitVec.ofNat 64 off.toNat).setWidth 32))
        Reg.HUB_HASH_PROBE_HI (BitVec.ofNat 32 ((BitVec.ofNat 64 off.toNat).toNat / 2 ^ 32)))).probe = some off.toNat := by
      refine congrArg some ?_
      unfold rd64
      rw [hregs]
      exact probeRegs_offset s.regs off
    rw [← hp]
    rfl
  · exact hregs _ _

/-! The end of a lookup -/

/-- Held reads are answered one by one, and nothing else of the machine changes. -/
theorem foldl_reply {β : Type} (who : β → Requester) (ans : β → Answer) : ∀ (l : List β) (s : State),
    l.foldl (fun s h => reply s (who h) (ans h)) s = { s with out := s.out ++ l.map (fun h => ⟨some (who h), ans h⟩) }
  | [], s => by simp
  | h :: l, s => by
    rw [List.foldl_cons, foldl_reply who ans l, List.map_cons, reply_out, List.append_assoc]
    rfl

/-- The lookup's end shows its location and answers those that wait for it. -/
theorem probeDone_shows {s : State} {off : Nat} (h : s.probe = some off) : ∃ out,
    probeDone s = { s with out := s.out ++ out, regs := s.regs.write Reg.HUB_HASH_RESULT (probeResult s off), probe := none, probeHeld := [] } ∧
    out.length = s.probeHeld.length := by
  unfold probeDone
  rw [h]
  exact ⟨_, foldl_reply Prod.fst _ s.probeHeld _, List.length_map _⟩

theorem bitsOf_mod_pow {x a lo w : Nat} (h : lo + w ≤ a) : bitsOf (x % 2 ^ a) lo w = bitsOf x lo w := by
  unfold bitsOf
  rw [div_mod_pow, div_mod_pow, Nat.mod_mod_of_dvd _ (Nat.pow_dvd_pow 2 h)]

/-- The fields of a location that is found (Table 4.6). -/
theorem probeResult_found {s : State} {off key : Nat} (h : hashKey s.img.hash off = some key) (hk : key < 2 ^ 41) :
    (probeResult s off).toNat = key / 2 ^ 31 % 64 + key / 2 ^ 37 % 16 * 2 ^ 6 + key / 2 ^ 8 % 2 * 2 ^ 10 +
      (key / 2 ^ 9 % 4 * 4 + key / 2 ^ 11 % 4) * 2 ^ 11 + key / 2 ^ 15 % 2 ^ 16 * 2 ^ 15 + 2 ^ 31 := by
  unfold probeResult
  rw [h]
  have hch : key / 2 ^ 31 / 64 = key / 2 ^ 37 % 16 := by omega
  simp only [BitVec.toNat_ofNat]
  rw [hch, bitsOf_mod_pow (by decide), bitsOf_mod_pow (by decide), bitsOf_mod_pow (by decide), bitsOf_mod_pow (by decide)]
  have hsize : key / 2 ^ 31 % 64 + key / 2 ^ 37 % 16 * 2 ^ 6 + bitsOf key 8 1 * 2 ^ 10 + (bitsOf key 9 2 * 4 + bitsOf key 11 2) * 2 ^ 11 +
      bitsOf key 15 16 * 2 ^ 15 + 2 ^ 31 < 2 ^ 32 := by
    unfold bitsOf
    omega
  exact Nat.mod_eq_of_lt hsize

theorem probeResult_nowhere {s : State} {off : Nat} (h : hashKey s.img.hash off = none) : probeResult s off = 0#32 := by
  unfold probeResult
  rw [h]
  rfl

/-- A field of HUB_HASH_RESULT once the location is written there. -/
theorem rd_hashResult {s t : State} {v : BitVec 32} (h : t.regs = s.regs.write Reg.HUB_HASH_RESULT v) {f : Field}
    (hf : f.addr 0 0 = Reg.HUB_HASH_RESULT) : rd t f = getBits v f.lo f.width := by
  unfold rd Regs.getF
  rw [h, hf, Regs.read_write_same]

/-- The layout of HUB_HASH_RESULT: CHANNEL, STACK, PC, BANK and ROW side by side from bit 0, and VALID on top. -/
theorem packed_fields {ch st pc bank row : Nat} (hch : ch < 64) (hst : st < 16) (hpc : pc < 2) (hbank : bank < 16) (hrow : row < 2 ^ 16) :
    (let x := ch + st * 2 ^ 6 + pc * 2 ^ 10 + bank * 2 ^ 11 + row * 2 ^ 15 + 2 ^ 31
     x / 2 ^ 31 % 2 ^ 1 = 1 ∧ x / 2 ^ 6 % 2 ^ 4 = st ∧ x / 2 ^ 0 % 2 ^ 6 = ch ∧ x / 2 ^ 10 % 2 ^ 1 = pc ∧ x / 2 ^ 15 % 2 ^ 16 = row) := by
  intro x
  refine ⟨?_, ?_, ?_, ?_, ?_⟩ <;> omega

/-- The fields of a location that is found, as HUB_HASH_RESULT shows them. -/
theorem rd_hashResult_found {s t : State} {off key : Nat} (h : t.regs = s.regs.write Reg.HUB_HASH_RESULT (probeResult s off))
    (hk : hashKey s.img.hash off = some key) (hlt : key < 2 ^ 41) : rd t Fld.HUB_HASH_RESULT_VALID = 1 ∧
    rd t Fld.HUB_HASH_RESULT_STACK = key / 2 ^ 37 % 16 ∧ rd t Fld.HUB_HASH_RESULT_CHANNEL = key / 2 ^ 31 % 64 ∧
    rd t Fld.HUB_HASH_RESULT_PC = key / 2 ^ 8 % 2 ∧ rd t Fld.HUB_HASH_RESULT_ROW = key / 2 ^ 15 % 2 ^ 16 := by
  obtain ⟨hvalid, hst, hch, hpc, hrow⟩ := packed_fields (ch := key / 2 ^ 31 % 64) (st := key / 2 ^ 37 % 16) (pc := key / 2 ^ 8 % 2)
    (bank := key / 2 ^ 9 % 4 * 4 + key / 2 ^ 11 % 4) (row := key / 2 ^ 15 % 2 ^ 16) (Nat.mod_lt _ (by decide)) (Nat.mod_lt _ (by decide))
    (Nat.mod_lt _ (by decide)) (by omega) (Nat.mod_lt _ (by decide))
  rw [← probeResult_found hk hlt] at hvalid hst hch hpc hrow
  exact ⟨(rd_hashResult h rfl).trans hvalid, (rd_hashResult h rfl).trans hst, (rd_hashResult h rfl).trans hch, (rd_hashResult h rfl).trans hpc,
    (rd_hashResult h rfl).trans hrow⟩

end Sys2Proof.Machine
end
section
/-! PROOFS. O11: the hash probe, zero-fill, background fill, and the base die's accepted writes (R97 to R104). -/

namespace Sys2Proof.Machine

/-! A START that ends at once, and an ABORT -/

/-- A range that is not whole granules of every channel, or beyond the hashed space, ends the fill with its error. -/
theorem zfillStart_fails {s : State} (h : s.mem.zfill = none) :
    (zfillBase s % (s.img.hash.chans.length * 4096) ≠ 0 ∨ zfillLen s % (s.img.hash.chans.length * 4096) ≠ 0 →
      zfillStart s = zfillEnd (zfillProgress s 0 0 1) 3 1) ∧
    (zfillBase s % (s.img.hash.chans.length * 4096) = 0 → zfillLen s % (s.img.hash.chans.length * 4096) = 0 →
      hashSize s.img.hash < zfillBase s + zfillLen s → zfillStart s = zfillEnd (zfillProgress s 0 0 1) 3 2) := by
  rw [zfillStart_idle h]
  exact ⟨fun hbad => if_pos hbad, fun hb hl hs => (if_neg (by simp [hb, hl])).trans (if_pos hs)⟩

/-- ZFILL_START with no fill running: by the range, it fails, is done, or runs. -/
theorem exec_zfillStart_idle {s : State} {who : Requester} (ho : hubOpen s who = true) (hm : mayImage who = true) (hz : s.mem.zfill = none) :
    ∃ t, exec (.zfillStart who) s = .next t ∧
      t = { s with out := [⟨some who, .done⟩], regs := t.regs, mem := { s.mem with zfill := t.mem.zfill } } ∧
      (let u := s.img.hash.chans.length * 4096
       let beyond := hashSize s.img.hash < zfillBase s + zfillLen s
       (zfillBase s % u ≠ 0 ∨ zfillLen s % u ≠ 0 → rd t Fld.HUB_ZFILL_STATUS_STATE = 3 ∧ rd t Fld.HUB_ZFILL_STATUS_ERR = 1 ∧
         rd t Fld.HUB_ZFILL_STATUS_END = 1 ∧ t.mem.zfill = none) ∧
       (zfillBase s % u = 0 → zfillLen s % u = 0 → beyond → rd t Fld.HUB_ZFILL_STATUS_STATE = 3 ∧ rd t Fld.HUB_ZFILL_STATUS_ERR = 2 ∧
         t.mem.zfill = none) ∧
       (zfillBase s % u = 0 → zfillLen s = 0 → ¬beyond → rd t Fld.HUB_ZFILL_STATUS_STATE = 2 ∧ rd t Fld.HUB_ZFILL_STATUS_ERR = 0 ∧
         rd t Fld.HUB_ZFILL_PCT_PCT = 1000 ∧ t.mem.zfill = none) ∧
       (zfillBase s % u = 0 → zfillLen s % u = 0 → 0 < zfillLen s → ¬beyond → rd t Fld.HUB_ZFILL_STATUS_STATE = 1 ∧
         rd t Fld.HUB_ZFILL_STATUS_ERR = 0 ∧ rd t Fld.HUB_ZFILL_PCT_PCT = 0 ∧
         t.mem.zfill = some ⟨zfillBase s / u, zfillLen s / u, []⟩)) := by
  have hq : (quiet s).mem.zfill = none := hz
  have hfail := zfillStart_fails hq
  have hrd (f : Field) : rd (reply (zfillStart (quiet s)) who .done) f = rd (zfillStart (quiet s)) f := rfl
  refine ⟨_, exec_zfillStart ho hm, ?_, ?_⟩
  · rw [zfillStart_frame]
    rfl
  · simp only [hrd, reply_mem]
    refine ⟨fun hbad => ?_, fun hb hl hs => ?_, fun hb h0 hs => zfillStart_empty hq hb h0 hs,
      fun hb hl h0 hs => zfillStart_begins hq hb hl h0 hs⟩
    · obtain ⟨hst, her, hend⟩ := zfillEnd_status (zfillProgress (quiet s) 0 0 1) (state := 3) (err := 1) (by decide) (by decide)
      rw [hfail.1 hbad]
      exact ⟨hst, her, hend, rfl⟩
    · obtain ⟨hst, her, -⟩ := zfillEnd_status (zfillProgress (quiet s) 0 0 1) (state := 3) (err := 2) (by decide) (by decide)
      rw [hfail.2 hb hl hs]
      exact ⟨hst, her, rfl⟩

/-- An ABORT ends a fill that runs with ERR 4. -/
theorem exec_zfillAbort_running {s : State} {who : Requester} (ho : hubOpen s who = true) (hm : mayImage who = true)
    (hz : s.mem.zfill.isSome = true) : ∃ t, exec (.zfillAbort who) s = .next t ∧
      t = { s with out := [⟨some who, .done⟩], regs := t.regs, mem := { s.mem with zfill := none } } ∧ rd t Fld.HUB_ZFILL_STATUS_STATE = 3 ∧
      rd t Fld.HUB_ZFILL_STATUS_ERR = 4 ∧ rd t Fld.HUB_ZFILL_STATUS_END = 1 := by
  have hstop : zfillStop (quiet s) = zfillEnd (quiet s) 3 4 := if_pos hz
  refine ⟨_, (exec_zfillAbort ho hm).trans (by rw [hstop]), rfl, ?_⟩
  exact zfillEnd_status (quiet s) (state := 3) (err := 4) (by decide) (by decide)

theorem exec_zfillAbort_idle {s : State} {who : Requester} (ho : hubOpen s who = true) (hm : mayImage who = true) (hz : s.mem.zfill = none) :
    exec (.zfillAbort who) s = .next { s with out := [⟨some who, .done⟩] } := by
  have hstop : zfillStop (quiet s) = quiet s := if_neg (by simp [hz])
  rw [exec_zfillAbort ho hm, hstop]
  rfl

/-! A granule cleared -/

/-- Once its unit is cleared a line reads 0, whatever else the memory's fill shows. -/
theorem lineView_unitCleared {m t : Memory} {ch u n : Nat} (ht : t.written = (unitCleared m ch u).written) (hn : n / 64 = u) :
    lineView t n = (0#512, false) := by
  refine lineView_unwritten ?_
  rw [ht, unitCleared_written]
  exact fun h => h.1 hn

/-- ZFILL_GRANULE_CLEAR of a stack with granules left. -/
theorem zfillClear_facts {s : State} {n i : Nat} {z : ZeroFill} {ch : List Nat} (hz : s.mem.zfill = some z) (hch : stackChans s n = ch)
    (hc : KMap.get (fun _ => 0) z.cursor n = i) (hi : i < z.blocks * ch.length) :
    (let t := zfillClear s n
     let u := ch.getD (i % ch.length) 0 * 2 ^ 19 + (z.base + i / ch.length)
     let pos := rd64 s Fld.HUB_ZFILL_POS_LO_POS Fld.HUB_ZFILL_POS_HI_POS + 1
     t = { s with regs := t.regs, mem := t.mem } ∧
     t.mem.dram = s.mem.dram ∧ (∀ n, n / 64 = u → lineView t.mem n = (0, false)) ∧ (∀ v, v ≠ u → (v ∈ t.mem.written ↔ v ∈ s.mem.written)) ∧
     (pos = z.blocks * s.img.hash.chans.length → rd t Fld.HUB_ZFILL_STATUS_STATE = 2 ∧ rd t Fld.HUB_ZFILL_STATUS_ERR = 0 ∧ t.mem.zfill = none) ∧
     (pos ≠ z.blocks * s.img.hash.chans.length → t.mem.zfill = some { z with cursor := KMap.set (fun _ => 0) z.cursor n (i + 1) })) := by
  rw [zfillClear_next hz hch hc hi]
  intro t u pos
  have hwritten (m : Memory) (hm : m.written = (unitCleared s.mem (ch.getD (i % ch.length) 0) u).written) (v : Nat) (hv : v ≠ u) :
      v ∈ m.written ↔ v ∈ s.mem.written := by
    rw [hm, unitCleared_written]
    exact and_iff_right hv
  by_cases hp : pos = z.blocks * s.img.hash.chans.length
  · obtain ⟨hst, her, -⟩ := zfillEnd_status (granuleCleared s z n (ch.getD (i % ch.length) 0) u i) (state := 2) (err := 0) (by decide) (by decide)
    have ht : t = zfillEnd (granuleCleared s z n (ch.getD (i % ch.length) 0) u i) 2 0 := if_pos hp
    rw [ht]
    exact ⟨rfl, rfl, fun k hk => lineView_unitCleared rfl hk, hwritten _ rfl, fun _ => ⟨hst, her, rfl⟩, fun hne => absurd hp hne⟩
  · have ht : t = granuleCleared s z n (ch.getD (i % ch.length) 0) u i := if_neg hp
    rw [ht]
    exact ⟨rfl, rfl, fun k hk => lineView_unitCleared rfl hk, hwritten _ rfl, fun he => absurd he hp, fun _ => rfl⟩

/-! The stack side's own commands -/

/-- The line that BACKGROUND_FILL_LINE names: its channel, its granule there and its place in the granule. -/
theorem line_of_granule {ch g l : Nat} (hg : g < 2 ^ 19) (hl : l < 64) : chanOfLine ((ch * 2 ^ 19 + g) * 64 + l) = ch ∧
    unitOfLine ((ch * 2 ^ 19 + g) * 64 + l) = ch * 2 ^ 19 + g ∧ ((ch * 2 ^ 19 + g) * 64 + l) % 64 = l := by
  obtain ⟨hu, hr⟩ := line_in_unit (u := ch * 2 ^ 19 + g) hl
  refine ⟨?_, hu, hr⟩
  rw [← chanOfLine_unit, hu]
  omega

/-- A background-fill line changes what no read returns, and the fill of its unit counts it as done. -/
theorem backgroundFillLine_facts {m : Memory} (h : m.formOk = true) (ch : Nat) {g l : Nat} (hg : g < 2 ^ 19) (hl : l < 64) :
    (∀ n, lineView (fillOneLine m ch (ch * 2 ^ 19 + g) l) n = lineView m n) ∧
    ∀ f ∈ fillsOf (fillOneLine m ch (ch * 2 ^ 19 + g) l) ch, f.unit = ch * 2 ^ 19 + g → bitsOf f.written l 1 = 1 := by
  obtain ⟨hc, hu, hr⟩ := line_of_granule (ch := ch) hg hl
  have hv := lineView_fillOneLine h ((ch * 2 ^ 19 + g) * 64 + l)
  have hm := fun f => fillOneLine_marks h ((ch * 2 ^ 19 + g) * 64 + l) (f := f)
  rw [hc, hu, hr] at hv
  rw [hc, hu, hr] at hm
  exact ⟨hv, fun f hf he => (bitsOf_one _ _).2 (hm f hf he)⟩

/-- METEOR_RMW performs the oldest write that the channel's base die has accepted (R104). -/
theorem exec_meteorRmw_oldest {s : State} {ch : Fin 768} {w : PendingWrite} {rest : List PendingWrite} (hwait : s.mem.waiting = [])
    (hq : acceptedOf s.mem ch.val = w :: rest) (hc : stackClosed s (stackOfLine w.line) = false) :
    exec (.meteorRmw ch .clean) s = .next { quiet s with mem := performWrite (setAccepted s.mem ch.val rest) w } := by
  have hx : performOldest (quiet s) ch.val .clean = { quiet s with mem := performWrite (setAccepted s.mem ch.val rest) w } :=
    performOldest_clean (s := quiet s) hq hc
  refine congrArg Host.Outcome.next ?_
  rw [hx]
  exact releaseWaiting_empty ((performWrite_waiting _ w).trans hwait)

/-- Settles O11, command by command. -/
theorem probeAndZeroFill : Obligations.ProbeAndZeroFill := by
  unfold Obligations.ProbeAndZeroFill
  refine ⟨fun s who off ho => ?_, fun s off h => ?_, fun s who ho hm => ⟨fun hz => ?_, exec_zfillStart_idle ho hm,
    exec_zfillAbort_running ho hm, exec_zfillAbort_idle ho hm⟩, fun s who ho hm c hc => exec_zfill_denied ho hm hc,
    fun s n z hz => ⟨fun hi => ?_, fun hi => ?_⟩, fun s ch g l hform => ?_, fun s ch ecc hwait => ⟨fun hq => ?_, fun w rest hq hform hc he => ?_⟩⟩
  · obtain ⟨t, hx, hfr, hregs⟩ := exec_hashProbe off ho
    refine ⟨t, hx, hfr, ?_⟩
    unfold rd64
    rw [hregs]
    exact probeRegs_offset s.regs off
  · obtain ⟨out, ht, hlen⟩ := probeDone_shows (s := quiet s) h
    have hregs : (probeDone (quiet s)).regs = s.regs.write Reg.HUB_HASH_RESULT (probeResult s off) := by rw [ht]; rfl
    refine ⟨_, rfl, by rw [ht]; rfl, by rw [ht]; exact hlen, fun key hk hlt => ?_, fun hk => ?_⟩
    · exact rd_hashResult_found hregs hk hlt
    · rw [rd_hashResult hregs rfl, probeResult_nowhere hk]
      rfl
  · rw [exec_zfillStart ho hm, zfillStart_running (s := quiet s) hz]
    rfl
  · exact congrArg Host.Outcome.next (zfillClear_over (s := quiet s) hz hi)
  · exact ⟨_, rfl, zfillClear_facts (s := quiet s) hz rfl rfl hi⟩
  · exact ⟨_, rfl, rfl, backgroundFillLine_facts (m := s.mem) hform ch.val g.isLt l.isLt⟩
  · refine congrArg Host.Outcome.next ?_
    rw [performOldest_empty (s := quiet s) ecc hq]
    exact releaseWaiting_empty (s := quiet s) hwait
  · subst he
    have hf := setAccepted_formOk s.mem ch.val rest hform
    refine ⟨_, exec_meteorRmw_oldest hwait hq hc, rfl, ?_, fun n hn => ?_, ?_⟩
    · exact congrArg Prod.fst (lineView_performWrite_same hf w)
    · exact lineView_putLine_other hf _ _ hn
    · show acceptedOf (performWrite _ w) ch.val = rest
      rw [acceptedOf, performWrite_accepted]
      exact acceptedOf_setAccepted s.mem ch.val rest

end Sys2Proof.Machine
end

section
/-! SUPPORT. Stores by address leave the lit stacks and their registers as they are; a store through a scratchpad window, and several to
consecutive lines of one. -/

namespace Sys2Proof.Machine

/-! What a store that leaves the part, or reaches a line, keeps -/

/-- The stacks stand as before, and so do the registers from the first block of a stack's on (R147, Table 0.1). -/
structure StacksKept (s t : State) : Prop where
  stk : t.stk = s.stk
  reg : ∀ o, 0x1000000 ≤ o → t.regs.read o = s.regs.read o

variable {s t : State}

theorem StacksKept.refl (s : State) : StacksKept s s := ⟨rfl, fun _ _ => rfl⟩

/-- A change elsewhere than in stacks and registers. -/
theorem StacksKept.keep {u : State} (h : StacksKept s t) (hk : u.stk = t.stk) (hr : u.regs = t.regs) : StacksKept s u :=
  ⟨hk.trans h.stk, fun o ho => by rw [hr]; exact h.reg o ho⟩

theorem StacksKept.wr {f : Field} {v i j : Nat} (h : StacksKept s t) (hf : f.addr i j < 0x1000000) : StacksKept s (wr t f v i j) :=
  ⟨h.stk, fun o ho => (read_wr_other t f v i j (by omega)).trans (h.reg o ho)⟩

theorem StacksKept.flag {f : Field} {i j : Nat} (h : StacksKept s t) (hf : f.addr i j < 0x1000000) : StacksKept s (flag t f i j) := h.wr hf

theorem StacksKept.wr64 {lo hi : Field} {v i j : Nat} (h : StacksKept s t) (hl : lo.addr i j < 0x1000000) (hh : hi.addr i j < 0x1000000) :
    StacksKept s (wr64 t lo hi v i j) :=
  ⟨h.stk, fun o ho => by
    unfold Machine.wr64 Regs.set64
    exact (Regs.read_write_other _ _ (by omega)).trans ((Regs.read_write_other _ _ (by omega)).trans (h.reg o ho))⟩

theorem StacksKept.foldl {β : Type} {f : State → β → State} (hf : ∀ t b, StacksKept s t → StacksKept s (f t b)) (l : List β)
    (h : StacksKept s t) : StacksKept s (l.foldl f t) := foldl_keeps f hf l t h

theorem StacksKept.iteFst {α : Type} {c : Prop} [Decidable c] {x y : State × α} (hx : StacksKept s x.1) (hy : StacksKept s y.1) :
    StacksKept s (if c then x else y).1 := by split <;> assumption

theorem StacksKept.rd (h : StacksKept s t) {f : Field} {i j : Nat} (hf : 0x1000000 ≤ f.addr i j) : rd t f i j = rd s f i j := by
  unfold Machine.rd Regs.getF
  rw [h.reg _ hf]

theorem StacksKept.stk_eq (h : StacksKept s t) (n : Nat) : Machine.stk t n = Machine.stk s n := by unfold Machine.stk; rw [h.stk]

/-! Lines of this part -/

theorem StacksKept.allocate {die off : Nat} {d : BitVec 512} {p dirty : Bool} (h : StacksKept s t) :
    StacksKept s (allocate t die off d p dirty) := by
  rw [allocate_frame]
  exact h.keep rfl rfl

theorem StacksKept.noteWrite {who : Requester} {off : Nat} (h : StacksKept s t) : StacksKept s (noteWrite t who off) := by
  rw [noteWrite_frame]
  exact h.keep rfl rfl

theorem StacksKept.writeLine {who : Requester} {off : Nat} {d : BitVec 512} {p : Bool} (h : StacksKept s t) :
    StacksKept s (writeLine t who off d p) := by
  rw [writeLine_frame]
  exact h.keep rfl rfl

theorem StacksKept.meteorPut1 {off : Nat} {d : BitVec 256} {p : Bool} (h : StacksKept s t) : StacksKept s (meteorPut1 t off d p) := by
  unfold Machine.meteorPut1
  dsimp only
  split
  · exact h.allocate
  · split <;> exact h.keep rfl rfl

theorem StacksKept.meteorPut {who : Requester} {off : Nat} {d : BitVec 256} {p : Bool} (h : StacksKept s t) :
    StacksKept s (meteorPut t who off d p) := by
  unfold Machine.meteorPut
  dsimp only
  split
  · exact .meteorPut1 (.noteWrite (.meteorPut1 (.noteWrite h)))
  · exact .meteorPut1 (.noteWrite h)

theorem StacksKept.countIf {p : Bool} (h : StacksKept s t) : StacksKept s (countIf p t) := by
  cases p
  · exact h
  · exact h.wr64 (by decide) (by decide)

theorem StacksKept.obtainLine {off : Nat} (h : StacksKept s t) : StacksKept s (obtainLine t off .clean).1 := by
  obtain ⟨p, m, hm, -⟩ := obtainLine_clean_fst t off
  rw [hm]
  exact h.countIf.keep rfl rfl

theorem StacksKept.backInvalidateAsk {off : Nat} (h : StacksKept s t) : StacksKept s (backInvalidateAsk t off) := by
  unfold Machine.backInvalidateAsk
  split
  · exact h
  · exact .foldl (f := fun s (x : Snoop) => emit s (.backInvalidate x.port x.line)) (fun _ _ h => h.keep rfl rfl) _ h

/-! Packets and host ports -/

theorem rekeyDue_regs (s : State) (p : Nat) : (rekeyDue s p).regs = s.regs := by unfold rekeyDue; split <;> rfl

theorem pumpAux_regs : ∀ l stuck (s : State), (pumpAux l stuck s).regs = s.regs
  | [], _, _ => rfl
  | (p, vc, b) :: l, stuck, s => by
    unfold pumpAux
    split
    · rw [pumpAux_regs l]
      exact rekeyDue_regs _ _
    · rw [pumpAux_regs l]

theorem StacksKept.sendPacket {p : Nat} {x : Packet} (h : StacksKept s t) : StacksKept s (sendPacket t p x) :=
  h.keep (by rw [eq_of_apartFromLinks (sendPacket_frame t p x)]) (pumpAux_regs _ _ _)

theorem StacksKept.fabRecord {code side dev : Nat} (h : StacksKept s t) : StacksKept s (fabRecord t code side dev) := by
  have he := h.flag (f := Fld.FAB_EVENT_ERR) (i := 0) (j := 0) (by decide)
  unfold Machine.fabRecord
  dsimp only
  split
  · exact he.flag (by decide)
  · exact .wr (.flag (.wr (.wr he (by decide)) (by decide)) (by decide)) (by decide)

theorem StacksKept.fabRequest {o who opc dev sp off arg b p} (h : StacksKept s t) :
    StacksKept s (fabRequest t o who opc dev sp off arg b p).1 := by
  unfold Machine.fabRequest
  dsimp only
  split
  · exact h
  · split
    · exact h.fabRecord
    · split
      · exact h.keep rfl rfl
      · exact .sendPacket (h.keep rfl rfl)

theorem StacksKept.hostSend1 {p : Nat} {r : HostReq} (h : StacksKept s t) : StacksKept s (hostSend1 t p r) := by
  unfold Machine.hostSend1
  split
  · exact h.keep rfl rfl
  · dsimp only
    split <;> exact h.keep rfl rfl

theorem StacksKept.hostDrainAux {p : Nat} : ∀ (n : Nat) {t : State}, StacksKept s t → StacksKept s (hostDrainAux n t p)
  | 0, _, h => h
  | n + 1, t, h => by
    unfold Machine.hostDrainAux
    split
    · exact h
    · split
      · exact h
      · split
        · exact h
        · exact .hostDrainAux n (.hostSend1 (h.keep rfl rfl))

theorem StacksKept.hostPush {p : Nat} {r : HostReq} (h : StacksKept s t) : StacksKept s (hostPush t p r) :=
  .hostDrainAux _ (h.keep rfl rfl)

theorem StacksKept.outEntry {p i : Nat} (h : StacksKept s t) : StacksKept s (outEntry t p i).1 := by
  unfold Machine.outEntry
  split
  · exact h
  · exact h.obtainLine.keep rfl rfl

theorem StacksKept.outFail {p off : Nat} {a : Answer} (h : StacksKept s t) (hp : p < 2) : StacksKept s (outFail t p off a).1 := by
  have hb (f : Field) (h1 : f.base < 0xD01000) (h2 : f.s1 = 4096) (h3 : f.s2 = 0) : f.addr p 0 < 0x1000000 := by
    unfold Field.addr
    rw [h2, h3]
    omega
  refine .wr64 (.flag h ?_) ?_ ?_ <;> exact hb _ (by decide) rfl rfl

/-! A store by address -/

/-- A write of a whole line or meteor: what the stacks store by address. -/
def isBlockStore : AccessKind → Bool
  | .lineWrite _ _ => true
  | .meteorWrite _ _ => true
  | _ => false

theorem StacksKept.hostAccess {o who off kind} (h : StacksKept s t) (hk : isBlockStore kind = true) (ho : off < 2 ^ 41) :
    StacksKept s (hostAccess t o who off kind).1 := by
  have hp : off / 2 ^ 40 < 2 := by omega
  have he (i : Nat) : StacksKept s (Machine.outEntry t (off / 2 ^ 40) i).1 := h.outEntry
  cases kind with
  | lineWrite d p => exact .iteFst h (.iteFst ((he _).outFail hp) (.iteFst ((he _).outFail hp) (.iteFst (he _).hostPush (he _).hostPush)))
  | meteorWrite d p => exact .iteFst h (.iteFst ((he _).outFail hp) (.iteFst ((he _).outFail hp) (.iteFst (he _).hostPush (he _).hostPush)))
  | _ => cases hk

theorem StacksKept.remoteAccess {o who a kind} (h : StacksKept s t) (hk : isBlockStore kind = true) :
    StacksKept s (remoteAccess t o who a kind).1 := by
  unfold Machine.remoteAccess
  dsimp only
  split
  · exact h
  · cases kind with
    | lineWrite d p => exact h.fabRequest
    | meteorWrite d p => exact h.fabRequest
    | _ => cases hk

/-- A block store in this part keeps the stacks, and raises no count. -/
theorem StacksKept.localAccess {o who space off kind} (h : StacksKept s t) (hk : isBlockStore kind = true) :
    StacksKept s (localAccess t o who space off kind .clean).1 ∧ (localAccess t o who space off kind .clean).2.2 = none := by
  have step {c : Prop} [Decidable c] {x y : Done} (hx : StacksKept s x.1 ∧ x.2.2 = none) (hy : StacksKept s y.1 ∧ y.2.2 = none) :
      StacksKept s (if c then x else y).1 ∧ (if c then x else y).2.2 = none := by split <;> assumption
  have hp : StacksKept s (performHashed t who off kind .clean).1 ∧ (performHashed t who off kind .clean).2.2 = none := by
    cases kind with
    | lineWrite d p => unfold performHashed; dsimp only; split <;> [exact ⟨h, rfl⟩; exact ⟨h.writeLine, rfl⟩]
    | meteorWrite d p => unfold performHashed; dsimp only; split <;> [exact ⟨h, rfl⟩; exact ⟨h.meteorPut, rfl⟩]
    | _ => cases hk
  have hw (c x : Nat) : StacksKept s (performWindow t off c x kind .clean).1 ∧ (performWindow t off c x kind .clean).2.2 = none := by
    cases kind with
    | lineWrite d p => unfold performWindow; dsimp only; split <;> exact ⟨h.keep rfl rfl, rfl⟩
    | meteorWrite d p => unfold performWindow; dsimp only; split <;> exact ⟨h.keep rfl rfl, rfl⟩
    | _ => cases hk
  have hb : StacksKept s (Machine.backInvalidateAsk t off) := h.backInvalidateAsk
  have h0 (a : Answer) : StacksKept s (t, a, (none : Option GAddr)).1 ∧ (t, a, (none : Option GAddr)).2.2 = none := ⟨h, rfl⟩
  unfold Machine.localAccess
  refine step (step (h0 _) (step (h0 _) (step (h0 _) (step ⟨hb.keep rfl rfl, rfl⟩ hp)))) (step ?_ (h0 _))
  split
  · exact h0 _
  · exact step (h0 _) (step (h0 _) (step (h0 _) (hw _ _)))

theorem offOf_lt (a : GAddr) : offOf a < 2 ^ 41 := Nat.mod_lt _ (Nat.two_pow_pos 41)

/-- A block store that nothing waits for keeps the stacks and their registers, wherever its address lies (R88 to R91). -/
theorem StacksKept.accessFor {who a kind} (h : StacksKept s t) (hk : isBlockStore kind = true) :
    StacksKept s (accessFor t .nobody who a kind .clean) := by
  obtain ⟨hl, hn⟩ := h.localAccess (o := .nobody) (who := who) (space := spaceOf a) (off := offOf a) hk
  unfold Machine.accessFor
  rw [deliver_nobody]
  unfold Machine.access
  split
  · exact h.remoteAccess hk
  · split
    · exact h.hostAccess hk (offOf_lt a)
    · dsimp only
      rw [hn]
      split <;> exact hl.keep rfl rfl

/-! Stores through a scratchpad window (R91) -/

theorem isLocal_scratchOpen {s : State} {who : Requester} {a : GAddr} {kind : AccessKind} {c x : Nat}
    (h : scratchOpen s who a kind c x = true) : isLocal s a = true ∧ spaceOf a = 2 := by
  simp only [scratchOpen, Bool.and_eq_true, decide_eq_true_eq] at h
  exact ⟨h.1.1.1.1.1, h.1.1.1.1.2⟩

/-- A store that meets no error puts its bytes into the scratchpad, and nothing else changes. -/
theorem accessFor_scratch {s : State} {who : Requester} {a : GAddr} {kind : AccessKind} {c x : Nat} {w : List Byte × Bool}
    (hk : windowStore kind = some w) (h : scratchOpen s who a kind c x = true) (hf : padFree s a = true) :
    accessFor s .nobody who a kind .clean = { s with mem := spadWrite s.mem c x w.1 w.2 } := by
  obtain ⟨hl, hsp⟩ := isLocal_scratchOpen h
  have hp : performWindow s (offOf a) c x kind .clean = ({ s with mem := spadWrite s.mem c x w.1 w.2 }, .done, none) := by
    have hc := padFree_closed h hf
    unfold performWindow
    cases kind <;> simp only [windowStore, reduceCtorEq, Option.some.injEq] at hk
    all_goals
      subst hk
      simp only [hc, Bool.false_eq_true, if_false]
  unfold accessFor
  rw [deliver_nobody]
  unfold access
  simp only [hl, Bool.not_true, Bool.false_eq_true, if_false, localAccess_scratchOpen .nobody .clean h, hp]
  rw [if_neg (by omega)]

/-! Stores to consecutive lines -/

theorem KMap.getSeq_append {α : Type} (d : Nat → α) (m : KMap α) (b : Nat) : ∀ a k : Nat,
    KMap.getSeq d m k (a + b) = KMap.getSeq d m k a ++ KMap.getSeq d m (k + a) b
  | 0, k => by rw [Nat.zero_add]; rfl
  | a + 1, k => by
    rw [Nat.add_right_comm, KMap.getSeq, KMap.getSeq_append d m b a (k + 1), KMap.getSeq, Nat.add_right_comm k 1 a]
    rfl

/-- A store appends its bytes to what stands before it in the scratchpad. -/
theorem spadBytes_spadWrite (m : Memory) (c x n : Nat) (bs : List Byte) (p : Bool) :
    spadBytes (spadWrite m c (x + n) bs p) c x (n + bs.length) = spadBytes m c x n ++ bs := by
  have hbase : c * 2 ^ 22 + x + n = c * 2 ^ 22 + (x + n) := by omega
  have hlow (i : Nat) (hi : i < c * 2 ^ 22 + x + n) :
      KMap.get (fun _ => 0#8) (spadWrite m c (x + n) bs p).spad i = KMap.get (fun _ => 0#8) m.spad i := by
    rw [get_spadWrite, if_neg (by omega)]
  have hnew := KMap.getSeq_setSeq (fun _ => 0#8) bs m.spad (c * 2 ^ 22 + (x + n))
  unfold spadBytes
  rw [KMap.getSeq_append, hbase, KMap.getSeq_congr _ _ _ n (c * 2 ^ 22 + x) fun i _ hi => hlow i hi]
  exact congrArg _ hnew

/-- Line `i` of `k` goes to `a + 64 i`, one after another. -/
def storeLines (s : State) (who : Requester) (a : Nat) (line : Nat → BitVec 512 × Bool) (k : Nat) : State :=
  (List.range k).foldl (fun s i => accessFor s .nobody who (BitVec.ofNat 64 (a + 64 * i)) (.lineWrite (line i).1 (line i).2) .clean) s

theorem StacksKept.storeLines {s : State} (who : Requester) (a : Nat) (line : Nat → BitVec 512 × Bool) (k : Nat) :
    StacksKept s (storeLines s who a line k) := .foldl (fun _ _ h => h.accessFor rfl) _ (.refl s)

/-- `k` lines from `a` on lie in the scratchpad of cluster `l` from `x` on, and a store of any of them meets no error. -/
def padOpen (s : State) (who : Requester) (a l x k : Nat) : Prop :=
  ∀ i < k, ∀ d p, scratchOpen s who (BitVec.ofNat 64 (a + 64 * i)) (.lineWrite d p) l (x + 64 * i) = true ∧
    padFree s (BitVec.ofNat 64 (a + 64 * i)) = true

theorem storeLines_pad {s : State} {who : Requester} {a l x : Nat} (line : Nat → BitVec 512 × Bool) : ∀ {k : Nat},
    padOpen s who a l x k → ∃ m, storeLines s who a line k = { s with mem := m } ∧
      m = { s.mem with spad := m.spad, spadPoison := m.spadPoison } ∧
      spadBytes m l x (64 * k) = (List.range k).flatMap (fun i => lineBytes (line i).1)
  | 0, _ => ⟨s.mem, rfl, rfl, rfl⟩
  | k + 1, h => by
    obtain ⟨m, hs, hm, hb⟩ := storeLines_pad line (k := k) fun i hi => h i (by omega)
    obtain ⟨ho, hf⟩ := h k (Nat.lt_succ_self k) (line k).1 (line k).2
    have hstep := accessFor_scratch (s := { s with mem := m }) rfl (by rw [hm]; exact ho) (by rw [hm]; exact hf)
    have hw := spadBytes_spadWrite m l x (64 * k) (lineBytes (line k).1) (line k).2
    rw [length_lineBytes, hb] at hw
    refine ⟨spadWrite m l (x + 64 * k) (lineBytes (line k).1) (line k).2, ?_, by rw [hm]; rfl, ?_⟩
    · unfold storeLines at hs ⊢
      rw [List.range_succ, List.foldl_append, hs]
      exact hstep
    · rw [List.range_succ, List.flatMap_append, List.flatMap_singleton]
      exact hw

end Sys2Proof.Machine
end

section
/-! SUPPORT. A stack command at the head of its bank pair: what holds it back, what ends it before it acts, the error record, and how it
leaves its stack (R124 to R126, R149). -/

namespace Sys2Proof.Machine

/-! The head of a bank pair -/

/-- Nothing at the head of a pair, nothing done. -/
theorem runHead_none {s : State} {u : PairRef} {mine touched body} (h : headCmd s u.stack.val (pairRefUnit u) = none) :
    runHead s u mine touched body = s := by
  unfold runHead
  dsimp only
  rw [h]

/-- Another command's opcode, or something that holds it back. -/
theorem runHead_waits {s : State} {u : PairRef} {c : StkCmd} {mine touched body} (h : headCmd s u.stack.val (pairRefUnit u) = some c)
    (hw : mine (cmdOp c) = false ∨ mayStart s u.stack.val c = false) : runHead s u mine touched body = s := by
  have hc : (!mine (cmdOp c) || !mayStart s u.stack.val c) = true := by rcases hw with hw | hw <;> simp [hw]
  unfold runHead
  dsimp only
  rw [h]
  exact if_pos hc

/-- A command that ends before it acts (R124). -/
theorem runHead_ends {s : State} {u : PairRef} {c : StkCmd} {mine touched body} (h : headCmd s u.stack.val (pairRefUnit u) = some c)
    (hm : mine (cmdOp c) = true) (hs : mayStart s u.stack.val c = true) (he : entryStatus s u.stack.val c ≠ 0) :
    runHead s u mine touched body = finishCmd s u.stack.val c (.plain (entryStatus s u.stack.val c)) := by
  have hc : (!mine (cmdOp c) || !mayStart s u.stack.val c) = false := by simp [hm, hs]
  unfold runHead
  dsimp only
  rw [h]
  dsimp only
  rw [hc, if_neg Bool.false_ne_true, if_pos he]

/-- A command that runs does what its body says. -/
theorem runHead_runs {s : State} {u : PairRef} {c : StkCmd} {mine touched body} (h : headRuns s u c touched = true)
    (hm : mine (cmdOp c) = true) : runHead s u mine touched body = body s u.stack.val c := by
  simp only [headRuns, Bool.and_eq_true, decide_eq_true_eq, Bool.not_eq_true'] at h
  obtain ⟨⟨⟨hh, hs⟩, he⟩, hb⟩ := h
  unfold runHead
  dsimp only
  rw [hh]
  simp only [hm, hs, he, hb, Bool.not_true, Bool.or_self, Bool.false_eq_true, if_false, ne_eq, not_true_eq_false]

theorem headRuns_fieldStatus {s : State} {u : PairRef} {c : StkCmd} {touched} (h : headRuns s u c touched = true) : fieldStatus s c = 0 := by
  simp only [headRuns, Bool.and_eq_true, decide_eq_true_eq] at h
  have he := h.1.2
  unfold entryStatus at he
  dsimp only at he
  split at he
  · next hf => exact absurd he hf
  · next hf => exact of_not_not hf

/-- The status of R122 and R123 is one of three. -/
theorem fieldStatus_lt (s : State) (c : StkCmd) : fieldStatus s c < 3 := by
  unfold fieldStatus
  dsimp only
  repeat' split
  all_goals decide

/-- A command ends before it acts with OPCODE, FIELD or MODE. -/
theorem entryStatus_lt (s : State) (n : Nat) (c : StkCmd) : entryStatus s n c < 6 := by
  have hf := fieldStatus_lt s c
  unfold entryStatus
  dsimp only
  repeat' split
  all_goals omega

/-! STK_CMD_ERR (R149) -/

/-- Two registers of a stack's block lie apart for every stack. -/
theorem stkReg_ne {f g : Field} (n : Nat) (hs : f.s1 = g.s1) (h2 : f.s2 = 0 ∧ g.s2 = 0) (hb : f.base ≠ g.base) : f.addr n ≠ g.addr n := by
  unfold Field.addr
  rw [hs, h2.1, h2.2]
  omega

/-- The record of a failing command: kept as it is while VALID is set. -/
def logCmdErr (s : State) (n status chan pc pair opcode tag : Nat) : State :=
  if rd s Fld.STK_CMD_ERR_VALID n = 1 then flag s Fld.STK_CMD_ERR_OVERRUN n
  else
    let s := wr (wr (wr s Fld.STK_CMD_ERR_STATUS status n) Fld.STK_CMD_ERR_CHANNEL chan n) Fld.STK_CMD_ERR_PC pc n
    let s := wr (wr s Fld.STK_CMD_ERR_PAIR pair n) Fld.STK_CMD_ERR_OPCODE opcode n
    wr (flag s Fld.STK_CMD_ERR_VALID n) Fld.STK_CMD_ERR_TAG_TAG tag n

section Record

variable (s : State) (n status chan pc pair opcode tag : Nat)

theorem recordCmdErr_eq : recordCmdErr s n status chan pc pair opcode tag =
    logCmdErr (flag s Fld.STK_EVENT_CMD_ERR n) n status chan pc pair opcode tag := rfl

theorem recordCmdErr_frame : recordCmdErr s n status chan pc pair opcode tag =
    { s with regs := (recordCmdErr s n status chan pc pair opcode tag).regs } := by
  unfold recordCmdErr
  dsimp only
  split <;> rfl

/-- The record touches its two registers alone. -/
theorem rd_logCmdErr_other {f : Field} {i j : Nat} (h1 : f.addr i j ≠ Fld.STK_CMD_ERR_STATUS.addr n)
    (h2 : f.addr i j ≠ Fld.STK_CMD_ERR_TAG_TAG.addr n) : rd (logCmdErr s n status chan pc pair opcode tag) f i j = rd s f i j := by
  have hw (t : State) (g : Field) (v : Nat) (hg : g.inWord) (ha : f.addr i j ≠ g.addr n) : rd (wr t g v n) f i j = rd t f i j :=
    rd_wr_other _ _ _ _ _ _ _ _ hg (.inl ha)
  unfold logCmdErr
  dsimp only
  split
  · exact hw _ Fld.STK_CMD_ERR_OVERRUN _ (by decide) h1
  · rw [hw _ Fld.STK_CMD_ERR_TAG_TAG _ (by decide) h2]
    refine (hw _ Fld.STK_CMD_ERR_VALID _ (by decide) h1).trans ?_
    rw [hw _ Fld.STK_CMD_ERR_OPCODE _ (by decide) h1, hw _ Fld.STK_CMD_ERR_PAIR _ (by decide) h1,
      hw _ Fld.STK_CMD_ERR_PC _ (by decide) h1, hw _ Fld.STK_CMD_ERR_CHANNEL _ (by decide) h1,
      hw _ Fld.STK_CMD_ERR_STATUS _ (by decide) h1]

/-- Every failing command sets its event. -/
theorem recordCmdErr_event : rd (recordCmdErr s n status chan pc pair opcode tag) Fld.STK_EVENT_CMD_ERR n = 1 := by
  rw [recordCmdErr_eq, rd_logCmdErr_other _ _ _ _ _ _ _ _ (f := Fld.STK_EVENT_CMD_ERR) (stkReg_ne n rfl (by decide) (by decide))
    (stkReg_ne n rfl (by decide) (by decide))]
  exact rd_flag_same _ _ _ _ (by decide) (by decide)

/-- A failing command leaves the event of a failed checksum. -/
theorem recordCmdErr_checksum :
    rd (recordCmdErr s n status chan pc pair opcode tag) Fld.STK_EVENT_CHECKSUM n = rd s Fld.STK_EVENT_CHECKSUM n := by
  rw [recordCmdErr_eq, rd_logCmdErr_other _ _ _ _ _ _ _ _ (f := Fld.STK_EVENT_CHECKSUM) (stkReg_ne n rfl (by decide) (by decide))
    (stkReg_ne n rfl (by decide) (by decide))]
  exact rd_flag_other _ _ _ _ _ _ _ (by decide) (.inr (.inr (by decide)))

theorem rd_flag_event_valid : rd (flag s Fld.STK_EVENT_CMD_ERR n) Fld.STK_CMD_ERR_VALID n = rd s Fld.STK_CMD_ERR_VALID n :=
  rd_flag_other s Fld.STK_CMD_ERR_VALID Fld.STK_EVENT_CMD_ERR n 0 n 0 (by decide) (.inl (stkReg_ne n rfl (by decide) (by decide)))

/-- The first failing command after VALID was cleared is recorded, -/
theorem recordCmdErr_shown (hv : rd s Fld.STK_CMD_ERR_VALID n = 0) (hst : status < 256) :
    rd (recordCmdErr s n status chan pc pair opcode tag) Fld.STK_CMD_ERR_STATUS n = status ∧
    rd (recordCmdErr s n status chan pc pair opcode tag) Fld.STK_CMD_ERR_VALID n = 1 := by
  have htag (t : State) (f : Field) (hf : f.addr n ≠ Fld.STK_CMD_ERR_TAG_TAG.addr n) :
      rd (wr t Fld.STK_CMD_ERR_TAG_TAG tag n) f n = rd t f n := rd_wr_other _ _ _ _ _ _ _ _ (by decide) (.inl hf)
  have hw (t : State) (g : Field) (v : Nat) (hg : g.inWord) (hb : 8 ≤ g.lo) :
      rd (wr t g v n) Fld.STK_CMD_ERR_STATUS n = rd t Fld.STK_CMD_ERR_STATUS n := rd_wr_other _ _ _ _ _ _ _ _ hg (.inr (.inl hb))
  rw [recordCmdErr_eq]
  unfold logCmdErr
  rw [if_neg (by rw [rd_flag_event_valid, hv]; decide)]
  refine ⟨?_, ?_⟩
  · refine (htag _ Fld.STK_CMD_ERR_STATUS (stkReg_ne n rfl (by decide) (by decide))).trans ?_
    refine (hw _ Fld.STK_CMD_ERR_VALID _ (by decide) (by decide)).trans ?_
    rw [hw _ Fld.STK_CMD_ERR_OPCODE _ (by decide) (by decide), hw _ Fld.STK_CMD_ERR_PAIR _ (by decide) (by decide),
      hw _ Fld.STK_CMD_ERR_PC _ (by decide) (by decide), hw _ Fld.STK_CMD_ERR_CHANNEL _ (by decide) (by decide)]
    exact rd_wr_same _ _ _ _ _ (by decide) hst
  · refine (htag _ Fld.STK_CMD_ERR_VALID (stkReg_ne n rfl (by decide) (by decide))).trans ?_
    exact rd_flag_same _ _ _ _ (by decide) (by decide)

/-- with its TAG. -/
theorem recordCmdErr_tag (hv : rd s Fld.STK_CMD_ERR_VALID n = 0) (ht : tag < 2 ^ 32) :
    rd (recordCmdErr s n status chan pc pair opcode tag) Fld.STK_CMD_ERR_TAG_TAG n = tag := by
  rw [recordCmdErr_eq]
  unfold logCmdErr
  rw [if_neg (by rw [rd_flag_event_valid, hv]; decide)]
  exact rd_wr_same _ _ _ _ _ (by decide) ht

end Record

/-! A command leaves its stack -/

theorem settleIssuer_frame (s : State) (n : Nat) (c : StkCmd) : settleIssuer s n c = { s with clu := (settleIssuer s n c).clu } := by
  unfold settleIssuer
  split <;> rfl

/-- The command's requester learns that it has left: a cluster by its account, the KV manager by the completion it waits for. -/
def tellIssuer (s : State) (n : Nat) (c : StkCmd) (r : CmdResult) : State :=
  let s := settleIssuer s n c
  match c.request with
  | some id => { s with kvm := { s.kvm with done := s.kvm.done ++
      [⟨id, cmdOp c, cmdTag c, r.status, r.pmax, r.psum, r.poison || c.poison⟩] } }
  | none => s

theorem tellIssuer_frame (s : State) (n : Nat) (c : StkCmd) (r : CmdResult) : tellIssuer s n c r =
    { s with clu := (tellIssuer s n c r).clu, kvm := (tellIssuer s n c r).kvm } := by
  unfold tellIssuer
  dsimp only
  rw [settleIssuer_frame]
  split <;> rfl

/-- The command out of its stack's queue. -/
def leaveQueue (s : State) (n : Nat) (c : StkCmd) : State := modStk s n (fun k => { k with queue := dropFirst k.queue c })

/-- What the end of a command leaves before its completion record is stored. -/
def endCmd (s : State) (n : Nat) (c : StkCmd) (r : CmdResult) : State :=
  tellIssuer (if r.status ≠ 0 ∧ r.status ≠ 6 then
    recordCmdErr (leaveQueue s n c) n r.status c.chan c.pc c.pair (cmdOp c) (cmdTag c) else leaveQueue s n c) n c r

theorem finishCmd_eq (s : State) (n : Nat) (c : StkCmd) (r : CmdResult) : finishCmd s n c r =
    if cmdCpl c && cplAddrOk (endCmd s n c r) c && cplAllowed (endCmd s n c r) c then
      accessFor (endCmd s n c r) .nobody c.issuer (cmdCplAddr c) (.meteorWrite (completionRecord c r) (r.poison || c.poison)) .clean
    else endCmd s n c r := rfl

/-- No record is stored where none is asked for. -/
theorem finishCmd_silent {c : StkCmd} (h : cmdCpl c = false) (s : State) (n : Nat) (r : CmdResult) : finishCmd s n c r = endCmd s n c r := by
  rw [finishCmd_eq, h]
  rfl

/-- The record is stored by address, and the stacks do not see it. -/
theorem StacksKept.finishCmd (s : State) (n : Nat) (c : StkCmd) (r : CmdResult) : StacksKept (endCmd s n c r) (finishCmd s n c r) := by
  rw [finishCmd_eq]
  split
  · exact (StacksKept.refl _).accessFor rfl
  · exact .refl _

/-- A command that ends clean, or its block discarded, is not recorded. -/
theorem endCmd_clean (s : State) (n : Nat) (c : StkCmd) {r : CmdResult} (h : r.status = 0) :
    endCmd s n c r = tellIssuer (leaveQueue s n c) n c r := by
  unfold endCmd
  rw [if_neg fun hc => hc.1 h]

/-- A command that fails is recorded. -/
theorem endCmd_failed (s : State) (n : Nat) (c : StkCmd) {r : CmdResult} (h : r.status ≠ 0) (h6 : r.status ≠ 6) :
    endCmd s n c r = tellIssuer (recordCmdErr (leaveQueue s n c) n r.status c.chan c.pc c.pair (cmdOp c) (cmdTag c)) n c r := by
  unfold endCmd
  rw [if_pos ⟨h, h6⟩]

/-- The end of a command changes stacks, accounts and registers, -/
theorem endCmd_frame (s : State) (n : Nat) (c : StkCmd) (r : CmdResult) : endCmd s n c r =
    { s with regs := (endCmd s n c r).regs, stk := (endCmd s n c r).stk, clu := (endCmd s n c r).clu, kvm := (endCmd s n c r).kvm } := by
  unfold endCmd
  rw [tellIssuer_frame]
  split
  · rw [recordCmdErr_frame]; rfl
  · rfl

/-- and registers only where it failed. -/
theorem endCmd_clean_frame (s : State) (n : Nat) (c : StkCmd) {r : CmdResult} (h : r.status = 0) : endCmd s n c r =
    { s with stk := (endCmd s n c r).stk, clu := (endCmd s n c r).clu, kvm := (endCmd s n c r).kvm } := by
  rw [endCmd_clean s n c h, tellIssuer_frame]
  rfl

/-- The stack keeps all but the command's entry. -/
theorem stk_endCmd (s : State) (n : Nat) (c : StkCmd) (r : CmdResult) (m : Nat) :
    stk (endCmd s n c r) m = if m = n then { stk s n with queue := dropFirst (stk s n).queue c } else stk s m := by
  have hk : (endCmd s n c r).stk = (leaveQueue s n c).stk := by
    unfold endCmd
    rw [tellIssuer_frame]
    split
    · rw [recordCmdErr_frame]
    · rfl
  have hs : stk (endCmd s n c r) m = stk (leaveQueue s n c) m := by unfold stk; rw [hk]
  exact hs.trans (stk_setStk ..)

/-- What STK_CMD_ERR and STK_EVENT show once a command has failed (R149). -/
theorem rd_endCmd_failed (s : State) (n : Nat) (c : StkCmd) {r : CmdResult} (h : r.status ≠ 0) (h6 : r.status ≠ 6) (f : Field) (i j : Nat) :
    rd (endCmd s n c r) f i j = rd (recordCmdErr (leaveQueue s n c) n r.status c.chan c.pc c.pair (cmdOp c) (cmdTag c)) f i j := by
  rw [endCmd_failed s n c h h6, tellIssuer_frame]
  rfl

theorem cmdTag_lt (c : StkCmd) : cmdTag c < 2 ^ 32 := Nat.mod_lt _ (Nat.two_pow_pos 32)

/-- A command that fails sets CMD_ERR, also once its completion record is stored. -/
theorem finishCmd_event (s : State) (n : Nat) (c : StkCmd) {r : CmdResult} (h : r.status ≠ 0) (h6 : r.status ≠ 6) :
    rd (finishCmd s n c r) Fld.STK_EVENT_CMD_ERR n = 1 := by
  have ha : 0x1000000 ≤ Fld.STK_EVENT_CMD_ERR.addr n := by
    unfold Field.addr Fld.STK_EVENT_CMD_ERR Reg.STK_EVENT
    dsimp only
    omega
  rw [(StacksKept.finishCmd s n c r).rd ha, rd_endCmd_failed s n c h h6]
  exact recordCmdErr_event ..

/-- The first command that fails after VALID was cleared is shown. -/
theorem endCmd_first (s : State) (n : Nat) (c : StkCmd) {r : CmdResult} (h : r.status ≠ 0) (h6 : r.status ≠ 6) (hl : r.status < 256)
    (hv : rd s Fld.STK_CMD_ERR_VALID n = 0) : rd (endCmd s n c r) Fld.STK_CMD_ERR_STATUS n = r.status ∧
    rd (endCmd s n c r) Fld.STK_CMD_ERR_VALID n = 1 ∧ rd (endCmd s n c r) Fld.STK_CMD_ERR_TAG_TAG n = cmdTag c := by
  simp only [rd_endCmd_failed s n c h h6]
  obtain ⟨hs, hvalid⟩ := recordCmdErr_shown (leaveQueue s n c) n r.status c.chan c.pc c.pair (cmdOp c) (cmdTag c) hv hl
  exact ⟨hs, hvalid, recordCmdErr_tag _ _ _ _ _ _ _ _ hv (cmdTag_lt c)⟩

/-- The stacks once a command has left, its completion record stored. -/
theorem stk_finishCmd (s : State) (n : Nat) (c : StkCmd) (r : CmdResult) (m : Nat) :
    stk (finishCmd s n c r) m = if m = n then { stk s n with queue := dropFirst (stk s n).queue c } else stk s m :=
  ((StacksKept.finishCmd s n c r).stk_eq m).trans (stk_endCmd s n c r m)

theorem stk_finishCmd_same (s : State) (n : Nat) (c : StkCmd) (r : CmdResult) :
    stk (finishCmd s n c r) n = { stk s n with queue := dropFirst (stk s n).queue c } := (stk_finishCmd s n c r n).trans (if_pos rfl)

end Sys2Proof.Machine
end

section
/-! PROOFS. Stack commands enter their channel's queue, wait, end before they act, and store their completion record (O12). -/

namespace Sys2Proof.Machine

/-! STK_CMD_FORWARD (R126, R239) -/

/-- The stack once a command has been taken from its issuer. -/
def takenFrom (k : Stack) (rest : List StkCmd) (ch i : Nat) : Stack := { k with
  waiting := rest
  lastIssuer := KMap.set (fun _ => 152) k.lastIssuer ch i
  sinceKvm := KMap.set (fun _ => 0) k.sinceKvm ch (if i = 152 then 0 else KMap.get (fun _ => 0) k.sinceKvm ch + 1) }

section Forward

variable {s : State} {n ch : Nat}

theorem forward_none (h : nextIssuer (stk s n) ch = none) : forward s n ch = s := by
  unfold forward
  dsimp only
  rw [h]

variable {i : Nat} {c : StkCmd} {rest : List StkCmd} (hi : nextIssuer (stk s n) ch = some i)
  (ht : takeFirst (fun c : StkCmd => c.chan = ch ∧ issuerNo c.issuer = i) (stk s n).waiting = some (c, rest))

include hi ht

theorem forward_full (hf : freeEntries (stk s n) ch = 0 ∨ freeLines (stk s n) ch < cmdPlen c) : forward s n ch = s := by
  unfold forward
  dsimp only
  rw [hi]
  dsimp only
  rw [ht]
  exact if_pos hf

theorem forward_room (he : 0 < freeEntries (stk s n) ch) (hl : cmdPlen c ≤ freeLines (stk s n) ch) :
    forward s n ch = if fieldStatus s c = 0 && tenantFails s n c then finishCmd (setStk s n (takenFrom (stk s n) rest ch i)) n c (.plain 13)
      else setStk s n { takenFrom (stk s n) rest ch i with queue := (stk s n).queue ++ [c] } := by
  unfold forward
  dsimp only
  rw [hi]
  dsimp only
  rw [ht]
  exact if_neg (by omega)

end Forward

/-- A command that the tenant check lets by, or that will end on its fields, joins its channel's queue. -/
theorem exec_stkCmdForward_enters {s : State} {n : Fin 12} {ch : Fin 64} {i : Nat} {c : StkCmd} {rest : List StkCmd}
    (hi : nextIssuer (stk s n.val) ch.val = some i)
    (ht : takeFirst (fun c : StkCmd => c.chan = ch.val ∧ issuerNo c.issuer = i) (stk s n.val).waiting = some (c, rest))
    (he : 0 < freeEntries (stk s n.val) ch.val) (hl : cmdPlen c ≤ freeLines (stk s n.val) ch.val)
    (hp : fieldStatus s c ≠ 0 ∨ tenantFails s n.val c = false) : exec (.stkCmdForward n ch) s =
      .next (setStk (quiet s) n.val { takenFrom (stk s n.val) rest ch.val i with queue := (stk s n.val).queue ++ [c] }) := by
  have hc : (decide (fieldStatus s c = 0) && tenantFails s n.val c) = false := by rcases hp with hp | hp <;> simp [hp]
  refine congrArg Host.Outcome.next ((forward_room (s := quiet s) hi ht he hl).trans (if_neg ?_))
  exact fun h => Bool.noConfusion (hc.symm.trans h)

/-- A command that fails the tenant check ends with TENANT (R239). -/
theorem exec_stkCmdForward_tenant {s : State} {n : Fin 12} {ch : Fin 64} {i : Nat} {c : StkCmd} {rest : List StkCmd}
    (hi : nextIssuer (stk s n.val) ch.val = some i)
    (ht : takeFirst (fun c : StkCmd => c.chan = ch.val ∧ issuerNo c.issuer = i) (stk s n.val).waiting = some (c, rest))
    (he : 0 < freeEntries (stk s n.val) ch.val) (hl : cmdPlen c ≤ freeLines (stk s n.val) ch.val)
    (hf : fieldStatus s c = 0) (htf : tenantFails s n.val c = true) : exec (.stkCmdForward n ch) s =
      .next (finishCmd (setStk (quiet s) n.val (takenFrom (stk s n.val) rest ch.val i)) n.val c (.plain 13)) := by
  have hc : (decide (fieldStatus s c = 0) && tenantFails s n.val c) = true := by simp [hf, htf]
  exact congrArg Host.Outcome.next ((forward_room (s := quiet s) hi ht he hl).trans (if_pos hc))

/-! The commands of a bank pair (R122 to R125) -/

/-- The commands that run at the head of a bank pair, each with the opcodes it performs (Table 5.4). -/
def headInstrs (u : PairRef) (b : Bool) (m : BitVec 32) (p : Option (Fin 66)) : List (Instr × (Nat → Bool)) :=
  [(Instr.stkNop u, fun op => op = 0 || !stkOpcodes.contains op), (.rowInit u, fun op => decide (op = 1)), (.rowCopy u b, fun op => decide (op = 2)),
    (.rowAnd u b b, fun op => decide (op = 3)), (.rowOr u b b, fun op => decide (op = 4)), (.rowXor u b b, fun op => decide (op = 5)),
    (.rowNot u b, fun op => decide (op = 6)), (.rowRead u m, fun op => decide (op = 8)), (.rowWrite u, fun op => decide (op = 9)),
    (.kvAppend u p, fun op => decide (op = 0x10)), (.qload u, fun op => decide (op = 0x11)), (.attend u p b, fun op => decide (op = 0x12)),
    (.rsetup u, fun op => decide (op = 0x18)), (.rcancel u, fun op => decide (op = 0x19))]

/-- Each of them runs the head of its pair where the opcode is its own. -/
theorem exec_headInstr {s : State} {u : PairRef} {b : Bool} {m : BitVec 32} {p : Option (Fin 66)} {r : Instr × (Nat → Bool)}
    (h : r ∈ headInstrs u b m p) : ∃ touched body, exec r.1 s = .next (runHead (quiet s) u r.2 touched body) := by
  simp only [headInstrs, List.mem_cons, List.not_mem_nil, or_false] at h
  rcases h with rfl | rfl | rfl | rfl | rfl | rfl | rfl | rfl | rfl | rfl | rfl | rfl | rfl | rfl <;> exact ⟨_, _, rfl⟩

/-- A command that ends before it acts leaves the queue with its status; no memory changes (R124). -/
theorem exec_headInstr_ends {s : State} {u : PairRef} {b : Bool} {m : BitVec 32} {p : Option (Fin 66)} {r : Instr × (Nat → Bool)}
    {c : StkCmd} (hr : r ∈ headInstrs u b m p) (h : headCmd s u.stack.val (pairRefUnit u) = some c) (hm : r.2 (cmdOp c) = true)
    (hs : mayStart s u.stack.val c = true) (he : entryStatus s u.stack.val c ≠ 0) (hc : cmdCpl c = false) :
    exec r.1 s = .next (endCmd (quiet s) u.stack.val c (.plain (entryStatus s u.stack.val c))) := by
  obtain ⟨touched, body, hx⟩ := exec_headInstr (s := s) hr
  rw [hx, runHead_ends (s := quiet s) h hm hs he]
  exact congrArg Host.Outcome.next (finishCmd_silent hc _ _ _)

/-! STK_NOP and the completion record (R122, R149) -/

theorem exec_stkNop_runs {s : State} {u : PairRef} {c : StkCmd} (h : headRuns s u c (fun _ => []) = true) (ho : cmdOp c = 0) :
    exec (.stkNop u) s = .next (finishCmd (quiet s) u.stack.val c (.plain 0)) :=
  congrArg Host.Outcome.next (runHead_runs (s := quiet s) h (by simp [ho]))

/-- The record of a command that ends clean, stored through a scratchpad window. -/
theorem finishCmd_pad {s : State} {n : Nat} {c : StkCmd} {r : CmdResult} {l x : Nat} (h0 : r.status = 0) (hc : cmdCpl c = true)
    (ha : cplAddrOk s c = true) (hw : cplAllowed s c = true)
    (ho : scratchOpen s c.issuer (cmdCplAddr c) (.meteorWrite (completionRecord c r) (r.poison || c.poison)) l x = true)
    (hf : padFree s (cmdCplAddr c) = true) : finishCmd s n c r = { endCmd s n c r with
      mem := spadWrite s.mem l x (natLe 32 (completionRecord c r).toNat) (r.poison || c.poison) } := by
  have he := endCmd_clean_frame s n c h0
  have hcond : (cmdCpl c && cplAddrOk (endCmd s n c r) c && cplAllowed (endCmd s n c r) c) = true := by
    rw [he, hc, Bool.true_and, Bool.and_eq_true]
    exact ⟨ha, hw⟩
  have hst := accessFor_scratch (s := endCmd s n c r) (kind := .meteorWrite (completionRecord c r) (r.poison || c.poison)) rfl
    (by rw [he]; exact ho) (by rw [he]; exact hf)
  rw [finishCmd_eq, if_pos hcond, hst, he]

/-- Settles O12, command by command. -/
theorem stackCommandQueue : Obligations.StackCommandQueue := by
  unfold Obligations.StackCommandQueue
  refine ⟨fun s n ch => ⟨fun h => ?_, fun i c rest hi ht => ⟨fun hf => ?_, fun he hl => ⟨fun hp => ?_, fun hf htf hc hv => ?_⟩⟩⟩,
    fun s u b m p r hr => ⟨fun h => ?_, fun c h => ⟨fun hw => ?_, fun hm hs he hc => ?_⟩⟩,
    fun s u c h ho => ⟨fun hc => ?_, fun l x hc ha hw hsc hpf => ?_⟩⟩
  · exact congrArg Host.Outcome.next (forward_none (s := quiet s) h)
  · exact congrArg Host.Outcome.next (forward_full (s := quiet s) hi ht hf)
  · refine ⟨_, exec_stkCmdForward_enters hi ht he hl hp, rfl, ?_, ?_, ?_, fun m hm => stk_setStk_other _ _ hm⟩ <;> rw [stk_setStk_same] <;> rfl
  · have hfirst := endCmd_first (setStk (quiet s) n.val (takenFrom (stk s n.val) rest ch.val i)) n.val c (r := .plain 13) (by decide) (by decide)
      (by decide) hv
    refine ⟨_, (exec_stkCmdForward_tenant hi ht he hl hf htf).trans (congrArg _ (finishCmd_silent hc _ _ _)), ?_, ?_, hfirst.1, ?_⟩
    · rw [endCmd_frame]; rfl
    · rw [stk_endCmd, if_pos rfl, stk_setStk_same]; rfl
    · rw [← finishCmd_silent hc]; exact finishCmd_event _ _ _ (by decide) (by decide)
  · obtain ⟨touched, body, hx⟩ := exec_headInstr (s := s) hr
    rw [hx, runHead_none (s := quiet s) h]
    rfl
  · obtain ⟨touched, body, hx⟩ := exec_headInstr (s := s) hr
    rw [hx, runHead_waits (s := quiet s) h hw]
    rfl
  · have hst := entryStatus_lt s u.stack.val c
    have h6 : entryStatus s u.stack.val c ≠ 6 := by omega
    refine ⟨_, exec_headInstr_ends hr h hm hs he hc, ?_, ?_, ?_, fun hv => ?_⟩
    · rw [endCmd_frame]; rfl
    · rw [stk_endCmd, if_pos rfl]; rfl
    · rw [← finishCmd_silent hc]; exact finishCmd_event _ _ _ he h6
    · exact endCmd_first (quiet s) u.stack.val c he h6 (Nat.lt_trans hst (by decide)) hv
  · refine ⟨_, (exec_stkNop_runs h ho).trans (congrArg _ (finishCmd_silent hc _ _ _)), ?_, ?_⟩
    · rw [endCmd_clean_frame _ _ _ rfl]; rfl
    · rw [stk_endCmd, if_pos rfl]; rfl
  · have hx := finishCmd_pad (s := quiet s) (n := u.stack.val) (r := .plain 0) rfl hc ha hw hsc hpf
    refine ⟨_, exec_stkNop_runs h ho, ?_, ?_, ?_⟩
    · rw [stk_finishCmd_same]; rfl
    · rw [hx, endCmd_clean_frame _ _ _ rfl]; rfl
    · have hb := spadBytes_spadWrite s.mem l x 0 (natLe 32 (completionRecord c (.plain 0)).toNat) c.poison
      rw [length_natLe] at hb
      rw [hx]
      exact hb

end Sys2Proof.Machine
end

section
/-! SUPPORT. Rows of a die in processor mode: a row reads as it was written, and a write changes no other row, also where it is the first
of its granule (R93, R128); the activations of a command (R140, R150). -/

namespace Sys2Proof.Machine

/-! Where rows lie (R93, Table 4.3) -/

/-- A channel, pseudo-channel, bank and row that a stack has. -/
abbrev rowSite (chan pc bank row : Nat) : Prop := chan < 64 ∧ pc < 2 ∧ bank < 16 ∧ row < 65536

theorem rowLine_eq (n chan pc bank row b : Nat) : rowLine n chan pc bank row b =
    (n * 64 + chan) * 2 ^ 25 + row * 512 + b / 4 * 128 + bank % 4 * 32 + bank / 4 * 8 + pc * 4 + b % 4 := by
  unfold rowLine
  omega

/-- The digits of a line number in the mixed radix of Table 4.3. -/
theorem rowLine_digits {x r q k j p t x' r' q' k' j' p' t' : Nat} (h : r < 65536 ∧ q < 4 ∧ k < 4 ∧ j < 4 ∧ p < 2 ∧ t < 4)
    (h' : r' < 65536 ∧ q' < 4 ∧ k' < 4 ∧ j' < 4 ∧ p' < 2 ∧ t' < 4)
    (he : x * 2 ^ 25 + r * 512 + q * 128 + k * 32 + j * 8 + p * 4 + t = x' * 2 ^ 25 + r' * 512 + q' * 128 + k' * 32 + j' * 8 + p' * 4 + t') :
    x = x' ∧ r = r' ∧ q = q' ∧ k = k' ∧ j = j' ∧ p = p' ∧ t = t' := by
  have hx : x = x' := by omega
  have hr : r = r' := by omega
  have hq : q = q' := by omega
  have hk : k = k' := by omega
  omega

/-- No two blocks of rows share a line. -/
theorem rowLine_inj {n chan pc bank row b n' chan' pc' bank' row' b' : Nat} (h : rowSite chan pc bank row) (h' : rowSite chan' pc' bank' row')
    (hb : b < 16) (hb' : b' < 16) (he : rowLine n chan pc bank row b = rowLine n' chan' pc' bank' row' b') :
    (n, chan, pc, bank, row) = (n', chan', pc', bank', row') ∧ b = b' := by
  obtain ⟨h1, h2, h3, h4⟩ := h
  obtain ⟨h1', h2', h3', h4'⟩ := h'
  rw [rowLine_eq, rowLine_eq] at he
  obtain ⟨hx, hr, hq, hk, hj, hp, ht⟩ := rowLine_digits ⟨h4, by omega, by omega, by omega, h2, by omega⟩
    ⟨h4', by omega, by omega, by omega, h2', by omega⟩ he
  simp only [Prod.mk.injEq]
  omega

/-- A granule of four rows has one place in the written map. -/
theorem rowUnit_inj {n chan pc bank row n' chan' pc' bank' row' : Nat} (h : rowSite chan pc bank row) (h' : rowSite chan' pc' bank' row')
    (he : rowUnit n chan pc bank row = rowUnit n' chan' pc' bank' row') :
    (n, chan, pc, bank) = (n', chan', pc', bank') ∧ row / 4 = row' / 4 := by
  obtain ⟨h1, h2, h3, h4⟩ := h
  obtain ⟨h1', h2', h3', h4'⟩ := h'
  unfold rowUnit at he
  have hx : n * 64 + chan = n' * 64 + chan' := by omega
  have hb : pc * 16 + bank = pc' * 16 + bank' := by omega
  simp only [Prod.mk.injEq]
  omega

/-! Lines stored one after another -/

theorem rawLine_foldl_storeLine_other {f : Nat → Nat} {g : Nat → BitVec 512} {k : Nat} : ∀ (l : List Nat) (m : Memory), (∀ b ∈ l, k ≠ f b) →
    rawLine (l.foldl (fun m b => storeLine m (f b) (g b) false) m) k = rawLine m k
  | [], _, _ => rfl
  | b :: l, m, h => by
    rw [List.foldl_cons, rawLine_foldl_storeLine_other l _ fun b hb => h b (List.mem_cons_of_mem _ hb)]
    exact rawLine_storeLine_other m _ _ (h b List.mem_cons_self)

theorem rawLine_foldl_storeLine_same {f : Nat → Nat} {g : Nat → BitVec 512} {b : Nat} : ∀ (l : List Nat) (m : Memory), b ∈ l →
    (∀ x ∈ l, f x = f b → x = b) → rawLine (l.foldl (fun m b => storeLine m (f b) (g b) false) m) (f b) = g b
  | [], _, h, _ => absurd h List.not_mem_nil
  | x :: l, m, h, hf => by
    rw [List.foldl_cons]
    by_cases hm : b ∈ l
    · exact rawLine_foldl_storeLine_same l _ hm fun y hy => hf y (List.mem_cons_of_mem _ hy)
    · have hx : x = b := by
        rcases List.mem_cons.1 h with h | h
        · exact h.symm
        · exact absurd h hm
      subst hx
      rw [rawLine_foldl_storeLine_other l _ fun y hy he => hm (hf y (List.mem_cons_of_mem _ hy) he.symm ▸ hy)]
      exact rawLine_storeLine_same ..

theorem foldl_storeLine_frame (f : Nat → Nat) (g : Nat → BitVec 512) : ∀ (l : List Nat) (m : Memory),
    l.foldl (fun m b => storeLine m (f b) (g b) false) m =
      { m with
        dram := (l.foldl (fun m b => storeLine m (f b) (g b) false) m).dram
        poison := (l.foldl (fun m b => storeLine m (f b) (g b) false) m).poison }
  | [], _ => rfl
  | b :: l, m => by
    rw [List.foldl_cons, foldl_storeLine_frame f g l]
    rfl

/-! What a row reads -/

/-- A row as the memory holds it: zeros where its granule is unwritten. -/
def rowView (m : Memory) (n chan pc bank row : Nat) : List Byte :=
  if rowUnit n chan pc bank row ∈ m.written then (List.range 16).flatMap (fun b => lineBytes (rawLine m (rowLine n chan pc bank row b)))
  else List.replicate 1024 0#8

theorem readRow_eq (s : State) (n chan pc bank row : Nat) : readRow s n chan pc bank row = rowView s.mem n chan pc bank row := by
  unfold readRow rowView rowWritten
  simp only [decide_eq_true_eq]

theorem length_flatMap_lines (f : Nat → BitVec 512) (k : Nat) : ((List.range k).flatMap (fun b => lineBytes (f b))).length = 64 * k := by
  rw [List.length_flatMap]
  simp [length_lineBytes, Nat.mul_comm]

theorem length_readRow (s : State) (n chan pc bank row : Nat) : (readRow s n chan pc bank row).length = 1024 := by
  rw [readRow_eq]
  unfold rowView
  split
  · exact length_flatMap_lines _ 16
  · exact List.length_replicate

theorem storeRow_frame (m : Memory) (n chan pc bank row : Nat) (bs : List Byte) : storeRow m n chan pc bank row bs =
    { m with dram := (storeRow m n chan pc bank row bs).dram, poison := (storeRow m n chan pc bank row bs).poison } :=
  foldl_storeLine_frame _ _ _ _

theorem storeRow_written (m : Memory) (n chan pc bank row : Nat) (bs : List Byte) : (storeRow m n chan pc bank row bs).written = m.written := by
  rw [storeRow_frame]

/-- Bytes cut into pieces of one length, put together. -/
theorem flatMap_slices (z : Nat) : ∀ (k : Nat) (bs : List Byte), bs.length = z * k →
    (List.range k).flatMap (fun b => slice bs (b * z) z) = bs
  | 0, bs, h => by
    rw [Nat.mul_zero] at h
    rw [List.eq_nil_of_length_eq_zero h]
    rfl
  | k + 1, bs, h => by
    have hz : z ≤ bs.length := by rw [h, Nat.mul_succ]; omega
    have ih := flatMap_slices z k (bs.drop z) (by rw [List.length_drop, h, Nat.mul_succ]; omega)
    have hs (b : Nat) : slice bs ((b + 1) * z) z = slice (bs.drop z) (b * z) z := by
      unfold slice
      rw [List.drop_drop, Nat.succ_mul, Nat.add_comm]
    rw [List.range_succ_eq_map, List.flatMap_cons, List.flatMap_map]
    simp only [Nat.succ_eq_add_one, hs]
    rw [ih]
    unfold slice
    simp

theorem length_slice {bs : List Byte} {off n : Nat} (h : off + n ≤ bs.length) : (slice bs off n).length = n := by
  unfold slice
  rw [List.length_take, List.length_drop]
  omega

/-- 1,024 bytes as the 16 lines that hold them. -/
theorem flatMap_rowLines {bs : List Byte} (h : bs.length = 1024) :
    (List.range 16).flatMap (fun b => lineBytes (lineOf (slice bs (b * 64) 64))) = bs := by
  refine Eq.trans ?_ (flatMap_slices 64 16 bs h)
  refine List.flatMap_congr fun b hb => lineBytes_lineOf (length_slice ?_)
  have := List.mem_range.1 hb
  omega

theorem rowView_storeRow_other (m : Memory) {n chan pc bank row n' chan' pc' bank' row' : Nat} (bs : List Byte)
    (h : rowSite chan pc bank row) (h' : rowSite chan' pc' bank' row') (hne : (n', chan', pc', bank', row') ≠ (n, chan, pc, bank, row)) :
    rowView (storeRow m n chan pc bank row bs) n' chan' pc' bank' row' = rowView m n' chan' pc' bank' row' := by
  have hl (b : Nat) (hb : b ∈ List.range 16) : rawLine (storeRow m n chan pc bank row bs) (rowLine n' chan' pc' bank' row' b) =
      rawLine m (rowLine n' chan' pc' bank' row' b) :=
    rawLine_foldl_storeLine_other _ _ fun x hx he => hne (rowLine_inj h' h (List.mem_range.1 hb) (List.mem_range.1 hx) he).1
  unfold rowView
  rw [storeRow_written, List.flatMap_congr fun b hb => congrArg lineBytes (hl b hb)]

theorem rowView_storeRow_same (m : Memory) {n chan pc bank row : Nat} {bs : List Byte} (h : rowSite chan pc bank row)
    (hw : rowUnit n chan pc bank row ∈ m.written) (hl : bs.length = 1024) :
    rowView (storeRow m n chan pc bank row bs) n chan pc bank row = bs := by
  have hr (b : Nat) (hb : b ∈ List.range 16) : rawLine (storeRow m n chan pc bank row bs) (rowLine n chan pc bank row b) =
      lineOf (slice bs (b * 64) 64) :=
    rawLine_foldl_storeLine_same (f := rowLine n chan pc bank row) (g := fun b => lineOf (slice bs (b * 64) 64)) _ _ hb
      fun x hx he => (rowLine_inj h h (List.mem_range.1 hx) (List.mem_range.1 hb) he).2
  unfold rowView
  rw [storeRow_written, if_pos hw, List.flatMap_congr fun b hb => congrArg lineBytes (hr b hb)]
  exact flatMap_rowLines hl

/-! A first write into a granule (R128) -/

/-- The granule of a row in the written map, its rows zeroed where it was not. -/
def openGranule (m : Memory) (n chan pc bank row : Nat) : Memory :=
  if rowUnit n chan pc bank row ∈ m.written then m
  else (List.range 4).foldl (fun m i => storeRow m n chan pc bank (row / 4 * 4 + i) (List.replicate 1024 0#8))
    { m with written := KSet.add m.written (rowUnit n chan pc bank row) }

theorem writeRow_eq (s : State) (n chan pc bank row : Nat) (bs : List Byte) : writeRow s n chan pc bank row bs =
    { s with mem := storeRow (openGranule s.mem n chan pc bank row) n chan pc bank row bs } := by
  unfold writeRow openGranule rowWritten
  simp only [decide_eq_true_eq]

section Granule

variable {n chan pc bank row : Nat}

theorem foldl_storeRow_frame (bs : List Byte) (r : Nat → Nat) : ∀ (l : List Nat) (m : Memory),
    l.foldl (fun m i => storeRow m n chan pc bank (r i) bs) m = { m with
      dram := (l.foldl (fun m i => storeRow m n chan pc bank (r i) bs) m).dram
      poison := (l.foldl (fun m i => storeRow m n chan pc bank (r i) bs) m).poison }
  | [], _ => rfl
  | i :: l, m => by
    rw [List.foldl_cons, foldl_storeRow_frame bs r l, storeRow_frame]

theorem openGranule_frame (m : Memory) : openGranule m n chan pc bank row = { m with
    dram := (openGranule m n chan pc bank row).dram
    written := (openGranule m n chan pc bank row).written
    poison := (openGranule m n chan pc bank row).poison } := by
  unfold openGranule
  split
  · rfl
  · rw [foldl_storeRow_frame]

theorem mem_openGranule (m : Memory) (v : Nat) :
    v ∈ (openGranule m n chan pc bank row).written ↔ v = rowUnit n chan pc bank row ∨ v ∈ m.written := by
  unfold openGranule
  split
  · next h => exact ⟨.inr, fun hv => hv.elim (fun he => he ▸ h) id⟩
  · rw [foldl_storeRow_frame]
    exact KSet.mem_add _ _ _

/-- Rows of one granule stored with zeros. -/
theorem rowView_zeroRows (h : rowSite chan pc bank row) {j : Nat} (hj : j < 4) : ∀ (l : List Nat) (m : Memory), (∀ i ∈ l, i < 4) →
    rowUnit n chan pc bank (row / 4 * 4 + j) ∈ m.written →
    rowView (l.foldl (fun m i => storeRow m n chan pc bank (row / 4 * 4 + i) (List.replicate 1024 0#8)) m) n chan pc bank (row / 4 * 4 + j) =
      if j ∈ l then List.replicate 1024 0#8 else rowView m n chan pc bank (row / 4 * 4 + j)
  | [], _, _, _ => rfl
  | i :: l, m, hl, hw => by
    obtain ⟨h1, h2, h3, h4⟩ := h
    have hi : i < 4 := hl i List.mem_cons_self
    have hs (k : Nat) (hk : k < 4) : rowSite chan pc bank (row / 4 * 4 + k) := ⟨h1, h2, h3, by omega⟩
    rw [List.foldl_cons, rowView_zeroRows ⟨h1, h2, h3, h4⟩ hj l _ (fun x hx => hl x (List.mem_cons_of_mem _ hx)) (by rwa [storeRow_written])]
    by_cases hji : j = i
    · subst hji
      rw [rowView_storeRow_same m (hs j hj) hw List.length_replicate, ite_self, if_pos List.mem_cons_self]
    · rw [rowView_storeRow_other m _ (hs i hi) (hs j hj) fun he => hji (by simp only [Prod.mk.injEq] at he; omega)]
      simp only [List.mem_cons, hji, false_or]

/-- A granule opened changes what no row reads. -/
theorem rowView_openGranule (m : Memory) (h : rowSite chan pc bank row) {n' chan' pc' bank' row' : Nat} (h' : rowSite chan' pc' bank' row') :
    rowView (openGranule m n chan pc bank row) n' chan' pc' bank' row' = rowView m n' chan' pc' bank' row' := by
  unfold openGranule
  split
  · rfl
  · next hw =>
    by_cases he : rowUnit n' chan' pc' bank' row' = rowUnit n chan pc bank row
    · obtain ⟨hx, hr⟩ := rowUnit_inj h' h he
      simp only [Prod.mk.injEq] at hx
      obtain ⟨rfl, rfl, rfl, rfl⟩ := hx
      have hrow : row' = row / 4 * 4 + row' % 4 := by omega
      rw [hrow] at he ⊢
      rw [rowView_zeroRows h (Nat.mod_lt _ (by decide)) _ _ (fun i hi => List.mem_range.1 hi)
        (by rw [he]; exact (KSet.mem_add _ _ _).2 (.inl rfl)), if_pos (List.mem_range.2 (Nat.mod_lt _ (by decide)))]
      unfold rowView
      rw [if_neg (by rw [he]; exact hw)]
    · have hadd : rowView { m with written := KSet.add m.written (rowUnit n chan pc bank row) } n' chan' pc' bank' row' =
          rowView m n' chan' pc' bank' row' := by
        unfold rowView
        simp only [KSet.mem_add, he, false_or]
        rfl
      rw [← hadd]
      generalize { m with written := KSet.add m.written (rowUnit n chan pc bank row) } = m1
      obtain ⟨h1, h2, h3, h4⟩ := h
      have hstep (m : Memory) (i : Nat) (hi : i ∈ List.range 4) :
          rowView (storeRow m n chan pc bank (row / 4 * 4 + i) (List.replicate 1024 0#8)) n' chan' pc' bank' row' =
            rowView m n' chan' pc' bank' row' := by
        have hi := List.mem_range.1 hi
        refine rowView_storeRow_other m _ ⟨h1, h2, h3, by omega⟩ h' fun ht => he ?_
        simp only [Prod.mk.injEq] at ht
        obtain ⟨rfl, rfl, rfl, rfl, rfl⟩ := ht
        unfold rowUnit
        omega
      generalize List.range 4 = l at hstep ⊢
      induction l generalizing m1 with
      | nil => rfl
      | cons i l ih =>
        rw [List.foldl_cons, ih _ fun m i hi => hstep m i (List.mem_cons_of_mem _ hi), hstep _ _ List.mem_cons_self]

end Granule

/-! A row written -/

/-- A row written changes memory alone, and of it the bytes, their marks and the written map. -/
theorem writeRow_frame (s : State) (n chan pc bank row : Nat) (bs : List Byte) : writeRow s n chan pc bank row bs = { s with mem := { s.mem with
    dram := (writeRow s n chan pc bank row bs).mem.dram
    written := (writeRow s n chan pc bank row bs).mem.written
    poison := (writeRow s n chan pc bank row bs).mem.poison } } := by
  rw [writeRow_eq, storeRow_frame, openGranule_frame]

theorem readRow_writeRow_same (s : State) {n chan pc bank row : Nat} {bs : List Byte} (h : rowSite chan pc bank row) (hl : bs.length = 1024) :
    readRow (writeRow s n chan pc bank row bs) n chan pc bank row = bs := by
  rw [readRow_eq, writeRow_eq]
  exact rowView_storeRow_same _ h ((mem_openGranule _ _).2 (.inl rfl)) hl

theorem readRow_writeRow_other (s : State) {n chan pc bank row n' chan' pc' bank' row' : Nat} (bs : List Byte) (h : rowSite chan pc bank row)
    (h' : rowSite chan' pc' bank' row') (hne : (n', chan', pc', bank', row') ≠ (n, chan, pc, bank, row)) :
    readRow (writeRow s n chan pc bank row bs) n' chan' pc' bank' row' = readRow s n' chan' pc' bank' row' := by
  rw [readRow_eq, readRow_eq, writeRow_eq]
  exact (rowView_storeRow_other _ bs h h' hne).trans (rowView_openGranule _ h h')

end Sys2Proof.Machine
end

section
/-! SUPPORT. The rows a command opens, the row buffer, and the row commands by what they store (R122, R127 to R129, R140, R150). -/

namespace Sys2Proof.Machine

/-! Accesses through a window, in a state that has changed elsewhere -/

theorem scratchOpen_congr {s t : State} (hi : t.img = s.img) (hb : t.mem.bounds = s.mem.bounds) (hd : localDevice t = localDevice s) {c : Nat}
    (hp : rd t Fld.CLU_PWR_STATE c = rd s Fld.CLU_PWR_STATE c) (who : Requester) (a : GAddr) (kind : AccessKind) (x : Nat) :
    scratchOpen t who a kind c x = scratchOpen s who a kind c x := by
  have ht : tenantOf t who = tenantOf s who := by cases who <;> simp only [tenantOf, hi]
  simp only [scratchOpen, isLocal, windowOf, windowAllowed, clusterOff, hi, hb, hd, hp, ht]

theorem padFree_congr {s t : State} (hi : t.img = s.img) (hr : t.mem.reductions = s.mem.reductions) (hd : localDevice t = localDevice s)
    (a : GAddr) : padFree t a = padFree s a := by
  have hw : windowOf t (offOf a) = windowOf s (offOf a) := by unfold windowOf; rw [hi]
  have hl (x : Nat) : lineFree t 2 x = lineFree s 2 x := by unfold lineFree localAddr; rw [hr, hd]
  unfold padFree
  rw [hw, hi]
  cases windowOf s (offOf a) with
  | none => rfl
  | some e => exact hl _

/-! Activations (R140, R150) -/

/-- What the activations of a command on stack `n` leave: the stack but for its open rows and the cycles of its activations, and every
register but the stack's counters. -/
structure RowsOpened (n : Nat) (s t : State) : Prop where
  frame : t = { s with regs := t.regs, stk := t.stk }
  stk : ∀ m, Machine.stk t m =
    if m = n then { Machine.stk s n with openRow := (Machine.stk t n).openRow, acts := (Machine.stk t n).acts } else Machine.stk s m
  reg : ∀ o, o < Fld.STK_ACT_LO_COUNT.addr n ∨ Fld.STK_TPAW_WAIT_HI_COUNT.addr n < o → t.regs.read o = s.regs.read o

theorem read_wr64_other (s : State) (lo hi : Field) (v i j : Nat) {o : Nat} (hl : o ≠ lo.addr i j) (hh : o ≠ hi.addr i j) :
    (wr64 s lo hi v i j).regs.read o = s.regs.read o := by
  unfold wr64 Regs.set64
  exact (Regs.read_write_other _ _ hh).trans (Regs.read_write_other _ _ hl)

theorem stk_modStk (s : State) (n : Nat) (f : Stack → Stack) (m : Nat) : stk (modStk s n f) m = if m = n then f (stk s n) else stk s m :=
  stk_setStk _ _ _ _

theorem stk_activate (s : State) (n d k : Nat) : ∃ b, ∀ m, stk (activate s n d k).1 m = if m = n then { stk s n with acts := b } else stk s m :=
  ⟨KMap.set (fun _ => []) (stk s n).acts d (grantSlots s n d k
      ((KMap.get (fun _ => []) (stk s n).acts d).filter (fun a => bankCycle s < a + 32)) (bankCycle s) 0).1,
    fun m => stk_modStk s n (fun x => { x with acts := KMap.set (fun _ => []) x.acts d (grantSlots s n d k
      ((KMap.get (fun _ => []) (stk s n).acts d).filter (fun a => bankCycle s < a + 32)) (bankCycle s) 0).1 }) m⟩

theorem rowsOpened_openRows (s : State) (n : Nat) (c : StkCmd) (ts : List Touch) : RowsOpened n s (openRows s n c ts).1 := by
  have hk : ∃ a b, ∀ m, Machine.stk (openRows s n c ts).1 m =
      if m = n then { Machine.stk s n with openRow := a, acts := b } else Machine.stk s m := by
    unfold openRows
    dsimp only
    obtain ⟨b, hb⟩ := stk_activate (modStk s n (fun k => { k with openRow := (planRows s n c ts [] (Machine.stk s n).openRow 0).2 })) n
      (dieOfChan c.chan) (planRows s n c ts [] (Machine.stk s n).openRow 0).1
    refine ⟨(planRows s n c ts [] (Machine.stk s n).openRow 0).2, b, fun m => (hb m).trans ?_⟩
    rw [stk_modStk, if_pos rfl, stk_modStk]
    split <;> rfl
  obtain ⟨a, b, hk⟩ := hk
  refine ⟨rfl, fun m => ?_, fun o ho => ?_⟩
  · rw [hk n, if_pos rfl]
    exact hk m
  · have hadd (f : Field) (h0 : f.s1 = 65536) (h1 : f.s2 = 0) (h2 : Reg.STK_ACT_LO ≤ f.base) (h3 : f.base ≤ Reg.STK_TPAW_WAIT_HI) :
        o ≠ f.addr n := by
      unfold Field.addr Fld.STK_ACT_LO_COUNT Fld.STK_TPAW_WAIT_HI_COUNT at ho
      unfold Field.addr
      dsimp only at ho
      rw [h0, h1]
      omega
    refine (read_wr64_other _ _ _ _ _ _ ?_ ?_).trans (read_wr64_other _ _ _ _ _ _ ?_ ?_) <;>
      exact hadd _ rfl rfl (by decide) (by decide)

namespace RowsOpened

variable {n : Nat} {s t : State}

theorem mem (h : RowsOpened n s t) : t.mem = s.mem := by rw [h.frame]
theorem img (h : RowsOpened n s t) : t.img = s.img := by rw [h.frame]

theorem stk_same (h : RowsOpened n s t) : Machine.stk t n =
    { Machine.stk s n with openRow := (Machine.stk t n).openRow, acts := (Machine.stk t n).acts } := (h.stk n).trans (if_pos rfl)

theorem queue (h : RowsOpened n s t) : (Machine.stk t n).queue = (Machine.stk s n).queue := by rw [h.stk_same]

theorem units (h : RowsOpened n s t) : (Machine.stk t n).units = (Machine.stk s n).units := by rw [h.stk_same]

/-- A row reads as before its bank is opened. -/
theorem cmdReadRow (h : RowsOpened n s t) (c : StkCmd) (x : Nat × Nat) : Machine.cmdReadRow t n c x = Machine.cmdReadRow s n c x := by
  unfold Machine.cmdReadRow
  rw [readRow_eq, readRow_eq, h.mem]

theorem rd (h : RowsOpened n s t) {f : Field} {i j : Nat} (hf : f.addr i j < Fld.STK_ACT_LO_COUNT.addr n ∨
    Fld.STK_TPAW_WAIT_HI_COUNT.addr n < f.addr i j) : rd t f i j = rd s f i j := by
  unfold Machine.rd Regs.getF
  rw [h.reg _ hf]

theorem localDevice (h : RowsOpened n s t) : localDevice t = localDevice s := h.rd (.inl (by
  unfold Field.addr Fld.FAB_DEVID_DEVICE Fld.STK_ACT_LO_COUNT Reg.FAB_DEVID Reg.STK_ACT_LO
  dsimp only
  omega))

theorem clusterPower (h : RowsOpened n s t) (hn : n < 12) (l : Nat) : Machine.rd t Fld.CLU_PWR_STATE l = Machine.rd s Fld.CLU_PWR_STATE l :=
  h.rd (.inr (by
    unfold Field.addr Fld.CLU_PWR_STATE Fld.STK_TPAW_WAIT_HI_COUNT Reg.CLU_PWR Reg.STK_TPAW_WAIT_HI
    dsimp only
    omega))

end RowsOpened

/-! The row buffer -/

theorem setRowBuffer_frame (s : State) (n u : Nat) (bs : List Byte) : setRowBuffer s n u bs = { s with stk := (setRowBuffer s n u bs).stk } := rfl

theorem stk_setRowBuffer (s : State) (n u : Nat) (bs : List Byte) (m : Nat) : stk (setRowBuffer s n u bs) m =
    if m = n then setBankUnit (stk s n) u { bankUnit (stk s n) u with rowBuffer := bs } else stk s m := stk_modStk _ _ _ _

theorem bankUnit_setBankUnit_same (k : Stack) (u : Nat) (x : BankUnit) : bankUnit (setBankUnit k u x) u = x := KMap.get_set_same _ _ _ _

theorem bankUnit_setBankUnit_other (k : Stack) {u v : Nat} (x : BankUnit) (h : v ≠ u) : bankUnit (setBankUnit k u x) v = bankUnit k v :=
  KMap.get_set_other _ _ _ h

/-! Commands that write row C (R122, R127) -/

/-- A row command writes row C, but for a copy of a row to itself (R127). -/
theorem rowTouches_writes (c : StkCmd) : (rowTouches c).any (·.2.2) =
    !decide (bitsOf (rowsUsed (cmdOp c)) 2 1 = 0 ∨ (cmdOp c = 0x02 ∧ cmdRow c 2 = cmdRow c 0)) := by
  have hsrc (i : Nat) : (if bitsOf (rowsUsed (cmdOp c)) i 1 = 1 then [((cmdRow c i).1, (cmdRow c i).2, false)] else []).any (·.2.2) = false := by
    split <;> rfl
  unfold rowTouches
  dsimp only
  rw [List.any_append, List.any_append, hsrc, hsrc]
  split
  · next h => simp [h]
  · next h => simp [h]

/-- Row C and the row buffer take a command's result. -/
def storeResult (s : State) (n : Nat) (c : StkCmd) (bs : List Byte) : State :=
  if (rowTouches c).any (·.2.2) then setRowBuffer (cmdWriteRow s n c (cmdRow c 2) bs) n (cmdUnit c) bs else s

theorem rowWrite_clean {c : StkCmd} (hp : c.poison = false) (s : State) (n : Nat) (data : List Byte → List Byte → List Byte) :
    rowWrite s n c false false data = finishCmd (storeResult (openRows s n c (rowTouches c)).1 n c
      (data (cmdReadRow s n c (cmdRow c 0)) (cmdReadRow s n c (cmdRow c 1)))) n c
      ⟨0, 0, (openRows s n c (rowTouches c)).2.1, 0, 0, (openRows s n c (rowTouches c)).2.2, false⟩ := by
  have hbad (t : State) : badRows t n c ((if bitsOf (rowsUsed (cmdOp c)) 0 1 = 1 then [(cmdRow c 0, false)] else []) ++
      (if bitsOf (rowsUsed (cmdOp c)) 1 1 = 1 then [(cmdRow c 1, false)] else [])) = [] := by
    unfold badRows
    split <;> split <;> simp
  have ho := rowsOpened_openRows s n c (rowTouches c)
  unfold rowWrite
  simp only [hbad, hp, ho.cmdReadRow, List.foldl_nil, List.isEmpty_nil, Bool.not_true, Bool.or_self, Bool.false_or]
  unfold storeResult
  cases (rowTouches c).any (·.2.2) <;> rfl

/-- A source row that is reported uncorrectable: it is recorded, and nothing is stored (R129). -/
theorem rowWrite_bad {s : State} {n : Nat} {c : StkCmd} (hu : bitsOf (rowsUsed (cmdOp c)) 0 1 = 1)
    (hw : rowWritten s n c.chan c.pc (2 * c.pair + (cmdRow c 0).1) (cmdRow c 0).2 = true) (data : List Byte → List Byte → List Byte) :
    rowWrite s n c true false data = finishCmd (badRow (openRows s n c (rowTouches c)).1 n c (cmdRow c 0)) n c
      ⟨0, 0, (openRows s n c (rowTouches c)).2.1, 0, 0, (openRows s n c (rowTouches c)).2.2, true⟩ := by
  have ho := rowsOpened_openRows s n c (rowTouches c)
  have hw' : rowWritten (openRows s n c (rowTouches c)).1 n c.chan c.pc (2 * c.pair + (cmdRow c 0).1) (cmdRow c 0).2 = true := by
    unfold rowWritten at hw ⊢
    rw [ho.mem]
    exact hw
  have hbad : badRows (openRows s n c (rowTouches c)).1 n c ((if bitsOf (rowsUsed (cmdOp c)) 0 1 = 1 then [(cmdRow c 0, true)] else []) ++
      (if bitsOf (rowsUsed (cmdOp c)) 1 1 = 1 then [(cmdRow c 1, false)] else [])) = [cmdRow c 0] := by
    rw [if_pos hu]
    unfold badRows
    split <;> simp [hw']
  unfold rowWrite
  simp only [hbad, List.foldl_cons, List.foldl_nil, List.isEmpty_cons, Bool.not_false, Bool.or_true, Bool.true_or, if_true]

/-- A row a command names is one that the stack has (R93, R123). -/
theorem rowSite_cmdRow {c : StkCmd} (h : siteOk c = true) (i : Nat) : rowSite c.chan c.pc (2 * c.pair + (cmdRow c i).1) (cmdRow c i).2 := by
  simp only [siteOk, Bool.and_eq_true, decide_eq_true_eq] at h
  obtain ⟨⟨h1, h2⟩, h3⟩ := h
  have hb : (cmdRow c i).1 < 2 := bitsOf_one_lt _ _
  have hr : (cmdRow c i).2 < 2 ^ 16 := Nat.mod_lt _ (Nat.two_pow_pos 16)
  exact ⟨h1, h2, by omega, by omega⟩

theorem endCmd_mem (s : State) (n : Nat) (c : StkCmd) (r : CmdResult) : (endCmd s n c r).mem = s.mem := by rw [endCmd_frame]

theorem readRow_congr {s t : State} (h : t.mem = s.mem) (n chan pc bank row : Nat) :
    readRow t n chan pc bank row = readRow s n chan pc bank row := by rw [readRow_eq, readRow_eq, h]

/-- Of the memory, the bytes of rows, their marks and the written map have changed; besides, stacks. -/
def rowsChanged (s t : State) : Prop :=
  ∃ k d w p, t = { s with stk := k, mem := { s.mem with dram := d, written := w, poison := p } }

theorem rowsChanged.setRowBuffer {s t : State} (h : rowsChanged s t) (n u : Nat) (bs : List Byte) :
    rowsChanged s (setRowBuffer t n u bs) := by
  obtain ⟨k, d, w, p, rfl⟩ := h
  exact ⟨_, d, w, p, rfl⟩

theorem rowsChanged_writeRow (s : State) (n chan pc bank row : Nat) (bs : List Byte) : rowsChanged s (writeRow s n chan pc bank row bs) :=
  ⟨_, _, _, _, writeRow_frame s n chan pc bank row bs⟩

/-- A stored result changes the bytes of rows, and the stack. -/
theorem rowsChanged_storeResult (s : State) (n : Nat) (c : StkCmd) (bs : List Byte) : rowsChanged s (storeResult s n c bs) := by
  unfold storeResult
  split
  · exact (rowsChanged_writeRow ..).setRowBuffer _ _ _
  · exact ⟨_, _, _, _, rfl⟩

theorem stk_writeRow (s : State) (n chan pc bank row : Nat) (bs : List Byte) (m : Nat) : stk (writeRow s n chan pc bank row bs) m = stk s m := by
  unfold stk
  rw [writeRow_eq]

theorem storeResult_queue (s : State) (n : Nat) (c : StkCmd) (bs : List Byte) : (stk (storeResult s n c bs) n).queue = (stk s n).queue := by
  unfold storeResult
  split
  · unfold cmdWriteRow
    rw [stk_setRowBuffer, if_pos rfl, stk_writeRow]
    rfl
  · rfl

theorem setRowBuffer_mem (s : State) (n u : Nat) (bs : List Byte) : (setRowBuffer s n u bs).mem = s.mem := rfl

/-- Row C holds the result, also where it stood there before (R127). -/
theorem readRow_storeResult_same (s : State) (n : Nat) {c : StkCmd} {bs : List Byte} (h : siteOk c = true) (hl : bs.length = 1024)
    (hk : (rowTouches c).any (·.2.2) = false → cmdReadRow s n c (cmdRow c 2) = bs) :
    cmdReadRow (storeResult s n c bs) n c (cmdRow c 2) = bs := by
  unfold storeResult
  split
  · unfold cmdReadRow cmdWriteRow
    rw [readRow_congr (setRowBuffer_mem _ _ _ _)]
    exact readRow_writeRow_same s (rowSite_cmdRow h 2) hl
  · next hw => exact hk (Bool.eq_false_iff.2 hw)

/-- Every other row of the machine stands. -/
theorem readRow_storeResult_other (s : State) (n : Nat) {c : StkCmd} (bs : List Byte) (h : siteOk c = true) {n' chan pc bank row : Nat}
    (h' : rowSite chan pc bank row) (hne : (n', chan, pc, bank, row) ≠ (n, c.chan, c.pc, 2 * c.pair + (cmdRow c 2).1, (cmdRow c 2).2)) :
    readRow (storeResult s n c bs) n' chan pc bank row = readRow s n' chan pc bank row := by
  unfold storeResult
  split
  · unfold cmdWriteRow
    rw [readRow_congr (setRowBuffer_mem _ _ _ _)]
    exact readRow_writeRow_other s bs (rowSite_cmdRow h 2) h' hne
  · rfl

/-! A row reported uncorrectable (R129, R362) -/

theorem badRow_frame (s : State) (n : Nat) (c : StkCmd) (x : Nat × Nat) :
    badRow s n c x = { s with regs := (badRow s n c x).regs, ras := (badRow s n c x).ras } := by
  unfold badRow
  dsimp only
  rw [recordUe_frame]

theorem recordUe_event (s : State) (kind src addr : Nat) : rd (recordUe s kind src addr) Fld.RAS_EVENT_UE = 1 := by
  have hw (t : State) (g : Field) (v : Nat) (hg : g.inWord) (ha : Fld.RAS_EVENT_UE.addr ≠ g.addr) :
      rd (wr t g v) Fld.RAS_EVENT_UE = rd t Fld.RAS_EVENT_UE := rd_wr_other _ _ _ _ _ _ _ _ hg (.inl ha)
  have h1 : rd (wr64 (flag s Fld.RAS_EVENT_UE) Fld.RAS_UE_LO_COUNT Fld.RAS_UE_HI_COUNT
      (rd64 (flag s Fld.RAS_EVENT_UE) Fld.RAS_UE_LO_COUNT Fld.RAS_UE_HI_COUNT + 1)) Fld.RAS_EVENT_UE = 1 :=
    (rd_wr64_other _ _ _ _ _ _ _ _ _ (by decide) (by decide) (.inl (by decide)) (.inl (by decide))).trans
      (rd_flag_same _ _ _ _ (by decide) (by decide))
  unfold recordUe
  dsimp only
  split
  · exact (hw _ Fld.RAS_ERR_OVERRUN _ (by decide) (by decide)).trans h1
  · refine (rd_wr64_other _ _ _ _ _ _ _ _ _ (by decide) (by decide) (.inl (by decide)) (.inl (by decide))).trans ?_
    refine (hw _ Fld.RAS_ERR_VALID _ (by decide) (by decide)).trans ?_
    rw [hw _ Fld.RAS_ERR_SOURCE _ (by decide) (by decide), hw _ Fld.RAS_ERR_KIND _ (by decide) (by decide)]
    exact h1

/-! ROW_READ (R129) -/

/-- What a clean ROW_READ stores: line `l` of row A. -/
def rowLineOf (c : StkCmd) (bs : List Byte) (l : Nat) : BitVec 512 × Bool :=
  (lineOf (slice bs (64 * l) 64), c.poison || decide (bitsOf 0 (2 * l) 2 ≠ 0))

/-- A clean ROW_READ puts row A into the row buffer, and its lines at DEST. -/
theorem rowRead_clean (s : State) (n : Nat) (c : StkCmd) : ∃ r : CmdResult, r.status = 0 ∧ rowRead s n c 0 =
    finishCmd (storeLines (setRowBuffer (openRows s n c (rowTouches c)).1 n (cmdUnit c) (cmdReadRow s n c (cmdRow c 0))) c.issuer (hf c 24 8)
      (rowLineOf c (cmdReadRow s n c (cmdRow c 0))) 16) n c r := by
  have ho := rowsOpened_openRows s n c (rowTouches c)
  unfold rowRead
  simp only [ite_self, ho.cmdReadRow, ne_eq, not_true_eq_false, if_false, badColumns, if_true]
  exact ⟨_, rfl, rfl⟩

end Sys2Proof.Machine
end

section
/-! PROOFS. The row commands: row C, the row buffer and DEST (O13). -/

namespace Sys2Proof.Machine

/-! Commands that write row C (R122, R127) -/

/-- The commands that write row C, with their opcodes and results. -/
def rowWriters (s : State) (u : PairRef) (c : StkCmd) : List (Instr × Nat × List Byte) :=
  let row (i : Nat) : List Byte := cmdReadRow s u.stack.val c (cmdRow c i)
  [(Instr.rowInit u, 1, patternRow c), (.rowCopy u false, 2, row 0), (.rowAnd u false false, 3, List.zipWith (· &&& ·) (row 0) (row 1)),
    (.rowOr u false false, 4, List.zipWith (· ||| ·) (row 0) (row 1)), (.rowXor u false false, 5, List.zipWith (· ^^^ ·) (row 0) (row 1)),
    (.rowNot u false, 6, (row 0).map (~~~ ·)), (.rowWrite u, 9, cmdPayload c)]

/-- The state as a command begins: its rows opened. -/
def rowsOpen (s : State) (u : PairRef) (c : StkCmd) : State := (openRows (quiet s) u.stack.val c (rowTouches c)).1

theorem rowsOpened_rowsOpen (s : State) (u : PairRef) (c : StkCmd) : RowsOpened u.stack.val (quiet s) (rowsOpen s u c) :=
  rowsOpened_openRows ..

/-- What the completion of a row command reports: its activations and wait. -/
def rowResult (s : State) (u : PairRef) (c : StkCmd) (poison : Bool) : CmdResult :=
  ⟨0, 0, (openRows (quiet s) u.stack.val c (rowTouches c)).2.1, 0, 0, (openRows (quiet s) u.stack.val c (rowTouches c)).2.2, poison⟩

/-- Each stores its result, and its command leaves the queue. -/
theorem exec_rowWriter {s : State} {u : PairRef} {c : StkCmd} {r : Instr × Nat × List Byte} (hr : r ∈ rowWriters s u c)
    (h : headRuns s u c rowTouches = true) (ho : cmdOp c = r.2.1) (hp : c.poison = false) (hc : cmdCpl c = false) :
    exec r.1 s = .next (endCmd (storeResult (rowsOpen s u c) u.stack.val c r.2.2) u.stack.val c (rowResult s u c false)) := by
  have run {mine : Nat → Bool} (data : StkCmd → List Byte → List Byte → List Byte) (hm : mine (cmdOp c) = true) :
      runHead (quiet s) u mine rowTouches (fun s n c => rowWrite s n c false false (data c)) =
        endCmd (storeResult (rowsOpen s u c) u.stack.val c
          (data c (cmdReadRow s u.stack.val c (cmdRow c 0)) (cmdReadRow s u.stack.val c (cmdRow c 1)))) u.stack.val c
          (rowResult s u c false) := by
    rw [runHead_runs (s := quiet s) h hm, rowWrite_clean hp, finishCmd_silent hc]
    rfl
  simp only [rowWriters, List.mem_cons, List.not_mem_nil, or_false] at hr
  rcases hr with rfl | rfl | rfl | rfl | rfl | rfl | rfl
  · exact congrArg Host.Outcome.next (run (fun c _ _ => patternRow c) (decide_eq_true ho))
  · exact congrArg Host.Outcome.next (run (fun _ a _ => a) (decide_eq_true ho))
  · exact congrArg Host.Outcome.next (run (fun _ a b => List.zipWith (· &&& ·) a b) (decide_eq_true ho))
  · exact congrArg Host.Outcome.next (run (fun _ a b => List.zipWith (· ||| ·) a b) (decide_eq_true ho))
  · exact congrArg Host.Outcome.next (run (fun _ a b => List.zipWith (· ^^^ ·) a b) (decide_eq_true ho))
  · exact congrArg Host.Outcome.next (run (fun _ a _ => a.map (~~~ ·)) (decide_eq_true ho))
  · exact congrArg Host.Outcome.next (run (fun c _ _ => cmdPayload c) (decide_eq_true ho))

/-- Only a copy of a row to itself writes nothing, and the row holds the result already (R127). -/
theorem rowWriter_still {s : State} {u : PairRef} {c : StkCmd} {r : Instr × Nat × List Byte} (hr : r ∈ rowWriters s u c)
    (ho : cmdOp c = r.2.1) (hw : (rowTouches c).any (·.2.2) = false) : cmdReadRow s u.stack.val c (cmdRow c 2) = r.2.2 := by
  have hcopy : cmdOp c = 0x02 ∧ cmdRow c 2 = cmdRow c 0 := by
    rw [rowTouches_writes, Bool.not_eq_false', decide_eq_true_eq] at hw
    refine hw.resolve_left fun hu => ?_
    have hop : r.2.1 ∈ [1, 2, 3, 4, 5, 6, 9] := List.mem_map_of_mem (f := fun e => e.2.1) hr
    have hall : ∀ op ∈ [1, 2, 3, 4, 5, 6, 9], bitsOf (rowsUsed op) 2 1 ≠ 0 := by decide
    exact hall _ hop (ho ▸ hu)
  rw [hcopy.1] at ho
  simp only [rowWriters, List.mem_cons, List.not_mem_nil, or_false] at hr
  rcases hr with rfl | rfl | rfl | rfl | rfl | rfl | rfl
  case inr.inl => rw [hcopy.2]
  all_goals simp at ho

/-- What a command that writes row C leaves. -/
theorem rowStored_facts {s : State} {u : PairRef} {c : StkCmd} {bs : List Byte} {q : CmdResult} {t : State} (hs : siteOk c = true)
    (hl : bs.length = 1024) (hk : (rowTouches c).any (·.2.2) = false → cmdReadRow s u.stack.val c (cmdRow c 2) = bs)
    (ht : t = endCmd (storeResult (rowsOpen s u c) u.stack.val c bs) u.stack.val c q) :
    t = { s with
      out := []
      regs := t.regs
      stk := t.stk
      clu := t.clu
      kvm := t.kvm
      mem := { s.mem with dram := t.mem.dram, written := t.mem.written, poison := t.mem.poison } } ∧
    (stk t u.stack.val).queue = dropFirst (stk s u.stack.val).queue c ∧
    cmdReadRow t u.stack.val c (cmdRow c 2) = bs ∧
    ∀ n chan pc bank k, n < 12 → chan < 64 → pc < 2 → bank < 16 → k < 65536 →
      (n, chan, pc, bank, k) ≠ (u.stack.val, c.chan, c.pc, 2 * c.pair + (cmdRow c 2).1, (cmdRow c 2).2) →
      readRow t n chan pc bank k = readRow s n chan pc bank k := by
  have ho := rowsOpened_rowsOpen s u c
  have hmem : t.mem = (storeResult (rowsOpen s u c) u.stack.val c bs).mem := by rw [ht, endCmd_mem]
  refine ⟨?_, ?_, ?_, fun n chan pc bank k _ h1 h2 h3 h4 hne => ?_⟩
  · obtain ⟨k, d, w, p, he⟩ := rowsChanged_storeResult (rowsOpen s u c) u.stack.val c bs
    rw [ht, endCmd_frame, he, ho.frame]
    rfl
  · rw [ht, stk_endCmd, if_pos rfl, storeResult_queue, ho.queue]
    rfl
  · unfold cmdReadRow
    rw [readRow_congr hmem]
    exact readRow_storeResult_same _ _ hs hl fun hw => (ho.cmdReadRow c _).trans (hk hw)
  · rw [readRow_congr hmem, readRow_storeResult_other _ _ bs hs ⟨h1, h2, h3, h4⟩ hne]
    exact readRow_congr ho.mem ..

/-! A source row reported uncorrectable (R129) -/

/-- The commands with a source row A that is reported. -/
def rowReaders (u : PairRef) : List (Instr × Nat) :=
  [(Instr.rowCopy u true, 2), (.rowAnd u true false, 3), (.rowOr u true false, 4), (.rowXor u true false, 5), (.rowNot u true, 6)]

theorem exec_rowReader_bad {s : State} {u : PairRef} {c : StkCmd} {r : Instr × Nat} (hr : r ∈ rowReaders u)
    (h : headRuns s u c rowTouches = true) (ho : cmdOp c = r.2) (hc : cmdCpl c = false)
    (hw : rowWritten s u.stack.val c.chan c.pc (2 * c.pair + (cmdRow c 0).1) (cmdRow c 0).2 = true) :
    exec r.1 s = .next (endCmd (badRow (rowsOpen s u c) u.stack.val c (cmdRow c 0)) u.stack.val c (rowResult s u c true)) := by
  have hu : bitsOf (rowsUsed (cmdOp c)) 0 1 = 1 := by
    have hop : r.2 ∈ [2, 3, 4, 5, 6] := List.mem_map_of_mem (f := fun e => e.2) hr
    have hall : ∀ op ∈ [2, 3, 4, 5, 6], bitsOf (rowsUsed op) 0 1 = 1 := by decide
    exact hall _ (ho ▸ hop)
  have run {mine : Nat → Bool} (data : List Byte → List Byte → List Byte) (hm : mine (cmdOp c) = true) :
      runHead (quiet s) u mine rowTouches (fun s n c => rowWrite s n c true false data) =
        endCmd (badRow (rowsOpen s u c) u.stack.val c (cmdRow c 0)) u.stack.val c (rowResult s u c true) := by
    rw [runHead_runs (s := quiet s) h hm, rowWrite_bad (s := quiet s) hu hw, finishCmd_silent hc]
    rfl
  simp only [rowReaders, List.mem_cons, List.not_mem_nil, or_false] at hr
  rcases hr with rfl | rfl | rfl | rfl | rfl
  · exact congrArg Host.Outcome.next (run (fun a _ => a) (decide_eq_true ho))
  · exact congrArg Host.Outcome.next (run (fun a b => List.zipWith (· &&& ·) a b) (decide_eq_true ho))
  · exact congrArg Host.Outcome.next (run (fun a b => List.zipWith (· ||| ·) a b) (decide_eq_true ho))
  · exact congrArg Host.Outcome.next (run (fun a b => List.zipWith (· ^^^ ·) a b) (decide_eq_true ho))
  · exact congrArg Host.Outcome.next (run (fun a _ => a.map (~~~ ·)) (decide_eq_true ho))

theorem badRow_facts {s : State} {u : PairRef} {c : StkCmd} {x : Nat × Nat} {q : CmdResult} {t : State} (hq : q.status = 0)
    (ht : t = endCmd (badRow (rowsOpen s u c) u.stack.val c x) u.stack.val c q) :
    t = { s with out := [], regs := t.regs, stk := t.stk, clu := t.clu, kvm := t.kvm, ras := t.ras } ∧
    rd t Fld.RAS_EVENT_UE = 1 ∧ (stk t u.stack.val).queue = dropFirst (stk s u.stack.val).queue c := by
  have ho := rowsOpened_rowsOpen s u c
  refine ⟨?_, ?_, ?_⟩
  · rw [ht, endCmd_frame, badRow_frame, ho.frame]
    rfl
  · rw [ht, endCmd_clean_frame _ _ _ hq]
    exact recordUe_event ..
  · have hk : (stk (badRow (rowsOpen s u c) u.stack.val c x) u.stack.val).queue = (stk (rowsOpen s u c) u.stack.val).queue := by
      rw [badRow_frame]
      rfl
    rw [ht, stk_endCmd, if_pos rfl, hk, ho.queue]
    rfl

/-! ROW_READ (R129) -/

/-- The state as ROW_READ begins to store its lines: row A open and in the row buffer. -/
def rowFetched (s : State) (u : PairRef) (c : StkCmd) : State :=
  setRowBuffer (rowsOpen s u c) u.stack.val (cmdUnit c) (cmdReadRow s u.stack.val c (cmdRow c 0))

theorem exec_rowRead_clean {s : State} {u : PairRef} {c : StkCmd} (h : headRuns s u c rowTouches = true) (ho : cmdOp c = 8) :
    ∃ r : CmdResult, r.status = 0 ∧ exec (.rowRead u 0) s = .next (finishCmd (storeLines (rowFetched s u c) c.issuer (hf c 24 8)
      (rowLineOf c (cmdReadRow s u.stack.val c (cmdRow c 0))) 16) u.stack.val c r) := by
  obtain ⟨r, hr, hx⟩ := rowRead_clean (quiet s) u.stack.val c
  exact ⟨r, hr, congrArg Host.Outcome.next ((runHead_runs (s := quiet s) h (decide_eq_true ho)).trans hx)⟩

theorem rowFetched_frame (s : State) (u : PairRef) (c : StkCmd) : rowFetched s u c =
    { quiet s with regs := (rowFetched s u c).regs, stk := (rowFetched s u c).stk } := by
  unfold rowFetched
  rw [setRowBuffer_frame, (rowsOpened_rowsOpen s u c).frame]

theorem stk_rowFetched (s : State) (u : PairRef) (c : StkCmd) : (stk (rowFetched s u c) u.stack.val).queue = (stk s u.stack.val).queue ∧
    (bankUnit (stk (rowFetched s u c) u.stack.val) (cmdUnit c)).rowBuffer = cmdReadRow s u.stack.val c (cmdRow c 0) := by
  have ho := rowsOpened_rowsOpen s u c
  unfold rowFetched
  rw [stk_setRowBuffer, if_pos rfl, bankUnit_setBankUnit_same]
  exact ⟨ho.queue, rfl⟩

/-- Where DEST lies in a scratchpad as the command is issued, it lies there once row A is open. -/
theorem padOpen_rowFetched {s : State} {u : PairRef} {c : StkCmd} {l x k : Nat} {a : Nat} (h : padOpen s c.issuer a l x k) :
    padOpen (rowFetched s u c) c.issuer a l x k := by
  have ho := rowsOpened_rowsOpen s u c
  intro i hi d p
  obtain ⟨hs, hf⟩ := h i hi d p
  refine ⟨?_, ?_⟩
  · exact (scratchOpen_congr ho.img (congrArg Memory.bounds ho.mem) ho.localDevice (ho.clusterPower u.stack.isLt l) _ _ _ _).trans hs
  · exact (padFree_congr ho.img (congrArg Memory.reductions ho.mem) ho.localDevice _).trans hf

/-- The lines of a row, put together. -/
theorem flatMap_rowLineOf (c : StkCmd) {bs : List Byte} (h : bs.length = 1024) :
    (List.range 16).flatMap (fun l => lineBytes (rowLineOf c bs l).1) = bs := by
  unfold rowLineOf
  simp only [Nat.mul_comm 64]
  exact flatMap_rowLines h

/-- Settles O13: the commands that write row C, a source row reported uncorrectable, and ROW_READ. -/
theorem rowCommands : Obligations.RowCommands := by
  unfold Obligations.RowCommands
  refine ⟨fun s u c h hs hc hp r hr ho hl => ?_, fun s u c h hc hw r hr ho => ?_, fun s u c h ho => ?_⟩
  · exact ⟨_, exec_rowWriter hr h ho hp hc, rowStored_facts hs hl (rowWriter_still hr ho) rfl⟩
  · exact ⟨_, exec_rowReader_bad hr h ho hc hw, badRow_facts rfl rfl⟩
  · obtain ⟨r, hr, hx⟩ := exec_rowRead_clean h ho
    obtain ⟨hqueue, hbuf⟩ := stk_rowFetched s u c
    have hk := (StacksKept.storeLines (s := rowFetched s u c) c.issuer (hf c 24 8) (rowLineOf c (cmdReadRow s u.stack.val c (cmdRow c 0))) 16)
    refine ⟨_, hx, ?_, ?_, fun l x hc _ _ _ hpad => ?_⟩
    · rw [stk_finishCmd_same, hk.stk_eq]
      exact congrArg (dropFirst · c) hqueue
    · rw [stk_finishCmd_same, hk.stk_eq]
      exact hbuf
    · obtain ⟨m, hst, hm, hb⟩ := storeLines_pad (rowLineOf c (cmdReadRow s u.stack.val c (cmdRow c 0)))
        (padOpen_rowFetched (s := s) (u := u) (c := c) hpad)
      rw [finishCmd_silent hc, hst]
      refine ⟨?_, ?_⟩
      · rw [endCmd_mem]
        exact hb.trans (flatMap_rowLineOf c (length_readRow ..))
      · have hfr : m = { s.mem with spad := m.spad, spadPoison := m.spadPoison } := by
          rw [congrArg State.mem (rowFetched_frame s u c)] at hm
          exact hm
        rw [endCmd_frame, rowFetched_frame]
        generalize m = m' at hfr ⊢
        rw [hfr]
        rfl

end Sys2Proof.Machine
end

section
/-! SUPPORT. Page geometries: where a slot's parts lie in a page, and what the rows of a page hold once a token is written in a slot
(R134, R241, R242). -/

namespace Sys2Proof.Machine

/-! Bytes of a row replaced -/

theorem length_splice {bs new : List Byte} {off : Nat} (h : off + new.length ≤ bs.length) : (splice bs off new).length = bs.length := by
  unfold splice
  simp only [List.length_append, List.length_take, List.length_drop]
  omega

/-- The bytes replaced read as the new ones. -/
theorem slice_splice_same {bs new : List Byte} {off : Nat} (h : off + new.length ≤ bs.length) :
    slice (splice bs off new) off new.length = new := by
  have hl : (bs.take off).length = off := by rw [List.length_take]; omega
  unfold slice splice
  rw [List.append_assoc, List.drop_append_of_le_length (by omega), List.drop_eq_nil_of_le (by omega), List.nil_append,
    List.take_append_of_le_length (Nat.le_refl _), List.take_length]

/-- Bytes apart from those replaced stand. -/
theorem slice_splice_other {bs new : List Byte} {off o n : Nat} (h : off + new.length ≤ bs.length) (hd : o + n ≤ off ∨ off + new.length ≤ o) :
    slice (splice bs off new) o n = slice bs o n := by
  refine List.ext_getElem? fun i => ?_
  unfold slice splice
  simp only [List.getElem?_take, List.getElem?_drop]
  split
  · next hi =>
    rcases hd with hd | hd
    · rw [List.getElem?_append_left (by rw [List.length_append, List.length_take]; omega),
        List.getElem?_append_left (by rw [List.length_take]; omega), List.getElem?_take, if_pos (by omega)]
    · rw [List.getElem?_append_right (by rw [List.length_append, List.length_take]; omega), List.length_append, List.length_take,
        List.getElem?_drop]
      congr 1
      omega
  · rfl

/-! The geometries of Table 10.1 -/

def geoms : List Geom :=
  [⟨3, 64, 8⟩, ⟨3, 128, 8⟩, ⟨3, 256, 8⟩, ⟨7, 64, 4⟩, ⟨7, 128, 4⟩, ⟨7, 256, 4⟩, ⟨1, 64, 16⟩, ⟨1, 128, 16⟩, ⟨1, 256, 16⟩]

theorem geomOf_mem {code : Nat} {g : Geom} (h : geomOf code = some g) : g ∈ geoms := by
  unfold geomOf at h
  split at h <;> cases h <;> decide

theorem cmdGeom_mem {c : StkCmd} {g : Geom} (h : cmdGeom c = some g) : g ∈ geoms := by
  obtain ⟨b, -, hb⟩ := Option.bind_eq_some_iff.1 h
  exact geomOf_mem hb

/-- What every geometry of Table 10.1 has: rows that tokens fill, 64 slots, and scales that fit half a row. -/
structure Geom.Fits (g : Geom) : Prop where
  row : g.perRow * g.kb = 1024
  slots : g.keyRows * g.perRow = 64
  scales : g.scales ≤ 8
  noScales : g.isFp4 = false → g.scales = 0
  oneScaleRow : g.scaleRows = if g.isFp4 then 1 else 0
  keys : 2 * g.kb ≤ ceilDiv (2 * g.kb) 64 * 64

theorem geoms_fit : ∀ g ∈ geoms, g.Fits := by
  have h : ∀ g ∈ geoms, g.perRow * g.kb = 1024 ∧ g.keyRows * g.perRow = 64 ∧ g.scales ≤ 8 ∧ (g.isFp4 = false → g.scales = 0) ∧
      2 * g.kb ≤ ceilDiv (2 * g.kb) 64 * 64 := by decide
  intro g hg
  obtain ⟨h1, h2, h3, h4, h5⟩ := h g hg
  exact ⟨h1, h2, h3, h4, rfl, h5⟩

namespace Geom.Fits

variable {g : Geom}

theorem perRow_pos (h : g.Fits) : 0 < g.perRow := by
  rcases Nat.eq_zero_or_pos g.perRow with h0 | h0
  · have := h.row
    rw [h0] at this
    omega
  · exact h0

theorem keyRow_lt (h : g.Fits) {j : Nat} (hj : j < 64) : g.keyRow j < g.keyRows := by
  unfold Geom.keyRow
  rw [Nat.div_lt_iff_lt_mul h.perRow_pos, h.slots]
  exact hj

theorem slotByte_le (h : g.Fits) (j : Nat) : g.slotByte j + g.kb ≤ 1024 := by
  have hm : j % g.perRow < g.perRow := Nat.mod_lt _ h.perRow_pos
  have := Nat.mul_le_mul_right g.kb (Nat.succ_le_of_lt hm)
  rw [h.row, Nat.succ_mul] at this
  exact this

theorem keyScale_le (h : g.Fits) {j : Nat} (hj : j < 64) : g.keyScaleByte j + g.scales ≤ 512 := by
  have h1 : (j + 1) * g.scales ≤ 64 * 8 := Nat.mul_le_mul hj h.scales
  rw [Nat.succ_mul] at h1
  exact h1

end Geom.Fits

/-- Pieces of one length at different places lie apart. -/
theorem pieces_apart {i j : Nat} (k : Nat) (hne : i ≠ j) : i * k + k ≤ j * k ∨ j * k + k ≤ i * k := by
  rw [← Nat.succ_mul, ← Nat.succ_mul]
  rcases Nat.lt_or_gt_of_ne hne with hlt | hlt
  · exact .inl (Nat.mul_le_mul_right _ hlt)
  · exact .inr (Nat.mul_le_mul_right _ hlt)

/-- Slots of one row lie apart in it. -/
theorem Geom.slotByte_apart {g : Geom} {i j : Nat} (hr : g.keyRow i = g.keyRow j) (hne : i ≠ j) :
    g.slotByte i + g.kb ≤ g.slotByte j ∨ g.slotByte j + g.kb ≤ g.slotByte i := by
  refine pieces_apart g.kb fun he => hne ?_
  unfold Geom.keyRow at hr
  rw [← Nat.div_add_mod i g.perRow, ← Nat.div_add_mod j g.perRow, hr, he]

theorem Geom.valRow_eq (g : Geom) (j : Nat) : g.valRow j = g.keyRows + g.keyRow j := rfl

/-! A page with one token written (R134) -/

/-- The parts of a token have the lengths of its geometry. -/
structure Token.Fits (t : Token) (g : Geom) : Prop where
  key : t.key.length = g.kb
  val : t.val.length = g.kb
  keyScale : t.keyScale.length = g.scales
  valScale : t.valScale.length = g.scales

/-- The data rows of a page once a token is written in a slot. -/
def appendedRow (g : Geom) (slot : Nat) (row : Nat → List Byte) (t : Token) (r : Nat) : List Byte :=
  if r = g.keyRow slot then splice (row r) (g.slotByte slot) t.key
  else if r = g.valRow slot then splice (row r) (g.slotByte slot) t.val
  else if g.isFp4 ∧ r = 2 * g.keyRows then splice (splice (row r) (g.keyScaleByte slot) t.keyScale) (g.valScaleByte slot) t.valScale
  else row r

section Token

variable {g : Geom} {slot : Nat} {row : Nat → List Byte} {t : Token}

theorem appendedRow_key : appendedRow g slot row t (g.keyRow slot) = splice (row (g.keyRow slot)) (g.slotByte slot) t.key := if_pos rfl

theorem appendedRow_val (h : g.Fits) (hs : slot < 64) :
    appendedRow g slot row t (g.valRow slot) = splice (row (g.valRow slot)) (g.slotByte slot) t.val := by
  have hk := h.keyRow_lt hs
  unfold appendedRow
  rw [if_neg (by rw [g.valRow_eq]; omega), if_pos rfl]

theorem appendedRow_scale (h : g.Fits) (hs : slot < 64) (hf : g.isFp4 = true) : appendedRow g slot row t (2 * g.keyRows) =
    splice (splice (row (2 * g.keyRows)) (g.keyScaleByte slot) t.keyScale) (g.valScaleByte slot) t.valScale := by
  have hk := h.keyRow_lt hs
  unfold appendedRow
  rw [if_neg (by omega), if_neg (by rw [g.valRow_eq]; omega), if_pos ⟨hf, rfl⟩]

theorem appendedRow_key_other (h : g.Fits) (hs : slot < 64) {j : Nat} (hj : j < 64) (hne : g.keyRow j ≠ g.keyRow slot) :
    appendedRow g slot row t (g.keyRow j) = row (g.keyRow j) := by
  have hk := h.keyRow_lt hs
  have hk' := h.keyRow_lt hj
  unfold appendedRow
  rw [if_neg hne, if_neg (by rw [g.valRow_eq]; omega), if_neg (by omega)]

theorem appendedRow_val_other (h : g.Fits) (hs : slot < 64) {j : Nat} (hj : j < 64) (hne : g.keyRow j ≠ g.keyRow slot) :
    appendedRow g slot row t (g.valRow j) = row (g.valRow j) := by
  have hk := h.keyRow_lt hs
  have hk' := h.keyRow_lt hj
  unfold appendedRow
  rw [g.valRow_eq, if_neg (by omega), if_neg (by rw [g.valRow_eq]; omega), if_neg (by omega)]

theorem slice_none {bs : List Byte} (off : Nat) : slice bs off 0 = [] := List.take_zero

/-- The slot written reads as the token. -/
theorem slotToken_appended_same (h : g.Fits) (hs : slot < 64) (hrow : ∀ r, (row r).length = 1024) (ht : t.Fits g) :
    slotToken g (appendedRow g slot row t) slot = t := by
  have hb := h.slotByte_le slot
  have hc := h.keyScale_le hs
  obtain ⟨key, val, ks, vs⟩ := t
  obtain ⟨k1, k2, k3, k4⟩ := ht
  dsimp only at k1 k2 k3 k4
  have hkey : slice (splice (row (g.keyRow slot)) (g.slotByte slot) key) (g.slotByte slot) g.kb = key := by
    rw [← k1] at hb ⊢
    exact slice_splice_same (by rw [hrow]; exact hb)
  have hval : slice (splice (row (g.valRow slot)) (g.slotByte slot) val) (g.slotByte slot) g.kb = val := by
    rw [← k2] at hb ⊢
    exact slice_splice_same (by rw [hrow]; exact hb)
  unfold slotToken
  rw [appendedRow_key, appendedRow_val h hs, hkey, hval]
  congr 1
  · cases hf : g.isFp4 with
    | false => rw [h.noScales hf] at k3 ⊢; rw [slice_none, List.eq_nil_of_length_eq_zero k3]
    | true =>
      rw [appendedRow_scale h hs hf]
      dsimp only
      have hin : (splice (row (2 * g.keyRows)) (g.keyScaleByte slot) ks).length = 1024 := by
        rw [length_splice (by rw [hrow, k3]; omega), hrow]
      have hv : g.valScaleByte slot = 512 + g.keyScaleByte slot := rfl
      rw [slice_splice_other (by rw [hin, k4, hv]; omega) (.inl (by rw [hv]; omega)), ← k3]
      exact slice_splice_same (by rw [hrow, k3]; omega)
  · cases hf : g.isFp4 with
    | false => rw [h.noScales hf] at k4 ⊢; rw [slice_none, List.eq_nil_of_length_eq_zero k4]
    | true =>
      rw [appendedRow_scale h hs hf]
      dsimp only
      have hin : (splice (row (2 * g.keyRows)) (g.keyScaleByte slot) ks).length = 1024 := by
        rw [length_splice (by rw [hrow, k3]; omega), hrow]
      have hv : g.valScaleByte slot = 512 + g.keyScaleByte slot := rfl
      have hlen : g.valScaleByte slot + vs.length ≤ 1024 := by rw [k4, hv]; omega
      rw [← k4]
      exact slice_splice_same (by rw [hin]; exact hlen)

/-- Every other slot reads as before. -/
theorem slotToken_appended_other (h : g.Fits) (hs : slot < 64) (hrow : ∀ r, (row r).length = 1024) (ht : t.Fits g) {j : Nat} (hj : j < 64)
    (hne : j ≠ slot) : slotToken g (appendedRow g slot row t) j = slotToken g row j := by
  have hb := h.slotByte_le slot
  have hc := h.keyScale_le hs
  have hcj := h.keyScale_le hj
  have hap := pieces_apart g.scales hne
  obtain ⟨k1, k2, k3, k4⟩ := ht
  have hv (i : Nat) : g.valScaleByte i = 512 + g.keyScaleByte i := rfl
  have hks (i : Nat) : g.keyScaleByte i = i * g.scales := rfl
  have hscale (o : Nat) (hk : o + g.scales ≤ g.keyScaleByte slot ∨ g.keyScaleByte slot + g.scales ≤ o)
      (hvv : o + g.scales ≤ g.valScaleByte slot ∨ g.valScaleByte slot + g.scales ≤ o) :
      slice (appendedRow g slot row t (2 * g.keyRows)) o g.scales = slice (row (2 * g.keyRows)) o g.scales := by
    cases hf : g.isFp4 with
    | false => rw [h.noScales hf, slice_none, slice_none]
    | true =>
      have hin : (splice (row (2 * g.keyRows)) (g.keyScaleByte slot) t.keyScale).length = 1024 := by
        rw [length_splice (by rw [hrow, k3]; omega), hrow]
      rw [appendedRow_scale h hs hf, slice_splice_other (by rw [hin, k4, hv]; omega) (by rw [k4]; exact hvv),
        slice_splice_other (by rw [hrow, k3]; omega) (by rw [k3]; exact hk)]
  unfold slotToken
  rw [hscale (g.keyScaleByte j) (by rw [hks, hks]; exact hap) (.inl (by rw [hv]; omega)),
    hscale (g.valScaleByte j) (.inr (by rw [hv]; omega)) (by rw [hv, hv, hks, hks]; omega)]
  by_cases hr : g.keyRow j = g.keyRow slot
  · have hs' := Geom.slotByte_apart hr hne
    have hvr : g.valRow j = g.valRow slot := by rw [g.valRow_eq, g.valRow_eq, hr]
    rw [hr, hvr, appendedRow_key, appendedRow_val h hs, slice_splice_other (by rw [hrow, k1]; exact hb) (by rw [k1]; exact hs'),
      slice_splice_other (by rw [hrow, k2]; exact hb) (by rw [k2]; exact hs')]
  · rw [appendedRow_key_other h hs hj hr, appendedRow_val_other h hs hj hr]

end Token

end Sys2Proof.Machine
end

section
/-! SUPPORT. KV_APPEND: the rows of a page written one after another, and what the page then reads (R134). -/

namespace Sys2Proof.Machine

/-! What the fields of a command that runs are (R123) -/

/-- A check that answers 0 has passed. -/
theorem check_zero_iff {p : Prop} [Decidable p] {k x : Nat} (hk : k ≠ 0) : (if p then k else x) = 0 ↔ ¬p ∧ x = 0 := by
  by_cases hp : p
  · simp [hp, hk]
  · simp [hp]

/-- A command whose fields pass has the payload of its opcode, operands in range, and a page within its bank. -/
theorem fieldStatus_zero {s : State} {c : StkCmd} (h : fieldStatus s c = 0) : cmdPlen c = plenOf (cmdOp c) (cmdGeom c) ∧ rangesOk c = true ∧
    (cmdOp c = 0x10 → hf c 16 2 + (cmdGeom c).elim 0 (·.frameRows) - 1 ≤ 65535) := by
  unfold fieldStatus at h
  have h1 : (1 : Nat) ≠ 0 := Nat.one_ne_zero
  have h2 : (2 : Nat) ≠ 0 := Nat.succ_ne_zero 1
  rw [check_zero_iff h1, check_zero_iff h2, check_zero_iff h2, check_zero_iff h2, check_zero_iff h2, check_zero_iff h2,
    check_zero_iff h2, check_zero_iff h2] at h
  obtain ⟨-, -, -, -, hplen, hrange, -, hpage, -⟩ := h
  refine ⟨of_not_not hplen, ?_, fun ho => ?_⟩
  · simp only [Bool.or_eq_true, Bool.not_eq_true', not_or, Bool.not_eq_false] at hrange
    exact hrange.1
  · simp only [ho, decide_true, Bool.true_or, Bool.true_and, decide_eq_true_eq] at hpage
    omega

/-! The payload (R241) -/

/-- The payload lines of a KV_APPEND hold a token of its geometry. -/
theorem payloadToken_fits {g : Geom} (hg : g.Fits) {p : List Byte} (h : p.length = 64 * g.appendLines) : (payloadToken g p).Fits g := by
  have hl : p.length = ceilDiv (2 * g.kb) 64 * 64 + 64 * g.scaleRows := by rw [h]; unfold Geom.appendLines; omega
  have hk := hg.keys
  have hs : ceilDiv (2 * g.kb) 64 * 64 + g.scales + g.scales ≤ p.length := by
    rw [hl, hg.oneScaleRow]
    have h8 := hg.scales
    cases hf : g.isFp4 with
    | false => rw [hg.noScales hf]; simp
    | true => simp only [if_true]; omega
  exact ⟨length_slice (by omega), length_slice (by omega), length_slice (by omega), length_slice hs⟩

theorem length_cmdPayload (c : StkCmd) : (cmdPayload c).length = 64 * c.payload.length := by
  unfold cmdPayload
  rw [List.length_flatMap]
  simp [length_lineBytes, Nat.mul_comm]

/-! The rows of a page (R242) -/

theorem Geom.rows_eq (g : Geom) : g.rows = g.sumRow + g.sumRows := rfl

theorem ceilDiv_two (n : Nat) : ceilDiv n 2 = (n + 1) / 2 := rfl

/-- The rows a KV_APPEND names: the slot's two, and all from the scale row on. -/
theorem appendRows_eq {g : Geom} (hg : g.Fits) (slot : Nat) : appendRows g slot =
    g.keyRow slot :: g.valRow slot :: (List.range (g.scaleRows + g.sumRows)).map (2 * g.keyRows + ·) := by
  have hsum : g.sumRow = 2 * g.keyRows + g.scaleRows := rfl
  unfold appendRows
  rw [hsum, hg.oneScaleRow]
  cases g.isFp4 with
  | false => simp
  | true => simp [Nat.add_comm 1, List.range_succ_eq_map, Nat.add_assoc]

/-- They stand in ascending order, -/
theorem appendRows_sorted {g : Geom} (hg : g.Fits) {slot : Nat} (hs : slot < 64) : (appendRows g slot).Pairwise (· < ·) := by
  have hk := hg.keyRow_lt hs
  have hv := g.valRow_eq slot
  rw [appendRows_eq hg]
  refine List.pairwise_cons.2 ⟨fun r hr => ?_, List.pairwise_cons.2 ⟨fun r hr => ?_, ?_⟩⟩
  · rcases List.mem_cons.1 hr with rfl | hr
    · omega
    · obtain ⟨i, -, rfl⟩ := List.mem_map.1 hr
      omega
  · obtain ⟨i, -, rfl⟩ := List.mem_map.1 hr
    omega
  · exact List.pairwise_map.2 (List.pairwise_lt_range.imp fun h => Nat.add_lt_add_left h _)

/-- and within the page. -/
theorem appendRows_lt {g : Geom} (hg : g.Fits) {slot : Nat} (hs : slot < 64) {r : Nat} (hr : r ∈ appendRows g slot) : r < g.rows := by
  have hk := hg.keyRow_lt hs
  have hv := g.valRow_eq slot
  have hrows : g.rows = 2 * g.keyRows + g.scaleRows + g.sumRows := rfl
  rw [appendRows_eq hg] at hr
  rcases List.mem_cons.1 hr with rfl | hr
  · omega
  · rcases List.mem_cons.1 hr with rfl | hr
    · omega
    · obtain ⟨i, hi, rfl⟩ := List.mem_map.1 hr
      have := List.mem_range.1 hi
      omega

/-- The rows written are those it names. -/
theorem appendedRows_fst (g : Geom) (slot : Nat) (row : Nat → List Byte) (t : Token) :
    (appendedRows g slot row t).map Prod.fst = appendRows g slot := by
  have hsum (ls : List (List Byte)) (h : ls.length = g.sumRows) :
      (ls.zipIdx.map (fun p => (g.sumRow + p.2, p.1))).map Prod.fst = (List.range g.sumRows).map (fun i => g.sumRow + i) := by
    rw [List.map_map, ← h, List.range_eq_range', ← List.zipIdx_map_snd 0 ls, List.map_map]
    rfl
  unfold appendedRows appendRows
  dsimp only
  rw [List.map_append, List.map_append, hsum _ (by simp [sumRowBytes])]
  cases g.isFp4 <;> rfl

/-- A data row that is not written stands; one that is written takes the token. -/
theorem appendedRow_cases {g : Geom} (hg : g.Fits) (slot : Nat) (row : Nat → List Byte) (t : Token) {r : Nat} (hr : r < g.sumRow) :
    (r ∉ appendRows g slot ∧ appendedRow g slot row t r = row r) ∨ (r, appendedRow g slot row t r) ∈ appendedRows g slot row t := by
  have hsum : g.sumRow = 2 * g.keyRows + g.scaleRows := rfl
  have hone := hg.oneScaleRow
  unfold appendedRow
  split
  · next h =>
    subst h
    exact .inr (List.mem_append_left _ (List.mem_append_left _ List.mem_cons_self))
  · next hk =>
    split
    · next h =>
      subst h
      exact .inr (List.mem_append_left _ (List.mem_append_left _ (List.mem_cons_of_mem _ List.mem_cons_self)))
    · next hv =>
      split
      · next h =>
        obtain ⟨hf, rfl⟩ := h
        refine .inr (List.mem_append_left _ (List.mem_append_right _ ?_))
        rw [if_pos hf]
        exact List.mem_cons_self
      · next hs =>
        refine .inl ⟨fun hm => ?_, rfl⟩
        rw [appendRows_eq hg] at hm
        simp only [List.mem_cons, hk, hv, List.mem_map, List.mem_range, false_or] at hm
        obtain ⟨i, -, hi⟩ := hm
        cases hf : g.isFp4 with
        | false =>
          have hz : g.scaleRows = 0 := by rw [hone, hf]; rfl
          omega
        | true =>
          have ho : g.scaleRows = 1 := by rw [hone, hf]; rfl
          exact hs ⟨hf, by omega⟩

theorem length_appendedRow {g : Geom} (hg : g.Fits) {slot : Nat} (hs : slot < 64) {row : Nat → List Byte} {t : Token}
    (hrow : ∀ r, (row r).length = 1024) (ht : t.Fits g) (r : Nat) : (appendedRow g slot row t r).length = 1024 := by
  obtain ⟨h1, h2, h3, h4⟩ := ht
  have hb := hg.slotByte_le slot
  have hc := hg.keyScale_le hs
  have hv : g.valScaleByte slot = 512 + g.keyScaleByte slot := rfl
  have hks : (splice (row r) (g.keyScaleByte slot) t.keyScale).length = 1024 := by rw [length_splice (by rw [hrow, h3]; omega), hrow]
  unfold appendedRow
  split
  · rw [length_splice (by rw [hrow, h1]; exact hb), hrow]
  · split
    · rw [length_splice (by rw [hrow, h2]; exact hb), hrow]
    · split
      · rw [length_splice (by rw [hks, h4, hv]; omega), hks]
      · exact hrow r

/-- A slot is its data rows. -/
theorem slotToken_congr {g : Geom} (hg : g.Fits) {row row' : Nat → List Byte} (h : ∀ r < g.sumRow, row r = row' r) {j : Nat} (hj : j < 64) :
    slotToken g row j = slotToken g row' j := by
  have hk := hg.keyRow_lt hj
  have hv := g.valRow_eq j
  have hsum : g.sumRow = 2 * g.keyRows + g.scaleRows := rfl
  have hscale (o : Nat) : slice (row (2 * g.keyRows)) o g.scales = slice (row' (2 * g.keyRows)) o g.scales := by
    cases hf : g.isFp4 with
    | false => rw [hg.noScales hf, slice_none, slice_none]
    | true => rw [h _ (by rw [hsum, hg.oneScaleRow, hf]; exact Nat.lt_succ_self _)]
  unfold slotToken
  rw [h _ (by omega : g.keyRow j < g.sumRow), h _ (by omega : g.valRow j < g.sumRow), hscale, hscale]

/-! Rows of a page written one after another -/

/-- The page rows of a command take their contents. -/
def writePage (s : State) (n : Nat) (c : StkCmd) (l : List (Nat × List Byte)) : State :=
  l.foldl (fun s p => cmdWriteRow s n c (cmdPageRow c p.1) p.2) s

/-- The page rows of a list are rows that the stack has. -/
def pageSites (c : StkCmd) (rs : List Nat) : Prop :=
  ∀ r ∈ rs, rowSite c.chan c.pc (2 * c.pair + (cmdPageRow c r).1) (cmdPageRow c r).2

theorem writePage_cons (s : State) (n : Nat) (c : StkCmd) (p : Nat × List Byte) (l : List (Nat × List Byte)) :
    writePage s n c (p :: l) = writePage (writeRow s n c.chan c.pc (2 * c.pair + (cmdPageRow c p.1).1) (cmdPageRow c p.1).2 p.2) n c l := by
  unfold writePage cmdWriteRow
  rw [List.foldl_cons]

theorem rowsChanged.trans {s t u : State} (h : rowsChanged s t) (h' : rowsChanged t u) : rowsChanged s u := by
  obtain ⟨_, _, _, _, rfl⟩ := h
  obtain ⟨k, d, w, q, rfl⟩ := h'
  exact ⟨k, d, w, q, rfl⟩

theorem rowsChanged.refl (s : State) : rowsChanged s s := ⟨_, _, _, _, rfl⟩

theorem rowsChanged_writePage (n : Nat) (c : StkCmd) : ∀ (l : List (Nat × List Byte)) (s : State), rowsChanged s (writePage s n c l)
  | [], s => .refl s
  | p :: l, s => by
    rw [writePage_cons]
    exact (rowsChanged_writeRow ..).trans (rowsChanged_writePage n c l _)

theorem stk_writePage (n : Nat) (c : StkCmd) : ∀ (l : List (Nat × List Byte)) (s : State) (m : Nat), stk (writePage s n c l) m = stk s m
  | [], _, _ => rfl
  | p :: l, s, m => by rw [writePage_cons, stk_writePage n c l, stk_writeRow]

/-- A row that is none of those written reads as before, -/
theorem readRow_writePage_other {n : Nat} {c : StkCmd} {n' chan pc bank row : Nat} (h' : rowSite chan pc bank row) :
    ∀ (l : List (Nat × List Byte)) (s : State), pageSites c (l.map Prod.fst) →
    (∀ r ∈ l.map Prod.fst, (n', chan, pc, bank, row) ≠ (n, c.chan, c.pc, 2 * c.pair + (cmdPageRow c r).1, (cmdPageRow c r).2)) →
    readRow (writePage s n c l) n' chan pc bank row = readRow s n' chan pc bank row
  | [], _, _, _ => rfl
  | p :: l, s, hp, hne => by
    rw [writePage_cons, readRow_writePage_other h' l _ (fun r hr => hp r (List.mem_cons_of_mem _ hr)) fun r hr => hne r (List.mem_cons_of_mem _ hr)]
    exact readRow_writeRow_other s p.2 (hp p.1 List.mem_cons_self) h' (hne p.1 List.mem_cons_self)

theorem cmdPageRow_inj {c : StkCmd} {r r' : Nat} (h : cmdPageRow c r = cmdPageRow c r') : r = r' := by
  unfold cmdPageRow pageRowAt at h
  simp only [Prod.mk.injEq] at h
  omega

/-- a page row that is none of those written among them, -/
theorem cmdReadRow_writePage_other (s : State) (n : Nat) {c : StkCmd} {l : List (Nat × List Byte)} {r : Nat} (hp : pageSites c (l.map Prod.fst))
    (hr : pageSites c [r]) (hne : r ∉ l.map Prod.fst) :
    cmdReadRow (writePage s n c l) n c (cmdPageRow c r) = cmdReadRow s n c (cmdPageRow c r) := by
  refine readRow_writePage_other (hr r List.mem_cons_self) l s hp fun x hx he => hne ?_
  simp only [Prod.mk.injEq, true_and] at he
  rw [cmdPageRow_inj (c := c) (Prod.ext (by omega) he.2)]
  exact hx

/-- and one of them as written. -/
theorem cmdReadRow_writePage_same {n : Nat} {c : StkCmd} {p : Nat × List Byte} (hl : p.2.length = 1024) :
    ∀ (l : List (Nat × List Byte)) (s : State), pageSites c (l.map Prod.fst) → (l.map Prod.fst).Nodup → p ∈ l →
    cmdReadRow (writePage s n c l) n c (cmdPageRow c p.1) = p.2
  | [], _, _, _, h => absurd h List.not_mem_nil
  | q :: l, s, hp, hd, h => by
    obtain ⟨hq, hd⟩ := List.nodup_cons.1 hd
    have hp' : pageSites c (l.map Prod.fst) := fun r hr => hp r (List.mem_cons_of_mem _ hr)
    rw [writePage_cons]
    rcases List.mem_cons.1 h with rfl | h
    · rw [cmdReadRow_writePage_other _ n hp' (List.forall_mem_singleton.2 (hp p.1 List.mem_cons_self)) hq]
      exact readRow_writeRow_same s (hp p.1 List.mem_cons_self) hl
    · exact cmdReadRow_writePage_same hl l _ hp' hd h

/-! A token appended (R134) -/

/-- What a KV_APPEND that runs names: a slot, and rows within its bank. -/
structure AppendOk (c : StkCmd) (g : Geom) : Prop where
  geom : cmdGeom c = some g
  slot : hf c 19 1 < 64
  token : (payloadToken g (cmdPayload c)).Fits g
  sites : ∀ r < g.rows, rowSite c.chan c.pc (2 * c.pair + (cmdPageRow c r).1) (cmdPageRow c r).2

theorem AppendOk.of_fields {s : State} {c : StkCmd} {g : Geom} (h : fieldStatus s c = 0) (ho : cmdOp c = 0x10) (hs : siteOk c = true)
    (hg : cmdGeom c = some g) (hp : c.payload.length = cmdPlen c) : AppendOk c g := by
  obtain ⟨hlen, hrange, hpage⟩ := fieldStatus_zero h
  rw [ho, hg] at hlen
  have hframe : hf c 16 2 + ceilDiv g.rows 2 - 1 ≤ 65535 := by
    have := hpage ho
    rwa [hg] at this
  simp only [siteOk, Bool.and_eq_true, decide_eq_true_eq] at hs
  obtain ⟨⟨h1, h2⟩, h3⟩ := hs
  refine ⟨hg, ?_, payloadToken_fits (geoms_fit g (cmdGeom_mem hg)) ?_, fun r hr => ?_⟩
  · unfold rangesOk at hrange
    rw [ho] at hrange
    exact of_decide_eq_true hrange
  · rw [length_cmdPayload, hp, hlen]
    rfl
  · unfold cmdPageRow pageRowAt
    rw [ceilDiv_two] at hframe
    dsimp only
    exact ⟨h1, h2, by omega, by omega⟩

section Append

variable {c : StkCmd} {g : Geom}

/-- The token of the payload written into the page. -/
def writeToken (s : State) (n : Nat) (c : StkCmd) (g : Geom) : State :=
  writePage s n c (appendedRows g (hf c 19 1) (fun r => cmdReadRow s n c (cmdPageRow c r)) (payloadToken g (cmdPayload c)))

theorem AppendOk.fits (h : AppendOk c g) : g.Fits := geoms_fit g (cmdGeom_mem h.geom)

theorem AppendOk.pageSites (h : AppendOk c g) (row : Nat → List Byte) (t : Token) :
    pageSites c ((appendedRows g (hf c 19 1) row t).map Prod.fst) := by
  rw [appendedRows_fst]
  exact fun r hr => h.sites r (appendRows_lt h.fits h.slot hr)

theorem cmdReadRow_writeToken (h : AppendOk c g) (s : State) (n : Nat) {r : Nat} (hr : r < g.sumRow) :
    cmdReadRow (writeToken s n c g) n c (cmdPageRow c r) =
      appendedRow g (hf c 19 1) (fun r => cmdReadRow s n c (cmdPageRow c r)) (payloadToken g (cmdPayload c)) r := by
  have hp := h.pageSites (fun r => cmdReadRow s n c (cmdPageRow c r)) (payloadToken g (cmdPayload c))
  have hrows := g.rows_eq
  rcases appendedRow_cases h.fits (hf c 19 1) (fun r => cmdReadRow s n c (cmdPageRow c r)) (payloadToken g (cmdPayload c)) hr with ⟨hn, he⟩ | hm
  · rw [he]
    refine cmdReadRow_writePage_other s n hp (List.forall_mem_singleton.2 (h.sites r (by omega))) ?_
    rw [appendedRows_fst]
    exact hn
  · refine cmdReadRow_writePage_same (p := (r, _)) ?_ _ s hp ?_ hm
    · exact length_appendedRow h.fits h.slot (fun _ => length_readRow ..) h.token r
    · rw [appendedRows_fst]
      exact (appendRows_sorted h.fits h.slot).imp fun h => Nat.ne_of_lt h

/-- The slot named reads as the token, -/
theorem slotToken_writeToken_same (h : AppendOk c g) (s : State) (n : Nat) :
    slotToken g (fun r => cmdReadRow (writeToken s n c g) n c (cmdPageRow c r)) (hf c 19 1) = payloadToken g (cmdPayload c) :=
  (slotToken_congr h.fits (fun _ hr => cmdReadRow_writeToken h s n hr) h.slot).trans
    (slotToken_appended_same h.fits h.slot (fun _ => length_readRow ..) h.token)

/-- every other as before, -/
theorem slotToken_writeToken_other (h : AppendOk c g) (s : State) (n : Nat) {j : Nat} (hj : j < 64) (hne : j ≠ hf c 19 1) :
    slotToken g (fun r => cmdReadRow (writeToken s n c g) n c (cmdPageRow c r)) j =
      slotToken g (fun r => cmdReadRow s n c (cmdPageRow c r)) j :=
  (slotToken_congr h.fits (fun _ hr => cmdReadRow_writeToken h s n hr) hj).trans
    (slotToken_appended_other h.fits h.slot (fun _ => length_readRow ..) h.token hj hne)

/-- and so every row that it does not name. -/
theorem readRow_writeToken_other (h : AppendOk c g) (s : State) (n : Nat) {n' chan pc bank k : Nat} (h' : rowSite chan pc bank k)
    (hne : ¬(n' = n ∧ chan = c.chan ∧ pc = c.pc ∧
      (bank, k) ∈ (appendRows g (hf c 19 1)).map (fun r => (2 * c.pair + (cmdPageRow c r).1, (cmdPageRow c r).2)))) :
    readRow (writeToken s n c g) n' chan pc bank k = readRow s n' chan pc bank k := by
  refine readRow_writePage_other h' _ s (h.pageSites _ _) fun r hr he => hne ?_
  rw [appendedRows_fst] at hr
  simp only [Prod.mk.injEq] at he
  obtain ⟨h1, h2, h3, h4, h5⟩ := he
  exact ⟨h1, h2, h3, List.mem_map.2 ⟨r, hr, by rw [h4, h5]⟩⟩

/-- A clean KV_APPEND opens its rows and writes the token. -/
theorem kvAppend_clean (h : AppendOk c g) (hp : c.poison = false) (s : State) (n : Nat) : ∃ r : CmdResult, r.status = 0 ∧
    kvAppend s n c none = finishCmd (writeToken (openRows s n c (appendTouches c)).1 n c g) n c r := by
  unfold kvAppend
  rw [h.geom]
  simp only [badPageRow, hp, List.foldl_nil, List.isEmpty_nil, Bool.not_true, Bool.or_self, Bool.false_eq_true, if_false]
  exact ⟨_, rfl, rfl⟩

end Append

end Sys2Proof.Machine
end

section
/-! PROOFS. The attention commands: KV_APPEND, QLOAD, ATTEND and HELD_FLUSH_RETRY (O14). -/

namespace Sys2Proof.Machine

/-! Held entries (R119) -/

theorem unitHeld_setHeld (s : State) (n u : Nat) (l : List Held) : unitHeld (setHeld s n u l) n u = l := by
  unfold unitHeld setHeld
  rw [stk_modStk, if_pos rfl, bankUnit_setBankUnit_same]

/-- Nothing to offer, nothing done. -/
theorem flushWhere_none {s : State} {n u : Nat} {p : Held → Bool} (h : (unitHeld s n u).filter p = []) : flushWhere s n u p = s := by
  unfold flushWhere
  rw [h]
  rfl

/-- A block whose RID is not open is refused, and stays held (R137). -/
theorem flushEntry_closed {s : State} {n : Nat} {h : Held} (hr : redOf (stk s n) h.block.rid = none) (u : Nat) (f : Bool) :
    flushEntry s n u h f = setHeld s n u (replaceFirst (fun x => decide (x = h))
      (fun x => { x with refused := true, offered := false, since := some (x.since.getD (bankCycle s)) }) (unitHeld s n u)) := by
  unfold flushEntry offerBlock
  rw [hr]

/-! KV_APPEND -/

/-- The state as KV_APPEND begins: its rows opened. -/
def appendOpened (s : State) (u : PairRef) (c : StkCmd) : State := (openRows (quiet s) u.stack.val c (appendTouches c)).1

theorem rowsOpened_appendOpened (s : State) (u : PairRef) (c : StkCmd) : RowsOpened u.stack.val (quiet s) (appendOpened s u c) :=
  rowsOpened_openRows ..

theorem exec_kvAppend_clean {s : State} {u : PairRef} {c : StkCmd} {g : Geom} (h : headRuns s u c appendTouches = true) (ho : cmdOp c = 0x10)
    (hg : AppendOk c g) (hp : c.poison = false) (hc : cmdCpl c = false) :
    ∃ r, exec (.kvAppend u none) s = .next (endCmd (writeToken (appendOpened s u c) u.stack.val c g) u.stack.val c r) := by
  obtain ⟨r, -, hr⟩ := kvAppend_clean hg hp (quiet s) u.stack.val
  rw [finishCmd_silent hc] at hr
  exact ⟨r, congrArg Host.Outcome.next ((runHead_runs (s := quiet s) h (decide_eq_true ho)).trans hr)⟩

theorem cmdReadRow_congr {s t : State} (h : t.mem = s.mem) (n : Nat) (c : StkCmd) (x : Nat × Nat) : cmdReadRow t n c x = cmdReadRow s n c x :=
  readRow_congr h ..

/-- What KV_APPEND leaves. -/
theorem writeToken_facts {s : State} {u : PairRef} {c : StkCmd} {g : Geom} {q : CmdResult} {t : State} (hg : AppendOk c g)
    (ht : t = endCmd (writeToken (appendOpened s u c) u.stack.val c g) u.stack.val c q) :
    t = { s with
      out := []
      regs := t.regs
      stk := t.stk
      clu := t.clu
      kvm := t.kvm
      mem := { s.mem with dram := t.mem.dram, written := t.mem.written, poison := t.mem.poison } } ∧
    slotToken g (fun r => cmdReadRow t u.stack.val c (cmdPageRow c r)) (hf c 19 1) = payloadToken g (cmdPayload c) ∧
    (∀ j < 64, j ≠ hf c 19 1 → slotToken g (fun r => cmdReadRow t u.stack.val c (cmdPageRow c r)) j =
      slotToken g (fun r => cmdReadRow s u.stack.val c (cmdPageRow c r)) j) ∧
    ∀ n chan pc bank k, n < 12 → chan < 64 → pc < 2 → bank < 16 → k < 65536 →
      ¬(n = u.stack.val ∧ chan = c.chan ∧ pc = c.pc ∧
        (bank, k) ∈ (appendRows g (hf c 19 1)).map (fun r => (2 * c.pair + (cmdPageRow c r).1, (cmdPageRow c r).2))) →
      readRow t n chan pc bank k = readRow s n chan pc bank k := by
  have ho := rowsOpened_appendOpened s u c
  have hmem : t.mem = (writeToken (appendOpened s u c) u.stack.val c g).mem := by rw [ht, endCmd_mem]
  refine ⟨?_, ?_, fun j hj hne => ?_, fun n chan pc bank k _ h1 h2 h3 h4 hne => ?_⟩
  · obtain ⟨k, d, w, p, he⟩ := rowsChanged_writePage u.stack.val c (appendedRows g (hf c 19 1)
      (fun r => cmdReadRow (appendOpened s u c) u.stack.val c (cmdPageRow c r)) (payloadToken g (cmdPayload c))) (appendOpened s u c)
    rw [ht, endCmd_frame, writeToken, he, ho.frame]
    rfl
  · simp only [cmdReadRow_congr hmem]
    exact slotToken_writeToken_same hg _ _
  · simp only [cmdReadRow_congr hmem]
    rw [slotToken_writeToken_other hg _ _ hj hne]
    simp only [ho.cmdReadRow]
    rfl
  · rw [readRow_congr hmem, readRow_writeToken_other hg _ _ ⟨h1, h2, h3, h4⟩ hne]
    exact readRow_congr ho.mem ..

/-! QLOAD (R130) -/

/-- The query slot of a QLOAD. -/
def loadedSlot (c : StkCmd) (g : Geom) : QSlot := ⟨hf c 17 1, hf c 20 4, hf c 24 4, hf c 28 4, hf c 32 2, hf c 36 4, hf c 40 4,
  slice (cmdPayload c) 0 g.qBytes, c.poison⟩

/-- A unit's query slot takes a value. -/
def setSlot (s : State) (n u k : Nat) (q : QSlot) : State := modStk s n (fun x => setBankUnit x u
  { bankUnit x u with slots := KMap.set (fun _ => none) (bankUnit x u).slots k (some q) })

theorem bankUnit_setSlot (s : State) (n u k : Nat) (q : QSlot) (v : Nat) : bankUnit (stk (setSlot s n u k q) n) v =
    if v = u then { bankUnit (stk s n) u with slots := KMap.set (fun _ => none) (bankUnit (stk s n) u).slots k (some q) }
    else bankUnit (stk s n) v := by
  unfold setSlot
  rw [stk_modStk, if_pos rfl]
  split
  · next h => rw [h, bankUnit_setBankUnit_same]
  · next h => rw [bankUnit_setBankUnit_other _ _ h]

/-- A QLOAD whose format or result attributes do not fit ends with status ATTR. -/
theorem qload_attr {c : StkCmd} {g : Geom} (hg : cmdGeom c = some g)
    (h : hf c 20 4 ≠ g.qfmt ∨ resultWordOk (hf c 36 4) = false ∨ resultWordOk (hf c 40 4) = false) (s : State) (n : Nat) :
    qload s n c = finishCmd s n c (.plain 3) := by
  unfold qload
  rw [hg]
  dsimp only
  rw [if_pos (by simpa using h)]

/-- Else it fills its slot, where no held block has a record of it. -/
theorem qload_fits {c : StkCmd} {g : Geom} (hg : cmdGeom c = some g) (hq : hf c 20 4 = g.qfmt) (h1 : resultWordOk (hf c 36 4) = true)
    (h2 : resultWordOk (hf c 40 4) = true) {s : State} {n : Nat}
    (hh : ∀ h ∈ unitHeld s n (cmdUnit c), ∀ p ∈ h.block.recs, p.slot ≠ hf c 16 1) :
    qload s n c = finishCmd (setSlot s n (cmdUnit c) (hf c 16 1) (loadedSlot c g)) n c (.plain 0) := by
  have hf : (unitHeld s n (cmdUnit c)).filter (fun h => h.block.recs.any (fun p => p.slot = hf c 16 1)) = [] := by
    rw [List.filter_eq_nil_iff]
    intro h hm ha
    obtain ⟨p, hp, he⟩ := List.any_eq_true.1 ha
    exact hh h hm p hp (of_decide_eq_true he)
  unfold qload
  rw [hg]
  dsimp only
  rw [if_neg (by simp [hq, h1, h2]), flushWhere_none hf]
  rfl

/-- What QLOAD leaves. -/
theorem setSlot_facts {s : State} {n u k : Nat} {q : QSlot} {c : StkCmd} {r : CmdResult} {t : State} (hr : r.status = 0)
    (ht : t = endCmd (setSlot (quiet s) n u k q) n c r) : t = { s with out := [], stk := t.stk, clu := t.clu, kvm := t.kvm } ∧
    qslotOf t n u k = some q ∧ ∀ v j, (v, j) ≠ (u, k) → qslotOf t n v j = qslotOf s n v j := by
  have hu (v : Nat) : bankUnit (stk t n) v = bankUnit (stk (setSlot (quiet s) n u k q) n) v := by
    rw [ht, stk_endCmd, if_pos rfl]
    rfl
  refine ⟨?_, ?_, fun v j hne => ?_⟩
  · rw [ht, endCmd_clean_frame _ _ _ hr]
    rfl
  · unfold qslotOf
    rw [hu, bankUnit_setSlot, if_pos rfl]
    exact KMap.get_set_same _ _ _ _
  · unfold qslotOf
    rw [hu, bankUnit_setSlot]
    split
    · next h =>
      subst h
      exact KMap.get_set_other _ _ _ fun hj => hne (by rw [hj])
    · rfl

/-- What a command that fails leaves, but for its opcode's own effects. -/
theorem failed_facts {s : State} {n : Nat} {c : StkCmd} {r : CmdResult} {t : State} (h : r.status ≠ 0) (h6 : r.status ≠ 6) (hl : r.status < 256)
    (ht : t = endCmd (quiet s) n c r) : t = { s with out := [], regs := t.regs, stk := t.stk, clu := t.clu, kvm := t.kvm } ∧
    rd t Fld.STK_EVENT_CMD_ERR n = 1 ∧ (rd s Fld.STK_CMD_ERR_VALID n = 0 → rd t Fld.STK_CMD_ERR_STATUS n = r.status) := by
  refine ⟨?_, ?_, fun hv => ?_⟩
  · rw [ht, endCmd_frame]
    rfl
  · rw [ht, rd_endCmd_failed _ _ _ h h6]
    exact recordCmdErr_event ..
  · rw [ht]
    exact (endCmd_first (quiet s) n c h h6 hl hv).1

theorem exec_qload {s : State} {u : PairRef} {c : StkCmd} (h : headRuns s u c (fun _ => []) = true) (ho : cmdOp c = 0x11) :
    exec (.qload u) s = .next (qload (quiet s) u.stack.val c) :=
  congrArg Host.Outcome.next (runHead_runs (s := quiet s) h (decide_eq_true ho))

/-! ATTEND (R131 to R133) -/

section Attend

variable {s : State} {n : Nat} {c : StkCmd} {g : Geom}

/-- A row of the command's page. -/
def pageRow (s : State) (n : Nat) (c : StkCmd) (r : Nat) : List Byte := cmdReadRow s n c (cmdPageRow c r)

/-- The check of an ATTEND fails. -/
def checkFails (s : State) (n : Nat) (c : StkCmd) (g : Geom) : Bool :=
  cmdCheck c && !(attendRows s n c g).isEmpty && decide (sumWords g (pageRow s n c) ≠ pageWords g (pageRow s n c))

/-- The partial of a query slot over its visible page slots, with its scores. -/
def slotPartial (s : State) (n : Nat) (c : StkCmd) (g : Geom) (k : Nat) (q : QSlot) : Partial × List Nat :=
  pagePartial g k q ((visibleSlots c k q).map (slotToken g (pageRow s n c)))

/-- The partials of an ATTEND, poisoned where its check fails, with their scores. -/
def pageParts (s : State) (n : Nat) (c : StkCmd) (g : Geom) : List (Partial × List Nat) :=
  (namedSlots s n c).filterMap (fun q => q.2.map (fun x =>
    let r := slotPartial s n c g q.1 x
    ({ r.1 with poison := r.1.poison || checkFails s n c g }, r.2)))

/-- The block of partials. -/
def pageBlock (c : StkCmd) (ps : List (Partial × List Nat)) : Block := ⟨hf c 26 2, hf c 28 2, 1, ps.map (·.1), cmdTag c, cmdUnit c⟩

/-- The state as an ATTEND holds its block: its rows opened, CHECKSUM set where the check fails. -/
def pageChecked (s : State) (n : Nat) (c : StkCmd) (g : Geom) : State :=
  let t := (openRows s n c (attendTouches s n c)).1
  if checkFails s n c g then flag t Fld.STK_EVENT_CHECKSUM n else t

/-- A unit takes scores of its query slots. -/
def setScores (s : State) (n u : Nat) (m : KMap (List Nat)) : State :=
  modStk s n (fun k => setBankUnit k u { bankUnit k u with scores := m })

theorem unitHeld_setScores (s : State) (n u : Nat) (m : KMap (List Nat)) : unitHeld (setScores s n u m) n u = unitHeld s n u := by
  unfold unitHeld setScores
  rw [stk_modStk, if_pos rfl, bankUnit_setBankUnit_same]

/-- A block held where nothing is. -/
theorem holdBlock_empty {u : Nat} (h : unitHeld s n u = []) (b : Block) : holdBlock s n u b = (setHeld s n u [⟨b, false, false, none⟩], true) := by
  unfold holdBlock
  simp only [h]
  rfl

/-- The state once a block is held, offered where the command carries END. -/
def heldEnd (s : State) (n : Nat) (c : StkCmd) (b : Block) : State :=
  let t := setHeld s n (cmdUnit c) [⟨b, false, false, none⟩]
  if cmdEnd c then setHeld t n (cmdUnit c) ((unitHeld t n (cmdUnit c)).map (fun x => { x with offered := true })) else t

theorem unitHeld_heldEnd (b : Block) : unitHeld (heldEnd s n c b) n (cmdUnit c) = [⟨b, cmdEnd c, false, none⟩] := by
  unfold heldEnd
  dsimp only
  cases cmdEnd c with
  | false => exact unitHeld_setHeld ..
  | true =>
    rw [if_pos rfl, unitHeld_setHeld, unitHeld_setHeld]
    rfl

theorem heldEnd_frame (b : Block) : heldEnd s n c b = { s with stk := (heldEnd s n c b).stk } := by
  unfold heldEnd
  dsimp only
  split <;> rfl

theorem pageChecked_stk : (pageChecked s n c g).stk = (openRows s n c (attendTouches s n c)).1.stk := by
  unfold pageChecked
  dsimp only
  split <;> rfl

theorem unitHeld_pageChecked (u : Nat) : unitHeld (pageChecked s n c g) n u = unitHeld s n u := by
  have ho := (rowsOpened_openRows s n c (attendTouches s n c)).units
  unfold stk at ho
  unfold unitHeld bankUnit stk
  rw [pageChecked_stk, ho]

/-- How an ATTEND ends, given its partials, whether its check failed, and its activations and wait. -/
def attendEnd (s : State) (n : Nat) (c : StkCmd) (ps : List (Partial × List Nat)) (wrong : Bool) (acts wait : Nat) : State :=
  let t := setScores s n (cmdUnit c) (ps.foldl (fun m p => KMap.set (fun _ => []) m p.1.slot p.2) (bankUnit (stk s n) (cmdUnit c)).scores)
  let h := holdBlock t n (cmdUnit c) (pageBlock c ps)
  let t := if cmdEnd c then setHeld h.1 n (cmdUnit c) ((unitHeld h.1 n (cmdUnit c)).map (fun x => { x with offered := true })) else h.1
  let p0 := (ps.head?).map (·.1)
  finishCmd t n c ⟨if !h.2 then 6 else if wrong then 12 else 0, ps.foldl (fun a p => a ||| p.1.flags) 0, acts, p0.elim 0 (·.m),
    p0.elim 0 (·.l), wait, wrong || ps.any (·.1.poison)⟩

/-- An ATTEND that meets no error, at a unit that holds nothing. -/
theorem attend_eq (hg : cmdGeom c = some g) (hst : attendStatus s n c g = 0) (hh : unitHeld s n (cmdUnit c) = []) (hp : c.poison = false) :
    attend s n c none false = attendEnd (pageChecked s n c g) n c (pageParts s n c g) (checkFails s n c g)
      (openRows s n c (attendTouches s n c)).2.1 (openRows s n c (attendTouches s n c)).2.2 := by
  have ho := rowsOpened_openRows s n c (attendTouches s n c)
  unfold attend
  rw [hg]
  simp only [hst, flushWhere_none (p := fun h => decide (h.block.rid ≠ hf c 26 2)) (by rw [hh]; rfl), badPageRow, List.isEmpty_nil, if_true, reduceCtorEq,
    if_false, badColumns, List.foldl_nil, hp, Bool.false_or, Bool.or_false, ne_eq, not_true_eq_false, Bool.not_true, ho.cmdReadRow]
  rfl

/-- The block is held. -/
theorem attendEnd_alone (hh : unitHeld s n (cmdUnit c) = []) (ps : List (Partial × List Nat)) (wrong : Bool) (acts wait : Nat) :
    ∃ m r, attendEnd s n c ps wrong acts wait = finishCmd (heldEnd (setScores s n (cmdUnit c) m) n c (pageBlock c ps)) n c r ∧
      r.status = if wrong then 12 else 0 := by
  unfold attendEnd
  simp only [holdBlock_empty ((unitHeld_setScores s n (cmdUnit c) _).trans hh), Bool.not_true, Bool.false_eq_true, if_false]
  exact ⟨_, _, rfl, rfl⟩

/-- The registers as the block is held are those of the opened rows, and CHECKSUM where the check failed. -/
theorem attend_state (hg : cmdGeom c = some g) (hst : attendStatus s n c g = 0) (hh : unitHeld s n (cmdUnit c) = []) (hp : c.poison = false)
    (hc : cmdCpl c = false) : ∃ x r, attend s n c none false = endCmd x n c r ∧ r.status = (if checkFails s n c g then 12 else 0) ∧
      x = { pageChecked s n c g with stk := x.stk } ∧
      unitHeld x n (cmdUnit c) = [⟨pageBlock c (pageParts s n c g), cmdEnd c, false, none⟩] := by
  obtain ⟨m, r, he, hr⟩ := attendEnd_alone (c := c) ((unitHeld_pageChecked (g := g) (c := c) (cmdUnit c)).trans hh) (pageParts s n c g)
    (checkFails s n c g) (openRows s n c (attendTouches s n c)).2.1 (openRows s n c (attendTouches s n c)).2.2
  rw [finishCmd_silent hc] at he
  exact ⟨_, r, (attend_eq hg hst hh hp).trans he, hr, by rw [heldEnd_frame]; rfl, unitHeld_heldEnd _⟩

theorem unitHeld_endCmd (x : State) (n : Nat) (c : StkCmd) (r : CmdResult) (u : Nat) : unitHeld (endCmd x n c r) n u = unitHeld x n u := by
  unfold unitHeld
  rw [stk_endCmd, if_pos rfl]
  rfl

theorem pageChecked_frame : pageChecked s n c g = { s with regs := (pageChecked s n c g).regs, stk := (pageChecked s n c g).stk } := by
  have ho := (rowsOpened_openRows s n c (attendTouches s n c)).frame
  unfold pageChecked
  dsimp only
  split
  · generalize (openRows s n c (attendTouches s n c)).1 = t at ho ⊢
    rw [ho]
    rfl
  · exact ho

/-- Without a check, none fails. -/
theorem checkFails_unchecked (h : cmdCheck c = false) : checkFails s n c g = false := by
  unfold checkFails
  rw [h]
  rfl

/-- A check over rows whose words differ fails, -/
theorem checkFails_differs (h : cmdCheck c = true) (hr : attendRows s n c g ≠ [])
    (hne : sumWords g (pageRow s n c) ≠ pageWords g (pageRow s n c)) : checkFails s n c g = true := by
  unfold checkFails
  rw [h, decide_eq_true hne, List.isEmpty_eq_false_iff.2 hr]
  rfl

/-- and CHECKSUM is set, also once the command has left. -/
theorem rd_checksum_failed (h : checkFails s n c g = true) {x : State} {r : CmdResult} (hx : x = { pageChecked s n c g with stk := x.stk })
    (hr : r.status = 12) : rd (endCmd x n c r) Fld.STK_EVENT_CHECKSUM n = 1 := by
  have hl : rd (leaveQueue x n c) Fld.STK_EVENT_CHECKSUM n = rd (pageChecked s n c g) Fld.STK_EVENT_CHECKSUM n := by
    rw [hx]
    rfl
  rw [rd_endCmd_failed _ _ _ (by rw [hr]; decide) (by rw [hr]; decide), recordCmdErr_checksum, hl]
  unfold pageChecked
  rw [h]
  exact rd_flag_same _ _ _ _ (by decide) (by decide)

/-- The records of a block that no check poisons. -/
theorem pageBlock_clean (h : checkFails s n c g = false) : pageBlock c (pageParts s n c g) =
    ⟨hf c 26 2, hf c 28 2, 1, (namedSlots s n c).filterMap (fun q => q.2.map (fun x => (slotPartial s n c g q.1 x).1)), cmdTag c, cmdUnit c⟩ := by
  unfold pageBlock pageParts
  rw [List.map_filterMap, h]
  simp only [Option.map_map, Bool.or_false]
  rfl

/-- A block whose check failed is poisoned. -/
theorem pageBlock_poison (h : checkFails s n c g = true) : ∀ p ∈ (pageBlock c (pageParts s n c g)).recs, p.poison = true := by
  intro p hp
  obtain ⟨e, he, rfl⟩ := List.mem_map.1 hp
  obtain ⟨q, -, hq⟩ := List.mem_filterMap.1 he
  obtain ⟨x, -, rfl⟩ := Option.map_eq_some_iff.1 hq
  dsimp only
  rw [h, Bool.or_true]

end Attend

theorem exec_attend {s : State} {u : PairRef} {c : StkCmd} (h : headRuns s u c (attendTouches s u.stack.val) = true) (ho : cmdOp c = 0x12) :
    exec (.attend u none false) s = .next (attend (quiet s) u.stack.val c none false) :=
  congrArg Host.Outcome.next (runHead_runs (s := quiet s) h (decide_eq_true ho))

/-! HELD_FLUSH_RETRY (R119) -/

/-- A single refused entry whose RID is not open is refused again. -/
theorem exec_heldFlushRetry_closed {s : State} {u : PairRef} {h : Held} (hh : unitHeld s u.stack.val (pairRefUnit u) = [h])
    (hr : h.refused = true) (hn : redOf (stk s u.stack.val) h.block.rid = none) : exec (.heldFlushRetry u) s =
      .next (setHeld (quiet s) u.stack.val (pairRefUnit u)
        [{ h with refused := true, offered := false, since := some (h.since.getD (bankCycle s)) }]) := by
  have hf : (unitHeld (quiet s) u.stack.val (pairRefUnit u)).filter (fun h => h.refused) = [h] := by
    rw [show unitHeld (quiet s) u.stack.val (pairRefUnit u) = [h] from hh, List.filter_cons_of_pos hr]
    rfl
  have hx : flushWhere (quiet s) u.stack.val (pairRefUnit u) (fun h => h.refused) =
      setHeld (quiet s) u.stack.val (pairRefUnit u)
        [{ h with refused := true, offered := false, since := some (h.since.getD (bankCycle s)) }] := by
    unfold flushWhere
    rw [hf, List.foldl_cons, List.foldl_nil, flushEntry_closed (s := quiet s) hn,
      show unitHeld (quiet s) u.stack.val (pairRefUnit u) = [h] from hh]
    simp only [replaceFirst, decide_true, if_true]
    rfl
  exact congrArg Host.Outcome.next hx

/-! The statement -/

/-- Settles O14: KV_APPEND, QLOAD, ATTEND and HELD_FLUSH_RETRY, one after another. -/
theorem attentionCommands : Obligations.AttentionCommands := by
  unfold Obligations.AttentionCommands
  refine ⟨fun s u c g h ho hs hg hl hp hc => ?_, fun s u c g h ho hg hc => ⟨fun hq h1 h2 hh => ?_, fun ha => ?_⟩,
    fun s u c g h ho hg hst hh hp hc => ?_, fun s u => ⟨fun hn => ?_, fun h hh hr hn => ?_⟩⟩
  · have hok := AppendOk.of_fields (headRuns_fieldStatus h) ho hs hg hl
    obtain ⟨r, hx⟩ := exec_kvAppend_clean h ho hok hp hc
    exact ⟨_, hx, writeToken_facts hok rfl⟩
  · have hx := qload_fits (s := quiet s) hg hq h1 h2 hh
    rw [finishCmd_silent hc] at hx
    exact ⟨_, (exec_qload h ho).trans (congrArg Host.Outcome.next hx), setSlot_facts rfl rfl⟩
  · have hx := qload_attr hg ha (quiet s) u.stack.val
    rw [finishCmd_silent hc] at hx
    exact ⟨_, (exec_qload h ho).trans (congrArg Host.Outcome.next hx), failed_facts (by decide) (by decide) (by decide) rfl⟩
  · obtain ⟨x, r, hx, hr, hfr, hheld⟩ := attend_state (s := quiet s) hg hst hh hp hc
    have hex := (exec_attend h ho).trans (congrArg Host.Outcome.next hx)
    have hframe : endCmd x u.stack.val c r = { s with
        out := []
        regs := (endCmd x u.stack.val c r).regs
        stk := (endCmd x u.stack.val c r).stk
        clu := (endCmd x u.stack.val c r).clu
        kvm := (endCmd x u.stack.val c r).kvm } := by
      rw [endCmd_frame, hfr, pageChecked_frame]
      rfl
    refine ⟨fun hck => ⟨_, hex, hframe, ?_⟩, fun hck hrows hne => ⟨_, hex, hframe, ?_, ?_⟩⟩
    · rw [unitHeld_endCmd, hheld, pageBlock_clean (checkFails_unchecked hck)]
      rfl
    · have hf := checkFails_differs (s := quiet s) hck hrows hne
      exact rd_checksum_failed hf hfr (by rw [hr, hf]; rfl)
    · rw [unitHeld_endCmd, hheld]
      exact List.forall_mem_singleton.2 (pageBlock_poison (checkFails_differs (s := quiet s) hck hrows hne))
  · exact congrArg Host.Outcome.next (flushWhere_none (s := quiet s) hn)
  · exact ⟨_, exec_heldFlushRetry_closed hh hr hn, rfl, unitHeld_setHeld ..⟩

end Sys2Proof.Machine
end

section
/-! SUPPORT. The stack reducer: how it takes a block, fails, and commits (R135 to R138). -/

namespace Sys2Proof.Machine

/-! Reductions of a stack -/

theorem redOf_setRed_same (k : Stack) (rid : Nat) (r : Option Reduction) : redOf (setRed k rid r) rid = r := KMap.get_set_same _ _ _ _

theorem redOf_setRed_other (k : Stack) {rid i : Nat} (r : Option Reduction) (h : i ≠ rid) : redOf (setRed k rid r) i = redOf k i :=
  KMap.get_set_other _ _ _ h

theorem redOf_setHeld (s : State) (n u : Nat) (l : List Held) (i : Nat) : redOf (stk (setHeld s n u l) n) i = redOf (stk s n) i := by
  unfold setHeld
  rw [stk_modStk, if_pos rfl]
  rfl

/-! Records of a block (R136) -/

/-- What takeRecords does with one slot. -/
def takeRecord (recs : List Partial) (dim : Nat) (a : State × List Partial) (k : Nat) : State × List Partial :=
  match recs.find? (fun p => p.slot = k) with
  | none => (a.1, a.2 ++ [emptyPartial k dim])
  | some p =>
    if p.o.length = dim then (a.1, a.2 ++ [p])
    else
      let f := free (32 * dim) a.1
      (f.2, a.2 ++ [{ p with o := (List.range dim).map (fun e => bitsOf f.1.toNat (32 * e) 32) }])

theorem takeRecords_eq (s : State) (r : Reduction) (b : Block) : takeRecords s r b =
    (((maskBits r.qmask).foldl (takeRecord b.recs r.dim) (s, [])).1,
      { b with recs := ((maskBits r.qmask).foldl (takeRecord b.recs r.dim) (s, [])).2 }) := rfl

theorem takeRecord_stk (recs : List Partial) (dim : Nat) (a : State × List Partial) (k : Nat) : (takeRecord recs dim a k).1.stk = a.1.stk := by
  unfold takeRecord
  split
  · rfl
  · split <;> rfl

theorem takeRecords_stk (s : State) (r : Reduction) (b : Block) : (takeRecords s r b).1.stk = s.stk := by
  rw [takeRecords_eq]
  exact List.foldlRecOn (motive := fun a : State × List Partial => a.1.stk = s.stk) _ (takeRecord b.recs r.dim) rfl
    fun a h k _ => (takeRecord_stk ..).trans h

theorem find?_slot {p : Partial} : ∀ {l : List Partial}, (l.map (·.slot)).Nodup → p ∈ l → l.find? (fun q => q.slot = p.slot) = some p
  | [], _, h => absurd h List.not_mem_nil
  | q :: l, hd, h => by
    obtain ⟨hq, hd⟩ := List.nodup_cons.1 hd
    rcases List.mem_cons.1 h with rfl | h
    · exact List.find?_cons_of_pos (decide_eq_true rfl)
    · have hne : q.slot ≠ p.slot := fun he => hq (he ▸ List.mem_map_of_mem (f := (·.slot)) h : q.slot ∈ l.map (·.slot))
      exact (List.find?_cons_of_neg (by rw [decide_eq_false hne]; decide)).trans (find?_slot hd h)

theorem foldl_takeRecord {recs : List Partial} {dim : Nat} (hd : (recs.map (·.slot)).Nodup) (ho : ∀ p ∈ recs, p.o.length = dim) (s : State) :
    ∀ (l : List Partial) (acc : List Partial), (∀ p ∈ l, p ∈ recs) → (l.map (·.slot)).foldl (takeRecord recs dim) (s, acc) = (s, acc ++ l)
  | [], acc, _ => by rw [List.append_nil]; rfl
  | p :: l, acc, hl => by
    have hp := hl p List.mem_cons_self
    have hstep : takeRecord recs dim (s, acc) p.slot = (s, acc ++ [p]) := by
      unfold takeRecord
      rw [find?_slot hd hp]
      exact if_pos (ho p hp)
    rw [List.map_cons, List.foldl_cons, hstep, foldl_takeRecord hd ho s l _ fun q hq => hl q (List.mem_cons_of_mem _ hq), List.append_assoc]
    rfl

theorem maskBits_nodup (m : Nat) : (maskBits m).Nodup := List.nodup_range.filter _

/-- A block with a record of each slot of QMASK, of the reduction's dimension, is taken as it is. -/
theorem takeRecords_whole (s : State) {r : Reduction} {b : Block} (hs : b.recs.map (·.slot) = maskBits r.qmask)
    (ho : ∀ p ∈ b.recs, p.o.length = r.dim) : takeRecords s r b = (s, b) := by
  rw [takeRecords_eq, ← hs, foldl_takeRecord (hs ▸ maskBits_nodup r.qmask) ho s b.recs [] fun _ h => h]
  rfl

/-! Blocks in turn (R136) -/

/-- A block that is next in turn is pushed, and none is left parked. -/
theorem drainBlocks_next {r : Reduction} {b : Block} (h : b.start = r.next) (k : Nat) : drainBlocks (k + 2) { r with parked := [b] } =
    { r with parked := [], next := r.next + b.size, stack := mergeBlockTop 32 (b :: r.stack) } := by
  have ht : takeFirst (fun x : Block => decide (x.start = r.next)) [b] = some (b, []) := by
    unfold takeFirst
    rw [if_pos (decide_eq_true h)]
  unfold drainBlocks
  dsimp only
  rw [ht]
  rfl

/-! A record written at DEST (R138) -/

theorem ceilDiv_mul_ge (a : Nat) : a ≤ ceilDiv a 64 * 64 := by
  unfold ceilDiv
  omega

theorem length_recordBytes (p : Partial) : (recordBytes p).length = recBytes p.o.length := by
  have hge := ceilDiv_mul_ge (16 + 4 * p.o.length)
  have ho : (p.o.flatMap (natLe 4)).length = 4 * p.o.length := by
    rw [List.length_flatMap]
    simp [length_natLe, Nat.mul_comm]
  unfold recordBytes
  simp only [List.length_append, List.length_replicate, length_natLe, ho]
  unfold recBytes
  omega

/-- Line `i` of a record at DEST. -/
def recordLine (p : Partial) (i : Nat) : BitVec 512 × Bool := (lineOf (slice (recordBytes p) (i * 64) 64), p.poison)

theorem recBytes_eq (d : Nat) : 64 * (recBytes d / 64) = recBytes d := by
  unfold recBytes
  omega

/-- The lines of a record, put together. -/
theorem flatMap_recordLine (p : Partial) :
    (List.range (recBytes p.o.length / 64)).flatMap (fun i => lineBytes (recordLine p i).1) = recordBytes p := by
  have hl : (recordBytes p).length = 64 * (recBytes p.o.length / 64) := by rw [length_recordBytes, recBytes_eq]
  refine Eq.trans ?_ (flatMap_slices 64 _ (recordBytes p) hl)
  refine List.flatMap_congr fun i hi => lineBytes_lineOf (length_slice ?_)
  have := List.mem_range.1 hi
  omega

theorem zipIdx_map_range {α : Type} (f : Nat → α) (k : Nat) : ((List.range k).map f).zipIdx = (List.range k).map (fun i => (f i, i)) := by
  refine List.ext_getElem (by simp) fun i h h' => ?_
  simp

/-- A block of one record is written by its lines. -/
theorem writeRecords_one {r : Reduction} {b : Block} {p : Partial} (hb : b.recs = [p]) (s : State) :
    writeRecords s r b = storeLines s r.cmd.issuer r.dest (recordLine p) (recBytes p.o.length / 64) := by
  unfold writeRecords storeLines
  rw [hb]
  simp only [List.flatMap_cons, List.flatMap_nil, List.append_nil, length_recordBytes]
  rw [zipIdx_map_range, List.foldl_map]
  rfl

theorem StacksKept.writeRecords (s : State) (r : Reduction) (b : Block) : StacksKept s (writeRecords s r b) :=
  .foldl (fun _ _ h => h.accessFor rfl) _ (.refl s)

/-! How the reducer answers (R136, R137) -/

/-- A reduction that has pushed the block next in turn. -/
def pushedRed (r : Reduction) (b : Block) : Reduction :=
  { r with parked := [], next := r.next + b.size, stack := mergeBlockTop 32 (b :: r.stack) }

/-- A reduction with its last block pushed commits; another goes on. -/
def settleRed (s : State) (n rid : Nat) (r : Reduction) : State :=
  if r.next = r.count then
    match closeBlocks r.stack with
    | none => s
    | some acc => finishCmd (writeRecords (modStk s n (fun k => setRed k rid none)) r acc) n r.cmd (.plain 0)
  else modStk s n (fun k => setRed k rid (some r))

section Offer

variable {s : State} {n : Nat} {b : Block} {r : Reduction}

theorem offerBlock_failed (hr : redOf (stk s n) b.rid = some r) (hf : r.failed.isSome = true) (f : Bool) :
    offerBlock s n b f = (s, .taken) := by
  unfold offerBlock
  rw [hr]
  exact if_pos hf

theorem offerBlock_beyond (hr : redOf (stk s n) b.rid = some r) (hf : r.failed = none) (hc : r.count < b.start + b.size) (f : Bool) :
    offerBlock s n b f = (failRed s n b.rid r 9, .taken) := by
  unfold offerBlock
  rw [hr]
  dsimp only
  rw [if_neg (by rw [hf]; decide), if_pos hc]

theorem offerBlock_early (hr : redOf (stk s n) b.rid = some r) (hf : r.failed = none) (hc : b.start + b.size ≤ r.count) (hn : b.start < r.next)
    (f : Bool) : offerBlock s n b f = (failRed s n b.rid r 10, .taken) := by
  unfold offerBlock
  rw [hr]
  dsimp only
  rw [if_neg (by rw [hf]; decide), if_neg (by omega), if_pos (by rw [decide_eq_true hn]; rfl)]

theorem offerBlock_next (hr : redOf (stk s n) b.rid = some r) (hf : r.failed = none) (hc : b.start + b.size ≤ r.count) (hn : b.start = r.next)
    (hp : r.parked = []) : offerBlock s n b false =
      (settleRed (takeRecords s r b).1 n b.rid (pushedRed r (takeRecords s r b).2), .taken) := by
  have hd : drainBlocks 257 { r with parked := [(takeRecords s r b).2] } = pushedRed r (takeRecords s r b).2 :=
    drainBlocks_next (b := (takeRecords s r b).2) hn 255
  unfold offerBlock
  rw [hr]
  dsimp only
  rw [if_neg (by rw [hf]; decide), if_neg (by omega), hp, if_neg (by simp [hn]), if_neg (by simp [hn])]
  simp only [Bool.false_eq_true, if_false, List.nil_append, hd]
  unfold settleRed
  by_cases h : (pushedRed r (takeRecords s r b).2).next = (pushedRed r (takeRecords s r b).2).count
  · rw [if_pos h, if_pos h]
    cases closeBlocks (pushedRed r (takeRecords s r b).2).stack <;> rfl
  · rw [if_neg h, if_neg h]
    rfl

end Offer

end Sys2Proof.Machine
end

section
/-! PROOFS. The stack reducer: RSETUP, RCANCEL, REDUCER_BLOCK_ACCEPT and NO_RID_DISCARD (O15). -/

namespace Sys2Proof.Machine

/-! RSETUP (R135) -/

theorem exec_rsetup {s : State} {u : PairRef} {c : StkCmd} (h : headRuns s u c (fun _ => []) = true) (ho : cmdOp c = 0x18) :
    exec (.rsetup u) s = .next (rsetup (quiet s) u.stack.val c) :=
  congrArg Host.Outcome.next (runHead_runs (s := quiet s) h (decide_eq_true ho))

/-- The reduction that an RSETUP opens. -/
def newRed (c : StkCmd) : Reduction :=
  ⟨{ c with started := true }, hf c 32 4, hf c 29 1, (cmdGeom c).elim 0 (·.d), hf c 40 8, 0, [], [], none⟩

/-- The RID open, and the entry of its RSETUP kept. -/
def openRed (s : State) (n : Nat) (c : StkCmd) : State :=
  modStk s n (fun k => setRed { k with queue := replaceFirst (fun x => decide (x = c)) (fun _ => { c with started := true }) k.queue }
    (hf c 26 2) (some (newRed c)))

theorem rsetup_closed {s : State} {n : Nat} {c : StkCmd} (h : redOf (stk s n) (hf c 26 2) = none) : rsetup s n c = openRed s n c := by
  unfold rsetup
  dsimp only
  rw [h]
  rfl

theorem rsetup_busy {s : State} {n : Nat} {c : StkCmd} (h : (redOf (stk s n) (hf c 26 2)).isSome = true) :
    rsetup s n c = finishCmd s n c (.plain 8) := if_pos h

theorem openRed_facts {s : State} {n : Nat} {c : StkCmd} {t : State} (ht : t = openRed (quiet s) n c) : t = { s with out := [], stk := t.stk } ∧
    redOf (stk t n) (hf c 26 2) = some (newRed c) ∧ (∀ k, k ≠ hf c 26 2 → redOf (stk t n) k = redOf (stk s n) k) ∧
    (stk t n).queue = replaceFirst (fun x => decide (x = c)) (fun _ => { c with started := true }) (stk s n).queue := by
  have hk := (congrArg (stk · n) ht).trans ((stk_modStk ..).trans (if_pos rfl))
  rw [hk]
  exact ⟨by rw [ht]; rfl, redOf_setRed_same .., fun k hne => redOf_setRed_other _ _ hne, rfl⟩

/-! RCANCEL (R135) -/

theorem exec_rcancel {s : State} {u : PairRef} {c : StkCmd} (h : headRuns s u c (fun _ => []) = true) (ho : cmdOp c = 0x19) :
    exec (.rcancel u) s = .next (rcancel (quiet s) u.stack.val c) :=
  congrArg Host.Outcome.next (runHead_runs (s := quiet s) h (decide_eq_true ho))

/-- A reduction discarded, with the entry of its RSETUP where that had not completed (log 21). -/
def discardRed (s : State) (n rid : Nat) : State :=
  match redOf (stk s n) rid with
  | none => s
  | some r =>
    let s := modStk s n (fun k => setRed k rid none)
    if r.failed.isSome then s
    else settleIssuer (modStk s n (fun k => { k with queue := dropFirst k.queue r.cmd })) n r.cmd

theorem rcancel_eq (s : State) (n : Nat) (c : StkCmd) : rcancel s n c = finishCmd (discardRed s n (hf c 26 2)) n c (.plain 0) := rfl

theorem discardRed_frame (s : State) (n rid : Nat) : discardRed s n rid =
    { s with stk := (discardRed s n rid).stk, clu := (discardRed s n rid).clu } := by
  unfold discardRed
  split
  · rfl
  · dsimp only
    split
    · rfl
    · rw [settleIssuer_frame]
      rfl

theorem stk_settleIssuer (s : State) (n : Nat) (c : StkCmd) (m : Nat) : stk (settleIssuer s n c) m = stk s m := by
  rw [settleIssuer_frame]
  rfl

/-- The reductions once one is discarded. -/
theorem redOf_discardRed (s : State) (n rid k : Nat) :
    redOf (stk (discardRed s n rid) n) k = if k = rid then none else redOf (stk s n) k := by
  have hset (x : Stack) (hx : x.rids = (setRed (stk s n) rid none).rids) : redOf x k = if k = rid then none else redOf (stk s n) k := by
    rw [show redOf x k = redOf (setRed (stk s n) rid none) k by unfold redOf; rw [hx]]
    split
    · next h => exact h ▸ redOf_setRed_same ..
    · next h => exact redOf_setRed_other (stk s n) none h
  unfold discardRed
  split
  · next h =>
    split
    · next hk => rw [hk, h]
    · rfl
  · dsimp only
    split
    · exact hset _ (by rw [stk_modStk, if_pos rfl])
    · refine hset _ ?_
      rw [stk_settleIssuer, stk_modStk, if_pos rfl, stk_modStk, if_pos rfl]

theorem queue_discardRed {s : State} {n rid : Nat} {r : Reduction} (h : redOf (stk s n) rid = some r) (hf : r.failed = none) :
    (stk (discardRed s n rid) n).queue = dropFirst (stk s n).queue r.cmd := by
  unfold discardRed
  rw [h]
  dsimp only
  rw [hf, if_neg (by decide), stk_settleIssuer, stk_modStk, if_pos rfl, stk_modStk, if_pos rfl]
  rfl

theorem discardRed_facts {s : State} {n : Nat} {c : StkCmd} {t : State} (ht : t = endCmd (discardRed (quiet s) n (hf c 26 2)) n c (.plain 0)) :
    t = { s with out := [], stk := t.stk, clu := t.clu, kvm := t.kvm } ∧ redOf (stk t n) (hf c 26 2) = none ∧
    (∀ k, k ≠ hf c 26 2 → redOf (stk t n) k = redOf (stk s n) k) ∧
    ∀ r, redOf (stk s n) (hf c 26 2) = some r → r.failed = none → (stk t n).queue = dropFirst (dropFirst (stk s n).queue r.cmd) c := by
  have hk := (congrArg (stk · n) ht).trans ((stk_endCmd ..).trans (if_pos rfl))
  dsimp only at hk
  have hred (k : Nat) : redOf (stk t n) k = redOf (stk (discardRed (quiet s) n (hf c 26 2)) n) k := by
    rw [hk]
    rfl
  refine ⟨?_, ?_, fun k hne => ?_, fun r hr hf => ?_⟩
  · rw [ht, endCmd_clean_frame _ _ _ rfl, discardRed_frame]
    rfl
  · rw [hred, redOf_discardRed, if_pos rfl]
  · rw [hred, redOf_discardRed, if_neg hne]
    rfl
  · rw [hk]
    exact congrArg (dropFirst · c) (queue_discardRed (s := quiet s) hr hf)

/-! An offered block (R136, R137) -/

section Offered

variable {s : State} {n : Nat}

/-- An entry that the reducer takes leaves its unit. -/
theorem flushEntry_taken {u : Nat} {h : Held} {f : Bool} {x : State} (ho : offerBlock s n h.block f = (x, .taken))
    (hu : (stk x n).units = (stk s n).units) : flushEntry s n u h f = setHeld x n u (dropFirst (unitHeld s n u) h) := by
  have hh : unitHeld x n u = unitHeld s n u := by
    unfold unitHeld bankUnit
    rw [hu]
  unfold flushEntry
  rw [ho, ← hh]

theorem stk_failRed (rid : Nat) (r : Reduction) (status : Nat) : stk (failRed s n rid r status) n =
    { setRed (stk s n) rid (some { r with failed := some status, stack := [], parked := [] }) with
      queue := dropFirst (stk s n).queue r.cmd } := by
  unfold failRed
  dsimp only
  rw [stk_finishCmd_same, stk_modStk, if_pos rfl]
  rfl

theorem units_failRed (rid : Nat) (r : Reduction) (status : Nat) : (stk (failRed s n rid r status) n).units = (stk s n).units := by
  rw [stk_failRed]
  rfl

/-- The reduction fails with a status. -/
theorem failed_failRed (rid : Nat) (r : Reduction) (status : Nat) :
    (redOf (stk (failRed s n rid r status) n) rid).bind (·.failed) = some status := by
  rw [stk_failRed]
  exact congrArg (Option.bind · _) (redOf_setRed_same ..)

theorem event_failRed (rid : Nat) (r : Reduction) {status : Nat} (h : status ≠ 0) (h6 : status ≠ 6) :
    rd (failRed s n rid r status) Fld.STK_EVENT_CMD_ERR n = 1 := finishCmd_event _ _ _ h h6

/-- The stack as a reduction commits: its RID closed, and the RSETUP gone. -/
theorem stk_commit (rid : Nat) (r : Reduction) (acc : Block) :
    stk (finishCmd (writeRecords (modStk s n (fun k => setRed k rid none)) r acc) n r.cmd (.plain 0)) n =
      { setRed (stk s n) rid none with queue := dropFirst (stk s n).queue r.cmd } := by
  rw [stk_finishCmd_same, (StacksKept.writeRecords _ r acc).stk_eq, stk_modStk, if_pos rfl]
  rfl

theorem units_settleRed (rid : Nat) (r : Reduction) : (stk (settleRed s n rid r) n).units = (stk s n).units := by
  unfold settleRed
  split
  · split
    · rfl
    · rw [stk_commit]
      rfl
  · rw [stk_modStk, if_pos rfl]
    rfl

theorem settleRed_more {r : Reduction} (h : r.next ≠ r.count) (rid : Nat) : settleRed s n rid r = modStk s n (fun k => setRed k rid (some r)) :=
  if_neg h

theorem settleRed_last {r : Reduction} {acc : Block} (h : r.next = r.count) (hc : closeBlocks r.stack = some acc) (rid : Nat) :
    settleRed s n rid r = finishCmd (writeRecords (modStk s n (fun k => setRed k rid none)) r acc) n r.cmd (.plain 0) := by
  unfold settleRed
  rw [if_pos h, hc]

/-- One record of a commit at a scratchpad's lines. -/
theorem commit_pad {rid l x : Nat} {r : Reduction} {acc : Block} {p : Partial} (hb : acc.recs = [p]) (hc : cmdCpl r.cmd = false)
    (hpad : padOpen s r.cmd.issuer r.dest l x (recBytes p.o.length / 64)) :
    spadBytes (finishCmd (writeRecords (modStk s n (fun k => setRed k rid none)) r acc) n r.cmd (.plain 0)).mem l x (recBytes p.o.length) =
      recordBytes p := by
  have hpad' : padOpen (modStk s n (fun k => setRed k rid none)) r.cmd.issuer r.dest l x (recBytes p.o.length / 64) := hpad
  obtain ⟨m, hm, -, hbytes⟩ := storeLines_pad (recordLine p) hpad'
  rw [finishCmd_silent hc, writeRecords_one hb, hm, endCmd_mem, ← flatMap_recordLine p, ← hbytes, recBytes_eq]

/-! What an offered entry leaves, by the reduction it meets -/

variable {u : Nat} {h : Held} {r : Reduction}

theorem flushEntry_failed (hr : redOf (stk s n) h.block.rid = some r) (hf : r.failed.isSome = true) :
    flushEntry s n u h false = setHeld s n u (dropFirst (unitHeld s n u) h) := flushEntry_taken (offerBlock_failed hr hf false) rfl

theorem flushEntry_beyond (hr : redOf (stk s n) h.block.rid = some r) (hf : r.failed = none) (hc : r.count < h.block.start + h.block.size) :
    flushEntry s n u h false = setHeld (failRed s n h.block.rid r 9) n u (dropFirst (unitHeld s n u) h) :=
  flushEntry_taken (offerBlock_beyond hr hf hc false) (units_failRed ..)

theorem flushEntry_early (hr : redOf (stk s n) h.block.rid = some r) (hf : r.failed = none) (hc : h.block.start + h.block.size ≤ r.count)
    (hn : h.block.start < r.next) :
    flushEntry s n u h false = setHeld (failRed s n h.block.rid r 10) n u (dropFirst (unitHeld s n u) h) :=
  flushEntry_taken (offerBlock_early hr hf hc hn false) (units_failRed ..)

theorem flushEntry_next (hr : redOf (stk s n) h.block.rid = some r) (hf : r.failed = none) (hc : h.block.start + h.block.size ≤ r.count)
    (hn : h.block.start = r.next) (hp : r.parked = []) : flushEntry s n u h false =
      setHeld (settleRed (takeRecords s r h.block).1 n h.block.rid (pushedRed r (takeRecords s r h.block).2)) n u
        (dropFirst (unitHeld s n u) h) := by
  refine flushEntry_taken (offerBlock_next hr hf hc hn hp) ((units_settleRed ..).trans ?_)
  unfold stk
  rw [takeRecords_stk]

/-- An entry that the reducer merges or that fails its reduction leaves the unit. -/
theorem unitHeld_flushEntry (hr : redOf (stk s n) h.block.rid = some r) (hf : r.failed = none)
    (hc : r.count < h.block.start + h.block.size ∨ (h.block.start = r.next ∧ r.parked = []) ∨ h.block.start < r.next) :
    unitHeld (flushEntry s n u h false) n u = dropFirst (unitHeld s n u) h := by
  by_cases hb : r.count < h.block.start + h.block.size
  · rw [flushEntry_beyond hr hf hb, unitHeld_setHeld]
  · have hle := Nat.le_of_not_lt hb
    rcases hc.resolve_left hb with ⟨hn, hp⟩ | hn
    · rw [flushEntry_next hr hf hle hn hp, unitHeld_setHeld]
    · rw [flushEntry_early hr hf hle hn, unitHeld_setHeld]

/-- A failed reduction takes the block and stays. -/
theorem flushEntry_failed_facts {t : State} (hr : redOf (stk s n) h.block.rid = some r) (hf : r.failed.isSome = true)
    (ht : t = flushEntry (quiet s) n u h false) : t = { s with out := [], stk := t.stk } ∧ redOf (stk t n) h.block.rid = some r := by
  rw [flushEntry_failed (s := quiet s) hr hf] at ht
  subst ht
  exact ⟨rfl, (redOf_setHeld ..).trans hr⟩

/-- A block beyond the count, or before the next index, fails its reduction. -/
theorem failRed_facts {x t : State} {status : Nat} {l : List Held} (h0 : status ≠ 0) (h6 : status ≠ 6)
    (ht : t = setHeld (failRed x n h.block.rid r status) n u l) :
    (redOf (stk t n) h.block.rid).bind (·.failed) = some status ∧ rd t Fld.STK_EVENT_CMD_ERR n = 1 := by
  subst ht
  rw [redOf_setHeld]
  exact ⟨failed_failRed .., event_failRed _ _ h0 h6⟩

/-- A block in turn that is not the last is merged. -/
theorem flushEntry_merged {t : State} (hr : redOf (stk s n) h.block.rid = some r) (hf : r.failed = none) (hn : h.block.start = r.next)
    (hp : r.parked = []) (hs : h.block.recs.map (·.slot) = maskBits r.qmask) (ho : ∀ p ∈ h.block.recs, p.o.length = r.dim)
    (hc : h.block.start + h.block.size < r.count) (ht : t = flushEntry (quiet s) n u h false) : t = { s with out := [], stk := t.stk } ∧
    redOf (stk t n) h.block.rid =
      some { r with next := h.block.start + h.block.size, stack := mergeBlockTop 32 (h.block :: r.stack) } := by
  rw [flushEntry_next (s := quiet s) hr hf (Nat.le_of_lt hc) hn hp, takeRecords_whole _ hs ho,
    settleRed_more (r := pushedRed r h.block) (show r.next + h.block.size ≠ r.count by omega)] at ht
  subst ht
  refine ⟨rfl, ?_⟩
  rw [redOf_setHeld, stk_modStk, if_pos rfl, redOf_setRed_same]
  unfold pushedRed
  rw [hn, ← hp]

/-- The last block, alone, closes its RID and writes its records. -/
theorem flushEntry_last {t : State} (hr : redOf (stk s n) h.block.rid = some r) (hf : r.failed = none) (hn : h.block.start = r.next)
    (hp : r.parked = []) (hs : h.block.recs.map (·.slot) = maskBits r.qmask) (ho : ∀ p ∈ h.block.recs, p.o.length = r.dim)
    (hc : h.block.start + h.block.size = r.count) (hst : r.stack = []) (ht : t = flushEntry (quiet s) n u h false) :
    redOf (stk t n) h.block.rid = none ∧ ∀ p l x, h.block.recs = [p] → cmdCpl r.cmd = false →
      padOpen s r.cmd.issuer r.dest l x (recBytes r.dim / 64) → spadBytes t.mem l x (recBytes r.dim) = recordBytes p := by
  have hclose : closeBlocks (pushedRed r h.block).stack = some h.block := by
    unfold pushedRed
    rw [hst]
    rfl
  rw [flushEntry_next (s := quiet s) hr hf (Nat.le_of_eq hc) hn hp, takeRecords_whole _ hs ho,
    settleRed_last (r := pushedRed r h.block) (show r.next + h.block.size = r.count by omega) hclose] at ht
  subst ht
  refine ⟨?_, fun p l x hrec hcpl hpad => ?_⟩
  · rw [redOf_setHeld]
    exact (congrArg (redOf · _) (stk_commit ..)).trans (redOf_setRed_same ..)
  · have hdim : p.o.length = r.dim := ho p (hrec ▸ List.mem_cons_self)
    rw [← hdim] at hpad ⊢
    exact commit_pad (s := quiet s) (r := pushedRed r h.block) hrec hcpl hpad

end Offered

/-! REDUCER_BLOCK_ACCEPT -/

theorem exec_reducerBlockAccept_none {s : State} {u : PairRef}
    (h : (unitHeld s u.stack.val (pairRefUnit u)).find? (fun h => h.offered) = none) (f : Bool) :
    exec (.reducerBlockAccept u f) s = .next (quiet s) := by
  have hq : (unitHeld (quiet s) u.stack.val (pairRefUnit u)).find? (fun h => h.offered) = none := h
  change execReducerBlockAccept u f s = _
  unfold execReducerBlockAccept
  dsimp only
  rw [hq]

theorem exec_reducerBlockAccept {s : State} {u : PairRef} {h : Held}
    (hh : (unitHeld s u.stack.val (pairRefUnit u)).find? (fun h => h.offered) = some h) (f : Bool) :
    exec (.reducerBlockAccept u f) s = .next (flushEntry (quiet s) u.stack.val (pairRefUnit u) h f) := by
  have hq : (unitHeld (quiet s) u.stack.val (pairRefUnit u)).find? (fun h => h.offered) = some h := hh
  change execReducerBlockAccept u f s = _
  unfold execReducerBlockAccept
  dsimp only
  rw [hq]

/-! NO_RID_DISCARD (R137) -/

/-- An entry refused for 65,536 bank cycles because its RID is not open. -/
def discardDue (s : State) (n : Nat) (h : Held) : Bool :=
  (redOf (stk s n) h.block.rid).isNone && (h.since.elim false (fun t => decide (t + 65536 ≤ bankCycle s)))

theorem noRid_none {s : State} {n u : Nat} (h : (unitHeld s n u).find? (discardDue s n) = none) : noRid s n u = s := by
  change (match (unitHeld s n u).find? (discardDue s n) with | none => s | some h => _) = s
  rw [h]

theorem noRid_due {s : State} {n u : Nat} {h : Held} (hh : (unitHeld s n u).find? (discardDue s n) = some h) : noRid s n u =
    recordCmdErr (setHeld s n u (dropFirst (unitHeld s n u) h)) n 11 (h.block.site / 16) (h.block.site / 8 % 2) (h.block.site % 8)
      0x12 h.block.tag := by
  change (match (unitHeld s n u).find? (discardDue s n) with | none => s | some h => _) = _
  rw [hh]

theorem noRid_facts {s : State} {n u : Nat} {h : Held} {t : State}
    (ht : t = recordCmdErr (setHeld (quiet s) n u (dropFirst (unitHeld s n u) h)) n 11 (h.block.site / 16) (h.block.site / 8 % 2)
      (h.block.site % 8) 0x12 h.block.tag) : t = { s with out := [], regs := t.regs, stk := t.stk } ∧
    unitHeld t n u = dropFirst (unitHeld s n u) h ∧ rd t Fld.STK_EVENT_CMD_ERR n = 1 ∧
    (rd s Fld.STK_CMD_ERR_VALID n = 0 → rd t Fld.STK_CMD_ERR_STATUS n = 11) := by
  subst ht
  refine ⟨?_, ?_, recordCmdErr_event .., fun hv => ?_⟩
  · rw [recordCmdErr_frame]
    rfl
  · rw [recordCmdErr_frame]
    exact unitHeld_setHeld (quiet s) n u _
  · exact (recordCmdErr_shown (setHeld (quiet s) n u (dropFirst (unitHeld s n u) h)) n 11 _ _ _ _ _ hv (by decide)).1

/-! The statement -/

/-- Settles O15: RSETUP and RCANCEL, an offered block by the reduction it meets, and NO_RID_DISCARD. -/
theorem stackReducer : Obligations.StackReducer := by
  unfold Obligations.StackReducer
  refine ⟨fun s u c h => ⟨fun ho hr => ?_, fun ho hr hc => ?_, fun ho hc => ?_⟩, fun s u f hn => exec_reducerBlockAccept_none hn f,
    fun s u h hh => ⟨fun hr => ?_, fun r hr => ⟨_, exec_reducerBlockAccept hh false, fun hf => ?_, fun hf hc => ?_, fun hf hc hn => ?_,
      fun hf hn hp hs ho => ⟨fun hc => ?_, fun hc hst => ?_⟩, fun hf hc => ?_⟩⟩,
    fun s u => ⟨fun hn => ?_, fun h hh => ?_⟩⟩
  · exact ⟨_, (exec_rsetup h ho).trans (congrArg Host.Outcome.next (rsetup_closed (s := quiet s) hr)), openRed_facts rfl⟩
  · have hx := rsetup_busy (s := quiet s) hr
    rw [finishCmd_silent hc] at hx
    obtain ⟨hframe, -, hstatus⟩ := failed_facts (s := s) (n := u.stack.val) (c := c) (r := .plain 8) (by decide) (by decide) (by decide) rfl
    have hk := (stk_endCmd (quiet s) u.stack.val c (.plain 8) u.stack.val).trans (if_pos rfl)
    exact ⟨_, (exec_rsetup h ho).trans (congrArg Host.Outcome.next hx), hframe,
      (congrArg Stack.rids hk).trans rfl, (congrArg Stack.queue hk).trans rfl, hstatus⟩
  · have hx := rcancel_eq (quiet s) u.stack.val c
    rw [finishCmd_silent hc] at hx
    exact ⟨_, (exec_rcancel h ho).trans (congrArg Host.Outcome.next hx), discardRed_facts rfl⟩
  · exact ⟨_, (exec_reducerBlockAccept hh false).trans (congrArg Host.Outcome.next (flushEntry_closed (s := quiet s) hr _ false)), rfl,
      unitHeld_setHeld ..⟩
  · exact flushEntry_failed_facts hr hf rfl
  · exact failRed_facts (by decide) (by decide) (flushEntry_beyond (s := quiet s) hr hf hc)
  · exact failRed_facts (by decide) (by decide) (flushEntry_early (s := quiet s) hr hf hc hn)
  · exact flushEntry_merged hr hf hn hp hs ho hc rfl
  · exact flushEntry_last hr hf hn hp hs ho hc hst rfl
  · exact unitHeld_flushEntry (s := quiet s) hr hf hc
  · exact congrArg Host.Outcome.next (noRid_none (s := quiet s) hn)
  · exact ⟨_, congrArg Host.Outcome.next (noRid_due (s := quiet s) hh), noRid_facts rfl⟩

end Sys2Proof.Machine
end

section
/-! SUPPORT. The array (06): the registers of a cluster's block, the counters of its array, and sparse data put together by key. -/

namespace Sys2Proof.Machine

/-! Registers of a cluster's block (R174, R175) -/

/-- Two fields of the cluster blocks that share no bit of any one block. -/
abbrev Field.clApart (f g : Field) : Prop :=
  (f.s1 = g.s1 ∧ (f.s2 = 0 ∧ g.s2 = 0) ∧ f.base ≠ g.base) ∨ f.lo + f.width ≤ g.lo ∨ g.lo + g.width ≤ f.lo

theorem Field.clApart.apart {f g : Field} (h : f.clApart g) (c : Nat) : f.apart g c 0 c 0 :=
  h.imp_left fun ⟨hs, h2, hb⟩ => stkReg_ne c hs h2 hb

/-- The blocks of the clusters lie above a register of the hub. -/
theorem hubReg_apart {f g : Field} (c : Nat) (h : g.base < f.base) : f.apart g c 0 0 0 := by
  refine .inl (Nat.ne_of_gt ?_)
  unfold Field.addr
  omega

theorem rd_wr_cl (s : State) (f g : Field) (v c : Nat) (h : g.inWord) (hd : f.clApart g) : rd (wr s g v c) f c = rd s f c :=
  rd_wr_other s f g v c 0 c 0 h (hd.apart c)

theorem rd_flag_cl (s : State) (f g : Field) (c : Nat) (h : g.inWord) (hd : f.clApart g) : rd (flag s g c) f c = rd s f c :=
  rd_wr_cl s f g 1 c h hd

theorem rd_inc_cl (s : State) (f g : Field) (c : Nat) (h : g.inWord) (hd : f.clApart g) : rd (inc s g c) f c = rd s f c :=
  rd_inc_other s f g c 0 c 0 h (hd.apart c)

theorem rd_wr_hub (s : State) (f g : Field) (v c : Nat) (h : g.inWord) (hb : g.base < f.base) : rd (wr s g v) f c = rd s f c :=
  rd_wr_other s f g v c 0 0 0 h (hubReg_apart c hb)

theorem rd_flag_hub (s : State) (f g : Field) (c : Nat) (h : g.inWord) (hb : g.base < f.base) : rd (flag s g) f c = rd s f c :=
  rd_wr_hub s f g 1 c h hb

theorem rd_wr64_hub (s : State) (f lo hi : Field) (v c : Nat) (hl : lo.inWord) (hh : hi.inWord) (hbl : lo.base < f.base)
    (hbh : hi.base < f.base) : rd (wr64 s lo hi v) f c = rd s f c :=
  rd_wr64_other s f lo hi v c 0 0 0 hl hh (hubReg_apart c hbl) (hubReg_apart c hbh)

/-- The record of an uncorrected fault leaves the registers of the clusters. -/
theorem rd_recordUe_cl (s : State) (kind src addr : Nat) {f : Field} (c : Nat) (hf : Fld.CLU_ARR_MODE_FREEZE.base ≤ f.base) :
    rd (recordUe s kind src addr) f c = rd s f c := by
  have hb (n : Nat) (hn : n < Fld.CLU_ARR_MODE_FREEZE.base) : n < f.base := Nat.lt_of_lt_of_le hn hf
  have h1 : rd (wr64 (flag s Fld.RAS_EVENT_UE) Fld.RAS_UE_LO_COUNT Fld.RAS_UE_HI_COUNT
      (rd64 (flag s Fld.RAS_EVENT_UE) Fld.RAS_UE_LO_COUNT Fld.RAS_UE_HI_COUNT + 1)) f c = rd s f c :=
    (rd_wr64_hub _ _ _ _ _ _ (by decide) (by decide) (hb _ (by decide)) (hb _ (by decide))).trans
      (rd_flag_hub _ _ _ _ (by decide) (hb _ (by decide)))
  unfold recordUe
  dsimp only
  split
  · exact (rd_flag_hub _ _ Fld.RAS_ERR_OVERRUN _ (by decide) (hb _ (by decide))).trans h1
  · refine (rd_wr64_hub _ _ _ _ _ _ (by decide) (by decide) (hb _ (by decide)) (hb _ (by decide))).trans ?_
    refine (rd_flag_hub _ _ Fld.RAS_ERR_VALID _ (by decide) (hb _ (by decide))).trans ?_
    rw [rd_wr_hub _ _ Fld.RAS_ERR_SOURCE _ _ (by decide) (hb _ (by decide)), rd_wr_hub _ _ Fld.RAS_ERR_KIND _ _ (by decide) (hb _ (by decide))]
    exact h1

/-! The array's error record (R174) -/

theorem recordArr_frame (s : State) (c kind bank sub : Nat) (thin : Bool) (tag : Nat) :
    recordArr s c kind bank sub thin tag = { s with regs := (recordArr s c kind bank sub thin tag).regs } := by
  unfold recordArr
  split <;> rfl

/-- The record touches its two registers alone. -/
theorem rd_recordArr_other (s : State) (c kind bank sub : Nat) (thin : Bool) (tag : Nat) {f : Field} (hs : f.s1 = 65536) (h2 : f.s2 = 0)
    (hb : f.base ≠ Reg.CLU_ARR_ERR ∧ f.base ≠ Reg.CLU_ARR_ERR_TAG) : rd (recordArr s c kind bank sub thin tag) f c = rd s f c := by
  have hw (t : State) (g : Field) (v : Nat) (hg : g.inWord) (hgs : g.s1 = 65536 ∧ g.s2 = 0)
      (hgb : g.base = Reg.CLU_ARR_ERR ∨ g.base = Reg.CLU_ARR_ERR_TAG) : rd (wr t g v c) f c = rd t f c := by
    refine rd_wr_cl t f g v c hg (.inl ⟨hs.trans hgs.1.symm, ⟨h2, hgs.2⟩, ?_⟩)
    obtain h | h := hgb <;> rw [h]
    exacts [hb.1, hb.2]
  unfold recordArr
  split
  · exact hw _ Fld.CLU_ARR_ERR_OVERRUN 1 (by decide) (by decide) (by decide)
  · rw [hw _ Fld.CLU_ARR_ERR_TAG_TAG _ (by decide) (by decide) (by decide), hw _ Fld.CLU_ARR_ERR_THIN _ (by decide) (by decide) (by decide)]
    refine (hw _ Fld.CLU_ARR_ERR_VALID 1 (by decide) (by decide) (by decide)).trans ?_
    rw [hw _ Fld.CLU_ARR_ERR_SUB _ (by decide) (by decide) (by decide), hw _ Fld.CLU_ARR_ERR_BANK _ (by decide) (by decide) (by decide),
      hw _ Fld.CLU_ARR_ERR_KIND _ (by decide) (by decide) (by decide)]

/-! The array's counters (R164, R175) -/

@[simp] theorem cl_bump64 (s : State) (lo hi : Field) (c n d : Nat) : cl (bump64 s lo hi c n) d = cl s d := rfl

/-- A counter of a cluster's block counts up. -/
theorem rd64_bump64_same (s : State) (lo hi : Field) (c n : Nat) (hl : lo.inWord) (hh : hi.inWord) (hw : lo.width = 32 ∧ hi.width = 32)
    (hd : lo.clApart hi) : rd64 (bump64 s lo hi c n) lo hi c = (rd64 s lo hi c + n) % 2 ^ 64 :=
  rd64_wr64_same s lo hi _ c 0 hl hh hw.1 (by rw [hw.2]; exact Nat.mod_lt _ (Nat.two_pow_pos 64)) (hd.apart c)

theorem rd_bump64_cl (s : State) (f lo hi : Field) (c n : Nat) (hl : lo.inWord) (hh : hi.inWord) (h1 : f.clApart lo) (h2 : f.clApart hi) :
    rd (bump64 s lo hi c n) f c = rd s f c :=
  rd_wr64_other s f lo hi _ c 0 c 0 hl hh (h1.apart c) (h2.apart c)

/-- Time of a gap counts as dummy activity alone. -/
theorem rd_gapTime (s : State) (f : Field) (c n : Nat) (hl : f.clApart Fld.CLU_ARR_DUMMY_LO_COUNT) (hh : f.clApart Fld.CLU_ARR_DUMMY_HI_COUNT) :
    rd (gapTime s c n) f c = rd s f c :=
  rd_bump64_cl _ f _ _ c _ (by decide) (by decide) hl hh

theorem rd64_gapTime (s : State) (lo hi : Field) (c n : Nat)
    (hl : lo.clApart Fld.CLU_ARR_DUMMY_LO_COUNT ∧ lo.clApart Fld.CLU_ARR_DUMMY_HI_COUNT)
    (hh : hi.clApart Fld.CLU_ARR_DUMMY_LO_COUNT ∧ hi.clApart Fld.CLU_ARR_DUMMY_HI_COUNT) : rd64 (gapTime s c n) lo hi c = rd64 s lo hi c :=
  congrArg₂ (fun a b => a + 2 ^ 32 * b) (rd_gapTime s lo c n hl.1 hl.2) (rd_gapTime s hi c n hh.1 hh.2)

/-- Time of a gap leaves the tiles and the feeders of its cluster. -/
theorem cl_gapTime (s : State) (c n : Nat) :
    cl (gapTime s c n) c = { cl s c with gap := (cl (gapTime s c n) c).gap, dummy4 := (cl (gapTime s c n) c).dummy4 } := by
  unfold gapTime addDummy
  simp only [cl_bump64, cl_modCl_same]

/-! Sparse data put together by key -/

/-- A key under which one value alone is listed reads as that value. -/
theorem KMap.get_of_unique {α : Type} (d : Nat → α) {k : Nat} {v : α} : ∀ {m : KMap α}, (∀ e ∈ m, e.1 = k → e.2 = v) →
    ((k, v) ∈ m ∨ v = d k) → KMap.get d m k = v
  | [], _, h => by
    obtain h | h := h
    · cases h
    · exact h.symm
  | (j, w) :: m, hu, h => by
    rw [List.forall_mem_cons] at hu
    by_cases hk : k = j
    · rw [KMap.get, if_pos hk]
      exact hu.1 hk.symm
    · rw [KMap.get, if_neg hk]
      refine KMap.get_of_unique d hu.2 (h.imp_left fun h => ?_)
      obtain h | h := List.mem_cons.1 h
      · cases h; exact absurd rfl hk
      · exact h

theorem KMap.get_append_right {α : Type} (d : Nat → α) {k : Nat} {n : KMap α} : ∀ {m : KMap α}, (∀ e ∈ m, e.1 ≠ k) →
    KMap.get d (m ++ n) k = KMap.get d n k
  | [], _ => rfl
  | (j, w) :: m, h => by
    rw [List.forall_mem_cons] at h
    rw [List.cons_append, KMap.get, if_neg (Ne.symm h.1), KMap.get_append_right d h.2]

theorem KMap.get_append_left {α : Type} (d : Nat → α) {k : Nat} {n : KMap α} (h : ∀ e ∈ n, e.1 ≠ k) : ∀ m : KMap α,
    KMap.get d (m ++ n) k = KMap.get d m k
  | [] => KMap.get_of_unique d (fun e he hk => absurd hk (h e he)) (.inr rfl)
  | (j, w) :: m => by rw [List.cons_append, KMap.get, KMap.get, KMap.get_append_left d h m]

/-- A key that a choice by key leaves in reads as before. -/
theorem KMap.get_filter_in {α : Type} (d : Nat → α) (p : Nat → Bool) {k : Nat} (h : p k = true) : ∀ m : KMap α,
    KMap.get d (m.filter (fun e => p e.1)) k = KMap.get d m k
  | [] => rfl
  | (j, v) :: m => by
    by_cases hj : p j = true
    · rw [List.filter_cons_of_pos (by simpa using hj), KMap.get, KMap.get, KMap.get_filter_in d p h m]
    · have hk : k ≠ j := fun he => hj (he ▸ h)
      rw [List.filter_cons_of_neg (by simpa using hj), KMap.get, if_neg hk, KMap.get_filter_in d p h m]

end Sys2Proof.Machine
end

section
/-! SUPPORT. Cells of a tile: what a reduction step adds to each, and what a preload puts in each (R151, R157, R217). -/

namespace Sys2Proof.Machine

/-! Cells by key -/

theorem getD_le {n : Nat} : ∀ {l : List Nat} {d i : Nat}, (∀ x ∈ l, x ≤ n) → d ≤ n → l.getD i d ≤ n
  | [], _, _, _, hd => hd
  | x :: _, _, 0, hl, _ => hl x List.mem_cons_self
  | _ :: _, _, i + 1, hl, hd => getD_le (i := i) (fun x hx => hl x (List.mem_cons_of_mem _ hx)) hd

theorem Tile.rows_le (t : Tile) : t.rows ≤ 256 := by
  unfold Tile.rows
  split
  · decide
  split
  · decide
  · exact getD_le (by decide) (by decide)

theorem Tile.cols_le (t : Tile) : t.cols ≤ 256 := by
  unfold Tile.cols
  split
  · decide
  split
  · decide
  · exact getD_le (by decide) (by decide)

/-- The key of a cell tells its sub-problem, its row and its column. -/
theorem cellKey_inj {i i' y y' x x' : Nat} (hy : y < 256) (hy' : y' < 256) (hx : x < 256) (hx' : x' < 256)
    (h : cellKey i y x = cellKey i' y' x') : i = i' ∧ y = y' ∧ x = x' := by
  unfold cellKey at h
  omega

theorem cellKey_sub {i y x : Nat} (hy : y < 256) (hx : x < 256) : cellKey i y x / 65536 = i := by
  unfold cellKey
  omega

/-! A reduction step of one sub-problem (R151, R217) -/

/-- The cells that a reduction step of sub-problem i forms, zeros among them. -/
def steppedCells (r : TileRun) (i : Nat) (va vb : List EdgeElem) : KMap Cell :=
  (List.range r.tile.rows).flatMap (fun y => (List.range r.tile.cols).map (fun x => (cellKey i y x,
    addTo (attrAnchor (subAt r.tile i).rword) (KMap.get (blankCell r.tile) r.cells (cellKey i y x)) (va.getD y .zero).v (vb.getD x .zero).v)))

theorem subStep_cells (r : TileRun) (i : Nat) (va vb : List EdgeElem) : (subStep r i va vb).cells =
    r.cells.filter (fun e => e.1 < cellKey i 0 0) ++ (steppedCells r i va vb).filter (fun e => e.2 ≠ blankCell r.tile e.1) ++
      r.cells.filter (fun e => cellKey (i + 1) 0 0 ≤ e.1) := rfl

theorem mem_steppedCells {r : TileRun} {i : Nat} {va vb : List EdgeElem} {e : Nat × Cell} : e ∈ steppedCells r i va vb ↔
    ∃ y < r.tile.rows, ∃ x < r.tile.cols, e = (cellKey i y x, addTo (attrAnchor (subAt r.tile i).rword)
      (KMap.get (blankCell r.tile) r.cells (cellKey i y x)) (va.getD y .zero).v (vb.getD x .zero).v) := by
  simp only [steppedCells, List.mem_flatMap, List.mem_map, List.mem_range, eq_comm]

/-- Every cell of the sub-problem adds the product of its row's and its column's element. -/
theorem subStep_cells_taken (r : TileRun) (i : Nat) (va vb : List EdgeElem) {y x : Nat} (hy : y < r.tile.rows) (hx : x < r.tile.cols) :
    KMap.get (blankCell r.tile) (subStep r i va vb).cells (cellKey i y x) = addTo (attrAnchor (subAt r.tile i).rword)
      (KMap.get (blankCell r.tile) r.cells (cellKey i y x)) (va.getD y .zero).v (vb.getD x .zero).v := by
  have hy' := Nat.lt_of_lt_of_le hy r.tile.rows_le
  have hx' := Nat.lt_of_lt_of_le hx r.tile.cols_le
  rw [subStep_cells]
  refine KMap.get_of_unique _ (fun e he hk => ?_) ?_
  · obtain he | he := List.mem_append.1 he
    · obtain he | he := List.mem_append.1 he
      · have := of_decide_eq_true (List.mem_filter.1 he).2
        unfold cellKey at hk this
        omega
      · obtain ⟨b, hb, a, ha, rfl⟩ := mem_steppedCells.1 (List.mem_filter.1 he).1
        obtain ⟨-, rfl, rfl⟩ := cellKey_inj (Nat.lt_of_lt_of_le hb r.tile.rows_le) hy' (Nat.lt_of_lt_of_le ha r.tile.cols_le) hx' hk
        rfl
    · have := of_decide_eq_true (List.mem_filter.1 he).2
      unfold cellKey at hk this
      omega
  · refine (Decidable.em _).symm.imp_left fun hne => ?_
    exact List.mem_append_left _ (List.mem_append_right _
      (List.mem_filter.2 ⟨mem_steppedCells.2 ⟨y, hy, x, hx, rfl⟩, decide_eq_true hne⟩))

/-- Cells of the other sub-problems stay. -/
theorem subStep_cells_other (r : TileRun) {i k : Nat} (va vb : List EdgeElem) (h : k / 65536 ≠ i) :
    KMap.get (blankCell r.tile) (subStep r i va vb).cells k = KMap.get (blankCell r.tile) r.cells k := by
  have hm : ∀ e ∈ (steppedCells r i va vb).filter (fun e => e.2 ≠ blankCell r.tile e.1), e.1 ≠ k := by
    rintro e he rfl
    obtain ⟨y, hy, x, hx, rfl⟩ := mem_steppedCells.1 (List.mem_filter.1 he).1
    exact h (cellKey_sub (Nat.lt_of_lt_of_le hy r.tile.rows_le) (Nat.lt_of_lt_of_le hx r.tile.cols_le))
  rw [subStep_cells]
  by_cases hk : k < cellKey i 0 0
  · rw [KMap.get_append_left, KMap.get_append_left _ hm, KMap.get_filter_in _ (fun j => decide (j < cellKey i 0 0)) (decide_eq_true hk)]
    rintro e he rfl
    have := of_decide_eq_true (List.mem_filter.1 he).2
    unfold cellKey at hk this
    omega
  · rw [KMap.get_append_right, KMap.get_filter_in _ (fun j => decide (cellKey (i + 1) 0 0 ≤ j))]
    · refine decide_eq_true ?_
      unfold cellKey at hk ⊢
      omega
    · intro e he
      obtain he | he := List.mem_append.1 he
      · rintro rfl
        exact hk (of_decide_eq_true (List.mem_filter.1 he).2)
      · exact hm e he

/-! The sub-problems of one step, one after another -/

/-- One sub-problem takes its vectors, the e.2-th of each stream. -/
def takeStep (s : State) (c : Nat) (fa fb : Feeder) (r : TileRun) (e : Nat × Nat) : TileRun :=
  let a := takeVector s c fa e.2
  let b := takeVector s c fb e.2
  { subStep r e.1 a.1 b.1 with
    lost := if a.2.2 || b.2.2 then KSet.add r.lost e.1 else r.lost
    srcA := r.srcA ++ (a.2.1.map (fun d => (e.1, d.1, d.2))).toList
    srcB := r.srcB ++ (b.2.1.map (fun d => (e.1, d.1, d.2))).toList }

section Taken

variable (s : State) (c : Nat) (fa fb : Feeder)

theorem takeSteps_tile (l : List (Nat × Nat)) (r : TileRun) : (l.foldl (takeStep s c fa fb) r).tile = r.tile :=
  List.foldlRecOn (motive := fun q : TileRun => q.tile = r.tile) l _ rfl fun _ h _ _ => h

/-- Cells of the sub-problems that take no part stay. -/
theorem takeSteps_cells_other {k : Nat} : ∀ (l : List (Nat × Nat)) (r : TileRun), k / 65536 ∉ l.map (·.1) →
    KMap.get (blankCell r.tile) (l.foldl (takeStep s c fa fb) r).cells k = KMap.get (blankCell r.tile) r.cells k
  | [], _, _ => rfl
  | e :: l, r, h => by
    rw [List.map_cons, List.mem_cons, not_or] at h
    exact (takeSteps_cells_other l (takeStep s c fa fb r e) h.2).trans (subStep_cells_other r _ _ h.1)

/-- Each cell of a sub-problem that takes part adds its product, once. -/
theorem takeSteps_cells_taken {i e y x : Nat} : ∀ (l : List (Nat × Nat)) (r : TileRun), (l.map (·.1)).Nodup → (i, e) ∈ l →
    y < r.tile.rows → x < r.tile.cols → KMap.get (blankCell r.tile) (l.foldl (takeStep s c fa fb) r).cells (cellKey i y x) =
      addTo (attrAnchor (subAt r.tile i).rword) (KMap.get (blankCell r.tile) r.cells (cellKey i y x))
        ((takeVector s c fa e).1.getD y .zero).v ((takeVector s c fb e).1.getD x .zero).v
  | q :: l, r, hn, hm, hy, hx => by
    have hs : cellKey i y x / 65536 = i := cellKey_sub (Nat.lt_of_lt_of_le hy r.tile.rows_le) (Nat.lt_of_lt_of_le hx r.tile.cols_le)
    rw [List.map_cons, List.nodup_cons] at hn
    rw [List.foldl_cons]
    obtain rfl | hm := List.mem_cons.1 hm
    · exact (takeSteps_cells_other s c fa fb l (takeStep s c fa fb r (i, e)) (hs.symm ▸ hn.1)).trans (subStep_cells_taken r i _ _ hy hx)
    · have hq : cellKey i y x / 65536 ≠ q.1 := fun he => hn.1 (he ▸ hs.symm ▸ List.mem_map_of_mem hm)
      rw [← show (takeStep s c fa fb r q).tile = r.tile from rfl]
      rw [takeSteps_cells_taken l (takeStep s c fa fb r q) hn.2 hm hy hx]
      exact congrArg (fun z => addTo _ z _ _) (subStep_cells_other r _ _ hq)

end Taken

/-! Preload (R157) -/

/-- A step of a fold establishes what every other step keeps. -/
theorem foldl_reaches {α β : Type} {I P : β → Prop} {f : β → α → β} {a : α} (hI : ∀ z e, I z → I (f z e))
    (ha : ∀ z, I z → P (f z a)) :
    ∀ (l : List α) (z : β), (∀ z, ∀ e ∈ l, I z → P z → P (f z e)) → a ∈ l ∨ P z → I z → P (l.foldl f z)
  | [], _, _, h, _ => h.resolve_left List.not_mem_nil
  | e :: l, z, hP, h, hz => by
    rw [List.foldl_cons]
    refine foldl_reaches hI ha l _ (fun z b hb => hP z b (List.mem_cons_of_mem _ hb)) ?_ (hI z e hz)
    obtain h | h := h
    · obtain rfl | h := List.mem_cons.1 h
      · exact .inr (ha z hz)
      · exact .inl h
    · exact .inr (hP z e List.mem_cons_self hz h)

/-- One accumulator is preloaded. -/
def preloadStep (t : Tile) (c i : Nat) (z : State × TileRun × Bool) (e : Nat × Nat) : State × TileRun × Bool :=
  let p := subAt t i
  let k := cellKey i e.1 e.2
  match layoutElem z.1 c t.layout p.csrc (if p.cls = .exact then 256 else 32) e.1 e.2 with
  | some (x, bad) =>
    (z.1, { z.2.1 with
      cells := KMap.set (blankCell t) z.2.1.cells k (preloadCell p x)
      badCell := if bad then KSet.add z.2.1.badCell k else z.2.1.badCell }, z.2.2)
  | none =>
    let f := free 256 z.1
    (f.2, { z.2.1 with
      cells := KMap.set (blankCell t) z.2.1.cells k (preloadCell p f.1.toNat)
      badCell := KSet.add z.2.1.badCell k }, true)

theorem preloadSub_eq (s : State) (c : Nat) (r : TileRun) (i : Nat) :
    preloadSub s c r i = (outputs r.tile).foldl (preloadStep r.tile c i) (s, r, false) := rfl

theorem mem_outputs {t : Tile} {y x : Nat} : (y, x) ∈ outputs t ↔ y < t.rows ∧ x < t.cols := by
  simp only [outputs, List.mem_flatMap, List.mem_map, List.mem_range, Prod.mk.injEq, exists_eq_right_right]

/-- A preload under way: free values have been taken from the state, and the tile stands as it began, its cells apart. -/
def Preloading (s : State) (t : Tile) (ph : TilePhase) (z : State × TileRun × Bool) : Prop :=
  z.1 = { s with fresh := z.1.fresh } ∧ z.2.1.tile = t ∧ z.2.1.phase = ph

section Preload

variable {s : State} {t : Tile} {ph : TilePhase} {c i : Nat} {z : State × TileRun × Bool}

theorem Preloading.step (h : Preloading s t ph z) (u : Tile) (e : Nat × Nat) : Preloading s t ph (preloadStep u c i z e) := by
  obtain ⟨hs, ht, hp⟩ := h
  unfold preloadStep
  dsimp only
  split
  · exact ⟨hs, ht, hp⟩
  · refine ⟨?_, ht, hp⟩
    rw [hs]
    rfl

theorem layoutElem_congr {s u : State} (h : u.mem = s.mem) (c : Nat) (y : DrainLayout) (base width i j : Nat) :
    layoutElem u c y base width i j = layoutElem s c y base width i j := by
  unfold layoutElem layoutAt layoutOffset listOffset
  rw [h]

/-- The element at CSRC enters its accumulator. -/
theorem preloadStep_cell {y x v : Nat} (h : Preloading s t ph z)
    (hv : layoutElem s c t.layout (subAt t i).csrc (if (subAt t i).cls = .exact then 256 else 32) y x = some (v, false)) :
    KMap.get (blankCell t) (preloadStep t c i z (y, x)).2.1.cells (cellKey i y x) = preloadCell (subAt t i) v := by
  have hm : z.1.mem = s.mem := by rw [h.1]
  unfold preloadStep
  simp only [layoutElem_congr hm, hv, KMap.get_set_same]

/-- Every other cell stays. -/
theorem preloadStep_other {e : Nat × Nat} {k : Nat} (hk : k ≠ cellKey i e.1 e.2) :
    KMap.get (blankCell t) (preloadStep t c i z e).2.1.cells k = KMap.get (blankCell t) z.2.1.cells k := by
  unfold preloadStep
  dsimp only
  split <;> exact KMap.get_set_other _ _ _ hk

/-- A preload of a sub-problem fills its cells from CSRC, -/
theorem preloadSteps_cell {y x v : Nat} (h : Preloading s t ph z) (hy : y < t.rows) (hx : x < t.cols)
    (hv : layoutElem s c t.layout (subAt t i).csrc (if (subAt t i).cls = .exact then 256 else 32) y x = some (v, false)) :
    KMap.get (blankCell t) ((outputs t).foldl (preloadStep t c i) z).2.1.cells (cellKey i y x) = preloadCell (subAt t i) v := by
  refine foldl_reaches (I := Preloading s t ph) (a := (y, x))
    (P := fun z => KMap.get (blankCell t) z.2.1.cells (cellKey i y x) = preloadCell (subAt t i) v)
    (fun z e hz => hz.step t e) (fun z hz => preloadStep_cell hz hv) _ _ (fun z e hm hz hP => ?_) (.inl (mem_outputs.2 ⟨hy, hx⟩)) h
  by_cases he : cellKey i y x = cellKey i e.1 e.2
  · by_cases hyx : e = (y, x)
    · rw [hyx]
      exact preloadStep_cell hz hv
    · obtain ⟨b, a⟩ := e
      have hb := mem_outputs.1 hm
      obtain ⟨-, rfl, rfl⟩ := cellKey_inj (Nat.lt_of_lt_of_le hy t.rows_le) (Nat.lt_of_lt_of_le hb.1 t.rows_le)
        (Nat.lt_of_lt_of_le hx t.cols_le) (Nat.lt_of_lt_of_le hb.2 t.cols_le) he
      exact absurd rfl hyx
  · exact (preloadStep_other he).trans hP

/-- and leaves those of the others. -/
theorem preloadSteps_other {j y x : Nat} (hj : j ≠ i) (hy : y < t.rows) (hx : x < t.cols) :
    ∀ (l : List (Nat × Nat)) (z : State × TileRun × Bool),
    (∀ e ∈ l, e ∈ outputs t) → KMap.get (blankCell t) (l.foldl (preloadStep t c i) z).2.1.cells (cellKey j y x) =
      KMap.get (blankCell t) z.2.1.cells (cellKey j y x)
  | [], _, _ => rfl
  | (b, a) :: l, z, h => by
    rw [List.forall_mem_cons] at h
    have hb := mem_outputs.1 h.1
    refine (preloadSteps_other hj hy hx l _ h.2).trans (preloadStep_other fun he => hj ?_)
    exact (cellKey_inj (Nat.lt_of_lt_of_le hy t.rows_le) (Nat.lt_of_lt_of_le hb.1 t.rows_le)
      (Nat.lt_of_lt_of_le hx t.cols_le) (Nat.lt_of_lt_of_le hb.2 t.cols_le) he).1

end Preload

/-- The next sub-problem of a tile is preloaded. -/
def preloadNext (c : Nat) (z : State × TileRun × Bool) (i : Nat) : State × TileRun × Bool :=
  let y := preloadSub z.1 c z.2.1 i
  (y.1, y.2.1, z.2.2 || y.2.2)

/-- A tile preloaded; whether anything lay outside the scratchpad. -/
def preloadSubs (s : State) (c : Nat) (r : TileRun) : State × TileRun × Bool :=
  (List.range r.tile.subs.length).foldl (preloadNext c) (s, r, false)

theorem preloadAll_eq (s : State) (c : Nat) (r : TileRun) : preloadAll s c r =
    (if (preloadSubs s c r).2.2 then modCl (preloadSubs s c r).1 c (fun x => addDeferred x 0x04 3 3 r.tile.pc) else (preloadSubs s c r).1,
      (preloadSubs s c r).2.1) := rfl

theorem Preloading.sub {s u : State} {t : Tile} {ph : TilePhase} {r : TileRun} {b : Bool} (h : Preloading s t ph (u, r, b)) (c i : Nat) :
    Preloading s t ph (preloadSub u c r i) :=
  List.foldlRecOn (motive := Preloading s t ph) (outputs r.tile) _ h fun _ hz e _ => hz.step _ e

theorem Preloading.next {s : State} {t : Tile} {ph : TilePhase} {z : State × TileRun × Bool} (h : Preloading s t ph z) (c i : Nat) :
    Preloading s t ph (preloadNext c z i) :=
  Preloading.sub (b := z.2.2) h c i

theorem preloadSubs_preloading (s : State) (c : Nat) (r : TileRun) : Preloading s r.tile r.phase (preloadSubs s c r) :=
  List.foldlRecOn (motive := Preloading s r.tile r.phase) _ _ ⟨rfl, rfl, rfl⟩ fun _ hz i _ => hz.next c i

/-- Each cell of each sub-problem is filled from CSRC where CSRC holds it without poison. -/
theorem preloadSubs_cell {s : State} {c : Nat} {r : TileRun} {i y x v : Nat} (hi : i < r.tile.subs.length) (hy : y < r.tile.rows)
    (hx : x < r.tile.cols)
    (hv : layoutElem s c r.tile.layout (subAt r.tile i).csrc (if (subAt r.tile i).cls = .exact then 256 else 32) y x = some (v, false)) :
    KMap.get (blankCell r.tile) (preloadSubs s c r).2.1.cells (cellKey i y x) = preloadCell (subAt r.tile i) v := by
  have hfill (z : State × TileRun × Bool) (hz : Preloading s r.tile r.phase z) :
      KMap.get (blankCell r.tile) (preloadNext c z i).2.1.cells (cellKey i y x) = preloadCell (subAt r.tile i) v := by
    unfold preloadNext
    rw [preloadSub_eq, hz.2.1]
    exact preloadSteps_cell (z := (z.1, z.2.1, false)) hz hy hx hv
  refine foldl_reaches (I := Preloading s r.tile r.phase) (a := i)
    (P := fun z => KMap.get (blankCell r.tile) z.2.1.cells (cellKey i y x) = preloadCell (subAt r.tile i) v)
    (fun z j hz => hz.next c j) hfill _ (s, r, false) (fun z j _ hz hP => ?_) (.inl (List.mem_range.2 hi)) ⟨rfl, rfl, rfl⟩
  by_cases hij : i = j
  · rw [← hij]
    exact hfill z hz
  · refine Eq.trans ?_ hP
    unfold preloadNext
    rw [preloadSub_eq, hz.2.1]
    exact preloadSteps_other hij hy hx _ (z.1, z.2.1, false) fun _ h => h

end Sys2Proof.Machine
end

section
/-! PROOFS. Steps of the array and of the thin path, admission, preload and the last product (O17). -/

namespace Sys2Proof.Machine

/-! ARRAY_STEP (R151, R160, R161, R164) -/

theorem exec_arrayStep_streaming {s : State} {c : Fin 152} {thin : Bool} {r : TileRun} (h : (cl s c.val).runs.find? (isStreaming thin) = some r) :
    exec (.arrayStep c thin) s = .next (streamSlot (quiet s) c.val thin r) := by
  change Host.Outcome.next (arrayStep (quiet s) c.val thin) = _
  unfold arrayStep
  rw [cl_quiet, h]

theorem exec_arrayStep_idleThin {s : State} {c : Fin 152} (h : (cl s c.val).runs.find? (isStreaming true) = none) :
    exec (.arrayStep c true) s = .next (quiet s) := by
  change Host.Outcome.next (arrayStep (quiet s) c.val true) = _
  unfold arrayStep
  rw [cl_quiet, h]
  rfl

/-- The vectors of a step by sub-problem, in the order in which the streams give them. -/
def stepTakes (r : TileRun) : List ((Nat × Nat) × Nat) := ((activeSubs r.tile r.step).map (fun i => (i, r.step))).zipIdx

section Slot

variable {s : State} {c : Nat} {thin : Bool} {r : TileRun}

theorem streamSlot_enters (hw : stepWhole s c r = true) (hm : tileMisfit (cl s c) r.tile (stepTakes r) = none)
    (hl : thin = true ∨ level s c = 16) : streamSlot s c thin r = enterStep s c thin r := by
  have hl' : (thin || decide (level s c = 16)) = true := by simpa using hl
  unfold stepTakes at hm
  unfold streamSlot
  rw [if_pos hw, hm]
  exact if_pos hl'

theorem streamSlot_drops {i : Nat} (hw : stepWhole s c r = true) (hm : tileMisfit (cl s c) r.tile (stepTakes r) = some i) :
    streamSlot s c thin r = dropTile (modCl s c (fun x => { x with
      runs := ((takeFirst (isStreaming thin) x.runs).map (·.2)).getD x.runs })) c r.tile i := by
  unfold stepTakes at hm
  unfold streamSlot
  rw [if_pos hw, hm]

theorem streamSlot_freezes (hw : stepWhole s c r = false) (hf : frozen s c = true) : streamSlot s c thin r =
    bump64 (gapTime (modCl s c (fun x => holdRuns x 4)) c 4) Fld.CLU_ARR_FREEZES_LO_COUNT Fld.CLU_ARR_FREEZES_HI_COUNT c 1 := by
  unfold streamSlot
  rw [hw, hf]
  rfl

theorem streamSlot_bubbles (hw : stepWhole s c r = false) (hf : frozen s c = false) : streamSlot s c false r =
    bump64 (gapTime (modCl s c (fun x => setRun x (isStreaming false) (fun r => { r with time4 := r.time4 + r.tile.rate }))) c r.tile.rate)
      Fld.CLU_ARR_BUBBLES_LO_COUNT Fld.CLU_ARR_BUBBLES_HI_COUNT c 1 := by
  unfold streamSlot
  rw [hw, hf]
  rfl

end Slot

/-! A step that enters (R151, R217) -/

/-- A streaming tile after a whole step. -/
def enteredRun (s : State) (c : Nat) (thin : Bool) (r : TileRun) : TileRun :=
  let q := (activeSubs r.tile r.step).zipIdx.foldl
    (takeStep s c (feeder (cl s c) (streamA thin)) (feeder (cl s c) (streamB thin))) r
  let k := q.step + 1
  let time := q.time4 + q.tile.rate
  { q with
    step := k
    time4 := if k = q.tile.steps then wholeCycles time else time
    phase := if k = q.tile.steps then TilePhase.tail else .streaming }

theorem takeSteps_step (s : State) (c : Nat) (fa fb : Feeder) (l : List (Nat × Nat)) (r : TileRun) :
    (l.foldl (takeStep s c fa fb) r).step = r.step :=
  List.foldlRecOn (motive := fun q : TileRun => q.step = r.step) l _ rfl fun _ h _ _ => h

/-- The cluster of a tile after a whole step: its feeders have given the vectors, and a gap of the array has ended. -/
def enteredCl (s : State) (c : Nat) (thin : Bool) (r : TileRun) (x : Cluster) : Cluster :=
  let n := (activeSubs r.tile r.step).length
  let fa := (feeder (cl s c) (streamA thin)).take s c n
  let fb := (feeder (cl s c) (streamB thin)).take s c n
  { setRun (setFeeder (setFeeder x (streamA thin) fa) (streamB thin) fb) (isStreaming thin) (fun _ => enteredRun s c thin r) with
    gap := if thin then x.gap else 0 }

theorem enterStep_eq (s : State) (c : Nat) (thin : Bool) (r : TileRun) : enterStep s c thin r =
    bump64 (modCl s c (enteredCl s c thin r)) Fld.CLU_ARR_STEPS_LO_COUNT Fld.CLU_ARR_STEPS_HI_COUNT c 1 := rfl

theorem enteredCl_runs (s : State) (c : Nat) (thin : Bool) (r : TileRun) (x : Cluster) :
    (enteredCl s c thin r x).runs = replaceFirst (isStreaming thin) (fun _ => enteredRun s c thin r) x.runs := rfl

theorem enteredRun_tile (s : State) (c : Nat) (thin : Bool) (r : TileRun) : (enteredRun s c thin r).tile = r.tile :=
  takeSteps_tile ..

theorem enteredRun_step (s : State) (c : Nat) (thin : Bool) (r : TileRun) : (enteredRun s c thin r).step = r.step + 1 :=
  congrArg (· + 1) (takeSteps_step ..)

theorem enteredRun_phase (s : State) (c : Nat) (thin : Bool) (r : TileRun) :
    (enteredRun s c thin r).phase = if r.step + 1 = r.tile.steps then .tail else .streaming := by
  unfold enteredRun
  dsimp only
  rw [takeSteps_tile, takeSteps_step]

/-- Each sub-problem takes part once. -/
theorem activeSubs_zipIdx_nodup (t : Tile) (k : Nat) : ((activeSubs t k).zipIdx.map (·.1)).Nodup := by
  rw [List.zipIdx_map_fst]
  exact List.nodup_range.filter _

/-- Every cell of a sub-problem that takes part adds its product, -/
theorem enteredRun_cells_taken (s : State) (c : Nat) (thin : Bool) (r : TileRun) {i e y x : Nat}
    (h : (i, e) ∈ (activeSubs r.tile r.step).zipIdx) (hy : y < r.tile.rows) (hx : x < r.tile.cols) :
    KMap.get (blankCell r.tile) (enteredRun s c thin r).cells (cellKey i y x) = addTo (attrAnchor (subAt r.tile i).rword)
      (KMap.get (blankCell r.tile) r.cells (cellKey i y x)) ((takeVector s c (feeder (cl s c) (streamA thin)) e).1.getD y .zero).v
      ((takeVector s c (feeder (cl s c) (streamB thin)) e).1.getD x .zero).v :=
  takeSteps_cells_taken s c _ _ _ r (activeSubs_zipIdx_nodup _ _) h hy hx

/-- and every other cell stays. -/
theorem enteredRun_cells_other (s : State) (c : Nat) (thin : Bool) (r : TileRun) {k : Nat} (h : k / 65536 ∉ activeSubs r.tile r.step) :
    KMap.get (blankCell r.tile) (enteredRun s c thin r).cells k = KMap.get (blankCell r.tile) r.cells k :=
  takeSteps_cells_other s c _ _ _ r (by rwa [List.zipIdx_map_fst])

/-! Slots in which nothing enters (R160, R161, R164) -/

/-- A slot in which nothing enters leaves the steps and cells of every run, and the feeders. -/
def SlotKept (x y : Cluster) : Prop :=
  y.runs.map (fun r => (r.step, r.cells)) = x.runs.map (fun r => (r.step, r.cells)) ∧ y.feeders = x.feeders

theorem holdRuns_kept (x : Cluster) (n : Nat) : SlotKept x (holdRuns x n) := by
  refine ⟨?_, rfl⟩
  unfold holdRuns
  rw [List.map_map]
  refine List.map_congr_left fun r _ => ?_
  dsimp only [Function.comp]
  split <;> rfl

theorem map_replaceFirst {α β : Type} {p : α → Bool} {f : α → α} {g : α → β} (h : ∀ x, g (f x) = g x) :
    ∀ l : List α, (replaceFirst p f l).map g = l.map g
  | [] => rfl
  | x :: l => by
    rw [replaceFirst]
    split
    · rw [List.map_cons, List.map_cons, h]
    · rw [List.map_cons, List.map_cons, map_replaceFirst h l]

theorem setRun_kept (x : Cluster) (p : TileRun → Bool) (f : TileRun → TileRun) (h : ∀ r, ((f r).step, (f r).cells) = (r.step, r.cells)) :
    SlotKept x (setRun x p f) :=
  ⟨map_replaceFirst h _, rfl⟩

/-- The gap and the counter of the slot change neither. -/
theorem SlotKept.counted {s : State} {c : Nat} {f : Cluster → Cluster} (h : SlotKept (cl s c) (f (cl s c))) (n : Nat) (lo hi : Field) :
    SlotKept (cl s c) (cl (bump64 (gapTime (modCl s c f) c n) lo hi c 1) c) := by
  rw [cl_bump64, cl_gapTime, cl_modCl_same]
  exact h

/-! TILE_ADMIT (R155, R171, R217) -/

theorem exec_tileAdmit (c : Fin 152) (thin : Bool) (s : State) : exec (.tileAdmit c thin) s =
    .next (if admissible s c.val thin && (thin || level s c.val = 16) then admitTile (quiet s) c.val thin else quiet s) := rfl

/-- A run that waits, preloaded, for its tile to be admitted. -/
def readyRun (thin : Bool) (r : TileRun) : Bool := r.phase = .ready && r.tile.thin = thin

theorem admitTile_fits {s : State} {c : Nat} {thin : Bool} {w : Tile} (hw : oldest (cl s c) thin = some w)
    (hm : tileMisfit (cl s c) w (tileTakes w).zipIdx = none) : admitTile s c thin = setCl s c { cl s c with
      tiles := ((takeFirst (fun (y : Tile) => decide (y.thin = thin)) (cl s c).tiles).map (·.2)).getD (cl s c).tiles
      runs := (cl s c).runs.filter (fun r => !readyRun thin r) ++
        [{ ((cl s c).runs.find? (readyRun thin)).getD (.new w .ready) with phase := .streaming }] } := by
  unfold admitTile
  simp only [hw]
  split
  · next i h => exact absurd (hm.symm.trans h) nofun
  · rfl

/-! PRELOAD_END (R157) -/

theorem any_phase_false {l : List TileRun} {p : TilePhase} (h : l.all (fun r => r.phase ≠ p) = true) :
    l.any (fun r => r.phase = p) = false :=
  List.any_eq_false.2 fun r hr hp => of_decide_eq_true (List.all_eq_true.1 h r hr) (of_decide_eq_true hp)

theorem exec_preloadEnd_none {s : State} {c : Fin 152} {thin : Bool} (h : oldest (cl s c.val) thin = none) :
    exec (.preloadEnd c thin) s = .next (quiet s) := by
  change execPreloadEnd c thin s = _
  unfold execPreloadEnd
  simp only [cl_quiet, h]

theorem exec_preloadEnd_ready {s : State} {c : Fin 152} {thin : Bool} {w : Tile} (hw : oldest (cl s c.val) thin = some w)
    (hc : w.cont = true) (hb : bankHeld (cl s c.val) w = false) (hp : preloaded (cl s c.val) w = false) (hq : preempting s c.val = false)
    (hd : (cl s c.val).runs.all (fun r => r.phase ≠ .draining) = true) : exec (.preloadEnd c thin) s =
      .next (modCl (preloadAll (quiet s) c.val (.new w .ready)).1 c.val
        (fun x => { x with runs := x.runs ++ [(preloadAll (quiet s) c.val (.new w .ready)).2] })) := by
  have hd' := any_phase_false hd
  have hq' : preempting (quiet s) c.val = false := hq
  change execPreloadEnd c thin s = _
  unfold execPreloadEnd
  simp only [cl_quiet, hw, hc, hb, hp, hq', hd', Bool.not_false, Bool.and_true, if_true]

/-- A preload changes the free values, and the faults to be reported of its cluster. -/
theorem preloadAll_fst (s : State) (c : Nat) (r : TileRun) :
    (preloadAll s c r).1 = { s with clu := (preloadAll s c r).1.clu, fresh := (preloadAll s c r).1.fresh } ∧
    (∀ d, d ≠ c → cl (preloadAll s c r).1 d = cl s d) ∧ (cl (preloadAll s c r).1 c).runs = (cl s c).runs := by
  have hs := (preloadSubs_preloading s c r).1
  rw [preloadAll_eq]
  dsimp only
  split
  · rw [hs]
    exact ⟨rfl, fun d hd => cl_modCl_other _ _ hd, by rw [cl_modCl_same]; rfl⟩
  · rw [hs]
    exact ⟨rfl, fun _ _ => rfl, rfl⟩

theorem preloadAll_snd (s : State) (c : Nat) (r : TileRun) : (preloadAll s c r).2.tile = r.tile ∧ (preloadAll s c r).2.phase = r.phase :=
  (preloadSubs_preloading s c r).2

/-! TILE_LAST_PRODUCT (R154) -/

/-- A tile of a bank that waits for its last product. -/
def tailRun (thin : Bool) (bank : Nat) (r : TileRun) : Bool := r.tile.thin = thin && r.phase = .tail && r.tile.bank = bank

theorem exec_tileLastProduct_none {s : State} {c : Fin 152} {thin : Bool} {b : Fin 4} (h : takeFirst (tailRun thin b.val) (cl s c.val).runs = none) :
    exec (.tileLastProduct c thin b) s = .next (quiet s) := by
  unfold tailRun at h
  change execTileLastProduct c thin b s = _
  unfold execTileLastProduct
  simp only [cl_quiet, h]

theorem exec_tileLastProduct_some {s : State} {c : Fin 152} {thin : Bool} {b : Fin 4} {r : TileRun} {rest : List TileRun}
    (h : takeFirst (tailRun thin b.val) (cl s c.val).runs = some (r, rest)) : exec (.tileLastProduct c thin b) s =
      .next (setCl (quiet s) c.val { cl s c.val with runs := rest ++ [{ r with phase := .complete, time4 := r.time4 + 4 * r.tile.tail }] }) := by
  unfold tailRun at h
  change execTileLastProduct c thin b s = _
  unfold execTileLastProduct
  simp only [cl_quiet, h]
  rfl

/-! The statement -/

/-- A counter of a cluster's block counts one up from what it was before the cluster itself changed. -/
theorem rd64_counted {s t : State} (lo hi : Field) (c : Nat) (hl : lo.inWord) (hh : hi.inWord) (hw : lo.width = 32 ∧ hi.width = 32)
    (hd : lo.clApart hi) (h : rd64 t lo hi c = rd64 s lo hi c) : rd64 (bump64 t lo hi c 1) lo hi c = (rd64 s lo hi c + 1) % 2 ^ 64 := by
  rw [rd64_bump64_same t lo hi c 1 hl hh hw hd, h]

/-- Settles O17: the slots of the array, by what they find, then admission, preload and the last product. -/
theorem arraySteps : Obligations.ArraySteps := by
  unfold Obligations.ArraySteps
  refine ⟨fun s c thin r hr => ⟨fun hw hl => ?_, fun hw hf => ?_, fun hw hf ht => ?_⟩, fun s c h => exec_arrayStep_idleThin h,
    fun s c thin => ⟨fun h => ?_, fun w ha hl hw hm => ?_, fun w hw hc hb hp hq hd => ?_, exec_preloadEnd_none,
      fun b => ⟨exec_tileLastProduct_none, fun r rest => exec_tileLastProduct_some⟩⟩⟩
  · cases hm : tileMisfit (cl s c.val) r.tile (stepTakes r) with
    | none =>
      refine ⟨_, (exec_arrayStep_streaming hr).trans (congrArg Host.Outcome.next
        ((streamSlot_enters (s := quiet s) hw hm hl).trans (enterStep_eq ..))), rfl, fun d hd => (cl_bump64 ..).trans (cl_modCl_other _ _ hd), ?_⟩
      unfold stepTakes at hm
      simp only [hm]
      refine ⟨rd64_counted _ _ _ (by decide) (by decide) (by decide) (by decide) (rd64_congr rfl _ _ _ _), enteredRun (quiet s) c.val thin r, ?_,
        enteredRun_tile .., enteredRun_step .., enteredRun_phase .., fun i e y x => enteredRun_cells_taken (quiet s) c.val thin r,
        fun k => enteredRun_cells_other (quiet s) c.val thin r⟩
      rw [cl_bump64, cl_modCl_same]
      exact enteredCl_runs ..
    | some i =>
      refine ⟨_, (exec_arrayStep_streaming hr).trans (congrArg Host.Outcome.next (streamSlot_drops (s := quiet s) hw hm)), rfl,
        fun d hd => (cl_modCl_other _ _ hd).trans (cl_modCl_other _ _ hd), ?_⟩
      unfold stepTakes at hm
      simp only [hm]
      unfold dropTile
      rw [cl_modCl_same, cl_modCl_same]
      exact ⟨rfl, rfl⟩
  · exact ⟨_, (exec_arrayStep_streaming hr).trans (congrArg Host.Outcome.next (streamSlot_freezes (s := quiet s) hw hf)), rfl,
      rd64_counted _ _ _ (by decide) (by decide) (by decide) (by decide)
        ((rd64_gapTime _ _ _ _ _ (by decide) (by decide)).trans (rd64_congr rfl _ _ _ _)),
      (holdRuns_kept _ 4).counted (s := quiet s) 4 _ _⟩
  · subst ht
    have hk := setRun_kept (cl s c.val) (isStreaming false) (fun r => { r with time4 := r.time4 + r.tile.rate }) fun _ => rfl
    exact ⟨_, (exec_arrayStep_streaming hr).trans (congrArg Host.Outcome.next (streamSlot_bubbles (s := quiet s) hw hf)), rfl,
      rd64_counted _ _ _ (by decide) (by decide) (by decide) (by decide)
        ((rd64_gapTime _ _ _ _ _ (by decide) (by decide)).trans (rd64_congr rfl _ _ _ _)),
      SlotKept.counted (s := quiet s) (f := fun x => setRun x (isStreaming false) (fun r => { r with time4 := r.time4 + r.tile.rate })) hk _ _ _⟩
  · rw [exec_tileAdmit, if_neg]
    · rfl
    · obtain h | ⟨rfl, h⟩ := h <;> simp [h]
  · refine ⟨_, (exec_tileAdmit c thin s).trans (congrArg Host.Outcome.next ((if_pos (by simpa [ha] using hl)).trans
      (admitTile_fits (s := quiet s) hw hm))), rfl, fun d hd => cl_setCl_other _ _ hd, ?_⟩
    rw [cl_setCl_same]
    refine ⟨rfl, _, List.mem_append_right _ (List.mem_singleton_self _), rfl, fun _ hr => ?_⟩
    have hn : (cl s c.val).runs.find? (readyRun thin) = none := by
      rw [List.find?_eq_none]
      intro q hq
      have := of_decide_eq_true (List.all_eq_true.1 hr q hq)
      simp [readyRun, this]
    rw [cl_quiet, hn]
    rfl
  · obtain ⟨hframe, hother, hruns⟩ := preloadAll_fst (quiet s) c.val (.new w .ready)
    obtain ⟨htile, hphase⟩ := preloadAll_snd (quiet s) c.val (.new w .ready)
    refine ⟨_, _, exec_preloadEnd_ready hw hc hb hp hq hd, ?_, fun d hd => (cl_modCl_other _ _ hd).trans (hother d hd), ?_, htile, hphase,
      fun i y x v hi hy hx hv => preloadSubs_cell (s := quiet s) (r := .new w .ready) hi hy hx hv⟩
    · unfold modCl setCl
      rw [hframe]
      rfl
    · rw [cl_modCl_same]
      exact congrArg (· ++ _) hruns

end Sys2Proof.Machine
end

section
/-! SUPPORT. Drains and recomputes: what they write of the memories, and what they leave of the state (R156, R168). -/

namespace Sys2Proof.Machine

/-! Memory that a drain writes -/

/-- Two memories differ in the scratchpad of cluster c and in what is marked poisoned. -/
structure PadWritten (c : Nat) (m n : Memory) : Prop where
  frame : n = { m with spad := n.spad, spadPoison := n.spadPoison }
  others : ∀ k, k / 2 ^ 22 ≠ c → KMap.get (fun _ => 0#8) n.spad k = KMap.get (fun _ => 0#8) m.spad k

theorem PadWritten.refl (c : Nat) (m : Memory) : PadWritten c m m := ⟨rfl, fun _ _ => rfl⟩

theorem PadWritten.trans {c : Nat} {l m n : Memory} (h : PadWritten c l m) (h' : PadWritten c m n) : PadWritten c l n := by
  refine ⟨?_, fun k hk => (h'.others k hk).trans (h.others k hk)⟩
  rw [h'.frame, h.frame]

/-- Bytes beyond the scratchpad are left out, so that no other scratchpad is written. -/
theorem clipWrite_padWritten (m : Memory) (c off : Nat) (bs : List Byte) : PadWritten c m (clipWrite m c off bs).1 := by
  unfold clipWrite
  dsimp only
  split
  · exact .refl c m
  · next h =>
    refine ⟨rfl, fun k hk => ?_⟩
    have hl : (bs.take (2 ^ 22 - off)).length ≤ 2 ^ 22 - off := List.length_take_le _ _
    have h0 : 0 < (bs.take (2 ^ 22 - off)).length := List.length_pos_iff.2 h
    rw [get_spadWrite, if_neg]
    omega

theorem markLine_padWritten (m : Memory) (c off : Nat) : PadWritten c m (markLine m c off) := by
  unfold markLine
  split
  · exact ⟨rfl, fun _ _ => rfl⟩
  · exact .refl c m

/-! Outputs (R156, R222) -/

/-- A free value is taken for C outside the scratchpad alone, so by CONVERT_ADD alone. -/
theorem drainOne_fresh (s : State) (c : Nat) (r : TileRun) (sub i j : Nat) (bad : Bool) (h : r.tile.drain ≠ 1) :
    (drainOne s c r sub i j bad).1.fresh = s.fresh := by
  unfold drainOne
  dsimp only
  rw [if_neg h]

/-- A drain under way: free values have been taken by CONVERT_ADD alone, and the scratchpad of the cluster has been written. -/
structure Draining (s : State) (c drain : Nat) (z : State × DrainAcc) : Prop where
  frame : z.1 = { s with fresh := z.1.fresh }
  fresh : drain ≠ 1 → z.1.fresh = s.fresh
  mem : PadWritten c s.mem z.2.mem

theorem Draining.chunk {s : State} {c : Nat} {r : TileRun} {z : State × DrainAcc} (h : Draining s c r.tile.drain z) (pre : State)
    (sub row ch0 n : Nat) (all : Bool) : Draining s c r.tile.drain (drainChunk pre c r sub row ch0 n all z) := by
  unfold drainChunk
  extract_lets +onlyGivenNames t p w pos bad q
  have hq : q.1 = { s with fresh := q.1.fresh } ∧ (r.tile.drain ≠ 1 → q.1.fresh = s.fresh) := by
    refine List.foldlRecOn (motive := fun q : State × List DrainOut × Bool =>
      q.1 = { s with fresh := q.1.fresh } ∧ (r.tile.drain ≠ 1 → q.1.fresh = s.fresh)) _ _ ⟨h.frame, h.fresh⟩ fun q hq e _ => ?_
    refine ⟨?_, fun hd => (drainOne_fresh _ _ _ _ _ _ _ hd).trans (hq.2 hd)⟩
    dsimp only
    rw [hq.1]
  exact ⟨hq.1, hq.2, h.mem.trans (clipWrite_padWritten ..)⟩

/-- A drain changes the scratchpad of its cluster, takes free values by CONVERT_ADD alone, and of the clusters changes its own, by the
faults that it has to report. -/
structure Drained (s t : State) (c drain : Nat) : Prop where
  frame : t = { s with mem := t.mem, clu := t.clu, fresh := t.fresh }
  mem : PadWritten c s.mem t.mem
  fresh : drain ≠ 1 → t.fresh = s.fresh
  others : ∀ d, d ≠ c → cl t d = cl s d
  own : cl t c = { cl s c with deferred := (cl t c).deferred }

theorem Drained.refl (s : State) (c drain : Nat) : Drained s s c drain := ⟨rfl, .refl c s.mem, fun _ => rfl, fun _ _ => rfl, rfl⟩

theorem Drained.trans {s t u : State} {c drain : Nat} (h : Drained s t c drain) (h' : Drained t u c drain) : Drained s u c drain := by
  refine ⟨?_, h.mem.trans h'.mem, fun hd => (h'.fresh hd).trans (h.fresh hd), fun d hd => (h'.others d hd).trans (h.others d hd), ?_⟩
  · rw [h'.frame, h.frame]
  · rw [h'.own, h.own]

theorem Drained.regs {s t : State} {c drain : Nat} (h : Drained s t c drain) : t.regs = s.regs := by rw [h.frame]

theorem drainSub_drained (s : State) (c : Nat) (r : TileRun) (sub : Nat) (all : Bool) : Drained s (drainSub s c r sub all).1 c r.tile.drain := by
  unfold drainSub
  extract_lets +onlyGivenNames t rows chans z feed mem
  have hz : Draining s c r.tile.drain z := by
    refine List.foldlRecOn (motive := Draining s c r.tile.drain) _ _ ⟨rfl, fun _ => rfl, .refl c s.mem⟩ fun _ hz _ _ => ?_
    exact List.foldlRecOn (motive := Draining s c r.tile.drain) _ _ hz fun _ hz _ _ => hz.chunk ..
  have hm : PadWritten c s.mem mem :=
    List.foldlRecOn (motive := PadWritten c s.mem) _ _ hz.mem fun _ hm _ _ => hm.trans (markLine_padWritten ..)
  have ht : Drained s { z.1 with mem := mem } c r.tile.drain := by
    refine ⟨?_, hm, hz.fresh, fun d _ => ?_, ?_⟩ <;> rw [hz.frame] <;> rfl
  dsimp only
  split
  · refine ht.trans ⟨rfl, .refl c _, fun _ => rfl, fun d hd => cl_modCl_other _ _ hd, ?_⟩
    rw [cl_modCl_same]
    rfl
  · exact ht

theorem drainTile_drained (s : State) (c : Nat) (r : TileRun) : Drained s (drainTile s c r).1 c r.tile.drain :=
  List.foldlRecOn (motive := fun z : State × List SubResult => Drained s z.1 c r.tile.drain) _ _ (.refl s c _)
    fun _ hz _ _ => hz.trans (drainSub_drained ..)

/-! A recompute (R168) -/

/-- A recompute reads lines again, takes free values and counts its steps. -/
structure Recomputed (s t : State) (c : Nat) : Prop where
  frame : t = { s with regs := t.regs, mem := t.mem, fresh := t.fresh }
  recomp : rd t Fld.CLU_ARR_RECOMP_COUNT c = rd s Fld.CLU_ARR_RECOMP_COUNT c

theorem Recomputed.refl (s : State) (c : Nat) : Recomputed s s c := ⟨rfl, rfl⟩

theorem Recomputed.trans {s t u : State} {c : Nat} (h : Recomputed s t c) (h' : Recomputed t u c) : Recomputed s u c :=
  ⟨by rw [h'.frame, h.frame], h'.recomp.trans h.recomp⟩

theorem Recomputed.clu {s t : State} {c : Nat} (h : Recomputed s t c) : t.clu = s.clu := by rw [h.frame]

theorem rereadLines_recomputed (s : State) (c : Nat) (src : List (Nat × FeedDesc × Nat)) : Recomputed s (rereadLines s c src) c :=
  List.foldlRecOn (motive := fun t => Recomputed s t c) _ _ (.refl s c) fun t ht l _ => ht.trans
    ⟨by rw [engineRead_frame], rd_engineRead _ _ _ _ _ _ (hubReg_apart c (by decide)) (hubReg_apart c (by decide))⟩

theorem preloadSub_recomputed (s : State) (c : Nat) (r : TileRun) (i : Nat) : Recomputed s (preloadSub s c r i).1 c := by
  have h := (Preloading.sub (s := s) (b := false) ⟨rfl, rfl, rfl⟩ c i : Preloading s r.tile r.phase (preloadSub s c r i)).1
  rw [h]
  exact ⟨rfl, rfl⟩

theorem recompute_recomputed (s : State) (c : Nat) (r : TileRun) (sub : Nat) : Recomputed s (recompute s c r sub).1 c := by
  unfold recompute
  extract_lets +onlyGivenNames a b u out q z p
  have hu : Recomputed s u c := rereadLines_recomputed ..
  have hp : Recomputed s p.1 c := by
    by_cases hc : q.tile.cont = true
    · rw [show p = (z.1, z.2.1) from if_pos hc]
      exact hu.trans (preloadSub_recomputed ..)
    · rw [show p = (u, q) from if_neg hc]
      exact hu
  exact hp.trans ⟨rfl, (rd_bump64_cl _ _ _ _ _ _ (by decide) (by decide) (by decide) (by decide)).trans (rd_congr rfl _ _ _)⟩

end Sys2Proof.Machine
end

section
/-! PROOFS. Drains, status words, the activity level, freeze mode and pre-emption (O18). -/

namespace Sys2Proof.Machine

/-! DRAIN_START (R156) -/

/-- The element replaced is the one found. -/
theorem replaceFirst_congr {α : Type} {p : α → Bool} {f g : α → α} {r : α} : ∀ l : List α, l.find? p = some r → f r = g r →
    replaceFirst p f l = replaceFirst p g l
  | x :: l, h, he => by
    rw [replaceFirst, replaceFirst]
    by_cases hx : p x = true
    · rw [List.find?_cons_of_pos hx] at h
      obtain rfl := Option.some.inj h
      rw [if_pos hx, if_pos hx, he]
    · rw [List.find?_cons_of_neg hx] at h
      rw [if_neg hx, if_neg hx, replaceFirst_congr l h he]

theorem exec_drainStart_none {s : State} {c : Fin 152} (h : (cl s c.val).runs.any (fun r => r.phase = .draining) = true ∨
    (cl s c.val).runs.find? (fun r => r.phase = .complete) = none) : exec (.drainStart c) s = .next (quiet s) := by
  change execDrainStart c s = _
  unfold execDrainStart
  obtain h | h := h
  · simp only [cl_quiet, h, if_true]
  · simp only [cl_quiet, h, ite_self]

theorem exec_drainStart_some {s : State} {c : Fin 152} {r : TileRun} (hd : (cl s c.val).runs.all (fun r => r.phase ≠ .draining) = true)
    (hr : (cl s c.val).runs.find? (fun r => r.phase = .complete) = some r) : exec (.drainStart c) s =
      .next (modCl (drainTile (quiet s) c.val r).1 c.val (fun x => setRun x (fun r => r.phase = .complete)
        (fun q => { q with phase := .draining, results := (drainTile (quiet s) c.val r).2 }))) := by
  have hd' := any_phase_false hd
  change execDrainStart c s = _
  unfold execDrainStart
  simp only [cl_quiet, hd', hr, Bool.false_eq_true, if_false]

/-! The status word (Table 6.6) -/

/-- CHECK is bits 24 and 25 of a status word. -/
theorem check_statusWord (tag : Nat) (f : Flags) (check : Nat) (poison lost : Bool) (sub cycles : Nat) :
    bitsOf (statusWord tag f check poison lost sub cycles).toNat 24 2 = check % 4 := by
  have hf : f.toNat < 256 := f.isLt
  unfold statusWord bitsOf
  rw [BitVec.toNat_ofNat]
  generalize Nat.min cycles 0xFFFFFFFF = n
  split <;> split <;> omega

/-- The status word of the next sub-problem of a run, from its result, its CHECK and the time it took. -/
def checkWord (r : TileRun) (res : SubResult) (check time4 : Nat) : BitVec 64 :=
  statusWord r.tile.tag res.flags check res.poison (r.lost.contains r.reported) (if r.tile.thin then 0 else r.reported) (time4 / 4)

theorem check_checkWord (r : TileRun) (res : SubResult) {check : Nat} (time4 : Nat) (h : check < 4) :
    bitsOf (checkWord r res check time4).toNat 24 2 = check :=
  (check_statusWord ..).trans (Nat.mod_eq_of_lt h)

/-- A run has its next status word delivered, and leaves with its last. -/
def reportedCl (r : TileRun) (w : BitVec 64) (x : Cluster) : Cluster :=
  if r.reported + 1 ≥ r.tile.subs.length then
    { x with
      drainQ := x.drainQ ++ [w]
      runs := ((takeFirst (fun (r : TileRun) => decide (r.phase = .drained)) x.runs).map (·.2)).getD x.runs }
  else
    { x with
      drainQ := x.drainQ ++ [w]
      runs := replaceFirst (fun r => r.phase = .drained) (fun q => { q with reported := r.reported + 1 }) x.runs }

theorem reportedCl_drainQ (r : TileRun) (w : BitVec 64) (x : Cluster) : (reportedCl r w x).drainQ = x.drainQ ++ [w] := by
  unfold reportedCl
  split <;> rfl

theorem exec_statusWordDeliver_none {s : State} {c : Fin 152} (f : Fin 3) (h : (cl s c.val).runs.find? (fun r => r.phase = .drained) = none) :
    exec (.statusWordDeliver c f) s = .next (quiet s) := by
  change execStatusWordDeliver c f s = _
  unfold execStatusWordDeliver
  simp only [cl_quiet, h]

theorem exec_statusWordDeliver_some {s : State} {c : Fin 152} {r : TileRun} (f : Fin 3)
    (h : (cl s c.val).runs.find? (fun r => r.phase = .drained) = some r) {t : State} {q : TileRun} {res : SubResult} {check : Nat}
    (hc : checkSub (quiet s) c.val r r.reported f.val = (t, q, res, check)) :
    exec (.statusWordDeliver c f) s = .next (modCl t c.val (reportedCl r (checkWord r res check q.time4))) := by
  change execStatusWordDeliver c f s = _
  unfold execStatusWordDeliver
  simp only [cl_quiet, h, hc]
  rfl

/-- The word enters the drain queue. -/
theorem drainQ_reported {s t : State} {c : Nat} (r : TileRun) (w : BitVec 64) (h : (cl t c).drainQ = (cl s c).drainQ) :
    (cl (modCl t c (reportedCl r w)) c).drainQ = (cl s c).drainQ ++ [w] := by
  rw [cl_modCl_same, reportedCl_drainQ, h]

/-! A tile whose tests fail (R167, R168) -/

/-- A recompute, and the drain of what it formed. -/
def recomputed (s : State) (c : Nat) (r : TileRun) (sub : Nat) (all : Bool) : State × SubResult :=
  drainSub (recompute s c r sub).1 c (recompute s c r sub).2 sub all

theorem checkSub_once (s : State) (c : Nat) (r : TileRun) (sub : Nat) : checkSub s c r sub 1 =
    (inc (flag (recomputed s c r sub false).1 Fld.CLU_ARR_EVENT_RECOMP c) Fld.CLU_ARR_RECOMP_COUNT c, (recompute s c r sub).2,
      (recomputed s c r sub false).2, 2) := rfl

theorem checkSub_twice (s : State) (c : Nat) (r : TileRun) (sub : Nat) : checkSub s c r sub 2 =
    (tileFailed (recomputed s c r sub true).1 c (recompute s c r sub).2 sub (recomputed s c r sub true).2.exact, (recompute s c r sub).2,
      (recomputed s c r sub true).2, 3) := rfl

/-- A recompute leaves the drain queue, and counts nothing in RECOMP. -/
theorem recomputed_kept (s : State) (c : Nat) (r : TileRun) (sub : Nat) (all : Bool) :
    (cl (recomputed s c r sub all).1 c).drainQ = (cl s c).drainQ ∧
    rd (recomputed s c r sub all).1 Fld.CLU_ARR_RECOMP_COUNT c = rd s Fld.CLU_ARR_RECOMP_COUNT c := by
  have h := recompute_recomputed s c r sub
  have hd : Drained _ (recomputed s c r sub all).1 c _ := drainSub_drained ..
  constructor
  · rw [hd.own]
    unfold cl
    rw [h.clu]
  · exact (rd_congr hd.regs _ _ _).trans h.recomp

/-- A tile that fails again sets TILE_FAIL, and is recorded by its cluster and as an uncorrected fault. -/
def tileFailLogged (s : State) (c : Nat) (r : TileRun) (sub : Nat) (exact : Bool) : State :=
  recordUe (recordArr (flag s Fld.CLU_ARR_EVENT_TILE_FAIL c) c (if exact then 0 else 1) r.tile.bank sub r.tile.thin r.tile.tag) 4 c 0

/-- Beyond its records it may end its launch with ERR, and enters the account of failed tiles. -/
theorem tileFailed_cases (s : State) (c : Nat) (r : TileRun) (sub : Nat) (exact : Bool) : ∃ ras,
    tileFailed s c r sub exact = { flag (tileFailLogged s c r sub exact) Fld.CLU_LSTAT_ERR c with ras := ras } ∨
    tileFailed s c r sub exact = { tileFailLogged s c r sub exact with ras := ras } := by
  unfold tileFailed
  extract_lets +onlyGivenNames s1 s2 s3 x mine step s4 twice
  have h4 : s4 = flag s3 Fld.CLU_LSTAT_ERR c ∨ s4 = s3 := ite_eq_or_eq ..
  exact ⟨_, h4.imp (fun h => by rw [h]; rfl) (fun h => by rw [h]; rfl)⟩

theorem cl_tileFailed (s : State) (c : Nat) (r : TileRun) (sub : Nat) (exact : Bool) (d : Nat) :
    cl (tileFailed s c r sub exact) d = cl s d := by
  have hl : cl (tileFailLogged s c r sub exact) d = cl s d := by
    unfold tileFailLogged
    rw [recordUe_frame, recordArr_frame]
    rfl
  obtain ⟨ras, h | h⟩ := tileFailed_cases s c r sub exact <;> rw [h] <;> exact hl

theorem tileFailed_events (s : State) (c : Nat) (r : TileRun) (sub : Nat) (exact : Bool) :
    rd (tileFailed s c r sub exact) Fld.CLU_ARR_EVENT_TILE_FAIL c = 1 ∧ rd (tileFailed s c r sub exact) Fld.RAS_EVENT_UE = 1 := by
  have hf : rd (tileFailLogged s c r sub exact) Fld.CLU_ARR_EVENT_TILE_FAIL c = 1 :=
    (rd_recordUe_cl _ _ _ _ c (by decide)).trans ((rd_recordArr_other _ _ _ _ _ _ _ (by decide) (by decide) (by decide)).trans
      (rd_flag_same _ _ _ _ (by decide) (by decide)))
  have hu : rd (tileFailLogged s c r sub exact) Fld.RAS_EVENT_UE = 1 := recordUe_event ..
  obtain ⟨ras, h | h⟩ := tileFailed_cases s c r sub exact <;> rw [h]
  · exact ⟨(rd_flag_cl _ _ _ _ (by decide) (by decide)).trans hf, (rd_flag_other _ _ _ _ _ _ _ (by decide)
      ((hubReg_apart (f := Fld.CLU_LSTAT_ERR) c (by decide)).imp Ne.symm Or.symm)).trans hu⟩
  · exact ⟨hf, hu⟩

/-! ACTIVITY_LEVEL_STEP (R164) -/

/-- A change of the level leaves all but the registers and the cluster, and is at once in force. -/
theorem level_wr {s t : State} (c n : Nat) (h : t = { s with regs := t.regs, clu := t.clu }) (hn : n < 32) :
    wr t Fld.CLU_ARR_STATUS_LEVEL n c =
      { s with regs := (wr t Fld.CLU_ARR_STATUS_LEVEL n c).regs, clu := (wr t Fld.CLU_ARR_STATUS_LEVEL n c).clu } ∧
    level (wr t Fld.CLU_ARR_STATUS_LEVEL n c) c = n := by
  refine ⟨?_, rd_wr_same _ _ _ _ _ (by decide) hn⟩
  conv_lhs => rw [h]
  rfl

theorem levelStep_raises {s : State} {c : Nat} (hr : stepReady s c = true) (hl : level s c < 16) :
    levelStep s c = wr (if level s c > 0 then addDummy s c 16 else s) Fld.CLU_ARR_STATUS_LEVEL (level s c + 1) c := by
  unfold levelStep
  exact (if_pos hr).trans (if_pos hl)

theorem levelStep_lowers {s : State} {c : Nat} (hr : stepReady s c = false) (hl : 0 < level s c) :
    levelStep s c = wr (addDummy (gapTime s c 128) c 16) Fld.CLU_ARR_STATUS_LEVEL (level s c - 1) c := by
  unfold levelStep
  exact (if_neg (by rw [hr]; decide)).trans (if_pos hl)

theorem levelStep_stays {s : State} {c : Nat} (h : (stepReady s c = true ∧ level s c = 16) ∨ (stepReady s c = false ∧ level s c = 0)) :
    levelStep s c = s := by
  unfold levelStep
  obtain ⟨hr, hl⟩ | ⟨hr, hl⟩ := h
  · rw [if_pos hr, if_neg (by omega)]
  · rw [if_neg (by rw [hr]; decide), if_neg (by omega)]

/-! The statement -/

/-- Settles O18: drains, the status words by the tests that failed, the level, freeze mode and pre-emption. -/
theorem arrayDrainsAndControl : Obligations.ArrayDrainsAndControl := by
  unfold Obligations.ArrayDrainsAndControl
  refine ⟨fun s c => ⟨exec_drainStart_none, fun r hd hr => ?_, rfl⟩,
    fun s c f => ⟨exec_statusWordDeliver_none f, fun r hr => ⟨⟨fun hn => ?_, fun hn => ?_⟩, ?_, ?_⟩⟩,
    fun s c => ⟨fun hr hl => ?_, fun hr hl => ?_, fun h => congrArg Host.Outcome.next (levelStep_stays (s := quiet s) h), fun h => ?_,
      fun h => ?_, rfl, fun hp hb => ?_, fun h => ?_⟩⟩
  · have hdr := drainTile_drained (quiet s) c.val r
    refine ⟨_, exec_drainStart_some hd hr, ?_, fun d hd => (cl_modCl_other _ _ hd).trans (hdr.others d hd), ?_, hdr.fresh, hdr.mem.others⟩
    · unfold modCl setCl
      conv_lhs => rw [hdr.frame, hdr.mem.frame]
      rfl
    · rw [cl_modCl_same, hdr.own]
      exact replaceFirst_congr _ hr rfl
  · refine (exec_statusWordDeliver_some 0 hr rfl).trans (congrArg (fun x => Host.Outcome.next (setCl (quiet s) c.val x)) ?_)
    exact if_neg (Nat.not_le.2 hn)
  · refine (exec_statusWordDeliver_some 0 hr rfl).trans (congrArg (fun x => Host.Outcome.next (setCl (quiet s) c.val x)) ?_)
    exact if_pos hn
  · obtain ⟨hq, hc⟩ := recomputed_kept (quiet s) c.val r r.reported false
    refine ⟨_, _, exec_statusWordDeliver_some 1 hr (checkSub_once ..), drainQ_reported (s := s) r _ hq, check_checkWord _ _ _ (by decide), ?_, ?_⟩
    · rw [rd_modCl, rd_inc_cl _ _ _ _ (by decide) (by decide)]
      exact rd_flag_same _ _ _ _ (by decide) (by decide)
    · rw [rd_modCl, rd_inc_min _ _ _ _ (by decide), rd_flag_cl _ _ _ _ (by decide) (by decide), hc]
      rfl
  · obtain ⟨hq, -⟩ := recomputed_kept (quiet s) c.val r r.reported true
    obtain ⟨hf, hu⟩ := tileFailed_events (recomputed (quiet s) c.val r r.reported true).1 c.val (recompute (quiet s) c.val r r.reported).2
      r.reported (recomputed (quiet s) c.val r r.reported true).2.exact
    refine ⟨_, _, exec_statusWordDeliver_some 2 hr (checkSub_twice ..), drainQ_reported (s := s) r _ ?_, check_checkWord _ _ _ (by decide),
      hf, hu⟩
    rw [cl_tileFailed]
    exact hq
  · refine ⟨_, congrArg Host.Outcome.next (levelStep_raises (s := quiet s) hr hl), level_wr (s := quiet s) c.val _ ?_
      (Nat.lt_of_lt_of_le (Nat.succ_lt_succ hl) (by decide))⟩
    split <;> rfl
  · have hlt : level s c.val < 32 := rd_lt ..
    exact ⟨_, congrArg Host.Outcome.next (levelStep_lowers (s := quiet s) hr hl), level_wr (s := quiet s) c.val _ rfl
      (Nat.lt_of_le_of_lt (Nat.sub_le _ _) hlt)⟩
  · exact congrArg Host.Outcome.next (if_pos h)
  · exact congrArg Host.Outcome.next (if_neg (by rw [Bool.eq_false_iff] at h; exact h))
  · exact congrArg Host.Outcome.next (if_pos (by rw [Bool.and_eq_true]; exact ⟨hp, hb⟩))
  · refine congrArg Host.Outcome.next (if_neg ?_)
    rw [Bool.and_eq_true, not_and_or, Bool.not_eq_true, Bool.not_eq_true]
    exact h

end Sys2Proof.Machine
end

section
/-! PROOFS. Halves of operand lines and lines that stay half (O19). -/

namespace Sys2Proof.Machine

/-! A feeder's lines (R162, R218) -/

@[simp] theorem feeder_setFeeder_same (x : Cluster) (f : Nat) (y : Feeder) : feeder (setFeeder x f y) f = y := KMap.get_set_same _ _ _ _

/-- Which line is next does not turn on the skid buffer. -/
theorem neededFrom_skid (s : State) (c : Nat) (y : Feeder) (k : List Skid) : ∀ n i : Nat,
    neededFrom s c { y with skid := k } n i = neededFrom s c y n i
  | 0, _ => rfl
  | n + 1, i => by
    have hn : Feeder.next { y with skid := k } i = y.next i := rfl
    unfold neededFrom
    rw [hn]
    cases y.next i with
    | none => rfl
    | some d => simp only [neededFrom_skid s c y k n]

theorem nextLine_skid (s : State) (c : Nat) (y : Feeder) (k : List Skid) : nextLine s c { y with skid := k } = nextLine s c y :=
  neededFrom_skid ..

theorem neededFrom_congr {s t : State} (h : t.mem = s.mem) (c : Nat) (y : Feeder) : ∀ n i : Nat, neededFrom t c y n i = neededFrom s c y n i
  | 0, _ => rfl
  | n + 1, i => by
    have hl (d : FeedDesc) (k : Nat) : edgeLines t c d k = edgeLines s c d k := by
      unfold edgeLines edgeElems elemOffset listOffset
      rw [h]
    unfold neededFrom
    simp only [hl, neededFrom_congr h c y n]

/-- Which line is next turns on the scratchpads, where the lists of gathers lie. -/
theorem nextLine_congr {s t : State} (h : t.mem = s.mem) (c : Nat) (y : Feeder) : nextLine t c y = nextLine s c y := neededFrom_congr h c y _ _

/-! Lines released to the edge (R162) -/

/-- A line of which both halves have arrived. -/
def wholeSkid (l : Nat) (k : Skid) : Bool := decide (k.line = l ∧ k.lo ∧ k.hi)

theorem releaseLines_succ (s : State) (c n : Nat) (y : Feeder) : releaseLines s c (n + 1) y =
    match nextLine s c y with
    | none => y
    | some l =>
      match y.skid.find? (wholeSkid l) with
      | none => y
      | some k => releaseLines s c n { y with
          skid := y.skid.filter (fun j => j.line ≠ l)
          lines := KMap.set (fun _ => none) y.lines l (some (k.data, k.poison))
          lost := if k.lost then KSet.add y.lost l else y.lost } := rfl

/-- While no line is whole none is released. -/
theorem releaseLines_halves (s : State) (c : Nat) {y : Feeder} (h : ∀ k ∈ y.skid, (k.lo && k.hi) = false) :
    ∀ n, releaseLines s c n y = y
  | 0 => rfl
  | n + 1 => by
    rw [releaseLines_succ]
    split
    · rfl
    · next l _ =>
      have hn : y.skid.find? (wholeSkid l) = none := by
        rw [List.find?_eq_none]
        intro k hk hw
        obtain ⟨-, hlo, hhi⟩ := of_decide_eq_true hw
        have := h k hk
        rw [hlo, hhi] at this
        cases this
      rw [hn]

/-- Releases only take lines out of the skid buffer. -/
theorem mem_skid_releaseLines (s : State) (c : Nat) {j : Skid} : ∀ (n : Nat) (y : Feeder), j ∈ (releaseLines s c n y).skid → j ∈ y.skid
  | 0, _, h => h
  | n + 1, y, h => by
    rw [releaseLines_succ] at h
    split at h
    · exact h
    · split at h
      · exact h
      · exact (List.mem_filter.1 (mem_skid_releaseLines s c n _ h)).1

/-- The line next in turn, alone in the skid buffer and whole, is released to the edge. -/
theorem releaseLines_next {s : State} {c n : Nat} {y : Feeder} {k : Skid} (hs : y.skid = [k]) (hlo : k.lo = true) (hhi : k.hi = true)
    (hl : k.lost = false) (hn : nextLine s c y = some k.line) :
    releaseLines s c (n + 1) y = { y with skid := [], lines := KMap.set (fun _ => none) y.lines k.line (some (k.data, k.poison)) } := by
  have hw : wholeSkid k.line k = true := decide_eq_true ⟨rfl, hlo, hhi⟩
  rw [releaseLines_succ, hn, hs]
  simp only [List.find?_cons_of_pos hw, hl, Bool.false_eq_true, if_false]
  have hf : [k].filter (fun j => j.line ≠ k.line) = [] := List.filter_cons_of_neg (fun h => of_decide_eq_true h rfl)
  rw [hf]
  exact releaseLines_halves s c (fun _ h => absurd h List.not_mem_nil) n

/-- With its other half the line next in turn, alone in the skid buffer, goes to the edge with its data and poison. -/
theorem releaseLines_completed {s t : State} {c n : Nat} {y : Feeder} {k : Skid} (h : t.mem = s.mem) (hl : k.lost = false)
    (hn : nextLine s c y = some k.line) :
    (releaseLines t c (n + 1) { y with skid := [{ k with lo := true, hi := true }] }).skid = [] ∧
    KMap.get (fun _ => none) (releaseLines t c (n + 1) { y with skid := [{ k with lo := true, hi := true }] }).lines k.line =
      some (k.data, k.poison) := by
  rw [releaseLines_next (k := { k with lo := true, hi := true }) rfl rfl rfl hl ((nextLine_skid ..).trans ((nextLine_congr h ..).trans hn))]
  exact ⟨rfl, KMap.get_set_same ..⟩

/-! OPERAND_HALF_ARRIVE (R162) -/

/-- What is whole and next leaves stream f for the edge. -/
def settleLines (s : State) (c f : Nat) : State := modCl s c (fun x => setFeeder x f (releaseLines s c 64 (feeder x f)))

section Half

variable {s : State} {c : Fin 152} {f line : Nat} {hi : Bool} {ecc : Ecc}

theorem halfArrives_refused (hk : (feeder (cl s c.val) f).skid.find? (fun k => k.line = line) = none)
    (h : (KMap.get (fun _ => none) (feeder (cl s c.val) f).lines line).isSome = true ∨
      wantsLine s c.val (feeder (cl s c.val) f) line = false ∨ 64 ≤ queueLines (cl s c.val) f) : halfArrives s c f line hi ecc = s := by
  unfold halfArrives
  simp only [hk]
  refine if_pos ?_
  obtain h | h | h := h <;> simp [h]

/-- The first half of a line that can be read: the line is read whole. -/
theorem halfArrives_first {t : State} {d : BitVec 512} {p : Bool} (hk : (feeder (cl s c.val) f).skid.find? (fun k => k.line = line) = none)
    (hl : KMap.get (fun _ => none) (feeder (cl s c.val) f).lines line = none)
    (hw : wantsLine s c.val (feeder (cl s c.val) f) line = true) (hq : queueLines (cl s c.val) f < 64)
    (hr : readOperand s c line ecc = (t, .data d p)) :
    halfArrives s c f line hi ecc = settleLines (enterLine t c f line hi d p) c.val f := by
  unfold halfArrives
  simp only [hk, hl, hw, hr]
  exact if_neg (by simpa using hq)

/-- The other half of a line. -/
theorem halfArrives_second {k : Skid} (hk : (feeder (cl s c.val) f).skid.find? (fun k => k.line = line) = some k) (hl : k.lost = false) :
    halfArrives s c f line hi ecc = settleLines (modCl s c.val (fun x => setFeeder x f { feeder (cl s c.val) f with
      skid := (feeder (cl s c.val) f).skid.map (fun j => if j.line = line then halfSeen k hi else j) })) c.val f := by
  unfold halfArrives
  simp only [hk, hl]
  rfl

end Half

/-- A line that nothing holds back is read as the machine reads it. -/
theorem readOperand_open {s : State} {c : Fin 152} {line : Nat} (hlt : line < 2 ^ 58)
    (h : hashedOpen s (.cluster c) (BitVec.ofNat 64 (line * 64)) .lineRead = true) :
    readOperand s c line .clean = ((obtainLine s (offOf (BitVec.ofNat 64 (line * 64))) .clean).1,
      .data (peekLine s (offOf (BitVec.ofNat 64 (line * 64)))).1 (peekLine s (offOf (BitVec.ofNat 64 (line * 64)))).2) := by
  obtain ⟨hloc, hsp, hfit⟩ := hashedOpen_fits h
  have hal : offOf (BitVec.ofNat 64 (line * 64)) / 64 * 64 = offOf (BitVec.ofNat 64 (line * 64)) :=
    line_of_aligned (of_decide_eq_true hfit)
  have hfs : feedSpace s (line * 64) = true := by
    unfold feedSpace
    simp only [hloc, hsp]
    rfl
  have hacc := localAccess_hashedOpen .nobody .clean h
  rw [hsp] at hacc
  simp only [hashedOpen, Bool.and_eq_true, Bool.not_eq_true'] at h
  obtain ⟨⟨-, hheld⟩, hblk⟩ := h
  unfold readOperand
  rw [if_neg (by simp only [hfs, Bool.not_true, Bool.false_eq_true, or_false]; omega)]
  simp only [hsp, hheld, hblk, Bool.or_false, Bool.and_false, Bool.false_eq_true, if_false, hacc]
  unfold performHashed
  simp only [hal, obtainLine_clean_snd, lineOf_lineBytes]

/-- The half that a line lacks makes it whole, and changes nothing else of it. -/
theorem halfSeen_other {k : Skid} {hi : Bool} (hlo : k.lo = hi) (hhi : k.hi = !hi) : halfSeen k hi = { k with lo := true, hi := true } := by
  cases hi
  · exact congrArg (fun b => ({ k with lo := true, hi := b } : Skid)) hhi
  · exact congrArg (fun b => ({ k with lo := b, hi := true } : Skid)) hlo

/-! HALF_LINE_TIMEOUT (R163) -/

/-- A line lost is released with poison. -/
def lostSkid (k : Skid) : Skid := { k with poison := true, lost := true, lo := true, hi := true }

theorem halfLost_none {s : State} {c f line : Nat} (h : (feeder (cl s c) f).skid.find? (fun k => k.line = line ∧ k.lo ≠ k.hi) = none) :
    halfLost s c f line = s := by
  unfold halfLost
  simp only [h]

/-- The state with the line lost, what can be released released, and the event set; the record of R174 comes after. -/
def lineLost (s : State) (c f line : Nat) (k : Skid) : State :=
  flag (settleLines (modCl s c (fun x => setFeeder x f { feeder (cl s c) f with
    skid := (feeder (cl s c) f).skid.map (fun j => if j.line = line then lostSkid k else j) })) c f) Fld.CLU_ARR_EVENT_HALF_LOST c

theorem halfLost_some {s : State} {c f line : Nat} {k : Skid}
    (h : (feeder (cl s c) f).skid.find? (fun k => k.line = line ∧ k.lo ≠ k.hi) = some k) : ∃ n bank sub thin tag,
    halfLost s c f line = recordArr { lineLost s c f line k with fresh := n } c 2 bank sub thin tag := by
  unfold halfLost
  simp only [h]
  split
  · exact ⟨(lineLost s c f line k).fresh, _, _, _, _, rfl⟩
  · exact ⟨_, _, _, _, _, rfl⟩

theorem cl_settleLines (s : State) (c f : Nat) :
    feeder (cl (settleLines s c f) c) f = releaseLines s c 64 (feeder (cl s c) f) := by
  unfold settleLines
  rw [cl_modCl_same, feeder_setFeeder_same]

theorem mem_skid_lineLost {s : State} {c f line : Nat} {k j : Skid} (h : j ∈ (feeder (cl (lineLost s c f line k) c) f).skid)
    (hj : j.line = line) : j.lost = true ∧ j.poison = true := by
  unfold lineLost at h
  rw [cl_flag, cl_settleLines, cl_modCl_same, feeder_setFeeder_same] at h
  obtain ⟨i, -, rfl⟩ := List.mem_map.1 (mem_skid_releaseLines _ _ _ _ h)
  split at hj
  · next hi => rw [if_pos hi]; exact ⟨rfl, rfl⟩
  · next hi => exact absurd hj hi

/-! The statement -/

/-- Settles O19: the halves of a line in the order they come, and a line that stays half. -/
theorem operandLines : Obligations.OperandLines := by
  unfold Obligations.OperandLines
  refine ⟨fun s c f line hi ecc => ⟨fun hk h => ?_, fun hk hl hw hq ho he => ?_, fun k hk hline hlost hlo hhi hn => ?_⟩,
    fun s c f line => ⟨fun h => ?_, fun k hk => ?_⟩⟩
  · exact congrArg Host.Outcome.next (halfArrives_refused (s := quiet s) hk h)
  · subst he
    have hr := readOperand_open (s := quiet s) line.isLt ho
    have hfr := obtainLine_clean_frame (quiet s) (offOf (BitVec.ofNat 64 (line.toNat * 64)))
    have hcl (d : Nat) : cl (obtainLine (quiet s) (offOf (BitVec.ofNat 64 (line.toNat * 64))) .clean).1 d = cl s d := by rw [hfr]; rfl
    refine ⟨_, congrArg Host.Outcome.next (halfArrives_first (s := quiet s) (by rw [cl_quiet, hk]; rfl) hl hw hq hr), ?_, ?_, fun d hd => ?_⟩
    · unfold settleLines enterLine modCl setCl
      rw [hfr]
      rfl
    · rw [cl_settleLines]
      unfold enterLine
      rw [cl_modCl_same, feeder_setFeeder_same, hcl, hk, releaseLines_halves]
      · cases hi <;> rfl
      · intro k hk
        obtain rfl := List.mem_singleton.1 hk
        cases hi <;> rfl
    · exact (cl_modCl_other _ _ hd).trans ((cl_modCl_other _ _ hd).trans (hcl d))
  · have hfind : (feeder (cl s c.val) f.val).skid.find? (fun k => k.line = line.toNat) = some k := by rw [hk]; simp [hline]
    have hmap : (feeder (cl s c.val) f.val).skid.map (fun j => if j.line = line.toNat then halfSeen k hi else j) =
        [{ k with lo := true, hi := true }] := by
      rw [hk]; simp [hline, halfSeen_other hlo hhi]
    refine ⟨_, congrArg Host.Outcome.next (halfArrives_second (s := quiet s) hfind hlost), rfl, ?_⟩
    rw [cl_settleLines, cl_modCl_same, feeder_setFeeder_same, cl_quiet, hmap, ← hline]
    exact releaseLines_completed (s := s) (n := 63) rfl hlost (hn.trans (congrArg some hline.symm))
  · exact congrArg Host.Outcome.next (halfLost_none (s := quiet s) h)
  · obtain ⟨n, bank, sub, thin, tag, he⟩ := halfLost_some (s := quiet s) hk
    refine ⟨_, congrArg Host.Outcome.next he, ?_, ?_, ?_⟩
    · rw [recordArr_frame]
      rfl
    · rw [rd_recordArr_other _ _ _ _ _ _ _ (by decide) (by decide) (by decide)]
      exact rd_flag_same _ _ _ _ (by decide) (by decide)
    · rw [recordArr_frame]
      exact fun j hj hl => mem_skid_lineLost hj hl

end Sys2Proof.Machine
end

section
/-! SUPPORT. Loads that reach their register, and the lines of a DMA copied between scratchpads (R194, R225). -/

namespace Sys2Proof.Machine

/-! A register written by a load (R225) -/

theorem mem_markSet (l : KSet) (n : Nat) (p : Bool) : n ∈ markSet l n p ↔ p = true := by
  cases p
  · simp [markSet, KSet.mem_del]
  · simp [markSet, KSet.mem_add]

/-- A load writes registers and their poison marks alone. -/
theorem writeLoaded_frame (x : Cluster) (dst : RegRef) (b : List Byte) (p : Bool) : writeLoaded x dst b p = { x with
    sregs := (writeLoaded x dst b p).sregs
    vregs := (writeLoaded x dst b p).vregs
    pregs := (writeLoaded x dst b p).pregs
    spoison := (writeLoaded x dst b p).spoison
    vpoison := (writeLoaded x dst b p).vpoison
    ppoison := (writeLoaded x dst b p).ppoison } := by
  cases dst with
  | s n => unfold writeLoaded setS; dsimp only; split <;> rfl
  | p n => unfold writeLoaded setP; dsimp only; split <;> rfl
  | v n | vPiece n i => rfl

theorem get_setS (x : Cluster) (m v : Nat) (p : Bool) (n : Nat) : KMap.get (fun _ => 0#64) (setS x m v p).sregs n =
    if m = n ∧ n ≠ 0 then BitVec.ofNat 64 v else KMap.get (fun _ => 0#64) x.sregs n := by
  unfold setS
  split
  · next h => rw [if_neg (by omega)]
  · next h => exact (KMap.get_set _ _ _ _ _).trans (if_congr (by omega) rfl rfl)

theorem get_setP (x : Cluster) (m v : Nat) (p : Bool) (n : Nat) : KMap.get (fun _ => 0#64) (setP x m v p).pregs n =
    if m = n ∧ n ≠ 0 then BitVec.ofNat 64 v else KMap.get (fun _ => 0#64) x.pregs n := by
  unfold setP
  split
  · next h => rw [if_neg (by omega)]
  · next h => exact (KMap.get_set _ _ _ _ _).trans (if_congr (by omega) rfl rfl)

theorem setS_pregs (x : Cluster) (m v : Nat) (p : Bool) : (setS x m v p).pregs = x.pregs := by unfold setS; split <;> rfl
theorem setS_vregs (x : Cluster) (m v : Nat) (p : Bool) : (setS x m v p).vregs = x.vregs := by unfold setS; split <;> rfl
theorem setP_sregs (x : Cluster) (m v : Nat) (p : Bool) : (setP x m v p).sregs = x.sregs := by unfold setP; split <;> rfl
theorem setP_vregs (x : Cluster) (m v : Nat) (p : Bool) : (setP x m v p).vregs = x.vregs := by unfold setP; split <;> rfl

/-- s0 discards a write; a load to another scalar register gives it the data, and no other register changes. -/
theorem sregs_writeLoaded (x : Cluster) (dst : RegRef) (b : List Byte) (p : Bool) (n : Nat) :
    KMap.get (fun _ => 0#64) (writeLoaded x dst b p).sregs n =
      if dst = .s n ∧ n ≠ 0 then BitVec.ofNat 64 (leNat b) else KMap.get (fun _ => 0#64) x.sregs n := by
  cases dst with
  | s m => simp only [writeLoaded, get_setS, RegRef.s.injEq]
  | p m => simp only [writeLoaded, setP_sregs, reduceCtorEq, false_and, if_false]
  | v m | vPiece m i => exact (if_neg (by simp)).symm

/-- p0 discards a write; a load to another predicate gives it the data, and no other predicate changes. -/
theorem pregs_writeLoaded (x : Cluster) (dst : RegRef) (b : List Byte) (p : Bool) (n : Nat) :
    KMap.get (fun _ => 0#64) (writeLoaded x dst b p).pregs n =
      if dst = .p n ∧ n ≠ 0 then BitVec.ofNat 64 (leNat b) else KMap.get (fun _ => 0#64) x.pregs n := by
  cases dst with
  | s m => simp only [writeLoaded, setS_pregs, reduceCtorEq, false_and, if_false]
  | p m => simp only [writeLoaded, get_setP, RegRef.p.injEq]
  | v m | vPiece m i => exact (if_neg (by simp)).symm

theorem vregs_writeLoaded_other (x : Cluster) {dst : RegRef} (b : List Byte) (p : Bool) {n : Nat} (h : ∀ i, dst ≠ .v n ∧ dst ≠ .vPiece n i) :
    KMap.get (fun _ => 0#2048) (writeLoaded x dst b p).vregs n = KMap.get (fun _ => 0#2048) x.vregs n := by
  cases dst with
  | s m => simp only [writeLoaded, setS_vregs]
  | p m => simp only [writeLoaded, setP_vregs]
  | v m => exact KMap.get_set_other _ _ _ fun e => (h 0).1 (e ▸ rfl)
  | vPiece m i => exact KMap.get_set_other _ _ _ fun e => (h i).2 (e ▸ rfl)

theorem mem_spoison_setS (x : Cluster) {n : Nat} (v : Nat) (p : Bool) (h : n ≠ 0) : n ∈ (setS x n v p).spoison ↔ p = true := by
  unfold setS
  rw [if_neg h]
  exact mem_markSet _ _ _

theorem mem_ppoison_setP (x : Cluster) {n : Nat} (v : Nat) (p : Bool) (h : n ≠ 0) : n ∈ (setP x n v p).ppoison ↔ p = true := by
  unfold setP
  rw [if_neg h]
  exact mem_markSet _ _ _

/-! Lines copied between scratchpads -/

/-- The scratchpads once `n` lines at `i`, `x` have been copied to `j`, `y`, one after another. -/
def copyLines (m : Memory) (i x j y n : Nat) : Memory :=
  (List.range n).foldl (fun m k => spadWrite m j (y + 64 * k) (spadBytes m i (x + 64 * k) 64) false) m

theorem copyLines_succ (m : Memory) (i x j y n : Nat) : copyLines m i x j y (n + 1) =
    spadWrite (copyLines m i x j y n) j (y + 64 * n) (spadBytes (copyLines m i x j y n) i (x + 64 * n) 64) false := by
  unfold copyLines
  rw [List.range_succ, List.foldl_append]
  rfl

theorem copyLines_frame (m : Memory) (i x j y : Nat) : ∀ n,
    copyLines m i x j y n = { m with spad := (copyLines m i x j y n).spad, spadPoison := (copyLines m i x j y n).spadPoison }
  | 0 => rfl
  | n + 1 => by
    rw [copyLines_succ, copyLines_frame m i x j y n]
    rfl

theorem length_spadBytes (m : Memory) (c x n : Nat) : (spadBytes m c x n).length = n := KMap.length_getSeq _ _ _ _

/-- Clean data marks no block. -/
theorem spadPoisoned_clean_spadWrite {m : Memory} {c x : Nat} {bs : List Byte} {d o n : Nat} (h : spadPoisoned m d o n = false) :
    spadPoisoned (spadWrite m c x bs false) d o n = false := by
  simp only [spadPoisoned, List.any_eq_false, decide_eq_true_eq] at h ⊢
  exact fun b hb hm => h b hb ((mem_foldl_del _ _ _).1 hm).1

theorem spadPoisoned_copyLines {m : Memory} (i x j y : Nat) {d o n : Nat} (h : spadPoisoned m d o n = false) : ∀ k,
    spadPoisoned (copyLines m i x j y k) d o n = false
  | 0 => h
  | k + 1 => by
    rw [copyLines_succ]
    exact spadPoisoned_clean_spadWrite (spadPoisoned_copyLines i x j y h k)

theorem KMap.getD_getSeq {α : Type} (d : Nat → α) (m : KMap α) (a : α) : ∀ {n i : Nat} (k : Nat), i < n →
    (KMap.getSeq d m k n).getD i a = KMap.get d m (k + i)
  | n + 1, 0, k, _ => rfl
  | n + 1, i + 1, k, h => by
    rw [KMap.getSeq, List.getD_cons_succ, KMap.getD_getSeq d m a (k + 1) (Nat.lt_of_succ_lt_succ h), Nat.add_right_comm, Nat.add_assoc]

/-- Ranges that do not overlap are copied byte by byte, and no other byte changes. -/
theorem get_copyLines (m : Memory) {i x j y n : Nat} (h : i * 2 ^ 22 + x + 64 * n ≤ j * 2 ^ 22 + y ∨ j * 2 ^ 22 + y + 64 * n ≤ i * 2 ^ 22 + x)
    (k : Nat) : KMap.get (fun _ => 0#8) (copyLines m i x j y n).spad k =
      if j * 2 ^ 22 + y ≤ k ∧ k < j * 2 ^ 22 + y + 64 * n then KMap.get (fun _ => 0#8) m.spad (i * 2 ^ 22 + x + (k - (j * 2 ^ 22 + y)))
      else KMap.get (fun _ => 0#8) m.spad k := by
  induction n generalizing k with
  | zero => rw [if_neg (by omega)]; rfl
  | succ n ih =>
    have ih' := ih (by omega)
    rw [copyLines_succ, get_spadWrite, length_spadBytes]
    by_cases hk : j * 2 ^ 22 + (y + 64 * n) ≤ k ∧ k < j * 2 ^ 22 + (y + 64 * n) + 64
    · rw [if_pos hk, if_pos (by omega), spadBytes, KMap.getD_getSeq _ _ _ _ (by omega), ih', if_neg (by omega)]
      congr 1
      omega
    · rw [if_neg hk, ih']
      exact if_congr (by omega) rfl rfl

end Sys2Proof.Machine
end

section
/-! SUPPORT. A DMA between scratchpads: each line read goes to its destination, and nothing else changes (R194). -/

namespace Sys2Proof.Machine

/-- An element is found by a number that no other element has. -/
theorem find?_of_nodup {α : Type} {g : α → Nat} {d : α} : ∀ {l : List α}, (l.map g).Nodup → d ∈ l →
    l.find? (fun e => decide (g e = g d)) = some d
  | e :: l, hn, hd => by
    rw [List.map_cons, List.nodup_cons] at hn
    obtain rfl | hd := List.mem_cons.1 hd
    · exact List.find?_cons_of_pos (decide_eq_true rfl)
    · have hne : g e ≠ g d := fun h => hn.1 (h ▸ List.mem_map_of_mem hd)
      rw [List.find?_cons_of_neg (by simpa using hne), find?_of_nodup hn.2 hd]

/-- An access to a scratchpad window that meets no error, by what it does there. -/
theorem access_scratchOpen {s t : State} {who : Requester} {a : GAddr} {kind : AccessKind} {c x : Nat} {ecc : Ecc} {ans : Answer} (o : Origin)
    (h : scratchOpen s who a kind c x = true) (hp : performWindow s (offOf a) c x kind ecc = (t, ans, none)) (hr : ans ≠ .retry) :
    access s o who a kind ecc = (t, ans) := by
  obtain ⟨hl, hsp⟩ := isLocal_scratchOpen h
  unfold access
  simp only [hl, Bool.not_true, Bool.false_eq_true, if_false, localAccess_scratchOpen o ecc h, hp]
  rw [if_neg (by omega)]

/-- Line `k` of a cluster's DMA is read and written without an error: from scratchpad `i` at `x` on to scratchpad `j` at `y` on. -/
structure DmaLineOpen (s : State) (c : Fin 152) (src dst i x j y k : Nat) : Prop where
  read : scratchOpen s (.cluster c) (BitVec.ofNat 64 (src + 64 * k)) .lineRead i (x + 64 * k) = true
  clean : spadPoisoned s.mem i (x + 64 * k) 64 = false
  write : scratchOpen s (.cluster c) (BitVec.ofNat 64 (dst + 64 * k)) (.lineWrite 0 false) j (y + 64 * k) = true
  free : padFree s (BitVec.ofNat 64 (dst + 64 * k)) = true

/-- It stays so while the clusters' descriptors and the scratchpads' bytes change. -/
theorem DmaLineOpen.congr {s t : State} {c : Fin 152} {src dst i x j y k : Nat} (h : DmaLineOpen s c src dst i x j y k) (hi : t.img = s.img)
    (hr : t.regs = s.regs) (hb : t.mem.bounds = s.mem.bounds) (hd : t.mem.reductions = s.mem.reductions)
    (hc : spadPoisoned t.mem i (x + 64 * k) 64 = false) : DmaLineOpen t c src dst i x j y k :=
  ⟨(scratchOpen_congr hi hb (rd_congr hr _ _ _) (rd_congr hr _ _ _) _ _ _ _).trans h.read, hc,
    (scratchOpen_congr hi hb (rd_congr hr _ _ _) (rd_congr hr _ _ _) _ _ _ _).trans h.write,
    (padFree_congr hi hd (rd_congr hr _ _ _) _).trans h.free⟩

theorem accessFor_dmaLine {s : State} {c : Fin 152} {d : Dma} {i x j y k : Nat} (h : DmaLineOpen s c d.src d.dst i x j y k) {e : Dma}
    (he : (cl s c.val).dma.find? (fun f => f.id = d.id) = some e) (hdst : e.dst = d.dst) :
    accessFor s (.dma c.val d.id (some k)) (.cluster c) (BitVec.ofNat 64 (d.src + 64 * k)) .lineRead .clean =
      { s with mem := spadWrite s.mem j (y + 64 * k) (spadBytes s.mem i (x + 64 * k) 64) false } := by
  obtain ⟨hread, hclean, hwrite, hfree⟩ := h
  have hr : access s (.dma c.val d.id (some k)) (.cluster c) (BitVec.ofNat 64 (d.src + 64 * k)) .lineRead .clean =
      (s, .data (spadBytes s.mem i (x + 64 * k) 64) false) := by
    refine access_scratchOpen _ hread ?_ (by simp)
    unfold performWindow
    simp only [spadRead_clean, hclean]
    rfl
  have hw (b : BitVec 512) : access s (.dma c.val d.id none) (.cluster c) (BitVec.ofNat 64 (d.dst + 64 * k)) (.lineWrite b false) .clean =
      ({ s with mem := spadWrite s.mem j (y + 64 * k) (lineBytes b) false }, .done) := by
    refine access_scratchOpen _ hwrite ?_ (by decide)
    unfold performWindow
    simp only [padFree_closed hwrite hfree, Bool.false_eq_true, if_false]
  unfold accessFor
  rw [hr]
  unfold deliver
  simp only [he, hdst, Fin.ofNat_val_eq_self, hw, lineBytes_lineOf (length_spadBytes _ _ _ _)]
  rfl

/-- The lines of a DMA are copied one after another. -/
theorem foldl_dmaLines {s : State} {c : Fin 152} {d : Dma} {i x j y : Nat} {e : Dma}
    (he : (cl s c.val).dma.find? (fun f => f.id = d.id) = some e) (hdst : e.dst = d.dst) : ∀ n, (∀ k < n, DmaLineOpen s c d.src d.dst i x j y k) →
    (List.range n).foldl (fun s k => accessFor s (.dma c.val d.id (some k)) (.cluster c) (BitVec.ofNat 64 (d.src + 64 * k)) .lineRead .clean) s =
      { s with mem := copyLines s.mem i x j y n }
  | 0, _ => rfl
  | n + 1, h => by
    have hn := h n (Nat.lt_succ_self n)
    have hm := copyLines_frame s.mem i x j y n
    have hopen : DmaLineOpen { s with mem := copyLines s.mem i x j y n } c d.src d.dst i x j y n :=
      hn.congr rfl rfl (by rw [hm]) (by rw [hm]) (spadPoisoned_copyLines _ _ _ _ hn.clean _)
    rw [List.range_succ, List.foldl_append, foldl_dmaLines he hdst n fun k hk => h k (by omega), copyLines_succ]
    exact accessFor_dmaLine (s := { s with mem := copyLines s.mem i x j y n }) hopen he hdst

/-- The descriptors with the lines of one read. -/
def markMoved (l : List Dma) (id : Nat) : List Dma := l.map (fun e => if e.id = id then { e with moved := true } else e)

theorem map_id_markMoved (l : List Dma) (id : Nat) : (markMoved l id).map (·.id) = l.map (·.id) := by
  unfold markMoved
  rw [List.map_map]
  refine List.map_congr_left fun e _ => ?_
  dsimp only [Function.comp_apply]
  split <;> rfl

theorem find?_markMoved {l : List Dma} {d : Dma} (hn : (l.map (·.id)).Nodup) (hd : d ∈ l) :
    (markMoved l d.id).find? (fun e => e.id = d.id) = some { d with moved := true } := by
  refine find?_of_nodup (g := (·.id)) (d := { d with moved := true }) ((map_id_markMoved l d.id).symm ▸ hn) ?_
  exact List.mem_map.2 ⟨d, hd, if_pos rfl⟩

/-- A DMA whose accesses have all completed, and that has nothing to count, leaves the queue. -/
theorem finishDma_uncounted {s : State} {c : Fin 152} {id : Nat} {d : Dma} (hd : (cl s c.val).dma.find? (fun e => e.id = id) = some d)
    (ho : dmaOpen s c.val id = false) (hc : d.cpl = 0 ∨ d.failed = true) :
    finishDma s c id = modCl s c.val (fun x => { x with dma := x.dma.filter (fun e => e.id ≠ id) }) := by
  unfold finishDma
  simp only [hd, ho, Bool.false_eq_true, if_false, if_pos hc]

theorem finishDma_open {s : State} {c : Fin 152} {id : Nat} (ho : dmaOpen s c.val id = true) : finishDma s c id = s := by
  unfold finishDma
  split
  · rfl
  · exact if_pos ho

theorem exec_dmaComplete_none {s : State} {c : Fin 152} {index : Nat} (ecc : Ecc) (h : (cl s c.val).dma[index]? = none) :
    exec (.dmaComplete c index ecc) s = .next (quiet s) := by
  show execDmaComplete c index ecc s = _
  unfold execDmaComplete
  simp only [cl_quiet, h]

theorem exec_dmaComplete_some {s : State} {c : Fin 152} {index : Nat} {d : Dma} (ecc : Ecc) (h : (cl s c.val).dma[index]? = some d) :
    exec (.dmaComplete c index ecc) s = .next (finishDma (if d.moved then quiet s else moveDma (quiet s) c d ecc) c d.id) := by
  show execDmaComplete c index ecc s = _
  unfold execDmaComplete
  simp only [cl_quiet, h]

/-- The state once a DMA between scratchpads has moved its lines and left the queue. -/
def dmaCopied (s : State) (c : Fin 152) (d : Dma) (i x j y : Nat) : State :=
  modCl { modCl (quiet s) c.val (fun x => { x with dma := markMoved x.dma d.id }) with mem := copyLines s.mem i x j y (d.len / 64) } c.val
    (fun x => { x with dma := x.dma.filter (fun e => e.id ≠ d.id) })

theorem exec_dmaComplete_moves {s : State} {c : Fin 152} {index : Nat} {d : Dma} {i x j y : Nat} (h : (cl s c.val).dma[index]? = some d)
    (hn : ((cl s c.val).dma.map (·.id)).Nodup) (hm : d.moved = false) (ho : dmaOpen s c.val d.id = false) (hc : d.cpl = 0)
    (hl : ∀ k < d.len / 64, DmaLineOpen s c d.src d.dst i x j y k) :
    exec (.dmaComplete c index .clean) s = .next (dmaCopied s c d i x j y) := by
  have hfind := find?_markMoved hn (List.mem_of_getElem? h)
  have hcl : cl (modCl (quiet s) c.val (fun x => { x with dma := markMoved x.dma d.id })) c.val =
      { cl s c.val with dma := markMoved (cl s c.val).dma d.id } := cl_modCl_same _ _ _
  have hmove : moveDma (quiet s) c d .clean =
      { modCl (quiet s) c.val (fun x => { x with dma := markMoved x.dma d.id }) with mem := copyLines s.mem i x j y (d.len / 64) } :=
    foldl_dmaLines (s := modCl (quiet s) c.val (fun x => { x with dma := markMoved x.dma d.id })) (e := { d with moved := true })
      (by rw [hcl]; exact hfind) rfl _ fun k hk => (hl k hk).congr rfl rfl rfl rfl (hl k hk).clean
  have hopen (m : Memory) (hw : m.waiting = s.mem.waiting) :
      dmaOpen { modCl (quiet s) c.val (fun x => { x with dma := markMoved x.dma d.id }) with mem := m } c.val d.id = false := by
    rw [← ho]
    unfold dmaOpen
    simp only [hw]
    rfl
  rw [exec_dmaComplete_some _ h, hm, if_neg Bool.false_ne_true, hmove]
  refine congrArg Host.Outcome.next (finishDma_uncounted (d := { d with moved := true }) ?_ (hopen _ ?_) (.inl hc))
  · exact (congrArg (fun z : Cluster => z.dma.find? (fun e => e.id = d.id)) hcl).trans hfind
  · rw [copyLines_frame]

theorem dmaCopied_frame (s : State) (c : Fin 152) (d : Dma) (i x j y : Nat) : dmaCopied s c d i x j y = { s with
    out := []
    clu := (dmaCopied s c d i x j y).clu
    mem := { s.mem with spad := (dmaCopied s c d i x j y).mem.spad, spadPoison := (dmaCopied s c d i x j y).mem.spadPoison } } := by
  unfold dmaCopied
  rw [copyLines_frame]
  rfl

theorem cl_dmaCopied (s : State) (c : Fin 152) (d : Dma) (i x j y : Nat) : cl (dmaCopied s c d i x j y) c.val =
    { cl s c.val with dma := (markMoved (cl s c.val).dma d.id).filter (fun e => e.id ≠ d.id) } := by
  have hcl : cl (modCl (quiet s) c.val (fun x => { x with dma := markMoved x.dma d.id })) c.val =
      { cl s c.val with dma := markMoved (cl s c.val).dma d.id } := cl_modCl_same _ _ _
  exact (cl_modCl_same _ _ _).trans (congrArg (fun z : Cluster => { z with dma := z.dma.filter (fun e => e.id ≠ d.id) }) hcl)

/-- The numbers of the descriptors that stay. -/
theorem map_id_dmaCopied (s : State) (c : Fin 152) (d : Dma) (i x j y : Nat) : (cl (dmaCopied s c d i x j y) c.val).dma.map (·.id) =
    ((cl s c.val).dma.map (·.id)).filter (fun e => decide (e ≠ d.id)) := by
  rw [cl_dmaCopied, ← map_id_markMoved (cl s c.val).dma d.id, List.filter_map]
  rfl

end Sys2Proof.Machine
end

section
/-! SUPPORT. Invalidation of cached table lines: its START, and what it drops once nothing translates through an old entry (R238). -/

namespace Sys2Proof.Machine

/-! TINV_START -/

/-- A plain write leaves the fields of other registers alone. -/
theorem rd_plainWrite_other (s : State) {off : Nat} (v : BitVec 32) (h : noValid off) {f : Field} {i j : Nat} (hf : f.addr i j ≠ off) :
    rd (plainWrite s off v) f i j = rd s f i j := by
  unfold rd Regs.getF
  rw [plainWrite_regs s v h, Regs.read_swWrite_other _ _ hf]

theorem plainWrite_frame (s : State) (off : Nat) (v : BitVec 32) : plainWrite s off v =
    { s with regs := (plainWrite s off v).regs, irq := { s.irq with active := (plainWrite s off v).irq.active } } := rfl

/-- TINV_START reaches HUB_TINV_CTRL as a write of START and KIND. -/
theorem exec_tinvStart_hub {s : State} {who : Requester} (kind : BitVec 2) (ho : hubOpen s who = true) : exec (.tinvStart who kind) s =
    .next (reply (if mayImage who then tinvStart (plainWrite (quiet s) Reg.HUB_TINV_CTRL (BitVec.ofNat 32 (1 + 2 * kind.toNat))) kind.toNat
      else quiet s) who .done) := by
  have hbits : ∀ k : BitVec 2, bit (BitVec.ofNat 32 (1 + 2 * k.toNat)) 0 = true ∧ getBits (BitVec.ofNat 32 (1 + 2 * k.toNat)) 1 2 = k.toNat := by
    decide
  obtain ⟨hs, hk⟩ := hbits kind
  refine (writeCmd_hub s who (1 + 2 * kind.toNat) ho (by decide)).trans ?_
  rw [writeReg_hub _ _ _ _ (by decide)]
  unfold writeHub
  simp only [hs, hk, if_true]
  rfl

theorem tinvStart_ignored {s : State} {kind : Nat} (h : rd s Fld.HUB_TINV_STATUS_BUSY = 1 ∨
    tinvKey kind (rd64 s Fld.HUB_TINV_KEY_LO_KEY Fld.HUB_TINV_KEY_HI_KEY) = false) : tinvStart s kind = flag s Fld.HUB_TINV_STATUS_IGNORED :=
  if_pos h

theorem tinvStart_begins {s : State} {kind : Nat} (hb : rd s Fld.HUB_TINV_STATUS_BUSY ≠ 1)
    (hk : tinvKey kind (rd64 s Fld.HUB_TINV_KEY_LO_KEY Fld.HUB_TINV_KEY_HI_KEY) = true) : tinvStart s kind =
      { wr (flag s Fld.HUB_TINV_STATUS_BUSY) Fld.HUB_TINV_STATUS_DONE 0 with
        kvm := { s.kvm with tinv := some (kind, rd64 s Fld.HUB_TINV_KEY_LO_KEY Fld.HUB_TINV_KEY_HI_KEY) } } :=
  if_neg (by rw [hk]; simpa using hb)

theorem tinvStart_frame (s : State) (kind : Nat) : tinvStart s kind =
    { s with regs := (tinvStart s kind).regs, kvm := { s.kvm with tinv := (tinvStart s kind).kvm.tinv } } := by
  unfold tinvStart
  dsimp only
  split <;> rfl

/-! TINV_DONE -/

/-- The table lines that an invalidation leaves. -/
def linesKept (kind key : Nat) (l : List CachedLine) : List CachedLine := l.filter (fun x => !tinvHits kind key x)

/-- The hub's own lines dropped. -/
def dropLines (s : State) (kind key : Nat) : State :=
  { s with kvm := { s.kvm with
    tinv := none
    walk := linesKept kind key s.kvm.walk
    leafCache := (s.kvm.leafCache.map (fun x => (x.1, linesKept kind key x.2))).filter (fun x => x.2 ≠ []) } }

/-- The translations of a host port that an invalidation names dropped. -/
def dropPort (kind key : Nat) (s : State) (p : Nat) : State :=
  if kind = 3 ∨ (kind = 2 ∧ p = key) then setHport s p { hport s p with cache := [] } else s

theorem dropPort_frame (kind key : Nat) (s : State) (p : Nat) : dropPort kind key s p = { s with hpt := (dropPort kind key s p).hpt } := by
  unfold dropPort
  split <;> rfl

theorem hport_dropPort (kind key : Nat) (s : State) (p q : Nat) : hport (dropPort kind key s p) q =
    if q = p ∧ (kind = 3 ∨ kind = 2 ∧ q = key) then { hport s q with cache := [] } else hport s q := by
  unfold dropPort
  by_cases hk : kind = 3 ∨ kind = 2 ∧ p = key
  · rw [if_pos hk]
    by_cases hq : q = p
    · subst hq
      rw [hport_setHport_same, if_pos ⟨rfl, hk⟩]
    · rw [hport_setHport_other _ _ hq, if_neg fun e => hq e.1]
  · rw [if_neg hk, if_neg]
    rintro ⟨rfl, h⟩
    exact hk h

/-- The lines and the translations that an invalidation names dropped. -/
def dropTables (s : State) (kind key : Nat) : State := dropPort kind key (dropPort kind key (dropLines s kind key) 0) 1

theorem dropTables_frame (s : State) (kind key : Nat) :
    dropTables s kind key = { dropLines s kind key with hpt := (dropTables s kind key).hpt } := by
  unfold dropTables
  rw [dropPort_frame, dropPort_frame kind key (dropLines s kind key) 0]

theorem hport_dropTables (s : State) (kind key : Nat) {p : Nat} (hp : p < 2) : hport (dropTables s kind key) p =
    if kind = 3 ∨ kind = 2 ∧ p = key then { hport s p with cache := [] } else hport s p := by
  have hs (q : Nat) : hport (dropLines s kind key) q = hport s q := rfl
  unfold dropTables
  rw [hport_dropPort, hport_dropPort, hs]
  obtain rfl | rfl : p = 0 ∨ p = 1 := by omega
  · rw [if_neg (by simp)]
    simp only [true_and]
  · simp only [true_and, Nat.one_ne_zero, false_and, if_false]

theorem exec_tinvDone_idle {s : State} (h : s.kvm.tinv = none) : exec .tinvDone s = .next (quiet s) := by
  show execTinvDone s = _
  unfold execTinvDone
  simp only [quiet_kvm, h]

theorem exec_tinvDone_pending {s : State} {kind key : Nat} (h : s.kvm.tinv = some (kind, key)) (hp : tinvPending s kind key = true) :
    exec .tinvDone s = .next (quiet s) := by
  have hp' : tinvPending (quiet s) kind key = true := hp
  show execTinvDone s = _
  unfold execTinvDone
  simp only [quiet_kvm, h, hp', if_true]

theorem exec_tinvDone_drops {s : State} {kind key : Nat} (h : s.kvm.tinv = some (kind, key)) (hp : tinvPending s kind key = false) :
    exec .tinvDone s =
      .next (flag (wr (dropTables (quiet s) kind key) Fld.HUB_TINV_STATUS_BUSY 0) Fld.HUB_TINV_STATUS_DONE) := by
  have hp' : tinvPending (quiet s) kind key = false := hp
  show execTinvDone s = _
  unfold execTinvDone
  simp only [quiet_kvm, h, hp', Bool.false_eq_true, if_false]
  rfl

end Sys2Proof.Machine
end

section
/-! PROOFS. Completions of loads and DMA, and table invalidation (O22). -/

namespace Sys2Proof.Machine

/-! LOAD_COMPLETE (R225) -/

theorem exec_loadComplete_none {s : State} {c : Fin 152} {index : Nat} (h : (cl s c.val).loads[index]? = none) :
    exec (.loadComplete c index) s = .next (quiet s) := by
  show execLoadComplete c index s = _
  unfold execLoadComplete
  simp only [cl_quiet, h]

theorem exec_loadComplete_some {s : State} {c : Fin 152} {index : Nat} {l : PendLoad} (h : (cl s c.val).loads[index]? = some l) :
    exec (.loadComplete c index) s = .next (if loadDone l then modCl (quiet s) c.val (fun x =>
      writeLoaded { x with loads := x.loads.filter (fun k => k.id ≠ l.id) } l.dst (loadBytes l).1 (loadBytes l).2) else quiet s) := by
  show execLoadComplete c index s = _
  unfold execLoadComplete
  simp only [cl_quiet, h]

/-- The poison of a load's data marks its register. -/
theorem poison_writeLoaded (x : Cluster) (dst : RegRef) (b : List Byte) (p : Bool) :
    (∀ n, dst = .s n → n ≠ 0 → (n ∈ (writeLoaded x dst b p).spoison ↔ p = true)) ∧
    (∀ n, dst = .v n → (n ∈ (writeLoaded x dst b p).vpoison ↔ p = true)) ∧
    (∀ n, dst = .p n → n ≠ 0 → (n ∈ (writeLoaded x dst b p).ppoison ↔ p = true)) := by
  refine ⟨fun n h hn => ?_, fun n h => ?_, fun n h hn => ?_⟩ <;> subst h
  · exact mem_spoison_setS x _ p hn
  · exact mem_markSet _ _ _
  · exact mem_ppoison_setP x _ p hn

/-! TINV_START and TINV_DONE (R238) -/

section Start

variable {s : State} {who : Requester} {kind : BitVec 2} (ho : hubOpen s who = true)

include ho

theorem exec_tinvStart_denied (hm : mayImage who = false) : exec (.tinvStart who kind) s = .next { s with out := [⟨some who, .done⟩] } := by
  rw [exec_tinvStart_hub kind ho, hm]
  rfl

theorem exec_tinvStart_allowed (hm : mayImage who = true) : exec (.tinvStart who kind) s =
    .next (reply (tinvStart (plainWrite (quiet s) Reg.HUB_TINV_CTRL (BitVec.ofNat 32 (1 + 2 * kind.toNat))) kind.toNat) who .done) := by
  rw [exec_tinvStart_hub kind ho, hm, if_pos rfl]

end Start

/-- What a START of an invalidation leaves. -/
theorem tinvStart_status (s : State) (v : BitVec 32) (kind : Nat) :
    let key := rd64 s Fld.HUB_TINV_KEY_LO_KEY Fld.HUB_TINV_KEY_HI_KEY
    let t := tinvStart (plainWrite s Reg.HUB_TINV_CTRL v) kind
    (rd s Fld.HUB_TINV_STATUS_BUSY = 1 ∨ tinvKey kind key = false → rd t Fld.HUB_TINV_STATUS_IGNORED = 1 ∧ t.kvm.tinv = s.kvm.tinv) ∧
    (rd s Fld.HUB_TINV_STATUS_BUSY ≠ 1 → tinvKey kind key = true → t.kvm.tinv = some (kind, key) ∧
      rd t Fld.HUB_TINV_STATUS_BUSY = 1 ∧ rd t Fld.HUB_TINV_STATUS_DONE = 0) := by
  have hrd {f : Field} (hf : f.addr ≠ Reg.HUB_TINV_CTRL) : rd (plainWrite s Reg.HUB_TINV_CTRL v) f = rd s f :=
    rd_plainWrite_other s v (by decide) hf
  have hkey : rd64 (plainWrite s Reg.HUB_TINV_CTRL v) Fld.HUB_TINV_KEY_LO_KEY Fld.HUB_TINV_KEY_HI_KEY =
      rd64 s Fld.HUB_TINV_KEY_LO_KEY Fld.HUB_TINV_KEY_HI_KEY :=
    congrArg₂ (fun a b => a + 2 ^ 32 * b) (hrd (by decide)) (hrd (by decide))
  have hbusy := hrd (f := Fld.HUB_TINV_STATUS_BUSY) (by decide)
  intro key t
  refine ⟨fun h => ?_, fun hb hk => ?_⟩
  · have ht : t = flag (plainWrite s Reg.HUB_TINV_CTRL v) Fld.HUB_TINV_STATUS_IGNORED := tinvStart_ignored (by rwa [hbusy, hkey])
    rw [ht]
    exact ⟨rd_flag_same _ _ _ _ (by decide) (by decide), rfl⟩
  · have ht := tinvStart_begins (s := plainWrite s Reg.HUB_TINV_CTRL v) (kind := kind) (by rwa [hbusy]) (by rwa [hkey])
    have hr (f : Field) : rd t f = rd (wr (flag (plainWrite s Reg.HUB_TINV_CTRL v) Fld.HUB_TINV_STATUS_BUSY) Fld.HUB_TINV_STATUS_DONE 0) f :=
      rd_congr (congrArg State.regs ht) _ _ _
    refine ⟨(congrArg (fun u : State => u.kvm.tinv) ht).trans (congrArg (fun k => some (kind, k)) hkey), ?_, ?_⟩
    · rw [hr, rd_wr_other _ _ _ _ _ _ _ _ (by decide) (by decide)]
      exact rd_flag_same _ _ _ _ (by decide) (by decide)
    · rw [hr]
      exact rd_wr_same _ _ _ _ _ (by decide) (by decide)

/-- No line that an invalidation names stays in a leaf cache. -/
theorem leafCache_dropLines {s : State} {kind key : Nat} {e : Nat × List CachedLine} (he : e ∈ (dropLines s kind key).kvm.leafCache)
    {x : CachedLine} (hx : x ∈ e.2) : tinvHits kind key x = false := by
  obtain ⟨a, -, rfl⟩ := List.mem_map.1 (List.mem_of_mem_filter he)
  simpa using (List.mem_filter.1 hx).2

/-- Settles O22: loads and DMA by what each copies, an invalidation by its START and by the lines that it drops. -/
theorem completionsAndInvalidation : Obligations.CompletionsAndInvalidation := by
  unfold Obligations.CompletionsAndInvalidation
  refine ⟨fun s c index => ⟨exec_loadComplete_none, fun l hl => ⟨fun hd => ?_, fun hd => ?_⟩⟩,
    fun s c index ecc => ⟨exec_dmaComplete_none ecc, fun d hd hn => ⟨fun hm ho => ?_, fun hm ho hc => ?_, ?_⟩⟩,
    fun s who kind ho => ⟨exec_tinvStart_denied ho, fun hm => ⟨_, exec_tinvStart_allowed ho hm, ?_, ?_⟩⟩,
    fun s => ⟨exec_tinvDone_idle, fun kind key ht => ⟨exec_tinvDone_pending ht, fun hp => ⟨_, exec_tinvDone_drops ht hp, ?_⟩⟩⟩⟩
  · rw [exec_loadComplete_some hl, hd]
    rfl
  · rw [exec_loadComplete_some hl, if_pos hd]
    refine ⟨_, rfl, rfl, fun e he => cl_modCl_other _ _ he, ?_⟩
    rw [cl_modCl_same, cl_quiet]
    obtain ⟨hs, hv, hp⟩ := poison_writeLoaded { cl s c.val with loads := (cl s c.val).loads.filter (fun k => k.id ≠ l.id) } l.dst
      (loadBytes l).1 (loadBytes l).2
    have hfr := writeLoaded_frame { cl s c.val with loads := (cl s c.val).loads.filter (fun k => k.id ≠ l.id) } l.dst
      (loadBytes l).1 (loadBytes l).2
    have hloads := congrArg Cluster.loads hfr
    refine ⟨hloads, ?_, sregs_writeLoaded _ _ _ _, pregs_writeLoaded _ _ _ _, fun n h => ?_, fun n => vregs_writeLoaded_other _ _ _, hs, hv, hp⟩
    · rw [hloads]
      exact hfr
    · rw [h]
      exact KMap.get_set_same _ _ _ _
  · rw [exec_dmaComplete_some ecc hd, if_pos hm]
    exact congrArg Host.Outcome.next (finishDma_open (s := quiet s) ho)
  · rw [exec_dmaComplete_some ecc hd, if_pos hm]
    exact congrArg Host.Outcome.next (finishDma_uncounted (s := quiet s) (find?_of_nodup (g := (·.id)) hn (List.mem_of_getElem? hd)) ho hc)
  · intro i x j y hm ho hc hlen he hr hw hsep
    subst he
    have hline : 64 * (d.len / 64) = d.len := by omega
    refine ⟨_, exec_dmaComplete_moves (i := i) (x := x) (j := j) (y := y) hd hn hm ho hc fun k hk =>
      ⟨(hr k hk).1, (hr k hk).2, (hw k hk).1, (hw k hk).2⟩, dmaCopied_frame .., ?_, map_id_dmaCopied .., fun n => ?_⟩
    · rw [cl_dmaCopied]
    · have hb := get_copyLines s.mem (i := i) (x := x) (j := j) (y := y) (n := d.len / 64) (by rwa [hline]) n
      rwa [hline] at hb
  · rw [tinvStart_frame, plainWrite_frame]
    rfl
  · exact tinvStart_status (quiet s) _ kind.toNat
  · refine ⟨?_, fun e he x hx => ?_, fun p hp => hport_dropTables (quiet s) kind key hp, ?_, ?_⟩
    · rw [dropTables_frame]
      rfl
    · rw [dropTables_frame] at he
      exact leafCache_dropLines he hx
    · rw [rd_flag_other _ _ _ _ _ _ _ (by decide) (by decide)]
      exact rd_wr_same _ _ _ _ _ (by decide) (by decide)
    · exact rd_flag_same _ _ _ _ (by decide) (by decide)

end Sys2Proof.Machine
end

section
/-! SUPPORT. Faults of a wide word: the first is recorded, the others are overruns, and the core stops (R203 to R205). -/

namespace Sys2Proof.Machine

/-! CLU_FAULT and CLU_FAULT_PC -/

theorem rd_wr64_cl (s : State) (f lo hi : Field) (v c : Nat) (hl : lo.inWord) (hh : hi.inWord) (h1 : f.clApart lo) (h2 : f.clApart hi) :
    rd (wr64 s lo hi v c) f c = rd s f c :=
  rd_wr64_other s f lo hi v c 0 c 0 hl hh (h1.apart c) (h2.apart c)

theorem bitOf_lt (b : Bool) : bitOf b < 2 ^ 1 := by cases b <;> decide

/-- The fault that the registers of a cluster hold: its cause, slot and detail, deferred or precise, and its pc. -/
def FaultRecord (s : State) (c : Nat) (f : WordFault) (deferred pc : Nat) : Prop :=
  rd s Fld.CLU_FAULT_VALID c = 1 ∧ rd s Fld.CLU_FAULT_CAUSE c = f.cause ∧ rd s Fld.CLU_FAULT_SLOT c = f.slot ∧
  rd s Fld.CLU_FAULT_DETAIL c = f.detail ∧ rd s Fld.CLU_FAULT_DEFERRED c = deferred ∧
  rd64 s Fld.CLU_FAULT_PC_LO_PC Fld.CLU_FAULT_PC_HI_PC c = pc

/-- A fault whose parts have room in CLU_FAULT (Table 7.17). -/
def WordFault.Fits (f : WordFault) : Prop := f.cause < 256 ∧ f.slot < 8 ∧ f.detail < 256

/-- The fields of a fault's record. -/
def faultFields : List Field := [Fld.CLU_FAULT_VALID, Fld.CLU_FAULT_CAUSE, Fld.CLU_FAULT_SLOT, Fld.CLU_FAULT_DETAIL, Fld.CLU_FAULT_DEFERRED,
  Fld.CLU_FAULT_PC_LO_PC, Fld.CLU_FAULT_PC_HI_PC]

theorem FaultRecord.congr {s t : State} {c : Nat} {f : WordFault} {deferred pc : Nat} (h : FaultRecord s c f deferred pc)
    (hr : ∀ g ∈ faultFields, rd t g c = rd s g c) : FaultRecord t c f deferred pc := by
  simp only [faultFields, List.forall_mem_cons] at hr
  obtain ⟨hv, hc, hs, hd, he, hl, hh, -⟩ := hr
  unfold FaultRecord at h ⊢
  rw [hv, hc, hs, hd, he, show rd64 t Fld.CLU_FAULT_PC_LO_PC Fld.CLU_FAULT_PC_HI_PC c = _ from congrArg₂ (fun a b => a + 2 ^ 32 * b) hl hh]
  exact h

theorem recordFault_frame (s : State) (c : Nat) (f : WordFault) (b : Bool) (pc : Nat) :
    recordFault s c f b pc = { s with regs := (recordFault s c f b pc).regs } := by
  unfold recordFault
  split <;> rfl

/-- A fault is recorded where VALID is clear. -/
theorem faultRecord_recordFault {s : State} {c : Nat} {f : WordFault} (b : Bool) {pc : Nat} (hv : rd s Fld.CLU_FAULT_VALID c ≠ 1) (hf : f.Fits)
    (hp : pc < 2 ^ 64) : FaultRecord (recordFault s c f b pc) c f (bitOf b) pc := by
  obtain ⟨hc, hs, hd⟩ := hf
  unfold recordFault
  rw [if_neg hv]
  refine ⟨?_, ?_, ?_, ?_, ?_, rd64_wr64_same _ _ _ _ _ _ (by decide) (by decide) rfl hp ((by decide : Field.clApart _ _).apart c)⟩
  all_goals rw [rd_wr64_cl _ _ _ _ _ _ (by decide) (by decide) (by decide) (by decide)]
  · exact rd_flag_same _ _ _ _ (by decide) (by decide)
  · simp (disch := decide) only [rd_flag_cl, rd_wr_cl]
    exact rd_wr_same _ _ _ _ _ (by decide) hc
  · simp (disch := decide) only [rd_flag_cl, rd_wr_cl]
    exact rd_wr_same _ _ _ _ _ (by decide) hs
  · simp (disch := decide) only [rd_flag_cl, rd_wr_cl]
    exact rd_wr_same _ _ _ _ _ (by decide) hd
  · rw [rd_flag_cl _ _ _ _ (by decide) (by decide)]
    exact rd_wr_same _ _ _ _ _ (by decide) (bitOf_lt b)

theorem recordFault_overrun {s : State} {c : Nat} (f : WordFault) (b : Bool) (pc : Nat) (h : rd s Fld.CLU_FAULT_VALID c = 1) :
    recordFault s c f b pc = flag s Fld.CLU_FAULT_OVERRUN c := if_pos h

/-- The faults of a word, recorded one after another. -/
def recordFaults (s : State) (c : Nat) (fs : List (WordFault × Bool × Nat)) : State :=
  fs.foldl (fun s f => recordFault s c f.1 f.2.1 f.2.2) s

theorem recordFaults_frame (s : State) (c : Nat) (fs : List (WordFault × Bool × Nat)) :
    recordFaults s c fs = { s with regs := (recordFaults s c fs).regs } :=
  foldl_keeps (P := fun t => t = { s with regs := t.regs }) _ (fun t f h => by rw [recordFault_frame, h]) fs s rfl

/-- While VALID is set, further faults set OVERRUN and leave every other field. -/
theorem rd_recordFaults_valid {s : State} {c : Nat} (fs : List (WordFault × Bool × Nat)) (h : rd s Fld.CLU_FAULT_VALID c = 1) :
    (∀ g : Field, g.clApart Fld.CLU_FAULT_OVERRUN → rd (recordFaults s c fs) g c = rd s g c) ∧
    (fs ≠ [] ∨ rd s Fld.CLU_FAULT_OVERRUN c = 1 → rd (recordFaults s c fs) Fld.CLU_FAULT_OVERRUN c = 1) := by
  induction fs generalizing s with
  | nil => exact ⟨fun _ _ => rfl, fun h => h.resolve_left (absurd rfl)⟩
  | cons f fs ih =>
    have hv : rd (flag s Fld.CLU_FAULT_OVERRUN c) Fld.CLU_FAULT_VALID c = 1 := (rd_flag_cl _ _ _ _ (by decide) (by decide)).trans h
    obtain ⟨hg, ho⟩ := ih hv
    have hs : recordFaults s c (f :: fs) = recordFaults (flag s Fld.CLU_FAULT_OVERRUN c) c fs :=
      congrArg (fun t => recordFaults t c fs) (recordFault_overrun _ _ _ h)
    rw [hs]
    exact ⟨fun g hd => (hg g hd).trans (rd_flag_cl _ _ _ _ (by decide) hd),
      fun _ => ho (.inr (rd_flag_same _ _ _ _ (by decide) (by decide)))⟩

/-- Of several faults the first is recorded, and the others are an overrun. -/
theorem faultRecord_recordFaults {s : State} {c : Nat} {f : WordFault} {b : Bool} {pc : Nat} (fs : List (WordFault × Bool × Nat))
    (hv : rd s Fld.CLU_FAULT_VALID c ≠ 1) (hf : f.Fits) (hp : pc < 2 ^ 64) :
    FaultRecord (recordFaults s c ((f, b, pc) :: fs)) c f (bitOf b) pc ∧
    (fs ≠ [] → rd (recordFaults s c ((f, b, pc) :: fs)) Fld.CLU_FAULT_OVERRUN c = 1) := by
  have hrec := faultRecord_recordFault b hv hf hp
  obtain ⟨hg, ho⟩ := rd_recordFaults_valid fs hrec.1
  have hapart : ∀ g ∈ faultFields, g.clApart Fld.CLU_FAULT_OVERRUN := by decide
  exact ⟨hrec.congr fun g hm => hg g (hapart g hm), fun h => ho (.inl h)⟩

/-! The core stops -/

/-- A trace record of a cluster leaves the registers of the clusters. -/
theorem rd_launchTrace (s : State) (c type code : Nat) (l : Launch) {f : Field} (i : Nat) (hf : Reg.PWR_TRACE_LOST < f.base) :
    rd (launchTrace s c type code l) f i = rd s f i := by
  unfold launchTrace clusterTrace
  dsimp only
  split
  · exact rd_inc_other _ _ _ _ _ _ _ (by decide) (hubReg_apart i hf)
  · rfl

theorem launchTrace_frame (s : State) (c type code : Nat) (l : Launch) : launchTrace s c type code l =
    { s with regs := (launchTrace s c type code l).regs, pwr := (launchTrace s c type code l).pwr } := by
  unfold launchTrace
  rw [clusterTrace_frame]

/-- The running launch ends (R185). -/
def endedCore (x : Cluster) (l : Launch) (failed : Bool) : Cluster :=
  { x with running := none, lastHalt := !failed, ending := x.ending ++ [⟨x.launchNo, l, failed⟩] }

theorem endCore_running {s : State} {c : Nat} {l : Launch} (failed : Bool) (h : (cl s c).running = some l) :
    endCore s c failed = modCl (launchTrace s c 0x11 0 l) c (fun x => endedCore x l failed) := by
  unfold endCore
  rw [h]
  rfl

section Stop

variable {s : State} {c : Nat} {l : Launch} (hl : (cl s c).running = some l) (f : WordFault × Bool × Nat) (fs : List (WordFault × Bool × Nat))

/-- The faults recorded, with the trace record of the first and ERR. -/
def faultsShown (s : State) (c : Nat) (l : Launch) (f : WordFault × Bool × Nat) (fs : List (WordFault × Bool × Nat)) : State :=
  flag (launchTrace (recordFaults s c (f :: fs)) c 0x12 f.1.cause l) Fld.CLU_LSTAT_ERR c

theorem faultsShown_frame : faultsShown s c l f fs =
    { s with regs := (faultsShown s c l f fs).regs, pwr := (faultsShown s c l f fs).pwr } := by
  unfold faultsShown flag wr
  rw [launchTrace_frame, recordFaults_frame]

theorem cl_faultsShown (d : Nat) : cl (faultsShown s c l f fs) d = cl s d := by rw [faultsShown_frame]; rfl

include hl

theorem coreFault_eq : coreFault s c (f :: fs) = modCl (launchTrace (faultsShown s c l f fs) c 0x11 0 l) c (fun x => endedCore x l true) := by
  have hrun : (cl (recordFaults s c (f :: fs)) c).running = some l := by rw [recordFaults_frame]; exact hl
  rw [← endCore_running true (by rw [cl_faultsShown]; exact hl)]
  unfold recordFaults at hrun
  unfold coreFault faultsShown recordFaults
  simp only [hrun]

theorem cl_coreFault : cl (coreFault s c (f :: fs)) c = endedCore (cl s c) l true := by
  rw [coreFault_eq hl, cl_modCl_same, launchTrace_frame]
  exact congrArg (fun x => endedCore x l true) (cl_faultsShown f fs c)

theorem cl_coreFault_other {d : Nat} (hd : d ≠ c) : cl (coreFault s c (f :: fs)) d = cl s d := by
  rw [coreFault_eq hl, cl_modCl_other _ _ hd, launchTrace_frame]
  exact cl_faultsShown f fs d

theorem coreFault_frame : coreFault s c (f :: fs) =
    { s with regs := (coreFault s c (f :: fs)).regs, clu := (coreFault s c (f :: fs)).clu, pwr := (coreFault s c (f :: fs)).pwr } := by
  rw [coreFault_eq hl]
  unfold modCl setCl
  rw [launchTrace_frame, faultsShown_frame]

theorem rd_coreFault_err : rd (coreFault s c (f :: fs)) Fld.CLU_LSTAT_ERR c = 1 := by
  rw [coreFault_eq hl, rd_modCl, rd_launchTrace _ _ _ _ _ _ (by decide)]
  exact rd_flag_same _ _ _ _ (by decide) (by decide)

/-- A field of the cluster's block apart from ERR is as the records of the faults leave it. -/
theorem rd_coreFault {g : Field} (hg : g.clApart Fld.CLU_LSTAT_ERR) (hb : Reg.PWR_TRACE_LOST < g.base) :
    rd (coreFault s c (f :: fs)) g c = rd (recordFaults s c (f :: fs)) g c := by
  rw [coreFault_eq hl, rd_modCl, rd_launchTrace _ _ _ _ _ _ hb]
  exact (rd_flag_cl _ _ _ _ (by decide) hg).trans (rd_launchTrace _ _ _ _ _ _ hb)

/-- A core that stops at faults shows the first where CLU_FAULT was clear. -/
theorem faultRecord_coreFault (hv : rd s Fld.CLU_FAULT_VALID c = 0) (hf : f.1.Fits) (hp : f.2.2 < 2 ^ 64) :
    FaultRecord (coreFault s c (f :: fs)) c f.1 (bitOf f.2.1) f.2.2 ∧
    (fs ≠ [] → rd (coreFault s c (f :: fs)) Fld.CLU_FAULT_OVERRUN c = 1) := by
  obtain ⟨hrec, hover⟩ := faultRecord_recordFaults (f := f.1) (b := f.2.1) fs (by rw [hv]; decide) hf hp
  have hapart : ∀ g ∈ faultFields, g.clApart Fld.CLU_LSTAT_ERR ∧ Reg.PWR_TRACE_LOST < g.base := by decide
  exact ⟨hrec.congr fun g hm => rd_coreFault hl f fs (hapart g hm).1 (hapart g hm).2,
    fun h => (rd_coreFault hl f fs (by decide) (by decide)).trans (hover h)⟩

end Stop

/-! Faults of a word's fields -/

theorem illegal_fits {slot : Nat} (h : slot < 8) : (illegal slot).Fits :=
  ⟨(by decide : 1 < 256), h, (by decide : 0 < 256)⟩

theorem slotOf_fits {α : Type} (en : Bool) {slot : Nat} (bits : Nat) (dec : Nat → Option α) (h : slot < 8) :
    ∀ f ∈ (slotOf en slot bits dec).2, f.Fits := by
  have hone : ∀ f ∈ [illegal slot], f.Fits := List.forall_mem_singleton.2 (illegal_fits h)
  have hnil : ∀ f ∈ ([] : List WordFault), f.Fits := fun _ h => nomatch h
  unfold slotOf
  split
  · split <;> assumption
  · dsimp only
    split <;> assumption

theorem slotVec_fits (en : Bool) (bits : Nat) : ∀ f ∈ (slotVec en bits).2, f.Fits := by
  have hone : ∀ f ∈ [illegal 2], f.Fits := List.forall_mem_singleton.2 (illegal_fits (by decide))
  have hformat : ∀ f ∈ [(⟨0x02, 2, 0⟩ : WordFault)], f.Fits := List.forall_mem_singleton.2 ⟨by decide, by decide, by decide⟩
  have hnil : ∀ f ∈ ([] : List WordFault), f.Fits := fun _ h => nomatch h
  unfold slotVec
  dsimp only
  split
  · split
    · exact hone
    · split
      · exact hone
      · split <;> assumption
  · dsimp only
    split <;> assumption

theorem eq_of_mem_ite {α : Type} {p : Prop} [Decidable p] {a b : α} (h : a ∈ if p then [b] else []) : a = b := by
  split at h
  · exact List.mem_singleton.1 h
  · cases h

theorem writeFaults_fits : ∀ (l : List (Nat × Reg3)) (seen : List Reg3), (∀ e ∈ l, e.1 < 8) → ∀ f ∈ writeFaults l seen, f.Fits
  | [], _, _, _, hf => nomatch hf
  | (slot, r) :: l, seen, h, f, hf => by
    rw [List.forall_mem_cons] at h
    unfold writeFaults at hf
    obtain hf | hf := List.mem_append.1 hf
    · obtain rfl := eq_of_mem_ite hf
      exact illegal_fits h.1
    · exact writeFaults_fits l _ h.2 f hf

theorem slotWrites_slot (w : WideWord) : ∀ e ∈ w.slotWrites, e.1 < 8 := by
  have h (slot : Nat) (hs : slot < 8) (l : List Reg3) : ∀ e ∈ l.map (fun r => (slot, r)), e.1 < 8 :=
    List.forall_mem_map.2 fun _ _ => hs
  unfold WideWord.slotWrites
  simp only [List.forall_mem_append]
  exact ⟨⟨⟨⟨h 1 (by decide) _, h 2 (by decide) _⟩, h 4 (by decide) _⟩, h 5 (by decide) _⟩, h 6 (by decide) _⟩

/-- Every fault of a word's fields has room in CLU_FAULT. -/
theorem readWord_fits (w : Nat) : ∀ f ∈ (readWord w).2, f.Fits := by
  unfold readWord
  simp only [List.forall_mem_append]
  refine ⟨⟨⟨⟨⟨⟨⟨?_, slotOf_fits _ _ _ (by decide)⟩, slotVec_fits _ _⟩, slotOf_fits _ _ _ (by decide)⟩, slotOf_fits _ _ _ (by decide)⟩,
    slotOf_fits _ _ _ (by decide)⟩, slotOf_fits _ _ _ (by decide)⟩, writeFaults_fits _ _ (slotWrites_slot _)⟩
  intro f hf
  obtain rfl := eq_of_mem_ite hf
  exact illegal_fits (by decide)

end Sys2Proof.Machine
end

section
/-! SUPPORT. The fetch of a wide word, from the instruction cache and through the home slice, and what a word meets before it issues (R177,
R181, R182, R205). -/

namespace Sys2Proof.Machine

/-! The instruction cache (R182) -/

theorem cacheWay_congr {x y : Cluster} (h : y.icache = x.icache) (pc : Nat) : cacheWay y pc = cacheWay x pc := by
  unfold cacheWay
  rw [h]

theorem cacheWay_cachePut_same {x : Cluster} {pc : Nat} (w : BitVec 512) (h : cacheWay x pc = none) :
    cacheWay (cachePut x pc w) pc = some w := by
  have hnone : (KMap.get (fun _ => []) x.icache (pc / 64 % 256)).find? (fun e => e.1 = pc) = none := Option.map_eq_none_iff.1 h
  unfold cacheWay cachePut
  simp only [KMap.get_set_same, List.find?_append]
  split
  · rw [List.find?_eq_none.2 fun e he => List.find?_eq_none.1 hnone e (List.mem_of_mem_tail he)]
    simp
  · rw [hnone]
    simp

theorem cacheWay_cachePut_other (x : Cluster) {pc q : Nat} (w : BitVec 512) (h : q / 64 % 256 ≠ pc / 64 % 256) :
    cacheWay (cachePut x pc w) q = cacheWay x q := by
  unfold cacheWay cachePut
  simp only [KMap.get_set_other _ _ _ h]

/-- What a fetch may change of the machine. -/
def FetchKeeps (s t : State) : Prop := t = { s with regs := t.regs, mem := t.mem, clu := t.clu }

theorem FetchKeeps.trans {s t u : State} (h : FetchKeeps s t) (g : FetchKeeps t u) : FetchKeeps s u := by
  unfold FetchKeeps at *
  rw [g, h]

/-- A fetch that brings words into the core's instruction cache, but none into the set of one address. -/
structure CacheFilled (s t : State) (c pc : Nat) : Prop where
  frame : FetchKeeps s t
  core : cl t c = { cl s c with icache := (cl t c).icache }
  way : cacheWay (cl t c) pc = cacheWay (cl s c) pc

theorem CacheFilled.trans {s t u : State} {c pc : Nat} (h : CacheFilled s t c pc) (g : CacheFilled t u c pc) : CacheFilled s u c pc :=
  ⟨h.frame.trans g.frame, by rw [g.core, h.core], g.way.trans h.way⟩

theorem fetchKeeps_obtainLine (s : State) (off : Nat) : FetchKeeps s (obtainLine s off .clean).1 := by
  unfold FetchKeeps
  rw [obtainLine_clean_frame]

theorem fetchKeeps_modCl (s : State) (c : Nat) (f : Cluster → Cluster) : FetchKeeps s (modCl s c f) := rfl

theorem cl_obtainLine_clean (s : State) (off d : Nat) : cl (obtainLine s off .clean).1 d = cl s d := by rw [obtainLine_clean_frame]; rfl

theorem cacheFilled_obtainLine (s : State) (off c pc : Nat) : CacheFilled s (obtainLine s off .clean).1 c pc where
  frame := fetchKeeps_obtainLine s off
  core := by rw [cl_obtainLine_clean]
  way := by rw [cl_obtainLine_clean]

theorem cacheFilled_cachePut (s : State) (c : Nat) {pc q : Nat} (w : BitVec 512) (h : q / 64 % 256 ≠ pc / 64 % 256) :
    CacheFilled s (modCl s c (fun x => cachePut x pc w)) c q where
  frame := fetchKeeps_modCl s c _
  core := by rw [cl_modCl_same]; rfl
  way := by rw [cl_modCl_same, cacheWay_cachePut_other _ _ h]

/-- A prefetch leaves the other sets of the instruction cache. -/
theorem cacheFilled_prefetchWord (s : State) (c : Fin 152) {pc q : Nat} (h : q / 64 % 256 ≠ pc / 64 % 256) :
    CacheFilled s (prefetchWord s c pc) c.val q := by
  have hread := cacheFilled_obtainLine s (offOf (BitVec.ofNat 64 pc)) c.val q
  unfold prefetchWord
  dsimp only
  split
  · exact ⟨rfl, rfl, rfl⟩
  · split
    · exact hread
    · exact hread.trans (cacheFilled_cachePut _ _ _ h)

/-! The fetch (R181, R182, R203) -/

/-- The state once a word has come through its home slice, with the prefetch of the two after it. -/
def wordCached (s : State) (c : Fin 152) (pc : Nat) : State :=
  prefetchWord (prefetchWord (modCl (obtainLine s (offOf (BitVec.ofNat 64 pc)) .clean).1 c.val
    (fun x => cachePut x pc (peekLine s (offOf (BitVec.ofNat 64 pc))).1)) c (pc + 64)) c (pc + 128)

section Fetch

variable {s : State} {c : Fin 152} {pc : Nat}

theorem fetch_unfetchable (ecc : Ecc) (h : fetchable s pc = false) : fetch s c pc ecc = (s, .fault ⟨0x09, 7, 1⟩ false) := by
  unfold fetch
  rw [h]
  rfl

theorem fetch_cached {b : BitVec 512} (ecc : Ecc) (h : fetchable s pc = true) (hw : cacheWay (cl s c.val) pc = some b) :
    fetch s c pc ecc = (s, .word b.toNat) := by
  unfold fetch
  simp only [h, hw, Bool.not_true, Bool.false_eq_true, if_false]

variable (h : fetchable s pc = true) (hw : cacheWay (cl s c.val) pc = none) (ha : fetchAllowed s c pc = true)

include h hw ha

theorem fetch_held (ecc : Ecc) (hh : fetchHeld s pc = true) : fetch s c pc ecc = (s, .waits) := by
  unfold fetch
  simp only [h, hw, ha, hh, Bool.not_true, Bool.false_eq_true, if_false, if_true]

theorem fetch_miss (hh : fetchHeld s pc = false) (hp : (peekLine s (offOf (BitVec.ofNat 64 pc))).2 = false) :
    fetch s c pc .clean = (wordCached s c pc, .word (peekLine s (offOf (BitVec.ofNat 64 pc))).1.toNat) := by
  unfold fetch
  simp only [h, hw, ha, hh, Bool.not_true, Bool.false_eq_true, if_false, obtainLine_clean_snd, hp]
  rfl

end Fetch

/-- A word that misses enters the instruction cache, and nothing else of the core changes. -/
theorem wordCached_fills {s : State} {c : Fin 152} {pc : Nat} (hw : cacheWay (cl s c.val) pc = none) :
    FetchKeeps s (wordCached s c pc) ∧
    cl (wordCached s c pc) c.val = { cl s c.val with icache := (cl (wordCached s c pc) c.val).icache } ∧
    cacheWay (cl (wordCached s c pc) c.val) pc = some (peekLine s (offOf (BitVec.ofNat 64 pc))).1 := by
  have hpre (t : State) : CacheFilled t (prefetchWord (prefetchWord t c (pc + 64)) c (pc + 128)) c.val pc :=
    (cacheFilled_prefetchWord t c (by omega)).trans (cacheFilled_prefetchWord _ c (by omega))
  obtain ⟨hframe, hcore, hway⟩ := hpre (modCl (obtainLine s (offOf (BitVec.ofNat 64 pc)) .clean).1 c.val
    (fun x => cachePut x pc (peekLine s (offOf (BitVec.ofNat 64 pc))).1))
  rw [cl_modCl_same, cl_obtainLine_clean] at hcore hway
  exact ⟨((fetchKeeps_obtainLine s _).trans (fetchKeeps_modCl _ _ _)).trans hframe, hcore, hway.trans (cacheWay_cachePut_same _ hw)⟩

/-! What a word meets (R177, R180, R203) -/

/-- The faults of a word's operands: poison of a control use first. -/
def operandFaults (s : State) (c : Fin 152) (w : WideWord) : List WordFault :=
  if poisonFaults (cl s c.val) w ≠ [] then poisonFaults (cl s c.val) w else wordFaults s c (operandsOf s c.val) w

/-- A fault of the word at the pc itself. -/
def precise (pc : Nat) (f : WordFault) : WordFault × Bool × Nat := (f, false, pc)

section Meet

variable (s : State) {t : State} {c : Fin 152} {bits : Nat} (ecc : Ecc) (late : Bool) (remote : Option (BitVec 512))

theorem meetWord_illegal (h : (readWord bits).2 ≠ []) :
    meetWord s t c bits ecc late remote = coreFault t c.val ((readWord bits).2.map (precise (cl t c.val).pc)) := if_pos h

variable {w : WideWord} (hw : readWord bits = (w, []))

include hw

theorem meetWord_interlocked (h : interlocked (cl t c.val) w = true) : meetWord s t c bits ecc late remote = s := by
  unfold meetWord
  simp only [hw, ne_eq, not_true_eq_false, if_false, h, if_true]

variable (hi : interlocked (cl t c.val) w = false)

include hi

/-- A word that no register holds back waits for a queue or a fence, stops the core, or issues. -/
theorem meetWord_free : meetWord s t c bits ecc late remote =
    if operandFaults t c w = [] ∧ wordWaits t c (operandsOf t c.val) w = true then s
    else if (cl t c.val).deferred ≠ [] then
      coreFault (modCl t c.val (fun x => { x with deferred := [] })) c.val
        ((cl t c.val).deferred.map Deferred.fault ++ (operandFaults t c w).map (precise (cl t c.val).pc))
    else if operandFaults t c w ≠ [] then coreFault t c.val ((operandFaults t c w).map (precise (cl t c.val).pc))
    else issue t c w ecc late remote := by
  unfold meetWord
  simp only [hw, ne_eq, not_true_eq_false, if_false, hi, Bool.false_eq_true]
  rfl

theorem meetWord_waits (hf : operandFaults t c w = []) (hq : wordWaits t c (operandsOf t c.val) w = true) :
    meetWord s t c bits ecc late remote = s :=
  (meetWord_free s ecc late remote hw hi).trans (if_pos ⟨hf, hq⟩)

theorem meetWord_faults {f : WordFault} {fs : List WordFault} (hd : (cl t c.val).deferred = []) (hf : operandFaults t c w = f :: fs) :
    meetWord s t c bits ecc late remote = coreFault t c.val ((f :: fs).map (precise (cl t c.val).pc)) := by
  rw [meetWord_free s ecc late remote hw hi, hf, hd, if_neg (by simp), if_neg (by simp), if_pos (by simp)]

theorem meetWord_deferred {d : Deferred} {ds : List Deferred} (hd : (cl t c.val).deferred = d :: ds)
    (hq : wordWaits t c (operandsOf t c.val) w = false) : meetWord s t c bits ecc late remote =
      coreFault (modCl t c.val (fun x => { x with deferred := [] })) c.val
        ((d :: ds).map Deferred.fault ++ (operandFaults t c w).map (precise (cl t c.val).pc)) := by
  rw [meetWord_free s ecc late remote hw hi, hq, hd, if_neg (by simp), if_pos (by simp)]

theorem meetWord_issues (hd : (cl t c.val).deferred = []) (hf : operandFaults t c w = [])
    (hq : wordWaits t c (operandsOf t c.val) w = false) : meetWord s t c bits ecc late remote = issue t c w ecc late remote := by
  rw [meetWord_free s ecc late remote hw hi, hf, hd, hq, if_neg (by simp), if_neg (by simp), if_neg (by simp)]

end Meet

/-! The word with no slot enabled -/

abbrev emptyWord : WideWord := ⟨none, none, none, none, none, none⟩

/-- It meets nothing, and its issue advances the pc. -/
theorem meetWord_empty (s : State) {t : State} {c : Fin 152} {bits : Nat} (ecc : Ecc) (late : Bool) (remote : Option (BitVec 512))
    (hw : readWord bits = (emptyWord, [])) (hd : (cl t c.val).deferred = []) : meetWord s t c bits ecc late remote =
      modCl t c.val (fun x => { x with pc := (x.pc + 64) % 2 ^ 64 }) :=
  meetWord_issues s ecc late remote hw rfl hd rfl rfl

/-! WORD_ISSUE -/

section Issue

variable {s t : State} {c : Fin 152} {fe : Ecc} (de : Ecc) (late : Bool) (remote : Option (BitVec 512))

theorem exec_wordIssue_idle (h : coreRuns s c.val = false) : exec (.wordIssue c fe de late remote) s = .next (quiet s) := by
  have h' : coreRuns (quiet s) c.val = false := h
  show execWordIssue c fe de late remote s = _
  unfold execWordIssue
  simp only [h', Bool.not_false, if_true]

variable (hr : coreRuns s c.val = true)

include hr

theorem exec_wordIssue_waits (hf : fetch (quiet s) c (cl s c.val).pc fe = (t, .waits)) :
    exec (.wordIssue c fe de late remote) s = .next (quiet s) := by
  have hr' : coreRuns (quiet s) c.val = true := hr
  show execWordIssue c fe de late remote s = _
  unfold execWordIssue
  simp only [hr', Bool.not_true, Bool.false_eq_true, if_false, cl_quiet, hf]

theorem exec_wordIssue_fault {f : WordFault} {deferred : Bool} (hf : fetch (quiet s) c (cl s c.val).pc fe = (t, .fault f deferred)) :
    exec (.wordIssue c fe de late remote) s = .next (coreFault t c.val [(f, deferred, (cl s c.val).pc)]) := by
  have hr' : coreRuns (quiet s) c.val = true := hr
  show execWordIssue c fe de late remote s = _
  unfold execWordIssue
  simp only [hr', Bool.not_true, Bool.false_eq_true, if_false, cl_quiet, hf]

theorem exec_wordIssue_word {w : Nat} (hf : fetch (quiet s) c (cl s c.val).pc fe = (t, .word w)) :
    exec (.wordIssue c fe de late remote) s = .next (meetWord (quiet s) t c w de late remote) := by
  have hr' : coreRuns (quiet s) c.val = true := hr
  show execWordIssue c fe de late remote s = _
  unfold execWordIssue
  simp only [hr', Bool.not_true, Bool.false_eq_true, if_false, cl_quiet, hf]

end Issue

end Sys2Proof.Machine
end

section
/-! PROOFS. Faults and waits of a wide word, and the fetch of a word that misses (O23). -/

namespace Sys2Proof.Machine

/-- The core has stopped, with ERR: its launch ended in failure, and nothing else changed but records. -/
def CoreStopped (s t : State) (c : Nat) (l : Launch) : Prop :=
  t = { s with out := [], regs := t.regs, clu := t.clu, pwr := t.pwr } ∧ rd t Fld.CLU_LSTAT_ERR c = 1 ∧ (cl t c).running = none ∧
  (cl t c).lastHalt = false ∧ (cl t c).ending = (cl s c).ending ++ [⟨(cl s c).launchNo, l, true⟩] ∧ ∀ d, d ≠ c → cl t d = cl s d

section Stop

variable {s : State} {c : Nat} {l : Launch} (hl : (cl s c).running = some l)

include hl

theorem coreStopped_coreFault (f : WordFault × Bool × Nat) (fs : List (WordFault × Bool × Nat)) :
    CoreStopped s (coreFault (quiet s) c (f :: fs)) c l := by
  have hq : (cl (quiet s) c).running = some l := hl
  have hcl := cl_coreFault hq f fs
  refine ⟨coreFault_frame hq f fs, rd_coreFault_err hq f fs, ?_, ?_, ?_, fun d hd => cl_coreFault_other hq f fs hd⟩ <;> rw [hcl] <;> rfl

/-- Where the reported faults were deferred, none is left. -/
theorem coreStopped_deferred (f : WordFault × Bool × Nat) (fs : List (WordFault × Bool × Nat)) :
    CoreStopped s (coreFault (modCl (quiet s) c (fun x => { x with deferred := [] })) c (f :: fs)) c l ∧
    (cl (coreFault (modCl (quiet s) c (fun x => { x with deferred := [] })) c (f :: fs)) c).deferred = [] := by
  have hsame : cl (modCl (quiet s) c (fun x => { x with deferred := [] })) c = { cl s c with deferred := [] } := cl_modCl_same _ _ _
  have hq : (cl (modCl (quiet s) c (fun x => { x with deferred := [] })) c).running = some l := (congrArg Cluster.running hsame).trans hl
  have hcl := (cl_coreFault hq f fs).trans (congrArg (fun x => endedCore x l true) hsame)
  refine ⟨⟨coreFault_frame hq f fs, rd_coreFault_err hq f fs, ?_, ?_, ?_, fun d hd => ?_⟩, ?_⟩
  · rw [hcl]; rfl
  · rw [hcl]; rfl
  · rw [hcl]; rfl
  · exact (cl_coreFault_other hq f fs hd).trans (cl_modCl_other _ _ hd)
  · rw [hcl]; rfl

/-- A single fault where CLU_FAULT holds one already is an overrun. -/
theorem coreFault_overrun (f : WordFault × Bool × Nat) (hv : rd s Fld.CLU_FAULT_VALID c = 1) :
    rd (coreFault s c [f]) Fld.CLU_FAULT_OVERRUN c = 1 ∧ rd (coreFault s c [f]) Fld.CLU_FAULT_CAUSE c = rd s Fld.CLU_FAULT_CAUSE c := by
  obtain ⟨hg, ho⟩ := rd_recordFaults_valid [f] hv
  exact ⟨(rd_coreFault hl f [] (by decide) (by decide)).trans (ho (.inl (List.cons_ne_nil _ _))),
    (rd_coreFault hl f [] (by decide) (by decide)).trans (hg _ (by decide))⟩

end Stop

section Cached

variable {s : State} {c : Fin 152} {fe : Ecc} (de : Ecc) (late : Bool) (remote : Option (BitVec 512)) {b : BitVec 512} {w : WideWord}
  (hr : coreRuns s c.val = true) (hf : fetchable s (cl s c.val).pc = true) (hc : cacheWay (cl s c.val) (cl s c.val).pc = some b)

include hr hf hc

theorem exec_wordIssue_cached : exec (.wordIssue c fe de late remote) s = .next (meetWord (quiet s) (quiet s) c b.toNat de late remote) :=
  exec_wordIssue_word de late remote hr (fetch_cached (s := quiet s) fe hf hc)

theorem exec_wordIssue_illegal {f : WordFault} {fs : List WordFault} (h : (readWord b.toNat).2 = f :: fs) :
    exec (.wordIssue c fe de late remote) s =
      .next (coreFault (quiet s) c.val (precise (cl s c.val).pc f :: fs.map (precise (cl s c.val).pc))) := by
  rw [exec_wordIssue_cached de late remote hr hf hc, meetWord_illegal _ _ _ _ (by rw [h]; exact List.cons_ne_nil _ _), h]
  rfl

variable (hb : readWord b.toNat = (w, []))

include hb

theorem exec_wordIssue_interlocked (hi : interlocked (cl s c.val) w = true) : exec (.wordIssue c fe de late remote) s = .next (quiet s) := by
  rw [exec_wordIssue_cached de late remote hr hf hc, meetWord_interlocked (t := quiet s) _ _ _ _ hb hi]

variable (hi : interlocked (cl s c.val) w = false)

include hi

theorem exec_wordIssue_queued (hp : poisonFaults (cl s c.val) w = []) (hw : wordFaults s c (operandsOf s c.val) w = [])
    (hq : wordWaits s c (operandsOf s c.val) w = true) : exec (.wordIssue c fe de late remote) s = .next (quiet s) := by
  have hfs : operandFaults (quiet s) c w = [] := (if_neg (not_not.2 hp)).trans hw
  rw [exec_wordIssue_cached de late remote hr hf hc, meetWord_waits (t := quiet s) _ _ _ _ hb hi hfs hq]

theorem exec_wordIssue_faults {f : WordFault} {fs : List WordFault} (hd : (cl s c.val).deferred = []) (h : operandFaults s c w = f :: fs) :
    exec (.wordIssue c fe de late remote) s =
      .next (coreFault (quiet s) c.val (precise (cl s c.val).pc f :: fs.map (precise (cl s c.val).pc))) := by
  have hfs : operandFaults (quiet s) c w = f :: fs := h
  rw [exec_wordIssue_cached de late remote hr hf hc, meetWord_faults (t := quiet s) _ _ _ _ hb hi hd hfs]
  rfl

theorem exec_wordIssue_deferred {d : Deferred} {ds : List Deferred} (hd : (cl s c.val).deferred = d :: ds)
    (hq : wordWaits s c (operandsOf s c.val) w = false) : exec (.wordIssue c fe de late remote) s =
      .next (coreFault (modCl (quiet s) c.val (fun x => { x with deferred := [] })) c.val
        (d.fault :: (ds.map Deferred.fault ++ (operandFaults s c w).map (precise (cl s c.val).pc)))) := by
  rw [exec_wordIssue_cached de late remote hr hf hc, meetWord_deferred (t := quiet s) _ _ _ _ hb hi hd hq]
  rfl

end Cached

/-- The state once a word with no slot enabled has been fetched and issued. -/
def wordPassed (s : State) (c : Fin 152) : State :=
  modCl (wordCached s c (cl s c.val).pc) c.val (fun x => { x with pc := (x.pc + 64) % 2 ^ 64 })

theorem wordPassed_fetched {s : State} {c : Fin 152} (hw : cacheWay (cl s c.val) (cl s c.val).pc = none) :
    FetchKeeps s (wordPassed s c) ∧ (cl (wordPassed s c) c.val).pc = ((cl s c.val).pc + 64) % 2 ^ 64 ∧
    cacheWay (cl (wordPassed s c) c.val) (cl s c.val).pc = some (peekLine s (offOf (BitVec.ofNat 64 (cl s c.val).pc))).1 := by
  obtain ⟨hframe, hcore, hway⟩ := wordCached_fills hw
  have hcl : cl (wordPassed s c) c.val = { cl (wordCached s c (cl s c.val).pc) c.val with
      pc := ((cl (wordCached s c (cl s c.val).pc) c.val).pc + 64) % 2 ^ 64 } := cl_modCl_same _ _ _
  refine ⟨hframe.trans (fetchKeeps_modCl _ _ _), ?_, ?_⟩
  · rw [hcl, hcore]
  · have hic : (cl (wordPassed s c) c.val).icache = (cl (wordCached s c (cl s c.val).pc) c.val).icache := by rw [hcl]
    exact (cacheWay_congr hic _).trans hway

theorem exec_wordIssue_passes {s : State} {c : Fin 152} (de : Ecc) (late : Bool) (remote : Option (BitVec 512)) (hr : coreRuns s c.val = true)
    (hf : fetchable s (cl s c.val).pc = true) (hw : cacheWay (cl s c.val) (cl s c.val).pc = none)
    (ha : fetchAllowed s c (cl s c.val).pc = true) (hh : fetchHeld s (cl s c.val).pc = false) (hd : (cl s c.val).deferred = [])
    (hp : (peekLine s (offOf (BitVec.ofNat 64 (cl s c.val).pc))).2 = false)
    (hb : readWord (peekLine s (offOf (BitVec.ofNat 64 (cl s c.val).pc))).1.toNat = (emptyWord, [])) :
    exec (.wordIssue c .clean de late remote) s = .next (wordPassed (quiet s) c) := by
  obtain ⟨-, hcore, -⟩ := wordCached_fills (s := quiet s) hw
  have hd' : (cl (wordCached (quiet s) c (cl s c.val).pc) c.val).deferred = [] := by
    rw [hcore]
    exact hd
  rw [exec_wordIssue_word de late remote hr (fetch_miss (s := quiet s) hf hw ha hh hp)]
  exact congrArg Host.Outcome.next (meetWord_empty (quiet s) de late remote hb hd')

/-- Settles O23: a fetch by where its word stands, a cached word by what it meets first. -/
theorem wordFaultsAndWaits : Obligations.WordFaultsAndWaits := by
  unfold Obligations.WordFaultsAndWaits
  intro s c fe de late remote x run stops records
  refine ⟨exec_wordIssue_idle de late remote, fun l hr hl => ⟨fun hf => ?_, fun b hf hw => ⟨fun f fs hfs => ?_, fun w hb =>
    ⟨exec_wordIssue_interlocked de late remote hr hf hw hb, exec_wordIssue_queued de late remote hr hf hw hb,
      fun f fs hi hd hfs => ?_, fun d ds hi hd hq => ?_⟩⟩,
    fun hf hw ha hh => exec_wordIssue_waits de late remote hr (fetch_held (s := quiet s) hf hw ha fe hh),
    fun hf hw ha hh he hd hp hb => ?_⟩⟩
  · refine ⟨_, exec_wordIssue_fault de late remote hr (fetch_unfetchable (s := quiet s) fe hf), coreStopped_coreFault hl _ _,
      fun hv hpc => ?_, coreFault_overrun (s := quiet s) hl _⟩
    have hfit : WordFault.Fits ⟨9, 7, 1⟩ := ⟨by decide, by decide, by decide⟩
    exact (faultRecord_coreFault (s := quiet s) hl (⟨9, 7, 1⟩, false, x.pc) [] hv hfit hpc).1
  · have hfit : f.Fits := readWord_fits b.toNat f (by rw [hfs]; exact List.mem_cons_self)
    refine ⟨_, exec_wordIssue_illegal de late remote hr hf hw hfs, coreStopped_coreFault hl _ _, fun hv hpc => ?_⟩
    obtain ⟨hrec, hover⟩ := faultRecord_coreFault (s := quiet s) hl (precise x.pc f) (fs.map (precise x.pc)) hv hfit hpc
    exact ⟨hrec, fun h => hover (by simpa using h)⟩
  · refine ⟨_, exec_wordIssue_faults de late remote hr hf hw hb hi hd hfs, coreStopped_coreFault hl _ _, fun hv hpc hc hs hdt => ?_⟩
    exact (faultRecord_coreFault (s := quiet s) hl (precise x.pc f) (fs.map (precise x.pc)) hv ⟨hc, hs, hdt⟩ hpc).1
  · obtain ⟨hstop, hnone⟩ := coreStopped_deferred hl d.fault (ds.map Deferred.fault ++ (operandFaults s c w).map (precise x.pc))
    refine ⟨_, exec_wordIssue_deferred de late remote hr hf hw hb hi hd hq, hstop, hnone, fun hv hpc hc hs hdt => ?_⟩
    exact (faultRecord_coreFault (s := modCl (quiet s) c.val (fun x => { x with deferred := [] })) (by rw [cl_modCl_same]; exact hl)
      d.fault _ hv ⟨hc, hs, hdt⟩ hpc).1
  · subst he
    exact ⟨_, exec_wordIssue_passes de late remote hr hf hw ha hh hd hp hb, wordPassed_fetched (s := quiet s) hw⟩

end Sys2Proof.Machine
end
